-- ==== Sys2Proof/Word.lean ====
section
/-! DEFINITION. The machine's words (R5, R6): bytes, 32-bit register words, 64-bit virtual addresses, and the
conversions between a list of bytes and a little-endian number. -/

namespace Sys2Proof

/-- A byte (R6). -/
abbrev Byte := BitVec 8

/-- A register word (R6). -/
abbrev Word := BitVec 32

/-- A virtual address as a register pair holds it (R5, R137). -/
abbrev VAddr := BitVec 64

/-- Bits `hi` down to `lo` of a number (R5's `field[hi:lo]`). -/
def bits (x hi lo : Nat) : Nat := x / 2 ^ lo % 2 ^ (hi + 1 - lo)

/-- Bit `n` of a number (R5's `field[n]`). -/
def bit (x n : Nat) : Bool := x / 2 ^ n % 2 == 1

/-- 1 for true, 0 for false. -/
def ofBool (b : Bool) : Nat := if b then 1 else 0

end Sys2Proof
end

