-- ==== Sys2Proof/Machine/Parts.lean ====
section
/-! DEFINITION. The pieces of which the machine's state, a saved block and a Neutral State Image consist (R2, R379, R408), and the plain data that they
share with the packets. -/

namespace Sys2Proof

/-- The operations of the atomic units (R150, R200). -/
inductive AtomOp
  | add | exch | cas | minS | maxS | minZ | maxZ | and | or | fadd | fadd2c
  deriving DecidableEq, Repr

/-- A group of another device, or of this one, as a lock entry names it (R280). -/
structure GroupRef where
  dev : Nat
  bid : Nat
  grp : Nat
  deriving DecidableEq, Repr

/-- What a non-posted request asks of the peer home (R138, R200, R293). -/
inductive PeerOp
  /-- a load of `n` bytes -/
  | ld (n : Nat)
  /-- an atomic of `n` bytes with its operand and comparand -/
  | atom (op : AtomOp) (n : Nat) (b c : Nat)
  /-- a line-lock request of a group, with its timeout class, its `%blk` and the address that it names (R293, R295) -/
  | llock (g : GroupRef) (cls blk : Nat) (va : VAddr)
  | ltry (g : GroupRef) (blk : Nat) (va : VAddr)
  /-- a release, or a group's leave of the queue; of a lost holder or not (R292) -/
  | lunlock (g : GroupRef) (lost : Bool)
  /-- a group that waits or holds is switched out, or back: the latest number counts (R290, R291, log entry 85) -/
  | presence (g : GroupRef) (n : Nat) (there : Bool)
  /-- a read of the line's waiter count -/
  | lstat
  deriving DecidableEq, Repr

/-- How a peer home answers a non-posted request (R200, R310). -/
inductive Answer
  /-- performed, with the value returned and its bytes -/
  | done (n v : Nat)
  /-- a line lock is granted: its status bits, and the line's bytes (R158, R293) -/
  | grant (status : BitVec 4) (line : List Byte)
  /-- the line's check bits fail: the launch that made the access is killed (R433, log entry 113) -/
  | poisoned
  /-- refused by translation, permission or the firewall -/
  | refused
  /-- an `ltry` or `llock` that does not hold the line, with its status bits (R156) -/
  | denied (status : BitVec 4)
  /-- an `llock` has joined the line's queue: its answer comes later (R293, log entry 85) -/
  | queued
  deriving DecidableEq, Repr

/-- The key of an arrival entry at a receiving function (R303). -/
structure EpochKey where
  f : Nat
  svdn : Nat
  win : Nat
  inc : Nat
  epoch : Nat
  deriving DecidableEq, Repr

/-- A pair of functions that shares a link key (R424): own function, peer device and function, world handle (0 for none). -/
structure LinkKey where
  f : Nat
  dev : Nat
  fun' : Nat
  handle : Nat
  deriving DecidableEq, Repr

end Sys2Proof

namespace Sys2Proof.Machine

/-- A sparse table: (key, value) pairs with strictly rising keys. -/
abbrev Tab (α : Type) := List (Nat × α)

/-- Memory: bytes by address (R64, R231). -/
abbrev Memory := List Host.Cell

/-- The trap causes, numbered by R205. -/
inductive Cause
  | illegalOp | regRange | misaligned | xlateS1 | xlateS2 | accessDenied | codeAbsent | lockOrder | lockLimit
  | lockHoldExpired | lockNotHeld | lockDivergent | slotNotClaimed | tileRange | gangMismatch | sparseMeta | windowFull
  | windowState | fabricLoss | fabricTimeout | vdnInvalid | redundantFail | breakpoint | sysPriv | watchdog
  deriving DecidableEq, Repr

/-- A thread by its resident block and its `%tid`. -/
structure ThreadKey where
  bid : Nat
  tid : Nat
  deriving DecidableEq, Repr

/-- What a thread's trap leaves for `trd` and `tret` (R205, R371). Cause 0 before the first trap. -/
structure TrapFrame where
  cause : Nat
  pc : VAddr
  resume : VAddr
  addr : VAddr
  aux : Word
  deriving DecidableEq, Repr

/-- A deferred trap held pending (R370, R371, R380). -/
structure DefTrap where
  cause : Nat
  addr : VAddr
  aux : Word
  deriving DecidableEq, Repr

/-- A release by a thread (R256): what it had issued below a number, and its group's store-queue entries below it, come first. -/
structure Arriver where
  bid : Nat
  grp : Nat
  tid : Nat
  before : Nat
  deriving DecidableEq, Repr

/-- Why a thread is not ready apart from its next instruction's own conditions (R74). -/
inductive Wait
  | none
  /-- in the delay of `yield` until a cycle (R101) -/
  | yielding (till : Nat)
  /-- at a barrier register, or released from it and not yet issued (R167) -/
  | bar (b : Nat)
  | hbar (level inst idx : Nat)
  /-- released: what the arrivals released comes first (R167, R169, R256) -/
  | released (after : List Arriver)
  /-- a spawned thread before its first instruction: what its `spawn` released comes first (R108), and the cycle in which its group was created is
  over (R219) -/
  | spawned (after : Arriver) (since : Nat)
  /-- behind an acquire or full fence: every access with a lower number first; drop leases at the end (R154, R240) -/
  | fence (before : Nat) (queue dropLeases : Bool)
  /-- queued for register blocks on its lane (R105) -/
  | regacq
  /-- its group waits for a line (R158), or for its `lunlock` to be performed (R160) -/
  | lock
  | unlock
  /-- at the gang latch (R187), or behind an `mma` whose metadata is still to be checked (R186) -/
  | gang
  | sparse
  /-- its compare entry waits for the twin's (R317) -/
  | compare
  /-- its `cinv.c` is under way (R207) -/
  | pause
  /-- released by the compare buffer: the instruction may take effect -/
  | matched
  deriving DecidableEq, Repr

/-- What a checkpoint saves of a thread (R202, R319). -/
structure Snapshot where
  pc : VAddr
  regs : Tab Word
  nb : Nat
  wb : Nat
  preds : BitVec 7
  flags : BitVec 5
  /-- an arrival of `bar.sync` that has been made (R168, log entry 95) -/
  syncTok : Option (Nat × Bool)
  deriving DecidableEq, Repr

/-- A forwarded result in a trailing thread's part of the load-value queue (R316). -/
structure LvqEntry where
  id : Nat
  /-- the kind and size of the instruction that forwarded it -/
  kind : Nat × Nat
  filled : Bool
  vals : List Word
  pred : Bool
  /-- the trap that the leader's operation raised, delivered to both (R315) -/
  trap : Option DefTrap
  arrived : Bool
  deriving DecidableEq, Repr

/-- A resident thread (R73, R209, R380). -/
structure Thread where
  bid : Nat
  grp : Nat
  tid : Nat
  lane : Nat
  pc : VAddr
  /-- allocated registers by absolute index: vN is number 16·wb + N (R24) -/
  regs : Tab Word
  nb : Nat
  wb : Nat
  /-- p0 to p6; p7 reads true (R25) -/
  preds : BitVec 7
  /-- NV, DZ, OF, UF, NX from bit 4 to bit 0 (R60) -/
  flags : BitVec 5
  age : Nat
  /-- interlocked registers by absolute index, and predicates (R83) -/
  busy : List Nat
  busyP : List Nat
  wait : Wait
  /-- a release fence's gate on the thread's later stores: accesses numbered below (R154) -/
  gate : Option Nat
  /-- the token of a `bar.sync` whose arrival is already counted (R165, log entry 12) -/
  syncTok : Option (Nat × Bool)
  /-- the record of a `spawn` that waits and has been counted as a stall: PC, entry and arguments (R220) -/
  stalled : Option (VAddr × VAddr × Word × Word)
  frame : TrapFrame
  inHandler : Bool
  deferred : List DefTrap
  overflow : Bool
  /-- the instructions it has issued (R317) -/
  icount : Nat
  /-- its state at its group's creation, and its latest snapshot (R202) -/
  born : Snapshot
  snapshot : Option Snapshot
  lvq : List LvqEntry
  /-- the operand words its compare entry signs (R317) -/
  sig : List Nat
  sigAt : Nat
  /-- the number of the issue that made the compare entry, and whether it is an implicit checkpoint's (R317, R319) -/
  sigId : Nat
  sigImp : Bool
  /-- the position of the entry in its group's order (R317) -/
  sigPos : Nat
  /-- how the leader's performance of the matched instruction without a result ended: its issue, and its trap (R315) -/
  outcome : Option (Nat × Option DefTrap)
  deriving DecidableEq, Repr

/-- What translates and tags an access: the core whose TLB it uses, the function, the stage-1 root and ASID that the launch
keeps (R357), the world tag (R365), and the block with its scratchpad size. -/
structure Env where
  core : Nat
  f : Nat
  root : Nat
  asid : Nat
  tag : Nat
  bid : Nat
  share : Nat
  deriving DecidableEq, Repr

/-- Where an address leads (R137, R356). -/
inductive Target
  | scratch (off : Nat)
  | loc (pa : Nat)
  | peer (vdn ipa : Nat)
  | host (ha : Nat)
  | notify (f off : Nat)
  deriving DecidableEq, Repr

/-- What a store-queue entry does when it is performed (R148, R150, R179). -/
inductive QKind
  | store (data : List Byte)
  /-- an update: operation, size, operand, comparand; the result registers of an atomic by absolute index -/
  | update (op : AtomOp) (n b c : Nat) (dst : List Nat)
  /-- the record update of `cp.bin`: row source, result register, the PC that issued it, and the group's binding (R182) -/
  | bin (row : VAddr) (dst : Nat) (pc : VAddr) (bind : Option Nat)
  deriving DecidableEq, Repr

/-- An entry of a group's store queue, with the access number, the issue it counts for, its thread and its target; whether it
is a release store (R144), and whether its peer request is on its way. -/
structure QEntry where
  rel : Bool
  sent : Bool
  id : Nat
  tok : Nat
  tid : Nat
  ea : VAddr
  tgt : Target
  ty : BitVec 2
  kind : QKind
  deriving DecidableEq, Repr

/-- A load in flight (R83, R141, R156): size, sign extension, destination registers by absolute index. -/
inductive LoadKind
  | ld | ldc | lstat
  deriving DecidableEq, Repr

structure Load where
  id : Nat
  tok : Nat
  bid : Nat
  grp : Nat
  tid : Nat
  ea : VAddr
  tgt : Target
  n : Nat
  signed : Bool
  dst : List Nat
  ty : BitVec 2
  acq : Bool
  kind : LoadKind
  /-- an atomic or reduction of its group's queue writes one of its bytes: it reads at the home, not from a lease (R148) -/
  home : Bool
  deriving DecidableEq, Repr

/-- An outstanding non-posted request (R310). `dst`: result registers by absolute index; `pred`: the result predicate; `acq`: it is
an acquire load (R144); `handle`: its launch's key handle (R424); `done`: the record whose completion store it is (R346). Block 0:
no thread waits for it. -/
structure NonPosted where
  id : Nat
  tok : Nat
  f : Nat
  vdn : Nat
  seq : Nat
  bid : Nat
  grp : Nat
  tid : Nat
  va : VAddr
  ipa : Nat
  op : PeerOp
  dst : List Nat
  signed : Nat
  pred : Option Nat
  acq : Bool
  handle : Nat
  done : Option Nat
  deadline : Nat
  tries : Nat
  /-- it has issued, with its number, and leaves once the accesses that come before it are performed (R143, R144, R253) -/
  pent : Bool
  deriving DecidableEq, Repr

/-- A non-posted request for which no thread waits, until the issue limit lets it go (R310). -/
structure Want where
  /-- its translation is as old as this access number (R362) -/
  id : Nat
  handle : Nat
  f : Nat
  vdn : Nat
  ipa : Nat
  op : PeerOp
  done : Option Nat
  /-- block and group of an ended block whose outstanding accesses come first (R259) -/
  after : Option (Nat × Nat)
  deriving DecidableEq, Repr

/-- A line a group holds: virtual and physical address, or the VDN of a peer-homed one (R156, R280). -/
structure Held where
  va : VAddr
  tgt : Target
  deriving DecidableEq, Repr

/-- A group's `llock` or `ltry` on its way to the home or queued there (R158, R282); `id` numbers its issue (R283). -/
structure LockReq where
  id : Nat
  va : VAddr
  tgt : Target
  tri : Bool
  cls : Nat
  pred : Nat
  queued : Bool
  members : List Nat
  deriving DecidableEq, Repr

/-- A `lunlock` that has issued and waits for the accesses numbered below `before` (R160). -/
structure Unlocking where
  va : VAddr
  tgt : Target
  before : Nat
  sent : Bool
  deriving DecidableEq, Repr

/-- The dequant and trap configuration of a group (R188). -/
structure Pcfg where
  s : VAddr
  z : VAddr
  g128 : Bool
  fp8Scales : Bool
  sparseTrap : Bool
  bSlot : Nat
  pitchS : Nat
  pitchZ : Nat
  deriving DecidableEq, Repr

/-- What a matrix command is (R185 to R192). -/
inductive MatKind
  | fill (slot : Nat) (desc : List Word)
  | fillDq (slot : Nat) (desc : List Word)
  | azero (tile n : Nat)
  | aload (tile : Nat) (ea : VAddr)
  /-- major's low bits, N, M, first tile, A slot, B slot, sparse metadata slot, member groups -/
  | mma (fmt n m acc sa sb : Nat) (md : Option Nat) (gang : List Nat)
  | drain (tile : Nat) (desc : List Word)
  | drainAdd (tile : Nat) (desc : List Word)
  | pcfg (c : Pcfg)
  deriving DecidableEq, Repr

/-- An `mma` whose group waits at the gang latch: the command, its issue, participants and PC (R187). -/
structure Latch where
  kind : MatKind
  /-- the guard field and the length of the `mma`, which belong to its words -/
  guard : Nat
  len : Nat
  tok : Nat
  part : List Nat
  pc : VAddr
  deriving DecidableEq, Repr

/-- A group of threads (R212). -/
structure Group where
  bid : Nat
  idx : Nat
  /-- the threads that it was created with (R211, R107) -/
  size : Nat
  ld : BitVec 6
  st : BitVec 6
  cp : BitVec 6
  tl : BitVec 6
  queue : List QEntry
  held : List Held
  lastLine : VAddr
  /-- HOLDER_LOST, TABLE_FULL, TIMEOUT, BUSY from bit 3 to bit 0 (R156) -/
  lastStat : BitVec 4
  req : Option LockReq
  unlocking : Option Unlocking
  /-- peer-homed lines that a hold expiry took: the home hears once what precedes is performed (R259, R293) -/
  losing : List Unlocking
  gang : BitVec 16
  latch : Option Latch
  /-- the configuration after the group's last `pcfg` in issue order (R188) -/
  pcfg : Pcfg
  bind : Option Nat
  /-- SPARSE, OF, NV (R194) -/
  mstat : BitVec 3
  /-- BIN_OVF, BIN_DROP, MCAST_SKIP (R194) -/
  cstat : BitVec 3
  mcastDrop : Nat
  /-- consecutive mismatches (R318) -/
  fails : Nat
  /-- an implicit checkpoint's instruction is performed: no thread issues until the snapshot (R319) -/
  ckpting : Bool
  /-- when the group's latest snapshot was taken (R318) -/
  snapAt : Nat
  /-- the compare entries that the group has made since it last rolled back (R317) -/
  entries : Nat
  /-- the leader's issues whose completion a trailing group's counter waits for: counter and token (R315) -/
  mirrors : List (Nat × Nat)
  deriving DecidableEq, Repr

/-- A barrier register (R163). -/
structure Bar where
  ph : Bool
  pb : BitVec 34
  pa : Int
  ea : BitVec 12
  deriving DecidableEq, Repr

/-- An event of the current cycle on a barrier register (R166). -/
inductive BarEv
  | init (lane n : Nat)
  | landed (n : Nat)
  | expect (n : Nat)
  | arrive
  deriving DecidableEq, Repr

/-- A copy's part in a redundant pair (R314). -/
inductive Role
  | solo | lead | trail
  deriving DecidableEq, Repr

/-- Whether a resident block runs, is halted and draining (R377), or is killed and settling, to be placed again or not
(R278). -/
inductive BlockStatus
  | running
  /-- halted; for the end of a slice, or not -/
  | halting (slice : Bool)
  | dying (relaunch : Bool)
  deriving DecidableEq, Repr

/-- A staged multicast line, with the block and group that issued the copy (R269). -/
structure Staged where
  bid : Nat
  grp : Nat
  off : Nat
  data : List Byte
  bind : Option Nat
  /-- the copy command (R172) -/
  cmd : Nat
  deriving DecidableEq, Repr

/-- The fields of an error record (R376). -/
structure ErrRec where
  kind : Nat
  cause : Nat
  reason : Nat
  blk : Nat
  rcd : VAddr
  pc : VAddr
  addr : VAddr
  aux : Nat
  tid : Nat
  extra : Nat
  deriving DecidableEq, Repr

/-- A resident block (R211, R222, R233, R278). -/
structure Block where
  bid : Nat
  lid : Nat
  blk : Nat
  core : Nat
  share : Nat
  scratch : Memory
  bars : Tab Bar
  /-- events of this cycle on barrier registers, applied together at its end (R166) -/
  barEvs : List (Nat × BarEv)
  /-- the arrivals at barrier registers whose accesses are not all performed (R256) -/
  arrivers : List (Nat × Arriver)
  relaunch : Nat
  spawnStall : Word
  role : Role
  mate : Nat
  /-- the device and the number under which peer homes know its groups (R293, R294) -/
  ref : Nat × Nat
  mismatches : Nat
  /-- its preloads have landed and its staged lines are written (R247, R269) -/
  started : Bool
  status : BlockStatus
  /-- the error record that a killed block leaves when it ends, which fails its launch (R278, R373, R374, R433) -/
  record : Option ErrRec
  /-- its last issue, and the cycles without one that were counted before a halt (R375) -/
  lastIssue : Nat
  counted : Nat
  sliceStart : Nat
  /-- the core of its twin, its own core where it has none (R226, R314) -/
  mateCore : Nat
  /-- where the image of a halted or saved block lies, with its size (R378) -/
  saveAt : Option (Nat × Nat)
  deriving DecidableEq, Repr

/-- The fields of a launch or copy record (R340 to R342). -/
structure Record where
  ctrl : Word
  grid : Word
  entry : VAddr
  handler : VAddr
  shape : Word
  barriers : Word
  done : VAddr
  value : BitVec 64
  preds : BitVec 16
  spawntime : BitVec 16
  key : Word
  podset : BitVec 64
  succ : List VAddr
  deriving DecidableEq, Repr

/-- A hierarchy barrier of a launch: level 3 to 6, instance, index (R168, R225). -/
structure HBar where
  level : Nat
  inst : Nat
  idx : Nat
  phase : Bool
  members : List Nat
  arrived : List Nat
  /-- devices of the pod set that have reported this phase, or already the next one, or every later one since their members have all ended;
  whether this device has reported (R225, R226, log entry 86) -/
  reports : List Nat
  early : List Nat
  gone : List Nat
  told : Bool
  /-- it has reported that its members have all ended (R226, log entry 86) -/
  toldGone : Bool
  /-- the arrivals whose accesses are not all performed: they come before this device's report and the release (R169, R256) -/
  before : List Arriver
  deriving DecidableEq, Repr

/-- A device's report of a pod barrier that came while no launch of its tag and pod set stood placed here (R225, log entry 111). -/
structure PodHeard where
  dev : Nat
  tag : Nat
  mask : BitVec 64
  idx : Nat
  phase : Nat
  deriving DecidableEq, Repr

/-- A block of a launch that waits to be placed: a new one, a relaunch, or a saved one. -/
structure WaitingBlock where
  blk : Nat
  relaunch : Nat
  saved : Option Nat
  /-- switched out at a slice's end: behind the launch's new blocks (R349) -/
  behind : Bool
  /-- the cores that it and its twin had, kept for a killed block of a gang-scheduled launch (R226) -/
  core : Nat
  core2 : Nat
  deriving DecidableEq, Repr

/-- A dispatched launch or copy record (R345, R349). -/
structure Launch where
  lid : Nat
  f : Nat
  q : Nat
  addr : VAddr
  record : Record
  /-- stage-1 root with its enable bit, and ASID, taken at dispatch (R357) -/
  root : Nat
  asid : Nat
  tag : Nat
  /-- runs at management-firmware level (log entry 17) -/
  mgmt : Bool
  slot : Option Nat
  next : Nat
  waiting : List WaitingBlock
  ended : List Nat
  failed : Bool
  /-- its completion store is on its way to a peer (R346) -/
  completing : Bool
  /-- its completion store is performed, and a page migration holds a successor's PREDS (R346, R364) -/
  stored : Bool
  hbars : List HBar
  /-- cores that have held a block of it (R180) -/
  cores : List Nat
  /-- bytes a copy record has landed -/
  landed : Nat
  order : Nat
  deriving DecidableEq, Repr

/-- A parked record (R345), and a dispatch that waits for its key (R367). -/
structure Parked where
  f : Nat
  q : Nat
  addr : VAddr
  deriving DecidableEq, Repr

/-- A dispatch that stalls for its key, with the record that was read for it (R339, R367). -/
structure Stalled where
  f : Nat
  q : Nat
  addr : VAddr
  record : Record
  deriving DecidableEq, Repr

/-- One line of an L1 (R235): state, truncated expiry, dirty bytes, and the data a lease still serves. -/
inductive L1St
  | shared | owned | leased
  deriving DecidableEq, Repr

structure L1Line where
  core : Nat
  line : Nat
  st : L1St
  expiry : BitVec 20
  dirty : List Nat
  data : Memory
  deriving DecidableEq, Repr

/-- A constant-cache line of a die (R242). -/
structure ConstLine where
  line : Nat
  expiry : Nat
  tag : Nat
  data : Memory
  deriving DecidableEq, Repr

/-- A line that a Mere slice caches: in whose ways and which, the world tags whose accesses filled or wrote it, and whether HBM is
behind it (R244, R246, R368). -/
structure MereLine where
  line : Nat
  f : Nat
  way : Nat
  tags : List Nat
  dirty : Bool
  deriving DecidableEq, Repr

/-- A spawn pool (R217, R218). -/
structure Pool where
  bid : Nat
  entry : VAddr
  recs : List (Word × Word)
  timer : Option Nat
  expired : Bool
  first : Nat
  /-- what each record's `spawn` released, in the records' order (R108) -/
  before : List Arriver
  deriving DecidableEq, Repr

/-- An instruction-memory segment (R109, R248). -/
structure Seg where
  granule : Nat
  tag : Nat
  landed : Bool
  /-- it is fetched again after an error: threads that reach it wait (R433) -/
  again : Bool
  lid : Nat
  /-- where the granule is read from (R109) -/
  src : Target
  /-- when that was settled (R362) -/
  id : Nat
  /-- the thread of the `cfetch`: its own older stores to the granule come first (R109, R253) -/
  after : Option Arriver
  /-- a trailing copy's: the core of its leader, which reads the granule for both (R315) -/
  reader : Option Nat
  deriving DecidableEq, Repr

/-- The state of an operand slot or accumulator tile (R271). -/
inductive SlotSt
  | free
  | claimed (bid grp : Nat)
  /-- released once the group's matrix commands numbered below have completed -/
  | pending (bid grp before : Nat)
  | scrub
  deriving DecidableEq, Repr

/-- Power states of a core or die (R437). -/
inductive Power
  | run | clockGate | retention | mereRetention | sleep
  deriving DecidableEq, Repr

/-- A core's own state (R232, R247, R105, R217, R231, R439). -/
structure Core where
  /-- the launch whose blocks are resident, and the carve-out's L1 size in KiB -/
  lid : Option Nat
  l1k : Nat
  /-- byte k of slot tN at 8192·N + k -/
  slots : Memory
  /-- cell (i, j) of tile aN at 8192·N + 128·i + j -/
  tiles : Tab Word
  /-- states of t0–t63 at 0–63 and of a0–a7 at 64–71 -/
  claims : Tab SlotSt
  segs : Tab Seg
  /-- byte k of segment s at 4096·s + k -/
  imem : Memory
  pools : Tab Pool
  /-- waiting `regacq` requests, oldest first: lane, thread, blocks -/
  regq : List (Nat × ThreadKey × Nat)
  evSrc : Tab Nat
  evCnt : Tab (BitVec 64)
  power : Power
  /-- when it left its running state (R375, R437), and the lease epoch that it kept (R243) -/
  gatedAt : Nat
  wrapEpoch : Nat
  deriving DecidableEq, Repr

/-- A die's own state (R239, R242, R437, R439). -/
structure Die where
  lease : BitVec 64
  constCnt : Nat
  constNext : Nat
  pause : Bool
  wrap : Bool
  constLines : List ConstLine
  /-- the directory: for each tracked 512-byte region homed here, the quads that may hold a line of it, last used first (R238) -/
  dir : List (Nat × BitVec 48)
  evSrc : Tab Nat
  evCnt : Tab (BitVec 64)
  power : Power
  /-- when a request last reached its Mere (R437) -/
  mereAt : Nat
  deriving DecidableEq, Repr

/-- A quad's injection register: armed bit number (R204). -/
structure Quad where
  inject : Option Nat
  /-- staged multicast lines, oldest first: launch and `%blk` of the receiver (R269) -/
  staging : List (Nat × Nat × Staged)
  deriving DecidableEq, Repr

/-- A group waiting at a line's home (R280, R282, R288). `vdn`: a peer's group, with its request's number, and the number of the latest word of
its presence (R293). `blk` and `va`: its `%blk` and the address that it names (R295). -/
structure Waiter where
  who : GroupRef
  vdn : Option Nat
  blk : Nat
  va : VAddr
  told : Nat
  cls : Nat
  deadline : Option Nat
  absent : Bool
  seq : Nat
  deriving DecidableEq, Repr

/-- A lock entry (R280). `held`: cycles already counted; `since`: when the count last started, if it runs. -/
structure LockEntry where
  line : Nat
  f : Nat
  va : VAddr
  holder : Option GroupRef
  /-- the holder's VDN where it is a peer's group (R293) -/
  hvdn : Option Nat
  /-- the holder's `%blk`, the address that it names, and the number of the latest word of its presence (R293, R295) -/
  hblk : Nat
  hva : VAddr
  /-- the timeout class of its `llock`, 0 for `ltry` (R295) -/
  hcls : Nat
  told : Nat
  waiters : List Waiter
  held : Nat
  since : Option Nat
  /-- the hold limit at the grant, in cycles (R287) -/
  limit : Nat
  lost : Bool
  /-- the holder has lost the line: it passes on once the holder's accesses numbered below are performed (R259, R292); a peer's device is told, and
  told again (log entry 85) -/
  losing : Option Nat
  deriving DecidableEq, Repr

/-- The state of a fabric window (R199). -/
inductive WinSt
  | free | open | closing | failed
  deriving DecidableEq, Repr

/-- A VDN whose token is outstanding (R299, R307). -/
structure Pend where
  vdn : Nat
  count : Nat
  r : Nat
  resends : Nat
  deadline : Nat
  deriving DecidableEq, Repr

/-- A register-sourced write kept for replay (R300). -/
structure BufWrite where
  handle : Nat
  epoch : Nat
  vdn : Nat
  addr : Nat
  data : List Byte
  deriving DecidableEq, Repr

/-- A fabric copy's reservation on a window's epoch (R267, R299, R300): writes still to be sent. -/
structure CopyRec where
  cmd : Nat
  epoch : Nat
  vdn : Nat
  env : Env
  handle : Nat
  desc : List Word
  count : Nat
  sent : Nat
  landed : Nat
  final : Bool
  bind : Option Nat
  tid : Nat
  deriving DecidableEq, Repr

/-- The thread that closed a window, and where (R198). -/
structure Closer where
  handle : Nat
  key : ThreadKey
  lid : Nat
  pc : VAddr
  flag : VAddr
  value : Word
  scope : Nat
  /-- accesses numbered below must be performed before the release packets (R260) -/
  before : Nat
  grp : Nat
  sent : Bool
  deriving DecidableEq, Repr

/-- A fabric window at the sender (R299). -/
structure Window where
  st : WinSt
  inc : BitVec 8
  epoch : BitVec 8
  counts : Tab Nat
  closing : BitVec 8
  pending : List Pend
  buf : List BufWrite
  copies : List CopyRec
  fault : Nat
  closer : Option Closer
  deriving DecidableEq, Repr

/-- What a receiver has completed of a (source VDN, window) (R301). -/
structure EpochRec where
  irec : BitVec 8
  ec : BitVec 8
  deriving DecidableEq, Repr

/-- The release packet's content held by an arrival entry (R303), and the tag of the handle that it names (R365). -/
structure Expect where
  tag : Nat
  count : Nat
  flag : VAddr
  value : Word
  scope : Nat
  deriving DecidableEq, Repr

/-- An arrival entry (R303). -/
structure Arrival where
  key : EpochKey
  port : Nat
  reserved : Bool
  r : Nat
  arrivals : Nat
  expect : Option Expect
  deadline : Nat
  denied : Bool
  deriving DecidableEq, Repr

/-- A receiver's duplicate filter for a source VDN (R310): the highest number performed, one more than it being 0 for
none, and the performed numbers with their cached answers, where there is one yet. -/
structure DupFilter where
  high : Nat
  marks : List (Nat × Option Answer)
  deriving DecidableEq, Repr

/-- A link key's state (R425 to R427): the sending phase and counter; the phase received, whether the other one is received too, and when that
ends; the last refresh, whether one is wanted, and whether this end has asked for it. -/
structure LinkState where
  phase : Bool
  ctr : Nat
  rxPhase : Bool
  both : Bool
  overlap : Option Nat
  refreshAt : Option Nat
  wanted : Bool
  asked : Bool
  deriving DecidableEq, Repr

/-- The receive window of link counters for (source VDN, source function, phase) of a link key (R426). `cmax` is one more than the
highest accepted, 0 for none. -/
structure IvWindow where
  cmax : Nat
  marks : List Nat
  deriving DecidableEq, Repr

/-- The slot that a received packet holds until its step is done (R421): one of the port's 64 for control, its function's own, the pool's, or none for
a packet that the inbound buffer held. -/
inductive RxSlot
  | none | control | own | pool
  deriving DecidableEq, Repr

/-- What an engine command is (R174 to R180). -/
inductive CopyKind
  /-- per-lane copies of one group's issue: (source address, source, destination), all of `n` bytes, translated at issue (R174) -/
  | lane (n : Nat) (parts : List (VAddr × Target × Target))
  | bulk (desc : List Word)
  | mcast (desc : List Word) (mask : Word)
  /-- the row of a `cp.bin` placed at an address; `none` until the record update (R268) -/
  | row (src : VAddr) (dst : Option VAddr) (n : Nat)
  deriving DecidableEq, Repr

/-- A started element of a copy: where it leads, and when that was settled (R178, R362). -/
structure Begun where
  k : Nat
  src : Target
  dst : Target
  id : Nat
  /-- the bytes read so far, and how many are written (R258) -/
  got : List Byte
  put : Nat
  deriving DecidableEq, Repr

/-- A copy command, or a saved remainder restarted (R263, R266). -/
structure CopyCmd where
  id : Nat
  tok : Nat
  core : Nat
  bid : Nat
  grp : Nat
  tid : Nat
  pc : VAddr
  kind : CopyKind
  /-- landed prefix, and elements landed beyond it -/
  h : Nat
  more : List Nat
  /-- elements started and not landed, with where they lead (R266) -/
  begun : List Begun
  bind : Option Nat
  /-- acquire: accesses numbered below come first; and the release flag -/
  before : Option Nat
  rel : Bool
  /-- window, VDN and the VDN entry's generation at issue of a fabric copy (R312) -/
  fabric : Option (Nat × Nat × Nat)
  /-- multicast lines read and still to be delivered: first element, core-in-quad, scratchpad offset, data -/
  lines : List (Nat × Nat × Nat × List Byte)
  /-- the landed prefix at the command's start, or its remainder's (R176, R266) -/
  base : Nat
  /-- with the release flag: blocks whose registers the landed bytes count on once the command is complete (R172) -/
  owed : List (Nat × Nat)
  deriving DecidableEq, Repr

/-- A command in a core's matrix queue, with the configuration that was in force at its issue (R188, R193, R263) and the threads
that wait for its metadata check (R186). -/
structure MatCmd where
  id : Nat
  tok : Nat
  core : Nat
  bid : Nat
  grp : Nat
  tid : Nat
  pc : VAddr
  kind : MatKind
  before : Option Nat
  cfg : Pcfg
  part : List ThreadKey
  /-- pieces of its memory that it has read or written ahead of the rest, by number, with their bytes so far (R258) -/
  moved : List (Nat × List Byte)
  deriving DecidableEq, Repr

/-- A cached translation (R359): `unit` is the core that holds it, 0–191, or 256 and the number of the quad. The owner of each 4 KiB page in it stands
in `State.owners`, which changes as a command completes (R366). -/
structure TlbEntry where
  unit : Nat
  vmid : Nat
  asid : Nat
  vpage : Nat
  size : Nat
  ipage : Nat
  w : Bool
  x : Bool
  k : Bool
  tgt : Target
  deriving DecidableEq, Repr

/-- A saved block (R379, R380). Segments are their tags; claims their slots' and tiles' contents. -/
structure SavedBlock where
  block : Block
  threads : List Thread
  groups : List Group
  claims : Tab SlotSt
  slots : Memory
  tiles : Tab Word
  pools : Tab Pool
  segs : Tab Seg
  copies : List CopyCmd
  nps : List NonPosted
  deriving DecidableEq, Repr

/-- What a resuming block restarts once its code has landed: copy remainders and non-posted requests (R382). -/
structure Resuming where
  bid : Nat
  copies : List CopyCmd
  nps : List NonPosted
  deriving DecidableEq, Repr

/-- A key slot of the security core (R367). -/
structure KeySlot where
  handle : Nat
  gen : BitVec 8
  material : Nat
  pins : Nat
  used : Nat
  deriving DecidableEq, Repr

/-- An installed key handle: current generation, tag, and the key of that generation as it is kept wrapped outside the slots (R366, R367). -/
structure KeyHandle where
  gen : BitVec 8
  tag : Nat
  wrapped : Nat
  deriving DecidableEq, Repr

/-- A page migration in progress with the host-port writes and reads that it holds (R364). -/
structure PageMove where
  src : Nat
  dst : Nat
  leaf : Nat
  size : Nat
  f : Nat
  ipa : Nat
  /-- held writes in arrival order: address, bytes, and the vector that one of them signals once it is performed (R376) -/
  held : List (Nat × List Byte × Option (Nat × Nat))
  /-- host-port reads of the destination: address and bytes -/
  reads : List (Nat × Nat)
  deriving DecidableEq, Repr

/-- A Neutral State Image (R408), as its sections' contents. Tables are keyed within the function. -/
structure Image where
  major : Nat
  ownVdn : Nat
  bar0 : Tab Word
  regs : Tab Word
  vdn : Tab Word
  log : List (BitVec 128)
  windows : Tab Window
  epochs : Tab EpochRec
  arrivals : List Arrival
  dups : Tab DupFilter
  seqs : Tab Nat
  /-- lines by intermediate address -/
  locks : List LockEntry
  launches : List Launch
  parked : List Parked
  blocks : List SavedBlock
  /-- requests for which no thread waits, outstanding and still to be sent (R312) -/
  frees : List NonPosted
  wants : List Want
  /-- numbers of launches, blocks and accesses lie below it -/
  bound : Nat
  deriving DecidableEq, Repr, Inhabited

end Sys2Proof.Machine
end

