-- ==== Sys2Proof/Syntax.lean ====
section
/-! DEFINITION. The instruction set: one constructor of `Instr` for each row of the opcode table (R31 to R34 and the
table's steps without an encoding), and the plain data that the steps carry. An instruction's fields are the fields of
its encoding (R19); a step's fields name the object it acts on. -/

namespace Sys2Proof

/-- What a fabric packet carries (R298, R303 to R307, R310, R404, R405, R411, R413, R225). -/
inductive Body
  /-- window traffic: window, incarnation, epoch and replay number -/
  | write (win inc epoch r addr : Nat) (data : List Byte)
  | release (win inc epoch r count : Nat) (flag : VAddr) (value : Word) (scope : Nat)
  | token (win inc epoch r : Nat)
  | replayReq (win inc epoch r : Nat)
  | reject (win inc epoch r : Nat)
  | loss (win inc epoch r : Nat)
  | flagDenied (win inc epoch r : Nat)
  | request (seq addr : Nat) (op : PeerOp)
  | response (seq : Nat) (a : Answer)
  | holdExpiry (g : GroupRef) (va : VAddr)
  /-- a quarter of a granule of a Seep pass, with the epoch and the replay number of its pass and the owner handle of its page -/
  | seep (mtag epoch r ipa owner : Nat) (data : List Byte)
  /-- up to 128 bytes of the image, by their place in it -/
  | seepImage (mtag epoch r off : Nat) (data : List Byte)
  /-- the counted release of a pass, or of the image, and its answers -/
  | seepRelease (mtag epoch r count : Nat) (image : Option Machine.Image)
  | seepToken (mtag epoch r : Nat)
  | seepReplay (mtag epoch r : Nat)
  /-- the end of a session at the other end, with the STATUS it gives -/
  | abort (mtag status : Nat)
  | podBarrier (tag : Nat) (mask : BitVec 64) (idx phase : Nat)
  | switch (srcDev srcFun dstDev dstFun mtag : Nat)
  | switchAck (f : Nat)
  /-- the exchange that changes a link key's phase, and its answer (R427) -/
  | refresh (handle : Nat) (phase answer : Bool)
  /-- an SPDM request by its number, 1 to 10 in the order of R442 and 11 to 14 for the vendor-defined ones that install, remove and rotate a
  handle and install a link secret, with its arguments; and a response (R420, R442) -/
  | spdm (code a b : Nat) (value : BitVec 256)
  | spdmAnswer (code : Nat) (data : List Nat) (sig : BitVec 768) (blob : List Byte)
  deriving DecidableEq, Repr

/-- The classes of R420. -/
inductive PacketClass
  | control | migration | nonPosted | posted
  deriving DecidableEq, Repr

/-- A fabric packet: devices, functions, virtual device numbers, the link key's phase, the transmit counter, the world
handle it names, the flits that arrived by their place and whether each one's CRC was good, whether the tag verified, and the body (R298, R418, R424). -/
structure Packet where
  srcDev : Nat
  dstDev : Nat
  srcFun : Nat
  dstFun : Nat
  svdn : Nat
  dvdn : Nat
  handle : Nat
  phase : Bool
  ctr : Nat
  flits : List (Nat × Bool)
  good : Bool
  body : Body
  deriving DecidableEq, Repr

/-- A walk that a core's TLB asks for: the function, the stage-1 root and ASID it uses, and the address (R357, R359). -/
structure WalkReq where
  core : Nat
  f : Nat
  root : Nat
  asid : Nat
  va : Nat
  deriving DecidableEq, Repr

/-- A shoot-down command: from the guest or the host block, its function, address, range exponent and ASID (R361). -/
structure ShootCmd where
  guest : Bool
  f : Nat
  addr : Nat
  n : Nat
  asid : Nat
  deriving DecidableEq, Repr

/-- Where a correctable error is found, by the field of RASCE that counts it (R431). -/
inductive ErrField
  | hbm | mere | core | link
  deriving DecidableEq, Repr

/-- How a packet of the host port arrives: whole, whole after a link retry, or with a wrong IDE tag (R429, R443). -/
inductive HostCheck
  | whole | retried | badTag
  deriving DecidableEq, Repr

/-- An access of the host port: the address, and how its packet arrives (R365, R429). -/
structure HostAccess where
  pa : Nat
  chk : HostCheck
  deriving DecidableEq, Repr

/-- A read of a home: its access type, and whether the line's check bits corrected it (R237, R429). -/
structure HomeRead where
  ty : BitVec 2
  fixed : Bool
  deriving DecidableEq, Repr

/-- What befalls a fibre: its lock is lost, or a flit on it has a wrong CRC (R419). -/
structure FibreFault where
  fibre : Nat
  lock : Bool
  deriving DecidableEq, Repr

/-- A unit the patrol scrubber reads: its die, its field, and whether it needed correction (R429 to R431). -/
structure ScrubUnit where
  die : Nat
  field : ErrField
  corrected : Bool
  deriving DecidableEq, Repr

/-- Where an uncorrectable error is found (R432, R433). -/
inductive ErrorSite
  /-- a clean L1, constant or Mere line; it is fetched again -/
  | cleanLine (core line : Nat)
  /-- an instruction segment -/
  | segment (core seg : Nat)
  /-- registers (3), scratchpad (2), slots or tiles (4), barrier registers or a dirty L1 line (2) of a resident block, with the groups whose state
  it holds -/
  | coreState (bid : Nat) (cls : Nat) (grps : List Nat)
  /-- an HBM granule (class 0) or Mere line (class 1) read by an access of a block, at a virtual address -/
  | read (bid : Nat) (cls pa : Nat) (va : VAddr)
  /-- the same, found by the patrol, a write-back -/
  | patrol (cls pa : Nat)
  /-- the same, found by Seep for a function -/
  | seep (f cls pa : Nat)
  deriving DecidableEq, Repr

/-- One boot stage's image, its signature and its version (R441). -/
structure BootStage where
  image : List Byte
  sig : List Byte
  version : Nat
  deriving DecidableEq, Repr

/-- What power-on starts from: the ROM, the three later stages in order, and the position strap (R416, R441). -/
structure BootImages where
  rom : List Byte
  stages : List BootStage
  position : Nat
  deriving DecidableEq, Repr

/-- One constructor for each row of spec/opcode_table.json. -/
inductive Instr
  /-- Writes the low 32 bits of A + B to d. (R88) -/
  | addB32 (g : BitVec 3) (d : BitVec 7) (a : BitVec 7) (b : BitVec 7)
  /-- Writes the low 32 bits of A − B to d. (R88) -/
  | subB32 (g : BitVec 3) (d : BitVec 7) (a : BitVec 7) (b : BitVec 7)
  /-- Writes the low 64 bits of pair A + pair B to pair d. (R88) -/
  | addB64 (g : BitVec 3) (d : BitVec 7) (a : BitVec 7) (b : BitVec 7)
  /-- Writes the low 64 bits of pair A − pair B to pair d. (R88) -/
  | subB64 (g : BitVec 3) (d : BitVec 7) (a : BitVec 7) (b : BitVec 7)
  /-- Writes the carry out of the unsigned 32-bit sum A + B. (R88) -/
  | addcB32 (g : BitVec 3) (d : BitVec 7) (a : BitVec 7) (b : BitVec 7)
  /-- Writes 1 when A < B unsigned, else 0. (R88) -/
  | subcB32 (g : BitVec 3) (d : BitVec 7) (a : BitVec 7) (b : BitVec 7)
  /-- Writes the low 32 bits of A × B. (R88) -/
  | mulLoB32 (g : BitVec 3) (d : BitVec 7) (a : BitVec 7) (b : BitVec 7)
  /-- Writes the unsigned 64-bit product A × B to pair d. (R88) -/
  | mulWideZ (g : BitVec 3) (d : BitVec 7) (a : BitVec 7) (b : BitVec 7)
  /-- Writes bits 63:32 of the signed product As × Bs. (R88) -/
  | mulHiSB32 (g : BitVec 3) (d : BitVec 7) (a : BitVec 7) (b : BitVec 7)
  /-- Writes bits 63:32 of the unsigned product A × B. (R88) -/
  | mulHiZB32 (g : BitVec 3) (d : BitVec 7) (a : BitVec 7) (b : BitVec 7)
  /-- Writes the low 32 bits of A × B + D to d. (R88) -/
  | madLoB32 (g : BitVec 3) (d : BitVec 7) (a : BitVec 7) (b : BitVec 7)
  /-- Writes the signed 64-bit product As × Bs to pair d. (R88) -/
  | mulWideS (g : BitVec 3) (d : BitVec 7) (a : BitVec 7) (b : BitVec 7)
  /-- Writes the signed minimum of A and B. (R88) -/
  | minSB32 (g : BitVec 3) (d : BitVec 7) (a : BitVec 7) (b : BitVec 7)
  /-- Writes the signed maximum of A and B. (R88) -/
  | maxSB32 (g : BitVec 3) (d : BitVec 7) (a : BitVec 7) (b : BitVec 7)
  /-- Writes the unsigned minimum of A and B. (R88) -/
  | minZB32 (g : BitVec 3) (d : BitVec 7) (a : BitVec 7) (b : BitVec 7)
  /-- Writes the unsigned maximum of A and B. (R88) -/
  | maxZB32 (g : BitVec 3) (d : BitVec 7) (a : BitVec 7) (b : BitVec 7)
  /-- Shifts A left by the whole of B and keeps 32 bits. (R89) -/
  | shlB32 (g : BitVec 3) (d : BitVec 7) (a : BitVec 7) (b : BitVec 7)
  /-- Logical right shift of A by B. (R89) -/
  | shrZB32 (g : BitVec 3) (d : BitVec 7) (a : BitVec 7) (b : BitVec 7)
  /-- Arithmetic right shift of A by B. (R89) -/
  | shrSB32 (g : BitVec 3) (d : BitVec 7) (a : BitVec 7) (b : BitVec 7)
  /-- Rotates A left by B modulo 32. (R89) -/
  | rotB32 (g : BitVec 3) (d : BitVec 7) (a : BitVec 7) (b : BitVec 7)
  /-- Shifts pair A left by B and keeps 64 bits. (R89) -/
  | shlB64 (g : BitVec 3) (d : BitVec 7) (a : BitVec 7) (b : BitVec 7)
  /-- Logical right shift of pair A by B. (R89) -/
  | shrZB64 (g : BitVec 3) (d : BitVec 7) (a : BitVec 7) (b : BitVec 7)
  /-- Arithmetic right shift of pair A by B. (R89) -/
  | shrSB64 (g : BitVec 3) (d : BitVec 7) (a : BitVec 7) (b : BitVec 7)
  /-- Builds a word from four bytes of pair A chosen and sign-filled under control word B. (R90) -/
  | bselB32 (g : BitVec 3) (d : BitVec 7) (a : BitVec 7) (b : BitVec 7)
  /-- Writes A & B. (R89) -/
  | andB32 (g : BitVec 3) (d : BitVec 7) (a : BitVec 7) (b : BitVec 7)
  /-- Writes A | B. (R89) -/
  | orB32 (g : BitVec 3) (d : BitVec 7) (a : BitVec 7) (b : BitVec 7)
  /-- Writes A ^ B. (R89) -/
  | xorB32 (g : BitVec 3) (d : BitVec 7) (a : BitVec 7) (b : BitVec 7)
  /-- Writes A & ~B. (R89) -/
  | andnB32 (g : BitVec 3) (d : BitVec 7) (a : BitVec 7) (b : BitVec 7)
  /-- Writes the number of 1 bits in A. (R89) -/
  | popcB32 (g : BitVec 3) (d : BitVec 7) (a : BitVec 7)
  /-- Writes the count of leading zero bits of A. (R89) -/
  | clzB32 (g : BitVec 3) (d : BitVec 7) (a : BitVec 7)
  /-- Extracts a bit field of A, optionally sign-extended, under control B. (R90) -/
  | bfxB32 (g : BitVec 3) (d : BitVec 7) (a : BitVec 7) (b : BitVec 7)
  /-- Inserts a field of A into D under control B. (R90) -/
  | bfiB32 (g : BitVec 3) (d : BitVec 7) (a : BitVec 7) (b : BitVec 7)
  /-- Writes A = B to predicate d. (R92) -/
  | cmpEqB32 (g : BitVec 3) (d : BitVec 3) (a : BitVec 7) (b : BitVec 7)
  /-- Writes A ≠ B to predicate d. (R92) -/
  | cmpNeB32 (g : BitVec 3) (d : BitVec 3) (a : BitVec 7) (b : BitVec 7)
  /-- Writes As < Bs to predicate d. (R92) -/
  | cmpLtSB32 (g : BitVec 3) (d : BitVec 3) (a : BitVec 7) (b : BitVec 7)
  /-- Writes unsigned A < B to predicate d. (R92) -/
  | cmpLtZB32 (g : BitVec 3) (d : BitVec 3) (a : BitVec 7) (b : BitVec 7)
  /-- Writes As ≤ Bs to predicate d. (R92) -/
  | cmpLeSB32 (g : BitVec 3) (d : BitVec 3) (a : BitVec 7) (b : BitVec 7)
  /-- Writes unsigned A ≤ B to predicate d. (R92) -/
  | cmpLeZB32 (g : BitVec 3) (d : BitVec 3) (a : BitVec 7) (b : BitVec 7)
  /-- Writes pair equality to predicate d. (R92) -/
  | cmpEqB64 (g : BitVec 3) (d : BitVec 3) (a : BitVec 7) (b : BitVec 7)
  /-- Writes signed pair A < pair B to predicate d. (R92) -/
  | cmpLtSB64 (g : BitVec 3) (d : BitVec 3) (a : BitVec 7) (b : BitVec 7)
  /-- Writes unsigned pair A < pair B to predicate d. (R92) -/
  | cmpLtZB64 (g : BitVec 3) (d : BitVec 3) (a : BitVec 7) (b : BitVec 7)
  /-- Writes A when D is non-zero, else B. (R93) -/
  | selB32 (g : BitVec 3) (d : BitVec 7) (a : BitVec 7) (b : BitVec 7)
  /-- Copies A to d. (R93) -/
  | movB32 (g : BitVec 3) (d : BitVec 7) (a : BitVec 7)
  /-- Writes the special value named by the a code to d, or pair d for %clk. (R93) -/
  | movSv (g : BitVec 3) (d : BitVec 7) (a : BitVec 7)
  /-- Writes rne(A + B, FP32, m). (R114) -/
  | fadd (g : BitVec 3) (d : BitVec 7) (a : BitVec 7) (b : BitVec 7)
  /-- Writes rne(A − B, FP32, m). (R114) -/
  | fsub (g : BitVec 3) (d : BitVec 7) (a : BitVec 7) (b : BitVec 7)
  /-- Writes rne(A × B, FP32, m). (R114) -/
  | fmul (g : BitVec 3) (d : BitVec 7) (a : BitVec 7) (b : BitVec 7)
  /-- Writes rne(A × B + D, FP32, m) with one rounding. (R114) -/
  | ffma (g : BitVec 3) (d : BitVec 7) (a : BitVec 7) (b : BitVec 7)
  /-- Writes the IEEE minimumNumber of A and B. (R115) -/
  | fmin (g : BitVec 3) (d : BitVec 7) (a : BitVec 7) (b : BitVec 7)
  /-- Writes the IEEE maximumNumber of A and B. (R115) -/
  | fmax (g : BitVec 3) (d : BitVec 7) (a : BitVec 7) (b : BitVec 7)
  /-- Writes FP32 A = B to predicate d. (R116) -/
  | fcmpEq (g : BitVec 3) (d : BitVec 3) (a : BitVec 7) (b : BitVec 7)
  /-- Writes FP32 A < B to predicate d. (R116) -/
  | fcmpLt (g : BitVec 3) (d : BitVec 3) (a : BitVec 7) (b : BitVec 7)
  /-- Writes FP32 A ≤ B to predicate d. (R116) -/
  | fcmpLe (g : BitVec 3) (d : BitVec 3) (a : BitVec 7) (b : BitVec 7)
  /-- Writes whether A or B is NaN to predicate d. (R116) -/
  | fcmpUn (g : BitVec 3) (d : BitVec 3) (a : BitVec 7) (b : BitVec 7)
  /-- Writes A with bit 31 cleared. (R117) -/
  | fabs (g : BitVec 3) (d : BitVec 7) (a : BitVec 7)
  /-- Writes A with bit 31 inverted. (R117) -/
  | fneg (g : BitVec 3) (d : BitVec 7) (a : BitVec 7)
  /-- Packed FP16 addition of two elements. (R119) -/
  | faddF16x2 (g : BitVec 3) (d : BitVec 7) (a : BitVec 7) (b : BitVec 7)
  /-- Packed FP16 subtraction. (R119) -/
  | fsubF16x2 (g : BitVec 3) (d : BitVec 7) (a : BitVec 7) (b : BitVec 7)
  /-- Packed FP16 multiplication. (R119) -/
  | fmulF16x2 (g : BitVec 3) (d : BitVec 7) (a : BitVec 7) (b : BitVec 7)
  /-- Packed FP16 fused multiply-add. (R119) -/
  | ffmaF16x2 (g : BitVec 3) (d : BitVec 7) (a : BitVec 7) (b : BitVec 7)
  /-- Packed BF16 addition. (R119) -/
  | faddBf16x2 (g : BitVec 3) (d : BitVec 7) (a : BitVec 7) (b : BitVec 7)
  /-- Packed BF16 subtraction. (R119) -/
  | fsubBf16x2 (g : BitVec 3) (d : BitVec 7) (a : BitVec 7) (b : BitVec 7)
  /-- Packed BF16 multiplication. (R119) -/
  | fmulBf16x2 (g : BitVec 3) (d : BitVec 7) (a : BitVec 7) (b : BitVec 7)
  /-- Packed BF16 fused multiply-add. (R119) -/
  | ffmaBf16x2 (g : BitVec 3) (d : BitVec 7) (a : BitVec 7) (b : BitVec 7)
  /-- Packed FP16 minimumNumber. (R119) -/
  | fminF16x2 (g : BitVec 3) (d : BitVec 7) (a : BitVec 7) (b : BitVec 7)
  /-- Packed FP16 maximumNumber. (R119) -/
  | fmaxF16x2 (g : BitVec 3) (d : BitVec 7) (a : BitVec 7) (b : BitVec 7)
  /-- Packed BF16 minimumNumber. (R119) -/
  | fminBf16x2 (g : BitVec 3) (d : BitVec 7) (a : BitVec 7) (b : BitVec 7)
  /-- Packed BF16 maximumNumber. (R119) -/
  | fmaxBf16x2 (g : BitVec 3) (d : BitVec 7) (a : BitVec 7) (b : BitVec 7)
  /-- Writes the correctly rounded reciprocal of A. (R122) -/
  | rcp (g : BitVec 3) (d : BitVec 7) (a : BitVec 7)
  /-- Writes 1/√A within 1 ulp. (R122) -/
  | rsq (g : BitVec 3) (d : BitVec 7) (a : BitVec 7)
  /-- Writes the correctly rounded square root of A. (R122) -/
  | sqrt (g : BitVec 3) (d : BitVec 7) (a : BitVec 7)
  /-- Writes 2^A within 2 ulp. (R122) -/
  | exp2 (g : BitVec 3) (d : BitVec 7) (a : BitVec 7)
  /-- Writes log2 A within the stated bound. (R122) -/
  | log2 (g : BitVec 3) (d : BitVec 7) (a : BitVec 7)
  /-- Writes sin A within 2^-22 absolute. (R122) -/
  | sin (g : BitVec 3) (d : BitVec 7) (a : BitVec 7)
  /-- Writes cos A within 2^-22 absolute. (R122) -/
  | cos (g : BitVec 3) (d : BitVec 7) (a : BitVec 7)
  /-- Rounds A to an integral FP32 value in mode m. (R118) -/
  | frnd (g : BitVec 3) (d : BitVec 7) (a : BitVec 7)
  /-- Reads the thread's flag word into d. (R121) -/
  | rdflg (g : BitVec 3) (d : BitVec 7)
  /-- Clears the flag bits set in A[4:0]. (R121) -/
  | clrflg (g : BitVec 3) (a : BitVec 7)
  /-- Fused two-term FP16 dot product into an FP32 accumulator. (R120) -/
  | fdot2F16 (g : BitVec 3) (d : BitVec 7) (a : BitVec 7) (b : BitVec 7)
  /-- Fused two-term BF16 dot product into an FP32 accumulator. (R120) -/
  | fdot2Bf16 (g : BitVec 3) (d : BitVec 7) (a : BitVec 7) (b : BitVec 7)
  /-- Writes the AND of two predicates. (R94) -/
  | pand (g : BitVec 3) (d : BitVec 3) (a : BitVec 3) (b : BitVec 3)
  /-- Writes the OR of two predicates. (R94) -/
  | por (g : BitVec 3) (d : BitVec 3) (a : BitVec 3) (b : BitVec 3)
  /-- Writes the XOR of two predicates. (R94) -/
  | pxor (g : BitVec 3) (d : BitVec 3) (a : BitVec 3) (b : BitVec 3)
  /-- Writes the negation of a predicate. (R94) -/
  | pnot (g : BitVec 3) (d : BitVec 3) (a : BitVec 3)
  /-- Writes a predicate to a register as 0 or 1. (R94) -/
  | p2v (g : BitVec 3) (d : BitVec 7) (a : BitVec 3)
  /-- Writes A ≠ 0 to a predicate. (R94) -/
  | v2p (g : BitVec 3) (d : BitVec 3) (a : BitVec 7)
  /-- Atomic signed minimum at the home, returning the old value. (R150) -/
  | atomMinS (g : BitVec 3) (d : BitVec 7) (a : BitVec 7) (b : BitVec 7)
  /-- Atomic unsigned minimum, returning the old value. (R150) -/
  | atomMinZ (g : BitVec 3) (d : BitVec 7) (a : BitVec 7) (b : BitVec 7)
  /-- Atomic signed maximum, returning the old value. (R150) -/
  | atomMaxS (g : BitVec 3) (d : BitVec 7) (a : BitVec 7) (b : BitVec 7)
  /-- Atomic unsigned maximum, returning the old value. (R150) -/
  | atomMaxZ (g : BitVec 3) (d : BitVec 7) (a : BitVec 7) (b : BitVec 7)
  /-- Reduction add of a 32-bit value at the home. (R150) -/
  | redAdd (g : BitVec 3) (a : BitVec 7) (b : BitVec 7)
  /-- Reduction add of a 64-bit pair at the home. (R150) -/
  | redAddB64 (g : BitVec 3) (a : BitVec 7) (b : BitVec 7)
  /-- Reduction FP32 add at the home. (R151) -/
  | redFadd (g : BitVec 3) (a : BitVec 7) (b : BitVec 7)
  /-- Compensated-pair reduction add at the home. (R71) -/
  | redFadd2c (g : BitVec 3) (a : BitVec 7) (b : BitVec 7)
  /-- Reduction signed minimum at the home. (R150) -/
  | redMinS (g : BitVec 3) (a : BitVec 7) (b : BitVec 7)
  /-- Reduction signed maximum at the home. (R150) -/
  | redMaxS (g : BitVec 3) (a : BitVec 7) (b : BitVec 7)
  /-- Reduction bitwise AND at the home. (R150) -/
  | redAnd (g : BitVec 3) (a : BitVec 7) (b : BitVec 7)
  /-- Reduction bitwise OR at the home. (R150) -/
  | redOr (g : BitVec 3) (a : BitVec 7) (b : BitVec 7)
  /-- Per-lane 4-byte copy through the coalescer, counted on CP. (R174) -/
  | cpLaneB32 (g : BitVec 3) (d : BitVec 7) (a : BitVec 7) (s : BitVec 3) (r : BitVec 1) (q : BitVec 1)
  /-- Per-lane 8-byte copy through the coalescer. (R174) -/
  | cpLaneB64 (g : BitVec 3) (d : BitVec 7) (a : BitVec 7) (s : BitVec 3) (r : BitVec 1) (q : BitVec 1)
  /-- Per-lane 16-byte copy through the coalescer. (R174) -/
  | cpLaneB128 (g : BitVec 3) (d : BitVec 7) (a : BitVec 7) (s : BitVec 3) (r : BitVec 1) (q : BitVec 1)
  /-- Bumps a bin record at its home and copies a row to the granted index. (R179) -/
  | cpBin (g : BitVec 3) (d : BitVec 7) (a : BitVec 7) (b : BitVec 7)
  /-- Each participant reads A of the group index B[4:0]. (R133) -/
  | xlaneAt (g : BitVec 3) (d : BitVec 7) (a : BitVec 7) (b : BitVec 7)
  /-- Each participant reads A from a lower group index at distance B[5:0]. (R133) -/
  | xlaneBack (g : BitVec 3) (d : BitVec 7) (a : BitVec 7) (b : BitVec 7)
  /-- Each participant reads A from a higher group index at distance B[5:0]. (R133) -/
  | xlaneFwd (g : BitVec 3) (d : BitVec 7) (a : BitVec 7) (b : BitVec 7)
  /-- Each participant reads A from the index that B[4:0] flips. (R133) -/
  | xlaneFlip (g : BitVec 3) (d : BitVec 7) (a : BitVec 7) (b : BitVec 7)
  /-- Writes true when the predicate holds in every participant. (R134) -/
  | voteAll (g : BitVec 3) (d : BitVec 3) (a : BitVec 3)
  /-- Writes true when the predicate holds in some participant. (R134) -/
  | voteAny (g : BitVec 3) (d : BitVec 3) (a : BitVec 3)
  /-- Writes the mask of participants whose predicate is true. (R134) -/
  | ballot (g : BitVec 3) (d : BitVec 7) (a : BitVec 3)
  /-- Writes the mask of participants whose A equals the thread's own A. (R134) -/
  | matchV (g : BitVec 3) (d : BitVec 7) (a : BitVec 7)
  /-- Group reduction sum of A. (R135) -/
  | gredAdd (g : BitVec 3) (d : BitVec 7) (a : BitVec 7)
  /-- Group reduction signed minimum. (R135) -/
  | gredMinS (g : BitVec 3) (d : BitVec 7) (a : BitVec 7)
  /-- Group reduction unsigned minimum. (R135) -/
  | gredMinZ (g : BitVec 3) (d : BitVec 7) (a : BitVec 7)
  /-- Group reduction signed maximum. (R135) -/
  | gredMaxS (g : BitVec 3) (d : BitVec 7) (a : BitVec 7)
  /-- Group reduction unsigned maximum. (R135) -/
  | gredMaxZ (g : BitVec 3) (d : BitVec 7) (a : BitVec 7)
  /-- Group FP32 sum in fixed pairwise order. (R136) -/
  | gredFadd (g : BitVec 3) (d : BitVec 7) (a : BitVec 7)
  /-- Group inclusive prefix sum. (R135) -/
  | gscanAdd (g : BitVec 3) (d : BitVec 7) (a : BitVec 7)
  /-- Writes true in the participant with the least group index. (R134) -/
  | elect (g : BitVec 3) (d : BitVec 3)
  /-- Atomic 32-bit add, returning the old value. (R150) -/
  | atomAdd (g : BitVec 3) (d : BitVec 7) (a : BitVec 7) (b : BitVec 7)
  /-- Atomic 64-bit add, returning the old value. (R150) -/
  | atomAddB64 (g : BitVec 3) (d : BitVec 7) (a : BitVec 7) (b : BitVec 7)
  /-- Atomic 32-bit exchange. (R150) -/
  | atomExch (g : BitVec 3) (d : BitVec 7) (a : BitVec 7) (b : BitVec 7)
  /-- Atomic 64-bit exchange. (R150) -/
  | atomExchB64 (g : BitVec 3) (d : BitVec 7) (a : BitVec 7) (b : BitVec 7)
  /-- Atomic 32-bit compare-and-swap. (R150) -/
  | atomCas (g : BitVec 3) (d : BitVec 7) (a : BitVec 7) (b : BitVec 7)
  /-- Atomic 64-bit compare-and-swap. (R150) -/
  | atomCasB64 (g : BitVec 3) (d : BitVec 7) (a : BitVec 7) (b : BitVec 7)
  /-- Atomic FP32 add, returning the old value. (R151) -/
  | atomFadd (g : BitVec 3) (d : BitVec 7) (a : BitVec 7) (b : BitVec 7)
  /-- Atomic compensated-pair add, returning s and e. (R71) -/
  | atomFadd2c (g : BitVec 3) (d : BitVec 7) (a : BitVec 7) (b : BitVec 7)
  /-- Group collective that requests a line lock at the home and may queue. (R158) -/
  | llock (g : BitVec 3) (d : BitVec 3) (a : BitVec 7) (c : BitVec 2)
  /-- Group collective that releases a held line lock after its accesses are performed. (R160) -/
  | lunlock (g : BitVec 3) (a : BitVec 7)
  /-- Group collective that takes a line lock only if free, never queuing. (R159) -/
  | ltry (g : BitVec 3) (d : BitVec 3) (a : BitVec 7)
  /-- Reads the group's lock status and the home waiter count for a line. (R156) -/
  | lstat (g : BitVec 3) (d : BitVec 7) (a : BitVec 7)
  /-- Posts a counted write to a peer through a fabric window. (R197) -/
  | fst (g : BitVec 3) (s : BitVec 2) (w : BitVec 5) (a : BitVec 7) (b : BitVec 7)
  /-- Non-posted fabric load performed once at the peer home. (R200) -/
  | fld (g : BitVec 3) (d : BitVec 7) (a : BitVec 7) (s : BitVec 2) (p : BitVec 3)
  /-- Non-posted fabric atomic performed once at the peer home. (R200) -/
  | fatom (g : BitVec 3) (d : BitVec 7) (a : BitVec 7) (x : BitVec 4) (p : BitVec 3)
  /-- Sends release packets with counts for the window's epoch and advances the epoch. (R198) -/
  | fwclose (g : BitVec 3) (s : BitVec 2) (w : BitVec 5) (a : BitVec 7) (b : BitVec 7)
  /-- Adds a signed immediate to A. (R91) -/
  | addi (g : BitVec 3) (d : BitVec 7) (a : BitVec 7) (i : BitVec 9)
  /-- Adds a signed immediate to pair A. (R91) -/
  | addiB64 (g : BitVec 3) (d : BitVec 7) (a : BitVec 7) (i : BitVec 9)
  /-- Writes a sign-extended 16-bit immediate. (R91) -/
  | movi (g : BitVec 3) (d : BitVec 7) (i : BitVec 16)
  /-- Converts one value between the formats of R124. (R127) -/
  | cvt (g : BitVec 3) (d : BitVec 7) (a : BitVec 7) (x : BitVec 1) (y : BitVec 4) (z : BitVec 4)
  /-- PC-relative branch to a landed granule. (R96) -/
  | bra (g : BitVec 3) (o : BitVec 23)
  /-- PC-relative call writing the link to v0:v1. (R96) -/
  | call (g : BitVec 3) (o : BitVec 23)
  /-- Branch that waits for an in-flight granule fetch to land. (R96) -/
  | jfence (g : BitVec 3) (o : BitVec 23)
  /-- Holds the thread until the group's counters are at or below the limits. (R170) -/
  | wait (g : BitVec 3) (l : BitVec 6) (s : BitVec 6) (c : BitVec 6) (t : BitVec 5)
  /-- Loads 1–16 bytes into registers. (R141) -/
  | ld (g : BitVec 3) (d : BitVec 7) (a : BitVec 7) (z : BitVec 3) (y : BitVec 2) (o : BitVec 4)
  /-- Stores 1–16 bytes through the group store queue. (R141) -/
  | st (g : BitVec 3) (d : BitVec 7) (a : BitVec 7) (z : BitVec 3) (y : BitVec 2) (o : BitVec 4)
  /-- Acquire load at the address scope. (R144) -/
  | ldAcq (g : BitVec 3) (d : BitVec 7) (a : BitVec 7) (z : BitVec 1) (y : BitVec 2) (o : BitVec 4)
  /-- Release store at the address scope. (R144) -/
  | stRel (g : BitVec 3) (d : BitVec 7) (a : BitVec 7) (z : BitVec 1) (y : BitVec 2) (o : BitVec 4)
  /-- Loads from a constant page through the die's constant cache. (R145) -/
  | ldC (g : BitVec 3) (d : BitVec 7) (a : BitVec 7) (z : BitVec 3) (o : BitVec 4)
  /-- Requests a line into L1 with a request type; never traps past step 3. (R146) -/
  | pref (g : BitVec 3) (a : BitVec 7) (y : BitVec 2) (o : BitVec 4)
  /-- Group matrix multiply-accumulate, FP16 × FP16. (R186) -/
  | mmaF16 (g : BitVec 3) (n : BitVec 6) (m : BitVec 2) (c : BitVec 3) (a : BitVec 6) (b : BitVec 6)
  /-- Matrix multiply-accumulate, BF16 × BF16. (R186) -/
  | mmaBf16 (g : BitVec 3) (n : BitVec 6) (m : BitVec 2) (c : BitVec 3) (a : BitVec 6) (b : BitVec 6)
  /-- Matrix multiply-accumulate, E4M3 × E4M3. (R186) -/
  | mmaE4m3 (g : BitVec 3) (n : BitVec 6) (m : BitVec 2) (c : BitVec 3) (a : BitVec 6) (b : BitVec 6)
  /-- Matrix multiply-accumulate, E4M3 × E5M2. (R186) -/
  | mmaE4m3e5m2 (g : BitVec 3) (n : BitVec 6) (m : BitVec 2) (c : BitVec 3) (a : BitVec 6) (b : BitVec 6)
  /-- Matrix multiply-accumulate, E5M2 × E5M2. (R186) -/
  | mmaE5m2 (g : BitVec 3) (n : BitVec 6) (m : BitVec 2) (c : BitVec 3) (a : BitVec 6) (b : BitVec 6)
  /-- Matrix multiply-accumulate, INT8 into INT32 cells. (R68) -/
  | mmaS8 (g : BitVec 3) (n : BitVec 6) (m : BitVec 2) (c : BitVec 3) (a : BitVec 6) (b : BitVec 6)
  /-- Matrix multiply-accumulate, E2M1 with E8M0 scales. (R186) -/
  | mmaE2m1 (g : BitVec 3) (n : BitVec 6) (m : BitVec 2) (c : BitVec 3) (a : BitVec 6) (b : BitVec 6)
  /-- Matrix multiply-accumulate, BF16 × dequantised INT4 weights. (R69) -/
  | mmaBf16s4 (g : BitVec 3) (n : BitVec 6) (m : BitVec 2) (c : BitVec 3) (a : BitVec 6) (b : BitVec 6)
  /-- Advances the PC only. (R103) -/
  | nop (g : BitVec 3)
  /-- Indirect jump to the pair in a. (R99) -/
  | jmp (g : BitVec 3) (a : BitVec 7)
  /-- Indirect call writing the link to pair d. (R99) -/
  | calli (g : BitVec 3) (d : BitVec 7) (a : BitVec 7)
  /-- Returns to the address in pair a. (R99) -/
  | ret (g : BitVec 3) (a : BitVec 7)
  /-- Ends the thread and returns its slot and register blocks. (R100) -/
  | exit (g : BitVec 3)
  /-- Makes the thread not ready for 64 cycles. (R101) -/
  | yield (g : BitVec 3)
  /-- Raises BREAKPOINT with a code. (R102) -/
  | brk (g : BitVec 3) (d : BitVec 7)
  /-- Sets the window base absolutely or relatively. (R104) -/
  | wbase (g : BitVec 3) (m : BitVec 1) (v : BitVec 4)
  /-- Acquires register blocks from the lane, waiting in FIFO order. (R105) -/
  | regacq (g : BitVec 3) (n : BitVec 4)
  /-- Acquires register blocks only if available at once. (R105) -/
  | regacqTry (g : BitVec 3) (d : BitVec 3) (n : BitVec 4)
  /-- Releases the thread's highest register blocks. (R106) -/
  | regrel (g : BitVec 3) (n : BitVec 4)
  /-- Offers a child record to a spawn pool keyed by its entry. (R107) -/
  | spawn (g : BitVec 3) (d : BitVec 7) (a : BitVec 7)
  /-- Starts an asynchronous fetch of a code granule into a segment. (R109) -/
  | cfetch (g : BitVec 3) (s : BitVec 6) (a : BitVec 7)
  /-- Acquire, release or full fence at an encoded scope. (R154) -/
  | fence (g : BitVec 3) (k : BitVec 2) (s : BitVec 3)
  /-- Sets a barrier register's expected and pending arrivals. (R165) -/
  | barInit (g : BitVec 3) (b : BitVec 5) (a : BitVec 7)
  /-- Adds expected bytes to a barrier register. (R165) -/
  | barExpect (g : BitVec 3) (b : BitVec 5) (a : BitVec 7)
  /-- Arrives at a barrier register and writes the phase token. (R165) -/
  | barArrive (g : BitVec 3) (d : BitVec 7) (b : BitVec 5)
  /-- Waits until the barrier's phase differs from the token. (R167) -/
  | barWait (g : BitVec 3) (b : BitVec 5) (a : BitVec 7)
  /-- Arrives and waits on a barrier register. (R165) -/
  | barSync (g : BitVec 3) (b : BitVec 5)
  /-- Writes whether the barrier's phase bit is 1. (R165) -/
  | barTest (g : BitVec 3) (p : BitVec 3) (b : BitVec 5)
  /-- Counts the block's arrival at a hierarchy barrier. (R169) -/
  | hbarArrive (g : BitVec 3) (d : BitVec 7) (s : BitVec 3) (i : BitVec 4)
  /-- Waits on a hierarchy barrier's phase. (R169) -/
  | hbarWait (g : BitVec 3) (d : BitVec 7) (s : BitVec 3) (i : BitVec 4)
  /-- Strided bulk copy from a 16-register descriptor. (R176) -/
  | cpBulk (g : BitVec 3) (a : BitVec 5)
  /-- Bulk copy multicast into the scratchpads of named quad cores. (R180) -/
  | cpMcast (g : BitVec 3) (d : BitVec 7) (a : BitVec 5)
  /-- Binds the group's later copies to a barrier register. (R182) -/
  | cpBind (g : BitVec 3) (b : BitVec 5)
  /-- Unbinds the group's copies. (R182) -/
  | cpBindNone (g : BitVec 3)
  /-- Opens a free fabric window with epoch 0. (R196) -/
  | fwopen (g : BitVec 3) (d : BitVec 7) (p : BitVec 3)
  /-- Frees an open or failed fabric window. (R196) -/
  | fwopenFree (g : BitVec 3) (d : BitVec 7)
  /-- Reads a window's status word. (R199) -/
  | fwstat (g : BitVec 3) (d : BitVec 7) (w : BitVec 5)
  /-- Returns an entry of the function's VDN table. (R201) -/
  | vdnq (g : BitVec 3) (d : BitVec 7) (a : BitVec 7)
  /-- Group collective that snapshots redundant-pair threads. (R202) -/
  | ckpt (g : BitVec 3)
  /-- Writes the block's redundancy status. (R203) -/
  | ckstat (g : BitVec 3) (d : BitVec 7)
  /-- Writes true in a leading or unpaired copy. (R203) -/
  | ckrole (g : BitVec 3) (d : BitVec 3)
  /-- Claims operand slots and accumulator tiles for the group without waiting. (R183) -/
  | tclaim (g : BitVec 3) (d : BitVec 3) (a : BitVec 7)
  /-- Releases claimed slots and tiles after earlier matrix commands. (R183) -/
  | trel (g : BitVec 3) (a : BitVec 7)
  /-- Fills operand slots with 64-byte rows from memory. (R189) -/
  | tfill (g : BitVec 3) (s : BitVec 6) (a : BitVec 5)
  /-- Fills slots with BF16 weights dequantised from INT4. (R190) -/
  | tfillDq (g : BitVec 3) (s : BitVec 6) (a : BitVec 5)
  /-- Zeroes accumulator tiles. (R191) -/
  | azero (g : BitVec 3) (t : BitVec 3) (n : BitVec 3)
  /-- Loads an accumulator tile from memory. (R191) -/
  | aload (g : BitVec 3) (t : BitVec 3) (a : BitVec 7)
  /-- Writes tile rows to memory with optional conversion. (R192) -/
  | tdrain (g : BitVec 3) (t : BitVec 3) (a : BitVec 5)
  /-- Adds tile rows into local memory as one indivisible update. (R192) -/
  | tdrainAdd (g : BitVec 3) (t : BitVec 3) (a : BitVec 5)
  /-- Sets or clears the group's gang register. (R187) -/
  | gang (g : BitVec 3) (a : BitVec 7)
  /-- Sets the group's matrix prologue configuration. (R188) -/
  | pcfg (g : BitVec 3) (a : BitVec 5)
  /-- Reads and optionally clears the matrix or copy status word. (R194) -/
  | mstat (g : BitVec 3) (d : BitVec 7) (x : BitVec 1) (s : BitVec 1)
  /-- Ends the trap handler and resumes at the saved resume address. (R205) -/
  | tret (g : BitVec 3)
  /-- Ends the trap handler and resumes at the address in pair a. (R205) -/
  | tretAddr (g : BitVec 3) (a : BitVec 7)
  /-- Reads a field of the trap frame. (R205) -/
  | trd (g : BitVec 3) (d : BitVec 7) (s : BitVec 3)
  /-- Reads a system register. (R206) -/
  | srd (g : BitVec 3) (d : BitVec 7) (a : BitVec 7)
  /-- Writes a system register. (R206) -/
  | swr (g : BitVec 3) (d : BitVec 7) (a : BitVec 7)
  /-- Writes back and invalidates the core's L1. (R207) -/
  | cinvL1 (g : BitVec 3)
  /-- Invalidates the die's constant cache with a wrap pause. (R207) -/
  | cinvC (g : BitVec 3)
  /-- Writes back dirty Mere lines of a range to HBM. (R207) -/
  | cwbMere (g : BitVec 3) (d : BitVec 7) (a : BitVec 7)
  /-- Reads a 64-bit work meter. (R208) -/
  | mtrd (g : BitVec 3) (d : BitVec 7) (a : BitVec 7)
  /-- Sets an event counter's source and clears it. (R208) -/
  | evcfg (g : BitVec 3) (d : BitVec 7) (a : BitVec 7)
  /-- Reads a 64-bit event counter. (R208) -/
  | evrd (g : BitVec 3) (d : BitVec 7) (a : BitVec 7)
  /-- Reads a record of the function's lock event log. (R208) -/
  | lklog (g : BitVec 3) (d : BitVec 7) (a : BitVec 7)
  /-- Arms or disarms a quad's fault-injection register. (R204) -/
  | kinj (g : BitVec 3) (a : BitVec 7)
  /-- Prefix whose payload extends the following instruction into one pair. (R28) -/
  | lim (h : BitVec 26) (w : BitVec 32)
  /-- Each core cycle chooses the port A and port B issue sets from ready threads. (R77) -/
  | issueCycle (core : Nat)
  /-- A loaded or atomic result arrives, clears its interlock and decrements LD. (R83) -/
  | loadValueReturn (id : Nat)
  /-- A store-queue entry is performed at its home and decrements ST. (R148) -/
  | storeQueuePerform (bid grp : Nat)
  /-- The 64-cycle yield delay ends and the thread becomes ready. (R101) -/
  | yieldExpiry (bid tid : Nat)
  /-- The oldest queued regacq on a lane takes freed blocks. (R105) -/
  | regacqGrant (core lane : Nat)
  /-- A fetched code granule finishes arriving and its segment becomes landed. (R109) -/
  | codeGranuleLand (core seg : Nat)
  /-- A spawn pool's timer expires. (R218) -/
  | spawnTimerExpiry (core pool : Nat)
  /-- A spawn pool that may launch forms a child group once a group index and lane half are free. (R219) -/
  | spawnPoolLaunch (core pool : Nat)
  /-- A group with no live thread and zero counters ends and releases its claims. (R212) -/
  | groupEnd (bid grp : Nat)
  /-- A control frame reporting another device's pod-barrier arrivals is received. (R225) -/
  | podBarrierFrame (dev tag : Nat) (mask : BitVec 64) (idx phase : Nat)
  /-- The home slice serves a read, downgrading an owner first. (R237) -/
  | homeReadRequest (core pa : Nat) (ty : HomeRead)
  /-- The home slice performs a write after probing other tracked holders. (R237) -/
  | homeWriteRequest (core line : Nat)
  /-- The home atomic unit performs an indivisible read-modify-write. (R150) -/
  | homeAtomicRequest (bid grp : Nat)
  /-- A die directory evicts a region entry and recalls its tracked lines. (R238) -/
  | directoryEviction (region : Nat)
  /-- The die lease clock advances every 64 cycles. (R239) -/
  | leaseClockTick (die : Nat)
  /-- L1 visits leased lines and invalidates expired ones. (R239) -/
  | leaseVisit (core : Nat)
  /-- A write to LEASECFG sets lease lengths, invalidating lines when lowered. (R241) -/
  | leasecfgWrite (die : Nat) (v : Word)
  /-- The constant counter advances every 1,024 cycles. (R242) -/
  | constantTick (die : Nat)
  /-- The constant counter would pass 4,095; the die pauses ld.c and flash-invalidates. (R242) -/
  | constantWrap (die : Nat)
  /-- The wrap pause ends; the counter is set to 0 and ld.c resumes. (R242) -/
  | constantPauseEnd (die : Nat)
  /-- A core enters power gating with SRAM retention. (R243) -/
  | coreRetentionEntry (core : Nat)
  /-- A retained core wakes and revalidates its leases. (R243) -/
  | coreRetentionWake (core : Nat)
  /-- A core with no ready thread for 64 cycles clock-gates. (R437) -/
  | clockGateEntry (core : Nat)
  /-- An idle die enters Mere retention. (R437) -/
  | mereRetentionEntry (die : Nat)
  /-- An idle die with no window enters die sleep. (R437) -/
  | dieSleepEntry (die : Nat)
  /-- A request reaches a sleeping core or die and it exits its state. (R437) -/
  | wakeRequest (isDie : Bool) (n : Nat)
  /-- Copy-engine elements land, advancing the landed prefix and bound barrier bytes. (R266) -/
  | copyElementLand (cmd idx : Nat)
  /-- An engine meets a fault after issue and stops at the first faulting element. (R178) -/
  | engineFaultStop (cmd : Nat)
  /-- A multicast line reaches a named core and is written, staged, discarded or ignored. (R269) -/
  | mcastLineDeliver (cmd idx core : Nat)
  /-- A matrix command completes in issue order and decrements TL. (R193) -/
  | matrixCommandComplete (bid grp : Nat)
  /-- The last gang member reaches the latch and the shared mma is queued. (R273) -/
  | gangLatchFire (bid grp : Nat)
  /-- A slot fill meets a fault and the block is killed and possibly relaunched. (R278) -/
  | slotFillFault (bid grp : Nat)
  /-- A slot or tile in Scrub finishes clearing and becomes Free. (R271) -/
  | slotScrubDone (core idx : Nat)
  /-- An llock or ltry request reaches the home slice and takes, queues or fails. (R158) -/
  | lockRequestAtHome (bid grp : Nat)
  /-- A lunlock or loss at the home passes the line to the first present waiter. (R284) -/
  | handOff (line : Nat)
  /-- A waiter's timeout class expires and it leaves the queue. (R288) -/
  | waiterTimeout (line idx : Nat)
  /-- A holder exceeds its hold limit and loses the lock. (R289) -/
  | holdLimitExpiry (line : Nat)
  /-- A peer home's hold-expiry message reaches the holder's device. (R293) -/
  | holdExpiryMessage (bid grp : Nat) (va : VAddr)
  /-- A receive port reassembles a packet and checks flits, tag and IV. (R418) -/
  | packetReceive (p : Packet)
  /-- A window write packet is judged, performed and counted at the receiver. (R304) -/
  | windowWritePacket (p : Packet)
  /-- A release packet records its count and starts T_lost. (R304) -/
  | releasePacket (p : Packet)
  /-- T_lost expires and a replay is requested or a loss declared. (R304) -/
  | tLostExpiry (k : EpochKey)
  /-- A completion token removes a VDN from the pending set. (R307) -/
  | tokenArrival (f win vdn : Nat)
  /-- The sender resends every write of the epoch with the new replay number. (R307) -/
  | replayRequestArrival (f win vdn epoch r : Nat)
  /-- A reject fails the close with WINDOW_STATE. (R307) -/
  | rejectArrival (f win vdn : Nat)
  /-- A loss message fails the close with FABRIC_LOSS. (R307) -/
  | lossMessageArrival (f win vdn : Nat)
  /-- A flag-denied message fails the close with ACCESS_DENIED. (R307) -/
  | flagDeniedArrival (f win vdn : Nat)
  /-- No message for 2 × TLOST resends the release or fails with FABRIC_TIMEOUT. (R307) -/
  | resendTimeout (f win vdn : Nat)
  /-- A non-posted request is filtered and performed once or answered from cache. (R310) -/
  | nonpostedRequestArrival (p : Packet)
  /-- A response completes a fld, fatom or peer lock request. (R310) -/
  | nonpostedResponseArrival (p : Packet)
  /-- TLOST passes without a response; the request is resent or fails. (R310) -/
  | retransmitTimeout (id : Nat)
  /-- A fibre loses lock or exceeds the CRC rate and leaves the stripe. (R419) -/
  | fibreLeaveStripe (g : Nat) (fibre : FibreFault)
  /-- Every 100 ms the device tests out-of-service fibres and rejoins good ones. (R419) -/
  | fibreTest (g fibre : Nat) (good : Bool)
  /-- A pair of functions switches its link key phase via a control frame. (R427) -/
  | keyPhaseChange (k : LinkKey)
  /-- The 2 ms overlap ends and old-phase packets are no longer accepted. (R427) -/
  | keyPhaseOverlapEnd (k : LinkKey)
  /-- The old home forwards a packet addressed to the migrated function. (R412) -/
  | oxbowForward (p : Packet)
  /-- Forwarding ends OXWIN µs after COMMITTED. (R412) -/
  | oxbowWindowExpiry (f : Nat)
  /-- A switch frame retargets redirecting VDN entries and is acknowledged. (R411) -/
  | vdnSwitchFrame (srcDev srcFun dstDev dstFun mtag : Nat)
  /-- An acknowledgement arrives; SWDONE is set when all have acknowledged. (R411) -/
  | vdnSwitchAck (f dev : Nat)
  /-- A write to a VDN table entry, applying to packets issued after it. (R411) -/
  | vdneWrite (f v : Nat) (x : Word)
  /-- A 4-byte write to a notify-page doorbell sets QTAIL and starts reading. (R338) -/
  | doorbellWrite (f q : Nat) (x : Word)
  /-- QCTL.EN 0→1 resets QHEAD and QEIDX and enables reading. (R337) -/
  | queueEnable (f q : Nat)
  /-- QCTL.EN cleared stops reading the queue. (R337) -/
  | queueDisable (f q : Nat)
  /-- QCTL.LOG2N sets the ring size while EN is 0. (R337) -/
  | queueSetSize (f q n : Nat)
  /-- QCTL.ABORT ends every launch and copy record of the queue. (R351) -/
  | queueAbort (f q : Nat)
  /-- The front end reads a ring record and dispatches, skips or parks it. (R339) -/
  | recordRead (f q : Nat)
  /-- A finished record stores its completion word and decrements successors. (R346) -/
  | recordFinish (lid : Nat)
  /-- The queue copy unit finishes or faults a copy record. (R347) -/
  | copyRecordComplete (lid : Nat)
  /-- A key is loaded into a slot and the stalled dispatch proceeds. (R367) -/
  | keySlotLoad (lid slot : Nat)
  /-- The scheduler places the next waiting block on a free core. (R349) -/
  | blockPlace (lid core core2 : Nat)
  /-- A concurrent-mode block's slice ends and it is switched out. (R350) -/
  | timeSliceExpiry (bid : Nat)
  /-- A TLB miss starts or joins a two-stage walk. (R359) -/
  | tlbMissWalk (w : WalkReq)
  /-- A walk returns and installs a valid translation or raises a fault. (R359) -/
  | walkComplete (w : WalkReq)
  /-- INVB KIND 0 invalidates a VA range of an ASID. (R361) -/
  | shootdownVaRange (c : ShootCmd)
  /-- INVB KIND 1 invalidates a whole ASID. (R361) -/
  | shootdownAsid (c : ShootCmd)
  /-- INVB KIND 2 invalidates an IPA range of a function (host only). (R361) -/
  | shootdownIpaRange (c : ShootCmd)
  /-- INVB KIND 3 invalidates every entry of a function. (R361) -/
  | shootdownFunction (c : ShootCmd)
  /-- A shoot-down's conditions hold and GO reads 0. (R362) -/
  | shootdownComplete (blk : Nat)
  /-- MIGCTL.GO starts moving a local page within the device. (R364) -/
  | pageMigration (v : Word)
  /-- The copy ends, the leaf is rewritten, held writes are performed and STATUS reads 0. (R364) -/
  | pageMigrationComplete
  /-- WCTL OP 0 assigns a page to a handle's tag. (R366) -/
  | ownerAssign (handle : Nat)
  /-- WCTL OP 1 zeroes a page and returns its owner to 0. (R366) -/
  | ownerRelease (handle : Nat)
  /-- A deferred trap reaches a thread, taking it out of any wait. (R370) -/
  | deferredTrapArrival (bid tid : Nat) (cause : Nat) (addr : VAddr) (aux : Word)
  /-- A thread records its trap frame and enters its handler. (R371) -/
  | trapTake (bid tid : Nat)
  /-- A block's watchdog count reaches LIMIT and WATCHDOG is raised. (R375) -/
  | watchdogExpiry (bid : Nat)
  /-- The scheduler halts blocks, which stop within 2 µs and drain. (R377) -/
  | haltRequest (bid : Nat)
  /-- In-flight work settles and the block image is saved. (R377) -/
  | drainComplete (bid : Nat)
  /-- Saved blocks are placed, refetched, loaded and restarted. (R382) -/
  | blockResume (bid core core2 : Nat)
  /-- A function-level reset aborts its queues and resets its registers. (R351) -/
  | functionLevelReset (f : Nat)
  /-- A PLAYOUT write is judged and commits a layout or merge. (R389) -/
  | playoutWrite (v : Word)
  /-- A MILVd write sets window, die set and mode if the die is idle. (R388) -/
  | milvWrite (die : Nat) (v : Word)
  /-- An NBND write opens or closes die boundaries if their ends are idle. (R388) -/
  | nbndWrite (v : Word)
  /-- VFCTL ENABLE moves a function from DISABLED to CONFIG. (R392) -/
  | vfEnable (f : Nat)
  /-- VFCTL LOCK validates and moves to CONFIG_LOCKED. (R392) -/
  | vfLock (f : Nat)
  /-- VFCTL UNLOCK returns to CONFIG. (R392) -/
  | vfUnlock (f : Nat)
  /-- VFCTL START sets MOVING and loads the function's units. (R392) -/
  | vfStart (f : Nat)
  /-- The load ends and the function enters RUN. (R392) -/
  | vfStartComplete (f : Nat)
  /-- VFCTL QUIESCE stops queues and halts the function's blocks. (R393) -/
  | vfQuiesce (f : Nat)
  /-- BUSYQ reaches 0 and the function becomes QUIESCED. (R393) -/
  | vfQuiesceComplete (f : Nat)
  /-- VFCTL RESUME returns to RUN and resumes saved blocks. (R392) -/
  | vfResume (f : Nat)
  /-- VFCTL SAVE freezes, captures, transfers the image and runs the final pass. (R407) -/
  | vfSave (f : Nat)
  /-- VFCTL DISABLE resets the function to DISABLED. (R392) -/
  | vfDisable (f : Nat)
  /-- A write to a locked-set register is performed or rejected by state. (R394) -/
  | lockedSetWrite (num : Nat) (v : Word)
  /-- MCTL TRACK validates descriptors and sets every bitmap bit. (R402) -/
  | migTrack (f : Nat)
  /-- MCTL COPY starts Seep passes. (R401) -/
  | migCopy (f : Nat)
  /-- MCTL ACCEPT prepares the destination to receive Seep writes. (R409) -/
  | migAccept (f : Nat)
  /-- MCTL LOAD checks and applies the Neutral State Image. (R410) -/
  | migLoad (f : Nat)
  /-- MCTL SWITCH sends the VDN switch frame to every pod device. (R411) -/
  | migSwitch (f : Nat)
  /-- MCTL ABORT fails the session at both ends. (R413) -/
  | migAbort (f : Nat)
  /-- MCTL END stops tracking and returns to IDLE. (R401) -/
  | migEnd (f : Nat)
  /-- MCTL RESTORE reads a checkpoint image from host memory. (R435) -/
  | migRestore (f : Nat)
  /-- Seep exchanges bitmap words and posts marked granules to the far end. (R404) -/
  | seepPass (f : Nat)
  /-- The destination performs a Seep write through its stage 2. (R409) -/
  | seepWriteArrival (p : Packet)
  /-- The final pass ends; the session becomes SENT and VFSTAT SAVED. (R407) -/
  | finalPassComplete (f : Nat)
  /-- The image's release is performed and the destination becomes LOADABLE. (R409) -/
  | imageReleaseArrival (p : Packet)
  /-- An abort reaches the other end, which becomes FAILED or rejects it as late. (R413) -/
  | migAbortArrival (f srcDev : Nat)
  /-- A host-port read arrives and passes or fails the firewall. (R365) -/
  | hostPortRead (pa : HostAccess) (n : Nat)
  /-- A host-port write arrives and is performed, held or dropped. (R365) -/
  | hostPortWrite (pa : HostAccess) (data : List Byte)
  /-- A forwarded value reaches the trailer's load-value queue. (R316) -/
  | lvqEntryArrival (bid tid : Nat)
  /-- A twin compare entry arrives and the effect is performed once or mismatches. (R317) -/
  | compareEntryMatch (bid tid : Nat)
  /-- A leader's entry waits 2^16 cycles without a twin and counts as a mismatch. (R317) -/
  | compareTimeout (bid tid : Nat)
  /-- The patrol scrubber reads and corrects a unit of storage. (R430) -/
  | patrolScrub (u : ScrubUnit)
  /-- An uncorrectable error is refetched, logged or kills the owning block. (R433) -/
  | uncorrectableError (u : ErrorSite)
  /-- A write to RASCEd clears its corrected-error counts. (R431) -/
  | rasceClear (die : Nat)
  /-- Writing 1 to RASUE1.VALID clears it. (R432) -/
  | rasueClear (v : Word)
  /-- Power-on resets state and runs the measured boot. (R441) -/
  | powerOn (img : BootImages)
  /-- The security core extends a measurement register with accepted configuration. (R441) -/
  | measurementExtend (reg : Nat) (h : BitVec 384)
  /-- SPDM request for supported versions. (R442) -/
  | getVersion
  /-- SPDM request for capabilities. (R442) -/
  | getCapabilities
  /-- SPDM algorithm negotiation. (R442) -/
  | negotiateAlgorithms
  /-- SPDM request for certificate digests. (R442) -/
  | getDigests
  /-- SPDM request for a certificate chain. (R442) -/
  | getCertificate
  /-- SPDM challenge signed over the requester's nonce. (R442) -/
  | challenge (nonce : BitVec 256)
  /-- SPDM request for measurement registers or meter snapshots. (R442) -/
  | getMeasurements (idx : Nat) (nonce : BitVec 256)
  /-- SPDM key exchange opening a secured session. (R442) -/
  | keyExchange (nonce : BitVec 256)
  /-- SPDM FINISH completing session establishment. (R442) -/
  | finish
  /-- SPDM request ending a secured session. (R442) -/
  | endSession
  /-- Vendor-defined request installing a key handle and its tag. (R366) -/
  | keyInstall (handle gen : Nat)
  /-- Vendor-defined request removing a key handle with no owned pages. (R366) -/
  | keyRemove (handle : Nat)
  /-- Vendor-defined request advancing a handle's generation. (R367) -/
  | keyRotate (handle : Nat)
  /-- Vendor-defined request installing a function's link secret. (R424) -/
  | linkSecretInstall (f : Nat) (secret : BitVec 256)
  /-- A write to a system or BAR register that has no row of its own. (R206) -/
  | sysregWrite (num : Nat) (v : Word) (die part : Nat)
  /-- The local fabric port accepts a posted fst write, which decrements the group's ST counter. (R84) -/
  | localPortAccept (id : Nat)
  /-- IDE keys are programmed through IDE_KM in an SPDM session, returning the host link from the insecure state. (R443) -/
  | ideKeyProgram (keys : Bool)
  /-- A receiver frees a control slot and returns the link credit, letting a waiting control packet be sent. (R421) -/
  | controlCreditReturn (dev : Nat)  deriving DecidableEq, Repr

end Sys2Proof
end

