-- ==== Sys2Proof/Config.lean ====
section
/-! DEFINITION. What an implementation fixes and the manual leaves open: opaque constants. Nothing in Lean can evaluate
one, so a statement that mentions one holds for every value of it. -/

namespace Sys2Proof.Config

/-- The special functions whose result R122 only bounds. -/
inductive Special
  | rsq | exp2 | log2 | sin | cos
  deriving DecidableEq, Repr

/-- A free value: what the implementation delivers for `rsq`, `exp2`, `log2`, `sin` or `cos` of an FP32 code. The meaning
uses it where it lies within R122's bound (log entry 5). -/
opaque specialFn : Special → Word → Word

/-- A free value: the Mere slice, 0 to 15, that a physical line hashes to; undisclosed (R244, log entry 8). -/
opaque sliceHash : Nat → BitVec 4

/-- A free value: the set of a slice in which a physical line stands, one of the 32,768 sets of 16 lines that 64 MiB hold; the manual does not name it (R244,
log entry 82). -/
opaque mereSet : Nat → BitVec 15

/-- A free value: the set of a die directory in which a region's entry stands, which the manual does not name (R238, log entry 82). -/
opaque dirSet : Nat → BitVec 16

/-- A link key by HKDF-SHA-384 (R424): a secret, source and destination PHYS, source and destination function, phase (log entry 9). -/
opaque linkKey : Nat → Nat → Nat → Nat → Nat → Bool → BitVec 256

/-- What AES-GCM makes of a packet under a key and an IV: the header, the encrypted payload and the 16-byte tag (R424, log entry 9). -/
opaque gcmSeal : BitVec 256 → BitVec 96 → Packet → List Byte

/-- The key material of a handle at a generation (R367): the manual gives it no width and no source (log entry 105). -/
opaque keyMaterial : Nat → BitVec 8 → Nat

/-- SHA-384, a standard outside the manual (R16, R441, log entry 9). -/
opaque sha384 : List Byte → BitVec 384

/-- Whether an ECDSA P-384 signature over a digest verifies under the fused key (R16, R441, log entry 9). -/
opaque ecdsaOk : BitVec 384 → List Byte → Bool

/-- The fused anti-rollback count of a boot stage (R441, log entry 9). -/
opaque rollbackCount : Nat → Nat

/-- The device's signature over a response, by the SPDM standard (R16, R442, log entry 9). -/
opaque spdmSign : BitVec 256 → List Nat → BitVec 768

/-- A device's certificate chain and digests, by the SPDM standard (R16, R442, log entry 9). -/
opaque spdmBlob : Nat → List Byte

/-- The receive port on which packets of a peer device arrive is fixed by the topology (R303, R417): own and peer PHYS
give it, so this is not free. Group `x XOR x'` of R417. -/
def receivePort (own peer : Nat) : Nat := (own / 16) ^^^ (peer / 16)

/-- The wavelength on which a device sends to a peer: (y' − y) mod 16 (R417). -/
def wavelength (own peer : Nat) : Nat := (peer % 16 + 16 - own % 16) % 16

/-- Arithmetic-clock cycles in a microsecond at 1.8 GHz (R1, R7). -/
def cyclesPerUs : Nat := 1800

end Sys2Proof.Config
end

