-- ==== Sys2Proof/Machine/State.lean ====
section
/-! DEFINITION. The state of one WX-SK4 device, as plain data, and the machine right after reset (R2, R8). Every sparse
table is a list of (key, value) pairs with rising keys in which nothing equal to what an unlisted key reads as stands;
`Machine/Tab.lean` holds its operations. -/

namespace Sys2Proof.Machine

/-- A posted `fst` write that the local port has still to accept (R84, R197). -/
structure Posted where
  id : Nat
  tok : Nat
  bid : Nat
  grp : Nat
  pkt : Packet
  deriving DecidableEq, Repr

/-- A migration session's state beyond its registers (R404, R405, R407, R412): at the source the pass under way with the granules
it has posted, at the destination the granules received and the release held. `switched`: SWITCH has been written here. -/
structure Session where
  tracking : Bool
  /-- when the function froze, until it runs again (R407) -/
  frozen : Option Nat
  forwarding : Bool
  inbuf : List Packet
  held : List (Nat × List Byte)
  oxEnd : Option Nat
  /-- the epoch of the pass under way at the source, the last one closed at the destination (R301, R405) -/
  epoch : BitVec 8
  /-- committed before the last pass was over (R411) -/
  finishing : Bool
  desc : Nat
  word : Nat
  /-- granules posted in the pass: intermediate and physical address -/
  pass : List (Nat × Nat)
  r : Nat
  arrived : Nat
  expect : Option (Nat × Option Image)
  deadline : Option Nat
  resends : Nat
  /-- the image that SAVE captured, until it is sent -/
  image : Option Image
  switched : Bool
  acks : List Nat
  /-- when Seep copied each granule of the last 100 µs (R406) -/
  copied : List Nat
  deriving DecidableEq, Repr

/-- A write that the device makes for a function and that the throttle holds at its home, with the vector that follows it (R406). -/
structure DevHeld where
  f : Nat
  tag : Nat
  pa : Nat
  data : List Byte
  vector : Option (Nat × Nat)
  deriving DecidableEq, Repr

/-- SPDM's connection and session (R442). -/
structure Spdm where
  negotiated : Bool
  exchanged : Bool
  secured : Bool
  snapshots : Nat
  powerOns : Nat
  deriving DecidableEq, Repr

/-- How a packet lies on the link: its transmit group and wavelength, the fibres that carry its flits in their order, and, but for an SPDM request,
the IV and what AES-GCM makes of it (R417, R418, R424). -/
structure Wire where
  group : Nat
  wave : Nat
  fibres : List Nat
  iv : BitVec 96
  sealed : List Byte
  deriving DecidableEq, Repr

/-- What the device sends out: packets, the loss of what a fibre carries, credits for control packets, MSI-X signals, host-port answers, the tolerated
latency, SPDM responses. -/
inductive Out
  | packet (p : Packet) (w : Wire)
  | flitsLost (g fibre : Nat)
  | credit (dev : Nat)
  | ltr (tol : Nat)
  | msix (f v : Nat)
  | hostRead (pa : Nat) (data : List Byte)
  | hostDropped (pa : Nat)
  | spdm (code : Nat) (data : List Nat) (sig : BitVec 768)
  | spdmBlob (code : Nat) (data : List Byte)
  deriving DecidableEq, Repr

/-- A port of a core (R77, R78). -/
inductive Port
  | a | b
  deriving DecidableEq, Repr

/-- An issue set: the threads of a core that issue together at a PC, in ascending lane order (R76). -/
structure IssueSet where
  core : Nat
  port : Port
  pc : VAddr
  members : List ThreadKey
  deriving DecidableEq, Repr

/-- The whole machine. -/
structure State where
  /-- arithmetic-clock cycles since the dies left reset (R27) -/
  clk : Nat
  /-- the core whose cycle came last -/
  turn : Nat
  /-- the issue sets chosen for the cycle, port A first; the head issues next -/
  ports : List IssueSet
  /-- steps that the outside and the device's agents take next (log entry 2) -/
  inputs : List Instr
  /-- packets that this device sent to itself and has still to receive (R298), and packets received and accepted whose own
  step comes next (R418) -/
  arriving : List Packet
  accepted : List (Packet × RxSlot)
  /-- the next access, command, block or launch number -/
  nextId : Nat
  /-- what has been sent out, oldest first -/
  outbox : List Out
  threads : List Thread
  groups : List Group
  blocks : List Block
  cores : Tab Core
  dies : Tab Die
  quads : Tab Quad
  loads : List Load
  nps : List NonPosted
  wants : List Want
  posts : List Posted
  copies : List CopyCmd
  mcmds : List MatCmd
  /-- local memory by device physical address, as its homes hold it (R251) -/
  mem : Memory
  /-- what HBM holds behind a dirty line, by the line's place in HBM (R244, R385, R433) -/
  hbm : Tab (List Byte)
  host : Memory
  owners : Tab Nat
  l1 : List L1Line
  mere : List MereLine
  /-- lines whose stored check bits fail (R433) -/
  poisoned : List Nat
  locks : List LockEntry
  lockLog : Tab (List (BitVec 128))
  windows : Tab Window
  epochs : Tab EpochRec
  arrivals : List Arrival
  seqs : Tab Nat
  dups : Tab DupFilter
  links : List (LinkKey × LinkState)
  ivs : Tab IvWindow
  /-- when packets of a source, by function, device and function there, were dropped within the last millisecond (R427) -/
  drops : Tab (List Nat)
  linkSecrets : Tab Nat
  /-- control packets on their way to each device (R421, log entry 116), and those that wait for a credit -/
  credits : Tab Nat
  ctrlWait : List Packet
  /-- packets that wait for a transmit group; of each group, the fibre that comes next, the function served last, and by group and function the deficit
  in bytes (R418, R420) -/
  txq : List Packet
  txFibre : Tab Nat
  txTurn : Tab Nat
  txDeficit : Tab Nat
  /-- of each transmit fibre, by 32 · group + fibre: when CRC errors came within the last millisecond, since when its test runs without error (one more,
  0 for none), and when the next test may begin (R419) -/
  fibreErrs : Tab (List Nat)
  fibreRuns : Tab Nat
  fibreNext : Tab Nat
  sysregs : Tab Word
  bar0 : Tab Word
  errSeq : Tab Nat
  launches : List Launch
  /-- reports of pod barriers that wait for their launch (R225, log entry 111) -/
  podHeard : List PodHeard
  parked : List Parked
  stalled : List Stalled
  /-- queues (function, queue) whose reading a ring fault has stopped (R339) -/
  ringStops : List (Nat × Nat)
  saved : List SavedBlock
  resuming : List Resuming
  /-- the scheduler's rotation: one more than the function served last, by partition and priority, and than the queue served last, by these and
  function (R349) -/
  turns : Tab Nat
  /-- of each function, when its next own write may mark a clear granule under the throttle (R406) -/
  paces : Tab Nat
  /-- writes of the device that the throttle holds, oldest first (R406) -/
  devHeld : List DevHeld
  /-- the session that Seep serves next (R404) -/
  seepTurn : Nat
  /-- the Neutral State Images that this device has laid out in memory, or received (R405, R408, log entry 20) -/
  images : List Image
  meters : Tab (BitVec 64)
  tlb : List TlbEntry
  walks : List WalkReq
  /-- shoot-downs in progress: register block (0–8 guest of f, 9 host, 10 owner command), kind (4: the page of WPAGE), command,
  and the number of the first access that comes after -/
  shoots : List (Nat × Nat × ShootCmd × Nat)
  /-- functions that need a KIND 3 shoot-down before RESUME, after a merge (R395) -/
  stale : List Nat
  /-- functions whose DISABLE waits for the end of START (R392) -/
  disables : List Nat
  /-- when each function's last RESUME was written, one more than the cycle (R399) -/
  resumes : Tab Nat
  pageMove : Option PageMove
  keySlots : Tab KeySlot
  handles : Tab KeyHandle
  sessions : Tab Session
  spdm : Spdm
  ideSecure : Bool
  /-- a tag has failed, or the keys were withdrawn: nothing crosses the host port until they are programmed again (R443) -/
  ideBroken : Bool
  /-- the latency tolerance that the host port reported last (R438, R443) -/
  ltrSent : Nat
  measure : Tab (BitVec 384)
  recovery : Bool
  deriving DecidableEq, Repr

/-- The reasons a step stops the machine. The manual names none that this model does not take as a trap, an error record
or a rejected write, so nothing raises one. -/
inductive Fault
  /-- no step raises it: an access to an address that the manual says does not exist takes the manual's own trap
  (R137, R386), which is a next state. Safe. -/
  | noSuchAddress
  deriving DecidableEq, Repr

/-- The reasons a step has no meaning in the model. -/
inductive Refusal
  /-- raised by a dispatch arm of an instruction that has no meaning yet. Safe. -/
  | notModelled (mnemonic : String)
  deriving DecidableEq, Repr

/-- Power-on values of the status-free records: a core with nothing resident (R231, log entries 3 and 7). -/
def Core.reset : Core where
  lid := none
  l1k := 448
  slots := []
  tiles := []
  claims := []
  segs := []
  imem := []
  pools := []
  regq := []
  evSrc := []
  evCnt := []
  power := .run
  gatedAt := 0
  wrapEpoch := 0

/-- A link key before its first packet: phase 0, counter 0 (R425). -/
def LinkState.reset : LinkState where
  phase := false
  ctr := 0
  rxPhase := false
  both := false
  overlap := none
  refreshAt := none
  wanted := false
  asked := false

/-- A die at power-on (R239: lease clock 0; R242: constant counter, log entry 7). -/
def Die.reset : Die where
  lease := 0
  constCnt := 0
  constNext := 1024
  pause := false
  wrap := false
  constLines := []
  dir := []
  evSrc := []
  evCnt := []
  power := .run
  mereAt := 0

/-- A quad at power-on: injection disarmed, staging empty (R204, R269). -/
def Quad.reset : Quad where
  inject := none
  staging := []

/-- A window at function-level reset (R299). -/
def Window.reset : Window where
  st := .free
  inc := 0
  epoch := 0
  counts := []
  closing := 0
  pending := []
  buf := []
  copies := []
  fault := 0
  closer := none

/-- A migration session at rest (R400). -/
def Session.reset : Session where
  tracking := false
  frozen := none
  forwarding := false
  inbuf := []
  held := []
  oxEnd := none
  epoch := 0
  finishing := false
  desc := 0
  word := 0
  pass := []
  r := 0
  arrived := 0
  expect := none
  deadline := none
  resends := 0
  image := none
  switched := false
  acks := []
  copied := []

/-- A trap frame before the first trap (log entry 7). -/
def TrapFrame.reset : TrapFrame where
  cause := 0
  pc := 0
  resume := 0
  addr := 0
  aux := 0

/-- The configuration of a group at creation: 0 (R188). -/
def Pcfg.reset : Pcfg where
  s := 0
  z := 0
  g128 := false
  fp8Scales := false
  sparseTrap := false
  bSlot := 0
  pitchS := 0
  pitchZ := 0

/-- A barrier register at block start: 0 in all fields (R163, R222). -/
def Bar.reset : Bar where
  ph := false
  pb := 0
  pa := 0
  ea := 0

/-- The machine right after reset: no launch, every function DISABLED, every register at the value its map gives, which
is what the empty tables read as (R8, R391; log entries 3, 4 and 7). -/
def State.reset : State where
  clk := 0
  turn := 0
  ports := []
  inputs := []
  arriving := []
  accepted := []
  nextId := 1
  outbox := []
  threads := []
  groups := []
  blocks := []
  cores := []
  dies := []
  quads := []
  loads := []
  nps := []
  wants := []
  posts := []
  copies := []
  mcmds := []
  mem := []
  hbm := []
  host := []
  owners := []
  l1 := []
  mere := []
  poisoned := []
  locks := []
  lockLog := []
  windows := []
  epochs := []
  arrivals := []
  seqs := []
  dups := []
  links := []
  ivs := []
  drops := []
  linkSecrets := []
  credits := []
  ctrlWait := []
  txq := []
  txFibre := []
  txTurn := []
  txDeficit := []
  fibreErrs := []
  fibreRuns := []
  fibreNext := []
  sysregs := []
  bar0 := []
  errSeq := []
  launches := []
  podHeard := []
  parked := []
  stalled := []
  ringStops := []
  saved := []
  resuming := []
  turns := []
  paces := []
  devHeld := []
  seepTurn := 0
  images := []
  meters := []
  tlb := []
  walks := []
  shoots := []
  stale := []
  disables := []
  resumes := []
  pageMove := none
  keySlots := []
  handles := []
  sessions := []
  spdm := { negotiated := false, exchanged := false, secured := false, snapshots := 0, powerOns := 0 }
  ideSecure := false
  ideBroken := false
  ltrSent := 0xFFFF
  measure := []
  recovery := false

end Sys2Proof.Machine
end

