-- ==== Sys2Proof/Machine/Tab.lean ====
section
/-! DEFINITION. Sparse tables in one canonical form: keys strictly rise, and no entry equals what an unlisted key reads as.
Memory is the table of bytes whose unlisted byte reads 0 (log entry 3). -/

namespace Sys2Proof.Machine

/-- What key `k` reads as: its entry, or the default. -/
def Tab.get (d : Nat → α) (t : Tab α) (k : Nat) : α :=
  match t with
  | [] => d k
  | (j, v) :: r => if j = k then v else if k < j then d k else Tab.get d r k

/-- Replaces, inserts or, for the default, removes the entry of a key. -/
def Tab.set [DecidableEq α] (d : Nat → α) (t : Tab α) (k : Nat) (v : α) : Tab α :=
  match t with
  | [] => if v = d k then [] else [(k, v)]
  | (j, w) :: r =>
    if j = k then (if v = d k then r else (k, v) :: r)
    else if k < j then (if v = d k then (j, w) :: r else (k, v) :: (j, w) :: r)
    else (j, w) :: Tab.set d r k v

/-- Changes every entry; one that becomes the default goes. -/
def Tab.mapVals [DecidableEq α] (d : Nat → α) (f : α → α) (t : Tab α) : Tab α :=
  (t.map fun e => (e.1, f e.2)).filter fun e => !decide (e.2 = d e.1)

/-- Every key of a table is above `n`, and they rise. -/
def Tab.above (n : Nat) (t : Tab α) : Bool :=
  match t with
  | [] => true
  | (j, _) :: r => n < j && Tab.above j r

/-- The canonical form. -/
def Tab.wf [DecidableEq α] (d : Nat → α) (t : Tab α) : Bool :=
  (match t with
    | [] => true
    | (j, _) :: r => Tab.above j r) && t.all fun e => !decide (e.2 = d e.1)

/-- The byte at an address (R231; an unlisted byte is 0, log entry 3). -/
def Memory.byte (m : Memory) (a : Nat) : Byte := Tab.get (fun _ => 0) m a

def Memory.setByte (m : Memory) (a : Nat) (b : Byte) : Memory := Tab.set (fun _ => 0) m a b

/-- The canonical form of memory. -/
def Memory.wf (m : Memory) : Bool := Tab.wf (fun _ => (0 : Byte)) m

/-- `n` bytes from an address up. -/
def Memory.bytes (m : Memory) (a : Nat) : Nat → List Byte
  | 0 => []
  | n + 1 => m.byte a :: m.bytes (a + 1) n

/-- Stores bytes from an address up. -/
def Memory.store (m : Memory) (a : Nat) (bs : List Byte) : Memory :=
  match bs with
  | [] => m
  | b :: r => (m.setByte a b).store (a + 1) r

/-- Bytes as an unsigned little-endian number (R5, R64). -/
def leNat (bs : List Byte) : Nat :=
  match bs with
  | [] => 0
  | b :: r => b.toNat + 256 * leNat r

/-- The low `n` bytes of a number, little-endian. -/
def leBytes (x : Nat) : Nat → List Byte
  | 0 => []
  | n + 1 => BitVec.ofNat 8 x :: leBytes (x / 256) n

/-- The `n`-byte value at an address (R64). -/
def Memory.read (m : Memory) (a n : Nat) : Nat := leNat (m.bytes a n)

/-- Clears `n` bytes from an address up. -/
def Memory.zero (m : Memory) (a n : Nat) : Memory := m.filter fun e => e.1 < a || a + n ≤ e.1

/-- Two's-complement reading of `n` bits (R46). -/
def sgn (n x : Nat) : Int := if x % 2 ^ n < 2 ^ (n - 1) then (x % 2 ^ n : Nat) else (x % 2 ^ n : Nat) - (2 ^ n : Nat)

/-- The low `n` bits of an integer (R46). -/
def low (n : Nat) (x : Int) : Nat := (x % (2 ^ n : Nat)).toNat

/-- The first element that satisfies a condition is replaced. -/
def updFirst (p : α → Bool) (f : α → α) : List α → List α
  | [] => []
  | x :: r => if p x then f x :: r else x :: updFirst p f r

end Sys2Proof.Machine
end

