-- ==== Sys2Proof/Machine/Regs.lean ====
section
/-! DEFINITION. The system registers and BAR 0 registers by number, with what each reads as after reset (R206, R241, R286,
R287, R308, R309, R337, R350, R357, R358, R361, R363, R366, R375, R378, R387, R391, R400, R411, R416, R419, R422, R423,
R431 to R438), and the partition arithmetic of R384 to R386. A register that exists once per die or per partition ID is
kept under its number plus 0x100000 for each. -/

namespace Sys2Proof.Machine

/-- The key of a per-die or per-partition register. -/
def unitKey (num unit : Nat) : Nat := num + 0x100000 * unit

/-- What a system register reads as after reset. -/
def sysReset (k : Nat) : Word :=
  let n := k % 0x100000
  if n = 0x0210 then 0x01000040
  else if 0x0400 ≤ n && n < 0x0490 then
    match n % 16 with
    | 0 => 0x0064000A | 1 => 0x000003E8 | 2 => 0x10000400 | 3 => 0x00040014 | _ => 0
  else if n = 0x0500 then 100
  else if n = 0x0501 then 1000
  else if 0x0801 ≤ n && n ≤ 0x0804 then 0xF0
  else if n = 0x0805 then 0xF
  else if 0x0A00 ≤ n && n < 0x0A80 then
    match n % 16 with
    | 2 => 256 | 3 => 0xC00003E8 | _ => 0
  else if 0x0D00 ≤ n && n < 0x0D90 then
    match n % 16 with
    | 0 => 0x401 | _ => 0
  else 0

/-- The value of a system register. -/
def State.sys (s : State) (k : Nat) : Word := Tab.get sysReset s.sysregs k

def State.setSys (s : State) (k : Nat) (v : Word) : State := { s with sysregs := Tab.set sysReset s.sysregs k v }

/-- The number of register `r` of function `f` in the block from `base` (16 numbers each). -/
def fReg (base f r : Nat) : Nat := base + 16 * f + r

/-- What a BAR 0 register reads as after reset: LOG2N is 4 (R337). The key is 0x10000 · function + offset. -/
def barReset (k : Nat) : Word :=
  let o := k % 0x10000
  if 0x1000 ≤ o && o < 0x1800 && o % 32 = 8 then 0x04000000 else 0

def State.bar (s : State) (f o : Nat) : Word := Tab.get barReset s.bar0 (0x10000 * f + o)

def State.setBar (s : State) (f o : Nat) (v : Word) : State :=
  { s with bar0 := Tab.set barReset s.bar0 (0x10000 * f + o) v }

/-- A 64-bit BAR 0 register from its two words. -/
def State.bar64 (s : State) (f o : Nat) : Nat := (s.bar f o).toNat + 2 ^ 32 * (s.bar f (o + 4)).toNat

/-- This device's PHYS (R416). -/
def State.phys (s : State) : Nat := (s.sys 0x0DA4).toNat % 64

/-- The partition ID of a die (R384). -/
def State.dieId (s : State) (d : Nat) : Nat := (s.sys 0x0800).toNat / 4 ^ d % 4

/-- The dies of a partition. -/
def State.partDies (s : State) (p : Nat) : List Nat := (List.range 4).filter fun d => s.dieId d == p

/-- The partition that a function's VFPART names (R391). -/
def State.partOf (s : State) (f : Nat) : Nat := (s.sys (fReg 0x0900 f 2)).toNat % 4

/-- The die of a core (R27). -/
def dieOf (core : Nat) : Nat := core / 48

/-- The quad of a core (R27). -/
def quadOf (core : Nat) : Nat := core / 4

/-- The cores of a partition. -/
def State.partCores (s : State) (p : Nat) : List Nat := (List.range 192).filter fun c => s.dieId (dieOf c) == p

/-- A register of a die's Mere layout: WIN, DSET, MODE (R387). -/
def State.milv (s : State) (d : Nat) : Nat := (s.sys (0x0801 + d)).toNat

/-- Whether a physical address lies in the HBM range or a Mere window of a partition (R385, R386). -/
def State.inPart (s : State) (p pa : Nat) : Bool :=
  (s.partDies p).any fun d =>
    (d * 2 ^ 37 ≤ pa && pa < (d + 1) * 2 ^ 37) ||
    (2 ^ 40 + d * 2 ^ 30 ≤ pa && pa < 2 ^ 40 + d * 2 ^ 30 + bits (s.milv d) 11 8 * 2 ^ 26)

/-- Whether a physical address lies in a Mere window (R245). -/
def inWindow (pa : Nat) : Bool := 2 ^ 40 ≤ pa

/-- The bits of an address that name the die under the partition's interleave: 0 where it is linear or has one die. The MODE in force is
that of the partition's lowest die (R385, log entry 83). -/
def State.dieBits (s : State) (d0 k : Nat) : Nat :=
  if bits (s.milv d0) 1 0 = 1 then (if k = 2 then 1 else if k = 4 then 2 else 0) else 0

/-- The home die of a physical address of a partition and the offset in that die's HBM; for a Mere window, the die and the offset in its
window (R385). -/
def State.hbmPlace (s : State) (pa : Nat) : Nat × Nat :=
  if inWindow pa then ((pa - 2 ^ 40) / 2 ^ 30 % 4, (pa - 2 ^ 40) % 2 ^ 30)
  else
    let d := pa / 2 ^ 37 % 4
    let ds := s.partDies (s.dieId d)
    let d0 := ds.headD d
    let rel := pa - d0 * 2 ^ 37
    let b := s.dieBits d0 ds.length
    if b = 0 then (d, pa % 2 ^ 37)
    else (d0 + rel / 2 ^ 12 % 2 ^ b, rel / 2 ^ (12 + b) * 2 ^ 12 + rel % 2 ^ 12)

/-- The physical address of an offset in a die's HBM (R385). -/
def State.hbmAddr (s : State) (d o : Nat) : Nat :=
  let ds := s.partDies (s.dieId d)
  let d0 := ds.headD d
  let b := s.dieBits d0 ds.length
  if b = 0 then d * 2 ^ 37 + o
  else d0 * 2 ^ 37 + o / 2 ^ 12 * 2 ^ (12 + b) + (d - d0) * 2 ^ 12 + o % 2 ^ 12

/-- The home die of a physical address (R244, R385). -/
def State.homeDie (s : State) (pa : Nat) : Nat := (s.hbmPlace pa).1

/-- The place of a lock entry's slice: home die and slice hash (R244, R280). -/
def State.sliceOf (s : State) (line : Nat) : Nat := 16 * s.homeDie (128 * line) + (Config.sliceHash line).toNat

/-- The ends of a die boundary (R387). -/
def boundary (n : Nat) : Nat × Nat :=
  match n with
  | 0 => (0, 1) | 1 => (1, 3) | 2 => (3, 2) | _ => (2, 0)

/-- Whether the boundary between two dies is open (R387). -/
def State.joined (s : State) (a b : Nat) : Bool :=
  (List.range 4).any fun n => bit (s.sys 0x0805).toNat n && (boundary n == (a, b) || boundary n == (b, a))

/-- The boundaries that are open (R387). -/
def State.nbndOpen (s : State) : Nat := (s.sys 0x0805).toNat % 16

/-- Whether traffic can pass from a die to another through open boundaries (R386, R387). DESIGN CHOICE (log entry 83): through any of them, the long way round
where the two dies' own boundary is closed. -/
def State.dieReaches (s : State) (a b : Nat) : Bool :=
  ((List.range 3).foldl (fun l _ => l ++ (List.range 4).filter fun d => l.any fun x => s.joined x d) [a]).contains b

/-- The VDN table entry v of a function (R411). -/
def State.vdne (s : State) (f v : Nat) : Nat := (s.sys (0x1000 + 0x40 * f + v % 64)).toNat

/-- Whether a VDN entry is valid or redirecting (R298, R411). -/
def vdnOk (e : Nat) : Bool := e % 4 == 1 || e % 4 == 2

def vdnPhys (e : Nat) : Nat := bits e 21 16
def vdnFunc (e : Nat) : Nat := bits e 5 2

/-- Whether an entry names this device and the function itself (R27, R201). -/
def State.vdnSelf (s : State) (f e : Nat) : Bool := vdnOk e && vdnPhys e == s.phys && vdnFunc e == f

/-- A function's own VDN: the lowest entry that names it, if any (R27). -/
def State.ownVdn (s : State) (f : Nat) : Option Nat := (List.range 64).find? fun v => s.vdnSelf f (s.vdne f v)

/-- The state of a virtual function (R391): 0 DISABLED … 6 SAVED. -/
def State.vfState (s : State) (f : Nat) : Nat := bits (s.sys (fReg 0x0900 f 1)).toNat 31 28

/-- A die's record, as after reset where it has none. -/
def State.die (s : State) (d : Nat) : Die := Tab.get (fun _ => Die.reset) s.dies d

def State.setDie (s : State) (d : Nat) (x : Die) : State := { s with dies := Tab.set (fun _ => Die.reset) s.dies d x }

def State.core (s : State) (c : Nat) : Core := Tab.get (fun _ => Core.reset) s.cores c

def State.setCore (s : State) (c : Nat) (x : Core) : State := { s with cores := Tab.set (fun _ => Core.reset) s.cores c x }

def State.quad (s : State) (q : Nat) : Quad := Tab.get (fun _ => Quad.reset) s.quads q

def State.setQuad (s : State) (q : Nat) (x : Quad) : State := { s with quads := Tab.set (fun _ => Quad.reset) s.quads q x }

def State.window (s : State) (f w : Nat) : Window := Tab.get (fun _ => Window.reset) s.windows (32 * f + w)

def State.setWindow (s : State) (f w : Nat) (x : Window) : State :=
  { s with windows := Tab.set (fun _ => Window.reset) s.windows (32 * f + w) x }

def State.session (s : State) (f : Nat) : Session := Tab.get (fun _ => Session.reset) s.sessions f

def State.setSession (s : State) (f : Nat) (x : Session) : State :=
  { s with sessions := Tab.set (fun _ => Session.reset) s.sessions f x }

/-- Whether a function is frozen: the timers of its queues, arrivals, windows and requests stand still (R407). -/
def State.frozen (s : State) (f : Nat) : Bool := f < 8 && (s.session f).frozen.isSome

/-- A meter: 16 · owner + meter, owners 0–7 functions, 8–11 partitions 0–3 (R208, R440). -/
def State.addMeter (s : State) (owner m n : Nat) : State :=
  let k := 16 * owner + m
  { s with meters := Tab.set (fun _ => 0) s.meters k (Tab.get (fun _ => 0) s.meters k + BitVec.ofNat 64 n) }

/-- Counts work of a function, done on a die, in its meter and in the partition's (R386, R440). -/
def State.meter (s : State) (f die m n : Nat) : State :=
  let s := if f < 8 then s.addMeter f m n else s
  s.addMeter (8 + s.dieId die) m n

/-- Counts an event of a core on the counters whose source it is (R439). -/
def State.coreEvent (s : State) (c src n : Nat) : State :=
  let k := s.core c
  let cnt := (List.range 16).foldl (fun t i =>
    if Tab.get (fun _ => 0) k.evSrc i = src then
      Tab.set (fun _ => 0) t i (Tab.get (fun _ => (0 : BitVec 64)) t i + BitVec.ofNat 64 n) else t) k.evCnt
  if k.evSrc.isEmpty then s else s.setCore c { k with evCnt := cnt }

/-- Counts an event of a die on the counters whose source it is (R439). -/
def State.dieEvent (s : State) (d src n : Nat) : State :=
  let k := s.die d
  let cnt := (List.range 32).foldl (fun t i =>
    if Tab.get (fun _ => 0) k.evSrc i = src then
      Tab.set (fun _ => 0) t i (Tab.get (fun _ => (0 : BitVec 64)) t i + BitVec.ofNat 64 n) else t) k.evCnt
  if k.evSrc.isEmpty then s else s.setDie d { k with evCnt := cnt }

/-- Sets bits `hi` down to `lo` of a word. -/
def setBits (x hi lo v : Nat) : Nat := x - bits x hi lo * 2 ^ lo + (v % 2 ^ (hi + 1 - lo)) * 2 ^ lo

/-- The arithmetic-clock cycles of µs (R7). -/
def us (n : Nat) : Nat := Config.cyclesPerUs * n

/-! Saturating counters of what a function's ports drop (R309, R423). -/

/-- Adds 1 to a saturating field of a register. -/
def State.bump1 (s : State) (num hi lo : Nat) : State :=
  let x := (s.sys num).toNat
  s.setSys num (BitVec.ofNat 32 (setBits x hi lo (min (2 ^ (hi + 1 - lo) - 1) (bits x hi lo + 1))))

/-- FWDROP.STALE and NOENT (R309), and LNKDROP's counts (R423), of a function. -/
def State.stalePkt (s : State) (f : Nat) : State := s.bump1 (fReg 0x0400 f 4) 15 0
def State.noEntry (s : State) (f : Nat) : State := s.bump1 (fReg 0x0400 f 4) 31 16
def State.noSlot (s : State) (f : Nat) : State := s.bump1 (fReg 0x0D00 f 1) 31 16
def State.ivReject (s : State) (f : Nat) : State := s.bump1 (fReg 0x0D00 f 1) 15 8
def State.badTag (s : State) (f : Nat) : State := s.bump1 (fReg 0x0D00 f 1) 7 0

/-- One more in a field of 8 bits of a die's RASCE, saturating (R431). -/
def State.rasCount (s : State) (die lo : Nat) : State := s.bump1 (0x0C00 + die) (lo + 7) lo

/-- RASUE1's COUNT rises by 1, saturating (R432). -/
def State.countError (s : State) : State :=
  let x := (s.sys 0x0C09).toNat
  s.setSys 0x0C09 (BitVec.ofNat 32 (setBits x 23 0 (min (2 ^ 24 - 1) (x % 2 ^ 24 + 1))))

/-- Records an uncorrectable error: its class, owning function (15 for none) and line, 0 for core state (R432). -/
def State.logError (s : State) (cls f pa : Nat) : State :=
  let s := s.countError
  let x := (s.sys 0x0C09).toNat % 2 ^ 24
  (s.setSys 0x0C08 (BitVec.ofNat 32 (pa / 4096))).setSys 0x0C09 (BitVec.ofNat 32 (2 ^ 31 + cls % 8 * 2 ^ 28 + f % 16 * 2 ^ 24 + x))

/-- The low bit of an error field in RASCE (R431). -/
def rasLow (k : ErrField) : Nat :=
  match k with
  | .hbm => 24 | .mere => 16 | .core => 8 | .link => 0

/-- One more corrected error of a die (R431, R439). -/
def State.corrected (s : State) (die : Nat) (k : ErrField) : State := (s.rasCount die (rasLow k)).dieEvent die 40 1

end Sys2Proof.Machine
end

