-- ==== Sys2Proof/Machine/Xlate.lean ====
section
/-! DEFINITION. From an effective address to where it leads: the spaces (R137), the two-stage walk (R353 to R358), cached
translations (R359), the firewall (R365), and the checks of R139 with the cells of R138. -/

namespace Sys2Proof.Machine

/-- A translation: where the page leads at the address, the page size's exponent, W, X and K of both stages, the stage-2
page's IPA and the owner. -/
structure Trans where
  tgt : Target
  size : Nat
  ipa : Nat
  w : Bool
  x : Bool
  k : Bool
  owner : Nat
  deriving DecidableEq, Repr

/-- The owner of a local page (R365). -/
def State.owner (s : State) (pa : Nat) : Nat := Tab.get (fun _ => 0) s.owners (pa / 4096)

def State.setOwner (s : State) (pa n : Nat) : State := { s with owners := Tab.set (fun _ => 0) s.owners (pa / 4096) n }

/-- The place of a block's image in the save area is free again; pages owned under a tag are zeroed first and open then (R366, R368). -/
def State.freeImage (s : State) (b : Block) (tag : Nat) : State :=
  match b.saveAt with
  | none => s
  | some (a, n) =>
    if tag = 0 then s
    else (List.range (n / 4096)).foldl (fun s i => s.setOwner (a + 4096 * i) 0) { s with mem := s.mem.zero a n }

/-- A table entry's checks that both stages share, at level `lvl` (R353, R355); `leaf` is L. A stage-1 entry's OA lies in the intermediate
space, a table's as a leaf's (R354, log entry 91). DESIGN CHOICE (log entry 115): K with W = 0 in a stage-2 entry, and C in an entry that is no leaf of
level 3, change nothing. -/
def entryOk (stage2 : Bool) (lvl e : Nat) : Bool :=
  let leaf := bit e 7
  bit e 0 && bits e 63 52 == 0 && bits e 11 8 == 0 &&
  (if lvl = 0 then !leaf else if lvl = 3 then leaf else true) &&
  (bits e 6 5 == 0 || (stage2 && leaf)) && (stage2 || bits e 51 46 == 0) &&
  !(bit e 3 && bit e 1) &&
  (if leaf && lvl = 1 then bits e 29 12 == 0 else if leaf && lvl = 2 then bits e 20 12 == 0 else true)

/-- OA as an address. -/
def entryOa (e : Nat) : Nat := bits e 51 12 * 4096

/-- The group of 16 level-3 entries of one line: every C set, equal low bits, contiguous OA from an aligned base (R354). -/
def groupOk (es : List Nat) : Bool :=
  let e0 := es.headD 0
  bits e0 15 12 == 0 &&
  (es.zipIdx).all fun (e, i) => bit e 4 && bits e 11 0 == bits e0 11 0 && entryOa e == entryOa e0 + 4096 * i &&
    bits e 63 52 == 0

/-- The index of an address at a level: nine bits at levels 1 to 3, at level 0 the address's highest bits (R354). -/
def walkIdx (stage2 : Bool) (lvl a : Nat) : Nat :=
  match lvl with
  | 1 => bits a 38 30
  | 2 => bits a 29 21
  | 3 => bits a 20 12
  | _ => if stage2 then bits a 45 39 else bits a 51 39

/-- The page-size exponent of a leaf at a level (R354). -/
def leafSize (lvl : Nat) (c : Bool) : Nat :=
  match lvl with
  | 1 => 30
  | 2 => 21
  | _ => if c then 16 else 12

/-- Walks the levels of a table whose entries `rd` reads: the leaf, its level's page size and its address; a faulting read
or a bad entry is nothing. -/
def walkLevels (stage2 : Bool) (rd : Nat → Option Nat) (a : Nat) : List Nat → Nat → Option (Nat × Nat × Nat)
  | [], _ => none
  | lvl :: rest, base =>
    let p := base + 8 * walkIdx stage2 lvl a
    match rd p with
    | none => none
    | some e =>
      if !entryOk stage2 lvl e then none
      else if !bit e 7 then walkLevels stage2 rd a rest (entryOa e)
      else if lvl = 3 && bit e 4 then
        let es := (List.range 16).map fun i => (rd (p / 128 * 128 + 8 * i)).getD 0
        if groupOk es then some (e, 16, p) else none
      else some (e, leafSize lvl false, p)

/-- The output address of a leaf for an address inside its page. -/
def leafOut (e size a : Nat) : Nat :=
  if size = 16 then entryOa e / 65536 * 65536 + a % 65536 else entryOa e + a % 2 ^ size

/-- The stage-2 root of a function (R358). -/
def State.s2root (s : State) (f : Nat) : Nat :=
  bits (s.sys (fReg 0x0600 f 0)).toNat 31 10 * 1024 + bits (s.sys (fReg 0x0600 f 1)).toNat 11 0 * 2 ^ 32

/-- Where a stage-2 leaf leads (R355, R356, R386). -/
def State.leaf2 (s : State) (f e size ipa : Nat) : Option Target :=
  let out := leafOut e size ipa
  match bits e 6 5 with
  | 0 => if out < 2 ^ 44 && s.inPart (s.partOf f) out then some (.loc out) else none
  | 1 => some (.peer (out / 2 ^ 46) (out % 2 ^ 46))
  | 2 => some (.host out)
  | _ => if size = 12 && entryOa e < 2 ^ 16 && entryOa e / 4096 ≤ 8 then some (.notify (entryOa e / 4096) (ipa % 4096)) else none

/-- Stage 2 of a function (R354 to R358); no result is XLATE_S2. DESIGN CHOICE (log entry 115): a table is read wherever an entry's OA names it, and with
stage 2 off W and X are granted. -/
def State.stage2 (s : State) (f ipa : Nat) : Option Trans :=
  if bit (s.sys (fReg 0x0600 f 2)).toNat 31 then
    match walkLevels true (fun p => some (s.mem.read p 8)) ipa [0, 1, 2, 3] (s.s2root f) with
    | none => none
    | some (e, size, _) =>
      match s.leaf2 f e size ipa with
      | none => none
      | some t => some { tgt := t, size, ipa, w := bit e 1, x := bit e 2, k := false, owner := 0 }
  else if ipa < 2 ^ 44 && s.inPart (s.partOf f) ipa then
    some { tgt := .loc ipa, size := 12, ipa, w := true, x := true, k := false, owner := 0 }
  else none

/-- A stage-1 table read at an IPA: through stage 2, from local or host memory (R354; log entry 15). -/
def State.readIpa (s : State) (f ipa : Nat) : Option Nat :=
  match s.stage2 f ipa with
  | some { tgt := .loc pa, .. } => some (s.mem.read pa 8)
  | some { tgt := .host ha, .. } => some (s.host.read ha 8)
  | _ => none

/-- Whether every stage-1 table read of a walk translates; the first that does not is a stage-2 fault. -/
def State.s1ReadFault (s : State) (f va : Nat) : List Nat → Nat → Bool
  | [], _ => false
  | lvl :: rest, base =>
    match s.readIpa f (base + 8 * walkIdx false lvl va) with
    | none => true
    | some e => if entryOk false lvl e && !bit e 7 then s.s1ReadFault f va rest (entryOa e) else false

/-- The owner of the 4 KiB page where an address leads (R365). -/
def State.ownerAt (s : State) (t : Target) : Nat :=
  match t with
  | .loc pa => s.owner pa
  | _ => 0

/-- Stage 2 of a stage-1 output, with the permissions of both stages and the owner. -/
def State.finish (s : State) (f ipa size1 : Nat) (w1 x1 k1 : Bool) : Except Cause Trans :=
  match s.stage2 f ipa with
  | none => .error .xlateS2
  | some t => .ok { t with size := min size1 t.size, w := w1 && t.w, x := x1 && t.x, k := k1, owner := s.ownerAt t.tgt }

/-- The two-stage walk of a virtual address under a stage-1 root (R354 to R358). DESIGN CHOICE (log entry 115): with stage 1 off W and X are granted and no
page is constant. -/
def State.walk (s : State) (f root va : Nat) : Except Cause Trans :=
  if bit root 0 then
    let base := bits root 45 16 * 65536
    match walkLevels false (s.readIpa f) va [0, 1, 2, 3] base with
    | none => if s.s1ReadFault f va [0, 1, 2, 3] base then .error .xlateS2 else .error .xlateS1
    | some (e, size, _) =>
      let ipa := leafOut e size va
      if ipa / 2 ^ 46 ≠ 0 then .error .xlateS1 else s.finish f ipa size (bit e 1) (bit e 2) (bit e 3)
  else if va / 2 ^ 46 ≠ 0 then .error .xlateS1
  else s.finish f va 12 true true false

/-- The same place in a page, from the translation of its first byte. -/
def Target.offset (t : Target) (o : Nat) : Target :=
  match t with
  | .loc pa => .loc (pa + o)
  | .peer v ipa => .peer v (ipa + o)
  | .host ha => .host (ha + o)
  | .notify f n => .notify f (n + o)
  | .scratch n => .scratch (n + o)

/-- The VMID that tags a function's translations (R358). -/
def State.vmid (s : State) (f : Nat) : Nat := bits (s.sys (fReg 0x0600 f 2)).toNat 5 0

/-- A cached translation of an address, if the core or its quad holds one (R359), with the owner of its 4 KiB page (R365). -/
def State.tlbHit (s : State) (e : Env) (va : Nat) : Option Trans :=
  (s.tlb.find? fun t => (t.unit == e.core || t.unit == 256 + e.core / 4) && t.vmid == s.vmid e.f && t.asid == e.asid &&
    t.vpage * 2 ^ t.size ≤ va && va < (t.vpage + 1) * 2 ^ t.size).map fun t =>
    { tgt := t.tgt.offset (va % 2 ^ t.size), size := t.size, ipa := t.ipage + va % 2 ^ t.size, w := t.w, x := t.x, k := t.k,
      owner := s.ownerAt (t.tgt.offset (va % 2 ^ t.size)) }

/-- The translation of a global address: a cached one, else a walk (R359, R360). -/
def State.translate (s : State) (e : Env) (va : Nat) : Except Cause Trans :=
  match s.tlbHit e va with
  | some t => .ok t
  | none => s.walk e.f e.root va

/-! The walkers (R359). -/

/-- Whether two requests share a walk: equal VMID, ASID and page (R359). -/
def State.sameWalk (s : State) (x y : WalkReq) : Bool :=
  dieOf x.core == dieOf y.core && s.vmid x.f == s.vmid y.f && x.asid == y.asid && x.va / 4096 == y.va / 4096

/-- The walks that a die's walker has outstanding (R359). -/
def State.walksOf (s : State) (die : Nat) : List WalkReq :=
  (s.walks.filter fun w => dieOf w.core == die).foldl (fun l w => if l.any (s.sameWalk w) then l else w :: l) []

/-- Whether a die's walker takes a walk: it shares one, or fewer than 256 are outstanding (R359). -/
def State.walkRoom (s : State) (w : WalkReq) : Bool :=
  let ws := s.walksOf (dieOf w.core)
  ws.any (s.sameWalk w) || ws.length < 256

/-- The walk of a page for an environment. -/
def Env.walkReq (e : Env) (va : Nat) : WalkReq := { core := e.core, f := e.f, root := e.root, asid := e.asid, va := va / 4096 * 4096 }

/-- Whether an address of a core's access has a translation that neither TLB holds: its walk comes first (R359, log entry 92). One that faults is walked as
the access comes to it, once its die's walker takes it. A function with both stages off reads no table. -/
def State.walkNeeded (s : State) (e : Env) (va : Nat) : Bool :=
  e.core < 192 && va / 2 ^ 52 == 0 && (bit e.root 0 || bit (s.sys (fReg 0x0600 e.f 2)).toNat 31) && (s.tlbHit e va).isNone &&
  (match s.walk e.f e.root va with
  | .ok _ => true
  | .error _ => !s.walkRoom (e.walkReq va))

/-- The walks that addresses need before a core accesses them (R359). -/
def State.missing (s : State) (e : Env) (as : List VAddr) : List WalkReq :=
  (as.filter fun a => s.walkNeeded e a.toNat).map fun a => e.walkReq a.toNat

/-- The start of a page from a place in it. -/
def Target.back (t : Target) (o : Nat) : Target :=
  match t with
  | .loc pa => .loc (pa - o)
  | .peer v ipa => .peer v (ipa - o)
  | .host ha => .host (ha - o)
  | .notify f n => .notify f (n - o)
  | .scratch n => .scratch (n - o)

/-- The entry that a walk's result makes in a unit's TLB (R359). -/
def State.tlbEntry (s : State) (unit : Nat) (w : WalkReq) (t : Trans) : TlbEntry :=
  let o := w.va % 2 ^ t.size
  { unit, vmid := s.vmid w.f, asid := w.asid, vpage := w.va / 2 ^ t.size, size := t.size, ipage := t.ipa - o,
    w := t.w, x := t.x, k := t.k, tgt := t.tgt.back o }

/-- A TLB of `n` entries takes one; the oldest of a full one leaves (R359, log entry 92). -/
def State.cache (s : State) (n : Nat) (x : TlbEntry) : State :=
  let rest := s.tlb.filter fun e => e != x
  { s with tlb := x :: (rest.filter fun e => e.unit == x.unit).take (n - 1) ++ rest.filter fun e => e.unit != x.unit }

/-- The local addresses of the stage-2 entries that a walk of an IPA reads (R354). -/
def State.path2 (s : State) (a : Nat) : List Nat → Nat → List Nat
  | [], _ => []
  | lvl :: rest, base =>
    let p := base + 8 * walkIdx true lvl a
    let e := s.mem.read p 8
    p :: (if entryOk true lvl e && !bit e 7 then s.path2 a rest (entryOa e) else [])

/-- The same of an IPA in a function's space. -/
def State.ipaPath (s : State) (f ipa : Nat) : List Nat :=
  if bit (s.sys (fReg 0x0600 f 2)).toNat 31 then s.path2 ipa [0, 1, 2, 3] (s.s2root f) else []

/-- The local addresses of the table entries of both stages that a walk reads (R354). -/
def State.walkPath (s : State) (f va : Nat) : List Nat → Nat → List Nat
  | [], _ => []
  | lvl :: rest, base =>
    let ipa := base + 8 * walkIdx false lvl va
    let here := match s.stage2 f ipa with
      | some { tgt := .loc pa, .. } => [pa]
      | _ => []
    s.ipaPath f ipa ++ here ++ (match s.readIpa f ipa with
      | none => []
      | some e => if entryOk false lvl e && !bit e 7 then s.walkPath f va rest (entryOa e)
        else if entryOk false lvl e then s.ipaPath f (leafOut e (leafSize lvl (bit e 4)) va) else [])

/-- Whether a walk waits for a boundary to open on the way from its die to a table that it reads (R386). -/
def State.walkCut (s : State) (w : WalkReq) : Bool :=
  let ps := if bit w.root 0 then s.walkPath w.f w.va [0, 1, 2, 3] (bits w.root 45 16 * 65536) else s.ipaPath w.f w.va
  s.nbndOpen != 15 && ps.any fun pa => !s.dieReaches (dieOf w.core) (s.homeDie pa)

/-- A walk ends: a valid translation is cached for every core that shares it and its quad, a fault is not (R359). -/
def State.walkDone (s : State) (w : WalkReq) : State :=
  if !s.walks.contains w || s.walkCut w then s
  else
    let mine := s.walks.filter fun x => s.sameWalk w x
    let s := { s with walks := s.walks.filter fun x => !s.sameWalk w x }.dieEvent (dieOf w.core) 37 1
    match s.walk w.f w.root w.va with
    | .ok t =>
      mine.foldl (fun s x => (s.cache 4096 (s.tlbEntry (256 + x.core / 4) w t)).cache 64 (s.tlbEntry x.core w t)) s
    | .error _ => s

/-- A walk that begins and ends in one step, where neither TLB holds the translation and the die's walker takes it (log entry 32). -/
def State.walkNow (s : State) (e : Env) (va : Nat) : State :=
  let w := e.walkReq va
  if s.walkNeeded e va && s.walkRoom w then ({ s with walks := s.walks ++ [w] }).walkDone w else s

/-- What an access is, for the cells of R138 and the permissions of R139 and R355. -/
inductive Acc
  | ld | st | ldc | atom | red
  /-- `llock`, `ltry`, `lunlock` -/
  | lock
  | lstat
  | cfetch
  /-- an engine's or copy instruction's read and write (R174, R177) -/
  | engR | engW
  /-- a fabric instruction's peer access: posted write, load, atomic (R197, R200), and the write of a fabric copy (R177) -/
  | fst | fld | fatom
  /-- the bin record of `cp.bin` (R179) -/
  | bin
  deriving DecidableEq, Repr

/-- Write permission (R139, R355). -/
def Acc.needW : Acc → Bool
  | .st | .atom | .red | .lock | .engW | .fst | .fatom | .bin => true
  | _ => false

/-- Whether the cell of R138 (or the instruction's own entry) performs the access in a space; `c` is a constant page. -/
def Acc.allowed (a : Acc) (t : Target) (c : Bool) (n : Nat) : Bool :=
  match t with
  | .scratch _ => match a with
    | .ldc | .lock | .lstat | .cfetch | .fst | .fld | .fatom | .bin => false
    | _ => true
  | .loc _ => match a with
    | .ld | .lock | .lstat | .cfetch | .engR => true
    | .st | .atom | .red | .engW | .bin => !c
    | .ldc => c
    | .fst | .fld | .fatom => false
  | .peer _ _ => match a with
    | .ld | .atom | .lock | .lstat | .fst | .fld | .fatom => true
    | _ => false
  | .host _ => match a with
    | .ld | .st | .cfetch | .engR | .engW => true
    | _ => false
  | .notify _ _ => a == .st && n == 4

/-- Whether an address names the scratchpad (R137). -/
def inScratch (ea : VAddr) : Bool := ea.toNat / 2 ^ 32 == 0xFFFFFFFF

/-- A trap: its cause, faulting address and auxiliary word (R205). -/
structure TrapInfo where
  cause : Cause
  addr : VAddr
  aux : Word
  deriving DecidableEq, Repr

/-- Steps 2 to 5 of R139 for an access of `n` bytes: where it leads. -/
def State.resolve (s : State) (e : Env) (a : Acc) (ea : VAddr) (n : Nat) : Except TrapInfo Target :=
  let bad (c : Cause) (v : Nat) : Except TrapInfo Target := .error { cause := c, addr := ea, aux := BitVec.ofNat 32 v }
  if inScratch ea then
    let off := ea.toNat % 2 ^ 32
    if off < e.share && a.allowed (.scratch off) false n then .ok (.scratch off) else bad .accessDenied 0
  else if ea.toNat / 2 ^ 52 ≠ 0 then bad .xlateS1 0
  else
    match s.translate e ea.toNat with
    | .error c => bad c 0
    | .ok t =>
      match t.tgt with
      | .peer v ipa =>
        -- a granule that translates to a peer is ACCESS_DENIED whatever its entry (R109)
        if a = .cfetch then bad .accessDenied v
        else if !vdnOk (s.vdne e.f v) then bad .vdnInvalid v
        else if (s.ownVdn e.f).isNone then bad .vdnInvalid v
        else if (a.needW && !t.w) || !a.allowed t.tgt t.k n then bad .accessDenied v
        else .ok (.peer v ipa)
      | tgt =>
        if (a.needW && !t.w) || (a = .cfetch && !t.x) || (t.owner ≠ 0 && t.owner ≠ e.tag) || !a.allowed tgt t.k n then
          bad .accessDenied 0
        else .ok tgt

/-- R139 whole: MISALIGNED for the alignment `al`, then steps 2 to 5. -/
def State.check (s : State) (e : Env) (a : Acc) (ea : VAddr) (al n : Nat) : Except TrapInfo Target :=
  if ea.toNat % al ≠ 0 then .error { cause := .misaligned, addr := ea, aux := 0 } else s.resolve e a ea n

/-- The cause code of R205. -/
def Cause.code : Cause → Nat
  | .illegalOp => 1 | .regRange => 2 | .misaligned => 3 | .xlateS1 => 4 | .xlateS2 => 5 | .accessDenied => 6
  | .codeAbsent => 7 | .lockOrder => 8 | .lockLimit => 9 | .lockHoldExpired => 10 | .lockNotHeld => 11
  | .lockDivergent => 12 | .slotNotClaimed => 13 | .tileRange => 14 | .gangMismatch => 15 | .sparseMeta => 16
  | .windowFull => 17 | .windowState => 18 | .fabricLoss => 19 | .fabricTimeout => 20 | .vdnInvalid => 21
  | .redundantFail => 22 | .breakpoint => 23 | .sysPriv => 24 | .watchdog => 25

end Sys2Proof.Machine
end

