-- ==== Sys2Proof/Machine/Home.lean ====
section
/-! DEFINITION. What the homes do: reads and writes of local memory, of scratchpads and of host memory, the L1 lines with
their leases, the Mere lines with HBM behind them, and the tracking bits of a migration session (R235 to R246, R251, R252,
R402, R403, R433). `mem` holds what every home would serve: a store into an Owned line counts as performed at its home
(R251). -/

namespace Sys2Proof.Machine

/-- The 128-byte line of a physical address. -/
def lineOf (pa : Nat) : Nat := pa / 128

/-- A die's lease clock (R239): the stored offset plus a tick every 64 cycles. -/
def State.leaseNow (s : State) (die : Nat) : Nat := (s.die die).lease.toNat

/-- Whether a truncated expiry is valid at a clock value (R239). -/
def leaseValid (x : BitVec 20) (now : Nat) : Bool :=
  let d := (x - BitVec.ofNat 20 now).toNat
  1 ≤ d && d ≤ 2 ^ 19

/-- The line that a core's L1 holds, an expired lease counting as none (R239). -/
def State.l1Find (s : State) (core line : Nat) : Option L1Line :=
  s.l1.find? fun l => l.core == core && l.line == line &&
    (l.st != .leased || leaseValid l.expiry (s.leaseNow (dieOf core)))

/-- Removes a core's copy of a line. -/
def State.l1Drop (s : State) (core line : Nat) : State :=
  { s with l1 := s.l1.filter fun (l : L1Line) => !(l.core == core && l.line == line) }

/-- Drops every leased line of a core (R240). -/
def State.dropLeases (s : State) (core : Nat) : State :=
  { s with l1 := s.l1.filter fun (l : L1Line) => !(l.core == core && l.st == .leased) }

/-- Bytes that go between a core and the home of an address: where they cross a boundary, the die that sends them counts them (R439, log entry 99). A
unit of the device that is no core stands on no die. -/
def State.carried (s : State) (toHome : Bool) (core pa n : Nat) : State :=
  let a := dieOf core
  let b := s.homeDie pa
  if a = b || 4 ≤ a then s else s.dieEvent (if toHome then a else b) 39 n

/-! Mere and HBM (R244 to R246, R385). -/

/-- The key under which `hbm` holds a line: its place in its die's HBM (R385). -/
def State.hbmKey (s : State) (line : Nat) : Nat :=
  let p := s.hbmPlace (128 * line)
  p.1 * 2 ^ 30 + p.2 / 128

/-- Keeps what HBM holds of a line that a write leaves behind in Mere or in an L1; a Mere window has none behind it (R244, R245). -/
def State.keepHbm (s : State) (line : Nat) : State :=
  if inWindow (128 * line) || !(Tab.get (fun _ => []) s.hbm (s.hbmKey line)).isEmpty then s
  else { s with hbm := Tab.set (fun _ => []) s.hbm (s.hbmKey line) (s.mem.bytes (128 * line) 128) }

/-- HBM holds what its line's home holds. -/
def State.hbmDone (s : State) (line : Nat) : State := { s with hbm := Tab.set (fun _ => []) s.hbm (s.hbmKey line) [] }

/-- The cache ways that a function may fill in the slices of a line's die (R246, R391). -/
def State.ways (s : State) (f line : Nat) : List Nat :=
  (List.range (16 - bits (s.milv (s.homeDie (128 * line))) 11 8)).filter fun w => bit (s.sys (fReg 0x0900 f 3)).toNat w

/-- Whether two lines share a set of a slice (R244). -/
def State.sameSet (s : State) (a b : Nat) : Bool := s.sliceOf a == s.sliceOf b && Config.mereSet a == Config.mereSet b

/-- A line leaves Mere: written back to HBM if dirty; one whose check bits fail is not written back, and HBM's earlier contents are what is
left of it (R246, R433). -/
def State.mereOut (s : State) (m : MereLine) : State :=
  let die := s.homeDie (128 * m.line)
  let old := Tab.get (fun _ => []) s.hbm (s.hbmKey m.line)
  let s := if !m.dirty then s
    else if s.poisoned.contains m.line then { s with mem := s.mem.store (128 * m.line) old }.hbmDone m.line
    else ((s.dieEvent die 35 128).meter m.f die 7 128).hbmDone m.line
  { s with mere := s.mere.filter fun x => x.line != m.line }

/-- A line is filled into a free way of a function's, or takes the place of the least recently used line of its ways; a function without
ways fills none (R246, log entry 82). -/
def State.mereFill (s : State) (f tag line : Nat) (write : Bool) : State :=
  let ws := s.ways f line
  let here := s.mere.filter fun m => ws.contains m.way && s.sameSet m.line line
  let put (s : State) (w : Nat) : State := { s with mere := { line, f, way := w, tags := [tag], dirty := write } :: s.mere }
  match ws.find? fun w => !(here.any fun m => m.way == w), here.getLast? with
  | some w, _ => put (if write then s.keepHbm line else s) w
  | none, some m => put (if write then (s.mereOut m).keepHbm line else s.mereOut m) m.way
  | none, none =>
    let die := s.homeDie (128 * line)
    if write then ((s.dieEvent die 35 128).meter f die 7 128).hbmDone line else s

/-- A request reaches a die's Mere: a die that sleeps wakes, its lease clock set forward by the time asleep (R239, R437). -/
def State.askDie (s : State) (die : Nat) : State :=
  let d := s.die die
  let d := match d.power with
    | .sleep => { d with power := .run, lease := BitVec.ofNat 64 (s.clk / 64) }
    | .mereRetention => { d with power := .run }
    | _ => d
  s.setDie die { d with mereAt := s.clk }

/-- An access at a Mere slice: bytes and events are counted, and a line of HBM comes to stand in the function's own ways; one that stands in
another function's is written back first (R244, R246, R439, R440). A line keeps the tags that fill or write it (R368). -/
def State.mereTouch (s : State) (f tag line n : Nat) (write : Bool) : State :=
  let die := s.homeDie (128 * line)
  let old := s.mere.find? fun m => m.line == line
  let win := inWindow (128 * line)
  let s := (s.askDie die).meter f die 8 n
  let s := if old.isSome || win then s.dieEvent die 32 1 else ((s.dieEvent die 33 1).meter f die 6 128).dieEvent die 34 128
  if win then s
  else match old with
    | none => s.mereFill f tag line write
    | some m =>
      if m.f != f then (s.mereOut m).mereFill f tag line write
      else
        let s := if write && !m.dirty then s.keepHbm line else s
        let x := if write then { m with dirty := true, tags := if m.tags.contains tag then m.tags else m.tags ++ [tag] } else m
        { s with mere := x :: s.mere.filter fun m => m.line != line }

/-- Writes a dirty Mere line back to HBM: it stays valid and clean (R207, R244). -/
def State.mereClean (s : State) (line : Nat) : State :=
  let die := s.homeDie (128 * line)
  match s.mere.find? fun m => m.line == line && m.dirty with
  | none => s
  | some m =>
    if s.poisoned.contains line then s
    else
      let s := ((s.dieEvent die 35 128).meter m.f die 7 128).hbmDone line
      { s with mere := s.mere.map fun m => if m.line == line then { m with dirty := false } else m }

/-! Tracked lines (R235 to R238). -/

/-- The function and the tag of the launch whose blocks a core holds. -/
def State.coreWorld (s : State) (core : Nat) : Nat × Nat :=
  match (s.core core).lid.bind fun i => s.launches.find? fun l => l.lid == i with
  | some l => (l.f, l.tag)
  | none => (8, 0)

/-- The tracking-descriptor table of a function (R400, R402). -/
def State.mdt (s : State) (f : Nat) : Nat × Nat :=
  let lo := (s.sys (fReg 0x0A00 f 0)).toNat
  (bits lo 31 12 * 4096 + (s.sys (fReg 0x0A00 f 1)).toNat % 4096 * 2 ^ 32, lo % 64 + 1)

/-- A tracking descriptor: IPA base, PA base, length in bytes, bitmap address (R402). -/
structure TrackDesc where
  ipa : Nat
  pa : Nat
  len : Nat
  bitmap : Nat
  units : Nat
  zero : Nat
  deriving DecidableEq, Repr

/-- The tracking descriptors of a function's session. -/
def State.trackDescs (s : State) (f : Nat) : List TrackDesc :=
  let (base, n) := s.mdt f
  (List.range n).map fun i =>
    let a := base + 32 * i
    { ipa := s.mem.read a 8, pa := s.mem.read (a + 8) 8, len := s.mem.read (a + 16) 4 * 2 ^ 21,
      bitmap := s.mem.read (a + 24) 8, units := s.mem.read (a + 16) 4, zero := s.mem.read (a + 20) 4 }

/-- Sets the tracking bits of the granules that `n` bytes from `pa` touch (R403). -/
def State.mark (s : State) (pa n : Nat) : State :=
  (List.range 8).foldl (fun s f =>
    if (s.session f).tracking then
      (s.trackDescs f).foldl (fun s d =>
        ((List.range (n / 512 + 2)).map fun k => (pa / 512 + k) * 512).foldl (fun s g =>
          if g < pa + n && d.pa ≤ g && g < d.pa + d.len then
            let i := (g - d.pa) / 512
            let a := d.bitmap + i / 8
            { s with mem := s.mem.setByte a (s.mem.byte a ||| BitVec.ofNat 8 (2 ^ (i % 8))) }
          else s) s) s
    else s) s

/-- The dirty bytes of an L1 line reach its home (R237, R244), which marks their granule (R403). -/
def State.takeDirty (s : State) (l : L1Line) : State :=
  if l.dirty.isEmpty then s
  else ((s.mereTouch (s.coreWorld l.core).1 (s.coreWorld l.core).2 l.line l.dirty.length true).carried true l.core (128 * l.line) l.dirty.length).mark
    (128 * l.line) 128

/-- The home's probe before a write: every other tracked holder of the line writes back its dirty bytes and loses its copy (R237). The quads in
the region's vector are asked, and each quad's filter is its cores' lines (R238, log entry 82). -/
def State.probe (s : State) (writer : Option Nat) (line : Nat) : State :=
  let out (l : L1Line) : Bool := l.line == line && l.st != .leased && some l.core != writer
  let s1 := (s.l1.filter out).foldl State.takeDirty s
  { s1 with l1 := s1.l1.filter fun (l : L1Line) => !out l }

/-- The home's recall from every tracked holder, the requester included (R237). -/
def State.recall (s : State) (line : Nat) : State := s.probe none line

/-- Before a read is served for another core, an Owned holder becomes Shared and its dirty bytes go home (R237). -/
def State.downgrade (s : State) (reader : Option Nat) (line : Nat) : State :=
  let hit (l : L1Line) : Bool := l.line == line && l.st == .owned && some l.core != reader
  let s1 := (s.l1.filter hit).foldl State.takeDirty s
  { s1 with l1 := s1.l1.map fun (l : L1Line) => if hit l then { l with st := .shared, dirty := [] } else l }

/-- A die's directory evicts a region: every tracked line of it is recalled first (R238). -/
def State.evictRegion (s : State) (die region : Nat) : State :=
  let s := [0, 1, 2, 3].foldl (fun s k => s.recall (4 * region + k)) s
  let d := s.die die
  (s.setDie die { d with dir := d.dir.filter fun e => e.1 != region }).dieEvent die 36 1

/-- The directory of a line's home die comes to name a core's quad for the line's region; a full set of 16 evicts its least recently used
entry (R238, log entry 82). -/
def State.track (s : State) (core line : Nat) : State :=
  let r := line / 4
  let k := s.homeDie (128 * line)
  let old := ((s.die k).dir.find? fun e => e.1 == r).map fun e => e.2
  let full := (s.die k).dir.filter fun e => e.1 != r && Config.dirSet e.1 == Config.dirSet r
  let s := match old, full.getLast? with
    | none, some e => if 16 ≤ full.length then s.evictRegion k e.1 else s
    | _, _ => s
  let d := s.die k
  s.setDie k { d with dir := (r, old.getD 0 ||| BitVec.ofNat 48 (2 ^ quadOf core)) :: d.dir.filter fun e => e.1 != r }

/-- A core's L1 writes back its dirty bytes and gives up every line (R207, R234). -/
def State.flushL1 (s : State) (core : Nat) : State :=
  let s := (s.l1.filter fun l => l.core == core).foldl State.takeDirty s
  { s with l1 := s.l1.filter fun (l : L1Line) => l.core != core }

/-- Installs a core's copy of a line, in place of any earlier one. A full L1 gives up the line that it has held longest (R232, log
entry 82). -/
def State.l1Put (s : State) (x : L1Line) : State :=
  let s := s.l1Drop x.core x.line
  let s := if x.st == .leased then s else s.track x.core x.line
  let mine := s.l1.filter fun l => l.core == x.core
  let s := match mine.getLast? with
    | some l => if 8 * (s.core x.core).l1k ≤ mine.length then (s.takeDirty l).l1Drop l.core l.line else s
    | none => s
  { s with l1 := x :: s.l1 }

/-- The number of 1 bits of a byte. -/
def onesIn (b : Byte) : Nat := ((List.range 8).filter fun i => b.getLsbD i).length

/-- BACKLOG: granules marked and not yet copied (R400). -/
def State.backlog (s : State) (f : Nat) : Nat :=
  if (s.session f).tracking then
    ((s.trackDescs f).map fun d => ((s.mem.filter fun e => d.bitmap ≤ e.1 && e.1 < d.bitmap + 512 * d.units).map fun e => onesIn e.2).sum).sum
  else 0

/-- How many granules of `n` bytes from `pa` have a clear tracking bit of a function's session (R403). -/
def State.clearGranules (s : State) (f pa n : Nat) : Nat :=
  ((s.trackDescs f).map fun d => (((List.range (n / 512 + 2)).map fun k => (pa / 512 + k) * 512).filter fun g =>
    g < pa + n && d.pa ≤ g && g < d.pa + d.len &&
    (let i := (g - d.pa) / 512
     !(s.mem.byte (d.bitmap + i / 8)).getLsbD (i % 8))).length).sum

/-- Whether the throttle of a function's session is on: THEN = 1 and BACKLOG × 512 bytes above RESMAX MiB (R406). -/
def State.throttles (s : State) (f : Nat) : Bool :=
  let m := (s.sys (fReg 0x0A00 f 3)).toNat
  f < 8 && (s.session f).tracking && bit m 19 && bits m 31 20 * 2 ^ 20 < s.backlog f * 512

/-- The throttled rate in bytes a microsecond: FLOOR, or ¾ of what Seep copied for the session over the last 100 µs (R406). -/
def State.markRate (s : State) (f : Nat) : Nat :=
  max ((s.sys (fReg 0x0A00 f 3)).toNat % 65536) (3 * 512 * ((s.session f).copied.filter fun c => s.clk < c + us 100).length / 400)

/-- Whether a function's own write waits at its home: it would mark a clear granule, and the rate admits none yet (R406, log entry 89). -/
def State.throttled (s : State) (f pa : Nat) : Bool :=
  s.throttles f && s.clearGranules f pa 1 != 0 && (s.markRate f == 0 || s.clk < Tab.get (fun _ => 0) s.paces f)

/-- A function's own write that marks clear granules under the throttle moves on when the next may (R406, log entry 89). -/
def State.pace (s : State) (f pa n : Nat) : State :=
  let k := s.clearGranules f pa n
  let next := max s.clk (Tab.get (fun _ => 0) s.paces f) + (us (512 * k) + s.markRate f - 1) / s.markRate f
  if s.throttles f && k != 0 then { s with paces := Tab.set (fun _ => 0) s.paces f next } else s

/-- A write of the host port or the fabric, which is never throttled (R406). -/
def State.unpaced (s : State) (write : State → State) : State := { write s with paces := s.paces }

/-- Whether a migrating page holds an access at its home: a write to its source, anything to its destination (R364). -/
def State.moving (s : State) (write : Bool) (pa : Nat) : Bool :=
  match s.pageMove with
  | some m => (write && m.src ≤ pa && pa < m.src + m.size) || (m.dst ≤ pa && pa < m.dst + m.size)
  | none => false

/-- A write performed at the home of a local address (R237, R251): other holders are probed, the writer's own leased copy is
updated (R236), the granules are marked (R403). -/
def State.homeWrite (s : State) (f tag : Nat) (writer : Option Nat) (pa : Nat) (bs : List Byte) : State :=
  let line := lineOf pa
  let s := (s.pace f pa bs.length).probe writer line
  let s := s.mereTouch f tag line bs.length true
  let s := { s with
    mem := s.mem.store pa bs,
    l1 := s.l1.map fun (l : L1Line) => if l.line == line && l.st == L1St.leased && some l.core == writer then
      { l with data := l.data.store (pa - 128 * line) bs } else l }
  s.mark pa bs.length

/-- One write of a line under a byte mask (R265): addresses of one line with their bytes. -/
def State.homeWriteMask (s : State) (f tag line : Nat) (bs : List (Nat × Byte)) : State :=
  let s := ((s.pace f (128 * line) 1).probe none line).mereTouch f tag line bs.length true
  { s with mem := bs.foldl (fun (m : Memory) (b : Nat × Byte) => m.setByte b.1 b.2) s.mem }.mark (128 * line) 1

/-- What the L1 of the storing core becomes (R236): Owned with the bytes dirty for `.ow`, untouched but probed for the
write-through types, gone for `.uc`. -/
def State.l1Store (s : State) (core : Nat) (ty : BitVec 2) (pa n : Nat) : State :=
  let line := lineOf pa
  match ty.toNat with
  | 0 =>
    let old := match s.l1Find core line with
      | some l => if l.st == L1St.owned then l.dirty else []
      | none => []
    let offs := (List.range n).map fun i => pa % 128 + i
    let s := s.probe (some core) line
    s.l1Put { core, line, st := .owned, expiry := 0, dirty := offs ++ old.filter fun o => !offs.contains o, data := [] }
  | 3 => (match s.l1Find core line with
    | some l => (s.takeDirty l).l1Drop core line
    | none => s.l1Drop core line)
  | _ => s

/-- A home's read-modify-write (R150, R237): every tracked copy is recalled first. -/
def State.homeUpdate (s : State) (f tag : Nat) (pa : Nat) (bs : List Byte) : State :=
  (s.recall (lineOf pa)).homeWrite f tag none pa bs

/-- A core's atomic or record update: the core keeps no leased copy of the line, so that no later load of the group finds an older value
there (R148, R252). -/
def State.coreUpdate (s : State) (e : Env) (pa : Nat) (bs : List Byte) : State :=
  ((s.homeUpdate e.f e.tag pa bs).carried true e.core pa bs.length).l1Drop e.core (lineOf pa)

/-- The block of an identifier. -/
def State.block? (s : State) (bid : Nat) : Option Block := s.blocks.find? fun b => b.bid == bid

def State.updBlock (s : State) (bid : Nat) (f : Block → Block) : State :=
  { s with blocks := updFirst (fun b => b.bid == bid) f s.blocks }

/-- A 4-byte store to a doorbell (R338): QTAIL takes the low half, and a stopped queue is read again (R339). -/
def State.doorbell (s : State) (f off : Nat) (x : Nat) : State :=
  if off % 64 = 0 then
    let q := off / 64
    let s := s.setBar f (0x1000 + 32 * q + 0x10) (BitVec.ofNat 32 (x % 65536))
    { s with ringStops := s.ringStops.filter fun r => r != (f, q) }
  else s

/-- A read of `n` bytes where an address leads (R251): scratchpad of the block, home, or host memory. -/
def State.readTgt (s : State) (bid : Nat) (t : Target) (n : Nat) : Nat :=
  match t with
  | .scratch off => match s.block? bid with
    | some b => b.scratch.read off n
    | none => 0
  | .loc pa => s.mem.read pa n
  | .host ha => s.host.read ha n
  | .peer _ _ | .notify _ _ => 0

/-- A write where an address leads, performed at its home (R251). A peer address is never written here. -/
def State.writeTgt (s : State) (e : Env) (writer : Option Nat) (t : Target) (bs : List Byte) : State :=
  match t with
  | .scratch off => s.updBlock e.bid fun b => { b with scratch := b.scratch.store off bs }
  | .loc pa => (s.homeWrite e.f e.tag writer pa bs).carried true e.core pa bs.length
  -- nothing crosses an insecure link (R443)
  | .host ha => if s.ideBroken then s else { s with host := s.host.store ha bs }
  | .notify f off => if bs.length = 4 then s.doorbell f off (leNat bs) else s
  | .peer _ _ => s

/-- The homes serve a read of `n` bytes for an engine or a code fetch (R237, R244, R440). -/
def State.touchRead (s : State) (f tag : Nat) (t : Target) (n : Nat) : State :=
  match t with
  | .loc pa => (List.range ((pa % 128 + n + 127) / 128)).foldl (fun s k =>
      (s.downgrade none (lineOf pa + k)).mereTouch f tag (lineOf pa + k) (min n 128) false) s
  | _ => s

/-- The same for a unit of a core (R439). -/
def State.serveRead (s : State) (e : Env) (t : Target) (n : Nat) : State :=
  match t with
  | .loc pa => (s.touchRead e.f e.tag t n).carried false e.core pa n
  | _ => s

/-- The bytes where an address leads. -/
def State.bytesAt (s : State) (bid : Nat) (t : Target) (n : Nat) : List Byte :=
  match t with
  | .scratch off => match s.block? bid with
    | some b => b.scratch.bytes off n
    | none => Memory.bytes [] 0 n
  | .loc pa => s.mem.bytes pa n
  | .host ha => s.host.bytes ha n
  | .peer _ _ | .notify _ _ => Memory.bytes [] 0 n

/-- Whether an access must wait for a page migration (R364). -/
def State.waitsMove (s : State) (write : Bool) (t : Target) : Bool :=
  match t with
  | .loc pa => s.moving write pa
  | _ => false

/-- Whether a read has no answer because it leads to host memory over an insecure link (R443, log entry 121). -/
def State.cutOff (s : State) (t : Target) : Bool :=
  match t with
  | .host _ => s.ideBroken
  | _ => false

/-- Whether an access of a core must wait: for a page migration, for a boundary to open on the way to its home die, or as a read for the host's link
(R364, R386, R387, R443, log entry 83). -/
def State.unreached (s : State) (core : Nat) (write : Bool) (t : Target) : Bool :=
  s.waitsMove write t || match t with
  | .loc pa => !s.dieReaches (dieOf core) (s.homeDie pa)
  | t => !write && s.cutOff t

/-- The same, or for the throttle of its function (R406). -/
def State.blocked (s : State) (core : Nat) (write : Bool) (t : Target) : Bool :=
  s.unreached core write t || write && (match t, (s.core core).lid.bind fun i => s.launches.find? fun l => l.lid == i with
    | .loc pa, some l => s.throttled l.f pa
    | _, _ => false)

/-- Whether the throttle holds a write of a function that no core makes: by the rate, or behind one that it holds already (R406). -/
def State.devThrottled (s : State) (f : Nat) (t : Target) : Bool :=
  match t with
  | .loc pa => s.throttled f pa || s.devHeld.any fun e => e.f == f
  | _ => false

/-- A fill of a line into a core's L1 by request type, at the home (R235, R236): the home downgrades an owner first. -/
def State.fill (s : State) (core f tag : Nat) (ty : BitVec 2) (pa : Nat) : State :=
  let line := lineOf pa
  let s := s.downgrade (some core) line
  let s := (s.mereTouch f tag line 128 false).carried false core pa 128
  let die := dieOf core
  let ls := (s.sys (unitKey 0x0210 die)).toNat % 65536
  match ty.toNat with
  | 0 =>
    let sharer := s.l1.any fun l => l.line == line && l.st != .leased && l.core != core
    let s := s.l1Put { core, line, st := if sharer then .shared else .owned, expiry := 0, dirty := [], data := [] }
    if sharer then s else s.mark (128 * line) 128
  | 1 => s.l1Put { core, line, st := .shared, expiry := 0, dirty := [], data := [] }
  | 2 => s.l1Put { core, line, st := .leased, expiry := BitVec.ofNat 20 (s.leaseNow die + ls), dirty := [],
                   data := (Memory.store [] 0 (s.mem.bytes (128 * line) 128)) }
  | _ => s

/-- A load of a local address by a core (R236, R252): the value, and the L1 and Mere after it. A valid leased copy serves
its own bytes. -/
def State.loadLocal (s : State) (core f tag : Nat) (ty : BitVec 2) (pa n : Nat) : Nat × State :=
  let line := lineOf pa
  if ty.toNat = 3 then
    let s := (s.l1Store core 3 pa n).downgrade none line
    (s.mem.read pa n, (s.mereTouch f tag line n false).carried false core pa n)
  else match s.l1Find core line with
    | some l =>
      let s := s.coreEvent core 8 1
      if l.st == .leased then (l.data.read (pa % 128) n, s) else (s.mem.read pa n, s)
    | none =>
      let s := (s.coreEvent core 9 1).fill core f tag ty pa
      (s.mem.read pa n, s)

end Sys2Proof.Machine
end

