-- ==== Sys2Proof/Machine/Layout.lean ====
section
/-! DEFINITION. The bytes of a block's image and of a Neutral State Image (R379, R380, R408). The manual gives the sections with their order, sizes and
counts and what each record holds, but not the places of a record's fields, which are free (log entry 20). -/

namespace Sys2Proof.Machine

/-- A free value: the bytes in which the fields of a record are arranged. Of a block's image: its header (0), a thread (1), a group (2), a pool (3), a
pool's record (4), a copy remainder, of a fabric copy with its epoch, VDN and counts (5), a non-posted request (6), a segment tag (7). Of a Neutral State Image: a queue (9), the lock and
window registers (10), a VDN entry (11), a window (12), a buffered write (13), an epoch record (15), an arrival entry (16), a
duplicate filter (17), a lock entry (18), a waiter (19), a launch (20), a hierarchy barrier (21), a parked record's address (22), a block's launch
index (23). -/
opaque arrange : Nat → List Nat → List Byte

/-- Whether a claim is a group's. -/
def SlotSt.ofGroup (x : SlotSt) (bid grp : Nat) : Bool :=
  match x with
  | .claimed b g => b == bid && g == grp
  | .pending b g _ => b == bid && g == grp
  | _ => false

/-! A launch record's fields (R340, R342). -/

/-- Threads per block, 1–512 (R340). -/
def Record.threads (r : Record) : Nat := r.shape.toNat % 65536
/-- Register blocks of a new thread (R340). -/
def Record.regs (r : Record) : Nat := bits r.shape.toNat 23 16
/-- L in KiB (R232, R340). -/
def Record.l1k (r : Record) : Nat := 64 * bits r.shape.toNat 31 24
/-- Barrier registers per block (R342). -/
def Record.nbar (r : Record) : Nat := bits r.barriers.toNat 5 0
/-- Starting groups (R211). -/
def Record.groups (r : Record) : Nat := (r.threads + 31) / 32
/-- The scratchpad share P in bytes (R233). -/
def Record.share (r : Record) : Nat := (512 - r.l1k) * 1024 * r.groups / 16 / 4096 * 4096
def Record.prio (r : Record) : Nat := bits r.ctrl.toNat 27 26
def Record.concurrent (r : Record) : Bool := bit r.ctrl.toNat 25
def Record.restartable (r : Record) : Bool := bit r.ctrl.toNat 24
def Record.redundant (r : Record) : Bool := bit r.ctrl.toNat 23
def Record.isCopy (r : Record) : Bool := bits r.ctrl.toNat 31 28 == 2

/-- The indices that a barrier word grants at a level (R342). -/
def Record.granted (r : Record) (level : Nat) : Nat :=
  let w := r.barriers.toNat
  match level with
  | 3 => bits w 10 6 | 4 => bits w 14 11 | 5 => bits w 17 15 | _ => bits w 19 18

/-- Gang-scheduled: granted any hierarchy barrier (R227). -/
def Record.gang (r : Record) : Bool := [3, 4, 5, 6].any fun l => 0 < r.granted l

/-! Sections (R379, R380). -/

/-- The image's sections are aligned to 128 bytes (R379). -/
def align128 (n : Nat) : Nat := (n + 127) / 128 * 128

/-- Exactly `n` bytes of a list, with zeros behind. -/
def padTo (n : Nat) (l : List Byte) : List Byte := (l ++ List.replicate n 0).take n

/-- A section: its bytes, aligned to 128. -/
def sectionOf (l : List Byte) : List Byte := padTo (align128 l.length) l

/-- A record of `n` bytes whose fields the manual names without their places. -/
def recordOf (n kind : Nat) (fields : List Nat) : List Byte := padTo n (arrange kind fields)

/-- The layout of a barrier register (R163). -/
def Bar.word (b : Bar) : Nat := ofBool b.ph * 2 ^ 63 + b.pb.toNat * 2 ^ 29 + (b.pa % 2 ^ 13).toNat * 2 ^ 16 + b.ea.toNat

/-- A thread record: 64 bytes of fields, then its registers (R380). -/
def Thread.record (t : Thread) : List Byte :=
  recordOf 64 1 ([t.pc.toNat, t.frame.cause, t.frame.pc.toNat, t.frame.resume.toNat, t.frame.addr.toNat, t.frame.aux.toNat, t.tid, t.lane, t.grp, t.wb, t.nb,
    t.preds.toNat, t.flags.toNat, 0, ofBool t.inHandler, t.wait.ctorIdx, (t.syncTok.elim 0 fun x => 1 + 2 * x.1 + ofBool x.2), ofBool t.overflow] ++
    t.deferred.flatMap fun d => [d.cause, d.aux.toNat]) ++
  (List.range (16 * t.nb)).flatMap fun r => leBytes (Tab.get (fun _ => (0 : Word)) t.regs r).toNat 4

/-- The record of an exited thread, which has no registers left (R100, R380). -/
def exitedRecord (grp tid : Nat) : List Byte := recordOf 64 1 [0, 0, 0, 0, 0, 0, tid, 0, grp, 0, 0, 0, 0, 1]

/-- The thread records of the live groups, exited threads among them, in ascending `%tid`. -/
def SavedBlock.threadRecords (x : SavedBlock) : List Byte :=
  x.groups.flatMap fun g => (List.range g.size).flatMap fun k =>
    ((x.threads.find? fun t => t.tid == 32 * g.idx + k).map Thread.record).getD (exitedRecord g.idx (32 * g.idx + k))

/-- A group record, with the time its wait has left (R379). -/
def SavedBlock.groupRecord (x : SavedBlock) (left : Group → Nat) (g : Group) : List Byte :=
  let mask := (x.claims.filter fun e => e.2.ofGroup x.block.bid g.idx).map fun e => 2 ^ e.1
  recordOf 128 2 ([g.ld.toNat, g.st.toNat, g.cp.toNat, g.tl.toNat, g.lastLine.toNat, g.lastStat.toNat, (g.req.elim 0 fun r => r.va.toNat),
    (g.req.elim 0 fun r => r.cls), left g, g.gang.toNat, g.pcfg.s.toNat, g.pcfg.z.toNat, ofBool g.pcfg.g128,
    ofBool g.pcfg.fp8Scales, ofBool g.pcfg.sparseTrap, g.pcfg.bSlot, g.pcfg.pitchS, g.pcfg.pitchZ, (g.bind.elim 0 fun b => b + 1), g.mstat.toNat, g.cstat.toNat + 256 * g.mcastDrop, mask.sum] ++
    g.held.map fun h => h.va.toNat)

/-- A copy remainder: its descriptor, h, binding and issuing `%tid` (R379); `more` for a fabric copy's record in its window (R408). -/
def copyRecord (desc : List Word) (h : Nat) (bind : Option Nat) (tid : Nat) (more : List Nat) : List Byte :=
  recordOf 128 5 (desc.map BitVec.toNat ++ [h, (bind.elim 0 fun b => b + 1), tid] ++ more)

/-- A copy remainder (R379). -/
def CopyCmd.record (c : CopyCmd) : List Byte :=
  let desc := match c.kind with
    | .bulk w => w
    | .mcast w m => w ++ [m]
    | _ => []
  copyRecord desc c.h c.bind c.tid []

/-- A non-posted request: VDN, sequence, operation, address, operand (R379). -/
def NonPosted.record (p : NonPosted) : List Byte :=
  recordOf 32 6 ([p.vdn, p.seq, p.op.ctorIdx, p.ipa] ++ match p.op with
    | .ld n => [n]
    | .atom o n b c => [o.ctorIdx, n, b, c]
    | _ => [])

/-- A spawn pool: entry and timer, then its records in arrival order (R379). -/
def Pool.image (p : Pool) : List Byte :=
  recordOf 16 3 [p.entry.toNat, (p.timer.elim 0 fun t => t + 1), ofBool p.expired] ++ p.recs.flatMap fun r => recordOf 16 4 [r.1.toNat, r.2.toNat]

/-- The contents of a claimed slot or tile. -/
def SavedBlock.claimBytes (x : SavedBlock) (n : Nat) : List Byte :=
  if n < 64 then x.slots.bytes (8192 * n) 8192
  else (List.range 8192).flatMap fun k => leBytes (Tab.get (fun _ => (0 : Word)) x.tiles (8192 * (n - 64) + k)).toNat 4

/-- The sections of a block's image behind its header, in their order, with their counts (R379). -/
def SavedBlock.sections (x : SavedBlock) (nbar : Nat) (left : Group → Nat) : List (Nat × List Byte) :=
  [((x.groups.map fun g => g.size).sum, sectionOf x.threadRecords),
   (x.groups.length, sectionOf (x.groups.flatMap (x.groupRecord left))),
   (nbar, sectionOf ((List.range nbar).flatMap fun i => leBytes (Tab.get (fun _ => Bar.reset) x.block.bars i).word 8)),
   (x.claims.length, sectionOf (x.claims.flatMap fun e => x.claimBytes e.1)),
   (x.block.share, sectionOf (x.block.scratch.bytes 0 x.block.share)),
   (x.pools.length, sectionOf (x.pools.flatMap fun p => p.2.image)),
   (x.copies.length, sectionOf (x.copies.flatMap CopyCmd.record)),
   (x.nps.length, sectionOf (x.nps.flatMap NonPosted.record)),
   (x.segs.length, sectionOf (x.segs.flatMap fun e => recordOf 16 7 [e.1, 4096 * e.2.granule]))]

/-- The offset and count of each section. -/
def offsetsFrom (o : Nat) : List (Nat × List Byte) → List Nat
  | [] => []
  | (n, l) :: r => o :: n :: offsetsFrom (o + l.length) r

/-- The header: 256 bytes (R379). -/
def SavedBlock.header (x : SavedBlock) (l : Launch) (secs : List (Nat × List Byte)) : List Byte :=
  recordOf 256 0 ([1, l.addr.toNat, x.block.blk, l.record.threads, (x.groups.map fun g => 2 ^ g.idx).sum, l.record.regs, l.record.nbar, x.block.share, x.block.relaunch,
    x.block.spawnStall.toNat, ofBool (x.block.role != .solo) + 2 * ofBool (x.block.role == .trail)] ++ offsetsFrom 256 secs)

/-- A block's image (R379). -/
def SavedBlock.image (x : SavedBlock) (l : Launch) (left : Group → Nat) : List Byte :=
  let secs := x.sections l.record.nbar left
  x.header l secs ++ secs.flatMap fun e => e.2

/-- The size of a block's image from its sections (R379, R380): `threads` counts the records, `regs` the register words of the live threads. -/
def imageBytes (share nbar groups copies nps segs threads regs : Nat) (claims : Tab SlotSt) (pools : Tab Pool) : Nat :=
  256 + align128 (64 * threads + 4 * regs) + align128 (128 * groups) + align128 (8 * nbar) +
  (claims.map fun e => if e.1 < 64 then 8192 else 32768).sum + align128 share +
  align128 (pools.map fun p => 16 + 16 * p.2.recs.length).sum + align128 (128 * copies) + align128 (32 * nps) + align128 (16 * segs)

/-! The Neutral State Image (R408). -/

/-- The index of a launch in section 8. -/
def Image.indexOf (img : Image) (lid : Nat) : Nat := img.launches.findIdx fun l => l.lid == lid

/-- Section 1: 48 bytes of registers for each queue, then the lock and window registers. -/
def Image.function (img : Image) : List Byte :=
  let reg (o : Nat) : Nat := (Tab.get barReset img.bar0 o).toNat
  let queue (q : Nat) : List Byte := recordOf 48 9 ([0, 4, 8, 0x0C, 0x10, 0x14, 0x18, 0x1C].map (fun o => reg (0x1000 + 32 * q + o)) ++
    [0, 4, 8].map fun o => reg (0x2000 + 16 * q + o))
  padTo 4096 ((List.range 64).flatMap queue ++ recordOf 1024 10 (img.regs.map fun e => e.2.toNat))

/-- A VDN table entry: MTAG, PHYS, FUNC, GEN, STATE (R411). -/
def vdnRecord (e : Nat) : List Byte := recordOf 8 11 [bits e 31 24, bits e 21 16, bits e 5 2, bits e 15 8, bits e 1 0]

/-- A window with its send counts and pending set (R299). -/
def Window.record (w : Window) : List Byte :=
  recordOf 256 12 ([w.st.ctorIdx, w.inc.toNat, w.epoch.toNat, w.closing.toNat] ++ (List.range 64).map (Tab.get (fun _ => 0) w.counts) ++
    w.pending.flatMap fun p => [p.vdn, p.count, p.r, p.resends])

/-- A window's replay buffer and copy records. -/
def Window.data (w : Window) : List Byte :=
  (w.buf.flatMap fun b => arrange 13 ([b.epoch, b.vdn, b.addr, b.data.length] ++ b.data.map BitVec.toNat)) ++
  w.copies.flatMap fun c => copyRecord c.desc c.landed c.bind c.tid [c.epoch, c.vdn, c.count, c.sent]

/-- An arrival entry with the time that it has left (R303). -/
def Arrival.record (a : Arrival) : List Byte :=
  arrange 16 ([a.key.svdn, a.key.win, a.key.inc, a.key.epoch, a.r, a.arrivals, a.deadline, ofBool a.denied] ++
    a.expect.elim [] fun e => [e.count, e.flag.toNat, e.value.toNat, e.scope])

/-- A duplicate filter: its highest number, its marks and the responses that it keeps (R310). -/
def DupFilter.record (vdn : Nat) (d : DupFilter) : List Byte :=
  arrange 17 (vdn :: d.high :: d.marks.flatMap fun m => match m.2 with
    | some (.done n v) => [m.1, 1, n, v]
    | some (.denied b) => [m.1, 2, b.toNat]
    | some .refused => [m.1, 3]
    | some .queued => [m.1, 4]
    | some (.grant b _) => [m.1, 5, b.toNat]
    | some .poisoned => [m.1, 6]
    | none => [m.1, 0])

/-- The launch, the `%blk` and the group that a lock's holder or waiter is; of a peer, its VDN and numbers. -/
def Image.groupId (img : Image) (vdn : Option Nat) (g : GroupRef) (blk : Nat) : List Nat :=
  match vdn with
  | some v => [1, v, g.dev, g.bid, g.grp]
  | none => [0, ((img.blocks.find? fun x => x.block.bid == g.bid).map fun x => img.indexOf x.block.lid).getD 0, blk, g.grp]

/-- A lock entry and its waiters in queue order (R294). -/
def Image.lockRecord (img : Image) (e : LockEntry) : List Byte :=
  recordOf 64 18 ([e.line, e.va.toNat, e.held, e.limit, ofBool e.lost] ++ e.holder.elim [] fun g => img.groupId e.hvdn g e.hblk) ++
  e.waiters.flatMap fun w => recordOf 16 19 (img.groupId w.vdn w.who w.blk ++ [w.cls, ofBool w.absent, w.deadline.elim 0 fun d => d + 1])

/-- A launch and its hierarchy barriers (R381, R408). -/
def Launch.image (l : Launch) : List Byte :=
  recordOf 128 20 [l.addr.toNat, l.q, l.record.key.toNat, l.next] ++
  l.hbars.flatMap fun h => arrange 21 ([h.level, h.idx, ofBool h.phase] ++ h.arrived)

/-- The cycles that a saved group's wait has left, by the image's lock entries. -/
def Image.left (img : Image) (x : SavedBlock) (g : Group) : Nat :=
  let w := (img.locks.flatMap fun e => e.waiters).find? fun w => w.vdn.isNone && w.who.bid == x.block.bid && w.who.grp == g.idx
  (w.bind fun w => w.deadline).getD 0

/-- The sections behind the header, in their order (R408). -/
def Image.sections (img : Image) : List (List Byte) :=
  [sectionOf img.function,
   sectionOf (padTo 512 ((List.range 64).flatMap fun v => vdnRecord (Tab.get (fun _ => (0 : Word)) img.vdn v).toNat)),
   sectionOf (padTo 1024 (img.log.flatMap fun r => leBytes r.toNat 16)),
   sectionOf (((List.range 32).flatMap fun w => (Tab.get (fun _ => Window.reset) img.windows w).record) ++ img.windows.flatMap fun e => e.2.data),
   sectionOf ((img.epochs.flatMap fun e => arrange 15 [e.1, e.2.irec.toNat, e.2.ec.toNat]) ++ img.arrivals.flatMap Arrival.record ++
     img.dups.flatMap fun e => DupFilter.record e.1 e.2),
   sectionOf ((List.range 64).flatMap fun v => leBytes (Tab.get (fun _ => 0) img.seqs v) 4),
   sectionOf (img.locks.flatMap img.lockRecord),
   sectionOf (img.launches.flatMap Launch.image ++ img.parked.flatMap fun p => arrange 22 [p.q, p.addr.toNat]),
   sectionOf (img.blocks.flatMap fun x => match img.launches.find? fun l => l.lid == x.block.lid with
     | some l => arrange 23 [img.indexOf l.lid] ++ x.image l (img.left x)
     | none => [])]

/-- A Neutral State Image: magic, version, total size, own VDN, offsets and sizes and, in the last 48 of its 256 bytes, the digest of what follows in the
header (log entry 20), then the sections. -/
def layoutBytes (img : Image) : List Byte :=
  let secs := img.sections
  let rest := secs.flatten
  padTo 208 (leBytes 0x4E534931 4 ++ leBytes img.major 2 ++ leBytes 0 2 ++ leBytes (256 + rest.length) 8 ++ leBytes img.ownVdn 8 ++
    (offsetsFrom 256 (secs.map fun l => (l.length, l))).flatMap fun n => leBytes n 8) ++ leBytes (Config.sha384 rest).toNat 48 ++ rest

/-- The number in `n` bytes of an image from a place on. -/
def imageField (bs : List Byte) (o n : Nat) : Nat := leNat ((bs.drop o).take n)

/-- Whether bytes begin with an image whose digest is right (R408, R410). -/
def digestGood (bs : List Byte) : Bool :=
  let n := imageField bs 8 8
  imageField bs 0 4 == 0x4E534931 && decide (256 ≤ n) && decide (n ≤ bs.length) &&
    imageField bs 208 48 == (Config.sha384 ((bs.take n).drop 256)).toNat

/-- A free value: what the sections hold of an image that was not laid out here (log entry 20). -/
opaque readSections : List Byte → Image

/-- An image of another device from its bytes: nothing where its digest is wrong (R410). -/
def layoutOf (bs : List Byte) : Option Image :=
  if digestGood bs then some { readSections bs with major := imageField bs 4 2, ownVdn := imageField bs 16 8 } else none

end Sys2Proof.Machine
end

