-- ==== Sys2Proof/Decode.lean ====
section
/-! DEFINITION. The decoder and, after it, the encoder. A word is 32 bits, little-endian in memory (R17); its major opcode
is bits 31:26 (R18); the formats place the fields (R19 to R22), and the opcode map (R31 to R34) assigns every function.
A word that the map leaves empty, a non-zero reserved bit or a non-zero unused field decodes to nothing: the step raises
ILLEGAL_OP (R35). Operand values that an assigned word may not hold are `Instr.wf`'s. -/

namespace Sys2Proof

/-- Bits of a word from `lo` up, `n` of them. -/
def fieldOf (w lo n : Nat) : BitVec n := BitVec.ofNat n (w / 2 ^ lo)

/-- The instruction when its unused and reserved bits are zero (R19, R35). -/
def onlyIf (c : Bool) (i : Instr) : Option Instr := if c then some i else none

/-- Major 0x01. -/
def dec01 (w : Nat) : Option Instr :=
  match w / 2097152 % 4 with
  | 0 => some (.addB32 (fieldOf w 23 3) (fieldOf w 14 7) (fieldOf w 7 7) (fieldOf w 0 7))
  | 1 => some (.subB32 (fieldOf w 23 3) (fieldOf w 14 7) (fieldOf w 7 7) (fieldOf w 0 7))
  | 2 => some (.addB64 (fieldOf w 23 3) (fieldOf w 14 7) (fieldOf w 7 7) (fieldOf w 0 7))
  | 3 => some (.subB64 (fieldOf w 23 3) (fieldOf w 14 7) (fieldOf w 7 7) (fieldOf w 0 7))
  | _ => none

/-- Major 0x02. -/
def dec02 (w : Nat) : Option Instr :=
  match w / 2097152 % 4 with
  | 0 => some (.addcB32 (fieldOf w 23 3) (fieldOf w 14 7) (fieldOf w 7 7) (fieldOf w 0 7))
  | 1 => some (.subcB32 (fieldOf w 23 3) (fieldOf w 14 7) (fieldOf w 7 7) (fieldOf w 0 7))
  | 2 => some (.mulLoB32 (fieldOf w 23 3) (fieldOf w 14 7) (fieldOf w 7 7) (fieldOf w 0 7))
  | 3 => some (.mulWideZ (fieldOf w 23 3) (fieldOf w 14 7) (fieldOf w 7 7) (fieldOf w 0 7))
  | _ => none

/-- Major 0x03. -/
def dec03 (w : Nat) : Option Instr :=
  match w / 2097152 % 4 with
  | 0 => some (.mulHiSB32 (fieldOf w 23 3) (fieldOf w 14 7) (fieldOf w 7 7) (fieldOf w 0 7))
  | 1 => some (.mulHiZB32 (fieldOf w 23 3) (fieldOf w 14 7) (fieldOf w 7 7) (fieldOf w 0 7))
  | 2 => some (.madLoB32 (fieldOf w 23 3) (fieldOf w 14 7) (fieldOf w 7 7) (fieldOf w 0 7))
  | 3 => some (.mulWideS (fieldOf w 23 3) (fieldOf w 14 7) (fieldOf w 7 7) (fieldOf w 0 7))
  | _ => none

/-- Major 0x04. -/
def dec04 (w : Nat) : Option Instr :=
  match w / 2097152 % 4 with
  | 0 => some (.minSB32 (fieldOf w 23 3) (fieldOf w 14 7) (fieldOf w 7 7) (fieldOf w 0 7))
  | 1 => some (.maxSB32 (fieldOf w 23 3) (fieldOf w 14 7) (fieldOf w 7 7) (fieldOf w 0 7))
  | 2 => some (.minZB32 (fieldOf w 23 3) (fieldOf w 14 7) (fieldOf w 7 7) (fieldOf w 0 7))
  | 3 => some (.maxZB32 (fieldOf w 23 3) (fieldOf w 14 7) (fieldOf w 7 7) (fieldOf w 0 7))
  | _ => none

/-- Major 0x05. -/
def dec05 (w : Nat) : Option Instr :=
  match w / 2097152 % 4 with
  | 0 => some (.shlB32 (fieldOf w 23 3) (fieldOf w 14 7) (fieldOf w 7 7) (fieldOf w 0 7))
  | 1 => some (.shrZB32 (fieldOf w 23 3) (fieldOf w 14 7) (fieldOf w 7 7) (fieldOf w 0 7))
  | 2 => some (.shrSB32 (fieldOf w 23 3) (fieldOf w 14 7) (fieldOf w 7 7) (fieldOf w 0 7))
  | 3 => some (.rotB32 (fieldOf w 23 3) (fieldOf w 14 7) (fieldOf w 7 7) (fieldOf w 0 7))
  | _ => none

/-- Major 0x06. -/
def dec06 (w : Nat) : Option Instr :=
  match w / 2097152 % 4 with
  | 0 => some (.shlB64 (fieldOf w 23 3) (fieldOf w 14 7) (fieldOf w 7 7) (fieldOf w 0 7))
  | 1 => some (.shrZB64 (fieldOf w 23 3) (fieldOf w 14 7) (fieldOf w 7 7) (fieldOf w 0 7))
  | 2 => some (.shrSB64 (fieldOf w 23 3) (fieldOf w 14 7) (fieldOf w 7 7) (fieldOf w 0 7))
  | 3 => some (.bselB32 (fieldOf w 23 3) (fieldOf w 14 7) (fieldOf w 7 7) (fieldOf w 0 7))
  | _ => none

/-- Major 0x07. -/
def dec07 (w : Nat) : Option Instr :=
  match w / 2097152 % 4 with
  | 0 => some (.andB32 (fieldOf w 23 3) (fieldOf w 14 7) (fieldOf w 7 7) (fieldOf w 0 7))
  | 1 => some (.orB32 (fieldOf w 23 3) (fieldOf w 14 7) (fieldOf w 7 7) (fieldOf w 0 7))
  | 2 => some (.xorB32 (fieldOf w 23 3) (fieldOf w 14 7) (fieldOf w 7 7) (fieldOf w 0 7))
  | 3 => some (.andnB32 (fieldOf w 23 3) (fieldOf w 14 7) (fieldOf w 7 7) (fieldOf w 0 7))
  | _ => none

/-- Major 0x08. -/
def dec08 (w : Nat) : Option Instr :=
  match w / 2097152 % 4 with
  | 0 => onlyIf (w % 128 == 0) (.popcB32 (fieldOf w 23 3) (fieldOf w 14 7) (fieldOf w 7 7))
  | 1 => onlyIf (w % 128 == 0) (.clzB32 (fieldOf w 23 3) (fieldOf w 14 7) (fieldOf w 7 7))
  | 2 => some (.bfxB32 (fieldOf w 23 3) (fieldOf w 14 7) (fieldOf w 7 7) (fieldOf w 0 7))
  | 3 => some (.bfiB32 (fieldOf w 23 3) (fieldOf w 14 7) (fieldOf w 7 7) (fieldOf w 0 7))
  | _ => none

/-- Major 0x09. -/
def dec09 (w : Nat) : Option Instr :=
  match w / 2097152 % 4 with
  | 0 => onlyIf (w / 131072 % 16 == 0) (.cmpEqB32 (fieldOf w 23 3) (fieldOf w 14 3) (fieldOf w 7 7) (fieldOf w 0 7))
  | 1 => onlyIf (w / 131072 % 16 == 0) (.cmpNeB32 (fieldOf w 23 3) (fieldOf w 14 3) (fieldOf w 7 7) (fieldOf w 0 7))
  | 2 => onlyIf (w / 131072 % 16 == 0) (.cmpLtSB32 (fieldOf w 23 3) (fieldOf w 14 3) (fieldOf w 7 7) (fieldOf w 0 7))
  | 3 => onlyIf (w / 131072 % 16 == 0) (.cmpLtZB32 (fieldOf w 23 3) (fieldOf w 14 3) (fieldOf w 7 7) (fieldOf w 0 7))
  | _ => none

/-- Major 0x0A. -/
def dec0A (w : Nat) : Option Instr :=
  match w / 2097152 % 4 with
  | 0 => onlyIf (w / 131072 % 16 == 0) (.cmpLeSB32 (fieldOf w 23 3) (fieldOf w 14 3) (fieldOf w 7 7) (fieldOf w 0 7))
  | 1 => onlyIf (w / 131072 % 16 == 0) (.cmpLeZB32 (fieldOf w 23 3) (fieldOf w 14 3) (fieldOf w 7 7) (fieldOf w 0 7))
  | 2 => onlyIf (w / 131072 % 16 == 0) (.cmpEqB64 (fieldOf w 23 3) (fieldOf w 14 3) (fieldOf w 7 7) (fieldOf w 0 7))
  | 3 => onlyIf (w / 131072 % 16 == 0) (.cmpLtSB64 (fieldOf w 23 3) (fieldOf w 14 3) (fieldOf w 7 7) (fieldOf w 0 7))
  | _ => none

/-- Major 0x0B. -/
def dec0B (w : Nat) : Option Instr :=
  match w / 2097152 % 4 with
  | 0 => onlyIf (w / 131072 % 16 == 0) (.cmpLtZB64 (fieldOf w 23 3) (fieldOf w 14 3) (fieldOf w 7 7) (fieldOf w 0 7))
  | 1 => some (.selB32 (fieldOf w 23 3) (fieldOf w 14 7) (fieldOf w 7 7) (fieldOf w 0 7))
  | 2 => onlyIf (w % 128 == 0) (.movB32 (fieldOf w 23 3) (fieldOf w 14 7) (fieldOf w 7 7))
  | 3 => onlyIf (w % 128 == 0) (.movSv (fieldOf w 23 3) (fieldOf w 14 7) (fieldOf w 7 7))
  | _ => none

/-- Major 0x0C. -/
def dec0C (w : Nat) : Option Instr :=
  match w / 2097152 % 4 with
  | 0 => some (.fadd (fieldOf w 23 3) (fieldOf w 14 7) (fieldOf w 7 7) (fieldOf w 0 7))
  | 1 => some (.fsub (fieldOf w 23 3) (fieldOf w 14 7) (fieldOf w 7 7) (fieldOf w 0 7))
  | 2 => some (.fmul (fieldOf w 23 3) (fieldOf w 14 7) (fieldOf w 7 7) (fieldOf w 0 7))
  | 3 => some (.ffma (fieldOf w 23 3) (fieldOf w 14 7) (fieldOf w 7 7) (fieldOf w 0 7))
  | _ => none

/-- Major 0x0D. -/
def dec0D (w : Nat) : Option Instr :=
  match w / 2097152 % 4 with
  | 0 => some (.fmin (fieldOf w 23 3) (fieldOf w 14 7) (fieldOf w 7 7) (fieldOf w 0 7))
  | 1 => some (.fmax (fieldOf w 23 3) (fieldOf w 14 7) (fieldOf w 7 7) (fieldOf w 0 7))
  | 2 => onlyIf (w / 131072 % 16 == 0) (.fcmpEq (fieldOf w 23 3) (fieldOf w 14 3) (fieldOf w 7 7) (fieldOf w 0 7))
  | 3 => onlyIf (w / 131072 % 16 == 0) (.fcmpLt (fieldOf w 23 3) (fieldOf w 14 3) (fieldOf w 7 7) (fieldOf w 0 7))
  | _ => none

/-- Major 0x0E. -/
def dec0E (w : Nat) : Option Instr :=
  match w / 2097152 % 4 with
  | 0 => onlyIf (w / 131072 % 16 == 0) (.fcmpLe (fieldOf w 23 3) (fieldOf w 14 3) (fieldOf w 7 7) (fieldOf w 0 7))
  | 1 => onlyIf (w / 131072 % 16 == 0) (.fcmpUn (fieldOf w 23 3) (fieldOf w 14 3) (fieldOf w 7 7) (fieldOf w 0 7))
  | 2 => onlyIf (w % 128 == 0) (.fabs (fieldOf w 23 3) (fieldOf w 14 7) (fieldOf w 7 7))
  | 3 => onlyIf (w % 128 == 0) (.fneg (fieldOf w 23 3) (fieldOf w 14 7) (fieldOf w 7 7))
  | _ => none

/-- Major 0x0F. -/
def dec0F (w : Nat) : Option Instr :=
  match w / 2097152 % 4 with
  | 0 => some (.faddF16x2 (fieldOf w 23 3) (fieldOf w 14 7) (fieldOf w 7 7) (fieldOf w 0 7))
  | 1 => some (.fsubF16x2 (fieldOf w 23 3) (fieldOf w 14 7) (fieldOf w 7 7) (fieldOf w 0 7))
  | 2 => some (.fmulF16x2 (fieldOf w 23 3) (fieldOf w 14 7) (fieldOf w 7 7) (fieldOf w 0 7))
  | 3 => some (.ffmaF16x2 (fieldOf w 23 3) (fieldOf w 14 7) (fieldOf w 7 7) (fieldOf w 0 7))
  | _ => none

/-- Major 0x10. -/
def dec10 (w : Nat) : Option Instr :=
  some (.addi (fieldOf w 23 3) (fieldOf w 16 7) (fieldOf w 9 7) (fieldOf w 0 9))

/-- Major 0x11. -/
def dec11 (w : Nat) : Option Instr :=
  some (.addiB64 (fieldOf w 23 3) (fieldOf w 16 7) (fieldOf w 9 7) (fieldOf w 0 9))

/-- Major 0x12. -/
def dec12 (w : Nat) : Option Instr :=
  some (.movi (fieldOf w 23 3) (fieldOf w 16 7) (fieldOf w 0 16))

/-- Major 0x13. -/
def dec13 (w : Nat) : Option Instr :=
  match w / 2097152 % 4 with
  | 0 => some (.faddBf16x2 (fieldOf w 23 3) (fieldOf w 14 7) (fieldOf w 7 7) (fieldOf w 0 7))
  | 1 => some (.fsubBf16x2 (fieldOf w 23 3) (fieldOf w 14 7) (fieldOf w 7 7) (fieldOf w 0 7))
  | 2 => some (.fmulBf16x2 (fieldOf w 23 3) (fieldOf w 14 7) (fieldOf w 7 7) (fieldOf w 0 7))
  | 3 => some (.ffmaBf16x2 (fieldOf w 23 3) (fieldOf w 14 7) (fieldOf w 7 7) (fieldOf w 0 7))
  | _ => none

/-- Major 0x14. -/
def dec14 (w : Nat) : Option Instr :=
  match w / 2097152 % 4 with
  | 0 => some (.fminF16x2 (fieldOf w 23 3) (fieldOf w 14 7) (fieldOf w 7 7) (fieldOf w 0 7))
  | 1 => some (.fmaxF16x2 (fieldOf w 23 3) (fieldOf w 14 7) (fieldOf w 7 7) (fieldOf w 0 7))
  | 2 => some (.fminBf16x2 (fieldOf w 23 3) (fieldOf w 14 7) (fieldOf w 7 7) (fieldOf w 0 7))
  | 3 => some (.fmaxBf16x2 (fieldOf w 23 3) (fieldOf w 14 7) (fieldOf w 7 7) (fieldOf w 0 7))
  | _ => none

/-- Major 0x15. -/
def dec15 (w : Nat) : Option Instr :=
  match w / 2097152 % 4 with
  | 0 => onlyIf (w % 128 == 0) (.rcp (fieldOf w 23 3) (fieldOf w 14 7) (fieldOf w 7 7))
  | 1 => onlyIf (w % 128 == 0) (.rsq (fieldOf w 23 3) (fieldOf w 14 7) (fieldOf w 7 7))
  | 2 => onlyIf (w % 128 == 0) (.sqrt (fieldOf w 23 3) (fieldOf w 14 7) (fieldOf w 7 7))
  | 3 => onlyIf (w % 128 == 0) (.exp2 (fieldOf w 23 3) (fieldOf w 14 7) (fieldOf w 7 7))
  | _ => none

/-- Major 0x16. -/
def dec16 (w : Nat) : Option Instr :=
  match w / 2097152 % 4 with
  | 0 => onlyIf (w % 128 == 0) (.log2 (fieldOf w 23 3) (fieldOf w 14 7) (fieldOf w 7 7))
  | 1 => onlyIf (w % 128 == 0) (.sin (fieldOf w 23 3) (fieldOf w 14 7) (fieldOf w 7 7))
  | 2 => onlyIf (w % 128 == 0) (.cos (fieldOf w 23 3) (fieldOf w 14 7) (fieldOf w 7 7))
  | 3 => onlyIf (w % 128 == 0) (.frnd (fieldOf w 23 3) (fieldOf w 14 7) (fieldOf w 7 7))
  | _ => none

/-- Major 0x17. -/
def dec17 (w : Nat) : Option Instr :=
  some (.cvt (fieldOf w 23 3) (fieldOf w 16 7) (fieldOf w 9 7) (fieldOf w 8 1) (fieldOf w 4 4) (fieldOf w 0 4))

/-- Major 0x18. -/
def dec18 (w : Nat) : Option Instr :=
  match w / 2097152 % 4 with
  | 0 => onlyIf (w % 16384 == 0) (.rdflg (fieldOf w 23 3) (fieldOf w 14 7))
  | 1 => onlyIf (w % 128 == 0 && w / 16384 % 128 == 0) (.clrflg (fieldOf w 23 3) (fieldOf w 7 7))
  | 2 => some (.fdot2F16 (fieldOf w 23 3) (fieldOf w 14 7) (fieldOf w 7 7) (fieldOf w 0 7))
  | 3 => some (.fdot2Bf16 (fieldOf w 23 3) (fieldOf w 14 7) (fieldOf w 7 7) (fieldOf w 0 7))
  | _ => none

/-- Major 0x19. -/
def dec19 (w : Nat) : Option Instr :=
  match w / 2097152 % 4 with
  | 0 => onlyIf (w / 8 % 16 == 0 && w / 1024 % 16 == 0 && w / 131072 % 16 == 0) (.pand (fieldOf w 23 3) (fieldOf w 14 3) (fieldOf w 7 3) (fieldOf w 0 3))
  | 1 => onlyIf (w / 8 % 16 == 0 && w / 1024 % 16 == 0 && w / 131072 % 16 == 0) (.por (fieldOf w 23 3) (fieldOf w 14 3) (fieldOf w 7 3) (fieldOf w 0 3))
  | 2 => onlyIf (w / 8 % 16 == 0 && w / 1024 % 16 == 0 && w / 131072 % 16 == 0) (.pxor (fieldOf w 23 3) (fieldOf w 14 3) (fieldOf w 7 3) (fieldOf w 0 3))
  | 3 => onlyIf (w % 128 == 0 && w / 1024 % 16 == 0 && w / 131072 % 16 == 0) (.pnot (fieldOf w 23 3) (fieldOf w 14 3) (fieldOf w 7 3))
  | _ => none

/-- Major 0x1A. -/
def dec1A (w : Nat) : Option Instr :=
  match w / 2097152 % 4 with
  | 0 => onlyIf (w % 128 == 0 && w / 1024 % 16 == 0) (.p2v (fieldOf w 23 3) (fieldOf w 14 7) (fieldOf w 7 3))
  | 1 => onlyIf (w % 128 == 0 && w / 131072 % 16 == 0) (.v2p (fieldOf w 23 3) (fieldOf w 14 3) (fieldOf w 7 7))
  | _ => none

/-- Major 0x1C. -/
def dec1C (w : Nat) : Option Instr :=
  match w / 2097152 % 4 with
  | 0 => some (.atomMinS (fieldOf w 23 3) (fieldOf w 14 7) (fieldOf w 7 7) (fieldOf w 0 7))
  | 1 => some (.atomMinZ (fieldOf w 23 3) (fieldOf w 14 7) (fieldOf w 7 7) (fieldOf w 0 7))
  | 2 => some (.atomMaxS (fieldOf w 23 3) (fieldOf w 14 7) (fieldOf w 7 7) (fieldOf w 0 7))
  | 3 => some (.atomMaxZ (fieldOf w 23 3) (fieldOf w 14 7) (fieldOf w 7 7) (fieldOf w 0 7))
  | _ => none

/-- Major 0x1D. -/
def dec1D (w : Nat) : Option Instr :=
  match w / 2097152 % 4 with
  | 0 => onlyIf (w / 16384 % 128 == 0) (.redAdd (fieldOf w 23 3) (fieldOf w 7 7) (fieldOf w 0 7))
  | 1 => onlyIf (w / 16384 % 128 == 0) (.redAddB64 (fieldOf w 23 3) (fieldOf w 7 7) (fieldOf w 0 7))
  | 2 => onlyIf (w / 16384 % 128 == 0) (.redFadd (fieldOf w 23 3) (fieldOf w 7 7) (fieldOf w 0 7))
  | 3 => onlyIf (w / 16384 % 128 == 0) (.redFadd2c (fieldOf w 23 3) (fieldOf w 7 7) (fieldOf w 0 7))
  | _ => none

/-- Major 0x1E. -/
def dec1E (w : Nat) : Option Instr :=
  match w / 2097152 % 4 with
  | 0 => onlyIf (w / 16384 % 128 == 0) (.redMinS (fieldOf w 23 3) (fieldOf w 7 7) (fieldOf w 0 7))
  | 1 => onlyIf (w / 16384 % 128 == 0) (.redMaxS (fieldOf w 23 3) (fieldOf w 7 7) (fieldOf w 0 7))
  | 2 => onlyIf (w / 16384 % 128 == 0) (.redAnd (fieldOf w 23 3) (fieldOf w 7 7) (fieldOf w 0 7))
  | 3 => onlyIf (w / 16384 % 128 == 0) (.redOr (fieldOf w 23 3) (fieldOf w 7 7) (fieldOf w 0 7))
  | _ => none

/-- Major 0x1F. -/
def dec1F (w : Nat) : Option Instr :=
  match w / 2097152 % 4 with
  | 0 => onlyIf (w / 32 % 4 == 0) (.cpLaneB32 (fieldOf w 23 3) (fieldOf w 14 7) (fieldOf w 7 7) (fieldOf w 2 3) (fieldOf w 1 1) (fieldOf w 0 1))
  | 1 => onlyIf (w / 32 % 4 == 0) (.cpLaneB64 (fieldOf w 23 3) (fieldOf w 14 7) (fieldOf w 7 7) (fieldOf w 2 3) (fieldOf w 1 1) (fieldOf w 0 1))
  | 2 => onlyIf (w / 32 % 4 == 0) (.cpLaneB128 (fieldOf w 23 3) (fieldOf w 14 7) (fieldOf w 7 7) (fieldOf w 2 3) (fieldOf w 1 1) (fieldOf w 0 1))
  | 3 => some (.cpBin (fieldOf w 23 3) (fieldOf w 14 7) (fieldOf w 7 7) (fieldOf w 0 7))
  | _ => none

/-- Major 0x20. -/
def dec20 (w : Nat) : Option Instr :=
  some (.bra (fieldOf w 23 3) (fieldOf w 0 23))

/-- Major 0x21. -/
def dec21 (w : Nat) : Option Instr :=
  some (.call (fieldOf w 23 3) (fieldOf w 0 23))

/-- Major 0x22. -/
def dec22 (w : Nat) : Option Instr :=
  match w / 65536 % 128 with
  | 0 => onlyIf (w % 65536 == 0) (.nop (fieldOf w 23 3))
  | 1 => onlyIf (w % 4 == 0 && w / 512 % 128 == 0) (.jmp (fieldOf w 23 3) (fieldOf w 2 7))
  | 2 => onlyIf (w % 4 == 0) (.calli (fieldOf w 23 3) (fieldOf w 9 7) (fieldOf w 2 7))
  | 3 => onlyIf (w % 4 == 0 && w / 512 % 128 == 0) (.ret (fieldOf w 23 3) (fieldOf w 2 7))
  | 4 => onlyIf (w % 65536 == 0) (.exit (fieldOf w 23 3))
  | 5 => onlyIf (w % 65536 == 0) (.yield (fieldOf w 23 3))
  | 6 => onlyIf (w % 512 == 0) (.brk (fieldOf w 23 3) (fieldOf w 9 7))
  | 8 => onlyIf (w % 512 == 0 && w / 16384 % 4 == 0) (.wbase (fieldOf w 23 3) (fieldOf w 13 1) (fieldOf w 9 4))
  | 9 => onlyIf (w % 4 == 0 && w / 64 % 1024 == 0) (.regacq (fieldOf w 23 3) (fieldOf w 2 4))
  | 10 => onlyIf (w % 4 == 0 && w / 64 % 8 == 0 && w / 4096 % 16 == 0) (.regacqTry (fieldOf w 23 3) (fieldOf w 9 3) (fieldOf w 2 4))
  | 11 => onlyIf (w % 4 == 0 && w / 64 % 1024 == 0) (.regrel (fieldOf w 23 3) (fieldOf w 2 4))
  | 16 => onlyIf (w % 4 == 0) (.spawn (fieldOf w 23 3) (fieldOf w 9 7) (fieldOf w 2 7))
  | 24 => onlyIf (w % 4 == 0 && w / 32768 % 2 == 0) (.cfetch (fieldOf w 23 3) (fieldOf w 9 6) (fieldOf w 2 7))
  | _ => none

/-- Major 0x23. -/
def dec23 (w : Nat) : Option Instr :=
  some (.jfence (fieldOf w 23 3) (fieldOf w 0 23))

/-- Major 0x24. -/
def dec24 (w : Nat) : Option Instr :=
  match w / 2097152 % 4 with
  | 0 => some (.xlaneAt (fieldOf w 23 3) (fieldOf w 14 7) (fieldOf w 7 7) (fieldOf w 0 7))
  | 1 => some (.xlaneBack (fieldOf w 23 3) (fieldOf w 14 7) (fieldOf w 7 7) (fieldOf w 0 7))
  | 2 => some (.xlaneFwd (fieldOf w 23 3) (fieldOf w 14 7) (fieldOf w 7 7) (fieldOf w 0 7))
  | 3 => some (.xlaneFlip (fieldOf w 23 3) (fieldOf w 14 7) (fieldOf w 7 7) (fieldOf w 0 7))
  | _ => none

/-- Major 0x25. -/
def dec25 (w : Nat) : Option Instr :=
  match w / 2097152 % 4 with
  | 0 => onlyIf (w % 128 == 0 && w / 1024 % 16 == 0 && w / 131072 % 16 == 0) (.voteAll (fieldOf w 23 3) (fieldOf w 14 3) (fieldOf w 7 3))
  | 1 => onlyIf (w % 128 == 0 && w / 1024 % 16 == 0 && w / 131072 % 16 == 0) (.voteAny (fieldOf w 23 3) (fieldOf w 14 3) (fieldOf w 7 3))
  | 2 => onlyIf (w % 128 == 0 && w / 1024 % 16 == 0) (.ballot (fieldOf w 23 3) (fieldOf w 14 7) (fieldOf w 7 3))
  | 3 => onlyIf (w % 128 == 0) (.matchV (fieldOf w 23 3) (fieldOf w 14 7) (fieldOf w 7 7))
  | _ => none

/-- Major 0x26. -/
def dec26 (w : Nat) : Option Instr :=
  match w / 2097152 % 4 with
  | 0 => onlyIf (w % 128 == 0) (.gredAdd (fieldOf w 23 3) (fieldOf w 14 7) (fieldOf w 7 7))
  | 1 => onlyIf (w % 128 == 0) (.gredMinS (fieldOf w 23 3) (fieldOf w 14 7) (fieldOf w 7 7))
  | 2 => onlyIf (w % 128 == 0) (.gredMinZ (fieldOf w 23 3) (fieldOf w 14 7) (fieldOf w 7 7))
  | 3 => onlyIf (w % 128 == 0) (.gredMaxS (fieldOf w 23 3) (fieldOf w 14 7) (fieldOf w 7 7))
  | _ => none

/-- Major 0x27. -/
def dec27 (w : Nat) : Option Instr :=
  match w / 2097152 % 4 with
  | 0 => onlyIf (w % 128 == 0) (.gredMaxZ (fieldOf w 23 3) (fieldOf w 14 7) (fieldOf w 7 7))
  | 1 => onlyIf (w % 128 == 0) (.gredFadd (fieldOf w 23 3) (fieldOf w 14 7) (fieldOf w 7 7))
  | 2 => onlyIf (w % 128 == 0) (.gscanAdd (fieldOf w 23 3) (fieldOf w 14 7) (fieldOf w 7 7))
  | 3 => onlyIf (w % 16384 == 0 && w / 131072 % 16 == 0) (.elect (fieldOf w 23 3) (fieldOf w 14 3))
  | _ => none

/-- Major 0x28. -/
def dec28 (w : Nat) : Option Instr :=
  some (.ld (fieldOf w 23 3) (fieldOf w 16 7) (fieldOf w 9 7) (fieldOf w 6 3) (fieldOf w 4 2) (fieldOf w 0 4))

/-- Major 0x29. -/
def dec29 (w : Nat) : Option Instr :=
  some (.st (fieldOf w 23 3) (fieldOf w 16 7) (fieldOf w 9 7) (fieldOf w 6 3) (fieldOf w 4 2) (fieldOf w 0 4))

/-- Major 0x2A. -/
def dec2A (w : Nat) : Option Instr :=
  onlyIf (w / 128 % 4 == 1) (.ldAcq (fieldOf w 23 3) (fieldOf w 16 7) (fieldOf w 9 7) (fieldOf w 6 1) (fieldOf w 4 2) (fieldOf w 0 4))

/-- Major 0x2B. -/
def dec2B (w : Nat) : Option Instr :=
  onlyIf (w / 128 % 4 == 1) (.stRel (fieldOf w 23 3) (fieldOf w 16 7) (fieldOf w 9 7) (fieldOf w 6 1) (fieldOf w 4 2) (fieldOf w 0 4))

/-- Major 0x2C. -/
def dec2C (w : Nat) : Option Instr :=
  onlyIf (w / 16 % 4 == 0) (.ldC (fieldOf w 23 3) (fieldOf w 16 7) (fieldOf w 9 7) (fieldOf w 6 3) (fieldOf w 0 4))

/-- Major 0x2D. -/
def dec2D (w : Nat) : Option Instr :=
  onlyIf (w / 64 % 8 == 0 && w / 65536 % 128 == 0) (.pref (fieldOf w 23 3) (fieldOf w 9 7) (fieldOf w 4 2) (fieldOf w 0 4))

/-- Major 0x2E. -/
def dec2E (w : Nat) : Option Instr :=
  match w / 2097152 % 4 with
  | 0 => some (.atomAdd (fieldOf w 23 3) (fieldOf w 14 7) (fieldOf w 7 7) (fieldOf w 0 7))
  | 1 => some (.atomAddB64 (fieldOf w 23 3) (fieldOf w 14 7) (fieldOf w 7 7) (fieldOf w 0 7))
  | 2 => some (.atomExch (fieldOf w 23 3) (fieldOf w 14 7) (fieldOf w 7 7) (fieldOf w 0 7))
  | 3 => some (.atomExchB64 (fieldOf w 23 3) (fieldOf w 14 7) (fieldOf w 7 7) (fieldOf w 0 7))
  | _ => none

/-- Major 0x2F. -/
def dec2F (w : Nat) : Option Instr :=
  match w / 2097152 % 4 with
  | 0 => some (.atomCas (fieldOf w 23 3) (fieldOf w 14 7) (fieldOf w 7 7) (fieldOf w 0 7))
  | 1 => some (.atomCasB64 (fieldOf w 23 3) (fieldOf w 14 7) (fieldOf w 7 7) (fieldOf w 0 7))
  | 2 => some (.atomFadd (fieldOf w 23 3) (fieldOf w 14 7) (fieldOf w 7 7) (fieldOf w 0 7))
  | 3 => some (.atomFadd2c (fieldOf w 23 3) (fieldOf w 14 7) (fieldOf w 7 7) (fieldOf w 0 7))
  | _ => none

/-- Major 0x30. -/
def dec30 (w : Nat) : Option Instr :=
  some (.mmaF16 (fieldOf w 23 3) (fieldOf w 17 6) (fieldOf w 15 2) (fieldOf w 12 3) (fieldOf w 6 6) (fieldOf w 0 6))

/-- Major 0x31. -/
def dec31 (w : Nat) : Option Instr :=
  some (.mmaBf16 (fieldOf w 23 3) (fieldOf w 17 6) (fieldOf w 15 2) (fieldOf w 12 3) (fieldOf w 6 6) (fieldOf w 0 6))

/-- Major 0x32. -/
def dec32 (w : Nat) : Option Instr :=
  some (.mmaE4m3 (fieldOf w 23 3) (fieldOf w 17 6) (fieldOf w 15 2) (fieldOf w 12 3) (fieldOf w 6 6) (fieldOf w 0 6))

/-- Major 0x33. -/
def dec33 (w : Nat) : Option Instr :=
  some (.mmaE4m3e5m2 (fieldOf w 23 3) (fieldOf w 17 6) (fieldOf w 15 2) (fieldOf w 12 3) (fieldOf w 6 6) (fieldOf w 0 6))

/-- Major 0x34. -/
def dec34 (w : Nat) : Option Instr :=
  some (.mmaE5m2 (fieldOf w 23 3) (fieldOf w 17 6) (fieldOf w 15 2) (fieldOf w 12 3) (fieldOf w 6 6) (fieldOf w 0 6))

/-- Major 0x35. -/
def dec35 (w : Nat) : Option Instr :=
  some (.mmaS8 (fieldOf w 23 3) (fieldOf w 17 6) (fieldOf w 15 2) (fieldOf w 12 3) (fieldOf w 6 6) (fieldOf w 0 6))

/-- Major 0x36. -/
def dec36 (w : Nat) : Option Instr :=
  some (.mmaE2m1 (fieldOf w 23 3) (fieldOf w 17 6) (fieldOf w 15 2) (fieldOf w 12 3) (fieldOf w 6 6) (fieldOf w 0 6))

/-- Major 0x37. -/
def dec37 (w : Nat) : Option Instr :=
  some (.mmaBf16s4 (fieldOf w 23 3) (fieldOf w 17 6) (fieldOf w 15 2) (fieldOf w 12 3) (fieldOf w 6 6) (fieldOf w 0 6))

/-- Major 0x38. -/
def dec38 (w : Nat) : Option Instr :=
  match w / 2097152 % 4 with
  | 0 => onlyIf (w / 4 % 32 == 0 && w / 131072 % 16 == 0) (.llock (fieldOf w 23 3) (fieldOf w 14 3) (fieldOf w 7 7) (fieldOf w 0 2))
  | 1 => onlyIf (w % 128 == 0 && w / 16384 % 128 == 0) (.lunlock (fieldOf w 23 3) (fieldOf w 7 7))
  | 2 => onlyIf (w % 128 == 0 && w / 131072 % 16 == 0) (.ltry (fieldOf w 23 3) (fieldOf w 14 3) (fieldOf w 7 7))
  | 3 => onlyIf (w % 128 == 0) (.lstat (fieldOf w 23 3) (fieldOf w 14 7) (fieldOf w 7 7))
  | _ => none

/-- Major 0x39. -/
def dec39 (w : Nat) : Option Instr :=
  match w / 65536 % 128 with
  | 0 => onlyIf (w % 512 == 0 && w / 16384 % 4 == 0) (.fence (fieldOf w 23 3) (fieldOf w 12 2) (fieldOf w 9 3))
  | 1 => onlyIf (w % 4 == 0 && w / 16384 % 4 == 0) (.barInit (fieldOf w 23 3) (fieldOf w 9 5) (fieldOf w 2 7))
  | 2 => onlyIf (w % 4 == 0 && w / 16384 % 4 == 0) (.barExpect (fieldOf w 23 3) (fieldOf w 9 5) (fieldOf w 2 7))
  | 3 => onlyIf (w % 4 == 0 && w / 128 % 4 == 0) (.barArrive (fieldOf w 23 3) (fieldOf w 9 7) (fieldOf w 2 5))
  | 4 => onlyIf (w % 4 == 0 && w / 16384 % 4 == 0) (.barWait (fieldOf w 23 3) (fieldOf w 9 5) (fieldOf w 2 7))
  | 5 => onlyIf (w % 512 == 0 && w / 16384 % 4 == 0) (.barSync (fieldOf w 23 3) (fieldOf w 9 5))
  | 6 => onlyIf (w % 4 == 0 && w / 128 % 4 == 0 && w / 4096 % 16 == 0) (.barTest (fieldOf w 23 3) (fieldOf w 9 3) (fieldOf w 2 5))
  | 8 => onlyIf (w % 4 == 0) (.hbarArrive (fieldOf w 23 3) (fieldOf w 9 7) (fieldOf w 6 3) (fieldOf w 2 4))
  | 9 => onlyIf (w % 4 == 0) (.hbarWait (fieldOf w 23 3) (fieldOf w 9 7) (fieldOf w 6 3) (fieldOf w 2 4))
  | _ => none

/-- Major 0x3A. -/
def dec3A (w : Nat) : Option Instr :=
  some (.wait (fieldOf w 23 3) (fieldOf w 17 6) (fieldOf w 11 6) (fieldOf w 5 6) (fieldOf w 0 5))

/-- Major 0x3B. -/
def dec3B (w : Nat) : Option Instr :=
  match w / 65536 % 128 with
  | 0 => onlyIf (w % 16 == 0 && w / 512 % 128 == 0) (.cpBulk (fieldOf w 23 3) (fieldOf w 4 5))
  | 1 => onlyIf (w % 16 == 0) (.cpMcast (fieldOf w 23 3) (fieldOf w 9 7) (fieldOf w 4 5))
  | 2 =>
    (onlyIf (w % 512 == 4 && w / 16384 % 4 == 0) (.cpBind (fieldOf w 23 3) (fieldOf w 9 5))).orElse fun _ =>
    onlyIf (w % 65536 == 0) (.cpBindNone (fieldOf w 23 3))
  | 16 =>
    (onlyIf (w % 4 == 0 && w / 32 % 16 == 0) (.fwopen (fieldOf w 23 3) (fieldOf w 9 7) (fieldOf w 2 3))).orElse fun _ =>
    onlyIf (w % 512 == 32) (.fwopenFree (fieldOf w 23 3) (fieldOf w 9 7))
  | 17 => onlyIf (w % 4 == 0 && w / 128 % 4 == 0) (.fwstat (fieldOf w 23 3) (fieldOf w 9 7) (fieldOf w 2 5))
  | 18 => onlyIf (w % 4 == 0) (.vdnq (fieldOf w 23 3) (fieldOf w 9 7) (fieldOf w 2 7))
  | 32 => onlyIf (w % 65536 == 0) (.ckpt (fieldOf w 23 3))
  | 33 => onlyIf (w % 512 == 0) (.ckstat (fieldOf w 23 3) (fieldOf w 9 7))
  | 34 => onlyIf (w % 512 == 0 && w / 4096 % 16 == 0) (.ckrole (fieldOf w 23 3) (fieldOf w 9 3))
  | _ => none

/-- Major 0x3C. -/
def dec3C (w : Nat) : Option Instr :=
  match w / 65536 % 128 with
  | 0 => onlyIf (w % 4 == 0 && w / 4096 % 16 == 0) (.tclaim (fieldOf w 23 3) (fieldOf w 9 3) (fieldOf w 2 7))
  | 1 => onlyIf (w % 4 == 0 && w / 512 % 128 == 0) (.trel (fieldOf w 23 3) (fieldOf w 2 7))
  | 2 => onlyIf (w % 16 == 0 && w / 32768 % 2 == 0) (.tfill (fieldOf w 23 3) (fieldOf w 9 6) (fieldOf w 4 5))
  | 3 => onlyIf (w % 16 == 0 && w / 32768 % 2 == 0) (.tfillDq (fieldOf w 23 3) (fieldOf w 9 6) (fieldOf w 4 5))
  | 8 => onlyIf (w % 4 == 0 && w / 32 % 16 == 0 && w / 4096 % 16 == 0) (.azero (fieldOf w 23 3) (fieldOf w 9 3) (fieldOf w 2 3))
  | 9 => onlyIf (w % 4 == 0 && w / 4096 % 16 == 0) (.aload (fieldOf w 23 3) (fieldOf w 9 3) (fieldOf w 2 7))
  | 10 => onlyIf (w % 16 == 0 && w / 4096 % 16 == 0) (.tdrain (fieldOf w 23 3) (fieldOf w 9 3) (fieldOf w 4 5))
  | 11 => onlyIf (w % 16 == 0 && w / 4096 % 16 == 0) (.tdrainAdd (fieldOf w 23 3) (fieldOf w 9 3) (fieldOf w 4 5))
  | 16 => onlyIf (w % 4 == 0 && w / 512 % 128 == 0) (.gang (fieldOf w 23 3) (fieldOf w 2 7))
  | 17 => onlyIf (w % 16 == 0 && w / 512 % 128 == 0) (.pcfg (fieldOf w 23 3) (fieldOf w 4 5))
  | 18 => onlyIf (w % 4 == 0 && w / 16 % 32 == 0) (.mstat (fieldOf w 23 3) (fieldOf w 9 7) (fieldOf w 3 1) (fieldOf w 2 1))
  | _ => none

/-- Major 0x3D. -/
def dec3D (w : Nat) : Option Instr :=
  match w / 2097152 % 4 with
  | 0 => some (.fst (fieldOf w 23 3) (fieldOf w 19 2) (fieldOf w 14 5) (fieldOf w 7 7) (fieldOf w 0 7))
  | 1 => onlyIf (w / 32 % 4 == 0) (.fld (fieldOf w 23 3) (fieldOf w 14 7) (fieldOf w 7 7) (fieldOf w 3 2) (fieldOf w 0 3))
  | 2 => some (.fatom (fieldOf w 23 3) (fieldOf w 14 7) (fieldOf w 7 7) (fieldOf w 3 4) (fieldOf w 0 3))
  | 3 => some (.fwclose (fieldOf w 23 3) (fieldOf w 19 2) (fieldOf w 14 5) (fieldOf w 7 7) (fieldOf w 0 7))
  | _ => none

/-- Major 0x3E. -/
def dec3E (w : Nat) : Option Instr :=
  match w / 65536 % 128 with
  | 0 =>
    (onlyIf (w % 65536 == 0) (.tret (fieldOf w 23 3))).orElse fun _ =>
    onlyIf (w % 4 == 0 && w / 512 % 128 == 1) (.tretAddr (fieldOf w 23 3) (fieldOf w 2 7))
  | 1 => onlyIf (w % 4 == 0 && w / 32 % 16 == 0) (.trd (fieldOf w 23 3) (fieldOf w 9 7) (fieldOf w 2 3))
  | 8 => onlyIf (w % 4 == 0) (.srd (fieldOf w 23 3) (fieldOf w 9 7) (fieldOf w 2 7))
  | 9 => onlyIf (w % 4 == 0) (.swr (fieldOf w 23 3) (fieldOf w 9 7) (fieldOf w 2 7))
  | 16 => onlyIf (w % 65536 == 0) (.cinvL1 (fieldOf w 23 3))
  | 17 => onlyIf (w % 65536 == 0) (.cinvC (fieldOf w 23 3))
  | 18 => onlyIf (w % 4 == 0) (.cwbMere (fieldOf w 23 3) (fieldOf w 9 7) (fieldOf w 2 7))
  | 24 => onlyIf (w % 4 == 0) (.mtrd (fieldOf w 23 3) (fieldOf w 9 7) (fieldOf w 2 7))
  | 25 => onlyIf (w % 4 == 0) (.evcfg (fieldOf w 23 3) (fieldOf w 9 7) (fieldOf w 2 7))
  | 26 => onlyIf (w % 4 == 0) (.evrd (fieldOf w 23 3) (fieldOf w 9 7) (fieldOf w 2 7))
  | 32 => onlyIf (w % 4 == 0) (.lklog (fieldOf w 23 3) (fieldOf w 9 7) (fieldOf w 2 7))
  | 48 => onlyIf (w % 4 == 0 && w / 512 % 128 == 0) (.kinj (fieldOf w 23 3) (fieldOf w 2 7))
  | _ => none

/-- One word: every major of R31 to R33; majors 0x00 and 0x1B are assigned to nothing (R35), and `lim` (0x3F) is no
instruction alone (R28). -/
def decodeWord (w : Nat) : Option Instr :=
  match w / 67108864 % 64 with
  | 1 => dec01 w
  | 2 => dec02 w
  | 3 => dec03 w
  | 4 => dec04 w
  | 5 => dec05 w
  | 6 => dec06 w
  | 7 => dec07 w
  | 8 => dec08 w
  | 9 => dec09 w
  | 10 => dec0A w
  | 11 => dec0B w
  | 12 => dec0C w
  | 13 => dec0D w
  | 14 => dec0E w
  | 15 => dec0F w
  | 16 => dec10 w
  | 17 => dec11 w
  | 18 => dec12 w
  | 19 => dec13 w
  | 20 => dec14 w
  | 21 => dec15 w
  | 22 => dec16 w
  | 23 => dec17 w
  | 24 => dec18 w
  | 25 => dec19 w
  | 26 => dec1A w
  | 28 => dec1C w
  | 29 => dec1D w
  | 30 => dec1E w
  | 31 => dec1F w
  | 32 => dec20 w
  | 33 => dec21 w
  | 34 => dec22 w
  | 35 => dec23 w
  | 36 => dec24 w
  | 37 => dec25 w
  | 38 => dec26 w
  | 39 => dec27 w
  | 40 => dec28 w
  | 41 => dec29 w
  | 42 => dec2A w
  | 43 => dec2B w
  | 44 => dec2C w
  | 45 => dec2D w
  | 46 => dec2E w
  | 47 => dec2F w
  | 48 => dec30 w
  | 49 => dec31 w
  | 50 => dec32 w
  | 51 => dec33 w
  | 52 => dec34 w
  | 53 => dec35 w
  | 54 => dec36 w
  | 55 => dec37 w
  | 56 => dec38 w
  | 57 => dec39 w
  | 58 => dec3A w
  | 59 => dec3B w
  | 60 => dec3C w
  | 61 => dec3D w
  | 62 => dec3E w
  | _ => none

/-- The major opcode of `lim` (R28). -/
def isLim (w : Nat) : Bool := w / 67108864 % 64 == 63

/-- An instruction from its first word and the word after it: the latter only matters after `lim` (R28). -/
def decodePair (w w2 : Nat) : Option Instr :=
  if isLim w then some (.lim (fieldOf w 0 26) (BitVec.ofNat 32 w2)) else decodeWord w

/-- The little-endian word of the first four bytes (R17). -/
def wordOf (bs : List Byte) : Nat :=
  match bs with
  | a :: b :: c :: d :: _ => a.toNat + 256 * b.toNat + 65536 * c.toNat + 16777216 * d.toNat
  | _ => 0

/-- Decodes the instruction at the head of a list of bytes, and gives the bytes after it: 4 of them, or 8 for a `lim`
pair (R17, R28). Fewer bytes than the instruction has, and every encoding of R35's map clauses, decode to nothing. -/
def decode (bs : List Byte) : Option (Instr × List Byte) :=
  if bs.length < 4 then none
  else if isLim (wordOf bs) then
    if bs.length < 8 then none
    else (decodePair (wordOf bs) (wordOf (bs.drop 4))).map fun i => (i, bs.drop 8)
  else (decodeWord (wordOf bs)).map fun i => (i, bs.drop 4)

/-- The four bytes of a word, lowest address first (R17). -/
def bytesOfWord (w : Nat) : List Byte :=
  [BitVec.ofNat 8 w, BitVec.ofNat 8 (w / 256), BitVec.ofNat 8 (w / 65536), BitVec.ofNat 8 (w / 16777216)]

/-- The instruction that the decoder reads from a table row's bits: one word, followed by zeros. -/
def decodeTableWord (_nbits w : Nat) : Option Instr :=
  (decode (bytesOfWord w ++ bytesOfWord (w / 4294967296))).map fun r => r.1

/-- The first word of an instruction, from the encoding tables (R19 to R22, R31 to R34); 0, which no instruction has, for a
step without an encoding. -/
def encodeWord (i : Instr) : Nat :=
  match i with
  | .addB32 g d a b => 67108864 + g.toNat * 8388608 + d.toNat * 16384 + a.toNat * 128 + b.toNat
  | .subB32 g d a b => 69206016 + g.toNat * 8388608 + d.toNat * 16384 + a.toNat * 128 + b.toNat
  | .addB64 g d a b => 71303168 + g.toNat * 8388608 + d.toNat * 16384 + a.toNat * 128 + b.toNat
  | .subB64 g d a b => 73400320 + g.toNat * 8388608 + d.toNat * 16384 + a.toNat * 128 + b.toNat
  | .addcB32 g d a b => 134217728 + g.toNat * 8388608 + d.toNat * 16384 + a.toNat * 128 + b.toNat
  | .subcB32 g d a b => 136314880 + g.toNat * 8388608 + d.toNat * 16384 + a.toNat * 128 + b.toNat
  | .mulLoB32 g d a b => 138412032 + g.toNat * 8388608 + d.toNat * 16384 + a.toNat * 128 + b.toNat
  | .mulWideZ g d a b => 140509184 + g.toNat * 8388608 + d.toNat * 16384 + a.toNat * 128 + b.toNat
  | .mulHiSB32 g d a b => 201326592 + g.toNat * 8388608 + d.toNat * 16384 + a.toNat * 128 + b.toNat
  | .mulHiZB32 g d a b => 203423744 + g.toNat * 8388608 + d.toNat * 16384 + a.toNat * 128 + b.toNat
  | .madLoB32 g d a b => 205520896 + g.toNat * 8388608 + d.toNat * 16384 + a.toNat * 128 + b.toNat
  | .mulWideS g d a b => 207618048 + g.toNat * 8388608 + d.toNat * 16384 + a.toNat * 128 + b.toNat
  | .minSB32 g d a b => 268435456 + g.toNat * 8388608 + d.toNat * 16384 + a.toNat * 128 + b.toNat
  | .maxSB32 g d a b => 270532608 + g.toNat * 8388608 + d.toNat * 16384 + a.toNat * 128 + b.toNat
  | .minZB32 g d a b => 272629760 + g.toNat * 8388608 + d.toNat * 16384 + a.toNat * 128 + b.toNat
  | .maxZB32 g d a b => 274726912 + g.toNat * 8388608 + d.toNat * 16384 + a.toNat * 128 + b.toNat
  | .shlB32 g d a b => 335544320 + g.toNat * 8388608 + d.toNat * 16384 + a.toNat * 128 + b.toNat
  | .shrZB32 g d a b => 337641472 + g.toNat * 8388608 + d.toNat * 16384 + a.toNat * 128 + b.toNat
  | .shrSB32 g d a b => 339738624 + g.toNat * 8388608 + d.toNat * 16384 + a.toNat * 128 + b.toNat
  | .rotB32 g d a b => 341835776 + g.toNat * 8388608 + d.toNat * 16384 + a.toNat * 128 + b.toNat
  | .shlB64 g d a b => 402653184 + g.toNat * 8388608 + d.toNat * 16384 + a.toNat * 128 + b.toNat
  | .shrZB64 g d a b => 404750336 + g.toNat * 8388608 + d.toNat * 16384 + a.toNat * 128 + b.toNat
  | .shrSB64 g d a b => 406847488 + g.toNat * 8388608 + d.toNat * 16384 + a.toNat * 128 + b.toNat
  | .bselB32 g d a b => 408944640 + g.toNat * 8388608 + d.toNat * 16384 + a.toNat * 128 + b.toNat
  | .andB32 g d a b => 469762048 + g.toNat * 8388608 + d.toNat * 16384 + a.toNat * 128 + b.toNat
  | .orB32 g d a b => 471859200 + g.toNat * 8388608 + d.toNat * 16384 + a.toNat * 128 + b.toNat
  | .xorB32 g d a b => 473956352 + g.toNat * 8388608 + d.toNat * 16384 + a.toNat * 128 + b.toNat
  | .andnB32 g d a b => 476053504 + g.toNat * 8388608 + d.toNat * 16384 + a.toNat * 128 + b.toNat
  | .popcB32 g d a => 536870912 + g.toNat * 8388608 + d.toNat * 16384 + a.toNat * 128
  | .clzB32 g d a => 538968064 + g.toNat * 8388608 + d.toNat * 16384 + a.toNat * 128
  | .bfxB32 g d a b => 541065216 + g.toNat * 8388608 + d.toNat * 16384 + a.toNat * 128 + b.toNat
  | .bfiB32 g d a b => 543162368 + g.toNat * 8388608 + d.toNat * 16384 + a.toNat * 128 + b.toNat
  | .cmpEqB32 g d a b => 603979776 + g.toNat * 8388608 + d.toNat * 16384 + a.toNat * 128 + b.toNat
  | .cmpNeB32 g d a b => 606076928 + g.toNat * 8388608 + d.toNat * 16384 + a.toNat * 128 + b.toNat
  | .cmpLtSB32 g d a b => 608174080 + g.toNat * 8388608 + d.toNat * 16384 + a.toNat * 128 + b.toNat
  | .cmpLtZB32 g d a b => 610271232 + g.toNat * 8388608 + d.toNat * 16384 + a.toNat * 128 + b.toNat
  | .cmpLeSB32 g d a b => 671088640 + g.toNat * 8388608 + d.toNat * 16384 + a.toNat * 128 + b.toNat
  | .cmpLeZB32 g d a b => 673185792 + g.toNat * 8388608 + d.toNat * 16384 + a.toNat * 128 + b.toNat
  | .cmpEqB64 g d a b => 675282944 + g.toNat * 8388608 + d.toNat * 16384 + a.toNat * 128 + b.toNat
  | .cmpLtSB64 g d a b => 677380096 + g.toNat * 8388608 + d.toNat * 16384 + a.toNat * 128 + b.toNat
  | .cmpLtZB64 g d a b => 738197504 + g.toNat * 8388608 + d.toNat * 16384 + a.toNat * 128 + b.toNat
  | .selB32 g d a b => 740294656 + g.toNat * 8388608 + d.toNat * 16384 + a.toNat * 128 + b.toNat
  | .movB32 g d a => 742391808 + g.toNat * 8388608 + d.toNat * 16384 + a.toNat * 128
  | .movSv g d a => 744488960 + g.toNat * 8388608 + d.toNat * 16384 + a.toNat * 128
  | .fadd g d a b => 805306368 + g.toNat * 8388608 + d.toNat * 16384 + a.toNat * 128 + b.toNat
  | .fsub g d a b => 807403520 + g.toNat * 8388608 + d.toNat * 16384 + a.toNat * 128 + b.toNat
  | .fmul g d a b => 809500672 + g.toNat * 8388608 + d.toNat * 16384 + a.toNat * 128 + b.toNat
  | .ffma g d a b => 811597824 + g.toNat * 8388608 + d.toNat * 16384 + a.toNat * 128 + b.toNat
  | .fmin g d a b => 872415232 + g.toNat * 8388608 + d.toNat * 16384 + a.toNat * 128 + b.toNat
  | .fmax g d a b => 874512384 + g.toNat * 8388608 + d.toNat * 16384 + a.toNat * 128 + b.toNat
  | .fcmpEq g d a b => 876609536 + g.toNat * 8388608 + d.toNat * 16384 + a.toNat * 128 + b.toNat
  | .fcmpLt g d a b => 878706688 + g.toNat * 8388608 + d.toNat * 16384 + a.toNat * 128 + b.toNat
  | .fcmpLe g d a b => 939524096 + g.toNat * 8388608 + d.toNat * 16384 + a.toNat * 128 + b.toNat
  | .fcmpUn g d a b => 941621248 + g.toNat * 8388608 + d.toNat * 16384 + a.toNat * 128 + b.toNat
  | .fabs g d a => 943718400 + g.toNat * 8388608 + d.toNat * 16384 + a.toNat * 128
  | .fneg g d a => 945815552 + g.toNat * 8388608 + d.toNat * 16384 + a.toNat * 128
  | .faddF16x2 g d a b => 1006632960 + g.toNat * 8388608 + d.toNat * 16384 + a.toNat * 128 + b.toNat
  | .fsubF16x2 g d a b => 1008730112 + g.toNat * 8388608 + d.toNat * 16384 + a.toNat * 128 + b.toNat
  | .fmulF16x2 g d a b => 1010827264 + g.toNat * 8388608 + d.toNat * 16384 + a.toNat * 128 + b.toNat
  | .ffmaF16x2 g d a b => 1012924416 + g.toNat * 8388608 + d.toNat * 16384 + a.toNat * 128 + b.toNat
  | .faddBf16x2 g d a b => 1275068416 + g.toNat * 8388608 + d.toNat * 16384 + a.toNat * 128 + b.toNat
  | .fsubBf16x2 g d a b => 1277165568 + g.toNat * 8388608 + d.toNat * 16384 + a.toNat * 128 + b.toNat
  | .fmulBf16x2 g d a b => 1279262720 + g.toNat * 8388608 + d.toNat * 16384 + a.toNat * 128 + b.toNat
  | .ffmaBf16x2 g d a b => 1281359872 + g.toNat * 8388608 + d.toNat * 16384 + a.toNat * 128 + b.toNat
  | .fminF16x2 g d a b => 1342177280 + g.toNat * 8388608 + d.toNat * 16384 + a.toNat * 128 + b.toNat
  | .fmaxF16x2 g d a b => 1344274432 + g.toNat * 8388608 + d.toNat * 16384 + a.toNat * 128 + b.toNat
  | .fminBf16x2 g d a b => 1346371584 + g.toNat * 8388608 + d.toNat * 16384 + a.toNat * 128 + b.toNat
  | .fmaxBf16x2 g d a b => 1348468736 + g.toNat * 8388608 + d.toNat * 16384 + a.toNat * 128 + b.toNat
  | .rcp g d a => 1409286144 + g.toNat * 8388608 + d.toNat * 16384 + a.toNat * 128
  | .rsq g d a => 1411383296 + g.toNat * 8388608 + d.toNat * 16384 + a.toNat * 128
  | .sqrt g d a => 1413480448 + g.toNat * 8388608 + d.toNat * 16384 + a.toNat * 128
  | .exp2 g d a => 1415577600 + g.toNat * 8388608 + d.toNat * 16384 + a.toNat * 128
  | .log2 g d a => 1476395008 + g.toNat * 8388608 + d.toNat * 16384 + a.toNat * 128
  | .sin g d a => 1478492160 + g.toNat * 8388608 + d.toNat * 16384 + a.toNat * 128
  | .cos g d a => 1480589312 + g.toNat * 8388608 + d.toNat * 16384 + a.toNat * 128
  | .frnd g d a => 1482686464 + g.toNat * 8388608 + d.toNat * 16384 + a.toNat * 128
  | .rdflg g d => 1610612736 + g.toNat * 8388608 + d.toNat * 16384
  | .clrflg g a => 1612709888 + g.toNat * 8388608 + a.toNat * 128
  | .fdot2F16 g d a b => 1614807040 + g.toNat * 8388608 + d.toNat * 16384 + a.toNat * 128 + b.toNat
  | .fdot2Bf16 g d a b => 1616904192 + g.toNat * 8388608 + d.toNat * 16384 + a.toNat * 128 + b.toNat
  | .pand g d a b => 1677721600 + g.toNat * 8388608 + d.toNat * 16384 + a.toNat * 128 + b.toNat
  | .por g d a b => 1679818752 + g.toNat * 8388608 + d.toNat * 16384 + a.toNat * 128 + b.toNat
  | .pxor g d a b => 1681915904 + g.toNat * 8388608 + d.toNat * 16384 + a.toNat * 128 + b.toNat
  | .pnot g d a => 1684013056 + g.toNat * 8388608 + d.toNat * 16384 + a.toNat * 128
  | .p2v g d a => 1744830464 + g.toNat * 8388608 + d.toNat * 16384 + a.toNat * 128
  | .v2p g d a => 1746927616 + g.toNat * 8388608 + d.toNat * 16384 + a.toNat * 128
  | .atomMinS g d a b => 1879048192 + g.toNat * 8388608 + d.toNat * 16384 + a.toNat * 128 + b.toNat
  | .atomMinZ g d a b => 1881145344 + g.toNat * 8388608 + d.toNat * 16384 + a.toNat * 128 + b.toNat
  | .atomMaxS g d a b => 1883242496 + g.toNat * 8388608 + d.toNat * 16384 + a.toNat * 128 + b.toNat
  | .atomMaxZ g d a b => 1885339648 + g.toNat * 8388608 + d.toNat * 16384 + a.toNat * 128 + b.toNat
  | .redAdd g a b => 1946157056 + g.toNat * 8388608 + a.toNat * 128 + b.toNat
  | .redAddB64 g a b => 1948254208 + g.toNat * 8388608 + a.toNat * 128 + b.toNat
  | .redFadd g a b => 1950351360 + g.toNat * 8388608 + a.toNat * 128 + b.toNat
  | .redFadd2c g a b => 1952448512 + g.toNat * 8388608 + a.toNat * 128 + b.toNat
  | .redMinS g a b => 2013265920 + g.toNat * 8388608 + a.toNat * 128 + b.toNat
  | .redMaxS g a b => 2015363072 + g.toNat * 8388608 + a.toNat * 128 + b.toNat
  | .redAnd g a b => 2017460224 + g.toNat * 8388608 + a.toNat * 128 + b.toNat
  | .redOr g a b => 2019557376 + g.toNat * 8388608 + a.toNat * 128 + b.toNat
  | .cpLaneB32 g d a s r q => 2080374784 + g.toNat * 8388608 + d.toNat * 16384 + a.toNat * 128 + s.toNat * 4 + r.toNat * 2 + q.toNat
  | .cpLaneB64 g d a s r q => 2082471936 + g.toNat * 8388608 + d.toNat * 16384 + a.toNat * 128 + s.toNat * 4 + r.toNat * 2 + q.toNat
  | .cpLaneB128 g d a s r q => 2084569088 + g.toNat * 8388608 + d.toNat * 16384 + a.toNat * 128 + s.toNat * 4 + r.toNat * 2 + q.toNat
  | .cpBin g d a b => 2086666240 + g.toNat * 8388608 + d.toNat * 16384 + a.toNat * 128 + b.toNat
  | .xlaneAt g d a b => 2415919104 + g.toNat * 8388608 + d.toNat * 16384 + a.toNat * 128 + b.toNat
  | .xlaneBack g d a b => 2418016256 + g.toNat * 8388608 + d.toNat * 16384 + a.toNat * 128 + b.toNat
  | .xlaneFwd g d a b => 2420113408 + g.toNat * 8388608 + d.toNat * 16384 + a.toNat * 128 + b.toNat
  | .xlaneFlip g d a b => 2422210560 + g.toNat * 8388608 + d.toNat * 16384 + a.toNat * 128 + b.toNat
  | .voteAll g d a => 2483027968 + g.toNat * 8388608 + d.toNat * 16384 + a.toNat * 128
  | .voteAny g d a => 2485125120 + g.toNat * 8388608 + d.toNat * 16384 + a.toNat * 128
  | .ballot g d a => 2487222272 + g.toNat * 8388608 + d.toNat * 16384 + a.toNat * 128
  | .matchV g d a => 2489319424 + g.toNat * 8388608 + d.toNat * 16384 + a.toNat * 128
  | .gredAdd g d a => 2550136832 + g.toNat * 8388608 + d.toNat * 16384 + a.toNat * 128
  | .gredMinS g d a => 2552233984 + g.toNat * 8388608 + d.toNat * 16384 + a.toNat * 128
  | .gredMinZ g d a => 2554331136 + g.toNat * 8388608 + d.toNat * 16384 + a.toNat * 128
  | .gredMaxS g d a => 2556428288 + g.toNat * 8388608 + d.toNat * 16384 + a.toNat * 128
  | .gredMaxZ g d a => 2617245696 + g.toNat * 8388608 + d.toNat * 16384 + a.toNat * 128
  | .gredFadd g d a => 2619342848 + g.toNat * 8388608 + d.toNat * 16384 + a.toNat * 128
  | .gscanAdd g d a => 2621440000 + g.toNat * 8388608 + d.toNat * 16384 + a.toNat * 128
  | .elect g d => 2623537152 + g.toNat * 8388608 + d.toNat * 16384
  | .atomAdd g d a b => 3087007744 + g.toNat * 8388608 + d.toNat * 16384 + a.toNat * 128 + b.toNat
  | .atomAddB64 g d a b => 3089104896 + g.toNat * 8388608 + d.toNat * 16384 + a.toNat * 128 + b.toNat
  | .atomExch g d a b => 3091202048 + g.toNat * 8388608 + d.toNat * 16384 + a.toNat * 128 + b.toNat
  | .atomExchB64 g d a b => 3093299200 + g.toNat * 8388608 + d.toNat * 16384 + a.toNat * 128 + b.toNat
  | .atomCas g d a b => 3154116608 + g.toNat * 8388608 + d.toNat * 16384 + a.toNat * 128 + b.toNat
  | .atomCasB64 g d a b => 3156213760 + g.toNat * 8388608 + d.toNat * 16384 + a.toNat * 128 + b.toNat
  | .atomFadd g d a b => 3158310912 + g.toNat * 8388608 + d.toNat * 16384 + a.toNat * 128 + b.toNat
  | .atomFadd2c g d a b => 3160408064 + g.toNat * 8388608 + d.toNat * 16384 + a.toNat * 128 + b.toNat
  | .llock g d a c => 3758096384 + g.toNat * 8388608 + d.toNat * 16384 + a.toNat * 128 + c.toNat
  | .lunlock g a => 3760193536 + g.toNat * 8388608 + a.toNat * 128
  | .ltry g d a => 3762290688 + g.toNat * 8388608 + d.toNat * 16384 + a.toNat * 128
  | .lstat g d a => 3764387840 + g.toNat * 8388608 + d.toNat * 16384 + a.toNat * 128
  | .fst g s w a b => 4093640704 + g.toNat * 8388608 + s.toNat * 524288 + w.toNat * 16384 + a.toNat * 128 + b.toNat
  | .fld g d a s p => 4095737856 + g.toNat * 8388608 + d.toNat * 16384 + a.toNat * 128 + s.toNat * 8 + p.toNat
  | .fatom g d a x p => 4097835008 + g.toNat * 8388608 + d.toNat * 16384 + a.toNat * 128 + x.toNat * 8 + p.toNat
  | .fwclose g s w a b => 4099932160 + g.toNat * 8388608 + s.toNat * 524288 + w.toNat * 16384 + a.toNat * 128 + b.toNat
  | .addi g d a i => 1073741824 + g.toNat * 8388608 + d.toNat * 65536 + a.toNat * 512 + i.toNat
  | .addiB64 g d a i => 1140850688 + g.toNat * 8388608 + d.toNat * 65536 + a.toNat * 512 + i.toNat
  | .movi g d i => 1207959552 + g.toNat * 8388608 + d.toNat * 65536 + i.toNat
  | .cvt g d a x y z => 1543503872 + g.toNat * 8388608 + d.toNat * 65536 + a.toNat * 512 + x.toNat * 256 + y.toNat * 16 + z.toNat
  | .bra g o => 2147483648 + g.toNat * 8388608 + o.toNat
  | .call g o => 2214592512 + g.toNat * 8388608 + o.toNat
  | .jfence g o => 2348810240 + g.toNat * 8388608 + o.toNat
  | .wait g l s c t => 3892314112 + g.toNat * 8388608 + l.toNat * 131072 + s.toNat * 2048 + c.toNat * 32 + t.toNat
  | .ld g d a z y o => 2684354560 + g.toNat * 8388608 + d.toNat * 65536 + a.toNat * 512 + z.toNat * 64 + y.toNat * 16 + o.toNat
  | .st g d a z y o => 2751463424 + g.toNat * 8388608 + d.toNat * 65536 + a.toNat * 512 + z.toNat * 64 + y.toNat * 16 + o.toNat
  | .ldAcq g d a z y o => 2818572416 + g.toNat * 8388608 + d.toNat * 65536 + a.toNat * 512 + z.toNat * 64 + y.toNat * 16 + o.toNat
  | .stRel g d a z y o => 2885681280 + g.toNat * 8388608 + d.toNat * 65536 + a.toNat * 512 + z.toNat * 64 + y.toNat * 16 + o.toNat
  | .ldC g d a z o => 2952790016 + g.toNat * 8388608 + d.toNat * 65536 + a.toNat * 512 + z.toNat * 64 + o.toNat
  | .pref g a y o => 3019898880 + g.toNat * 8388608 + a.toNat * 512 + y.toNat * 16 + o.toNat
  | .mmaF16 g n m c a b => 3221225472 + g.toNat * 8388608 + n.toNat * 131072 + m.toNat * 32768 + c.toNat * 4096 + a.toNat * 64 + b.toNat
  | .mmaBf16 g n m c a b => 3288334336 + g.toNat * 8388608 + n.toNat * 131072 + m.toNat * 32768 + c.toNat * 4096 + a.toNat * 64 + b.toNat
  | .mmaE4m3 g n m c a b => 3355443200 + g.toNat * 8388608 + n.toNat * 131072 + m.toNat * 32768 + c.toNat * 4096 + a.toNat * 64 + b.toNat
  | .mmaE4m3e5m2 g n m c a b => 3422552064 + g.toNat * 8388608 + n.toNat * 131072 + m.toNat * 32768 + c.toNat * 4096 + a.toNat * 64 + b.toNat
  | .mmaE5m2 g n m c a b => 3489660928 + g.toNat * 8388608 + n.toNat * 131072 + m.toNat * 32768 + c.toNat * 4096 + a.toNat * 64 + b.toNat
  | .mmaS8 g n m c a b => 3556769792 + g.toNat * 8388608 + n.toNat * 131072 + m.toNat * 32768 + c.toNat * 4096 + a.toNat * 64 + b.toNat
  | .mmaE2m1 g n m c a b => 3623878656 + g.toNat * 8388608 + n.toNat * 131072 + m.toNat * 32768 + c.toNat * 4096 + a.toNat * 64 + b.toNat
  | .mmaBf16s4 g n m c a b => 3690987520 + g.toNat * 8388608 + n.toNat * 131072 + m.toNat * 32768 + c.toNat * 4096 + a.toNat * 64 + b.toNat
  | .nop g => 2281701376 + g.toNat * 8388608
  | .jmp g a => 2281766912 + g.toNat * 8388608 + a.toNat * 4
  | .calli g d a => 2281832448 + g.toNat * 8388608 + d.toNat * 512 + a.toNat * 4
  | .ret g a => 2281897984 + g.toNat * 8388608 + a.toNat * 4
  | .exit g => 2281963520 + g.toNat * 8388608
  | .yield g => 2282029056 + g.toNat * 8388608
  | .brk g d => 2282094592 + g.toNat * 8388608 + d.toNat * 512
  | .wbase g m v => 2282225664 + g.toNat * 8388608 + m.toNat * 8192 + v.toNat * 512
  | .regacq g n => 2282291200 + g.toNat * 8388608 + n.toNat * 4
  | .regacqTry g d n => 2282356736 + g.toNat * 8388608 + d.toNat * 512 + n.toNat * 4
  | .regrel g n => 2282422272 + g.toNat * 8388608 + n.toNat * 4
  | .spawn g d a => 2282749952 + g.toNat * 8388608 + d.toNat * 512 + a.toNat * 4
  | .cfetch g s a => 2283274240 + g.toNat * 8388608 + s.toNat * 512 + a.toNat * 4
  | .fence g k s => 3825205248 + g.toNat * 8388608 + k.toNat * 4096 + s.toNat * 512
  | .barInit g b a => 3825270784 + g.toNat * 8388608 + b.toNat * 512 + a.toNat * 4
  | .barExpect g b a => 3825336320 + g.toNat * 8388608 + b.toNat * 512 + a.toNat * 4
  | .barArrive g d b => 3825401856 + g.toNat * 8388608 + d.toNat * 512 + b.toNat * 4
  | .barWait g b a => 3825467392 + g.toNat * 8388608 + b.toNat * 512 + a.toNat * 4
  | .barSync g b => 3825532928 + g.toNat * 8388608 + b.toNat * 512
  | .barTest g p b => 3825598464 + g.toNat * 8388608 + p.toNat * 512 + b.toNat * 4
  | .hbarArrive g d s i => 3825729536 + g.toNat * 8388608 + d.toNat * 512 + s.toNat * 64 + i.toNat * 4
  | .hbarWait g d s i => 3825795072 + g.toNat * 8388608 + d.toNat * 512 + s.toNat * 64 + i.toNat * 4
  | .cpBulk g a => 3959422976 + g.toNat * 8388608 + a.toNat * 16
  | .cpMcast g d a => 3959488512 + g.toNat * 8388608 + d.toNat * 512 + a.toNat * 16
  | .cpBind g b => 3959554052 + g.toNat * 8388608 + b.toNat * 512
  | .cpBindNone g => 3959554048 + g.toNat * 8388608
  | .fwopen g d p => 3960471552 + g.toNat * 8388608 + d.toNat * 512 + p.toNat * 4
  | .fwopenFree g d => 3960471584 + g.toNat * 8388608 + d.toNat * 512
  | .fwstat g d w => 3960537088 + g.toNat * 8388608 + d.toNat * 512 + w.toNat * 4
  | .vdnq g d a => 3960602624 + g.toNat * 8388608 + d.toNat * 512 + a.toNat * 4
  | .ckpt g => 3961520128 + g.toNat * 8388608
  | .ckstat g d => 3961585664 + g.toNat * 8388608 + d.toNat * 512
  | .ckrole g d => 3961651200 + g.toNat * 8388608 + d.toNat * 512
  | .tclaim g d a => 4026531840 + g.toNat * 8388608 + d.toNat * 512 + a.toNat * 4
  | .trel g a => 4026597376 + g.toNat * 8388608 + a.toNat * 4
  | .tfill g s a => 4026662912 + g.toNat * 8388608 + s.toNat * 512 + a.toNat * 16
  | .tfillDq g s a => 4026728448 + g.toNat * 8388608 + s.toNat * 512 + a.toNat * 16
  | .azero g t n => 4027056128 + g.toNat * 8388608 + t.toNat * 512 + n.toNat * 4
  | .aload g t a => 4027121664 + g.toNat * 8388608 + t.toNat * 512 + a.toNat * 4
  | .tdrain g t a => 4027187200 + g.toNat * 8388608 + t.toNat * 512 + a.toNat * 16
  | .tdrainAdd g t a => 4027252736 + g.toNat * 8388608 + t.toNat * 512 + a.toNat * 16
  | .gang g a => 4027580416 + g.toNat * 8388608 + a.toNat * 4
  | .pcfg g a => 4027645952 + g.toNat * 8388608 + a.toNat * 16
  | .mstat g d x s => 4027711488 + g.toNat * 8388608 + d.toNat * 512 + x.toNat * 8 + s.toNat * 4
  | .tret g => 4160749568 + g.toNat * 8388608
  | .tretAddr g a => 4160750080 + g.toNat * 8388608 + a.toNat * 4
  | .trd g d s => 4160815104 + g.toNat * 8388608 + d.toNat * 512 + s.toNat * 4
  | .srd g d a => 4161273856 + g.toNat * 8388608 + d.toNat * 512 + a.toNat * 4
  | .swr g d a => 4161339392 + g.toNat * 8388608 + d.toNat * 512 + a.toNat * 4
  | .cinvL1 g => 4161798144 + g.toNat * 8388608
  | .cinvC g => 4161863680 + g.toNat * 8388608
  | .cwbMere g d a => 4161929216 + g.toNat * 8388608 + d.toNat * 512 + a.toNat * 4
  | .mtrd g d a => 4162322432 + g.toNat * 8388608 + d.toNat * 512 + a.toNat * 4
  | .evcfg g d a => 4162387968 + g.toNat * 8388608 + d.toNat * 512 + a.toNat * 4
  | .evrd g d a => 4162453504 + g.toNat * 8388608 + d.toNat * 512 + a.toNat * 4
  | .lklog g d a => 4162846720 + g.toNat * 8388608 + d.toNat * 512 + a.toNat * 4
  | .kinj g a => 4163895296 + g.toNat * 8388608 + a.toNat * 4
  | .lim h _ => 4227858432 + h.toNat
  | _ => 0

/-- The bytes of an instruction: one word, or the two of a `lim` pair (R28); none for a step without an encoding. -/
def encode (i : Instr) : List Byte :=
  match i with
  | .lim h w => bytesOfWord (encodeWord (.lim h w)) ++ bytesOfWord w.toNat
  | i => if encodeWord i = 0 then [] else bytesOfWord (encodeWord i)

/-- Whether the row of an instruction has an encoding. -/
def Instr.encoded (i : Instr) : Bool := encodeWord i != 0

end Sys2Proof
end

