-- ==== Sys2Proof/Machine/Operands.lean ====
section
/-! DEFINITION. The operand forms of every instruction: which registers, pairs, quads, runs and predicates it names (R24 to
R26, R87, R98, R113, R132, R149, R155, R164, R171, R195), its guard (R18), its level (R33), its counter (R84), and which
payloads of `lim` it takes (R28). -/

namespace Sys2Proof

/-- An operand: a register, an even pair, a quad, a run of registers from a multiple of 4 (R171), or a predicate. -/
inductive Opd
  | v (r : Nat)
  | pair (r : Nat)
  | quad (r : Nat)
  | run (r n : Nat)
  | p (r : Nat)
  deriving DecidableEq, Repr

/-- The visible registers of an operand (R26). -/
def Opd.regs : Opd → List Nat
  | .v r => [r]
  | .pair r => [r, r + 1]
  | .quad r => [r, r + 1, r + 2, r + 3]
  | .run r n => (List.range n).map (r + ·)
  | .p _ => []

/-- The predicate of an operand; p7 is hard-wired and is never waited for (R25). -/
def Opd.preds : Opd → List Nat
  | .p r => if r = 7 then [] else [r]
  | _ => []

/-- Whether the operand is aligned (R26, R171). -/
def Opd.aligned : Opd → Bool
  | .pair r => r % 2 == 0
  | .quad r => r % 4 == 0
  | .run r _ => r % 4 == 0
  | _ => true

/-- The data operand of an access of size code `z`: one register, a pair, a quad (R21, R140). -/
def dataOpd (z d : Nat) : Opd := if z = 3 then .pair d else if z = 4 then .quad d else .v d

/-- The operand of a `cvt` format code: a pair for the 64-bit codes (R124). -/
def cvtOpd (y : BitVec 4) (d : Nat) : Opd := if y.toNat = 10 || y.toNat = 11 then .pair d else .v d

/-- The instruction that a `lim` pair extends; any other instruction itself (R28). -/
def Instr.inner : Instr → Option Instr
  | .lim _ w => decodeWord w.toNat
  | i => some i

/-- The operands that the instruction of one word names. -/
def Instr.operands1 (i : Instr) : List Opd :=
  match i with
  | .addB32 _ d a b => [.v d.toNat, .v a.toNat, .v b.toNat]
  | .subB32 _ d a b => [.v d.toNat, .v a.toNat, .v b.toNat]
  | .addB64 _ d a b => [.pair d.toNat, .pair a.toNat, .pair b.toNat]
  | .subB64 _ d a b => [.pair d.toNat, .pair a.toNat, .pair b.toNat]
  | .addcB32 _ d a b => [.v d.toNat, .v a.toNat, .v b.toNat]
  | .subcB32 _ d a b => [.v d.toNat, .v a.toNat, .v b.toNat]
  | .mulLoB32 _ d a b => [.v d.toNat, .v a.toNat, .v b.toNat]
  | .mulWideZ _ d a b => [.pair d.toNat, .v a.toNat, .v b.toNat]
  | .mulHiSB32 _ d a b => [.v d.toNat, .v a.toNat, .v b.toNat]
  | .mulHiZB32 _ d a b => [.v d.toNat, .v a.toNat, .v b.toNat]
  | .madLoB32 _ d a b => [.v d.toNat, .v a.toNat, .v b.toNat]
  | .mulWideS _ d a b => [.pair d.toNat, .v a.toNat, .v b.toNat]
  | .minSB32 _ d a b => [.v d.toNat, .v a.toNat, .v b.toNat]
  | .maxSB32 _ d a b => [.v d.toNat, .v a.toNat, .v b.toNat]
  | .minZB32 _ d a b => [.v d.toNat, .v a.toNat, .v b.toNat]
  | .maxZB32 _ d a b => [.v d.toNat, .v a.toNat, .v b.toNat]
  | .shlB32 _ d a b => [.v d.toNat, .v a.toNat, .v b.toNat]
  | .shrZB32 _ d a b => [.v d.toNat, .v a.toNat, .v b.toNat]
  | .shrSB32 _ d a b => [.v d.toNat, .v a.toNat, .v b.toNat]
  | .rotB32 _ d a b => [.v d.toNat, .v a.toNat, .v b.toNat]
  | .shlB64 _ d a b => [.pair d.toNat, .pair a.toNat, .v b.toNat]
  | .shrZB64 _ d a b => [.pair d.toNat, .pair a.toNat, .v b.toNat]
  | .shrSB64 _ d a b => [.pair d.toNat, .pair a.toNat, .v b.toNat]
  | .bselB32 _ d a b => [.v d.toNat, .pair a.toNat, .v b.toNat]
  | .andB32 _ d a b => [.v d.toNat, .v a.toNat, .v b.toNat]
  | .orB32 _ d a b => [.v d.toNat, .v a.toNat, .v b.toNat]
  | .xorB32 _ d a b => [.v d.toNat, .v a.toNat, .v b.toNat]
  | .andnB32 _ d a b => [.v d.toNat, .v a.toNat, .v b.toNat]
  | .popcB32 _ d a => [.v d.toNat, .v a.toNat]
  | .clzB32 _ d a => [.v d.toNat, .v a.toNat]
  | .bfxB32 _ d a b => [.v d.toNat, .v a.toNat, .v b.toNat]
  | .bfiB32 _ d a b => [.v d.toNat, .v a.toNat, .v b.toNat]
  | .cmpEqB32 _ d a b => [.p d.toNat, .v a.toNat, .v b.toNat]
  | .cmpNeB32 _ d a b => [.p d.toNat, .v a.toNat, .v b.toNat]
  | .cmpLtSB32 _ d a b => [.p d.toNat, .v a.toNat, .v b.toNat]
  | .cmpLtZB32 _ d a b => [.p d.toNat, .v a.toNat, .v b.toNat]
  | .cmpLeSB32 _ d a b => [.p d.toNat, .v a.toNat, .v b.toNat]
  | .cmpLeZB32 _ d a b => [.p d.toNat, .v a.toNat, .v b.toNat]
  | .cmpEqB64 _ d a b => [.p d.toNat, .pair a.toNat, .pair b.toNat]
  | .cmpLtSB64 _ d a b => [.p d.toNat, .pair a.toNat, .pair b.toNat]
  | .cmpLtZB64 _ d a b => [.p d.toNat, .pair a.toNat, .pair b.toNat]
  | .selB32 _ d a b => [.v d.toNat, .v a.toNat, .v b.toNat]
  | .movB32 _ d a => [.v d.toNat, .v a.toNat]
  | .movSv _ d a => [if a.toNat = 8 then .pair d.toNat else .v d.toNat]
  | .fadd _ d a b => [.v d.toNat, .v a.toNat, .v b.toNat]
  | .fsub _ d a b => [.v d.toNat, .v a.toNat, .v b.toNat]
  | .fmul _ d a b => [.v d.toNat, .v a.toNat, .v b.toNat]
  | .ffma _ d a b => [.v d.toNat, .v a.toNat, .v b.toNat]
  | .fmin _ d a b => [.v d.toNat, .v a.toNat, .v b.toNat]
  | .fmax _ d a b => [.v d.toNat, .v a.toNat, .v b.toNat]
  | .fcmpEq _ d a b => [.p d.toNat, .v a.toNat, .v b.toNat]
  | .fcmpLt _ d a b => [.p d.toNat, .v a.toNat, .v b.toNat]
  | .fcmpLe _ d a b => [.p d.toNat, .v a.toNat, .v b.toNat]
  | .fcmpUn _ d a b => [.p d.toNat, .v a.toNat, .v b.toNat]
  | .fabs _ d a => [.v d.toNat, .v a.toNat]
  | .fneg _ d a => [.v d.toNat, .v a.toNat]
  | .faddF16x2 _ d a b => [.v d.toNat, .v a.toNat, .v b.toNat]
  | .fsubF16x2 _ d a b => [.v d.toNat, .v a.toNat, .v b.toNat]
  | .fmulF16x2 _ d a b => [.v d.toNat, .v a.toNat, .v b.toNat]
  | .ffmaF16x2 _ d a b => [.v d.toNat, .v a.toNat, .v b.toNat]
  | .faddBf16x2 _ d a b => [.v d.toNat, .v a.toNat, .v b.toNat]
  | .fsubBf16x2 _ d a b => [.v d.toNat, .v a.toNat, .v b.toNat]
  | .fmulBf16x2 _ d a b => [.v d.toNat, .v a.toNat, .v b.toNat]
  | .ffmaBf16x2 _ d a b => [.v d.toNat, .v a.toNat, .v b.toNat]
  | .fminF16x2 _ d a b => [.v d.toNat, .v a.toNat, .v b.toNat]
  | .fmaxF16x2 _ d a b => [.v d.toNat, .v a.toNat, .v b.toNat]
  | .fminBf16x2 _ d a b => [.v d.toNat, .v a.toNat, .v b.toNat]
  | .fmaxBf16x2 _ d a b => [.v d.toNat, .v a.toNat, .v b.toNat]
  | .rcp _ d a => [.v d.toNat, .v a.toNat]
  | .rsq _ d a => [.v d.toNat, .v a.toNat]
  | .sqrt _ d a => [.v d.toNat, .v a.toNat]
  | .exp2 _ d a => [.v d.toNat, .v a.toNat]
  | .log2 _ d a => [.v d.toNat, .v a.toNat]
  | .sin _ d a => [.v d.toNat, .v a.toNat]
  | .cos _ d a => [.v d.toNat, .v a.toNat]
  | .frnd _ d a => [.v d.toNat, .v a.toNat]
  | .rdflg _ d => [.v d.toNat]
  | .clrflg _ a => [.v a.toNat]
  | .fdot2F16 _ d a b => [.v d.toNat, .v a.toNat, .v b.toNat]
  | .fdot2Bf16 _ d a b => [.v d.toNat, .v a.toNat, .v b.toNat]
  | .pand _ d a b => [.p d.toNat, .p a.toNat, .p b.toNat]
  | .por _ d a b => [.p d.toNat, .p a.toNat, .p b.toNat]
  | .pxor _ d a b => [.p d.toNat, .p a.toNat, .p b.toNat]
  | .pnot _ d a => [.p d.toNat, .p a.toNat]
  | .p2v _ d a => [.v d.toNat, .p a.toNat]
  | .v2p _ d a => [.p d.toNat, .v a.toNat]
  | .atomMinS _ d a b => [.v d.toNat, .pair a.toNat, .v b.toNat]
  | .atomMinZ _ d a b => [.v d.toNat, .pair a.toNat, .v b.toNat]
  | .atomMaxS _ d a b => [.v d.toNat, .pair a.toNat, .v b.toNat]
  | .atomMaxZ _ d a b => [.v d.toNat, .pair a.toNat, .v b.toNat]
  | .redAdd _ a b => [.pair a.toNat, .v b.toNat]
  | .redAddB64 _ a b => [.pair a.toNat, .pair b.toNat]
  | .redFadd _ a b => [.pair a.toNat, .v b.toNat]
  | .redFadd2c _ a b => [.pair a.toNat, .v b.toNat]
  | .redMinS _ a b => [.pair a.toNat, .v b.toNat]
  | .redMaxS _ a b => [.pair a.toNat, .v b.toNat]
  | .redAnd _ a b => [.pair a.toNat, .v b.toNat]
  | .redOr _ a b => [.pair a.toNat, .v b.toNat]
  | .cpLaneB32 _ d a _ _ _ => [.pair d.toNat, .pair a.toNat]
  | .cpLaneB64 _ d a _ _ _ => [.pair d.toNat, .pair a.toNat]
  | .cpLaneB128 _ d a _ _ _ => [.pair d.toNat, .pair a.toNat]
  | .cpBin _ d a b => [.v d.toNat, .pair a.toNat, .pair b.toNat]
  | .xlaneAt _ d a b => [.v d.toNat, .v a.toNat, .v b.toNat]
  | .xlaneBack _ d a b => [.v d.toNat, .v a.toNat, .v b.toNat]
  | .xlaneFwd _ d a b => [.v d.toNat, .v a.toNat, .v b.toNat]
  | .xlaneFlip _ d a b => [.v d.toNat, .v a.toNat, .v b.toNat]
  | .voteAll _ d a => [.p d.toNat, .p a.toNat]
  | .voteAny _ d a => [.p d.toNat, .p a.toNat]
  | .ballot _ d a => [.v d.toNat, .p a.toNat]
  | .matchV _ d a => [.v d.toNat, .v a.toNat]
  | .gredAdd _ d a => [.v d.toNat, .v a.toNat]
  | .gredMinS _ d a => [.v d.toNat, .v a.toNat]
  | .gredMinZ _ d a => [.v d.toNat, .v a.toNat]
  | .gredMaxS _ d a => [.v d.toNat, .v a.toNat]
  | .gredMaxZ _ d a => [.v d.toNat, .v a.toNat]
  | .gredFadd _ d a => [.v d.toNat, .v a.toNat]
  | .gscanAdd _ d a => [.v d.toNat, .v a.toNat]
  | .elect _ d => [.p d.toNat]
  | .atomAdd _ d a b => [.v d.toNat, .pair a.toNat, .v b.toNat]
  | .atomAddB64 _ d a b => [.pair d.toNat, .pair a.toNat, .pair b.toNat]
  | .atomExch _ d a b => [.v d.toNat, .pair a.toNat, .v b.toNat]
  | .atomExchB64 _ d a b => [.pair d.toNat, .pair a.toNat, .pair b.toNat]
  | .atomCas _ d a b => [.v d.toNat, .pair a.toNat, .v b.toNat]
  | .atomCasB64 _ d a b => [.pair d.toNat, .pair a.toNat, .pair b.toNat]
  | .atomFadd _ d a b => [.v d.toNat, .pair a.toNat, .v b.toNat]
  | .atomFadd2c _ d a b => [.pair d.toNat, .pair a.toNat, .v b.toNat]
  | .llock _ d a _ => [.p d.toNat, .pair a.toNat]
  | .lunlock _ a => [.pair a.toNat]
  | .ltry _ d a => [.p d.toNat, .pair a.toNat]
  | .lstat _ d a => [.v d.toNat, .pair a.toNat]
  | .fst _ s _ a b => [dataOpd (2 + s.toNat) b.toNat, .pair a.toNat]
  | .fld _ d a s p => [dataOpd (2 + s.toNat) d.toNat, .pair a.toNat, .p p.toNat]
  | .fatom _ d a x p => [if x.toNat = 2 || x.toNat = 3 then .pair d.toNat else .v d.toNat, .pair a.toNat, .p p.toNat]
  | .fwclose _ _ _ a b => [.pair a.toNat, .v b.toNat]
  | .addi _ d a _ => [.v d.toNat, .v a.toNat]
  | .addiB64 _ d a _ => [.pair d.toNat, .pair a.toNat]
  | .movi _ d _ => [.v d.toNat]
  | .cvt _ d a _ y z => [cvtOpd y d.toNat, cvtOpd z a.toNat]
  | .bra _ _ => []
  | .call _ _ => [.pair 0]
  | .jfence _ _ => []
  | .wait _ _ _ _ _ => []
  | .ld _ d a z _ _ => [dataOpd z.toNat d.toNat, .pair a.toNat]
  | .st _ d a z _ _ => [dataOpd z.toNat d.toNat, .pair a.toNat]
  | .ldAcq _ d a z _ _ => [dataOpd (2 + z.toNat) d.toNat, .pair a.toNat]
  | .stRel _ d a z _ _ => [dataOpd (2 + z.toNat) d.toNat, .pair a.toNat]
  | .ldC _ d a z _ => [dataOpd z.toNat d.toNat, .pair a.toNat]
  | .pref _ a _ _ => [.pair a.toNat]
  | .mmaF16 _ _ _ _ _ _ => []
  | .mmaBf16 _ _ _ _ _ _ => []
  | .mmaE4m3 _ _ _ _ _ _ => []
  | .mmaE4m3e5m2 _ _ _ _ _ _ => []
  | .mmaE5m2 _ _ _ _ _ _ => []
  | .mmaS8 _ _ _ _ _ _ => []
  | .mmaE2m1 _ _ _ _ _ _ => []
  | .mmaBf16s4 _ _ _ _ _ _ => []
  | .nop _ => []
  | .jmp _ a => [.pair a.toNat]
  | .calli _ d a => [.pair d.toNat, .pair a.toNat]
  | .ret _ a => [.pair a.toNat]
  | .exit _ => []
  | .yield _ => []
  | .brk _ _ => []
  | .wbase _ _ _ => []
  | .regacq _ _ => []
  | .regacqTry _ d _ => [.p d.toNat]
  | .regrel _ _ => []
  | .spawn _ d a => [.pair d.toNat, .pair a.toNat]
  | .cfetch _ _ a => [.pair a.toNat]
  | .fence _ _ _ => []
  | .barInit _ _ a => [.v a.toNat]
  | .barExpect _ _ a => [.v a.toNat]
  | .barArrive _ d _ => [.v d.toNat]
  | .barWait _ _ a => [.v a.toNat]
  | .barSync _ _ => []
  | .barTest _ p _ => [.p p.toNat]
  | .hbarArrive _ d _ _ => [.v d.toNat]
  | .hbarWait _ d _ _ => [.v d.toNat]
  | .cpBulk _ a => [.run (4 * a.toNat) 16]
  | .cpMcast _ d a => [.v d.toNat, .run (4 * a.toNat) 16]
  | .cpBind _ _ => []
  | .cpBindNone _ => []
  | .fwopen _ _ p => [.p p.toNat]
  | .fwopenFree _ _ => []
  | .fwstat _ d _ => [.v d.toNat]
  | .vdnq _ d a => [.v d.toNat, .v a.toNat]
  | .ckpt _ => []
  | .ckstat _ d => [.v d.toNat]
  | .ckrole _ d => [.p d.toNat]
  | .tclaim _ d a => [.p d.toNat, .v a.toNat]
  | .trel _ a => [.v a.toNat]
  | .tfill _ _ a => [.run (4 * a.toNat) 4]
  | .tfillDq _ _ a => [.run (4 * a.toNat) 8]
  | .azero _ _ _ => []
  | .aload _ _ a => [.pair a.toNat]
  | .tdrain _ _ a => [.run (4 * a.toNat) 4]
  | .tdrainAdd _ _ a => [.run (4 * a.toNat) 4]
  | .gang _ a => [.v a.toNat]
  | .pcfg _ a => [.run (4 * a.toNat) 8]
  | .mstat _ d _ _ => [.v d.toNat]
  | .tret _ => []
  | .tretAddr _ a => [.pair a.toNat]
  | .trd _ d _ => [.v d.toNat]
  | .srd _ d a => [.v d.toNat, .v a.toNat]
  | .swr _ d a => [.v d.toNat, .v a.toNat]
  | .cinvL1 _ => []
  | .cinvC _ => []
  | .cwbMere _ d a => [.v d.toNat, .pair a.toNat]
  | .mtrd _ d a => [.pair d.toNat, .v a.toNat]
  | .evcfg _ d a => [.v d.toNat, .v a.toNat]
  | .evrd _ d a => [.pair d.toNat, .v a.toNat]
  | .lklog _ d a => [.quad d.toNat, .v a.toNat]
  | .kinj _ a => [.v a.toNat]
  | _ => []

/-- The guard of an instruction of one word (R18). -/
def Instr.guard1 (i : Instr) : Nat :=
  match i with
  | .addB32 g _ _ _ => g.toNat
  | .subB32 g _ _ _ => g.toNat
  | .addB64 g _ _ _ => g.toNat
  | .subB64 g _ _ _ => g.toNat
  | .addcB32 g _ _ _ => g.toNat
  | .subcB32 g _ _ _ => g.toNat
  | .mulLoB32 g _ _ _ => g.toNat
  | .mulWideZ g _ _ _ => g.toNat
  | .mulHiSB32 g _ _ _ => g.toNat
  | .mulHiZB32 g _ _ _ => g.toNat
  | .madLoB32 g _ _ _ => g.toNat
  | .mulWideS g _ _ _ => g.toNat
  | .minSB32 g _ _ _ => g.toNat
  | .maxSB32 g _ _ _ => g.toNat
  | .minZB32 g _ _ _ => g.toNat
  | .maxZB32 g _ _ _ => g.toNat
  | .shlB32 g _ _ _ => g.toNat
  | .shrZB32 g _ _ _ => g.toNat
  | .shrSB32 g _ _ _ => g.toNat
  | .rotB32 g _ _ _ => g.toNat
  | .shlB64 g _ _ _ => g.toNat
  | .shrZB64 g _ _ _ => g.toNat
  | .shrSB64 g _ _ _ => g.toNat
  | .bselB32 g _ _ _ => g.toNat
  | .andB32 g _ _ _ => g.toNat
  | .orB32 g _ _ _ => g.toNat
  | .xorB32 g _ _ _ => g.toNat
  | .andnB32 g _ _ _ => g.toNat
  | .popcB32 g _ _ => g.toNat
  | .clzB32 g _ _ => g.toNat
  | .bfxB32 g _ _ _ => g.toNat
  | .bfiB32 g _ _ _ => g.toNat
  | .cmpEqB32 g _ _ _ => g.toNat
  | .cmpNeB32 g _ _ _ => g.toNat
  | .cmpLtSB32 g _ _ _ => g.toNat
  | .cmpLtZB32 g _ _ _ => g.toNat
  | .cmpLeSB32 g _ _ _ => g.toNat
  | .cmpLeZB32 g _ _ _ => g.toNat
  | .cmpEqB64 g _ _ _ => g.toNat
  | .cmpLtSB64 g _ _ _ => g.toNat
  | .cmpLtZB64 g _ _ _ => g.toNat
  | .selB32 g _ _ _ => g.toNat
  | .movB32 g _ _ => g.toNat
  | .movSv g _ _ => g.toNat
  | .fadd g _ _ _ => g.toNat
  | .fsub g _ _ _ => g.toNat
  | .fmul g _ _ _ => g.toNat
  | .ffma g _ _ _ => g.toNat
  | .fmin g _ _ _ => g.toNat
  | .fmax g _ _ _ => g.toNat
  | .fcmpEq g _ _ _ => g.toNat
  | .fcmpLt g _ _ _ => g.toNat
  | .fcmpLe g _ _ _ => g.toNat
  | .fcmpUn g _ _ _ => g.toNat
  | .fabs g _ _ => g.toNat
  | .fneg g _ _ => g.toNat
  | .faddF16x2 g _ _ _ => g.toNat
  | .fsubF16x2 g _ _ _ => g.toNat
  | .fmulF16x2 g _ _ _ => g.toNat
  | .ffmaF16x2 g _ _ _ => g.toNat
  | .faddBf16x2 g _ _ _ => g.toNat
  | .fsubBf16x2 g _ _ _ => g.toNat
  | .fmulBf16x2 g _ _ _ => g.toNat
  | .ffmaBf16x2 g _ _ _ => g.toNat
  | .fminF16x2 g _ _ _ => g.toNat
  | .fmaxF16x2 g _ _ _ => g.toNat
  | .fminBf16x2 g _ _ _ => g.toNat
  | .fmaxBf16x2 g _ _ _ => g.toNat
  | .rcp g _ _ => g.toNat
  | .rsq g _ _ => g.toNat
  | .sqrt g _ _ => g.toNat
  | .exp2 g _ _ => g.toNat
  | .log2 g _ _ => g.toNat
  | .sin g _ _ => g.toNat
  | .cos g _ _ => g.toNat
  | .frnd g _ _ => g.toNat
  | .rdflg g _ => g.toNat
  | .clrflg g _ => g.toNat
  | .fdot2F16 g _ _ _ => g.toNat
  | .fdot2Bf16 g _ _ _ => g.toNat
  | .pand g _ _ _ => g.toNat
  | .por g _ _ _ => g.toNat
  | .pxor g _ _ _ => g.toNat
  | .pnot g _ _ => g.toNat
  | .p2v g _ _ => g.toNat
  | .v2p g _ _ => g.toNat
  | .atomMinS g _ _ _ => g.toNat
  | .atomMinZ g _ _ _ => g.toNat
  | .atomMaxS g _ _ _ => g.toNat
  | .atomMaxZ g _ _ _ => g.toNat
  | .redAdd g _ _ => g.toNat
  | .redAddB64 g _ _ => g.toNat
  | .redFadd g _ _ => g.toNat
  | .redFadd2c g _ _ => g.toNat
  | .redMinS g _ _ => g.toNat
  | .redMaxS g _ _ => g.toNat
  | .redAnd g _ _ => g.toNat
  | .redOr g _ _ => g.toNat
  | .cpLaneB32 g _ _ _ _ _ => g.toNat
  | .cpLaneB64 g _ _ _ _ _ => g.toNat
  | .cpLaneB128 g _ _ _ _ _ => g.toNat
  | .cpBin g _ _ _ => g.toNat
  | .xlaneAt g _ _ _ => g.toNat
  | .xlaneBack g _ _ _ => g.toNat
  | .xlaneFwd g _ _ _ => g.toNat
  | .xlaneFlip g _ _ _ => g.toNat
  | .voteAll g _ _ => g.toNat
  | .voteAny g _ _ => g.toNat
  | .ballot g _ _ => g.toNat
  | .matchV g _ _ => g.toNat
  | .gredAdd g _ _ => g.toNat
  | .gredMinS g _ _ => g.toNat
  | .gredMinZ g _ _ => g.toNat
  | .gredMaxS g _ _ => g.toNat
  | .gredMaxZ g _ _ => g.toNat
  | .gredFadd g _ _ => g.toNat
  | .gscanAdd g _ _ => g.toNat
  | .elect g _ => g.toNat
  | .atomAdd g _ _ _ => g.toNat
  | .atomAddB64 g _ _ _ => g.toNat
  | .atomExch g _ _ _ => g.toNat
  | .atomExchB64 g _ _ _ => g.toNat
  | .atomCas g _ _ _ => g.toNat
  | .atomCasB64 g _ _ _ => g.toNat
  | .atomFadd g _ _ _ => g.toNat
  | .atomFadd2c g _ _ _ => g.toNat
  | .llock g _ _ _ => g.toNat
  | .lunlock g _ => g.toNat
  | .ltry g _ _ => g.toNat
  | .lstat g _ _ => g.toNat
  | .fst g _ _ _ _ => g.toNat
  | .fld g _ _ _ _ => g.toNat
  | .fatom g _ _ _ _ => g.toNat
  | .fwclose g _ _ _ _ => g.toNat
  | .addi g _ _ _ => g.toNat
  | .addiB64 g _ _ _ => g.toNat
  | .movi g _ _ => g.toNat
  | .cvt g _ _ _ _ _ => g.toNat
  | .bra g _ => g.toNat
  | .call g _ => g.toNat
  | .jfence g _ => g.toNat
  | .wait g _ _ _ _ => g.toNat
  | .ld g _ _ _ _ _ => g.toNat
  | .st g _ _ _ _ _ => g.toNat
  | .ldAcq g _ _ _ _ _ => g.toNat
  | .stRel g _ _ _ _ _ => g.toNat
  | .ldC g _ _ _ _ => g.toNat
  | .pref g _ _ _ => g.toNat
  | .mmaF16 g _ _ _ _ _ => g.toNat
  | .mmaBf16 g _ _ _ _ _ => g.toNat
  | .mmaE4m3 g _ _ _ _ _ => g.toNat
  | .mmaE4m3e5m2 g _ _ _ _ _ => g.toNat
  | .mmaE5m2 g _ _ _ _ _ => g.toNat
  | .mmaS8 g _ _ _ _ _ => g.toNat
  | .mmaE2m1 g _ _ _ _ _ => g.toNat
  | .mmaBf16s4 g _ _ _ _ _ => g.toNat
  | .nop g => g.toNat
  | .jmp g _ => g.toNat
  | .calli g _ _ => g.toNat
  | .ret g _ => g.toNat
  | .exit g => g.toNat
  | .yield g => g.toNat
  | .brk g _ => g.toNat
  | .wbase g _ _ => g.toNat
  | .regacq g _ => g.toNat
  | .regacqTry g _ _ => g.toNat
  | .regrel g _ => g.toNat
  | .spawn g _ _ => g.toNat
  | .cfetch g _ _ => g.toNat
  | .fence g _ _ => g.toNat
  | .barInit g _ _ => g.toNat
  | .barExpect g _ _ => g.toNat
  | .barArrive g _ _ => g.toNat
  | .barWait g _ _ => g.toNat
  | .barSync g _ => g.toNat
  | .barTest g _ _ => g.toNat
  | .hbarArrive g _ _ _ => g.toNat
  | .hbarWait g _ _ _ => g.toNat
  | .cpBulk g _ => g.toNat
  | .cpMcast g _ _ => g.toNat
  | .cpBind g _ => g.toNat
  | .cpBindNone g => g.toNat
  | .fwopen g _ _ => g.toNat
  | .fwopenFree g _ => g.toNat
  | .fwstat g _ _ => g.toNat
  | .vdnq g _ _ => g.toNat
  | .ckpt g => g.toNat
  | .ckstat g _ => g.toNat
  | .ckrole g _ => g.toNat
  | .tclaim g _ _ => g.toNat
  | .trel g _ => g.toNat
  | .tfill g _ _ => g.toNat
  | .tfillDq g _ _ => g.toNat
  | .azero g _ _ => g.toNat
  | .aload g _ _ => g.toNat
  | .tdrain g _ _ => g.toNat
  | .tdrainAdd g _ _ => g.toNat
  | .gang g _ => g.toNat
  | .pcfg g _ => g.toNat
  | .mstat g _ _ _ => g.toNat
  | .tret g => g.toNat
  | .tretAddr g _ => g.toNat
  | .trd g _ _ => g.toNat
  | .srd g _ _ => g.toNat
  | .swr g _ _ => g.toNat
  | .cinvL1 g => g.toNat
  | .cinvC g => g.toNat
  | .cwbMere g _ _ => g.toNat
  | .mtrd g _ _ => g.toNat
  | .evcfg g _ _ => g.toNat
  | .evrd g _ _ => g.toNat
  | .lklog g _ _ => g.toNat
  | .kinj g _ => g.toNat
  | _ => 7

/-- The seed register of a `cvt` with `.sr` (R28). -/
def limSeed (h : Nat) (i : Instr) : List Opd :=
  match i with
  | .cvt .. => if bit h 2 then [.v (bits h 9 3)] else []
  | _ => []

/-- The operands of an instruction or `lim` pair (R24, R28). -/
def Instr.operands (i : Instr) : List Opd :=
  match i with
  | .lim h w => match decodeWord w.toNat with
    | some j => j.operands1 ++ limSeed h.toNat j
    | none => []
  | i => i.operands1

/-- The guard predicate of an instruction or `lim` pair (R18, R28). -/
def Instr.guard (i : Instr) : Nat :=
  match i with
  | .lim _ w => match decodeWord w.toNat with
    | some j => j.guard1
    | none => 7
  | i => i.guard1

/-- Every visible register that an instruction names. -/
def Instr.vregs (i : Instr) : List Nat := i.operands.flatMap Opd.regs

/-- Every predicate but p7 that an instruction names as an operand. -/
def Instr.ppreds (i : Instr) : List Nat := i.operands.flatMap Opd.preds

/-- The level an instruction needs (R33). -/
inductive Level
  | user | handler | supervisor | management
  deriving DecidableEq, Repr

def Instr.level (i : Instr) : Level :=
  match i with
  | .tret _ | .tretAddr _ _ | .trd _ _ _ => .handler
  | .srd _ _ _
  | .swr _ _ _
  | .cinvL1 _
  | .cinvC _
  | .cwbMere _ _ _
  | .mtrd _ _ _
  | .evcfg _ _ _
  | .lklog _ _ _ => .supervisor
  | .kinj _ _ => .management
  | _ => .user

/-- An outstanding counter (R84). -/
inductive Counter
  | ld | st | cp | tl
  deriving DecidableEq, Repr

/-- The counter of an instruction of one word (R84). -/
def Instr.counter1 (i : Instr) : Option Counter :=
  match i with
  | .ld _ _ _ _ _ _
  | .ldAcq _ _ _ _ _ _
  | .ldC _ _ _ _ _
  | .lstat _ _ _
  | .atomMinS _ _ _ _
  | .atomMinZ _ _ _ _
  | .atomMaxS _ _ _ _
  | .atomMaxZ _ _ _ _
  | .atomAdd _ _ _ _
  | .atomAddB64 _ _ _ _
  | .atomExch _ _ _ _
  | .atomExchB64 _ _ _ _
  | .atomCas _ _ _ _
  | .atomCasB64 _ _ _ _
  | .atomFadd _ _ _ _
  | .atomFadd2c _ _ _ _
  | .fld _ _ _ _ _
  | .fatom _ _ _ _ _ => some .ld
  | .st _ _ _ _ _ _
  | .stRel _ _ _ _ _ _
  | .redAdd _ _ _
  | .redAddB64 _ _ _
  | .redFadd _ _ _
  | .redFadd2c _ _ _
  | .redMinS _ _ _
  | .redMaxS _ _ _
  | .redAnd _ _ _
  | .redOr _ _ _
  | .fst _ _ _ _ _ => some .st
  | .cpLaneB32 _ _ _ _ _ _
  | .cpLaneB64 _ _ _ _ _ _
  | .cpLaneB128 _ _ _ _ _ _
  | .cpBin _ _ _ _
  | .cpBulk _ _
  | .cpMcast _ _ _ => some .cp
  | .tfill _ _ _
  | .tfillDq _ _ _
  | .aload _ _ _
  | .azero _ _ _
  | .mmaF16 _ _ _ _ _ _
  | .mmaBf16 _ _ _ _ _ _
  | .mmaE4m3 _ _ _ _ _ _
  | .mmaE4m3e5m2 _ _ _ _ _ _
  | .mmaE5m2 _ _ _ _ _ _
  | .mmaS8 _ _ _ _ _ _
  | .mmaE2m1 _ _ _ _ _ _
  | .mmaBf16s4 _ _ _ _ _ _
  | .pcfg _ _
  | .tdrain _ _ _
  | .tdrainAdd _ _ _ => some .tl
  | _ => none

def Instr.counter (i : Instr) : Option Counter := i.inner.bind Instr.counter1

/-- The group collectives of one word (R129, R155, R185, R202). -/
def Instr.collective1 (i : Instr) : Bool :=
  match i with
  | .xlaneAt _ _ _ _
  | .xlaneBack _ _ _ _
  | .xlaneFwd _ _ _ _
  | .xlaneFlip _ _ _ _
  | .voteAll _ _ _
  | .voteAny _ _ _
  | .ballot _ _ _
  | .matchV _ _ _
  | .gredAdd _ _ _
  | .gredMinS _ _ _
  | .gredMinZ _ _ _
  | .gredMaxS _ _ _
  | .gredMaxZ _ _ _
  | .gredFadd _ _ _
  | .gscanAdd _ _ _
  | .elect _ _
  | .llock _ _ _ _
  | .lunlock _ _
  | .ltry _ _ _
  | .ckpt _
  | .mmaF16 _ _ _ _ _ _
  | .mmaBf16 _ _ _ _ _ _
  | .mmaE4m3 _ _ _ _ _ _
  | .mmaE4m3e5m2 _ _ _ _ _ _
  | .mmaE5m2 _ _ _ _ _ _
  | .mmaS8 _ _ _ _ _ _
  | .mmaE2m1 _ _ _ _ _ _
  | .mmaBf16s4 _ _ _ _ _ _ => true
  | _ => false

def Instr.collective (i : Instr) : Bool := (i.inner.map Instr.collective1).getD false

/-- The instructions that a release fence holds back (R154). -/
def Instr.gated1 (i : Instr) : Bool :=
  match i with
  | .st _ _ _ _ _ _
  | .stRel _ _ _ _ _ _
  | .atomMinS _ _ _ _
  | .atomMinZ _ _ _ _
  | .atomMaxS _ _ _ _
  | .atomMaxZ _ _ _ _
  | .atomAdd _ _ _ _
  | .atomAddB64 _ _ _ _
  | .atomExch _ _ _ _
  | .atomExchB64 _ _ _ _
  | .atomCas _ _ _ _
  | .atomCasB64 _ _ _ _
  | .atomFadd _ _ _ _
  | .atomFadd2c _ _ _ _
  | .redAdd _ _ _
  | .redAddB64 _ _ _
  | .redFadd _ _ _
  | .redFadd2c _ _ _
  | .redMinS _ _ _
  | .redMaxS _ _ _
  | .redAnd _ _ _
  | .redOr _ _ _
  | .fatom _ _ _ _ _ => true
  | _ => false

def Instr.gated (i : Instr) : Bool := (i.inner.map Instr.gated1).getD false

/-- The destination formats that stochastic rounding takes, as `cvt` codes (R59, R126). -/
def srDst (y : Nat) : Bool := y == 1 || y == 2 || y == 3 || y == 4 || y == 5

/-- Whether a `lim` with payload `h` may extend an instruction (R28, R126). -/
def limOk (h : Nat) (i : Instr) : Bool :=
  match i with
  | .addi .. | .addiB64 .. => h < 8388608
  | .movi .. => h < 65536
  | .bra _ _
  | .call _ _
  | .jfence _ _
  | .ld _ _ _ _ _ _
  | .st _ _ _ _ _ _
  | .ldAcq _ _ _ _ _ _
  | .stRel _ _ _ _ _ _
  | .ldC _ _ _ _ _
  | .pref _ _ _ _ => true
  | .fadd _ _ _ _
  | .fsub _ _ _ _
  | .fmul _ _ _ _
  | .ffma _ _ _ _
  | .frnd _ _ _
  | .fdot2F16 _ _ _ _
  | .fdot2Bf16 _ _ _ _
  | .faddF16x2 _ _ _ _
  | .fsubF16x2 _ _ _ _
  | .fmulF16x2 _ _ _ _
  | .ffmaF16x2 _ _ _ _
  | .faddBf16x2 _ _ _ _
  | .fsubBf16x2 _ _ _ _
  | .fmulBf16x2 _ _ _ _
  | .ffmaBf16x2 _ _ _ _ => h < 4
  | .cvt _ _ _ _ y _ =>
    h < 1024 && (if bit h 2 then h % 4 == 0 && srDst y.toNat else h / 8 == 0)
  | .mmaF16 _ _ _ _ _ _
  | .mmaBf16 _ _ _ _ _ _
  | .mmaE4m3 _ _ _ _ _ _
  | .mmaE4m3e5m2 _ _ _ _ _ _
  | .mmaE5m2 _ _ _ _ _ _
  | .mmaS8 _ _ _ _ _ _
  | .mmaE2m1 _ _ _ _ _ _
  | .mmaBf16s4 _ _ _ _ _ _ => h < 128 && (bit h 0 || h / 2 == 0)
  | _ => false

/-- How an instruction acts in a redundant pair (R315): in each copy alone; forwarded from the leader; compared, then
performed by the leader and passed by the trailer, or with its result forwarded (`implicit` takes a checkpoint, R319), or by
each copy. -/
inductive PairClass
  | each | forwarded | skip | result (implicit : Bool) | self
  deriving DecidableEq, Repr

def Instr.pairClass1 (i : Instr) : PairClass :=
  match i with
  | .ld _ _ _ _ _ _
  | .ldAcq _ _ _ _ _ _
  | .ldC _ _ _ _ _
  | .lstat _ _ _
  | .fld _ _ _ _ _
  | .srd _ _ _
  | .mtrd _ _ _
  | .evrd _ _ _
  | .lklog _ _ _
  | .vdnq _ _ _
  | .fwstat _ _ _
  | .movSv _ _ _
  | .trd _ _ _ => .forwarded
  | .st _ _ _ _ _ _
  | .stRel _ _ _ _ _ _
  | .redAdd _ _ _
  | .redAddB64 _ _ _
  | .redFadd _ _ _
  | .redFadd2c _ _ _
  | .redMinS _ _ _
  | .redMaxS _ _ _
  | .redAnd _ _ _
  | .redOr _ _ _
  | .fst _ _ _ _ _
  | .fwclose _ _ _ _ _
  | .fwopenFree _ _
  | .swr _ _ _
  | .evcfg _ _ _
  | .cpLaneB32 _ _ _ _ _ _
  | .cpLaneB64 _ _ _ _ _ _
  | .cpLaneB128 _ _ _ _ _ _
  | .cpBulk _ _
  | .cpMcast _ _ _ => .skip
  | .atomMinS _ _ _ _
  | .atomMinZ _ _ _ _
  | .atomMaxS _ _ _ _
  | .atomMaxZ _ _ _ _
  | .atomAdd _ _ _ _
  | .atomAddB64 _ _ _ _
  | .atomExch _ _ _ _
  | .atomExchB64 _ _ _ _
  | .atomCas _ _ _ _
  | .atomCasB64 _ _ _ _
  | .atomFadd _ _ _ _
  | .atomFadd2c _ _ _ _
  | .fatom _ _ _ _ _
  | .llock _ _ _ _
  | .ltry _ _ _
  | .lunlock _ _ => .result true
  | .cpBin _ _ _ _
  | .fwopen _ _ _
  | .hbarArrive _ _ _ _ => .result false
  | .tfill _ _ _
  | .tfillDq _ _ _
  | .aload _ _ _
  | .tdrain _ _ _
  | .tdrainAdd _ _ _
  | .ckpt _
  | .exit _
  | .spawn _ _ _
  | .cfetch _ _ _ => .self
  | _ => .each

def Instr.pairClass (i : Instr) : PairClass := (i.inner.map Instr.pairClass1).getD .each

/-- Vector operations that an instruction counts for each guard-true thread (R440). -/
def Instr.vecOps1 (i : Instr) : Nat :=
  match i with
  | .addB32 _ _ _ _
  | .subB32 _ _ _ _
  | .addB64 _ _ _ _
  | .subB64 _ _ _ _
  | .addcB32 _ _ _ _
  | .subcB32 _ _ _ _
  | .mulLoB32 _ _ _ _
  | .mulWideZ _ _ _ _
  | .mulHiSB32 _ _ _ _
  | .mulHiZB32 _ _ _ _
  | .madLoB32 _ _ _ _
  | .mulWideS _ _ _ _
  | .minSB32 _ _ _ _
  | .maxSB32 _ _ _ _
  | .minZB32 _ _ _ _
  | .maxZB32 _ _ _ _
  | .shlB32 _ _ _ _
  | .shrZB32 _ _ _ _
  | .shrSB32 _ _ _ _
  | .rotB32 _ _ _ _
  | .shlB64 _ _ _ _
  | .shrZB64 _ _ _ _
  | .shrSB64 _ _ _ _
  | .bselB32 _ _ _ _
  | .andB32 _ _ _ _
  | .orB32 _ _ _ _
  | .xorB32 _ _ _ _
  | .andnB32 _ _ _ _
  | .popcB32 _ _ _
  | .clzB32 _ _ _
  | .bfxB32 _ _ _ _
  | .bfiB32 _ _ _ _
  | .cmpEqB32 _ _ _ _
  | .cmpNeB32 _ _ _ _
  | .cmpLtSB32 _ _ _ _
  | .cmpLtZB32 _ _ _ _
  | .cmpLeSB32 _ _ _ _
  | .cmpLeZB32 _ _ _ _
  | .cmpEqB64 _ _ _ _
  | .cmpLtSB64 _ _ _ _
  | .cmpLtZB64 _ _ _ _
  | .selB32 _ _ _ _
  | .movB32 _ _ _
  | .fadd _ _ _ _
  | .fsub _ _ _ _
  | .fmul _ _ _ _
  | .ffma _ _ _ _
  | .fmin _ _ _ _
  | .fmax _ _ _ _
  | .fcmpEq _ _ _ _
  | .fcmpLt _ _ _ _
  | .fcmpLe _ _ _ _
  | .fcmpUn _ _ _ _
  | .fabs _ _ _
  | .fneg _ _ _
  | .rcp _ _ _
  | .rsq _ _ _
  | .sqrt _ _ _
  | .exp2 _ _ _
  | .log2 _ _ _
  | .sin _ _ _
  | .cos _ _ _
  | .frnd _ _ _
  | .fdot2F16 _ _ _ _
  | .fdot2Bf16 _ _ _ _
  | .addi _ _ _ _
  | .addiB64 _ _ _ _
  | .movi _ _ _
  | .cvt _ _ _ _ _ _ => 1
  | .faddF16x2 _ _ _ _
  | .fsubF16x2 _ _ _ _
  | .fmulF16x2 _ _ _ _
  | .ffmaF16x2 _ _ _ _
  | .faddBf16x2 _ _ _ _
  | .fsubBf16x2 _ _ _ _
  | .fmulBf16x2 _ _ _ _
  | .ffmaBf16x2 _ _ _ _
  | .fminF16x2 _ _ _ _
  | .fmaxF16x2 _ _ _ _
  | .fminBf16x2 _ _ _ _
  | .fmaxBf16x2 _ _ _ _ => 2
  | _ => 0

def Instr.vecOps (i : Instr) : Nat := (i.inner.map Instr.vecOps1).getD 0

/-- An instruction's length in bytes (R86). -/
def Instr.len (i : Instr) : Nat :=
  match i with
  | .lim _ _ => 8
  | _ => 4

end Sys2Proof
end

