-- ==== Sys2Proof/WellFormed.lean ====
section
/-! DEFINITION. Which decoded instructions are legal (R21 to R26, R35): aligned operands, and the values that a field of an
assigned word may hold. A step without an encoding is well-formed whatever it carries. The checks that need the thread's
state (`tret` and `trd` outside a handler, R35) are the issue's. -/

namespace Sys2Proof

/-- A scope code with acquire and release flags (R172): 2 to 7 with a flag, 0 without. -/
def scopeOk (scope : Nat) (flag : Bool) : Bool := if flag then 2 ≤ scope else scope == 0

/-- The indices of a hierarchy-barrier level (R168). -/
def hbarOk (s i : Nat) : Bool :=
  match s with
  | 3 => i < 16 | 4 => i < 8 | 5 => i < 4 | 6 => i < 2 | _ => false

/-- `cvt` format codes (R126): neither 7, not equal, E8M0 only with FP32. -/
def cvtOk (y z : Nat) : Bool :=
  y != z && y != 7 && z != 7 && (y != 6 || z == 0) && (z != 6 || y == 0)

/-- The field values of a single-word instruction that R21 to R24 and the instruction's entry allow. -/
def Instr.fieldsOk (i : Instr) : Bool :=
  match i with
  | .movSv _ _ a => a.toNat ≤ 8
  | .cvt _ _ _ _ y z => cvtOk y.toNat z.toNat
  | .ld _ _ _ z _ _ => z.toNat ≤ 6
  | .ldC _ _ _ z _ => z.toNat ≤ 6
  | .st _ _ _ z _ _ => z.toNat ≤ 4
  | .mmaF16 _ _ m _ _ _ => m.toNat ≤ 2
  | .mmaBf16 _ _ m _ _ _ => m.toNat ≤ 2
  | .mmaE4m3 _ _ m _ _ _ => m.toNat ≤ 2
  | .mmaE4m3e5m2 _ _ m _ _ _ => m.toNat ≤ 2
  | .mmaE5m2 _ _ m _ _ _ => m.toNat ≤ 2
  | .mmaS8 _ _ m _ _ _ => m.toNat ≤ 2
  | .mmaE2m1 _ _ m _ _ _ => m.toNat ≤ 2
  | .mmaBf16s4 _ _ m _ _ _ => m.toNat ≤ 2
  | .fence _ k s => k.toNat ≤ 2 && 1 ≤ s.toNat
  | .hbarArrive _ _ s i => hbarOk s.toNat i.toNat
  | .hbarWait _ _ s i => hbarOk s.toNat i.toNat
  | .regacq _ n => 1 ≤ n.toNat
  | .regacqTry _ _ n => 1 ≤ n.toNat
  | .regrel _ n => 1 ≤ n.toNat
  | .cpLaneB32 _ _ _ s r q => scopeOk s.toNat (r == 1 || q == 1)
  | .cpLaneB64 _ _ _ s r q => scopeOk s.toNat (r == 1 || q == 1)
  | .cpLaneB128 _ _ _ s r q => scopeOk s.toNat (r == 1 || q == 1)
  | .fst _ s _ _ _ => s.toNat ≤ 2
  | .fld _ _ _ s _ => s.toNat ≤ 2
  | .fatom _ _ _ x _ => x.toNat ≤ 8
  | .fwclose _ s _ _ _ => s.toNat ≤ 2
  | .fwopen _ d _ => d.toNat ≤ 31
  | .fwopenFree _ d => d.toNat ≤ 31
  | .trd _ _ s => s.toNat ≤ 5
  | _ => true

/-- Whether a single-word instruction is legal: its fields, and its pairs, quads and runs (R26). -/
def Instr.wf1 (i : Instr) : Bool := i.fieldsOk && i.operands1.all Opd.aligned

/-- Whether an instruction is legal (R35). A `lim` pair is, when its second word is a legal instruction that the payload may
extend (R28). -/
def Instr.wf (i : Instr) : Bool :=
  match i with
  | .lim h w => match decodeWord w.toNat with
    | some j => j.wf1 && limOk h.toNat j
    | none => false
  | i => i.wf1

end Sys2Proof
end

