-- ==== Sys2Proof/Machine/Ops.lean ====
section
/-! DEFINITION. The named operations over threads, groups, blocks, barrier registers, counters and locks; error records, the
end of blocks and launches; and taking a trap with the return from it (R370 to R374). -/

namespace Sys2Proof.Machine

abbrev Res := Host.Outcome State Fault Refusal

/-! Threads and their registers. -/

def Thread.key (t : Thread) : ThreadKey := { bid := t.bid, tid := t.tid }

def State.thread? (s : State) (k : ThreadKey) : Option Thread := s.threads.find? fun t => t.key == k

def State.updThread (s : State) (k : ThreadKey) (f : Thread → Thread) : State :=
  { s with threads := updFirst (fun t => t.key == k) f s.threads }

/-- The absolute number of a visible register (R24). -/
def Thread.idx (t : Thread) (n : Nat) : Nat := 16 * t.wb + n

/-- The value of vN (R24). -/
def Thread.reg (t : Thread) (n : Nat) : Nat := (Tab.get (fun _ => (0 : Word)) t.regs (t.idx n)).toNat

/-- Writes an absolute register; it keeps bits 31:0 (R65). -/
def Thread.setAbs (t : Thread) (i v : Nat) : Thread :=
  { t with regs := Tab.set (fun _ => (0 : Word)) t.regs i (BitVec.ofNat 32 v) }

def Thread.setReg (t : Thread) (n v : Nat) : Thread := t.setAbs (t.idx n) v

/-- A pair: the even register holds bits 31:0 (R5, R26). -/
def Thread.pair (t : Thread) (n : Nat) : Nat := t.reg n + 2 ^ 32 * t.reg (n + 1)

def Thread.setPair (t : Thread) (n v : Nat) : Thread := (t.setReg n v).setReg (n + 1) (v / 2 ^ 32)

/-- The address in a pair. -/
def Thread.addr (t : Thread) (n : Nat) : VAddr := BitVec.ofNat 64 (t.pair n)

/-- Writes words to absolute registers in order. -/
def Thread.setAll (t : Thread) : List Nat → Nat → Thread
  | [], _ => t
  | i :: r, v => (t.setAbs i v).setAll r (v / 2 ^ 32)

/-- The value of consecutive registers as one little-endian number. -/
def Thread.wide (t : Thread) (n : Nat) : Nat → Nat
  | 0 => 0
  | k + 1 => t.reg n + 2 ^ 32 * t.wide (n + 1) k

/-- The words of a descriptor (R171). -/
def Thread.words (t : Thread) (n k : Nat) : List Word := (List.range k).map fun i => BitVec.ofNat 32 (t.reg (n + i))

/-- A predicate: p7 reads true (R25). -/
def Thread.pred (t : Thread) (n : Nat) : Bool := n == 7 || t.preds.getLsbD n

/-- Writes a predicate; a write to p7 is discarded (R25). -/
def Thread.setPred (t : Thread) (n : Nat) (b : Bool) : Thread :=
  if n = 7 then t
  else { t with preds := if b then t.preds ||| BitVec.ofNat 7 (2 ^ n) else t.preds &&& ~~~(BitVec.ofNat 7 (2 ^ n)) }

/-- ORs conditions into the flag word (R61). -/
def Thread.raise (t : Thread) (c : BitVec 5) : Thread := { t with flags := t.flags ||| c }

/-- An instruction of the thread issues: its age goes back to 0 and its wait ends (R75). -/
def Thread.goto (t : Thread) (pc : VAddr) : Thread := { t with pc, age := 0, icount := t.icount + 1, wait := .none }

/-- Moves the PC on in sequence (R17). -/
def Thread.next (t : Thread) (len : Nat) : Thread := t.goto (t.pc + BitVec.ofNat 64 len)

/-- A thread's snapshot at an address (R202). -/
def Thread.snap (t : Thread) (pc : VAddr) : Thread :=
  { t with snapshot := some { pc, regs := t.regs, nb := t.nb, wb := t.wb, preds := t.preds, flags := t.flags, syncTok := t.syncTok } }

/-! Groups, launches and what a block's accesses carry. -/

def Group.is (g : Group) (bid idx : Nat) : Bool := g.bid == bid && g.idx == idx

def State.group? (s : State) (bid idx : Nat) : Option Group := s.groups.find? fun g => g.is bid idx

def State.updGroup (s : State) (bid idx : Nat) (f : Group → Group) : State :=
  { s with groups := updFirst (fun g => g.is bid idx) f s.groups }

def State.launch? (s : State) (lid : Nat) : Option Launch := s.launches.find? fun l => l.lid == lid

def State.updLaunch (s : State) (lid : Nat) (f : Launch → Launch) : State :=
  { s with launches := updFirst (fun l => l.lid == lid) f s.launches }

/-- The launch of a block. -/
def State.launchOf (s : State) (bid : Nat) : Option Launch := (s.block? bid).bind fun b => s.launch? b.lid

/-- What an access of a launch carries on a core. -/
def Launch.env (l : Launch) (core bid share : Nat) : Env :=
  { core, f := l.f, root := l.root, asid := l.asid, tag := l.tag, bid, share }

/-- What the accesses of a block carry (R357, R365); a redundant pair uses the leader's scratchpad (R315). -/
def State.envOf (s : State) (bid : Nat) : Env :=
  match s.block? bid with
  | some b => match s.launch? b.lid with
    | some l => l.env b.core bid b.share
    | none => { core := b.core, f := 0, root := 0, asid := 0, tag := 0, bid, share := b.share }
  | none => { core := 0, f := 0, root := 0, asid := 0, tag := 0, bid, share := 0 }

/-- The live threads of a group: those that have not exited (R129). -/
def State.live (s : State) (bid grp : Nat) : List Thread := s.threads.filter fun t => t.bid == bid && t.grp == grp

/-- The privilege level of a block: user, supervisor by the record's SUP bit, or management firmware (R16, R341). -/
def Launch.level (l : Launch) : Level :=
  if l.mgmt then .management else if bit l.record.ctrl.toNat 22 then .supervisor else .user

/-- Whether a block at a level may use a function (R16, R33). -/
def levelAllows (have_ need : Level) : Bool :=
  match need with
  | .user | .handler => true
  | .supervisor => have_ != .user
  | .management => have_ == .management

/-! Outstanding counters (R84). -/

def Group.cnt (g : Group) (c : Counter) : Nat :=
  match c with
  | .ld => g.ld.toNat | .st => g.st.toNat | .cp => g.cp.toNat | .tl => g.tl.toNat

def Group.addCnt (g : Group) (c : Counter) (n : BitVec 6) : Group :=
  match c with
  | .ld => { g with ld := g.ld + n }
  | .st => { g with st := g.st + n }
  | .cp => { g with cp := g.cp + n }
  | .tl => { g with tl := g.tl + n }

def cntCode : Counter → Nat
  | .ld => 0 | .st => 1 | .cp => 2 | .tl => 3

/-- The groups that a command belongs to (R273). -/
def MatCmd.groups (m : MatCmd) : List Nat :=
  match m.kind with
  | .mma _ _ _ _ _ _ _ gang => if gang.isEmpty then [m.grp] else gang
  | _ => [m.grp]

/-- Whether an access, copy or command of the issue `tok` of a group is still under way. -/
def State.inFlight (s : State) (bid grp : Nat) (c : Counter) (tok : Nat) : Bool :=
  let q := match s.group? bid grp with
    | some g => g.queue
    | none => []
  match c with
  | .ld => s.loads.any (fun l => l.bid == bid && l.grp == grp && l.tok == tok) ||
      s.nps.any (fun p => p.bid == bid && p.grp == grp && p.tok == tok) ||
      q.any (fun e => e.tok == tok)
  | .st => q.any (fun e => e.tok == tok) || s.posts.any fun p => p.bid == bid && p.grp == grp && p.tok == tok
  | .cp => q.any (fun e => e.tok == tok) || s.copies.any fun p => p.bid == bid && p.grp == grp && p.tok == tok
  | .tl => s.mcmds.any fun m => m.bid == bid && m.tok == tok && m.groups.contains grp

/-- Whether a block is killed and settling (R278): its counters no longer count. -/
def Block.dying (b : Block) : Bool :=
  match b.status with
  | .dying _ => true
  | _ => false

/-- Drops a counter by 1 when every access of an issue of the group is complete (R84); a trailing copy's counter that waits for
the issue drops with it (R315). -/
def State.settleCnt (s : State) (bid grp : Nat) (c : Counter) (tok : Nat) : State :=
  if s.inFlight bid grp c tok || (s.block? bid).any Block.dying then s
  else
    let mate := match s.block? bid with
      | some b => if b.role == .lead then some b.mate else none
      | none => none
    { s with groups := s.groups.map fun g =>
        if g.is bid grp then g.addCnt c (-1)
        else if some g.bid == mate && g.idx == grp && g.mirrors.contains (cntCode c, tok) then
          { g.addCnt c (-1) with mirrors := g.mirrors.filter fun m => m != (cntCode c, tok) }
        else g }

/-! What comes first (R154, R256). -/

/-- Whether a queue entry is an atomic, whose value returns. -/
def QEntry.returns (e : QEntry) : Bool :=
  match e.kind with
  | .update _ _ _ _ dst => !dst.isEmpty
  | .bin _ _ _ _ => true
  | .store _ => false

/-- The non-posted requests that saved blocks, and blocks whose code has still to land, have outstanding (R377, R382). -/
def State.savedNps (s : State) : List NonPosted := (s.saved.flatMap fun b => b.nps) ++ s.resuming.flatMap fun r => r.nps

/-- Whether the loads, atomics and non-posted requests of a thread numbered below `n` are performed, and with `queue` every entry of its
group's store queue; requests that a saved block still has outstanding among them (R377). -/
def State.performed (s : State) (bid grp tid n : Nat) (queue : Bool) : Bool :=
  !(s.loads.any fun l => l.bid == bid && l.tid == tid && l.id < n) &&
  !(s.nps.any fun p => p.bid == bid && p.tid == tid && p.id < n) &&
  !(s.savedNps.any fun p => p.bid == bid && p.tid == tid && p.id < n) &&
  (match s.group? bid grp with
  | some g => !(g.queue.any fun e => e.id < n && (queue || (e.tid == tid && e.returns)))
  | none => true)

/-- Whether what an arrival released is performed (R256). -/
def State.behind (s : State) (a : Arriver) : Bool := s.performed a.bid a.grp a.tid a.before true

/-- The arrivals of a list that still hold what follows them. -/
def State.still (s : State) (l : List Arriver) : List Arriver := l.filter fun a => !s.behind a

/-- Adds an arrival; a thread's later one takes in its earlier ones. -/
def Arriver.addTo (a : Arriver) (l : List Arriver) : List Arriver :=
  l.filter (fun x => !(x.bid == a.bid && x.grp == a.grp && x.tid == a.tid)) ++ [a]

/-- A release that a thread makes now (R256). -/
def State.arriver (s : State) (t : Thread) : Arriver := { bid := t.bid, grp := t.grp, tid := t.tid, before := s.nextId }

/-! Barrier registers (R163 to R167). -/

def Block.bar (b : Block) (n : Nat) : Bar := Tab.get (fun _ => Bar.reset) b.bars n

def Block.setBar (b : Block) (n : Nat) (x : Bar) : Block := { b with bars := Tab.set (fun _ => Bar.reset) b.bars n x }

/-- One event's effect on the record (R165). -/
def Bar.apply (x : Bar) : BarEv → Bar
  | .init _ n => { x with ea := BitVec.ofNat 12 n, pa := (BitVec.ofNat 12 n).toNat, pb := 0 }
  | .landed n => { x with pb := x.pb - BitVec.ofNat 34 n }
  | .expect n => { x with pb := x.pb + BitVec.ofNat 34 n }
  | .arrive => { x with pa := x.pa - 1 }

/-- Whether the completion check succeeds (R166). -/
def Bar.completes (x : Bar) : Bool := decide (x.pa ≤ 0) && x.pb == 0

/-- The record after a completion (R166). -/
def Bar.complete (x : Bar) : Bar := { x with ph := !x.ph, pa := x.pa + x.ea.toNat }

/-- The order in which a cycle's events apply (R166). -/
def BarEv.rank : BarEv → Nat
  | .init .. => 0 | .landed _ => 1 | .expect _ => 2 | .arrive => 3

/-- The `init` events of a register in ascending lane order, inserted one by one. -/
def insertLane (e : BarEv) : List BarEv → List BarEv
  | [] => [e]
  | x :: r => match e, x with
    | .init l _, .init m _ => if l < m then e :: x :: r else x :: insertLane e r
    | _, _ => e :: x :: r

/-- A register's events of one cycle in the order of R166. -/
def sortEvs (l : List BarEv) : List BarEv :=
  let pick (k : Nat) := l.filter fun e => e.rank == k
  (pick 0).foldr insertLane [] ++ pick 1 ++ pick 2 ++ pick 3

/-- The arrivals at a register whose accesses are not all performed. -/
def State.arrivedAt (s : State) (b : Block) (n : Nat) : List Arriver :=
  s.still ((b.arrivers.filter fun e => e.1 == n).map fun e => e.2)

/-- Applies one cycle's events to a register, with its one completion check; a completion releases every waiting thread, behind what
the arrivals released (R166, R167, R256). -/
def State.barCycle (s : State) (bid n : Nat) (evs : List BarEv) : State :=
  match s.block? bid with
  | none => s
  | some b =>
    let x := (sortEvs evs).foldl Bar.apply (b.bar n)
    if x.completes then
      let after := s.arrivedAt b n
      let keep := after.map fun a => (n, a)
      let s := s.updBlock bid fun b => { b.setBar n x.complete with arrivers := b.arrivers.filter (fun e => e.1 != n) ++ keep }
      { s with threads := s.threads.map fun (t : Thread) => if t.bid == bid && t.wait == Wait.bar n then { t with wait := .released after } else t }
    else s.updBlock bid fun b => b.setBar n x

/-- Applies the events that a core's cycle brought to the registers of its blocks: the issues' and the bytes that landed (R166). -/
def State.settleBars (s : State) (core : Nat) : State :=
  s.blocks.foldl (fun s b =>
    if b.barEvs.isEmpty || b.core != core then s
    else
      let s := s.updBlock b.bid fun b => { b with barEvs := [] }
      (List.range 32).foldl (fun s n =>
        let evs := (b.barEvs.filter fun e => e.1 == n).map fun e => e.2
        if evs.isEmpty then s else s.barCycle b.bid n evs) s) s

/-- Adds an event of this cycle to a register. -/
def State.barEv (s : State) (bid n : Nat) (e : BarEv) : State :=
  s.updBlock bid fun b => { b with barEvs := b.barEvs ++ [(n, e)] }

/-- A thread arrives at a register: an event of this cycle, and a release (R165, R167). -/
def State.arrive (s : State) (t : Thread) (n : Nat) : State :=
  let a := s.arriver t
  s.updBlock t.bid fun b => { b with
    barEvs := b.barEvs ++ [(n, .arrive)],
    arrivers := b.arrivers.filter (fun e => e.1 != n) ++ (a.addTo ((b.arrivers.filter fun e => e.1 == n).map fun e => e.2)).map fun a => (n, a) }

/-- Arrivals that this cycle has already brought to a register. -/
def Block.arrivals (b : Block) (n : Nat) : Nat := (b.barEvs.filter fun e => e == (n, BarEv.arrive)).length

/-- An engine's status reaches the group, and its twin in a pair (R315). -/
def State.updPair (s : State) (bid grp : Nat) (f : Group → Group) : State :=
  let s1 := s.updGroup bid grp f
  match s.block? bid with
  | some b => if b.role == .lead then s1.updGroup b.mate grp f else s1
  | none => s1

/-- Bytes that a bound copy has landed: an event of the core's cycle (R165, R166, R182); a leader's copy counts for both copies of a
pair (R315). -/
def State.landBar (s : State) (bid : Nat) (bind : Option Nat) (n : Nat) : State :=
  match bind with
  | none => s
  | some k =>
    let s1 := s.barEv bid k (.landed n)
    match s.block? bid with
    | some b => if b.role == .lead then s1.barEv b.mate k (.landed n) else s1
    | none => s1

/-- The same once a command with a release is complete, for a block that may have been saved meanwhile: its register then counts them in its first
cycle (R172). -/
def State.landLate (s : State) (bid : Nat) (bind : Option Nat) (n : Nat) : State :=
  let late (x : SavedBlock) (k : Nat) : SavedBlock :=
    if x.block.bid == bid || (x.block.role == .trail && x.block.mate == bid) then
      { x with block := { x.block with barEvs := x.block.barEvs ++ [(k, .landed n)] } } else x
  match s.block? bid, bind with
  | none, some k => { s with saved := s.saved.map fun x => late x k }
  | _, _ => s.landBar bid bind n

/-! Code (R95, R109, R247, R248). -/

/-- What the fetch at an address finds. -/
inductive Fetched
  | absent
  | illegal
  | ok (i : Instr)
  deriving DecidableEq, Repr

/-- An empty segment (R109). -/
def Seg.empty : Seg := { granule := 0, tag := 0, landed := false, again := false, lid := 0, src := .scratch 0, id := 0, after := none, reader := none }

/-- The segment of a core that holds a granule for a launch's world (R248): one in which it has landed before one in which it is fetched again
(R433), and that before one in which it is in flight (R95, R96). -/
def Core.segOf (c : Core) (tag granule : Nat) : Option (Nat × Seg) :=
  let l := c.segs.filter fun e => e.2.granule == granule && e.2.tag == tag
  ((l.find? fun e => e.2.landed).or (l.find? fun e => e.2.again)).or l.head?

/-- Whether the granule of an address has landed (R95), or is fetched again after an error (R433). -/
def Core.landedAt (c : Core) (tag : Nat) (a : VAddr) : Bool :=
  match c.segOf tag (a.toNat / 4096) with
  | some (_, g) => g.landed || g.again
  | none => false

/-- Whether the granule of an address has landed nowhere and a fetch of it is in flight (R96). -/
def Core.inFlightAt (c : Core) (tag : Nat) (a : VAddr) : Bool :=
  match c.segOf tag (a.toNat / 4096) with
  | some (_, g) => !g.landed
  | none => false

/-- The instruction at a code address: absent when its granule has not landed (R95), illegal when the word or pair does not
decode (R35) or a `lim` stands in the granule's last word (R29). -/
def Core.fetch (c : Core) (tag : Nat) (pc : VAddr) : Fetched :=
  match c.segOf tag (pc.toNat / 4096) with
  | none => .absent
  | some (n, g) =>
    if !g.landed then .absent
    else
      let o := pc.toNat % 4096
      let w := c.imem.read (4096 * n + o) 4
      if isLim w && o == 4092 then .illegal
      else match decodePair w (c.imem.read (4096 * n + o + 4) 4) with
        | some i => .ok i
        | none => .illegal

/-- The instruction at which a thread stands. -/
def State.fetchFor (s : State) (t : Thread) : Fetched :=
  match s.block? t.bid with
  | none => .absent
  | some b => match s.launch? b.lid with
    | none => .absent
    | some l => (s.core b.core).fetch l.tag t.pc

/-! Lanes (R105, R211). -/

/-- The resident threads of a core's lane. -/
def State.onLane (s : State) (core lane : Nat) : List Thread :=
  s.threads.filter fun t => t.lane == lane && (match s.block? t.bid with
    | some b => b.core == core
    | none => false)

/-- The free register blocks of a lane, of 128 (R105). -/
def State.freeRegs (s : State) (core lane : Nat) : Nat := 128 - ((s.onLane core lane).map Thread.nb).sum

/-- Whether a lane has a thread slot and `n` register blocks free (R107, R211). -/
def State.laneFits (s : State) (core lane n : Nat) : Bool :=
  (s.onLane core lane).length < 8 && n ≤ s.freeRegs core lane

/-! The lock event log (R295, R296). -/

def State.lockEvent (s : State) (f ev grp cls blk : Nat) (va : VAddr) : State :=
  let old := Tab.get (fun _ => []) s.lockLog f
  let r : BitVec 128 := BitVec.ofNat 128 (ev * 2 ^ 124 + grp % 16 * 2 ^ 120 + cls % 4 * 2 ^ 118 +
    s.clk / 1024 % 2 ^ 22 * 2 ^ 96 + blk % 2 ^ 32 * 2 ^ 64 + va.toNat / 128 * 128)
  { s with lockLog := Tab.set (fun _ => []) s.lockLog f ((r :: old).take 64) }

/-! Fabric packets out (R298, R420, R424, R425). -/

def State.send (s : State) (o : Out) : State := { s with outbox := s.outbox ++ [o] }

/-- The state of a link key, as before its first packet where there is none. -/
def State.link (s : State) (k : LinkKey) : LinkState :=
  ((s.links.find? fun e => e.1 == k).map fun e => e.2).getD LinkState.reset

def State.setLink (s : State) (k : LinkKey) (x : LinkState) : State :=
  { s with links := (k, x) :: s.links.filter fun e => e.1 != k }

/-- The in-service fibres of a transmit group, in ascending order (R419). -/
def State.inService (s : State) (g : Nat) : List Nat := (List.range 32).filter fun i => bit (s.sys (0x0DA0 + g)).toNat i

/-- The number of in-service fibres of the group towards a device (R417, R419). -/
def State.fibres (s : State) (dev : Nat) : Nat := (s.inService (Config.receivePort s.phys dev)).length

/-- The payload bytes of a packet body (R418, R440). -/
def payload (b : Body) : Nat :=
  match b with
  | .write _ _ _ _ _ d => d.length
  | .release .. => 4
  | .request _ _ (.atom _ n _ _) => n
  | .response _ (.done n _) => n
  | .response _ (.grant _ d) => d.length
  | .seep _ _ _ _ _ d => d.length
  | .seepImage _ _ _ _ d => d.length
  | _ => 0

/-- The flits of a packet: a 32-byte header, its payload and a 16-byte tag in whole flits of 32 bytes (R418). -/
def flitsOf (b : Body) : Nat := (48 + payload b + 31) / 32

/-- Whether every flit of a packet arrived, each with a good CRC: the receiver puts it together by their places (R418). -/
def intact (p : Packet) : Bool := p.flits.all (fun e => e.2) && (List.range (flitsOf p.body)).all fun i => p.flits.any fun e => e.1 == i

/-- The class on which a packet travels (R420); the answers to control frames travel as they do (log entry 117). -/
def packetClass (b : Body) : PacketClass :=
  match b with
  | .podBarrier .. | .switch .. | .switchAck _ | .refresh .. | .spdm .. | .spdmAnswer .. => .control
  | .seep .. | .seepImage .. | .seepRelease .. | .seepToken .. | .seepReplay .. | .abort .. => .migration
  | .request .. | .response .. | .holdExpiry .. => .nonPosted
  | _ => .posted

/-- Whether a packet is sealed under a link key: every one but an SPDM request (R424). -/
def isSealed (b : Body) : Bool :=
  match b with
  | .spdm .. => false
  | _ => true

/-- Fabric bytes of a function, in its meter and its partition's (R440). -/
def State.fabricBytes (s : State) (f m n : Nat) : State :=
  let s := if f < 8 then s.addMeter f m n else s
  s.addMeter (8 + s.partOf f) m n

/-- The link key under which a packet leaves (R424). -/
def txKey (p : Packet) : LinkKey := { f := p.srcFun, dev := p.dstDev, fun' := p.dstFun, handle := p.handle }

/-- A packet is sealed under the next counter of its link key as it is sent (R418, R424, R425). -/
def State.seal (s : State) (p : Packet) : State × Packet :=
  let p := { p with srcDev := s.phys, flits := (List.range (flitsOf p.body)).map (fun i => (i, true)), good := true }
  let s := s.fabricBytes p.srcFun 9 (payload p.body)
  if !(isSealed p.body) then (s, p)
  else
    let l := s.link (txKey p)
    (s.setLink (txKey p) { l with ctr := l.ctr + 1 }, { p with phase := l.phase, ctr := l.ctr })

/-- The IV of a sealed packet (R424). -/
def packetIv (p : Packet) : BitVec 96 :=
  BitVec.ofNat 96 (ofBool p.phase * 2 ^ 74 + p.srcFun % 16 * 2 ^ 70 + p.svdn % 64 * 2 ^ 64 + p.ctr % 2 ^ 64)

/-- The secret from which a packet's link key comes: the world key of its handle, else the function's link secret (R424). -/
def State.linkSecret (s : State) (p : Packet) : Nat :=
  if p.handle = 0 then Tab.get (fun _ => 0) s.linkSecrets p.srcFun
  else ((s.handles.find? fun e => e.1 == p.handle).map fun e => e.2.wrapped).getD 0

/-- A packet goes out on its group at its wavelength, its flits on consecutive in-service fibres in rotation (R417, R418); one whose group has no fibre left
is lost (R419). -/
def State.launchPacket (s : State) (p : Packet) : State :=
  let g := Config.receivePort s.phys p.dstDev
  let fs := s.inService g
  let at' := Tab.get (fun _ => 0) s.txFibre g
  let turn := (fs.filter fun i => at' ≤ i) ++ fs.filter fun i => i < at'
  if fs.isEmpty then s
  else
    let (s, p) := s.seal p
    let used := (List.range (flitsOf p.body)).map fun i => turn.getD (i % turn.length) 0
    let key := Config.linkKey (s.linkSecret p) p.srcDev p.dstDev p.srcFun p.dstFun p.phase
    let w : Wire := { group := g, wave := Config.wavelength s.phys p.dstDev, fibres := used, iv := if isSealed p.body then (packetIv p) else 0,
                      sealed := if isSealed p.body then Config.gcmSeal key (packetIv p) p else [] }
    { s with txFibre := Tab.set (fun _ => 0) s.txFibre g ((used.getLastD 0 + 1) % 32) }.send (.packet p w)

/-- A packet for a peer waits for its transmit group, if that has a fibre; one for this device itself passes through port 0 and no fibre (R417, R419,
R420). -/
def State.emit (s : State) (p : Packet) : State :=
  if p.dstDev = s.phys then
    let (s, p) := s.seal p
    { s with arriving := s.arriving ++ [p] }
  else if s.fibres p.dstDev = 0 then s
  else { s with txq := s.txq ++ [p] }

/-- A fabric packet of a function to a VDN, naming a key handle (R298, R424). A function that no VDN names sends its answers with source VDN 0 (log
entry 103). -/
def State.packetTo (s : State) (handle f v : Nat) (body : Body) : Packet :=
  let e := s.vdne f v
  { srcDev := s.phys, dstDev := vdnPhys e, srcFun := f, dstFun := vdnFunc e, svdn := (s.ownVdn f).getD 0, dvdn := v,
    handle, phase := false, ctr := 0, flits := [], good := true, body }

/-- A packet of a function to a device and a function there: it names the VDN that its table has for them, 0 where it has none (R298, log entry 103). -/
def State.packetAt (s : State) (f dev fun_ : Nat) (body : Body) : Packet :=
  let names (v : Nat) : Bool := vdnOk (s.vdne f v) && vdnPhys (s.vdne f v) == dev && vdnFunc (s.vdne f v) == fun_
  { s.packetTo 0 f (((List.range 64).find? names).getD 0) body with dstDev := dev, dstFun := fun_ }

/-- Sends a packet body from a function to a VDN; nothing leaves while the entry is invalid (R298). -/
def State.sendTo (s : State) (handle f v : Nat) (body : Body) : State :=
  if vdnOk (s.vdne f v) then s.emit (s.packetTo handle f v body) else s

/-- The key handle of a block's launch, 0 for no world (R340, R424). -/
def State.handleOf (s : State) (bid : Nat) : Nat := (s.launchOf bid).elim 0 fun l => l.record.key.toNat % 2 ^ 24

/-- T_lost of a function in cycles (R308). -/
def State.tlost (s : State) (f : Nat) : Nat := us (bits (s.sys (fReg 0x0400 f 3)).toNat 8 0)

/-- The next sequence number of a function towards a VDN (R310). -/
def State.seqNext (s : State) (f v : Nat) : Nat := Tab.get (fun _ => 0) s.seqs (64 * f + v)

/-- The 32-bit distance from one sequence number on to another (R310). -/
def seqDist (n m : Nat) : Nat := (n + 2 ^ 32 - m % 2 ^ 32) % 2 ^ 32

/-- Whether the issue limit allows one more non-posted request (R310); requests of saved and resuming blocks are outstanding too (R377). -/
def State.npRoom (s : State) (f v : Nat) : Bool :=
  ((s.nps ++ s.savedNps).filter fun p => p.f == f && p.vdn == v).all fun p => seqDist (s.seqNext f v) p.seq < 2048

/-- A non-posted request takes its number and is outstanding until its response; the sequence counter has 32 bits (R310). -/
def State.takeNp (s : State) (p : NonPosted) : State :=
  let n := s.seqNext p.f p.vdn
  let p := { p with seq := n, deadline := s.clk + s.tlost p.f, tries := 0 }
  { s with seqs := Tab.set (fun _ => 0) s.seqs (64 * p.f + p.vdn) ((n + 1) % 2 ^ 32), nps := s.nps ++ [p] }

/-- It takes its number and leaves (R310). -/
def State.sendNp (s : State) (p : NonPosted) : State :=
  (s.takeNp p).sendTo p.handle p.f p.vdn (.request (s.seqNext p.f p.vdn) p.ipa p.op)

/-- Whether an ended block's group has accesses under way that come before a word of its lost line (R259). -/
def State.wantHeld (s : State) (w : Want) : Bool := w.after.any fun g => s.nps.any fun p => p.bid == g.1 && p.grp == g.2

/-- A request for which no thread waits: it leaves at once, or after those before it once the issue limit allows it (R310). -/
def State.sendWant (s : State) (w : Want) : State :=
  if (s.wants.any fun x => x.f == w.f && x.vdn == w.vdn && !s.wantHeld x) || s.wantHeld w || !s.npRoom w.f w.vdn || s.frozen w.f then
    { s with wants := s.wants ++ [w] }
  else
    { s with nextId := s.nextId + 1 }.sendNp {
      id := s.nextId, tok := 0, f := w.f, vdn := w.vdn, seq := 0, bid := 0, grp := 0, tid := 0, va := 0, ipa := w.ipa, op := w.op, dst := [],
      signed := 0, pred := none, acq := false, handle := w.handle, done := w.done, deadline := 0, tries := 0, pent := false }

/-- The same from its parts. -/
def State.sendFree (s : State) (handle f v ipa : Nat) (op : PeerOp) (done : Option Nat) : State :=
  s.sendWant { id := s.nextId, handle, f, vdn := v, ipa, op, done, after := none }

/-- The waiting requests leave in their order as far as the issue limit allows (R310). -/
def State.sendWants (s : State) : State := s.wants.foldl State.sendWant { s with wants := [] }

/-! Lock entries and hand-off (R280 to R293). -/

def State.lockEntry? (s : State) (line : Nat) : Option LockEntry := s.locks.find? fun e => e.line == line

def State.updLock (s : State) (line : Nat) (f : LockEntry → LockEntry) : State :=
  { s with locks := updFirst (fun e => e.line == line) f s.locks }

def State.dropLock (s : State) (line : Nat) : State := { s with locks := s.locks.filter fun e => e.line != line }

/-- The physical line of a lock target that is local. -/
def Target.line (t : Target) : Option Nat :=
  match t with
  | .loc pa => some (lineOf pa)
  | _ => none

/-- A block, resident or saved. -/
def State.anyBlock (s : State) (bid : Nat) : Option Block :=
  match s.block? bid with
  | some b => some b
  | none => (s.saved.find? fun x => x.block.bid == bid).map fun x => x.block

/-- A group as peer homes name it: by the device and number that its block had when it was placed (R293, R294). -/
def State.peerRef (s : State) (bid grp : Nat) : GroupRef :=
  match s.anyBlock bid with
  | some b => { dev := b.ref.1, bid := b.ref.2, grp }
  | none => { dev := s.phys, bid, grp }

/-- The function of a block, resident or saved. -/
def State.funOf (s : State) (bid : Nat) : Nat := ((s.anyBlock bid).bind fun b => s.launch? b.lid).elim 0 fun l => l.f

/-- A group of this device. -/
def State.own (s : State) (bid grp : Nat) : GroupRef := { dev := s.phys, bid, grp }

/-- A thread of a group leaves `llock` or `ltry`: a participant takes the result, and every stander moves on (R158). -/
def lockDone (pred : Nat) (members : List Nat) (result : Bool) (t : Thread) : Thread :=
  let t := if members.contains t.tid then t.setPred pred result else t
  t.next 4

/-! The load-value queue of a redundant pair (R316). -/

/-- The quad's injection inverts a bit of the next entry forwarded (R204, R316): of its value, or of the predicate of an entry that carries nothing
else (log entry 109). -/
def State.inject (s : State) (core : Nat) (vals : List Word) (pred : Bool) : (List Word × Bool) × State :=
  let q := s.quad (quadOf core)
  match q.inject with
  | none => ((vals, pred), s)
  | some n =>
    ((vals.zipIdx.map fun (v, k) => if k = n / 32 then v ^^^ BitVec.ofNat 32 (2 ^ (n % 32)) else v, if vals.isEmpty && n == 0 then !pred else pred),
     s.setQuad (quadOf core) { q with inject := none })

/-- Fills the entry of an issue once its result has arrived in the leader's thread (R316); of a load's two halves the first waits for the
other (R141), and the injection is into the whole value (R204). `carries`: the
entry has a value or a predicate. -/
def State.forward (s : State) (k : ThreadKey) (id : Nat) (vals : List Word) (pred carries : Bool) (trap : Option DefTrap) : State :=
  match s.block? k.bid with
  | some b =>
    if b.role == .lead then
      let mine (e : LvqEntry) : Bool := e.id == id && !e.filled
      let twin : ThreadKey := { bid := b.mate, tid := k.tid }
      let part := s.loads.any fun l => l.tok == id && l.bid == k.bid && l.tid == k.tid
      let whole := (((s.thread? twin).bind fun u => u.lvq.find? mine).elim [] fun e => e.vals) ++ vals
      let ((vals, pred), s) := if part || !carries then ((whole, pred), s) else s.inject b.core whole pred
      s.updThread twin fun u => { u with lvq := updFirst mine (fun e => { e with filled := !part, vals, pred, trap }) u.lvq }
    else s
  | none => s

/-- The result of a group's `llock` reaches it, resident or saved (R158, R288): the predicate, the status, the held set; and a trailing twin's
entries (R315). -/
def State.lockResult (s : State) (bid grp : Nat) (result : Bool) (status : BitVec 4) : State :=
  let fg (g : Group) : Group :=
    if g.is bid grp then
      match g.req with
      | some r => { g with req := none, lastLine := r.va, lastStat := status,
                           held := if result then g.held ++ [{ va := r.va, tgt := r.tgt }] else g.held }
      | none => g
    else g
  let ft (gs : List Group) (t : Thread) : Thread :=
    if t.bid == bid && t.grp == grp && t.wait == Wait.lock then
      match (gs.find? fun g => g.is bid grp).bind Group.req with
      | some r => lockDone r.pred r.members result t
      | none => t
    else t
  let core := match s.block? bid with
    | some b => some b.core
    | none => none
  let req := (s.group? bid grp).bind Group.req
  let s := { s with
    threads := s.threads.map (ft s.groups), groups := s.groups.map fg,
    saved := s.saved.map fun b => { b with threads := b.threads.map (ft b.groups), groups := b.groups.map fg } }
  let s := req.elim s fun r => r.members.foldl (fun s tid => s.forward { bid, tid } r.id [] result true none) s
  -- a taken lock is an acquire wider than `.quad` (R240, R259)
  match core with
  | some c => if result then s.dropLeases c else s
  | none => s

/-- The holder's core takes the line in Owned state (R284, R403). -/
def State.lockLine (s : State) (bid line : Nat) : State :=
  let s := s.recall line
  match s.block? bid with
  | some b => (s.l1Put { core := b.core, line, st := .owned, expiry := 0, dirty := [], data := [] }).mark (128 * line) 128
  | none => s

/-- A function's duplicate filter for a source VDN (R310). -/
def State.dup (s : State) (f v : Nat) : DupFilter := Tab.get (fun _ => { high := 0, marks := [] }) s.dups (64 * f + v)

def State.setDup (s : State) (f v : Nat) (x : DupFilter) : State :=
  { s with dups := Tab.set (fun _ => { high := 0, marks := [] }) s.dups (64 * f + v) x }

/-- What the duplicate filter keeps of an answer, at most 16 bytes: not the bytes of a granted line (R310). -/
def keptAnswer (a : Answer) : Answer :=
  match a with
  | .grant st _ => .grant st []
  | a => a

/-- Answers a request of a source VDN, and keeps the answer for a repetition (R310): the later one of an `llock` that was queued. -/
def State.answer (s : State) (f v n : Nat) (a : Answer) : State :=
  let d := s.dup f v
  (s.setDup f v { d with marks := d.marks.map fun m => if m.1 = n then (n, some (keptAnswer a)) else m }).sendTo 0 f v (.response n a)

/-- The function that waits or holds here answers a peer's group (R293). -/
def State.lockAnswer (s : State) (f : Nat) (w : Waiter) (a : Answer) : State :=
  match w.vdn with
  | some v => s.answer f v w.seq a
  | none => s

/-- Whether a waiter or holder is a given group of this device. -/
def Waiter.here (w : Waiter) (g : GroupRef) : Bool := w.vdn.isNone && w.who == g

def LockEntry.heldHere (e : LockEntry) (g : GroupRef) : Bool := e.hvdn.isNone && e.holder == some g

/-- Grants a line to a waiter (R284); the hold count of a group whose block is switched out starts with its return (R289, R291). -/
def State.grant (s : State) (line : Nat) (w : Waiter) : State :=
  match s.lockEntry? line with
  | none => s
  | some e =>
    let st : BitVec 4 := if e.lost then 8 else 0
    let s := s.updLock line fun e => { e with holder := some w.who, hvdn := w.vdn, hblk := w.blk, hva := w.va, hcls := w.cls, told := w.told, lost := false, held := 0,
                                              since := if w.absent then none else some s.clk, losing := none,
                                              limit := 1024 * bits (s.sys (fReg 0x0400 e.f 2)).toNat 15 0,
                                              waiters := e.waiters.filter fun x => !(x.who == w.who && x.vdn == w.vdn) }
    if w.vdn.isNone then (s.lockLine w.who.bid line).lockResult w.who.bid w.who.grp true st
    else
      -- the line travels with the grant (R284, R293)
      let s := (s.recall line).touchRead e.f 0 (.loc (128 * line)) 128
      s.lockAnswer e.f w (.grant st (s.mem.bytes (128 * line) 128))

/-- Moves absent head waiters to the tail, each at most once (R284, R290). -/
def skipAbsent : Nat → List Waiter → List Waiter
  | 0, l => l
  | n + 1, w :: r => if w.absent then skipAbsent n (r ++ [w]) else w :: r
  | _, [] => []

/-- The hand-off at the home after a `lunlock`, or after a loss (R284). -/
def State.handOffLine (s : State) (line : Nat) (lost : Bool) : State :=
  match s.lockEntry? line with
  | none => s
  | some e =>
    let ws := skipAbsent e.waiters.length e.waiters
    let s := s.updLock line fun e => { e with holder := none, hvdn := none, since := none, losing := none, lost := e.lost || lost, waiters := ws }
    match ws with
    | [] => s.dropLock line
    | w :: _ => if w.absent then s else s.grant line w

/-- An unlocked line with a present group at the head of its queue is granted to it (R284, R290). -/
def State.grantHead (s : State) (line : Nat) : State :=
  match s.lockEntry? line with
  | some e => match e.holder, e.waiters with
    | none, w :: _ => if w.absent then s else s.grant line w
    | _, _ => s
  | none => s

/-- The trailing twins of a leader's `llock` that ends without a result wait for none any more (R315, R319). -/
def State.dropAwait (s : State) (bid grp id : Nat) : State :=
  match s.block? bid with
  | some b =>
    if b.role != .lead then s
    else
      let waits (t : Thread) : Bool := t.bid == b.mate && t.grp == grp && t.lvq.any fun e => e.id == id && !e.filled
      let off (t : Thread) : Thread := if waits t then
        { t with lvq := t.lvq.filter fun e => e.id != id, wait := if t.wait == Wait.matched then .none else t.wait } else t
      let open_ (g : Group) : Group := if (g.bid == bid || g.bid == b.mate) && g.idx == grp then { g with ckpting := false } else g
      { s with threads := s.threads.map off, groups := s.groups.map open_ }
  | none => s

/-- A group leaves the queue it waits in, with its predicate unwritten (R289, R292, R370). An entry that is left with neither
holder nor waiter is freed (R280); a peer home is told (R293). -/
def State.leaveQueue (s : State) (bid grp : Nat) : State :=
  let me := s.own bid grp
  let asks (p : NonPosted) : Bool := p.bid == bid && p.grp == grp && (match p.op with
    | .llock .. | .ltry .. => true
    | _ => false)
  let asked := (s.nps ++ s.savedNps).filter asks
  let s := ((s.group? bid grp).bind fun g => g.req).elim s fun r => s.dropAwait bid grp r.id
  let s := { s with
    locks := (s.locks.map fun (e : LockEntry) =>
      { e with waiters := e.waiters.filter fun (w : Waiter) => !w.here me }).filter fun (e : LockEntry) =>
        e.holder.isSome || !e.waiters.isEmpty,
    nps := s.nps.filter fun p => !asks p }
  let s := asked.foldl (fun s p => s.sendFree p.handle p.f p.vdn p.ipa (.lunlock (s.peerRef bid grp) false) none) s
  let fg (g : Group) : Group := if g.is bid grp then { g with req := none } else g
  let ft (t : Thread) : Thread := if t.bid == bid && t.grp == grp && t.wait == Wait.lock then { t with wait := .none } else t
  { s with threads := s.threads.map ft, groups := s.groups.map fg,
           resuming := s.resuming.map fun (r : Resuming) => { r with nps := r.nps.filter fun p => !asks p },
           saved := s.saved.map fun b => { b with
             threads := b.threads.map ft, groups := b.groups.map fg, nps := b.nps.filter fun p => !asks p } }

/-- Every line of a list that a group held passes on as lost (R292); the home of a peer-homed one is told so (R293). What the group still has under
way, the requests of a saved block among it, comes first (R259). -/
def State.loseHeld (s : State) (f bid grp : Nat) (l : List Held) : State :=
  let busy := s.nps.any fun p => p.bid == bid && p.grp == grp
  l.foldl (fun s h =>
    match h.tgt with
    | .loc pa =>
      (match s.lockEntry? (lineOf pa) with
      | some e =>
        if !e.heldHere (s.own bid grp) then s
        else if busy then s.updLock (lineOf pa) fun e => { e with since := none, losing := some s.nextId }
        else s.handOffLine (lineOf pa) true
      | none => s)
    | .peer v ipa =>
      s.sendWant { id := s.nextId, handle := s.handleOf bid, f, vdn := v, ipa, op := .lunlock (s.peerRef bid grp) true, done := none, after := some (bid, grp) }
    | _ => s) s

/-- The same for a resident group. -/
def State.loseLocks (s : State) (bid grp : Nat) : State :=
  match s.group? bid grp with
  | none => s
  | some g => (s.updGroup bid grp fun g => { g with held := [] }).loseHeld (s.envOf bid).f bid grp g.held

/-! Hierarchy barriers (R168, R169, R224 to R226). -/

/-- The instance of a level that holds a core: quad, die, device, pod (R221). -/
def levelInst (level core : Nat) : Nat :=
  match level with
  | 3 => quadOf core
  | 4 => dieOf core
  | _ => 0

def HBar.is (h : HBar) (level inst idx : Nat) : Bool := h.level == level && h.inst == inst && h.idx == idx

/-- The devices of a launch's pod set other than this one (R225, R342). -/
def State.podPeers (s : State) (l : Launch) : List Nat :=
  ((List.range 64).filter fun v => l.record.podset.getLsbD v).filterMap fun v =>
    let d := vdnPhys (s.vdne l.f v)
    if d = s.phys then none else some d

/-- The barrier of a level and index in the instance that holds a block (R225). -/
def Launch.hbarOf (l : Launch) (level idx blk : Nat) : Option HBar :=
  l.hbars.find? fun h => h.level == level && h.idx == idx && h.members.contains blk

/-- Whether every member on this device has arrived or ended (R226). -/
def Launch.hbarHere (l : Launch) (h : HBar) : Bool := h.members.all fun m => h.arrived.contains m || l.ended.contains m

/-- Whether every member has arrived or ended, and at `.pod` this device has reported and every other one has (R169, R225, R226). -/
def State.hbarFull (s : State) (l : Launch) (h : HBar) : Bool :=
  l.hbarHere h &&
  (h.level != 6 || (h.told && (s.podPeers l).all fun v => h.reports.contains v || h.gone.contains v))

/-- A waiter at a hierarchy barrier is released. -/
def Thread.leaveHbar (h : HBar) (after : List Arriver) (t : Thread) : Thread :=
  if t.wait == Wait.hbar h.level h.inst h.idx then { t with wait := .released after } else t

/-- Completes every hierarchy barrier of a launch that is full, and releases its waiters, those of saved blocks too (R169, R381). -/
def State.hbarSettle (s : State) (lid : Nat) : State :=
  match s.launch? lid with
  | none => s
  | some l =>
    l.hbars.foldl (fun s h =>
      if !h.members.isEmpty && s.hbarFull l h && !(h.members.all fun m => l.ended.contains m) then
        let after := s.still h.before
        let flip (x : HBar) : HBar := { x with phase := !x.phase, arrived := [], reports := x.early, early := [], told := false, before := after }
        let s := s.updLaunch lid fun l => { l with
          hbars := updFirst (fun x => x.is h.level h.inst h.idx) flip l.hbars }
        { s with
          threads := s.threads.map fun (t : Thread) => if (s.block? t.bid).any (fun b => b.lid == lid) then t.leaveHbar h after else t,
          saved := s.saved.map fun x => if x.block.lid = lid then { x with threads := x.threads.map (Thread.leaveHbar h after) } else x }
      else s) s

/-! Error records and the end of launches (R373, R374, R376). -/

/-- An access of the device itself to guest memory of a function under a queue's stage 1 (R338, R376). -/
def State.devEnv (f root tag : Nat) : Env := { core := 192, f, root, asid := 0, tag, bid := 0, share := 0 }

/-- The stage-1 root of a queue (R357). -/
def State.queueRoot (s : State) (f q : Nat) : Nat := s.bar64 f (0x2000 + 16 * q)

def ErrRec.empty : ErrRec where
  kind := 0
  cause := 0
  reason := 0
  blk := 0xFFFFFFFF
  rcd := 0
  pc := 0
  addr := 0
  aux := 0
  tid := 0xFFFFFFFF
  extra := 0

/-- The 64 bytes of an error record (R376). -/
def ErrRec.bytes (r : ErrRec) (sequence : Nat) : List Byte :=
  leBytes (r.kind + 256 * r.cause + 65536 * r.reason) 4 ++ leBytes r.blk 4 ++ leBytes r.rcd.toNat 8 ++ leBytes r.pc.toNat 8 ++
  leBytes r.addr.toNat 8 ++ leBytes r.aux 4 ++ leBytes r.tid 4 ++ leBytes r.extra 4 ++ leBytes 0 12 ++ leBytes sequence 8

/-- An MSI-X vector is signalled; nothing crosses an insecure link (R443). -/
def State.vector (s : State) (f v : Nat) : State := if s.ideBroken then s else s.send (.msix f v)

/-- A write that the device makes for a function: to a migrating page it is held with the page's other writes (R364), and so is the vector that follows it;
the throttle holds it with those before it (R406). -/
def State.devWrite (s : State) (e : Env) (t : Target) (bs : List Byte) (vector : Option (Nat × Nat)) : State :=
  match t with
  | .loc pa =>
    if s.devThrottled e.f t then { s with devHeld := s.devHeld ++ [{ f := e.f, tag := e.tag, pa, data := bs, vector }] }
    else if s.moving true pa then
      let hold (m : PageMove) : PageMove := { m with held := m.held ++ [(pa, bs, vector)] }
      { s with pageMove := s.pageMove.map hold }
    else vector.elim (s.writeTgt e none t bs) fun v => (s.writeTgt e none t bs).vector v.1 v.2
  | t => vector.elim (s.writeTgt e none t bs) fun v => (s.writeTgt e none t bs).vector v.1 v.2

/-- The oldest device write of a function that the throttle holds goes on once the rate admits it (R406). -/
def State.admitHeld (s : State) (f : Nat) : State :=
  match s.devHeld.find? fun e => e.f == f with
  | none => s
  | some e =>
    if s.throttled f e.pa then s
    else
      let rest := s.devHeld.erase e
      let t := { s with devHeld := [] }.devWrite (State.devEnv f 0 e.tag) (.loc e.pa) e.data e.vector
      { t with devHeld := rest }

/-- Writes an error record to a queue's ring and signals its vector; a write that faults loses the record alone (R376). -/
def State.errorRecord (s : State) (f q : Nat) (r : ErrRec) : State :=
  let o := 0x1000 + 32 * q
  let i := (s.bar f (o + 0x14)).toNat % 64
  let sequence := Tab.get (fun _ => 0) s.errSeq (64 * f + q) + 1
  let va : VAddr := BitVec.ofNat 64 (s.bar64 f (o + 0x18) / 4096 * 4096 + 64 * i)
  let e := State.devEnv f (s.queueRoot f q) 0
  let next := (s.setBar f (o + 0x14) (BitVec.ofNat 32 ((i + 1) % 64)))
  let next := { next with errSeq := Tab.set (fun _ => 0) s.errSeq (64 * f + q) sequence }
  match s.resolve e .engW va 16 with
  | .ok t => next.devWrite e t (r.bytes sequence) (some (f, q))
  | .error _ => next.vector f q

/-- A spawn pool that is free. -/
def Pool.isFree (p : Pool) : Bool := p.recs.isEmpty

/-- Releases a slot or tile of a block: to Scrub at a kill, else by `f` (R271). -/
def SlotSt.ofBlock (x : SlotSt) (bid : Nat) : Bool :=
  match x with
  | .claimed b _ => b == bid
  | .pending b _ _ => b == bid
  | _ => false

/-- Changes the record of a fabric copy in its window. -/
def Window.updCopyRec (w : Window) (cmd : Nat) (g : CopyRec → CopyRec) : Window :=
  { w with copies := updFirst (fun r => r.cmd == cmd) g w.copies }

/-- A stopped fabric copy takes back the writes that it will not send; its count is then final (R267). A copy of another kind has no record. -/
def State.takeBack (s : State) (f : Nat) (c : CopyCmd) : State :=
  let win := c.fabric.elim 0 fun x => x.1
  let w := s.window f win
  match if c.fabric.isSome then w.copies.find? (fun r => r.cmd == c.id) else none with
  | none => s
  | some r =>
    let n := r.count - r.sent
    let w := w.updCopyRec c.id fun r => { r with count := r.sent, final := true }
    let w := if r.epoch = w.epoch.toNat then
        { w with counts := Tab.set (fun _ => 0) w.counts r.vdn (Tab.get (fun _ => 0) w.counts r.vdn - n) }
      else { w with pending := w.pending.map fun p => if p.vdn = r.vdn then { p with count := p.count - n } else p }
    s.setWindow f win w

/-- Whether a copy of a killed block has nothing left to do: the engine starts no further element, and lands those already started (R266, R278);
`cp.lane` and `cp.bin` complete. -/
def CopyCmd.over (c : CopyCmd) : Bool :=
  match c.kind with
  | .bulk _ | .mcast _ _ => c.begun.isEmpty && c.lines.isEmpty
  | _ => false

/-- Staged lines of a quad go, and count as dropped for the groups that sent them, resident or saved (R269). -/
def State.dropStaged (s : State) (quad : Nat) (mine : Nat × Nat × Staged → Bool) : State :=
  let q := s.quad quad
  let lost := q.staging.filter mine
  let less (g : Group) : Group := { g with mcastDrop := min 255 (g.mcastDrop + (lost.filter fun x => g.is x.2.2.bid x.2.2.grp).length) }
  if lost.isEmpty then s
  else { s.setQuad quad { q with staging := q.staging.filter fun x => !mine x } with
    groups := s.groups.map less, saved := s.saved.map fun x => { x with groups := x.groups.map less } }

/-- The watchdog counts and spawn timers of a clock-gated core's blocks have paused up to now (R218, R375). -/
def State.gatePause (s : State) (core : Nat) : State :=
  let c := s.core core
  if c.power == .clockGate then
    let off := s.clk - c.gatedAt
    let s := s.setCore core { c with gatedAt := s.clk, pools := c.pools.map fun p => (p.1, { p.2 with timer := p.2.timer.map fun t => t + off }) }
    { s with blocks := s.blocks.map fun (b : Block) => if b.core == core then { b with lastIssue := b.lastIssue + off } else b }
  else s

/-- Kills a block (R278, and R351's end without a save): its threads stop, copies stop at their landed prefixes, lock requests and waits end, spawn
records go. What it has already issued settles, and its groups then end. Matrix commands numbered `from_` or above are discarded. -/
def State.killBlock (s : State) (bid : Nat) (relaunch : Bool) (from_ : Nat) : State :=
  match s.block? bid with
  | none => s
  | some b =>
    let s := (s.groups.filter fun g => g.bid == bid).foldl (fun s g => s.leaveQueue bid g.idx) s
    let s := s.updBlock bid fun b => { b with status := match b.status with
      | .dying r => .dying (r && relaunch)
      | _ => .dying relaunch }
    let c := s.core b.core
    let s := s.setCore b.core { c with
      pools := c.pools.filter (fun p => p.2.bid != bid), regq := c.regq.filter fun r => r.2.1.bid != bid }
    let dropM (m : MatCmd) : Bool := m.bid == bid && from_ ≤ m.id
    let s := s.dropStaged (quadOf b.core) fun x => x.1 == b.lid && x.2.1 == b.blk
    let late := (s.resuming.filter fun r => r.bid == bid).flatMap fun r => r.copies
    let out (c : CopyCmd) : Bool := c.bid == bid && c.over
    let s := (s.copies.filter out ++ late).foldl (fun s c => s.takeBack (s.envOf bid).f c) s
    { s with
      resuming := s.resuming.filter fun r => r.bid != bid,
      threads := s.threads.filter fun t => t.bid != bid,
      copies := s.copies.filter fun x => !out x,
      mcmds := s.mcmds.filter fun m => !dropM m,
      groups := s.groups.map fun g => if g.bid == bid then
        { g with cp := 0, ld := 0, st := 0, tl := 0, latch := none } else g }

/-- Kills a block, and its twin, for an error record that is written once the block has ended (R278, R373, R433). -/
def State.killFor (s : State) (bid : Nat) (r : ErrRec) : State :=
  match s.block? bid with
  | none => s
  | some b =>
    let note (b : Block) : Block := { b with record := match b.record with
      | some x => some x
      | none => some r }
    let s := (s.updBlock bid note).killBlock bid false (s.nextId + 1)
    if b.role == .solo then s else s.killBlock b.mate false (s.nextId + 1)

/-- Fails a launch (R374), or ends it (R351): its blocks are ended without a save, its waiting and saved ones dropped, with the lines staged for
them (R269). -/
def State.endLaunch (s : State) (lid : Nat) : State :=
  let s := s.updLaunch lid fun l => { l with failed := true, waiting := [] }
  let f := (s.launch? lid).elim 0 fun l => l.f
  let gone := s.saved.filter fun b => b.block.lid == lid
  let out := (gone.flatMap fun b => b.nps).map fun (p : NonPosted) => { p with deadline := s.clk + s.tlost p.f }
  let s := { s with saved := s.saved.filter fun b => b.block.lid != lid, nps := s.nps ++ out.filter fun (p : NonPosted) => !p.pent }
  let s := gone.foldl (fun s b => b.copies.foldl (fun s c => s.takeBack f c) (s.freeImage b.block ((s.launch? lid).elim 0 fun l => l.tag))) s
  let s := gone.foldl (fun s b => b.groups.foldl (fun s g =>
    (s.leaveQueue g.bid g.idx).loseHeld f g.bid g.idx g.held) s) s
  let s := (List.range 48).foldl (fun s q => s.dropStaged q fun x => x.1 == lid) s
  (s.blocks.filter fun b => b.lid == lid).foldl (fun s b => s.killBlock b.bid false (s.nextId + 1)) s

/-- Writes an error record of a launch to its queue, and fails the launch (R374). -/
def State.failLaunch (s : State) (lid : Nat) (r : ErrRec) : State :=
  match s.launch? lid with
  | none => s
  | some l => (s.errorRecord l.f l.q { r with rcd := l.addr }).endLaunch lid

/-! Taking a trap, and what is deferred (R370 to R373). -/

/-- A thread leaves whatever it waits for (R370): the barrier token stays with it, a `regacq` leaves its lane's queue, a group
leaves its line's queue or the gang latch. -/
def State.leaveWait (s : State) (t : Thread) : State :=
  let s := match t.wait with
    | .lock => s.leaveQueue t.bid t.grp
    | .gang =>
      let back (u : Thread) : Thread := if u.bid == t.bid && u.grp == t.grp && u.wait == Wait.gang then { u with wait := .none } else u
      { s.updGroup t.bid t.grp fun g => { g with latch := none } with threads := s.threads.map back }
    | .regacq =>
      (match s.block? t.bid with
      | some b =>
        let c := s.core b.core
        s.setCore b.core { c with regq := c.regq.filter fun r => r.2.1 != t.key }
      | none => s)
    | _ => s
  s.updThread t.key fun t => { t with wait := .none }

/-- A trap as its frame and a deferred one record it (R205). -/
def TrapInfo.word (x : TrapInfo) : DefTrap := { cause := x.cause.code, addr := x.addr, aux := x.aux }

/-- Takes a trap in a thread (R371): records the frame, marks the thread in its handler and moves it there; or escalates when
the launch names no handler or the thread is in its handler (R373): the block is killed, and an error record of kind 1 follows, with which
the launch fails. `pc` is the trapping PC, `resume` the resume address (R102). -/
def State.takeTrap (s : State) (k : ThreadKey) (pc resume : VAddr) (x : DefTrap) : State :=
  match s.thread? k, s.launchOf k.bid with
  | some t, some l =>
    if t.inHandler || l.record.handler = 0 then
      s.killFor k.bid
        { ErrRec.empty with kind := 1, cause := x.cause, blk := (s.block? k.bid).elim 0 fun b => b.blk, pc, addr := x.addr, aux := x.aux.toNat, tid := k.tid }
    else
      (s.leaveWait t).updThread k fun t => { t with
        frame := { cause := x.cause, pc, resume, addr := x.addr, aux := x.aux },
        inHandler := true, pc := l.record.handler, age := 0 }
  | _, _ => s

/-- The return from a trap (R205, R371): the handler ends and the thread goes to an address. -/
def Thread.tret (t : Thread) (to_ : VAddr) : Thread := { t with inHandler := false, pc := to_ }

/-- Holds a deferred trap pending for a thread: at most 4, a fifth sets the overflow bit (R371, R380). -/
def Thread.addDeferred (t : Thread) (d : DefTrap) : Thread :=
  if t.deferred.length < 4 then { t with deferred := t.deferred ++ [d] } else { t with overflow := true }

/-- A trap that work issued earlier raises in its thread, resident or saved; for a thread that has exited it goes to the queue
as an error record of kind 7 with the issuing PC, and the launch fails (R178, R198), with `%blk` 0xFFFF_FFFF where its block has ended too (log
entry 112). A pair's trap goes to both (R315); a killed block's to
nobody (R278). -/
def State.deferTrap (s : State) (lid : Nat) (k : ThreadKey) (issuePc : VAddr) (d : DefTrap) : State :=
  let mate := match s.block? k.bid with
    | some b => if b.role == .lead then some b.mate else none
    | none => none
  let hit (t : Thread) : Bool := t.key == k || (some t.bid == mate && t.tid == k.tid)
  let there := s.threads.any (fun t => t.key == k) || s.saved.any fun b => b.threads.any fun t => t.key == k
  if (s.block? k.bid).any Block.dying then s
  else if there then
    { s with threads := s.threads.map fun (t : Thread) => if hit t then t.addDeferred d else t,
             saved := s.saved.map fun b => { b with threads := b.threads.map fun t => if hit t then t.addDeferred d else t } }
  else
    let blk := (s.anyBlock k.bid).elim 0xFFFFFFFF fun b => b.blk
    s.failLaunch lid { ErrRec.empty with kind := 7, cause := d.cause, blk, pc := issuePc, addr := d.addr, aux := d.aux.toNat,
                                         tid := k.tid }

end Sys2Proof.Machine
end

