-- ==== Sys2Proof/Machine/Stall.lean ====
section
/-! DEFINITION. When a thread is ready for the instruction at which it stands (R74, R81, R83): interlocks, waits, counters,
full queues, and what a redundant pair adds (R316, R317, R319). -/

namespace Sys2Proof.Machine

/-- The offset in words of a B-format branch, single or composed (R20, R28). -/
def braOff (h : Option Nat) (o : BitVec 23) : Int :=
  match h with
  | none => sgn 23 o.toNat
  | some h => sgn 49 (h * 2 ^ 23 + o.toNat)

/-- The target of a B-format branch (R96). -/
def braTarget (pc : VAddr) (h : Option Nat) (o : BitVec 23) : VAddr := pc + BitVec.ofInt 64 (4 * braOff h o)

/-- The payload of a `lim` pair, if the instruction is one (R28). -/
def limPayload (i : Instr) : Option Nat :=
  match i with
  | .lim h _ => some h.toNat
  | _ => none

/-- Whether a released waiter may go on (R256). -/
def State.released (s : State) (l : List Arriver) : Bool := l.all s.behind

/-- A fence's condition (R154): the thread's loads and atomics numbered below `n`, and with `queue` the whole store queue's. -/
def State.fenceMet (s : State) (t : Thread) (n : Nat) (queue : Bool) : Bool := s.performed t.bid t.grp t.tid n queue

/-- Whether an implicit checkpoint's instruction of a thread's group is performed, and its snapshot still to come (R319). -/
def State.checkpoints (s : State) (t : Thread) (b : Block) : Bool := b.role != .solo && (s.group? t.bid t.grp).any fun g => g.ckpting

/-- Whether an implicit checkpoint keeps a thread of a pair from issuing (R319): from its entry in the compare buffer to the snapshot no thread of
the group issues. Until the entries match, a thread that is behind its twin and one whose entry has retired still go on, so that the copies stand
level at the snapshot (log entry 95); after that only the checkpoint's own threads take its result. -/
def State.stopped (s : State) (t : Thread) (b : Block) : Bool :=
  let imp (w : Wait) : Bool := s.threads.any fun u => (u.bid == b.bid || u.bid == b.mate) && u.grp == t.grp && u.sigImp && u.wait == w
  b.role != .solo &&
  (if s.checkpoints t b || imp .matched then !(t.wait == .matched && t.sigImp)
  else imp .compare && t.wait != .matched && (match s.thread? { bid := b.mate, tid := t.tid } with
    | some u => !(t.icount < u.icount || (t.icount == u.icount && u.wait == .compare))
    | none => false))

/-- Whether a thread may look at its next instruction at all (R74, R101, R316, R319, R370, R377). -/
def State.awake (s : State) (t : Thread) : Bool :=
  (match t.wait with
  | .none | .matched => true
  | .released l => s.released l
  | .spawned a since => s.behind a && since < s.clk
  | _ => false) &&
  (t.inHandler || t.deferred.isEmpty) &&
  (match s.block? t.bid with
  | some b => b.status == .running && b.started &&
    -- a thread whose `ld.c` a pause of the constant class holds is not ready (R242)
    !((s.die (dieOf b.core)).pause && s.loads.any fun l => l.kind == .ldc && l.bid == t.bid && l.tid == t.tid) &&
    (s.group? t.bid t.grp).isSome && !s.stopped t b
  | none => false)

/-- Whether the thread's allocation covers every register that the instruction names (R24, R26). -/
def Thread.covers (t : Thread) (i : Instr) : Bool := i.vregs.all fun n => t.idx n < 16 * t.nb

/-- Whether a register or predicate that the instruction names is interlocked (R83). -/
def Thread.interlocked (t : Thread) (i : Instr) : Bool :=
  i.vregs.any (fun n => t.busy.contains (t.idx n)) || i.ppreds.any fun p => t.busyP.contains p

/-- The entries of a core's copy queue of 16, but for those of one issue of one group (R263): the threads of one group's
`cp.lane` or `cp.bin` issue share an entry. -/
def State.copyQueue (s : State) (core bid grp tok : Nat) : Nat :=
  let cs := (s.copies.filter fun c => c.core == core).map fun c => (c.bid, c.grp, c.tok, match c.kind with
    | .bulk _ | .mcast _ _ => c.id
    | _ => 0)
  let bs := s.groups.flatMap fun g => match s.block? g.bid with
    | some b => if b.core == core then (g.queue.filter fun e => (match e.kind with
        | .bin _ _ _ _ => true
        | _ => false)).map fun e => (g.bid, g.idx, e.tok, 0) else []
    | none => []
  ((cs ++ bs).eraseDups.filter fun e => e != (bid, grp, tok, 0)).length

/-- The entries of a core's matrix queue of 8, one for each group's issue, but for those of one issue of one group (R263). -/
def State.matQueue (s : State) (core bid grp tok : Nat) : Nat :=
  ((((s.mcmds.filter fun m => m.core == core).map fun m => (m.bid, m.grp, m.tok)).eraseDups).filter
    fun e => e != (bid, grp, tok)).length

/-- Whether a spawn pool of a core can take a record for an entry (R107). -/
def Core.poolTakes (c : Core) (bid : Nat) (e : VAddr) : Bool :=
  match c.pools.find? fun p => p.2.bid == bid && p.2.entry == e with
  | some p => p.2.recs.length < 32
  | none => c.pools.length < 8

/-- Fetches of granules in flight on a core: at most 4 at a time, the others of a placement or resumption wait their turn (R111). -/
def Core.fetches (c : Core) : List Nat := ((c.segs.filter fun e => !e.2.landed).take 4).map fun e => e.1

/-- Whether a block of a launch may name a segment: the last is its handler's (R109, R247). -/
def Launch.mayName (l : Launch) (seg : Nat) : Bool := seg != 63 || l.record.handler == 0

/-- The segment that the launch may name and that holds a granule, landed or in flight (R109). -/
def Core.segFor (c : Core) (l : Launch) (granule : Nat) : Option (Nat × Seg) :=
  c.segs.find? fun e => e.2.granule == granule && e.2.tag == l.tag && l.mayName e.1

/-- Whether a `cfetch` would start a fetch beside four in flight (R111): one that traps, finds its granule, or takes the place of a
fetch in flight does not. -/
def State.fetchHeld (s : State) (l : Launch) (e : Env) (seg : Nat) (a : VAddr) : Bool :=
  let c := s.core e.core
  a.toNat % 4096 == 0 && l.mayName seg && (s.resolve e .cfetch a 4096).toBool && (c.segFor l (a.toNat / 4096)).isNone &&
  4 ≤ c.fetches.length && !c.fetches.contains seg

/-! The memory accesses of an instruction (R21, R137, R310). -/

/-- The offset of an M-format access, in units of the access size (R21, R28). -/
def mOff (h : Option Nat) (o : BitVec 4) : Int :=
  match h with
  | none => o.toNat
  | some h => sgn 30 (h * 2 ^ 4 + o.toNat)

/-- The effective address of an M-format access (R137). -/
def mAddr (t : Thread) (a : Nat) (h : Option Nat) (o : BitVec 4) (size : Nat) : VAddr :=
  t.addr a + BitVec.ofInt 64 (mOff h o * size)

/-- The access size of a size code (R21). -/
def szBytes (z : Nat) : Nat :=
  match z with
  | 0 => 1 | 1 => 2 | 2 => 4 | 3 => 8 | 4 => 16 | 5 => 1 | _ => 2

/-- The bytes that a peer operation touches; a lock operation touches none. -/
def peerSize (op : PeerOp) : Nat :=
  match op with
  | .ld n => n
  | .atom _ n _ _ => n
  | _ => 0

/-- Whether two places share a byte. -/
def Target.overlaps (x : Target) (n : Nat) (y : Target) (m : Nat) : Bool :=
  let meet (a b : Nat) : Bool := a < b + m && b < a + n
  match x, y with
  | .scratch a, .scratch b => meet a b
  | .loc a, .loc b => meet a b
  | .host a, .host b => meet a b
  | .peer v a, .peer w b => v == w && meet a b
  | _, _ => false

/-- The bytes that a queue entry writes. -/
def QEntry.size (e : QEntry) : Nat :=
  match e.kind with
  | .store d => d.length
  | .update _ n _ _ _ => n
  | .bin _ _ _ _ => 32

/-- Whether an acquire load of a thread numbered below `n` is still to be performed (R144). -/
def State.acqPending (s : State) (bid tid n : Nat) : Bool :=
  s.loads.any (fun l => l.bid == bid && l.tid == tid && l.acq && l.id < n) ||
  s.nps.any fun p => p.bid == bid && p.tid == tid && p.acq && p.id < n

/-- What an instruction asks of memory with a non-posted request where its address is a peer's: the check, address, alignment and size (R138, R200).
`h` is the payload of a `lim` pair. -/
def asksOf (t : Thread) (h : Option Nat) : Instr → Option (Acc × VAddr × Nat × Nat)
  | .ld _ _ a z _ o => some (.ld, mAddr t a.toNat h o (szBytes z.toNat), szBytes z.toNat, szBytes z.toNat)
  | .ldAcq _ _ a z _ o => some (.ld, mAddr t a.toNat h o (szBytes (2 + z.toNat)), szBytes (2 + z.toNat), szBytes (2 + z.toNat))
  | .lstat _ _ a => some (.lstat, t.addr a.toNat, 4, 4)
  | .fld _ _ a sz _ => some (.fld, t.addr a.toNat, 4 * 2 ^ sz.toNat, 4 * 2 ^ sz.toNat)
  | .fatom _ _ a x _ => some (.fatom, t.addr a.toNat, if x = 3 then 8 else 4, if x = 3 then 8 else 4)
  | .llock _ _ a _ | .ltry _ _ a => some (.lock, t.addr a.toNat, 128, 128)
  | _ => none

/-- Whether a non-posted request of an instruction must wait for its issue: for the issue limit (R310), a lock's also for the thread's older acquire loads (R144).
`tok` numbers the issue. -/
def State.peerHeld (s : State) (tok : Nat) (t : Thread) (h : Option Nat) (j : Instr) : Bool :=
  match asksOf t h j with
  | none => false
  | some (acc, ea, al, n) =>
    let e := s.envOf t.bid
    match s.check e acc ea al n with
    | .ok (.peer v _) => !s.npRoom e.f v || (acc == .lock && s.acqPending t.bid t.tid tok)
    | _ => false

/-- The pages that `n` bytes from an address touch, by their first byte in the range. -/
def pagesOf (ea : VAddr) (n : Nat) : List VAddr :=
  if n = 0 then []
  else ((List.range (n / 4096 + 2)).map fun k => if k = 0 then ea else ea + BitVec.ofNat 64 (4096 * k - ea.toNat % 4096)).filter
    fun a => (a - ea).toNat < n

/-- The addresses that an instruction translates at its issue (R139, R146, R179, R207, R265). -/
def addrsOf (t : Thread) (h : Option Nat) : Instr → List VAddr
  | .ld _ _ a z _ o | .st _ _ a z _ o | .ldC _ _ a z o => [mAddr t a.toNat h o (szBytes z.toNat)]
  | .ldAcq _ _ a z _ o | .stRel _ _ a z _ o => [mAddr t a.toNat h o (szBytes (2 + z.toNat))]
  | .atomMinS _ _ a _ | .atomMinZ _ _ a _ | .atomMaxS _ _ a _ | .atomMaxZ _ _ a _ | .atomAdd _ _ a _ | .atomAddB64 _ _ a _
  | .atomExch _ _ a _ | .atomExchB64 _ _ a _ | .atomCas _ _ a _ | .atomCasB64 _ _ a _ | .atomFadd _ _ a _ | .atomFadd2c _ _ a _ => [t.addr a.toNat]
  | .redAdd _ a _ | .redAddB64 _ a _ | .redFadd _ a _ | .redFadd2c _ a _ | .redMinS _ a _ | .redMaxS _ a _ | .redAnd _ a _
  | .redOr _ a _ => [t.addr a.toNat]
  | .lstat _ _ a | .llock _ _ a _ | .ltry _ _ a | .lunlock _ a | .fst _ _ _ a _ | .fld _ _ a _ _ | .fatom _ _ a _ _ | .cfetch _ _ a => [t.addr a.toNat]
  | .cpLaneB32 _ d a _ _ _ | .cpLaneB64 _ d a _ _ _ | .cpLaneB128 _ d a _ _ _ => [t.addr a.toNat, t.addr d.toNat]
  | .cpBin _ _ a b => [t.addr a.toNat, t.addr b.toNat]
  | .pref _ a y o => if y = 3 then [] else [mAddr t a.toNat h o 128]
  | .cwbMere _ d a => pagesOf (t.addr a.toNat) (t.reg d.toNat)
  | _ => []

/-- The walks that an instruction of a thread needs before it can issue (R359, log entry 92). -/
def State.walksFor (s : State) (t : Thread) (h : Option Nat) (j : Instr) : List WalkReq :=
  let e := s.envOf t.bid
  s.missing e (addrsOf t h j)

/-- Whether another issue set of the cycle raises a counter of the thread's group (R85). -/
def State.countsToo (s : State) (t : Thread) (c : Counter) : Nat :=
  ofBool (s.ports.any fun p => p.pc != t.pc && p.members.any fun k => (s.thread? k).any fun u =>
    u.bid == t.bid && u.grp == t.grp && u.pc == p.pc && (match s.fetchFor u with
    | .ok i => i.counter == some c && !i.collective && u.pred i.guard
    | _ => false))

/-- The barrier registers that a block may name (R222, R342). -/
def State.nbar (s : State) (bid : Nat) : Nat :=
  match s.launchOf bid with
  | some l => bits l.record.barriers.toNat 5 0
  | none => 0

/-- Whether a thread has been released from the wait in which it stands. -/
def Thread.isReleased (t : Thread) : Bool :=
  match t.wait with
  | .released _ => true
  | _ => false

/-- The indices that a launch's barrier word grants at a level (R224, R342). -/
def Launch.granted (l : Launch) (level : Nat) : Nat :=
  let w := l.record.barriers.toNat
  match level with
  | 3 => bits w 10 6 | 4 => bits w 14 11 | 5 => bits w 17 15 | _ => bits w 19 18

/-- What holds a guard-true thread at an instruction beside its registers (R74); log entry 81 says why no command queue for memory
accesses does. `j` is the instruction that a `lim` pair
extends, or the instruction itself; `tok` numbers the issue under way. -/
def State.held (s : State) (tok : Nat) (t : Thread) (i j : Instr) (b : Block) (g : Group) : Bool :=
  let core := s.core b.core
  match j with
  | .wait _ l st c tl =>
    (l.toNat != 63 && l.toNat < g.ld.toNat + s.countsToo t .ld) || (st.toNat != 63 && st.toNat < g.st.toNat + s.countsToo t .st) ||
    (c.toNat != 63 && c.toNat < g.cp.toNat + s.countsToo t .cp) || (tl.toNat != 31 && tl.toNat < g.tl.toNat + s.countsToo t .tl)
  | .jfence _ o =>
    (match s.launch? b.lid with
    | some l => core.inFlightAt l.tag (braTarget t.pc (limPayload i) o)
    | none => false)
  | .regrel _ n => t.busy.any fun r => 16 * (t.nb - n.toNat) ≤ r
  | .spawn _ _ a => (t.addr a.toNat).toNat % 4 == 0 && !core.poolTakes t.bid (t.addr a.toNat)
  | .cfetch _ n a =>
    (match s.launch? b.lid with
    | some l => s.fetchHeld l (s.envOf t.bid) n.toNat (t.addr a.toNat)
    | none => false)
  | .barArrive _ _ r => decide ((b.bar r.toNat).pa - b.arrivals r.toNat ≤ -4095)
  | .barWait _ r a => r.toNat < s.nbar t.bid && !t.isReleased && (b.bar r.toNat).ph == bit (t.reg a.toNat) 0
  | .hbarWait _ d lv n =>
    !t.isReleased && (match s.launch? b.lid with
    | some l => n.toNat < l.granted lv.toNat && (match l.hbarOf lv.toNat n.toNat b.blk with
      | some h => h.phase == bit (t.reg d.toNat) 0
      | none => false)
    | none => false)
  | .barSync _ r => !t.isReleased && (match t.syncTok.filter fun x => x.1 == r.toNat with
    | some (_, tok) => (b.bar r.toNat).ph == tok
    | none => decide ((b.bar r.toNat).pa - b.arrivals r.toNat ≤ -4095))
  | .hbarArrive _ _ lv n =>
    (match s.launch? b.lid with
    | some l => (match l.hbarOf lv.toNat n.toNat b.blk with
      | some h => h.arrived.contains b.blk
      | none => false)
    | none => false)
  | .ldC _ _ _ _ _ => (s.die (dieOf b.core)).pause
  | .cpLaneB32 _ _ _ _ _ _ | .cpLaneB64 _ _ _ _ _ _ | .cpLaneB128 _ _ _ _ _ _ | .cpBin _ _ _ _ | .cpBulk _ _
  | .cpMcast _ _ _ => 16 ≤ s.copyQueue b.core t.bid t.grp tok
  | .tfill _ _ _ | .tfillDq _ _ _ | .azero _ _ _ | .aload _ _ _ | .tdrain _ _ _ | .tdrainAdd _ _ _ | .pcfg _ _
  | .mmaF16 _ _ _ _ _ _ | .mmaBf16 _ _ _ _ _ _ | .mmaE4m3 _ _ _ _ _ _ | .mmaE4m3e5m2 _ _ _ _ _ _ | .mmaE5m2 _ _ _ _ _ _
  | .mmaS8 _ _ _ _ _ _ | .mmaE2m1 _ _ _ _ _ _ | .mmaBf16s4 _ _ _ _ _ _ => 8 ≤ s.matQueue b.core t.bid t.grp tok
  | .mstat _ _ _ x =>
    if x = 0 then s.mcmds.any fun m => m.bid == t.bid && m.groups.contains t.grp
    else s.copies.any (fun c => c.bid == t.bid && c.grp == t.grp) || g.queue.any fun e => (match e.kind with
      | .bin _ _ _ _ => true
      | _ => false)
  | .llock _ _ _ _ | .ltry _ _ _ => g.unlocking.isSome || g.req.isSome || s.peerHeld tok t (limPayload i) j
  | .lunlock _ _ => g.unlocking.isSome || g.req.isSome
  | .ld _ _ _ _ _ _ | .ldAcq _ _ _ _ _ _ | .lstat _ _ _ | .fld _ _ _ _ _ | .fatom _ _ _ _ _ => s.peerHeld tok t (limPayload i) j
  | .cinvL1 _ | .cinvC _ | .cwbMere _ _ _ => !s.fenceMet t tok true
  | _ => false

/-- The unretired entries of leaders in the compare buffer of a core's quad, or of one pair (R317). -/
def State.compareEntries (s : State) (quad : Nat) (bid : Option Nat) : Nat :=
  (s.threads.filter fun u => u.wait == .compare && !u.sig.isEmpty && (s.block? u.bid).any fun c =>
    c.role == .lead && quadOf c.core == quad && bid.all fun x => x == c.bid).length

/-- Whether a leader is not ready: the compare buffer has no free entry, the pair holds 256, or one of its threads stands 4,096 issued instructions
ahead of its twin (R317). -/
def State.leaderHeld (s : State) (b : Block) : Bool :=
  b.role == .lead && (256 ≤ s.compareEntries (quadOf b.core) none || 256 ≤ s.compareEntries (quadOf b.core) (some b.bid) ||
    s.threads.any fun t => t.bid == b.bid && (s.thread? { bid := b.mate, tid := t.tid }).any fun u => u.icount + 4096 ≤ t.icount)

/-- What a redundant pair adds for a guard-true thread: a full load-value queue, an entry that has not arrived, and for a
leader's fence the entries of its group (R315 to R317). -/
def State.pairHeld (s : State) (t : Thread) (i : Instr) (b : Block) : Bool :=
  match b.role with
  | .solo => false
  | .lead =>
    let lvqFull := 1024 ≤ ((s.threads.filter fun u => u.bid == b.mate).map fun u => u.lvq.length).sum
    let fenced := match i.inner with
      | some (.fence _ _ _) => s.threads.any fun u => u.bid == t.bid && u.grp == t.grp && (u.wait == .compare || u.wait == .matched)
      | _ => false
    fenced || (match i.pairClass with
    | .forwarded | .result _ => lvqFull
    | _ => false)
  | .trail =>
    let noEntry := match t.lvq with
      | [] => true
      | e :: _ => !(e.filled && e.arrived)
    match i.pairClass with
    | .forwarded => noEntry
    | .result _ => t.wait == .matched && noEntry
    | .skip => t.wait == .matched && t.outcome.isNone
    | _ => false

/-- Whether a thread is ready to issue an instruction, as far as the thread itself decides it: for a group collective, the
rendezvous comes on top (R74, R81, R130). A thread whose allocation does not cover the registers waits for none of the instruction's own conditions:
it traps (R36). `tok` is the number of the issue that the judgement is made for. -/
def State.ready (s : State) (tok : Nat) (t : Thread) (i : Instr) : Bool :=
  s.awake t && !t.busyP.contains i.guard && (t.wait == .matched || !((s.block? t.bid).any s.leaderHeld)) &&
  (!t.pred i.guard ||
    (!t.interlocked i && (!t.covers i ||
      (match s.block? t.bid, s.group? t.bid t.grp with
      | some b, some g =>
        let acts := b.role != .trail || (match i.pairClass with
          | .each | .self => true
          | _ => false)
        !(match i.counter with
          | some c => g.cnt c == 63
          | none => false) &&
        !(i.gated && (match t.gate with
          | some n => !s.fenceMet t n true
          | none => false)) &&
        !(i.inner.any fun j => acts && (s.held tok t i j b g || !(s.walksFor t (limPayload i) j).isEmpty)) &&
        !s.pairHeld t i b
      | _, _ => false))))

end Sys2Proof.Machine
end

