-- ==== Sys2Proof/Machine/Issue.lean ====
section
/-! DEFINITION. How an issue set runs an instruction: the checks of R36 in their order for each thread, the threads whose
guard is false, traps per thread (R37), group collectives whole or not at all (R130, R131), counters (R84), and what a
redundant pair makes of it (R315 to R319). -/

namespace Sys2Proof.Machine

/-- What R36 decides for a thread of an issue set. -/
inductive Verdict
  | trap (c : Cause)
  /-- not ready -/
  | held
  /-- the guard reads false -/
  | skip
  | go
  deriving DecidableEq, Repr

/-- The level at which a block runs (R16). -/
def State.levelOf (s : State) (bid : Nat) : Level :=
  match s.launchOf bid with
  | some l => l.level
  | none => .user

/-- `pref` never traps past step 3 of R36: with a register beyond the allocation it does nothing (R146). -/
def neverTraps (i : Instr) : Bool :=
  match i.inner with
  | some (.pref _ _ _ _) => true
  | _ => false

/-- Steps 1 to 4 of R36; a group collective in a trap handler is illegal (R372). -/
def State.verdictAt (s : State) (tok : Nat) (i : Instr) (t : Thread) : Verdict :=
  if !i.wf then .trap .illegalOp
  else if i.level == .handler && !t.inHandler then .trap .illegalOp
  else if i.collective && t.inHandler then .trap .illegalOp
  else if !levelAllows (s.levelOf t.bid) i.level then .trap .sysPriv
  else if !s.ready tok t i then .held
  else if !t.pred i.guard then .skip
  else if !t.covers i then (if neverTraps i then .skip else .trap .regRange)
  else .go

/-- The verdict for an issue that comes next. -/
def State.verdict (s : State) (i : Instr) (t : Thread) : Verdict := s.verdictAt s.nextId i t

/-- A trap without an address (R205). -/
def plainTrap (c : Cause) : TrapInfo := { cause := c, addr := 0, aux := 0 }

/-- A trap that a thread of an issue set has raised, with its PC and resume address. -/
structure Raised where
  key : ThreadKey
  pc : VAddr
  resume : VAddr
  info : DefTrap
  deriving DecidableEq, Repr

/-- Every trap of an issue set is taken after the other threads have completed, in ascending lane order (R37). -/
def State.raiseAll (s : State) (l : List Raised) : State := l.foldl (fun s r => s.takeTrap r.key r.pc r.resume r.info) s

/-- The issue set has issued; after the cycle's last one, the events of the core's cycle on barrier registers apply (R166). -/
def State.endIssue (s : State) (rest : List IssueSet) : State :=
  let core := (s.ports.head?).elim 0 IssueSet.core
  let s := { s with ports := rest }
  if rest.isEmpty then s.settleBars core else s

/-- Vector operations of the guard-true threads, in the function's meter (R440). -/
def State.countVec (s : State) (core bid n : Nat) : State :=
  if n = 0 then s
  else match s.launchOf bid with
    | some l => s.meter l.f (dieOf core) 5 n
    | none => s

/-- Every thread of the issue set takes one trap (R36, R95). -/
def State.trapSet (s : State) (x : TrapInfo) : Res :=
  match s.ports with
  | [] => .next s
  | p :: rest =>
    .next ((s.raiseAll (p.members.map fun k => { key := k, pc := p.pc, resume := p.pc, info := x.word })).endIssue rest)

/-! Instructions that act on their own thread alone. -/

/-- What the issue makes of one thread: `f` answers the thread with its PC moved, or a trap and how far the resume address lies
behind the trapping PC. -/
def State.actOn (s : State) (i : Instr) (f : Thread → Except (TrapInfo × Nat) Thread) (p : IssueSet) (t : Thread) : Thread :=
  if p.members.contains t.key then
    match s.verdict i t with
    | .go => (match f t with
      | .ok t' => t'
      | .error _ => t)
    | .skip => t.next i.len
    | _ => t
  else t

/-- The trap that a thread of the set raises, if any. -/
def State.raisedBy (s : State) (i : Instr) (f : Thread → Except (TrapInfo × Nat) Thread) (t : Thread) : Option Raised :=
  match s.verdict i t with
  | .trap c => some { key := t.key, pc := t.pc, resume := t.pc, info := (plainTrap c).word }
  | .go => (match f t with
    | .ok _ => none
    | .error (x, n) => some { key := t.key, pc := t.pc, resume := t.pc + BitVec.ofNat 64 n, info := x.word })
  | _ => none

/-- The threads of an issue set, in its order. -/
def State.membersOf (s : State) (p : IssueSet) : List Thread := p.members.filterMap s.thread?

/-- The issue of an instruction that may trap and acts on each thread's own record. -/
def State.eachTrap (s : State) (i : Instr) (f : Thread → Except (TrapInfo × Nat) Thread) : Res :=
  match s.ports with
  | [] => .next s
  | p :: rest =>
    let s1 := { s with threads := s.threads.map (s.actOn i f p) }
    let ran := (s.membersOf p).filter fun t => s.verdict i t == .go
    let s2 := if i.vecOps = 0 then s1 else ran.foldl (fun s t => s.countVec p.core t.bid i.vecOps) s1
    .next ((s2.raiseAll ((s.membersOf p).filterMap (s.raisedBy i f))).endIssue rest)

/-- The issue of an instruction that acts on each thread's own record without a trap of its own. -/
def State.each (s : State) (i : Instr) (f : Thread → Thread) : Res := s.eachTrap i fun t => .ok ((f t).next i.len)

/-! Redundant pairs. -/

/-- The registers and predicates of a forwarded result (R315, R316). -/
def fwdDst (i : Instr) : List Nat × List Nat :=
  match i.pairClass with
  | .forwarded | .result _ => (match i.inner with
    | some (.lunlock _ _) => ([], [])
    | some j => (((j.operands1.head?).map Opd.regs).getD [], j.ppreds)
    | none => ([], []))
  | _ => ([], [])

/-- The kind and size of a forwarded result (R316): the instruction's opcode; and the bytes of its access, or else the registers and predicates
that it writes. -/
def fwdKind (i : Instr) : Nat × Nat :=
  ((i.inner.map Instr.ctorIdx).getD 0, match i.inner with
    | some (.ld _ _ _ z _ _) => z.toNat
    | some (.ldC _ _ _ z _) => z.toNat
    | some (.ldAcq _ _ _ z _ _) => 2 + z.toNat
    | some (.fatom _ _ _ x _) => x.toNat
    | _ => 8 * (fwdDst i).1.length + (fwdDst i).2.length)

/-- The leader appends an entry for a thread's instruction to the twin's part of the load-value queue (R316). -/
def State.reserve (s : State) (t : Thread) (e : LvqEntry) : State :=
  match s.block? t.bid with
  | some b => if b.role == .lead then s.updThread { bid := b.mate, tid := t.tid } fun u => { u with lvq := u.lvq ++ [e] } else s
  | none => s

/-- Whether a result of the issue `tok` is still to come for a thread. -/
def State.resultPending (s : State) (t : Thread) (tok : Nat) : Bool :=
  s.loads.any (fun l => l.tok == tok && l.bid == t.bid && l.tid == t.tid) ||
  s.nps.any (fun l => l.tok == tok && l.bid == t.bid && l.tid == t.tid) ||
  (match s.group? t.bid t.grp with
  | some g => g.queue.any (fun e => e.tok == tok && e.tid == t.tid && e.returns) || g.req.isSome
  | none => false)

/-- The leader's performance of a matched instruction without a result is over: its issue, or its trap, reaches the twin that stands at it
(R315). -/
def State.tellTwin (s : State) (t : Thread) (tok : Nat) (trap : Option DefTrap) : State :=
  match s.block? t.bid with
  | some b => if b.role == .lead then s.updThread { bid := b.mate, tid := t.tid } fun u => { u with outcome := some (tok, trap) } else s
  | none => s

/-- The leader has performed an instruction: its result, if it is there, and its counter's issue go to the twin. -/
def State.forwardIssue (s : State) (i : Instr) (t : Thread) (tok : Nat) : State :=
  match i.pairClass with
  | .each | .self => s
  | .skip => s.tellTwin t tok none
  | _ =>
    let (rs, ps) := fwdDst i
    let s := s.reserve t { id := tok, kind := fwdKind i, filled := false, vals := [], pred := false, trap := none, arrived := false }
    if s.resultPending t tok then s
    else match s.thread? t.key with
      | some u => s.forward t.key tok (rs.map fun n => BitVec.ofNat 32 (u.reg n)) (ps.any u.pred) (!(rs.isEmpty && ps.isEmpty)) none
      | none => s.forward t.key tok [] false false none

/-- A trap of a forwarded or compared operation reaches the twin too (R315). -/
def State.forwardTrap (s : State) (i : Instr) (t : Thread) (tok : Nat) (x : DefTrap) : State :=
  match i.pairClass with
  | .each | .self => s
  | .skip => s.tellTwin t tok (some x)
  | _ =>
    (s.reserve t { id := tok, kind := fwdKind i, filled := false, vals := [], pred := false, trap := none, arrived := false }).forward t.key tok [] false
      false (some x)

/-- A trailing thread's destinations get an entry's value and predicate, and the thread moves on (R315). -/
def Thread.takeVals (t : Thread) (i : Instr) (e : LvqEntry) : Thread :=
  let (rs, ps) := fwdDst i
  let t := (rs.zip e.vals).foldl (fun u x => u.setReg x.1 x.2.toNat) t
  (ps.foldl (fun u p => u.setPred p e.pred) t).next i.len

/-- The trailer takes its next forwarded entry (R316), or the outcome of the instruction at which it stands: the leader's issue, which its counter
waits for, and its trap (R315). -/
def State.takeEntry (s : State) (i : Instr) (t : Thread) : Option (Nat × Option DefTrap) × State :=
  match i.pairClass, t.lvq with
  | .skip, _ => (t.outcome, s.updThread t.key fun u => { u with outcome := none }.next i.len)
  | _, [] => (none, s)
  | _, e :: r =>
    (some (e.id, e.trap), s.updThread t.key fun u => { u with lvq := r }.takeVals i e)

/-- The address that a compared access names, 0 for an engine command (R318). -/
def entryAddr (i : Instr) (t : Thread) : VAddr :=
  match i.inner with
  | some (.st _ _ a z _ o) => mAddr t a.toNat (limPayload i) o (szBytes z.toNat)
  | some (.stRel _ _ a z _ o) => mAddr t a.toNat (limPayload i) o (szBytes (2 + z.toNat))
  | some (.redAdd _ a _) | some (.redAddB64 _ a _) | some (.redFadd _ a _) | some (.redFadd2c _ a _) | some (.redMinS _ a _)
  | some (.redMaxS _ a _) | some (.redAnd _ a _) | some (.redOr _ a _) | some (.ltry _ _ a) | some (.lunlock _ a)
  | some (.llock _ _ a _) | some (.fst _ _ _ a _) | some (.fwclose _ _ _ a _) | some (.fatom _ _ a _ _) => t.addr a.toNat
  | some (.atomMinS _ _ a _) | some (.atomMinZ _ _ a _) | some (.atomMaxS _ _ a _) | some (.atomMaxZ _ _ a _)
  | some (.atomAdd _ _ a _) | some (.atomAddB64 _ _ a _) | some (.atomExch _ _ a _) | some (.atomExchB64 _ _ a _)
  | some (.atomCas _ _ a _) | some (.atomCasB64 _ _ a _) | some (.atomFadd _ _ a _) | some (.atomFadd2c _ _ a _) =>
    t.addr a.toNat
  | _ => 0

/-- The immediate fields of a compared instruction that its opcode comprises (R317). -/
def signedImms : Instr → List Nat
  | .fst _ z w _ _ | .fwclose _ z w _ _ => [z.toNat, w.toNat]
  | .st _ _ _ z y _ => [z.toNat, y.toNat]
  | .stRel _ _ _ z y _ => [z.toNat, y.toNat]
  | .hbarArrive _ _ l n => [l.toNat, n.toNat]
  | .cpLaneB32 _ _ _ z r q | .cpLaneB64 _ _ _ z r q | .cpLaneB128 _ _ _ z r q => [z.toNat, r.toNat, q.toNat]
  | .fatom _ _ _ x _ => [x.toNat]
  | .llock _ _ _ c => [c.toNat]
  | .tfill _ n _ | .tfillDq _ n _ | .cfetch _ n _ => [n.toNat]
  | .aload _ n _ => [n.toNat]
  | .tdrain _ n _ | .tdrainAdd _ n _ => [n.toNat]
  | _ => []

/-- Whether an instruction with a result also reads its destination register, so that its entry signs that too (R149, R200, R317). -/
def readsDst : Instr → Bool
  | .atomCas _ _ _ _ | .atomCasB64 _ _ _ _ | .fatom _ _ _ _ _ => true
  | _ => false

/-- What an entry of the compare buffer signs (R317): the opcode, `%tid`, the address, the byte mask as the number of bytes, and the data. The
model keeps the signed values whole, so that two entries agree only where they sign the same (log entry 95). A `ckpt` makes no entry (R315). -/
def Thread.signature (t : Thread) (i : Instr) : List Nat :=
  match i.inner with
  | none => []
  | some (.ckpt _) => []
  | some j =>
    let srcs := match i.pairClass with
      | .result _ => if readsDst j then j.operands1 else j.operands1.drop 1
      | _ => j.operands1
    let narrow := match j with
      | .st _ d _ z _ _ => if z.toNat < 2 then some (2 ^ z.toNat, t.reg d.toNat % 2 ^ (8 * 2 ^ z.toNat)) else none
      | _ => none
    [j.ctorIdx, t.tid, (entryAddr i t).toNat] ++ signedImms j ++ (match narrow with
      | some (n, v) => [n, v]
      | none => (srcs.flatMap Opd.regs).map t.reg)

/-- What a pair makes of a guard-true thread's issue. -/
inductive PairAct
  | perform | park | take
  deriving DecidableEq, Repr

def State.pairAct (s : State) (i : Instr) (t : Thread) : PairAct :=
  match s.block? t.bid with
  | none => .perform
  | some b =>
    match b.role, i.pairClass with
    | .solo, _ => .perform
    | _, .each => .perform
    | .lead, .forwarded => .perform
    | .trail, .forwarded => .take
    | .lead, _ => if t.wait == .matched then .perform else .park
    | .trail, .self => if t.wait == .matched then .perform else .park
    | .trail, _ => if t.wait == .matched then .take else .park

/-- A thread's compare entry, behind those that its group has made: the thread stands at its instruction until the twin's entry arrives (R317, log
entry 95). At a `ckpt` it waits for its twin without an entry (R202). -/
def State.park (s : State) (i : Instr) (tok : Nat) (t : Thread) : State :=
  let sig := t.signature i
  let pos := (s.group? t.bid t.grp).elim 0 fun g => g.entries
  let s := s.updThread t.key fun u => { u with
    wait := .compare, sig, sigAt := s.clk, sigId := tok, sigImp := i.pairClass == .result true, sigPos := pos }
  if sig.isEmpty then s else s.updGroup t.bid t.grp fun g => { g with entries := g.entries + 1 }

/-- An implicit checkpoint is under way in both groups of a pair (R319). -/
def State.startCkpt (s : State) (i : Instr) (t : Thread) : State :=
  match i.pairClass, s.block? t.bid with
  | .result true, some b =>
    if b.role == .solo then s
    else (s.updGroup t.bid t.grp fun g => { g with ckpting := true }).updGroup b.mate t.grp fun g => { g with ckpting := true }
  | _, _ => s

/-! Instructions with effects beyond the thread. -/

/-- What the meaning answers for one thread: the state after it, with the thread's PC moved; not ready after all; or a trap,
with how far the resume address lies behind. -/
inductive TRes
  | ok (s : State)
  | held
  | trap (x : TrapInfo) (resume : Nat)
  deriving DecidableEq, Repr

/-- A run over an issue set: the state, the traps raised, and the groups, by block and index, that issued a guard-true thread. -/
structure Run where
  s : State
  raised : List Raised
  went : List (Nat × Nat)
  /-- trailing groups and the leader's issue that their counters wait for -/
  mirrored : List (Nat × Nat × Nat)
  deriving DecidableEq, Repr

/-- One thread's issue, with a pair's part. -/
def Run.one (i : Instr) (tok : Nat) (f : State → Thread → TRes) (r : Run) (k : ThreadKey) : Run :=
  match r.s.thread? k with
  | none => r
  | some t =>
    let bad (x : DefTrap) (n : Nat) : Run :=
      { r with raised := r.raised ++ [{ key := k, pc := t.pc, resume := t.pc + BitVec.ofNat 64 n, info := x }] }
    match r.s.verdictAt tok i t with
    | .trap c => bad (plainTrap c).word 0
    | .held => r
    | .skip => { r with s := r.s.updThread k fun t => t.next i.len }
    | .go =>
      match r.s.pairAct i t with
      | .park => { r with s := r.s.park i tok t }
      | .take =>
        let (e, s) := r.s.takeEntry i t
        (match e with
        | some e => (match e.2 with
          | some d =>
            let r1 := bad d 0
            { r1 with s := s.updThread k fun u => { u with pc := t.pc } }
          | none => { r with s, mirrored := r.mirrored ++ [(t.bid, t.grp, e.1)] })
        | none => r)
      | .perform =>
        match f r.s t with
        | .held => r
        | .trap x n =>
          let r1 := bad x.word n
          { r1 with s := r1.s.forwardTrap i t tok x.word }
        | .ok s =>
          { r with s := (s.forwardIssue i t tok).startCkpt i t,
                   went := if r.went.contains (t.bid, t.grp) then r.went else r.went ++ [(t.bid, t.grp)] }

/-- Each group that issued a guard-true thread counts the issue once (R84); a trailing group's counter follows the leader's. -/
def Run.count (i : Instr) (tok : Nat) (r : Run) : State :=
  match i.counter with
  | none => r.s
  | some c =>
    let s := r.went.foldl (fun s w => (s.updGroup w.1 w.2 fun g => g.addCnt c 1).settleCnt w.1 w.2 c tok) r.s
    r.mirrored.foldl (fun s (m : Nat × Nat × Nat) =>
      match s.block? m.1, s.group? m.1 m.2.1 with
      | some b, some g =>
        if s.inFlight b.mate m.2.1 c m.2.2 && !g.mirrors.contains (cntCode c, m.2.2) then
          s.updGroup m.1 m.2.1 fun g => { g.addCnt c 1 with mirrors := g.mirrors ++ [(cntCode c, m.2.2)] }
        else s
      | _, _ => s) s

/-- The issue of an instruction whose effects reach beyond the thread: its threads act in ascending lane order (R143), under the
issue number `tok`. -/
def State.inTurn (s : State) (i : Instr) (f : Nat → State → Thread → TRes) : Res :=
  match s.ports with
  | [] => .next s
  | p :: rest =>
    let tok := s.nextId
    let r := p.members.foldl (Run.one i tok (f tok)) { s := { s with nextId := tok + 1 }, raised := [], went := [], mirrored := [] }
    .next (((r.count i tok).raiseAll r.raised).endIssue rest)

/-! Group collectives (R129 to R131). -/

/-- What a collective answers for a group: the state after it, not ready, or traps of some participants. -/
inductive GRes
  | ok (s : State)
  /-- the group waits in the instruction, which counts later -/
  | park (s : State)
  | held
  | trap (l : List (ThreadKey × TrapInfo))
  deriving DecidableEq, Repr

/-- Whether a thread stands at a collective instruction. -/
def State.atCollective (s : State) (t : Thread) : Bool :=
  match s.fetchFor t with
  | .ok j => j.collective && j.wf && !t.inHandler
  | _ => false

/-- Whether the collective at `pc` fires for a group (R130, R131): every live thread stands at a collective, none at a lower PC,
and the set holds all that stand at this one. -/
def State.fires (s : State) (bid grp : Nat) (p : IssueSet) : Bool :=
  let live := s.live bid grp
  live.all fun t => s.atCollective t && p.pc.toNat ≤ t.pc.toNat && (t.pc != p.pc || p.members.contains t.key)

/-- The threads of a group that stand at the firing PC, in ascending `%tid` order. -/
def State.standers (s : State) (bid grp : Nat) (p : IssueSet) : List Thread :=
  (s.membersOf p).filter fun t => t.bid == bid && t.grp == grp

/-- LOCK_ORDER and LOCK_LIMIT traps are logged once for their group and instruction (R296). -/
def State.logLockTrap (s : State) (i : Instr) (bid grp : Nat) (l : List (ThreadKey × TrapInfo)) : State :=
  let cls := match i.inner with
    | some (.llock _ _ _ c) => c.toNat
    | _ => 0
  match l with
  | [] => s
  | (_, x) :: _ =>
    let put (ev : Nat) : State := s.lockEvent (s.envOf bid).f ev grp cls ((s.block? bid).elim 0 fun b => b.blk) x.addr
    match x.cause with
    | .lockOrder => put 2
    | .lockLimit => put 3
    | _ => s

/-- Every stander of a group moves past the collective, but for those that wait in it (R130). -/
def State.advanceGroup (s : State) (i : Instr) (pc : VAddr) (bid grp : Nat) (ts : List Thread) : State :=
  { s with threads := s.threads.map fun (t : Thread) =>
      if t.bid == bid && t.grp == grp && t.pc == pc && t.wait != Wait.lock && t.wait != Wait.gang && t.wait != Wait.sparse &&
        (ts.any fun (u : Thread) => u.key == t.key && u.icount == t.icount) then
        (if t.wait = Wait.unlock then { t.next i.len with wait := .unlock } else t.next i.len) else t }

/-- The traps that the checks of R36 raise in the threads of a group. -/
def State.checkTraps (s : State) (tok : Nat) (i : Instr) (ts : List Thread) : List (ThreadKey × TrapInfo) :=
  ts.filterMap fun t => match s.verdictAt tok i t with
    | .trap c => some (t.key, plainTrap c)
    | _ => none

/-- Every trap of a rendezvous: those of the checks before the instruction's own, and those that its own checks raise in the other
participants, in the threads' order (R37). -/
def GRes.allTraps (ts : List Thread) (before : List (ThreadKey × TrapInfo)) (own : GRes) : List (ThreadKey × TrapInfo) :=
  let l := before ++ (match own with
    | .trap l => l
    | _ => [])
  ts.flatMap fun t => l.filter fun x => x.1 == t.key

/-- Whether a trailing copy takes what its leader's performance of an instruction brings (R315). -/
def State.follows (s : State) (i : Instr) (bid : Nat) : Bool :=
  (s.block? bid).any fun b => b.role == .trail && (match i.pairClass with
  | .each | .self => false
  | _ => true)

/-- The traps of a rendezvous in which some threads fail a check before the instruction's own, once they are settled (R37): a trailing copy has no
lock state of its own and takes the other threads' from its leader (R315). `f` gives the instruction's own for the threads that pass. -/
def State.mixedTraps (s : State) (i : Instr) (tok bid grp : Nat) (ts part : List Thread) (before : List (ThreadKey × TrapInfo))
    (f : State → Nat → Nat → List Thread → GRes) : Option (List (ThreadKey × DefTrap) × State) :=
  if s.follows i bid then
    if part.any fun t => t.outcome.isNone then none
    else
      let told := part.filterMap fun t => (t.outcome.bind fun x => x.2).map fun d => (t.key, d)
      some ((before.map fun x => (x.1, x.2.word)) ++ told, part.foldl (fun s t => s.updThread t.key fun u => { u with outcome := none }) s)
  else
    let all := (if part.isEmpty then GRes.held else f s bid grp part).allTraps ts before
    let own := all.filter fun x => part.any fun t => t.key == x.1
    let tell (s : State) (t : Thread) : State := s.tellTwin t tok ((own.find? fun x => x.1 == t.key).map fun x => x.2.word)
    let s := if (match i.pairClass with
      | .each | .self => false
      | _ => true) then part.foldl tell s else s
    some (all.map fun x => (x.1, x.2.word), s.logLockTrap i bid grp own)

/-- One group's part of a collective issue. `f` gets the issue number, the state, and the participants; it moves no PC. Where a thread
fails a check, no thread performs anything, and each that fails one takes its own trap (R37). -/
def Run.group (i : Instr) (tok : Nat) (p : IssueSet) (f : State → Nat → Nat → List Thread → GRes) (r : Run) (bg : Nat × Nat) : Run :=
  let raise (l : List (ThreadKey × DefTrap)) (r : Run) : Run := { r with raised := r.raised ++ l.map fun x =>
    { key := x.1, pc := p.pc, resume := p.pc, info := x.2 } }
  let bad (l : List (ThreadKey × TrapInfo)) (r : Run) : Run := raise (l.map fun x => (x.1, x.2.word)) r
  let ts := r.s.standers bg.1 bg.2 p
  let traps := r.s.checkTraps tok i ts
  if !i.wf || (ts.any fun t => t.inHandler) then bad traps r
  else if !r.s.fires bg.1 bg.2 p || (ts.any fun t => r.s.verdictAt tok i t == .held) then r
  else
    let part := ts.filter fun t => r.s.verdictAt tok i t == .go
    if !traps.isEmpty then
      match r.s.mixedTraps i tok bg.1 bg.2 ts part traps f with
      | some (all, s) => raise all { r with s }
      | none => r
    else
    let advance (s : State) : State := s.advanceGroup i p.pc bg.1 bg.2 ts
    match part with
    | [] => { r with s := advance r.s }
    | t0 :: _ =>
      match r.s.pairAct i t0 with
      | .park => { r with s := part.foldl (fun s t => s.park i tok t) r.s }
      | .take => { r with s := advance (part.foldl (fun s t => (s.takeEntry i t).2) r.s) }
      | .perform =>
        match f r.s bg.1 bg.2 part with
        | .held => r
        | .park s => { r with s }
        | .trap l =>
          let r := { r with s := r.s.logLockTrap i bg.1 bg.2 l }
          -- the pair's traps reach both twins, and the others issue anew (R315)
          if t0.wait == .matched then
            let mate := (match r.s.block? bg.1 with
              | some b => b.mate
              | none => bg.1)
            let twin (k : ThreadKey) : ThreadKey := { bid := mate, tid := k.tid }
            let s1 := part.foldl (fun s t => (s.updThread t.key fun u => { u with wait := .none }).updThread (twin t.key)
              fun u => { u with wait := .none }) r.s
            bad (l ++ l.map fun x => (twin x.1, x.2)) { r with s := s1 }
          else bad l r
        | .ok s =>
          { r with s := advance (part.foldl (fun s t => (s.forwardIssue i t tok).startCkpt i t) s),
                   went := r.went ++ [bg] }

/-- The threads of the group that stand at the instruction and sleep in it wait (R158, R160, R187). -/
def State.standAt (s : State) (bid grp : Nat) (pc : VAddr) (w : Wait) (sleeps : Thread → Bool) : State :=
  { s with threads := s.threads.map fun (t : Thread) =>
      if t.bid == bid && t.grp == grp && t.pc == pc && !t.inHandler && sleeps t then { t with wait := w, age := 0 } else t }

/-- The groups of an issue set. -/
def State.groupsOf (s : State) (p : IssueSet) : List (Nat × Nat) :=
  (s.membersOf p).foldl (fun l t => if l.contains (t.bid, t.grp) then l else l ++ [(t.bid, t.grp)]) []

/-- The issue of a group collective. -/
def State.together (s : State) (i : Instr) (f : Nat → State → Nat → Nat → List Thread → GRes) : Res :=
  match s.ports with
  | [] => .next s
  | p :: rest =>
    let tok := s.nextId
    let r := (s.groupsOf p).foldl (Run.group i tok p (f tok)) { s := { s with nextId := tok + 1 }, raised := [], went := [], mirrored := [] }
    .next (((r.count i tok).raiseAll r.raised).endIssue rest)

end Sys2Proof.Machine
end

