-- ==== Sys2Proof/Machine/Control.lean ====
section
/-! DEFINITION. Transfers of control, the end and the delay of threads, register windows, spawn, the code overlay, special
values and `wait` (R27, R95 to R111, R170). -/

namespace Sys2Proof.Machine

/-- Whether the granule of an address has landed for a thread's block; an address at or above 2^52 never lands (R95). -/
def State.landed (s : State) (t : Thread) (a : VAddr) : Bool :=
  match s.block? t.bid with
  | none => false
  | some b => match s.launch? b.lid with
    | none => false
    | some l => a.toNat / 2 ^ 52 == 0 && (s.core b.core).landedAt l.tag a

/-- A trap with an address (R205). -/
def addrTrap (c : Cause) (a : VAddr) : TrapInfo := { cause := c, addr := a, aux := 0 }

/-- A transfer to a code address: CODE_ABSENT where it has not landed (R95). `t'` is the thread with the link written. -/
def State.transfer (s : State) (t t' : Thread) (a : VAddr) : Except (TrapInfo × Nat) Thread :=
  if s.landed t a then .ok (t'.goto a) else .error (addrTrap .codeAbsent a, 0)

/-- `bra` and `jfence` (R96); a `jfence` whose target is in flight is not ready. -/
def State.bra (s : State) (i : Instr) (o : BitVec 23) : Res :=
  s.eachTrap i fun t => s.transfer t t (braTarget t.pc (limPayload i) o)

/-- The link of a call (R97). -/
def linkOf (t : Thread) (len : Nat) : Nat := (t.pc + BitVec.ofNat 64 len).toNat

/-- `call` (R96, R97). -/
def State.call (s : State) (i : Instr) (o : BitVec 23) : Res :=
  s.eachTrap i fun t => s.transfer t (t.setPair 0 (linkOf t i.len)) (braTarget t.pc (limPayload i) o)

/-- R96. -/
def execBra (g : BitVec 3) (o : BitVec 23) (s : State) : Res := s.bra (.bra g o) o

/-- R96, R97. -/
def execCall (g : BitVec 3) (o : BitVec 23) (s : State) : Res := s.call (.call g o) o

/-- R96. -/
def execJfence (g : BitVec 3) (o : BitVec 23) (s : State) : Res := s.bra (.jfence g o) o

/-- An indirect transfer: MISALIGNED, then CODE_ABSENT (R17, R99). -/
def State.indirect (s : State) (t t' : Thread) (a : VAddr) : Except (TrapInfo × Nat) Thread :=
  if a.toNat % 4 ≠ 0 then .error (addrTrap .misaligned a, 0) else s.transfer t t' a

/-- R99. -/
def execJmp (g : BitVec 3) (a : BitVec 7) (s : State) : Res :=
  s.eachTrap (.jmp g a) fun t => s.indirect t t (t.addr a.toNat)

/-- R99: the target is read before the link is written. -/
def execCalli (g : BitVec 3) (d : BitVec 7) (a : BitVec 7) (s : State) : Res :=
  s.eachTrap (.calli g d a) fun t => s.indirect t (t.setPair d.toNat (linkOf t 4)) (t.addr a.toNat)

/-- R99: exactly the effect of `jmp`. -/
def execRet (g : BitVec 3) (a : BitVec 7) (s : State) : Res :=
  s.eachTrap (.ret g a) fun t => s.indirect t t (t.addr a.toNat)

/-- R103. -/
def execNop (g : BitVec 3) (s : State) : Res := s.each (.nop g) fun t => t

/-- R100, R82: the thread leaves; what it has issued still completes. -/
def execExit (g : BitVec 3) (s : State) : Res :=
  s.inTurn (.exit g) fun _ s t => .ok { s with threads := s.threads.filter fun (u : Thread) => u.key != t.key }

/-- R101: not ready for the 64 cycles that follow. -/
def execYield (g : BitVec 3) (s : State) : Res :=
  s.eachTrap (.yield g) fun t => .ok { t.next 4 with wait := .yielding (s.clk + 64) }

/-- R102. -/
def execBrk (g : BitVec 3) (d : BitVec 7) (s : State) : Res :=
  s.eachTrap (.brk g d) fun _ => .error ({ cause := .breakpoint, addr := 0, aux := BitVec.ofNat 32 d.toNat }, 4)

/-- The new window base of `wbase`, if it is legal (R104). -/
def newBase (m : BitVec 1) (v : BitVec 4) (t : Thread) : Option Nat :=
  let w : Int := if m = 0 then v.toNat else t.wb + sgn 4 v.toNat
  if 0 ≤ w ∧ w < t.nb then some w.toNat else none

/-- R104. -/
def execWbase (g : BitVec 3) (m : BitVec 1) (v : BitVec 4) (s : State) : Res :=
  s.eachTrap (.wbase g m v) fun t =>
    match newBase m v t with
    | some w => .ok ({ t with wb := w }.next 4)
    | none => .error (plainTrap .regRange, 0)

/-- A thread takes `n` blocks, whose registers read 0 (R105). -/
def Thread.grow (t : Thread) (n : Nat) : Thread :=
  { t with nb := t.nb + n, regs := t.regs.filter fun e => e.1 < 16 * t.nb }

/-- R105: the blocks at once where no request queues on the lane and they are free; else the request queues. -/
def execRegacq (g : BitVec 3) (n : BitVec 4) (s : State) : Res :=
  s.inTurn (.regacq g n) fun _ s t =>
    match s.block? t.bid with
    | none => .held
    | some b =>
      let c := s.core b.core
      if 16 < t.nb + n.toNat then .trap (plainTrap .regRange) 0
      else if !(c.regq.any fun r => r.1 == t.lane) && n.toNat ≤ s.freeRegs b.core t.lane then
        .ok (s.updThread t.key fun t => (t.grow n.toNat).next 4)
      else
        .ok ((s.setCore b.core { c with regq := c.regq ++ [(t.lane, t.key, n.toNat)] }).updThread t.key
          fun t => { t with wait := .regacq, age := 0 })

/-- R105. -/
def execRegacqTry (g : BitVec 3) (d : BitVec 3) (n : BitVec 4) (s : State) : Res :=
  s.inTurn (.regacqTry g d n) fun _ s t =>
    match s.block? t.bid with
    | none => .held
    | some b =>
      if 16 < t.nb + n.toNat then .trap (plainTrap .regRange) 0
      else if !((s.core b.core).regq.any fun r => r.1 == t.lane) && n.toNat ≤ s.freeRegs b.core t.lane then
        .ok (s.updThread t.key fun t => ((t.grow n.toNat).setPred d.toNat true).next 4)
      else .ok (s.updThread t.key fun t => (t.setPred d.toNat false).next 4)

/-- R106: the contents of the released blocks are lost. -/
def execRegrel (g : BitVec 3) (n : BitVec 4) (s : State) : Res :=
  s.eachTrap (.regrel g n) fun t =>
    if t.nb < n.toNat + 1 || t.nb - n.toNat ≤ t.wb then .error (plainTrap .regRange, 0)
    else .ok ({ t with nb := t.nb - n.toNat, regs := t.regs.filter fun e => e.1 < 16 * (t.nb - n.toNat) }.next 4)

/-- A pool with one more record, behind which its `spawn`'s release stands (R108); an empty one starts its timer (R107, R218). -/
def Pool.add (p : Pool) (now spawntime : Nat) (a : Arriver) (r : Word × Word) : Pool :=
  if p.recs.isEmpty then
    { p with recs := [r], timer := if spawntime = 0 then none else some (now + spawntime), expired := false, first := a.before, before := [a] }
  else { p with recs := p.recs ++ [r], before := p.before ++ [a] }

/-- The pool that takes a record: the one with the key, else the lowest free number (R107, R217). -/
def Core.poolFor (c : Core) (bid : Nat) (e : VAddr) : Nat × Pool :=
  match c.pools.find? fun p => p.2.bid == bid && p.2.entry == e with
  | some p => p
  | none =>
    (((List.range 8).find? fun n => !(c.pools.any fun p => p.1 == n)).getD 0,
     { bid, entry := e, recs := [], timer := none, expired := false, first := 0, before := [] })

def Pool.reset : Pool := { bid := 0, entry := 0, recs := [], timer := none, expired := false, first := 0, before := [] }

/-- A pool's timer moved by some cycles: an image holds the cycles that remain (R217, R380). -/
def Pool.shift (p : Pool) (d : Int) : Pool := { p with timer := p.timer.map fun (x : Nat) => (x + d).toNat }

/-- The record that a thread's `spawn` offers, with its PC and entry (R107). -/
def Thread.offer (t : Thread) (d a : Nat) : VAddr × VAddr × Word × Word :=
  (t.pc, t.addr a, BitVec.ofNat 32 (t.reg d), BitVec.ofNat 32 (t.reg (d + 1)))

/-- A thread's record goes into the pool of its core that takes it (R217): no state where none does. -/
def State.offer (s : State) (t : Thread) (d a : Nat) : Option State :=
  let e := t.addr a
  match s.block? t.bid, s.launchOf t.bid with
  | some b, some l =>
    let c := s.core b.core
    if !c.poolTakes t.bid e then none
    else
      let (n, p) := c.poolFor t.bid e
      let p := p.add s.clk l.record.spawntime.toNat (s.arriver t) (BitVec.ofNat 32 (t.reg d), BitVec.ofNat 32 (t.reg (d + 1)))
      some ((s.setCore b.core { c with pools := Tab.set (fun _ => Pool.reset) c.pools n p }).updThread t.key fun t => { t with stalled := none }.next 4)
  | _, _ => none

/-- R107, R108: the record carries what comes before its child. -/
def execSpawn (g : BitVec 3) (d : BitVec 7) (a : BitVec 7) (s : State) : Res :=
  s.inTurn (.spawn g d a) fun _ s t =>
    if (t.addr a.toNat).toNat % 4 ≠ 0 then .trap (addrTrap .misaligned (t.addr a.toNat)) 0
    else match s.offer t d.toNat a.toNat with
      | some s => .ok s
      | none => .held

/-- R109, R110: checks in the order of R109; a granule that has landed or is in flight in a segment that the block may name is not
fetched again. -/
def execCfetch (g : BitVec 3) (n : BitVec 6) (a : BitVec 7) (s : State) : Res :=
  s.inTurn (.cfetch g n a) fun _ s t =>
    let G := t.addr a.toNat
    if G.toNat % 4096 ≠ 0 then .trap (addrTrap .misaligned G) 0
    else match s.block? t.bid with
      | none => .held
      | some b =>
        match s.launch? b.lid with
        | none => .held
        | some l =>
          if !l.mayName n.toNat then .trap (addrTrap .accessDenied G) 0
          else match s.resolve (s.envOf t.bid) .cfetch G 4096 with
            | .error x => .trap x 0
            | .ok src =>
              let c := s.core b.core
              let seg : Seg := {
                granule := G.toNat / 4096, tag := l.tag, landed := false, again := false, lid := l.lid, src, id := s.nextId, after := some (s.arriver t),
                reader := if b.role == .trail then some b.mateCore else none }
              let s := match c.segFor l (G.toNat / 4096) with
                | some (k, x) => if x.reader.isNone || b.role == Role.trail then s
                  -- a fetch that waited for another pair's leader is a leader's own now (R315)
                  else s.setCore b.core { c with segs := Tab.set (fun _ => Seg.empty) c.segs k { x with reader := none } }
                | none => s.setCore b.core { c with segs := Tab.set (fun _ => Seg.empty) c.segs n.toNat seg }
              .ok (s.updThread t.key fun t => t.next 4)

/-- A special value (R27). -/
def State.special (s : State) (t : Thread) (code : Nat) : Nat :=
  let b := s.block? t.bid
  let core := (b.map fun b => b.core).getD 0
  match code with
  | 0 => t.tid
  | 1 => t.lane
  | 2 => t.grp
  | 3 => (b.map fun b => b.blk).getD 0
  | 4 => core
  | 5 => quadOf core
  | 6 => dieOf core
  | 7 => (s.ownVdn (s.envOf t.bid).f).getD 0xFFFFFFFF
  | _ => s.clk

/-- R93, R27. -/
def execMovSv (g : BitVec 3) (d : BitVec 7) (a : BitVec 7) (s : State) : Res :=
  s.inTurn (.movSv g d a) fun _ s t =>
    let v := s.special t a.toNat
    .ok (s.updThread t.key fun t => (if a.toNat = 8 then t.setPair d.toNat v else t.setReg d.toNat v).next 4)

/-- R170: a thread whose limits are not met is not ready. -/
def execWait (g : BitVec 3) (l st c : BitVec 6) (t : BitVec 5) (s : State) : Res := s.each (.wait g l st c t) fun t => t

end Sys2Proof.Machine
end

