-- ==== Sys2Proof/Machine/Flags.lean ====
section
/-! DEFINITION. Number formats, rounding and the five conditions (R45 to R72): exact values, the rounding built-ins `rne`
and `sat` with the conditions they report, and the bounded special functions (R122, R123). A set of conditions is a flag
word's low five bits: NV, DZ, OF, UF, NX from bit 4 to bit 0 (R60). -/

namespace Sys2Proof.Machine

/-- Conditions, as bits of the flag word (R60). -/
abbrev Conds := BitVec 5

def Conds.nv : Conds := 16
def Conds.dz : Conds := 8
def Conds.of : Conds := 4
def Conds.uf : Conds := 2
def Conds.nx : Conds := 1

/-- The floating-point formats (R47). -/
inductive Fmt
  | fp32 | fp16 | bf16 | e5m2 | e4m3 | e2m1
  deriving DecidableEq, Repr

/-- Exponent bits. -/
def Fmt.e : Fmt → Nat
  | .fp32 => 8 | .fp16 => 5 | .bf16 => 8 | .e5m2 => 5 | .e4m3 => 4 | .e2m1 => 2

/-- Fraction bits. -/
def Fmt.m : Fmt → Nat
  | .fp32 => 23 | .fp16 => 10 | .bf16 => 7 | .e5m2 => 2 | .e4m3 => 3 | .e2m1 => 1

def Fmt.bias : Fmt → Int
  | .fp32 => 127 | .fp16 => 15 | .bf16 => 127 | .e5m2 => 15 | .e4m3 => 7 | .e2m1 => 1

/-- The sign bit's place. -/
def Fmt.sign (f : Fmt) : Nat := f.e + f.m

/-- Whether the format has infinities (R47). -/
def Fmt.hasInf : Fmt → Bool
  | .e4m3 => false | .e2m1 => false | _ => true

/-- The code of the largest finite magnitude (R47). -/
def Fmt.maxCode : Fmt → Nat
  | .fp32 => 0x7F7FFFFF | .fp16 => 0x7BFF | .bf16 => 0x7F7F | .e5m2 => 0x7B | .e4m3 => 0x7E | .e2m1 => 0x7

/-- The canonical NaN (R49); E2M1 has none and takes +0 (R62). -/
def Fmt.nan : Fmt → Nat
  | .fp32 => 0x7FC00000 | .fp16 => 0x7E00 | .bf16 => 0x7FC0 | .e5m2 => 0x7E | .e4m3 => 0x7F | .e2m1 => 0

/-- The code of +∞ where the format has one. -/
def Fmt.infCode (f : Fmt) : Nat := (2 ^ f.e - 1) * 2 ^ f.m

/-- The rounding modes (R53). -/
inductive Mode
  | rn | rz | rp | rm
  deriving DecidableEq, Repr

/-- The mode of a two-bit field (R28). -/
def Mode.of (n : Nat) : Mode :=
  match n % 4 with
  | 0 => .rn | 1 => .rz | 2 => .rp | _ => .rm

/-- An exact value: a signed magnitude mag·2^exp, an infinity, or a NaN. `nan true` is a NaN whose use raises NV: a
signalling NaN, or the outcome of an invalid operation (R56). -/
inductive Val
  | num (neg : Bool) (mag : Nat) (exp : Int)
  | inf (neg : Bool)
  | nan (invalid : Bool)
  deriving DecidableEq, Repr

/-- The value of an encoding (R48, R49). -/
def Fmt.decode (f : Fmt) (w : Nat) : Val :=
  let neg := bit w f.sign
  let ex := bits w (f.sign - 1) f.m
  let fr := w % 2 ^ f.m
  let top := 2 ^ f.e - 1
  if ex = top && f.hasInf then
    if fr = 0 then .inf neg else .nan (!(bit w (f.m - 1)))
  else if ex = top && f = .e4m3 && fr = 7 then .nan false
  else if ex = 0 then .num neg fr (1 - f.bias - f.m)
  else .num neg (2 ^ f.m + fr) (ex - f.bias - f.m)

/-- An integer as an exact value. -/
def Val.ofInt (x : Int) : Val := .num (x < 0) x.natAbs 0

/-- The signed integer coefficient of a finite magnitude at an exponent not above its own. -/
def coeff (neg : Bool) (mag : Nat) (exp lo : Int) : Int :=
  let c : Int := (mag * 2 ^ (exp - lo).toNat : Nat)
  if neg then -c else c

/-- A finite value from a signed coefficient; `z` is the sign of a zero. -/
def Val.ofCoeff (c : Int) (exp : Int) (z : Bool) : Val :=
  if c = 0 then .num z 0 exp else .num (c < 0) c.natAbs exp

/-- The exact sum (R56): the mode only sets the sign of an exact zero. -/
def Val.add (m : Mode) : Val → Val → Val
  | .nan a, .nan b => .nan (a || b)
  | .nan a, _ => .nan a
  | _, .nan b => .nan b
  | .inf a, .inf b => if a = b then .inf a else .nan true
  | .inf a, _ => .inf a
  | _, .inf b => .inf b
  | .num na ma ea, .num nb mb eb =>
    let lo := min ea eb
    Val.ofCoeff (coeff na ma ea lo + coeff nb mb eb lo) lo (if na = nb then na else m = .rm)

/-- Negation of an exact value (a NaN keeps its kind). -/
def Val.neg : Val → Val
  | .num n m e => .num (!n) m e
  | .inf n => .inf (!n)
  | .nan i => .nan i

/-- The exact product (R56). -/
def Val.mul : Val → Val → Val
  | .nan a, .nan b => .nan (a || b)
  | .nan a, _ => .nan a
  | _, .nan b => .nan b
  | .inf a, .inf b => .inf (a != b)
  | .inf a, .num b m _ => if m = 0 then .nan true else .inf (a != b)
  | .num a m _, .inf b => if m = 0 then .nan true else .inf (a != b)
  | .num na ma ea, .num nb mb eb => .num (na != nb) (ma * mb) (ea + eb)

/-- The exact sum of several terms as one operation: NaN when a term is NaN, invalid when one of them is; invalid for
infinities of both signs; else the sum (R56, R120; log entry 14). -/
def Val.sum (m : Mode) (l : List Val) : Val :=
  let nans := l.filterMap fun v => match v with
    | .nan i => some i
    | _ => none
  if nans.isEmpty then
    match l with
    | [] => .num false 0 0
    | v :: t => t.foldl (Val.add m) v
  else .nan (nans.any id)

/-- floor(log₂ (mag·2^exp)) for a non-zero magnitude. -/
def expOf (mag : Nat) (exp : Int) : Int := mag.log2 + exp

/-- Rounds mag·2^exp to a multiple of 2^q: the multiple, and whether it differs (R53). -/
def roundAt (m : Mode) (neg : Bool) (mag : Nat) (exp q : Int) : Nat × Bool :=
  if q ≤ exp then (mag * 2 ^ (exp - q).toNat, false)
  else
    let sh := (q - exp).toNat
    let n := mag / 2 ^ sh
    let r := mag % 2 ^ sh
    let up := match m with
      | .rn => 2 * r > 2 ^ sh || (2 * r == 2 ^ sh && n % 2 == 1)
      | .rz => false
      | .rp => r != 0 && !neg
      | .rm => r != 0 && neg
    (if up then n + 1 else n, r != 0)

/-- The code of a finite magnitude n·2^q that the format holds, q being its ulp. -/
def Fmt.encodeMag (f : Fmt) (n : Nat) (q : Int) : Nat :=
  if n = 0 then 0
  else
    let e := expOf n q
    if e < 1 - f.bias then (n * 2 ^ (q - (1 - f.bias - f.m)).toNat)
    else
      let fr := if (q - (e - f.m)) ≥ 0 then n * 2 ^ (q - (e - f.m)).toNat else n / 2 ^ ((e - f.m) - q).toNat
      (e + f.bias).toNat * 2 ^ f.m + fr % 2 ^ f.m

/-- The sign bit of a code. -/
def Fmt.signBit (f : Fmt) (neg : Bool) : Nat := if neg then 2 ^ f.sign else 0

/-- The magnitude of the largest finite value, as a coefficient of its ulp. -/
def Fmt.maxMag (f : Fmt) : Nat × Int :=
  match f.decode f.maxCode with
  | .num _ m e => (m, e)
  | _ => (0, 0)

/-- n·2^q above the largest finite value. -/
def Fmt.above (f : Fmt) (n : Nat) (q : Int) : Bool :=
  let (m, e) := f.maxMag
  let lo := min q e
  coeff false n q lo > coeff false m e lo

/-- What a finite result that overflows becomes (R55). -/
def Fmt.overflow (f : Fmt) (m : Mode) (neg : Bool) : Nat :=
  let toInf := f.hasInf && (match m with
    | .rn => true
    | .rz => false
    | .rp => !neg
    | .rm => neg)
  f.signBit neg + (if toInf then f.infCode else f.maxCode)

/-- `rne(x, F, m)` (R53 to R56, R62), with the conditions it reports. -/
def rne (f : Fmt) (m : Mode) (x : Val) : Nat × Conds :=
  match x with
  | .nan i => if f = .e2m1 then (0, Conds.nv) else (f.nan, if i then Conds.nv else 0)
  | .inf neg =>
    if f = .e4m3 then (f.nan, Conds.nv)
    else if f = .e2m1 then (f.signBit neg + f.maxCode, Conds.of ||| Conds.nx)
    else (f.signBit neg + f.infCode, 0)
  | .num neg mag exp =>
    if mag = 0 then (f.signBit neg, 0)
    else
      let e := expOf mag exp
      let q := max (e - f.m) (1 - f.bias - f.m)
      let (n, inex) := roundAt m neg mag exp q
      if f.above n q then (f.overflow m neg, Conds.of ||| Conds.nx)
      else
        let (n', _) := roundAt m neg mag exp (e - f.m)
        let tiny := n' == 0 || expOf n' (e - f.m) < 1 - f.bias
        (f.signBit neg + f.encodeMag n q,
          if inex then Conds.nx ||| (if tiny then Conds.uf else 0) else 0)

/-- Integer destinations (R124). -/
structure IntFmt where
  bits : Nat
  signed : Bool
  deriving DecidableEq, Repr

def IntFmt.lo (f : IntFmt) : Int := if f.signed then -(2 ^ (f.bits - 1) : Nat) else 0
def IntFmt.hi (f : IntFmt) : Int := if f.signed then (2 ^ (f.bits - 1) : Nat) - 1 else (2 ^ f.bits : Nat) - 1

/-- The integer nearest under a mode, and whether it differs (R62). -/
def roundInt (m : Mode) (neg : Bool) (mag : Nat) (exp : Int) : Int × Bool :=
  let (n, inex) := roundAt m neg mag exp 0
  (if neg then -(n : Int) else n, inex)

/-- `sat(rne(x, F, m), F)` for an integer F (R58, R63): a value out of range raises NV alone (R61). -/
def toInt (f : IntFmt) (m : Mode) (x : Val) : Int × Conds :=
  match x with
  | .nan _ => (0, Conds.nv)
  | .inf neg => (if neg then f.lo else f.hi, Conds.nv)
  | .num neg mag exp =>
    let (n, inex) := roundInt m neg mag exp
    if n < f.lo then (f.lo, Conds.nv)
    else if n > f.hi then (f.hi, Conds.nv)
    else (n, if inex then Conds.nx else 0)

/-- `sat(x, F)` for a floating-point F (R63). -/
def satF (f : Fmt) (x : Val) : Val × Conds :=
  let (mm, me) := f.maxMag
  match x with
  | .nan i => if f = .e2m1 then (.num false 0 0, Conds.nv) else (.nan i, 0)
  | .inf neg => (.num neg mm me, Conds.of ||| Conds.nx)
  | .num neg mag exp => if f.above mag exp then (.num neg mm me, Conds.of ||| Conds.nx) else (x, 0)

/-- NV removes the NX of the same result (R61). -/
def settle (c : Conds) : Conds := if c &&& Conds.nv = 0 then c else c &&& 0x1E

/-- A floating-point conversion without `.sr` (R58, R127). -/
def cvtF (f : Fmt) (m : Mode) (sat : Bool) (x : Val) : Nat × Conds :=
  let (x', c) := if sat then satF f x else (x, 0)
  let (y, c') := rne f m x'
  (y, settle (c ||| c'))

/-- One step of the stochastic state (R59). -/
def srStep (s : Nat) : Nat :=
  let s := (s ^^^ (s * 8192)) % 4294967296
  let s := s ^^^ (s / 131072)
  (s ^^^ (s * 32)) % 4294967296

/-- The stochastic rounding of R59 with the updated state `s`. -/
def cvtSr (f : Fmt) (sat : Bool) (s : Nat) (x0 : Val) : Nat × Conds :=
  let (x, c) := if sat then satF f x0 else (x0, 0)
  match x with
  | .num neg mag exp =>
    if mag = 0 then ((rne f .rn x).1, settle c)
    else
      let e := expOf mag exp
      let q := max (e - f.m) (1 - f.bias - f.m)
      let (nr, _) := roundAt .rn neg mag exp q
      if f.above nr q then
        let (y, c') := rne f .rn x
        (y, settle (c ||| c'))
      else
        let (t, inex) := roundAt .rz neg mag exp q
        -- the first 16 discarded bits; the ulp at |t| is 2^q, also when t is 0 or tiny
        let d := (roundAt .rz false mag exp (q - 16)).1 - t * 65536
        let (tm, te) := f.maxMag
        let atMax := decide (coeff false t q (min q te) ≥ coeff false tm te (min q te))
        let n := if inex && decide (d + s % 65536 ≥ 65536) && !atMax then t + 1 else t
        let (n', _) := roundAt .rz neg mag exp (e - f.m)
        let tiny := n' == 0 || expOf n' (e - f.m) < 1 - f.bias
        (f.signBit neg + f.encodeMag n q,
          settle (c ||| (if inex then Conds.nx ||| (if tiny then Conds.uf else 0) else 0)))
  | x =>
    let (y, c') := rne f .rn x
    (y, settle (c ||| c'))

/-- FP32 to E8M0 (R128): the code and the conditions. -/
def toE8m0 (m : Mode) (sat : Bool) (x : Val) : Nat × Conds :=
  match x with
  | .nan i => (0xFF, if i then Conds.nv else 0)
  | .inf neg =>
    if neg then (0xFF, Conds.nv)
    else if sat then (0xFE, Conds.of ||| Conds.nx) else (0xFF, Conds.nv)
  | .num neg mag exp =>
    if neg || mag = 0 then (0xFF, Conds.nv)
    else
      let k := expOf mag exp
      let pow := mag == 2 ^ mag.log2
      let j := if pow then k else match m with
        | .rz => k
        | .rm => k
        | .rp => k + 1
        | .rn => if 2 * mag ≥ 3 * 2 ^ mag.log2 then k + 1 else k
      let c : Int := j + 127
      let nx : Conds := if pow then 0 else Conds.nx
      if c < 0 then (0, Conds.uf ||| Conds.nx)
      else if c > 254 then (if sat then 0xFE else 0xFF, Conds.of ||| Conds.nx)
      else (c.toNat, nx)

/-- E8M0 to FP32 (R128). -/
def ofE8m0 (w : Nat) : Nat :=
  if w % 256 = 255 then 0x7FC00000 else (rne .fp32 .rn (.num false 1 ((w % 256 : Nat) - 127))).1

/-- The value of an E8M0 scale (R50). -/
def scaleVal (w : Nat) : Val := if w % 256 = 255 then .nan false else .num false 1 ((w % 256 : Nat) - 127)

/-! FP32 and packed arithmetic (R114 to R120). -/

/-- An element of a packed word (R52). -/
def elem (f : Fmt) (w i : Nat) : Nat := bits w ((f.sign + 1) * i + f.sign) ((f.sign + 1) * i)

def faddC (f : Fmt) (m : Mode) (a b : Nat) : Nat × Conds :=
  let (y, c) := rne f m (Val.add m (f.decode a) (f.decode b))
  (y, settle c)
def fsubC (f : Fmt) (m : Mode) (a b : Nat) : Nat × Conds :=
  let (y, c) := rne f m (Val.add m (f.decode a) (f.decode b).neg)
  (y, settle c)
def fmulC (f : Fmt) (m : Mode) (a b : Nat) : Nat × Conds :=
  let (y, c) := rne f m (Val.mul (f.decode a) (f.decode b))
  (y, settle c)
def ffmaC (f : Fmt) (m : Mode) (a b d : Nat) : Nat × Conds :=
  let (y, c) := rne f m (Val.add m (Val.mul (f.decode a) (f.decode b)) (f.decode d))
  (y, settle c)

/-- a < b of two numbers (R115, R116): −0 and +0 are equal. -/
def Val.lt : Val → Val → Bool
  | .num na ma ea, .num nb mb eb =>
    let lo := min ea eb
    coeff na ma ea lo < coeff nb mb eb lo
  | .inf a, .inf b => a && !b
  | .inf a, .num .. => a
  | .num .., .inf b => !b
  | _, _ => false

def Val.eq : Val → Val → Bool
  | .num na ma ea, .num nb mb eb =>
    let lo := min ea eb
    coeff na ma ea lo == coeff nb mb eb lo
  | .inf a, .inf b => a == b
  | _, _ => false

def Val.isNan : Val → Bool
  | .nan _ => true
  | _ => false

/-- A signalling NaN (R49). -/
def Val.isSnan : Val → Bool
  | .nan i => i
  | _ => false

/-- The conditions of a quiet comparison: NV for a signalling NaN (R115, R116). -/
def quietNv (x y : Val) : Conds := if x.isSnan || y.isSnan then Conds.nv else 0

/-- minimumNumber and maximumNumber (R115). -/
def fminmaxC (isMax : Bool) (f : Fmt) (a b : Nat) : Nat × Conds :=
  let x := f.decode a
  let y := f.decode b
  let r :=
    if x.isNan && y.isNan then f.nan
    else if x.isNan then b
    else if y.isNan then a
    else if x.eq y then
      -- equal values differ at most in a zero's sign
      if isMax then (if bit a f.sign then b else a) else (if bit a f.sign then a else b)
    else if (if isMax then y.lt x else x.lt y) then a else b
  (r, quietNv x y)

/-- `frnd` (R118). -/
def frndC (m : Mode) (a : Nat) : Nat × Conds :=
  match Fmt.fp32.decode a with
  | .nan i => (Fmt.fp32.nan, if i then Conds.nv else 0)
  | .inf _ => (a, 0)
  | .num neg mag exp =>
    if mag = 0 then (a, 0)
    else
      let (n, inex) := roundAt m neg mag exp 0
      ((rne .fp32 .rn (.num neg n 0)).1, if inex then Conds.nx else 0)

/-- The fused two-term dot product (R120). -/
def fdot2C (f : Fmt) (m : Mode) (a b d : Nat) : Nat × Conds :=
  let p (i : Nat) := Val.mul (f.decode (elem f a i)) (f.decode (elem f b i))
  let (y, c) := rne .fp32 m (Val.sum m [p 0, p 1, Fmt.fp32.decode d])
  (y, settle c)

/-- Both elements of a packed operation; the conditions are ORed (R119). -/
def packed2 (f : Fmt) (op : Nat → Nat → Nat × Conds) (a b : Nat) : Nat × Conds :=
  let (y0, c0) := op (elem f a 0) (elem f b 0)
  let (y1, c1) := op (elem f a 1) (elem f b 1)
  (y0 + 65536 * y1, c0 ||| c1)

/-- The fused packed operation, which also reads D. -/
def packed3 (f : Fmt) (op : Nat → Nat → Nat → Nat × Conds) (a b d : Nat) : Nat × Conds :=
  let (y0, c0) := op (elem f a 0) (elem f b 0) (elem f d 0)
  let (y1, c1) := op (elem f a 1) (elem f b 1) (elem f d 1)
  (y0 + 65536 * y1, c0 ||| c1)

/-! Special functions (R122, R123). -/

/-- floor(√n) for n below 4^k, bit by bit from the top. -/
def isqrt (n : Nat) : Nat → Nat → Nat
  | 0, r => r
  | k + 1, r =>
    let c := r + 2 ^ k
    if c * c ≤ n then isqrt n k c else isqrt n k r

/-- 1/(mag·2^exp) with enough bits and a sticky last bit: it rounds as the exact quotient does. -/
def recip (neg : Bool) (mag : Nat) (exp : Int) : Val :=
  let k := mag.log2 + 64
  let q := 2 ^ k / mag
  .num neg (2 * q + ofBool (2 ^ k % mag != 0)) (-(exp + k) - 1)

/-- √(mag·2^exp) with a sticky last bit. -/
def root (mag : Nat) (exp : Int) : Val :=
  let m := if exp % 2 = 0 then mag else 2 * mag
  let e := if exp % 2 = 0 then exp else exp - 1
  let n := m * 2 ^ 80
  let s := isqrt n 80 0
  .num false (2 * s + ofBool (s * s != n)) (e / 2 - 40 - 1)

def rcpC (a : Nat) : Nat × Conds :=
  match Fmt.fp32.decode a with
  | .nan i => (Fmt.fp32.nan, if i then Conds.nv else 0)
  | .inf neg => (Fmt.fp32.signBit neg, 0)
  | .num neg mag exp =>
    if mag = 0 then (Fmt.fp32.signBit neg + Fmt.fp32.infCode, Conds.dz)
    else rne .fp32 .rn (recip neg mag exp)

def sqrtC (a : Nat) : Nat × Conds :=
  match Fmt.fp32.decode a with
  | .nan i => (Fmt.fp32.nan, if i then Conds.nv else 0)
  | .inf neg => if neg then (Fmt.fp32.nan, Conds.nv) else (a, 0)
  | .num neg mag exp =>
    if mag = 0 then (a, 0)
    else if neg then (Fmt.fp32.nan, Conds.nv)
    else rne .fp32 .rn (root mag exp)

/-- What a bounded function delivers for an inexact result whose exact value lies near `y`, an approximation far closer than
the bound: the implementation's value where it keeps the bound `w`·2^`e` around `y`, else `y` rounded; with NX, and the
OF and UF that rounding `y` reports (R122, R123, log entry 5). -/
def bounded (op : Config.Special) (a : Nat) (y : Val) (w : Nat) (e : Int) : Nat × Conds :=
  let (r, c) := rne .fp32 .rn y
  let free := (Config.specialFn op (BitVec.ofNat 32 a)).toNat
  let ok := match Fmt.fp32.decode free, y with
    | .num nf mf ef, .num ny my ey =>
      let lo := min (min ef ey) e
      decide ((coeff nf mf ef lo - coeff ny my ey lo).natAbs ≤ w * 2 ^ (e - lo).toNat)
    | _, _ => false
  if c &&& Conds.of = 0 then (if ok then free else r, c ||| Conds.nx) else (r, c)

/-- The bound of n ulp at a value near `y` (R122). -/
def ulpAt (y : Val) : Int :=
  match y with
  | .num _ m e => max (expOf m e) (-126) - 23
  | _ => 0

def rsqC (a : Nat) : Nat × Conds :=
  match Fmt.fp32.decode a with
  | .nan i => (Fmt.fp32.nan, if i then Conds.nv else 0)
  | .inf neg => if neg then (Fmt.fp32.nan, Conds.nv) else (0, 0)
  | .num neg mag exp =>
    if mag = 0 then (Fmt.fp32.signBit neg + Fmt.fp32.infCode, Conds.dz)
    else if neg then (Fmt.fp32.nan, Conds.nv)
    else
      let e := expOf mag exp
      if mag = 2 ^ mag.log2 && e % 2 = 0 then rne .fp32 .rn (.num false 1 (-(e / 2)))
      else match root mag exp with
        | .num _ m ex =>
          let y := recip false m ex
          bounded .rsq a y 1 (ulpAt y)
        | _ => (Fmt.fp32.nan, Conds.nv)

/-- ln 2 · 2^128, rounded down. -/
def ln2Fix : Nat := 235865763225513294137944142764154484399
/-- log₂ e · 2^128, rounded down. -/
def log2eFix : Nat := 490923683258796565746369346286093237521
/-- 2π · 2^240, rounded down. -/
def twoPiFix : Nat := 11101427517448923470466154259574275593670452188976819761925419650816006300

/-- Σ t^k/k! in fixed point of 128 bits: `n` more terms after `term`, the k-th. -/
def expSeries (t : Nat) : Nat → Nat → Nat → Nat → Nat
  | 0, _, _, acc => acc
  | n + 1, k, term, acc =>
    let term' := term * t / 2 ^ 128 / (k + 1)
    expSeries t n (k + 1) term' (acc + term')

/-- 2^(mag·2^exp), within 2^-100 of its own size (R122): the exponent is rounded down at 2^-128. The exact value is no FP32 number for an exponent
that is no integer, and neither is this one, whose last bit stands for what the roundings left: so a comparison with the bound comes out as for
the exact value. -/
def exp2Val (neg : Bool) (mag : Nat) (exp : Int) : Val :=
  let big := expOf mag exp > 8
  if big then .num false 1 (if neg then -512 else 512)
  else
    let x := coeff neg mag exp (min exp (-128)) / ((2 ^ ((-128) - min exp (-128)).toNat : Nat) : Int)
    let n := x / (2 ^ 128 : Nat)
    let f := (x % (2 ^ 128 : Nat)).toNat
    .num false (2 * expSeries (f * ln2Fix / 2 ^ 128) 40 0 (2 ^ 128) (2 ^ 128) + 1) (n - 129)

def exp2C (a : Nat) : Nat × Conds :=
  match Fmt.fp32.decode a with
  | .nan i => (Fmt.fp32.nan, if i then Conds.nv else 0)
  | .inf neg => if neg then (0, 0) else (a, 0)
  | .num neg mag exp =>
    if mag = 0 then (0x3F800000, 0)
    else
      let (n, inex) := roundInt .rz neg mag exp
      if !inex && -149 ≤ n && n ≤ 127 then rne .fp32 .rn (.num false 1 n)
      else
        let y := exp2Val neg mag exp
        bounded .exp2 a y 2 (ulpAt y)

/-- 2·atanh(z) by its series in fixed point of 128 bits: `n` more terms from z^k/k on. -/
def atanhSeries (z2 : Nat) : Nat → Nat → Nat → Nat → Nat
  | 0, _, _, acc => 2 * acc
  | n + 1, k, zk, acc => atanhSeries z2 n (k + 2) (zk * z2 / 2 ^ 128) (acc + zk / k)

/-- log₂ of a positive number, within 2^-100 (R122). -/
def log2Val (mag : Nat) (exp : Int) : Val :=
  let l := mag.log2
  let e := expOf mag exp
  -- mantissa m in [1, 2) is mag / 2^l; z = (m − 1)/(m + 1)
  let z := (mag - 2 ^ l) * 2 ^ 128 / (mag + 2 ^ l)
  let ln := atanhSeries (z * z / 2 ^ 128) 90 1 z 0
  let c : Int := (ln * log2eFix / 2 ^ 128 : Nat) + e * (2 ^ 128 : Nat)
  Val.ofCoeff c (-128) false

def log2C (a : Nat) : Nat × Conds :=
  match Fmt.fp32.decode a with
  | .nan i => (Fmt.fp32.nan, if i then Conds.nv else 0)
  | .inf neg => if neg then (Fmt.fp32.nan, Conds.nv) else (a, 0)
  | .num neg mag exp =>
    if mag = 0 then (Fmt.fp32.signBit true + Fmt.fp32.infCode, Conds.dz)
    else if neg then (Fmt.fp32.nan, Conds.nv)
    else if mag = 2 ^ mag.log2 then rne .fp32 .rn (Val.ofInt (expOf mag exp))
    else
      let y := log2Val mag exp
      let e := expOf mag exp
      if e = -1 || e = 0 then bounded .log2 a y 1 (-22) else bounded .log2 a y 2 (ulpAt y)

/-- Σ (−1)^k r^(2k+s)/(2k+s)! in fixed point of 240 bits, the terms after `term`. -/
def trigSeries (r2 : Int) : Nat → Nat → Int → Int → Int
  | 0, _, _, acc => acc
  | n + 1, k, term, acc =>
    let t := -(term * r2) / (2 ^ 240 : Nat) / ((k + 1) * (k + 2) : Nat)
    trigSeries r2 n (k + 2) t (acc + t)

/-- sin or cos of mag·2^exp, within 2^-80 (R122): the argument is reduced exactly modulo 2π. A last bit below the others makes it less in
size than a value that could be exact, as the exact one is (R123). -/
def trigVal (isCos : Bool) (neg : Bool) (mag : Nat) (exp : Int) : Val :=
  let x := coeff neg mag exp (min exp (-240)) / (2 ^ ((-240) - min exp (-240)).toNat : Nat)
  let r := x % (twoPiFix : Int)
  let r := if 2 * r > twoPiFix then r - twoPiFix else r
  let r2 := r * r / (2 ^ 240 : Nat)
  let s := if isCos then trigSeries r2 40 0 (2 ^ 240 : Nat) (2 ^ 240 : Nat) else trigSeries r2 40 1 r r
  Val.ofCoeff (if s < 0 then 2 * s + 1 else 2 * s - 1) (-241) neg

def trigC (isCos : Bool) (a : Nat) : Nat × Conds :=
  match Fmt.fp32.decode a with
  | .nan i => (Fmt.fp32.nan, if i then Conds.nv else 0)
  | .inf _ => (Fmt.fp32.nan, Conds.nv)
  | .num neg mag exp =>
    if mag = 0 then (if isCos then 0x3F800000 else a, 0)
    else bounded (if isCos then .cos else .sin) a (trigVal isCos neg mag exp) 1 (-22)

/-! The home atomic units' floating point (R71, R151) and the group sum (R136). -/

/-- rne(a + b, FP32) of two codes, without conditions. -/
def fadd32 (a b : Nat) : Nat := (rne .fp32 .rn (Val.add .rn (Fmt.fp32.decode a) (Fmt.fp32.decode b))).1

/-- The sign-inverted code. -/
def fneg32 (a : Nat) : Nat := a ^^^ 0x80000000

/-- Whether a code is finite. -/
def finite32 (a : Nat) : Bool :=
  match Fmt.fp32.decode a with
  | .num .. => true
  | _ => false

/-- The compensated update of the 16-byte object `o` with addend x (R71). -/
def fadd2c (o x : Nat) : Nat :=
  let s := o % 2 ^ 32
  let e := bits o 63 32
  let n := bits o 127 64
  let t := fadd32 s x
  let e' :=
    if finite32 t then
      let bv := fadd32 t (fneg32 s)
      let av := fadd32 t (fneg32 bv)
      let dd := fadd32 (fadd32 s (fneg32 av)) (fadd32 x (fneg32 bv))
      fadd32 e dd
    else 0
  t + 2 ^ 32 * e' + 2 ^ 64 * ((n + 1) % 2 ^ 64)

/-- One level of the pairwise sum of R136 over neighbours; absent values are `none`. -/
def pairLevel : List (Option Nat) → Conds → List (Option Nat) × Conds
  | x :: y :: t, c =>
    let (z, c1) := match x, y with
      | some a, some b =>
        let (r, cc) := faddC .fp32 .rn a b
        (some r, c ||| cc)
      | some a, none => (some a, c)
      | none, y => (y, c)
    let (t', c2) := pairLevel t c1
    (z :: t', c2)
  | l, c => (l, c)

/-- The pairwise sum of 32 places (R136), canonical when NaN, with every addition's conditions and NV for a signalling
participant. -/
def gredFadd (l : List (Option Nat)) : Nat × Conds :=
  let (l1, c1) := pairLevel l 0
  let (l2, c2) := pairLevel l1 c1
  let (l3, c3) := pairLevel l2 c2
  let (l4, c4) := pairLevel l3 c3
  let (l5, c5) := pairLevel l4 c4
  let r := (l5.headD none).getD 0
  let r := if (Fmt.fp32.decode r).isNan then Fmt.fp32.nan else r
  let snan := l.any fun x => match x with
    | some a => (Fmt.fp32.decode a).isSnan
    | none => false
  (r, c5 ||| (if snan then Conds.nv else 0))

/-- A dequantised weight (R51). -/
def dequant (q z : Int) (s : Nat) : Nat := (rne .bf16 .rn (Val.mul (Val.ofInt (q - z)) (Fmt.bf16.decode s))).1

/-- One chunk's sum, scaled, rounded and added to a cell (R66, R67), with NV and OF of both roundings. An exact zero sum is
+0. -/
def chunkAdd (cell : Nat) (prods : List Val) (scale : Option Val) : Nat × Conds :=
  let s := Val.sum .rn prods
  let s := match s with
    | .num _ 0 e => .num false 0 e
    | s => s
  let s := match scale with
    | some v => Val.mul s v
    | none => s
  let (t, c) := rne .fp32 .rn s
  let (y, c') := rne .fp32 .rn (Val.add .rn (Fmt.fp32.decode cell) (Fmt.fp32.decode t))
  (y, c ||| c')

end Sys2Proof.Machine
end

