-- ==== Sys2Proof/Machine/Memory.lean ====
section
/-! DEFINITION. Loads, stores, prefetches, atomics and reductions at their issue (R137 to R152), and the non-posted requests that
peer accesses send (R138, R310). Their effects at the homes are in `Machine/Queue.lean`. -/

namespace Sys2Proof.Machine

/-- The width that a load sign-extends, 0 for none (R21). -/
def szSign (z : Nat) : Nat :=
  match z with
  | 5 => 8 | 6 => 16 | _ => 0

/-- The absolute numbers of an operand's registers. -/
def Thread.absRegs (t : Thread) (o : Opd) : List Nat := o.regs.map t.idx

/-- The number of words, as one value, of an operand's registers. -/
def Thread.opdVal (t : Thread) (o : Opd) : Nat :=
  match o.regs with
  | [] => 0
  | r :: rest => t.wide r (rest.length + 1)

/-- What comes before a thread's own request that has issued: older accesses of its thread that are acquires or touch a byte of it, and queue
entries (R144, R148, R253); lower lanes' accesses of its issue (R143). -/
def State.npFirst (s : State) (p : NonPosted) : Bool :=
  let t : Target := .peer p.vdn p.ipa
  let mine (b t : Nat) : Bool := b == p.bid && t == p.tid
  (s.loads.any fun l => l.id < p.id && (l.tok == p.tok || (mine l.bid l.tid && l.acq))) ||
  (s.nps.any fun o => o.id < p.id && (o.tok == p.tok || (mine o.bid o.tid && (o.acq || (Target.peer o.vdn o.ipa).overlaps (peerSize o.op) t (peerSize p.op))))) ||
  (match s.group? p.bid p.grp with
  | some g => g.queue.any fun e => e.id < p.id && e.tgt.overlaps e.size t (peerSize p.op) && (p.pred.isNone || e.tid == p.tid)
  | none => false)

/-- A request that has issued leaves once what comes before it is performed (R253, log entry 80). -/
def State.sendPent (s : State) (id : Nat) : State :=
  match s.nps.find? fun p => p.id == id && p.pent with
  | none => s
  | some p =>
    if s.npFirst p || s.frozen p.f then s
    else
      let go (p : NonPosted) : NonPosted := { p with pent := false, deadline := s.clk + s.tlost p.f }
      { s with nps := updFirst (fun p => p.id == id) go s.nps }.sendTo p.handle p.f p.vdn (.request p.seq p.ipa p.op)

/-- A thread's non-posted request for itself, which leaves once what comes before it is performed: nothing when the issue limit holds it (R310). -/
def State.requestFor (s : State) (t : Thread) (tok v ipa : Nat) (ea : VAddr) (op : PeerOp) (dst : List Nat) (signed : Nat)
    (pred : Option Nat) (acq : Bool) : Option State :=
  let f := (s.envOf t.bid).f
  if s.npRoom f v then
    some (({ s with nextId := s.nextId + 1 }.takeNp
      { id := s.nextId, tok, f, vdn := v, seq := 0, bid := t.bid, grp := t.grp, tid := t.tid, va := ea, ipa, op, dst, signed,
        pred, acq, handle := s.handleOf t.bid, done := none, deadline := 0, tries := 0, pent := true }).sendPent s.nextId)
  else none

/-- The thread waits for results in registers, and in a predicate (R83). -/
def Thread.await (t : Thread) (dst : List Nat) (pred : Option Nat) : Thread :=
  { t with busy := t.busy ++ dst, busyP := t.busyP ++ pred.toList }

/-! Forwarding from the group's store queue (R148, R252). -/

/-- The place of a target inside its space. -/
def Target.place (t : Target) : Nat :=
  match t with
  | .scratch n => n
  | .loc n => n
  | .peer _ n => n
  | .host n => n
  | .notify _ n => n

/-- The byte that an entry holds for a place: `none` for an update, whose value is formed at the home. -/
def QEntry.byteAt (e : QEntry) (t : Target) : Option Byte :=
  match e.kind with
  | .store d => d[t.place - e.tgt.place]?
  | _ => none

/-- The newest entry older than access `id` that writes the byte at a place. -/
def Group.newest (g : Group) (id : Nat) (t : Target) : Option QEntry :=
  (g.queue.filter fun e => e.id < id && e.tgt.overlaps e.size t 1).getLast?

/-- The bytes of a load that the queue forwards, by byte: `none` where memory is read. -/
def Group.forwarded (g : Group) (l : Load) : List (Option Byte) :=
  (List.range l.n).map fun i => (g.newest l.id (l.tgt.offset i)).bind fun e => e.byteAt (l.tgt.offset i)

/-- Whether a load waits for an older update of one of its bytes (R148). -/
def Group.updateAhead (g : Group) (l : Load) : Bool :=
  (List.range l.n).any fun i => match g.newest l.id (l.tgt.offset i) with
    | some e => (e.byteAt (l.tgt.offset i)).isNone
    | none => false

/-! Loads and stores at their issue. -/

/-- What a load asks for: its check, address, alignment, size, sign extension, destination, request type, acquire and kind. -/
structure LoadReq where
  acc : Acc
  ea : VAddr
  al : Nat
  n : Nat
  sign : Nat
  dst : List Nat
  ty : BitVec 2
  acq : Bool
  kind : LoadKind
  deriving DecidableEq, Repr

/-- The peer operation of a load. -/
def LoadReq.peerOp (r : LoadReq) : PeerOp := if r.kind = .lstat then .lstat else .ld r.n

/-- The accesses of an instruction of `n` bytes: a `.b128` to host memory is two of 8 bytes in ascending order (R141). -/
def halves16 (tgt : Target) (n : Nat) : List (Nat × Nat) :=
  match tgt with
  | .host _ => if n = 16 then [(0, 8), (8, 8)] else [(0, n)]
  | _ => [(0, n)]

/-- An access of a load is in flight: `n` bytes from offset `o`, for the registers that hold them. -/
def State.addLoad (s : State) (t : Thread) (tok : Nat) (r : LoadReq) (tgt : Target) (o n : Nat) : State :=
  let l : Load := {
    id := s.nextId, tok, bid := t.bid, grp := t.grp, tid := t.tid, ea := r.ea + BitVec.ofNat 64 o, tgt := tgt.offset o, n, signed := r.sign != 0,
    dst := if n = r.n then r.dst else (r.dst.drop (o / 4)).take (n / 4), ty := r.ty, acq := r.acq, kind := r.kind, home := false }
  { s with nextId := s.nextId + 1, loads := s.loads ++ [{ l with home := (s.group? t.bid t.grp).any fun g => g.updateAhead l }] }

/-- A load issues (R141, R156): it is in flight until its value arrives. -/
def State.issueLoad (s : State) (t : Thread) (tok len : Nat) (r : LoadReq) : TRes :=
  match s.check (s.envOf t.bid) r.acc r.ea r.al r.n with
  | .error x => .trap x 0
  | .ok tgt =>
    let go (s : State) : TRes := .ok (s.updThread t.key fun t => (t.await r.dst none).next len)
    match tgt with
    | .peer v ipa =>
      (match s.requestFor t tok v ipa r.ea r.peerOp r.dst r.sign none r.acq with
      | some s => go s
      | none => .held)
    | tgt =>
      go ((halves16 tgt r.n).foldl (fun s p => s.addLoad t tok r tgt p.1 p.2) s)

/-- An access enters the group's store queue (R148). -/
def State.enqueue (s : State) (t : Thread) (tok : Nat) (rel : Bool) (ea : VAddr) (tgt : Target) (ty : BitVec 2) (kind : QKind) : State :=
  let s1 := { s with nextId := s.nextId + 1 }
  s1.updGroup t.bid t.grp fun g =>
    { g with queue := g.queue ++ [{ rel, sent := false, id := s.nextId, tok, tid := t.tid, ea, tgt, ty, kind }] }

/-- A store issues (R141). -/
def State.issueStore (s : State) (t : Thread) (tok len : Nat) (ea : VAddr) (n : Nat) (ty : BitVec 2) (rel : Bool) (x : Nat) : TRes :=
  match s.check (s.envOf t.bid) .st ea n n with
  | .error e => .trap e 0
  | .ok tgt => .ok (((halves16 tgt n).foldl (fun s p =>
      s.enqueue t tok rel (ea + BitVec.ofNat 64 p.1) (tgt.offset p.1) ty (.store (leBytes (x / 2 ^ (8 * p.1)) p.2))) s).updThread t.key
        fun t => t.next len)

/-- `ld` and `ld.acq` under an optional payload (R141, R144). -/
def ldOp (h : Option Nat) (len d a z : Nat) (y : BitVec 2) (o : BitVec 4) (acq : Bool) (tok : Nat) (s : State) (t : Thread) : TRes :=
  let n := szBytes z
  s.issueLoad t tok len { acc := .ld, ea := mAddr t a h o n, al := n, n, sign := szSign z, dst := t.absRegs (dataOpd z d), ty := y,
                          acq, kind := .ld }

/-- `st` and `st.rel` (R141, R144). -/
def stOp (h : Option Nat) (len d a z : Nat) (y : BitVec 2) (o : BitVec 4) (rel : Bool) (tok : Nat) (s : State) (t : Thread) : TRes :=
  let n := szBytes z
  s.issueStore t tok len (mAddr t a h o n) n y rel (t.opdVal (dataOpd z d))

/-- `ld.c` (R145). -/
def ldCOp (h : Option Nat) (len d a z : Nat) (o : BitVec 4) (tok : Nat) (s : State) (t : Thread) : TRes :=
  let n := szBytes z
  s.issueLoad t tok len { acc := .ldc, ea := mAddr t a h o n, al := n, n, sign := szSign z, dst := t.absRegs (dataOpd z d), ty := 0,
                          acq := false, kind := .ldc }

/-- `pref` (R146): a fill where the address is aligned and the line is local global memory that the thread may read and the L1 does not
hold; in a trailing copy nothing, which reads no memory (R315). -/
def prefOp (h : Option Nat) (len a : Nat) (y : BitVec 2) (o : BitVec 4) (s : State) (t : Thread) : TRes :=
  let e := s.envOf t.bid
  let ea := mAddr t a h o 128
  let s := match s.resolve e .ld ea 1 with
    | .ok (.loc pa) =>
      if (s.block? t.bid).any (fun (b : Block) => b.role == Role.trail) || y = 3 || ea.toNat % 128 ≠ 0 || (s.l1Find e.core (lineOf pa)).isSome || s.blocked e.core false (.loc pa) then s
      else s.fill e.core e.f e.tag y pa
    | _ => s
  .ok (s.updThread t.key fun t => t.next len)

/-- R141. -/
def execLd (g : BitVec 3) (d a : BitVec 7) (z : BitVec 3) (y : BitVec 2) (o : BitVec 4) (s : State) : Res :=
  s.inTurn (.ld g d a z y o) (ldOp none 4 d.toNat a.toNat z.toNat y o false)

/-- R141. -/
def execSt (g : BitVec 3) (d a : BitVec 7) (z : BitVec 3) (y : BitVec 2) (o : BitVec 4) (s : State) : Res :=
  s.inTurn (.st g d a z y o) (stOp none 4 d.toNat a.toNat z.toNat y o false)

/-- R144. -/
def execLdAcq (g : BitVec 3) (d a : BitVec 7) (z : BitVec 1) (y : BitVec 2) (o : BitVec 4) (s : State) : Res :=
  s.inTurn (.ldAcq g d a z y o) (ldOp none 4 d.toNat a.toNat (2 + z.toNat) y o true)

/-- R144. -/
def execStRel (g : BitVec 3) (d a : BitVec 7) (z : BitVec 1) (y : BitVec 2) (o : BitVec 4) (s : State) : Res :=
  s.inTurn (.stRel g d a z y o) (stOp none 4 d.toNat a.toNat (2 + z.toNat) y o true)

/-- R145. -/
def execLdC (g : BitVec 3) (d a : BitVec 7) (z : BitVec 3) (o : BitVec 4) (s : State) : Res :=
  s.inTurn (.ldC g d a z o) (ldCOp none 4 d.toNat a.toNat z.toNat o)

/-- R146. -/
def execPref (g : BitVec 3) (a : BitVec 7) (y : BitVec 2) (o : BitVec 4) (s : State) : Res :=
  s.inTurn (.pref g a y o) fun _ => prefOp none 4 a.toNat y o

/-- R156: alone for each thread, with alignment to 4 bytes. -/
def execLstat (g : BitVec 3) (d a : BitVec 7) (s : State) : Res :=
  s.inTurn (.lstat g d a) fun tok s t =>
    s.issueLoad t tok 4 { acc := .lstat, ea := t.addr a.toNat, al := 4, n := 4, sign := 0, dst := [t.idx d.toNat], ty := 0,
                          acq := false, kind := .lstat }

/-- An atomic or reduction issues: it enters the queue, an atomic's destination waits (R149, R150). -/
def State.issueUpdate (s : State) (t : Thread) (tok : Nat) (a : Nat) (op : AtomOp) (n b c : Nat) (dst : List Nat) : TRes :=
  match s.check (s.envOf t.bid) (if dst.isEmpty then .red else .atom) (t.addr a) n n with
  | .error x => .trap x 0
  | .ok tgt => .ok ((s.enqueue t tok false (t.addr a) tgt 3 (.update op n b c dst)).updThread t.key
      fun t => (t.await dst none).next 4)

/-- An atomic of 4-byte operands. -/
def atom32 (op : AtomOp) (d a b : Nat) (tok : Nat) (s : State) (t : Thread) : TRes :=
  s.issueUpdate t tok a op 4 (t.reg b) (t.reg d) [t.idx d]

/-- An atomic of 8-byte operands. -/
def atom64 (op : AtomOp) (d a b : Nat) (tok : Nat) (s : State) (t : Thread) : TRes :=
  s.issueUpdate t tok a op 8 (t.pair b) (t.pair d) (t.absRegs (.pair d))

/-- A reduction. -/
def redOp (op : AtomOp) (n a : Nat) (x : Thread → Nat) (tok : Nat) (s : State) (t : Thread) : TRes :=
  s.issueUpdate t tok a op n (x t) 0 []

/-- R149, R150. -/
def execAtomMinS (g : BitVec 3) (d a b : BitVec 7) (s : State) : Res :=
  s.inTurn (.atomMinS g d a b) (atom32 .minS d.toNat a.toNat b.toNat)

/-- R149, R150. -/
def execAtomMinZ (g : BitVec 3) (d a b : BitVec 7) (s : State) : Res :=
  s.inTurn (.atomMinZ g d a b) (atom32 .minZ d.toNat a.toNat b.toNat)

/-- R149, R150. -/
def execAtomMaxS (g : BitVec 3) (d a b : BitVec 7) (s : State) : Res :=
  s.inTurn (.atomMaxS g d a b) (atom32 .maxS d.toNat a.toNat b.toNat)

/-- R149, R150. -/
def execAtomMaxZ (g : BitVec 3) (d a b : BitVec 7) (s : State) : Res :=
  s.inTurn (.atomMaxZ g d a b) (atom32 .maxZ d.toNat a.toNat b.toNat)

/-- R149, R150. -/
def execAtomAdd (g : BitVec 3) (d a b : BitVec 7) (s : State) : Res :=
  s.inTurn (.atomAdd g d a b) (atom32 .add d.toNat a.toNat b.toNat)

/-- R149, R150. -/
def execAtomExch (g : BitVec 3) (d a b : BitVec 7) (s : State) : Res :=
  s.inTurn (.atomExch g d a b) (atom32 .exch d.toNat a.toNat b.toNat)

/-- R149, R150. -/
def execAtomCas (g : BitVec 3) (d a b : BitVec 7) (s : State) : Res :=
  s.inTurn (.atomCas g d a b) (atom32 .cas d.toNat a.toNat b.toNat)

/-- R149, R150. -/
def execAtomFadd (g : BitVec 3) (d a b : BitVec 7) (s : State) : Res :=
  s.inTurn (.atomFadd g d a b) (atom32 .fadd d.toNat a.toNat b.toNat)

/-- R149, R150. -/
def execAtomAddB64 (g : BitVec 3) (d a b : BitVec 7) (s : State) : Res :=
  s.inTurn (.atomAddB64 g d a b) (atom64 .add d.toNat a.toNat b.toNat)

/-- R149, R150. -/
def execAtomExchB64 (g : BitVec 3) (d a b : BitVec 7) (s : State) : Res :=
  s.inTurn (.atomExchB64 g d a b) (atom64 .exch d.toNat a.toNat b.toNat)

/-- R149, R150. -/
def execAtomCasB64 (g : BitVec 3) (d a b : BitVec 7) (s : State) : Res :=
  s.inTurn (.atomCasB64 g d a b) (atom64 .cas d.toNat a.toNat b.toNat)

/-- R149, R150. -/
def execAtomFadd2c (g : BitVec 3) (d a b : BitVec 7) (s : State) : Res :=
  s.inTurn (.atomFadd2c g d a b) (fun tok s t => s.issueUpdate t tok a.toNat .fadd2c 16 (t.reg b.toNat) 0 (t.absRegs (.pair d.toNat)))

/-- R149, R150. -/
def execRedAdd (g : BitVec 3) (a b : BitVec 7) (s : State) : Res :=
  s.inTurn (.redAdd g a b) (redOp .add 4 a.toNat fun t => t.reg b.toNat)

/-- R149, R150. -/
def execRedFadd (g : BitVec 3) (a b : BitVec 7) (s : State) : Res :=
  s.inTurn (.redFadd g a b) (redOp .fadd 4 a.toNat fun t => t.reg b.toNat)

/-- R149, R150. -/
def execRedMinS (g : BitVec 3) (a b : BitVec 7) (s : State) : Res :=
  s.inTurn (.redMinS g a b) (redOp .minS 4 a.toNat fun t => t.reg b.toNat)

/-- R149, R150. -/
def execRedMaxS (g : BitVec 3) (a b : BitVec 7) (s : State) : Res :=
  s.inTurn (.redMaxS g a b) (redOp .maxS 4 a.toNat fun t => t.reg b.toNat)

/-- R149, R150. -/
def execRedAnd (g : BitVec 3) (a b : BitVec 7) (s : State) : Res :=
  s.inTurn (.redAnd g a b) (redOp .and 4 a.toNat fun t => t.reg b.toNat)

/-- R149, R150. -/
def execRedOr (g : BitVec 3) (a b : BitVec 7) (s : State) : Res :=
  s.inTurn (.redOr g a b) (redOp .or 4 a.toNat fun t => t.reg b.toNat)

/-- R149, R150. -/
def execRedAddB64 (g : BitVec 3) (a b : BitVec 7) (s : State) : Res :=
  s.inTurn (.redAddB64 g a b) (redOp .add 8 a.toNat fun t => t.pair b.toNat)

/-- R149, R150. -/
def execRedFadd2c (g : BitVec 3) (a b : BitVec 7) (s : State) : Res :=
  s.inTurn (.redFadd2c g a b) (redOp .fadd2c 16 a.toNat fun t => t.reg b.toNat)

end Sys2Proof.Machine
end

