-- ==== Sys2Proof/Machine/Engine.lean ====
section
/-! DEFINITION. The copy and matrix instructions at their issue: descriptors and operand words, their checks, claims, and the
commands they leave in the engines' queues (R171 to R194, R263). What the engines then do is in `Machine/EngineRun.lean`. -/

namespace Sys2Proof.Machine

/-- Word `n` of a descriptor, as a number. -/
def dw (w : List Word) (n : Nat) : Nat := (w.getD n 0).toNat

/-- A 64-bit address in words `n` and `n + 1` of a descriptor. -/
def dAddr (w : List Word) (n : Nat) : VAddr := BitVec.ofNat 64 (dw w n + 2 ^ 32 * dw w (n + 1))

/-- A bulk copy's descriptor (R175). -/
structure Bulk where
  src : Nat
  dst : Nat
  e0 : Nat
  e1 : Nat
  e2 : Nat
  flags : Nat
  z : Nat
  ss : List Int
  ds : List Int
  offs : List Nat
  deriving DecidableEq, Repr

def bulkOf (w : List Word) : Bulk where
  src := (dAddr w 0).toNat
  dst := (dAddr w 2).toNat
  e0 := bits (dw w 4) 15 0 + 1
  e1 := bits (dw w 4) 31 16 + 1
  e2 := bits (dw w 5) 15 0 + 1
  flags := dw w 6
  z := 2 ^ bits (dw w 6) 2 0
  ss := [7, 8, 9].map fun n => sgn 32 (dw w n)
  ds := [10, 11, 12].map fun n => sgn 32 (dw w n)
  offs := [bits (dw w 13) 15 0, bits (dw w 13) 31 16, bits (dw w 14) 15 0]

def Bulk.fabric (b : Bulk) : Bool := bit b.flags 11
def Bulk.acq (b : Bulk) : Bool := bit b.flags 6
def Bulk.rel (b : Bulk) : Bool := bit b.flags 7

/-- The elements of a bulk copy (R176). -/
def Bulk.count (b : Bulk) : Nat := b.e0 * b.e1 * b.e2

/-- The wrapped index of a dimension (R176). -/
def Bulk.wrapped (b : Bulk) (q i e : Nat) : Nat := if bit b.flags (3 + q) then (i + b.offs.getD q 0) % e else i

/-- The source address of element `k` in iteration order (R176). -/
def Bulk.srcAt (b : Bulk) (k : Nat) : VAddr :=
  let j0 := b.wrapped 0 (k % b.e0) b.e0
  let j1 := b.wrapped 1 (k / b.e0 % b.e1) b.e1
  let j2 := b.wrapped 2 (k / (b.e0 * b.e1)) b.e2
  BitVec.ofInt 64 (b.src + j0 * b.ss.getD 0 0 + j1 * b.ss.getD 1 0 + j2 * b.ss.getD 2 0)

/-- The destination address of element `k` (R176). -/
def Bulk.dstAt (b : Bulk) (k : Nat) : VAddr :=
  BitVec.ofInt 64 (b.dst + (k % b.e0 : Nat) * b.ds.getD 0 0 + (k / b.e0 % b.e1 : Nat) * b.ds.getD 1 0 +
    (k / (b.e0 * b.e1) : Nat) * b.ds.getD 2 0)

/-- Whether element `k` begins a new maximal run of contiguous destination bytes in one 128-byte line (R177, R180). -/
def Bulk.starts (b : Bulk) (k : Nat) : Bool :=
  k == 0 || (b.dstAt k).toNat != (b.dstAt (k - 1)).toNat + b.z || (b.dstAt k).toNat / 128 != (b.dstAt (k - 1)).toNat / 128

/-- The runs among the first `n` elements. -/
def Bulk.runs (b : Bulk) : Nat → Nat
  | 0 => 0
  | n + 1 => b.runs n + ofBool (b.starts n)

/-- The elements of the run that begins at `k`, at most `fuel`. -/
def Bulk.runLen (b : Bulk) (k : Nat) : Nat → Nat
  | 0 => 0
  | fuel + 1 => if k + 1 < b.count && !b.starts (k + 1) then 1 + b.runLen (k + 1) fuel else 1

/-- The zero bits and allowed values of a bulk descriptor (R171, R172, R175); a multicast carries no fabric bit (R180). -/
def bulkOk (w : List Word) (mcast : Bool) : Bool :=
  let f := dw w 6
  let b := bulkOf w
  bits (dw w 5) 31 16 == 0 && bits f 31 17 == 0 && (bit f 11 || bits f 16 12 == 0) && bits f 2 0 ≤ 4 &&
  scopeOk (bits f 10 8) (bit f 6 || bit f 7) && !(mcast && bit f 11) &&
  ([0, 1, 2].all fun q => bit f (3 + q) || b.offs.getD q 0 == 0) && bits (dw w 14) 31 16 == 0 && dw w 15 == 0

/-- The first misaligned address of a bulk descriptor, or 0 for a stride (R175). -/
def Bulk.misaligned (b : Bulk) : Option VAddr :=
  if b.src % b.z ≠ 0 then some (BitVec.ofNat 64 b.src)
  else if b.dst % b.z ≠ 0 then some (BitVec.ofNat 64 b.dst)
  else if (b.ss ++ b.ds).any fun x => x % b.z != 0 then some 0
  else none

/-- The group's binding at this point of its issue order (R182). -/
def State.bindOf (s : State) (t : Thread) : Option Nat := (s.group? t.bid t.grp).bind fun g => g.bind

/-- A copy command enters the core's queue. -/
def State.addCopy (s : State) (t : Thread) (tok : Nat) (kind : CopyKind) (acq rel : Bool) (fabric : Option (Nat × Nat × Nat)) : State :=
  { s with nextId := s.nextId + 1, copies := s.copies ++ [{
      id := s.nextId, tok, core := (s.envOf t.bid).core, bid := t.bid, grp := t.grp, tid := t.tid, pc := t.pc, kind, h := 0,
      more := [], begun := [], bind := s.bindOf t, before := if acq then some s.nextId else none, rel, fabric, lines := [],
      base := 0, owed := [] }] }

/-- The issue of a per-lane copy: all of one group's copies in one issue form one command (R174, R265). -/
def cpLane (n d a : Nat) (acq rel : BitVec 1) (tok : Nat) (s : State) (t : Thread) : TRes :=
  let src := t.addr a
  let dst := t.addr d
  let e := s.envOf t.bid
  if src.toNat % n ≠ 0 then .trap { cause := .misaligned, addr := src, aux := 0 } 0
  else if dst.toNat % n ≠ 0 then .trap { cause := .misaligned, addr := dst, aux := 0 } 0
  else match s.resolve e .engR src n, s.resolve e .engW dst n with
    | .error x, _ => .trap x 0
    | _, .error x => .trap x 0
    | .ok x, .ok y =>
      let mine (c : CopyCmd) : Bool := c.bid == t.bid && c.grp == t.grp && c.tok == tok
      let s := if s.copies.any mine then
          { s with copies := updFirst mine (fun c => match c.kind with
              | .lane n l => { c with kind := .lane n (l ++ [(src, x, y)]) }
              | _ => c) s.copies }
        else s.addCopy t tok (.lane n [(src, x, y)]) (acq == 1) (rel == 1) none
      .ok (s.updThread t.key fun t => t.next 4)

/-- R173, R174. The fields: acquire b[0] is `q`, release b[1] is `r`. -/
def execCpLaneB32 (g : BitVec 3) (d a : BitVec 7) (sc : BitVec 3) (r q : BitVec 1) (s : State) : Res :=
  s.inTurn (.cpLaneB32 g d a sc r q) (cpLane 4 d.toNat a.toNat q r)

/-- R173, R174. -/
def execCpLaneB64 (g : BitVec 3) (d a : BitVec 7) (sc : BitVec 3) (r q : BitVec 1) (s : State) : Res :=
  s.inTurn (.cpLaneB64 g d a sc r q) (cpLane 8 d.toNat a.toNat q r)

/-- R173, R174. -/
def execCpLaneB128 (g : BitVec 3) (d a : BitVec 7) (sc : BitVec 3) (r q : BitVec 1) (s : State) : Res :=
  s.inTurn (.cpLaneB128 g d a sc r q) (cpLane 16 d.toNat a.toNat q r)

/-- R179: the record update enters the store queue; the row is copied once it has its place (R268). -/
def execCpBin (g : BitVec 3) (d a b : BitVec 7) (s : State) : Res :=
  s.inTurn (.cpBin g d a b) fun tok s t =>
    let rc := t.addr a.toNat
    let row := t.addr b.toNat
    let e := s.envOf t.bid
    if rc.toNat % 32 ≠ 0 then .trap { cause := .misaligned, addr := rc, aux := 0 } 0
    else if row.toNat % 4 ≠ 0 then .trap { cause := .misaligned, addr := row, aux := 0 } 0
    else match s.resolve e .bin rc 32, s.resolve e .engR row 4 with
      | .error x, _ => .trap x 0
      | _, .error x => .trap x 0
      | .ok tgt, .ok _ =>
        let dst := t.idx d.toNat
        .ok ((s.enqueue t tok false rc tgt 3 (.bin row dst t.pc (s.bindOf t))).updThread t.key fun t => (t.await [dst] none).next 4)

/-- The checks of a fabric copy at issue (R177, R267): the VDN it is for, or a trap. -/
def State.fabricCheck (s : State) (t : Thread) (b : Bulk) : Except TrapInfo Nat :=
  let e := s.envOf t.bid
  let dst := b.dstAt 0
  match s.resolve e .fst dst b.z with
  | .error x => .error x
  | .ok (.peer v _) =>
    let w := s.window e.f (bits b.flags 16 12)
    if w.st != .open && w.st != .closing then .error { cause := .windowState, addr := dst, aux := 0 }
    else if 2 ^ 24 - 1 < Tab.get (fun _ => 0) w.counts v + b.runs b.count then .error { cause := .windowFull, addr := dst, aux := 0 }
    else .ok v
  | .ok _ => .error { cause := .accessDenied, addr := dst, aux := 0 }

/-- R177, R178: a fabric copy reserves its writes on the window's send count (R267). -/
def execCpBulk (g : BitVec 3) (a : BitVec 5) (s : State) : Res :=
  s.inTurn (.cpBulk g a) fun tok s t =>
    let w := t.words (4 * a.toNat) 16
    let b := bulkOf w
    if !bulkOk w false then .trap (plainTrap .illegalOp) 0
    else match b.misaligned with
      | some x => .trap { cause := .misaligned, addr := x, aux := 0 } 0
      | none =>
        if !b.fabric then .ok ((s.addCopy t tok (.bulk w) b.acq b.rel none).updThread t.key fun t => t.next 4)
        else match s.fabricCheck t b with
          | .error x => .trap x 0
          | .ok v =>
            let e := s.envOf t.bid
            let n := bits b.flags 16 12
            let win := s.window e.f n
            let rc : CopyRec := {
              cmd := s.nextId, epoch := win.epoch.toNat, vdn := v, env := e, handle := s.handleOf t.bid, desc := w,
              count := b.runs b.count, sent := 0, landed := 0, final := false, bind := s.bindOf t, tid := t.tid }
            let win := { win with
              counts := Tab.set (fun _ => 0) win.counts v (Tab.get (fun _ => 0) win.counts v + b.runs b.count),
              copies := win.copies ++ [rc] }
            .ok (((s.addCopy t tok (.bulk w) b.acq b.rel (some (n, v, bits (s.vdne e.f v) 15 8))).setWindow e.f n win).updThread t.key fun t => t.next 4)

/-- R180: the destination is a scratchpad address within the launch's share. Mask bits 31:4 are ignored. -/
def execCpMcast (g : BitVec 3) (d : BitVec 7) (a : BitVec 5) (s : State) : Res :=
  s.inTurn (.cpMcast g d a) fun tok s t =>
    let w := t.words (4 * a.toNat) 16
    let b := bulkOf w
    let mask := t.reg d.toNat
    if !bulkOk w true then .trap (plainTrap .illegalOp) 0
    else match b.misaligned with
      | some x => .trap { cause := .misaligned, addr := x, aux := 0 } 0
      | none =>
        let dst := b.dstAt 0
        if !inScratch dst || (s.envOf t.bid).share ≤ dst.toNat % 2 ^ 32 then
          .trap { cause := .accessDenied, addr := dst, aux := 0 } 0
        else
          let s := if mask / 16 = 0 then s else s.updGroup t.bid t.grp fun g => { g with cstat := g.cstat ||| 1 }
          .ok ((s.addCopy t tok (.mcast w (BitVec.ofNat 32 mask)) b.acq b.rel none).updThread t.key fun t => t.next 4)

/-- R182: the highest lane's binding remains. -/
def execCpBind (g : BitVec 3) (b : BitVec 5) (s : State) : Res :=
  s.inTurn (.cpBind g b) fun _ s t =>
    let nbar := (s.launchOf t.bid).elim 0 fun l => bits l.record.barriers.toNat 5 0
    if nbar ≤ b.toNat then .trap (plainTrap .accessDenied) 0
    else .ok ((s.updGroup t.bid t.grp fun g => { g with bind := some b.toNat }).updThread t.key fun t => t.next 4)

/-- R182. -/
def execCpBindNone (g : BitVec 3) (s : State) : Res :=
  s.inTurn (.cpBindNone g) fun _ s t =>
    .ok ((s.updGroup t.bid t.grp fun g => { g with bind := none }).updThread t.key fun t => t.next 4)

/-! Claims (R183, R184, R271). -/

/-- The slots (0–63) and tiles (64–71) that a claim word names. -/
def claimNames (x : Nat) : List Nat :=
  ((List.range (bits x 13 8 + 1)).map fun k => bits x 5 0 + k) ++ ((List.range 8).filter fun k => bit x (16 + k)).map fun k => 64 + k

/-- The zero bits of a claim word (R183). -/
def claimWordOk (x : Nat) : Bool := bits x 31 24 == 0 && bits x 15 14 == 0 && bits x 7 6 == 0

def Core.claim (c : Core) (n : Nat) : SlotSt := Tab.get (fun _ => SlotSt.free) c.claims n

def Core.setClaims (c : Core) (ns : List Nat) (x : SlotSt) : Core :=
  { c with claims := ns.foldl (fun t n => Tab.set (fun _ => SlotSt.free) t n x) c.claims }

/-- R183: every named slot and tile, or none. -/
def execTclaim (g : BitVec 3) (d : BitVec 3) (a : BitVec 7) (s : State) : Res :=
  s.inTurn (.tclaim g d a) fun _ s t =>
    let x := t.reg a.toNat
    if !claimWordOk x then .trap (plainTrap .illegalOp) 0
    else if 64 < bits x 5 0 + bits x 13 8 + 1 then .trap (plainTrap .tileRange) 0
    else
      let core := (s.envOf t.bid).core
      let c := s.core core
      let mine : SlotSt := .claimed t.bid t.grp
      let ok := (claimNames x).all fun n => c.claim n == .free || c.claim n == mine
      let s := if ok then s.setCore core (c.setClaims (claimNames x) mine) else s
      .ok (s.updThread t.key fun t => (t.setPred d.toNat ok).next 4)

/-- The slots and tiles that a matrix command names (R183, R184). -/
def MatKind.names (k : MatKind) (cfg : Pcfg) : List Nat :=
  let run (n m : Nat) : List Nat := (List.range m).map fun i => n + i
  match k with
  | .fill sl w => run sl (bits (dw w 3) 12 0 / 128 + 1)
  | .fillDq sl w => run sl (bits (dw w 3) 12 0 / 128 + 1)
  | .azero t n => run (64 + t) n
  | .aload t _ => [64 + t]
  | .drain t _ => [64 + t]
  | .drainAdd t _ => [64 + t]
  | .pcfg _ => []
  | .mma f n _ acc sa sb md _ =>
    run (64 + acc) ((n + 127) / 128) ++ [sa] ++ run sb (if md.isSome then (n + 63) / 64 else (n + 127) / 128) ++ md.toList ++
    (if f = 6 || ((f = 2 || f = 3 || f = 4) && cfg.fp8Scales) then [cfg.bSlot] else [])

/-- Frees every released slot and tile of a core once no command issued earlier names it, a gang mate's among them (R183, R271, R272). -/
def State.settleClaims (s : State) (core : Nat) : State :=
  let c := s.core core
  let busy (n bid before : Nat) : Bool := s.mcmds.any fun m => m.bid == bid && m.id < before && (m.kind.names m.cfg).contains n
  s.setCore core { c with claims := c.claims.filter fun e => match e.2 with
    | .pending bid _ before => busy e.1 bid before
    | _ => true }

/-- R183: released once every earlier matrix command that names it has completed. -/
def execTrel (g : BitVec 3) (a : BitVec 7) (s : State) : Res :=
  s.inTurn (.trel g a) fun _ s t =>
    let x := t.reg a.toNat
    let core := (s.envOf t.bid).core
    let c := s.core core
    if !claimWordOk x then .trap (plainTrap .illegalOp) 0
    else if 64 < bits x 5 0 + bits x 13 8 + 1 then .trap (plainTrap .tileRange) 0
    else if (claimNames x).any fun n => c.claim n != .claimed t.bid t.grp then .trap (plainTrap .slotNotClaimed) 0
    else .ok (((s.setCore core (c.setClaims (claimNames x) (.pending t.bid t.grp s.nextId))).settleClaims core).updThread t.key
      fun t => t.next 4)

/-- Whether a group may name slots and tiles: claimed by it or by a member of its gang (R184). -/
def State.mayName (s : State) (bid grp : Nat) (ns : List Nat) : Bool :=
  let c := s.core (s.envOf bid).core
  let gang := ((s.group? bid grp).elim 0 fun g => g.gang).toNat
  ns.all fun n => match c.claim n with
    | .claimed b g => b == bid && (g == grp || bit gang g)
    | _ => false

/-- The configuration in force for a group's next command (R188). -/
def State.cfgOf (s : State) (bid grp : Nat) : Pcfg := (s.group? bid grp).elim Pcfg.reset fun g => g.pcfg

/-- A matrix command enters the core's queue. -/
def State.addMat (s : State) (t : Thread) (tok : Nat) (kind : MatKind) (acq : Bool) (part : List ThreadKey) : State :=
  { s with nextId := s.nextId + 1, mcmds := s.mcmds ++ [{
      id := s.nextId, tok, core := (s.envOf t.bid).core, bid := t.bid, grp := t.grp, tid := t.tid, pc := t.pc, kind,
      before := if acq then some s.nextId else none, cfg := s.cfgOf t.bid t.grp, part, moved := [] }] }

/-- A matrix instruction of one thread, past its word checks: TILE_RANGE where it runs past its slots or tiles, then the claims. -/
def State.issueMat (s : State) (t : Thread) (tok : Nat) (kind : MatKind) (acq : Bool) : TRes :=
  let ns := kind.names (s.cfgOf t.bid t.grp)
  let tiles (n : Nat) : Bool := 72 ≤ n
  let beyond := match kind with
    | .fill _ _ | .fillDq _ _ => ns.any fun n => 64 ≤ n
    | _ => ns.any tiles
  if beyond then .trap (plainTrap .tileRange) 0
  else if !s.mayName t.bid t.grp ns then .trap (plainTrap .slotNotClaimed) 0
  else .ok ((s.addMat t tok kind acq []).updThread t.key fun t => t.next 4)

/-- The address and pitch of a descriptor, aligned to 16 bytes (R189, R192). -/
def dMisaligned (w : List Word) : Option VAddr :=
  if (dAddr w 0).toNat % 16 ≠ 0 then some (dAddr w 0) else if dw w 2 % 16 ≠ 0 then some 0 else none

/-- The zero bits and scope of a fill's word 3 (R189). -/
def fillOk (w : List Word) : Bool :=
  let f := dw w 3
  bits f 31 18 == 0 && scopeOk (bits f 17 15) (bit f 13 || bit f 14)

/-- R189. -/
def execTfill (g : BitVec 3) (n : BitVec 6) (a : BitVec 5) (s : State) : Res :=
  s.inTurn (.tfill g n a) fun tok s t =>
    let w := t.words (4 * a.toNat) 4
    if !fillOk w then .trap (plainTrap .illegalOp) 0
    else match dMisaligned w with
      | some x => .trap { cause := .misaligned, addr := x, aux := 0 } 0
      | none => s.issueMat t tok (.fill n.toNat w) (bit (dw w 3) 13)

/-- R190. -/
def execTfillDq (g : BitVec 3) (n : BitVec 6) (a : BitVec 5) (s : State) : Res :=
  s.inTurn (.tfillDq g n a) fun tok s t =>
    let w := t.words (4 * a.toNat) 8
    if !fillOk w || dw w 5 % 32 != 0 || dw w 6 != 0 || dw w 7 != 0 then .trap (plainTrap .illegalOp) 0
    else match dMisaligned w with
      | some x => .trap { cause := .misaligned, addr := x, aux := 0 } 0
      | none => s.issueMat t tok (.fillDq n.toNat w) (bit (dw w 3) 13)

/-- R191: `n` is the count less one. -/
def execAzero (g : BitVec 3) (ti : BitVec 3) (n : BitVec 3) (s : State) : Res :=
  s.inTurn (.azero g ti n) fun tok s t => s.issueMat t tok (.azero ti.toNat (n.toNat + 1)) false

/-- R191. -/
def execAload (g : BitVec 3) (ti : BitVec 3) (a : BitVec 7) (s : State) : Res :=
  s.inTurn (.aload g ti a) fun tok s t =>
    let ea := t.addr a.toNat
    if ea.toNat % 16 ≠ 0 then .trap { cause := .misaligned, addr := ea, aux := 0 } 0
    else s.issueMat t tok (.aload ti.toNat ea) false

/-- The zero bits, scope and format of a drain's word 3 (R192). -/
def drainOk (w : List Word) (add : Bool) : Bool :=
  let f := dw w 3
  let fmt := bits f 2 0
  bits f 31 16 == 0 && scopeOk (bits f 15 13) (bit f 12) &&
  (if add then (fmt == 0 || fmt == 5) && bits f 5 3 == 0 else fmt ≤ 4 && (fmt != 0 || bits f 5 3 == 0))

/-- A drain of either kind at its issue. -/
def drainOp (add : Bool) (ti a tok : Nat) (s : State) (t : Thread) : TRes :=
  let w := t.words (4 * a) 4
  if !drainOk w add then .trap (plainTrap .illegalOp) 0
  else match dMisaligned w with
    | some x => .trap { cause := .misaligned, addr := x, aux := 0 } 0
    | none => s.issueMat t tok (if add then .drainAdd ti w else .drain ti w) false

/-- R192. -/
def execTdrain (g : BitVec 3) (ti : BitVec 3) (a : BitVec 5) (s : State) : Res :=
  s.inTurn (.tdrain g ti a) (drainOp false ti.toNat a.toNat)

/-- R192. -/
def execTdrainAdd (g : BitVec 3) (ti : BitVec 3) (a : BitVec 5) (s : State) : Res :=
  s.inTurn (.tdrainAdd g ti a) (drainOp true ti.toNat a.toNat)

/-- R187. -/
def execGang (g : BitVec 3) (a : BitVec 7) (s : State) : Res :=
  s.inTurn (.gang g a) fun _ s t =>
    let x := t.reg a.toNat
    let n := ((List.range 16).filter fun k => bit x k).length
    if x / 2 ^ 16 ≠ 0 then .trap (plainTrap .illegalOp) 0
    else if x ≠ 0 && (n < 2 || 6 < n || !bit x t.grp) then .trap (plainTrap .gangMismatch) 0
    else .ok ((s.updGroup t.bid t.grp fun g => { g with gang := BitVec.ofNat 16 x }).updThread t.key fun t => t.next 4)

/-- The configuration of a `pcfg` descriptor (R188). -/
def pcfgOf (w : List Word) : Pcfg where
  s := dAddr w 0
  z := dAddr w 2
  g128 := bit (dw w 4) 0
  fp8Scales := bit (dw w 4) 1
  sparseTrap := bit (dw w 4) 2
  bSlot := bits (dw w 4) 8 3
  pitchS := dw w 5
  pitchZ := dw w 6

/-- R188: the scale pitch's evenness is not checked here (R171, R274). -/
def execPcfg (g : BitVec 3) (a : BitVec 5) (s : State) : Res :=
  s.inTurn (.pcfg g a) fun tok s t =>
    let w := t.words (4 * a.toNat) 8
    if bits (dw w 4) 31 9 ≠ 0 || dw w 7 ≠ 0 then .trap (plainTrap .illegalOp) 0
    else
      let s := s.addMat t tok (.pcfg (pcfgOf w)) false []
      .ok ((s.updGroup t.bid t.grp fun g => { g with pcfg := pcfgOf w }).updThread t.key fun t => t.next 4)

/-- R194: `x` clears the word after it is read, `w` selects the copy status. -/
def execMstat (g : BitVec 3) (d : BitVec 7) (x : BitVec 1) (w : BitVec 1) (s : State) : Res :=
  s.inTurn (.mstat g d x w) fun _ s t =>
    match s.group? t.bid t.grp with
    | none => .held
    | some gr =>
      let v := if w = 0 then gr.mstat.toNat else gr.cstat.toNat + 256 * gr.mcastDrop
      let s := if x = 0 then s
        else if w = 0 then s.updGroup t.bid t.grp fun g => { g with mstat := 0 }
        else s.updGroup t.bid t.grp fun g => { g with cstat := 0, mcastDrop := 0 }
      .ok (s.updThread t.key fun t => (t.setReg d.toNat v).next 4)

/-! `mma` (R185 to R187). -/

/-- The command of an `mma` word: `f` is the major's low bits, `md` the metadata slot of the sparse form (R22, R28). -/
def mmaKind (f : Nat) (n : BitVec 6) (m : BitVec 2) (c : BitVec 3) (a b : BitVec 6) (md : Option Nat) : MatKind :=
  .mma f (16 * (n.toNat + 1)) (16 * 2 ^ m.toNat) c.toNat a.toNat b.toNat md []

/-- The metadata slot that a `lim` payload gives (R28). -/
def limMeta (h : Option Nat) : Option Nat :=
  match h with
  | some h => if bit h 0 then some (bits h 6 1) else none
  | none => none

/-- TILE_RANGE of an `mma`: a C tile beyond a7, or a B slot beyond t63 (R185). -/
def mmaOver (k : MatKind) : Bool :=
  match k with
  | .mma _ n _ acc _ sb md _ =>
    7 < acc + (n + 127) / 128 - 1 || 63 < sb + (if md.isSome then (n + 63) / 64 else (n + 127) / 128) - 1
  | _ => false

/-- Whether the command's threads wait for its metadata to be checked (R186). -/
def mmaChecks (k : MatKind) (cfg : Pcfg) : Bool :=
  match k with
  | .mma _ _ _ _ _ _ (some _) _ => cfg.sparseTrap
  | _ => false

/-- Whether another group that waits at the gang latch lists a group (R187). -/
def State.listed (s : State) (bid grp : Nat) : Bool := s.groups.any fun g => g.bid == bid && g.idx != grp && g.latch.isSome && g.gang.getLsbD grp

/-- An `mma` fires for its group: into the queue, or to the gang latch, where its own gang register is set or a waiting group lists it
(R186, R187). -/
def mmaOp (guard len : Nat) (k : MatKind) (tok : Nat) (s : State) (bid grp : Nat) (part : List Thread) : GRes :=
  match part, s.group? bid grp with
  | t0 :: _, some g =>
    if mmaOver k then .trap (part.map fun t => (t.key, plainTrap .tileRange))
    else if !s.mayName bid grp (k.names g.pcfg) then .trap (part.map fun t => (t.key, plainTrap .slotNotClaimed))
    else if g.gang ≠ 0 || s.listed bid grp then
      let l : Latch := { kind := k, guard, len, tok, part := part.map fun t => t.tid, pc := t0.pc }
      .park ((s.updGroup bid grp fun g => { g with latch := some l }).standAt bid grp t0.pc .gang fun _ => true)
    else if mmaChecks k g.pcfg then
      .ok ((s.addMat t0 tok k false (part.map fun t => t.key)).standAt bid grp t0.pc .sparse fun _ => true)
    else .ok (s.addMat t0 tok k false [])
  | _, _ => .held

/-- R185, R186. -/
def execMmaF16 (g : BitVec 3) (n : BitVec 6) (m : BitVec 2) (c : BitVec 3) (a b : BitVec 6) (s : State) : Res :=
  s.together (.mmaF16 g n m c a b) (mmaOp g.toNat 4 (mmaKind 0 n m c a b none))

/-- R185, R186. -/
def execMmaBf16 (g : BitVec 3) (n : BitVec 6) (m : BitVec 2) (c : BitVec 3) (a b : BitVec 6) (s : State) : Res :=
  s.together (.mmaBf16 g n m c a b) (mmaOp g.toNat 4 (mmaKind 1 n m c a b none))

/-- R185, R186. -/
def execMmaE4m3 (g : BitVec 3) (n : BitVec 6) (m : BitVec 2) (c : BitVec 3) (a b : BitVec 6) (s : State) : Res :=
  s.together (.mmaE4m3 g n m c a b) (mmaOp g.toNat 4 (mmaKind 2 n m c a b none))

/-- R185, R186. -/
def execMmaE4m3e5m2 (g : BitVec 3) (n : BitVec 6) (m : BitVec 2) (c : BitVec 3) (a b : BitVec 6) (s : State) : Res :=
  s.together (.mmaE4m3e5m2 g n m c a b) (mmaOp g.toNat 4 (mmaKind 3 n m c a b none))

/-- R185, R186. -/
def execMmaE5m2 (g : BitVec 3) (n : BitVec 6) (m : BitVec 2) (c : BitVec 3) (a b : BitVec 6) (s : State) : Res :=
  s.together (.mmaE5m2 g n m c a b) (mmaOp g.toNat 4 (mmaKind 4 n m c a b none))

/-- R185, R186. -/
def execMmaS8 (g : BitVec 3) (n : BitVec 6) (m : BitVec 2) (c : BitVec 3) (a b : BitVec 6) (s : State) : Res :=
  s.together (.mmaS8 g n m c a b) (mmaOp g.toNat 4 (mmaKind 5 n m c a b none))

/-- R185, R186. -/
def execMmaE2m1 (g : BitVec 3) (n : BitVec 6) (m : BitVec 2) (c : BitVec 3) (a b : BitVec 6) (s : State) : Res :=
  s.together (.mmaE2m1 g n m c a b) (mmaOp g.toNat 4 (mmaKind 6 n m c a b none))

/-- R185, R186. -/
def execMmaBf16s4 (g : BitVec 3) (n : BitVec 6) (m : BitVec 2) (c : BitVec 3) (a b : BitVec 6) (s : State) : Res :=
  s.together (.mmaBf16s4 g n m c a b) (mmaOp g.toNat 4 (mmaKind 7 n m c a b none))

end Sys2Proof.Machine
end

