-- ==== Sys2Proof/Machine/Image.lean ====
section
/-! DEFINITION. The image of a block in its function's save area (R378 to R380): its sections, its bytes, and where it lies. -/

namespace Sys2Proof.Machine

/-- The cycles that a queued group has left at its line's home here; 0 where it has no timer (R287, R290). -/
def State.waitLeft (s : State) (g : Group) : Nat :=
  let w := (s.locks.flatMap fun e => e.waiters).find? fun w => w.vdn.isNone && w.who == { dev := s.phys, bid := g.bid, grp := g.idx }
  ((w.bind fun w => w.deadline).map fun d => d - s.clk).getD 0

/-- The barrier registers of a block's launch. -/
def State.nbarOf (s : State) (lid : Nat) : Nat := (s.launch? lid).elim 0 fun l => l.record.nbar

/-- The size of the image that a resident block would have (R379); a request to give a peer's line back may still come. -/
def State.imageSize (s : State) (b : Block) : Nat :=
  let c := s.core b.core
  let gs := s.groups.filter fun g => g.bid == b.bid
  imageBytes b.share (s.nbarOf b.lid) gs.length (s.copies.filter fun x => x.bid == b.bid).length
    ((s.nps.filter fun p => p.bid == b.bid).length + (gs.filter fun g => g.unlocking.any fun u => !u.sent).length) (c.segs.filter fun e => e.2.lid == b.lid).length
    (gs.map fun g => g.size).sum (((s.threads.filter fun t => t.bid == b.bid).map fun t => 16 * t.nb).sum)
    (c.claims.filter fun e => e.2.ofBlock b.bid) (c.pools.filter fun p => p.2.bid == b.bid)

/-! The save area (R378). -/

/-- The save area of a function (R378). -/
def State.saveArea (s : State) (f : Nat) : Nat × Nat :=
  ((s.sys (fReg 0x0700 f 0)).toNat / 4096 * 4096 + (s.sys (fReg 0x0700 f 1)).toNat % 4096 * 2 ^ 32,
   (s.sys (fReg 0x0700 f 2)).toNat * 2 ^ 20)

/-- The places that the images of a function's halted and saved blocks hold. -/
def State.savePlaces (s : State) (f : Nat) : List (Nat × Nat) :=
  ((s.blocks ++ s.saved.map fun x => x.block).filter fun b => (s.launch? b.lid).any fun l => l.f == f).filterMap fun b => b.saveAt

/-- The lowest place of `n` bytes in an area beside others, by a unit (log entry 97). -/
def spotIn (area : Nat × Nat) (taken : List (Nat × Nat)) (unit n : Nat) : Option Nat :=
  let up (a : Nat) : Nat := (a + unit - 1) / unit * unit
  let ok (a : Nat) : Bool := a + n ≤ area.1 + area.2 && taken.all fun t => a + n ≤ t.1 || t.1 + t.2 ≤ a
  ((up area.1 :: taken.map fun t => up (t.1 + t.2)).filter ok).min?

/-- Where the images of blocks find room in the save area, each with its size (R378): those of a world launch in pages of their own (R368). -/
def State.placeSaves (s : State) (f : Nat) : List Block → List (Nat × Nat) → Option (List (Nat × Nat × Nat))
  | [], _ => some []
  | b :: r, taken =>
    let unit := if ((s.launch? b.lid).elim 0 fun l => l.tag) = 0 then 128 else 4096
    let n := (s.imageSize b + unit - 1) / unit * unit
    (spotIn (s.saveArea f) taken unit n).bind fun a => (State.placeSaves s f r ((a, n) :: taken)).map fun l => (b.bid, a, n) :: l

/-- The places for the images of blocks of a function that halt together: none where the free space does not hold them (R378). -/
def State.saveRoom (s : State) (f : Nat) (bs : List Block) : Option (List (Nat × Nat × Nat)) := s.placeSaves f bs (s.savePlaces f)

/-- A block's image is stored at its place, in pages owned under its launch's tag (R368, R378). -/
def State.storeImage (s : State) (x : SavedBlock) (l : Launch) : State :=
  match x.block.saveAt with
  | none => s
  | some (a, n) =>
    let bs := x.image l s.waitLeft
    let s := { s with mem := s.mem.store a bs }.mark a bs.length
    if l.tag = 0 then s else (List.range (n / 4096)).foldl (fun s i => s.setOwner (a + 4096 * i) l.tag) s

end Sys2Proof.Machine
end

