-- ==== Sys2Proof/Machine/Place.lean ====
section
/-! DEFINITION. Blocks on cores: where one fits, its placement and start, its halt, save and resumption, its end and the scrub
of its core; and the function's save area (R209 to R213, R222 to R229, R232 to R234, R247, R248, R290, R291, R320, R348,
R368, R377 to R382). -/

namespace Sys2Proof.Machine

/-! Lanes for a block's groups (R211). -/

/-- Whether a half of every core of a list has room for a group of `n` threads of `regs` blocks beside groups already given a half: (half,
threads). The copies of a pair take the same lanes (R314). -/
def State.halfFits (s : State) (cores : List Nat) (given : List (Nat × Nat)) (half n regs : Nat) : Bool :=
  cores.all fun core => (List.range n).all fun k =>
    let c := (given.filter fun g => g.1 == half && k < g.2).length
    (s.onLane core (32 * half + k)).length + c < 8 && regs * (c + 1) ≤ s.freeRegs core (32 * half + k)

/-- The halves of groups of these sizes in order, if all fit. -/
def State.halves (s : State) (cores : List Nat) (regs : Nat) : List Nat → List (Nat × Nat) → Option (List (Nat × Nat))
  | [], given => some given
  | n :: rest, given =>
    if s.halfFits cores given 0 n regs then s.halves cores regs rest (given ++ [(0, n)])
    else if s.halfFits cores given 1 n regs then s.halves cores regs rest (given ++ [(1, n)])
    else none

/-- The sizes of a block's groups (R211). -/
def groupSizes (t : Nat) : List Nat := (List.range ((t + 31) / 32)).map fun g => min 32 (t - 32 * g)

/-- The blocks resident on a core. -/
def State.resident (s : State) (core : Nat) : List Block := s.blocks.filter fun b => b.core == core

/-- Whether a block is halted and draining. -/
def Block.halting (b : Block) : Bool :=
  match b.status with
  | .halting _ => true
  | _ => false

/-- The cores whose places are kept for the killed blocks of a gang-scheduled launch, while it is not switched out (R226). -/
def State.keptCores (s : State) (o : Launch) : List Nat :=
  if o.failed || !o.record.gang || (s.saved.any fun x => x.block.lid == o.lid) || (s.blocks.any fun b => b.lid == o.lid && b.halting) then []
  else (o.waiting.filter fun w => w.saved.isNone).flatMap fun w => [w.core, w.core2]

/-- Whether a core's barrier registers and scratchpad have room beside the resident blocks, and no other launch keeps it (R222, R226, R233,
R348). -/
def State.coreRoom (s : State) (l : Launch) (core : Nat) : Bool :=
  let bs := s.resident core
  bs.all (fun b => b.lid == l.lid) &&
  (bs.length + 1) * l.record.nbar ≤ 32 &&
  (bs.map fun b => b.share).sum + l.record.share ≤ (512 - l.record.l1k) * 1024 &&
  s.launches.all fun o => o.lid == l.lid || !(s.keptCores o).contains core

/-- The most hierarchy barriers of an instance (R221). -/
def hbarMax (level : Nat) : Nat :=
  match level with
  | 3 => 16 | 4 => 8 | 5 => 4 | _ => 2

/-- Whether the instances that hold a core have the granted hierarchy barriers free of other launches (R224, R348). -/
def State.hbarRoom (s : State) (l : Launch) (core : Nat) : Bool :=
  [3, 4, 5, 6].all fun level =>
    let inst := levelInst level core
    let others := s.launches.filter fun o => o.lid != l.lid && ((s.blocks.any fun b => b.lid == o.lid && levelInst level b.core == inst) ||
      (s.keptCores o).any fun c => levelInst level c == inst)
    l.record.granted level == 0 || (others.map fun o => o.record.granted level).sum + l.record.granted level ≤ hbarMax level

/-- Whether a core is awake and of the launch's partition (R348, R437). -/
def State.coreUsable (s : State) (l : Launch) (core : Nat) : Bool :=
  core < 192 && s.dieId (dieOf core) == s.partOf l.f && ((s.core core).power == .run || (s.core core).power == .clockGate)

/-- Whether a new block of a launch fits on a core, or the copies of a pair on two cores of one quad (R314, R348). -/
def State.fits (s : State) (l : Launch) (cores : List Nat) : Bool :=
  (cores.all fun core => s.coreUsable l core && s.coreRoom l core && s.hbarRoom l core) &&
  (s.halves cores l.record.regs (groupSizes l.record.threads) []).isSome

/-- A place for a block of a launch: one core, or two of one quad for a pair. -/
def cores? (l : Launch) (core core2 : Nat) : Option (List Nat) :=
  if !l.record.redundant then some [core] else if core ≠ core2 && quadOf core = quadOf core2 then some [core, core2] else none

/-- Every such place. -/
def places (l : Launch) : List (List Nat) :=
  (List.range 192).flatMap fun c => if l.record.redundant then
      ([0, 1, 2, 3].filter fun k => c / 4 * 4 + k != c).map fun k => [c, c / 4 * 4 + k]
    else [[c]]

/-! Ends and scrubs (R368). -/

/-- The scrub of a core that the last block of a launch has left (R234, R368): dirty L1 lines are written back, and nothing stays
(log entry 106). -/
def State.scrubCore (s : State) (core : Nat) : State :=
  let s := s.flushL1 core
  let c := s.core core
  s.setCore core { Core.reset with l1k := c.l1k, evSrc := c.evSrc, evCnt := c.evCnt, power := c.power, gatedAt := c.gatedAt,
                                   wrapEpoch := c.wrapEpoch }

/-- Lines filled or written with a world's tag leave the Mere and the constant caches once no launch with it remains (R368). -/
def State.worldFlush (s : State) (tag : Nat) : State :=
  if tag = 0 || s.launches.any (fun l => l.tag == tag && (s.blocks.any (fun b => b.lid == l.lid) ||
      s.saved.any (fun b => b.block.lid == l.lid) || !l.failed)) then s
  else
    let s := (s.mere.filter fun m => m.tags.contains tag).foldl State.mereOut s
    { s with dies := s.dies.mapVals (fun _ => Die.reset) fun d => { d with constLines := d.constLines.filter fun c => c.tag != tag } }

/-- A core on which no block is left has no code (R247). -/
def State.emptyCode (s : State) (core : Nat) : State :=
  if (s.resident core).isEmpty then s.setCore core { s.core core with segs := [] } else s

/-- A saved block leaves its core: where it is a world's and none of its launch stays, the core is scrubbed at once (R368). Otherwise the scrub
waits for the next launch on the core, or the end of this one: a later block of the launch finds the L1 as it was left (R234). -/
def State.leaveCore (s : State) (core tag : Nat) : State :=
  if tag != 0 && (s.resident core).isEmpty then s.scrubCore core else s.emptyCode core

/-- The cores that a launch still holds are scrubbed (R346, R368). -/
def State.scrubLaunch (s : State) (lid : Nat) : State :=
  (s.cores.filter fun e => e.2.lid == some lid).foldl (fun s e => s.scrubCore e.1) s

/-- A device's report of a phase of a pod barrier: for the phase in progress, already for the next, or for every later one. A device reports its phases
in order, so one of the other phase comes early only behind this phase's; else it repeats the phase that is complete, and counts no more (R381). -/
def HBar.report (h : HBar) (dev phase : Nat) : HBar :=
  let add (l : List Nat) : List Nat := if l.contains dev then l else l ++ [dev]
  if phase = 2 then { h with gone := add h.gone }
  else if ofBool h.phase = phase then { h with reports := add h.reports }
  else if h.reports.contains dev then { h with early := add h.early } else h

/-- Whether a report is for a launch: its tag and its pod set (R225, R348). -/
def PodHeard.isFor (x : PodHeard) (l : Launch) : Bool :=
  bits l.record.barriers.toNat 31 20 == x.tag && l.record.podset == x.mask && l.record.granted 6 != 0

/-- Unpins a key slot (R367). -/
def State.unpin (s : State) (k : Nat) : State :=
  let f (e : Nat × KeySlot) : Nat × KeySlot := if e.1 = k then (k, { e.2 with pins := e.2.pins - 1 }) else e
  { s with keySlots := s.keySlots.map f }

/-- A launch that has finished, failed or was aborted goes once none of its blocks is left; the cores that it leaves are scrubbed, and its key
slot is unpinned (R367, R368, R374). -/
def State.sweepLaunch (s : State) (lid : Nat) : State :=
  match s.launch? lid with
  | none => s
  | some l =>
    if l.failed && !(s.blocks.any fun b => b.lid == lid) then
      let s := s.scrubLaunch lid
      let s := { s with podHeard := s.podHeard.filter fun x => !x.isFor l }
      let s := { s with launches := s.launches.filter fun l => l.lid != lid }
      let s := match l.slot with
        | some k => s.unpin k
        | none => s
      s.worldFlush l.tag
    else s

/-- What a block's claims become on its core: Scrub at a kill, Free at its end (R212, R271). -/
def Core.dropClaims (c : Core) (bid : Nat) (kill : Bool) : Core :=
  let f (e : Nat × SlotSt) : Nat × SlotSt := if e.2.ofBlock bid then (e.1, if kill then SlotSt.scrub else SlotSt.free) else e
  { c with claims := (c.claims.map f).filter fun e => e.2 != .free }

/-- A block ends, whole or for a relaunch; its resources return, and the error record for which it was killed is written (R100, R222, R278,
R374). -/
def State.endBlock (s : State) (bid : Nat) : State :=
  match s.block? bid with
  | none => s
  | some b =>
    let (kill, again) := match b.status with
      | .dying r => (true, r)
      | _ => (false, false)
    let s := { s with
      blocks := s.blocks.filter (fun x => x.bid != bid), groups := s.groups.filter (fun g => g.bid != bid),
      threads := s.threads.filter fun t => t.bid != bid }
    let s := (s.setCore b.core ((s.core b.core).dropClaims bid kill)).emptyCode b.core
    let lastOfPair := b.role == .solo || !(s.blocks.any fun x => x.bid == b.mate)
    let s := if again then
        (if lastOfPair then
          (s.coreEvent b.core 12 1).updLaunch b.lid fun l => { l with
            waiting := { blk := b.blk, relaunch := b.relaunch + 1, saved := none, behind := false, core := b.core, core2 := b.mateCore } :: l.waiting }
        else s)
      else s.updLaunch b.lid fun l => { l with ended := if l.ended.contains b.blk then l.ended else l.ended ++ [b.blk] }
    let s := match b.record with
      | none => s
      | some r => if lastOfPair then s.failLaunch b.lid r else s.updBlock b.mate fun x => { x with record := some r }
    (s.hbarSettle b.lid).sweepLaunch b.lid

/-! Placement (R209, R211, R225, R247). -/

/-- A new group (R212). -/
def newGroup (bid idx size : Nat) : Group where
  bid := bid
  idx := idx
  size := size
  ld := 0
  st := 0
  cp := 0
  tl := 0
  queue := []
  held := []
  lastLine := 0
  lastStat := 0
  req := none
  unlocking := none
  losing := []
  gang := 0
  latch := none
  pcfg := Pcfg.reset
  bind := none
  mstat := 0
  cstat := 0
  mcastDrop := 0
  fails := 0
  ckpting := false
  entries := 0
  snapAt := 0
  mirrors := []

/-- A new thread (R209): v0 and v1 hold a 64-bit value. -/
def newThread (bid grp tid lane : Nat) (pc : VAddr) (v nb : Nat) : Thread where
  bid := bid
  grp := grp
  tid := tid
  lane := lane
  pc := pc
  regs := Tab.set (fun _ => (0 : Word)) (Tab.set (fun _ => (0 : Word)) [] 0 (BitVec.ofNat 32 v)) 1 (BitVec.ofNat 32 (v / 2 ^ 32))
  nb := nb
  wb := 0
  preds := 0
  flags := 0
  age := 0
  busy := []
  busyP := []
  wait := .none
  gate := none
  syncTok := none
  stalled := none
  frame := TrapFrame.reset
  inHandler := false
  deferred := []
  overflow := false
  icount := 0
  born := {
    pc, regs := Tab.set (fun _ => (0 : Word)) (Tab.set (fun _ => (0 : Word)) [] 0 (BitVec.ofNat 32 v)) 1 (BitVec.ofNat 32 (v / 2 ^ 32)), nb,
    wb := 0, preds := 0, flags := 0, syncTok := none }
  snapshot := none
  lvq := []
  sig := []
  sigAt := 0
  sigId := 0
  sigImp := false
  sigPos := 0
  outcome := none

/-- A fetch of a granule into a segment at placement or resumption: nothing where that segment, or with `any` whichever segment, holds
it already (R247, R248); a fault is the cause. A miss is walked in the same step (log entry 32). -/
def State.preload (s : State) (e : Env) (lid seg : Nat) (a : VAddr) (any : Bool) : Except Cause State :=
  let g := a.toNat / 4096
  if (s.core e.core).segs.any fun x => x.2.granule == g && x.2.tag == e.tag && (any || x.1 == seg) then .ok s
  else
  let s := s.walkNow e (4096 * g)
  match s.resolve e .cfetch (BitVec.ofNat 64 (4096 * g)) 4096 with
    | .error x => .error x.cause
    | .ok src =>
      let reader := (s.block? e.bid).bind fun b => if b.role == .trail then some b.mateCore else none
      let x : Seg := { granule := g, tag := e.tag, landed := false, again := false, lid, src, id := s.nextId, after := none, reader }
      let c := s.core e.core
      .ok (s.setCore e.core { c with segs := Tab.set (fun _ => Seg.empty) c.segs seg x })

/-- A preload fault ends the block and fails the launch (R247, R248). -/
def State.preloadFault (s : State) (lid bid blk : Nat) (a : VAddr) (c : Cause) : State :=
  let g : VAddr := BitVec.ofNat 64 (a.toNat / 4096 * 4096)
  (s.killBlock bid false (s.nextId + 1)).failLaunch lid
    { ErrRec.empty with kind := 8, cause := c.code, blk, pc := g, addr := g }

/-- Fetches granules into their segments in order, up to the first that faults: the state then, and the fault with its address. -/
def State.preloadAll (s : State) (e : Env) (lid : Nat) : List (Nat × VAddr × Bool) → State × Option (VAddr × Cause)
  | [] => (s, none)
  | (n, a, any) :: r => match s.preload e lid n a any with
    | .ok s => s.preloadAll e lid r
    | .error c => (s, some (a, c))

/-- The preloads of a block, or of both copies of a pair: the entry granule into segment 0 where no segment holds it, the handler's into
63; the first fault ends the launch with one error record (R247, R315). -/
def State.preloads (s : State) (l : Launch) (blk : Nat) : List (Nat × Nat) → State
  | [] => s
  | (core, bid) :: r =>
    let hs := if l.record.handler = 0 then [] else [(63, l.record.handler, false)]
    match s.preloadAll (l.env core bid l.record.share) l.lid ((0, l.record.entry, true) :: hs) with
    | (s, none) => s.preloads l blk r
    | (s, some (a, c)) => s.preloadFault l.lid bid blk a c

/-- Takes a core for a launch, with the carve-out of its blocks, scrubbed if it held another's (R232, R234, R368). -/
def State.takeCore (s : State) (l : Launch) (core : Nat) : State :=
  let s := (if (s.core core).lid == some l.lid then s else s.scrubCore core).gatePause core
  let c := s.core core
  (s.setCore core { c with lid := some l.lid, l1k := l.record.l1k }).updLaunch l.lid fun l =>
    { l with cores := if l.cores.contains core then l.cores else l.cores ++ [core] }

/-- Places one copy of a new block: its groups, with their halves, and threads by R209 and R211. -/
def State.putBlock (s : State) (l : Launch) (bid blk core relaunch mate mateCore : Nat) (role : Role) (halves : List (Nat × Nat)) : State :=
  let r := l.record
  let hs := halves.zipIdx
  let s := s.takeCore l core
  let b : Block := {
    bid, lid := l.lid, blk, core, share := r.share, scratch := [], bars := [], barEvs := [], arrivers := [], relaunch, spawnStall := 0, role,
    mate, ref := (s.phys, bid), mismatches := 0, started := false, status := .running, record := none, lastIssue := s.clk, counted := 0, sliceStart := s.clk,
    mateCore, saveAt := none }
  let ths : List Thread := hs.flatMap fun x => (List.range x.1.2).map fun k =>
    newThread bid x.2 (32 * x.2 + k) (32 * x.1.1 + k) r.entry l.addr.toNat r.regs
  { s with blocks := s.blocks ++ [b], groups := s.groups ++ hs.map (fun x => newGroup bid x.2 x.1.2), threads := s.threads ++ ths }

/-- Places a block, or its pair (R314, R348): nothing where it does not fit. -/
def State.place (s : State) (lid blk relaunch : Nat) (cores : List Nat) : Option State :=
  match s.launch? lid with
  | none => none
  | some l =>
    if !s.fits l cores then none
    else
      let bid := s.nextId
      let hs := (s.halves cores l.record.regs (groupSizes l.record.threads) []).getD []
      match cores with
      | [core] => some (({ s with nextId := bid + 1 }.putBlock l bid blk core relaunch bid core .solo hs).preloads l blk [(core, bid)])
      | [core, core2] =>
        let s := { s with nextId := bid + 2 }
        let s := (s.putBlock l bid blk core relaunch (bid + 1) core2 .lead hs).putBlock l (bid + 1) blk core2 relaunch bid core .trail hs
        some (s.preloads l blk [(core, bid), (core2, bid + 1)])
      | _ => none

/-- A launch counts a report (R225). -/
def PodHeard.tell (x : PodHeard) (l : Launch) : Launch :=
  { l with hbars := l.hbars.map fun (h : HBar) => if h.level == 6 && h.idx == x.idx then h.report x.dev x.phase else h }

/-- A launch that stands placed counts the reports that came before (log entry 111). -/
def State.hearPod (s : State) (lid : Nat) : State :=
  match s.launch? lid with
  | none => s
  | some l =>
    let xs := s.podHeard.filter fun x => x.isFor l
    if xs.isEmpty then s
    else ({ s with podHeard := s.podHeard.filter fun x => !x.isFor l }.updLaunch lid fun l => xs.foldl (fun l (x : PodHeard) => x.tell l) l).hbarSettle lid

/-- The hierarchy barriers of a gang-scheduled launch whose blocks stand placed (R225). -/
def State.makeHbars (s : State) (lid : Nat) : State :=
  (s.updLaunch lid fun l =>
    let bs := s.blocks.filter fun b => b.lid == lid && b.role != .trail
    let of (level idx inst : Nat) : HBar := {
      level, inst, idx, phase := false, members := (bs.filter fun b => levelInst level b.core == inst).map fun b => b.blk,
      arrived := [], reports := [], early := [], gone := [], told := false, toldGone := false, before := [] }
    { l with hbars := [3, 4, 5, 6].flatMap fun level => (List.range (l.record.granted level)).flatMap fun idx =>
        ((bs.map fun b => levelInst level b.core).eraseDups).map fun inst => of level idx inst }).hearPod lid

/-- How many cores of a place hold blocks of a launch already (R348). -/
def State.heldOf (s : State) (l : Launch) (cores : List Nat) : Nat := (cores.filter fun c => (s.resident c).any fun b => b.lid == l.lid).length

/-- Of the places that qualify, those with the most cores that already hold blocks of the launch (R348). -/
def State.best (s : State) (l : Launch) (ps : List (List Nat)) : List (List Nat) :=
  let most := (ps.map (s.heldOf l)).foldl max 0
  ps.filter fun p => s.heldOf l p == most

/-- Blocks of a launch placed one after another, each at the first place that `pick` answers; a preload fault ends it all (R247). -/
def State.placeEach (s : State) (l : Launch) (pick : State → Option (List Nat)) : List Nat → Option State
  | [] => some s
  | b :: r =>
    if (s.launch? l.lid).all fun l => l.failed then some s
    else match (pick s).bind fun p => s.place l.lid b 0 p with
      | some s => s.placeEach l pick r
      | none => none

/-- The place with the fewest resident blocks, which spreads pairs over the cores of a quad. -/
def State.emptiest (s : State) (ps : List (List Nat)) : Option (List Nat) :=
  let load (p : List Nat) : Nat := (p.map fun c => (s.resident c).length).sum
  ps.find? fun p => ps.all fun q => load p ≤ load q

/-- Every block of a gang-scheduled launch, placed together (R227): on cores that hold blocks of it first, else spread evenly. -/
def State.placeAll (s : State) (l : Launch) : Option State :=
  let n := l.record.grid.toNat
  let full (s : State) : Option (List Nat) := (s.best l ((places l).filter (s.fits l))).head?
  let even (s : State) : Option (List Nat) := s.emptiest ((places l).filter (s.fits l))
  if 3072 < n then none
  else
    let all := match s.placeEach l full (List.range n) with
      | some t => some t
      | none => s.placeEach l even (List.range n)
    all.map fun s => (s.updLaunch l.lid fun l => { l with next := n }).makeHbars l.lid

/-! The start of a block (R247, R248, R269). -/

/-- Whether every code granule that a block waits for has landed: the launch's segments in flight on its core. -/
def State.codeReady (s : State) (b : Block) : Bool := (s.core b.core).segs.all fun e => e.2.landed || e.2.lid != b.lid

/-- A staged line is written into a starting block's scratchpad and counts on its register of the bound index then (R181, R269). -/
def State.unstage (s : State) (bid : Nat) (x : Staged) : State :=
  let s := s.updBlock bid fun b => { b with scratch := b.scratch.store x.off x.data }
  let owes (c : CopyCmd) : Bool := c.id == x.cmd && c.rel
  let owe (c : CopyCmd) : CopyCmd := if owes c then { c with owed := c.owed ++ [(bid, x.data.length)] } else c
  -- a copy with a release that is still under way owes them until it is complete (R172)
  if (s.copies ++ (s.saved.flatMap fun y => y.copies) ++ s.resuming.flatMap fun r => r.copies).any owes then
    { s with copies := s.copies.map owe, saved := s.saved.map fun y => { y with copies := y.copies.map owe },
             resuming := s.resuming.map fun (r : Resuming) => { r with copies := r.copies.map owe } }
  else s.landBar bid x.bind x.data.length

/-- A holder's count pauses, or runs on from a cycle (R291). -/
def LockEntry.count (e : LockEntry) (clk : Nat) (run : Bool) : LockEntry :=
  { e with held := e.held + (e.since.map fun c => clk - c).getD 0, since := if run then some clk else none }

/-- The peer homes at which a block's groups wait for a line or hold one hear that it is switched out, or back (R290, R291, R293, log
entry 85). -/
def State.tellHomes (s : State) (bid : Nat) (there : Bool) : State :=
  (s.groups.filter fun g => g.bid == bid).foldl (fun s g =>
    let ts := (g.req.toList.map fun r => r.tgt) ++ g.held.map fun h => h.tgt
    ts.foldl (fun s t => match t with
      | .peer v ipa => { s with nextId := s.nextId + 1 }.sendFree (s.handleOf bid) (s.envOf bid).f v ipa
          (.presence (s.peerRef bid g.idx) s.nextId there) none
      | _ => s) s) s

/-- Step 6 of R382: waiters are present again, holders' counts run, and an unlocked line goes to a present head (R290). -/
def State.represent (s : State) (bid : Nat) : State :=
  let mine (w : GroupRef) : Bool := w.dev == s.phys && w.bid == bid
  let holds (e : LockEntry) : Bool := e.hvdn.isNone && e.holder.any mine && e.losing.isNone
  let back (e : LockEntry) : LockEntry := { e with
    waiters := e.waiters.map fun (w : Waiter) => if w.vdn.isNone && mine w.who then { w with absent := false } else w }
  let s := { s with locks := s.locks.map fun (e : LockEntry) => back (if holds e then e.count s.clk true else e) }.tellHomes bid true
  s.locks.foldl (fun s (e : LockEntry) => s.grantHead e.line) s

/-- Step 7 of R382: remainders and non-posted requests restart. -/
def State.restart (s : State) (bid : Nat) : State :=
  match s.resuming.find? fun r => r.bid == bid with
  | none => s
  | some r =>
    let core := (s.envOf bid).core
    let nps := r.nps.map fun (p : NonPosted) => { p with deadline := s.clk + s.tlost p.f }
    let s : State := { s with
      resuming := s.resuming.filter (fun x => x.bid != bid), copies := s.copies ++ r.copies.map (fun (k : CopyCmd) => { k with core, base := k.h }),
      nps := s.nps ++ nps }
    (nps.filter fun p => !p.pent).foldl (fun s p => s.sendTo p.handle p.f p.vdn (.request p.seq p.ipa p.op)) s

/-- The blocks that halt, and resume, together with one: its twin, or all of a gang-scheduled launch (R227, R314). -/
def State.together? (s : State) (b : Block) : List Block :=
  match s.launch? b.lid with
  | some l => if l.record.gang then s.blocks.filter fun x => x.lid == b.lid
              else s.blocks.filter fun x => x.bid == b.bid || (b.role != .solo && x.bid == b.mate)
  | none => [b]

/-- Whether a block may start: its code has landed (R247); of blocks that resume together, that of all of them (R382). -/
def State.startable (s : State) (b : Block) : Bool :=
  let ready (x : Block) : Bool := x.started || x.status != .running || s.codeReady x
  !b.started && b.status == .running && s.codeReady b &&
  (!(s.resuming.any fun r => r.bid == b.bid) || (s.together? b).all ready)

/-- Starts a block whose code has landed: its staged lines first, in staging order (R181, R269). -/
def State.startBlock (s : State) (bid : Nat) : State :=
  match s.block? bid with
  | none => s
  | some b =>
    if !s.startable b then s
    else
      let q := s.quad (quadOf b.core)
      let mine (x : Nat × Nat × Staged) : Bool := x.1 == b.lid && x.2.1 == b.blk
      let s := s.setQuad (quadOf b.core) { q with staging := q.staging.filter fun x => !mine x }
      let s := (s.updBlock bid fun b => { b with started := true, lastIssue := s.clk }).restart bid
      if b.role == .trail then s else (q.staging.filter mine).foldl (fun s x => s.unstage bid x.2.2) s

/-- Starts every block that may: the waiters of all that resume are presented before any request leaves (R382). -/
def State.startBlocks (s : State) : State :=
  let bs := s.blocks.filter s.startable
  let s := (bs.filter fun b => s.resuming.any fun r => r.bid == b.bid).foldl (fun s b => s.represent b.bid) s
  bs.foldl (fun s b => s.startBlock b.bid) s

/-! The halt (R290, R291, R320, R377). -/

/-- Restores a thread to its latest snapshot, or to its state at its group's creation (R202, R318): no snapshot is taken in a trap handler (R372). -/
def Thread.roll (t : Thread) : Thread :=
  let x := t.snapshot.getD t.born
  { t with pc := x.pc, regs := x.regs, nb := x.nb, wb := x.wb, preds := x.preds, flags := x.flags, busy := [], busyP := [], wait := .none,
           gate := none, syncTok := x.syncTok, lvq := [], age := 0, stalled := none, sig := [], sigImp := false, sigPos := 0, outcome := none,
           inHandler := false }

/-- Steps 1 to 3 of R318 for a group of a pair: unretired work is discarded, in-flight loads and matrix commands issued since the snapshot and
not started among it, a gang's too (log entry 95), and both copies return to their snapshots; the twins' issue counts agree again. -/
def State.rollback (s : State) (bid mate grp : Nat) : State :=
  let ours (b g : Nat) : Bool := (b == bid || b == mate) && g == grp
  let isLd (p : NonPosted) : Bool := match p.op with
    | .ld _ | .lstat => true
    | _ => false
  let gone (m : MatCmd) (since : Nat) : Bool := (m.bid == bid || m.bid == mate) && m.groups.contains grp && since ≤ m.id
  -- a lock request that is not granted leaves its line's queue
  let s := if (s.group? bid grp).any fun g => g.req.isSome then s.leaveQueue bid grp else s
  let since := (s.group? bid grp).elim 0 fun g => g.snapAt
  let keys := (s.threads.filter fun t => ours t.bid t.grp).map Thread.key
  let s := { s with
    threads := s.threads.map fun (t : Thread) => if ours t.bid t.grp then { t.roll with icount := 0 } else t,
    loads := s.loads.filter fun x => !ours x.bid x.grp,
    nps := s.nps.filter fun p => !(isLd p && ours p.bid p.grp && p.done.isNone),
    mcmds := s.mcmds.filter fun m => !gone m since,
    cores := s.cores.map fun (c : Nat × Core) => (c.1, { c.2 with regq := c.2.regq.filter fun r => !keys.contains r.2.1 }),
    groups := s.groups.map fun g => if ours g.bid g.idx then { g with latch := none, mirrors := [], ckpting := false, entries := 0 } else g }
  ([bid, mate].filterMap s.block?).foldl (fun s b => s.settleClaims b.core) s

/-- The group's counters after work was discarded: each counts the issues still under way (R84, R318). -/
def State.recount (s : State) (bid grp : Nat) : State :=
  let mine (b g : Nat) : Bool := b == bid && g == grp
  let q : List QEntry := match s.group? bid grp with
    | some g => g.queue
    | none => []
  let isBin (e : QEntry) : Bool := match e.kind with
    | .bin _ _ _ _ => true
    | _ => false
  let ls := (s.loads.filter fun l => mine l.bid l.grp).map fun l => l.tok
  let ns := (s.nps.filter fun l => mine l.bid l.grp).map fun l => l.tok
  let ps := (s.posts.filter fun l => mine l.bid l.grp).map fun l => l.tok
  let cs := (s.copies.filter fun l => mine l.bid l.grp).map fun l => l.tok
  let ms := (s.mcmds.filter fun l => l.bid == bid && l.groups.contains grp).map fun l => l.tok
  let toks (c : Counter) : Nat :=
    (match c with
    | .ld => ls ++ ns ++ (q.filter fun (e : QEntry) => e.returns && !isBin e).map QEntry.tok
    | .st => (q.filter fun (e : QEntry) => !e.returns).map QEntry.tok ++ ps
    | .cp => cs ++ (q.filter isBin).map QEntry.tok
    | .tl => ms).eraseDups.length
  s.updGroup bid grp fun g => { g with ld := BitVec.ofNat 6 (toks .ld), st := BitVec.ofNat 6 (toks .st),
                                       cp := BitVec.ofNat 6 (toks .cp), tl := BitVec.ofNat 6 (toks .tl) }

/-- A rollback of a group of a pair, with every group's counters as the work that is left has them: a discarded gang command was its members'
too. -/
def State.rollGroup (s : State) (bid mate grp : Nat) : State :=
  let s := s.rollback bid mate grp
  (s.groups.filter fun g => (g.bid == bid || g.bid == mate) && (g.idx == grp || g.tl != 0)).foldl (fun s g => s.recount g.bid g.idx) s

/-- A block's queued groups become absent, and its holders' counts pause (R290, R291). -/
def State.absent (s : State) (bid : Nat) : State :=
  let mine (w : GroupRef) : Bool := w.dev == s.phys && w.bid == bid
  let holds (e : LockEntry) : Bool := e.hvdn.isNone && e.holder.any mine && e.losing.isNone
  let gone (e : LockEntry) : LockEntry := { e with
    waiters := e.waiters.map fun (w : Waiter) => if w.vdn.isNone && mine w.who then { w with absent := true } else w }
  { s with locks := s.locks.map fun (e : LockEntry) => gone (if holds e then e.count s.clk false else e) }.tellHomes bid false

/-- Halts one copy of a block (R377); the groups of a pair are rolled back first (R320). -/
def State.haltOne (s : State) (bid : Nat) (slice : Bool) : State :=
  match s.block? bid with
  | none => s
  | some b =>
    if b.status != .running then s
    else
      -- an implicit checkpoint that is performed ends first: its result comes in during the drain, and then the snapshot (R319)
      let s := if b.role == .lead then
          (s.groups.filter fun g => g.bid == bid && (!g.ckpting || g.req.isSome)).foldl (fun s g => s.rollGroup bid b.mate g.idx) s
        else s
      let s := s.gatePause b.core
      (s.updBlock bid fun b => { b with status := .halting slice, counted := b.counted + (s.clk - b.lastIssue) }).absent bid

/-- The scheduler's halt of a block, and of those that halt with it, where the save area has room (R378). -/
def State.halt (s : State) (bid : Nat) (slice : Bool) : State :=
  match s.block? bid with
  | none => s
  | some b =>
    let bs := s.together? b
    let f := (s.launch? b.lid).elim 0 fun l => l.f
    match s.saveRoom f bs with
    | none => s
    | some places =>
      if b.status != .running then s
      else places.foldl (fun s p => (s.haltOne p.1 slice).updBlock p.1 fun b => { b with saveAt := some p.2 }) s

/-! Delivery of multicast lines (R180, R181, R269). -/

/-- The blocks of a copy's launch on a core for which a line is staged: those placed and not started, and those saved from there (R181, R269). -/
def State.stagedFor (s : State) (lid core : Nat) : List Nat :=
  ((s.blocks.filter fun b => b.core == core && b.lid == lid && b.role != .trail && !b.dying && !b.started).map fun b => b.blk) ++
  (s.saved.filter fun x => x.block.core == core && x.block.lid == lid && x.block.role != .trail).map fun x => x.block.blk

/-- A line is written into a running block's scratchpad and counts on its own register of the bound index (R181, R182), a release's once its command is
complete (R172). -/
def State.putLine (s : State) (c : CopyCmd) (bid off : Nat) (data : List Byte) : State :=
  let s := s.updBlock bid fun b => { b with scratch := b.scratch.store off data }
  if c.rel then s else s.landBar bid c.bind data.length

/-- The blocks on a core into whose scratchpads a multicast's line is written. -/
def State.writtenAt (s : State) (c : CopyCmd) (core : Nat) : List Block :=
  let lid := (s.block? c.bid).elim 0 fun b => b.lid
  s.blocks.filter fun b => b.core == core && b.lid == lid && b.role != .trail && !b.dying && b.started

/-- A line reaches a core (R180, R181, R269): written where the block runs, staged where it is placed and has not started, discarded or ignored;
nothing while the staging buffer of 512 lines is full, so that the copy stalls until a staged block starts. -/
def State.deliverLine (s : State) (c : CopyCmd) (core off : Nat) (data : List Byte) : Option State :=
  let lid := (s.block? c.bid).elim 0 fun b => b.lid
  let run := s.writtenAt c core
  let wait := s.stagedFor lid core
  let q := s.quad (quadOf core)
  if run.isEmpty && wait.isEmpty then
    let held := (s.launch? lid).any fun l => l.cores.contains core
    some (s.updPair c.bid c.grp fun g => if held then { g with mcastDrop := min 255 (g.mcastDrop + 1) } else { g with cstat := g.cstat ||| 1 })
  else if !wait.isEmpty && 512 < q.staging.length + wait.length then none
  else
    let x : Staged := { bid := c.bid, grp := c.grp, off, data, bind := c.bind, cmd := c.id }
    let s := run.foldl (fun s b => s.putLine c b.bid off data) s
    some (if wait.isEmpty then s else s.setQuad (quadOf core) { q with staging := q.staging ++ wait.map fun b => (lid, b, x) })

/-! The save (R379 to R381). -/

/-- Whether what a halting block has issued has settled (R377): what is left is a remainder or a non-posted request, a peer line's `lunlock` among
them (R293). -/
def State.drained1 (s : State) (bid : Nat) : Bool :=
  !(s.loads.any fun l => l.bid == bid) && !(s.posts.any fun p => p.bid == bid) && !(s.mcmds.any fun m => m.bid == bid) &&
  !(s.groups.any fun g => g.bid == bid && (!g.queue.isEmpty || g.unlocking.any fun u => !u.sent)) &&
  -- a barrier register that completes during the drain has done so (R383)
  (s.block? bid).all (fun b => b.barEvs.isEmpty) &&
  s.copies.all fun c => c.bid != bid || (match c.kind with
    | .bulk _ => c.more.isEmpty && c.begun.isEmpty
    -- a line for which the staging buffer has no room stays with the remainder (R181, log entry 88)
    | .mcast _ _ => c.lines.all fun l => (s.deliverLine c (c.core / 4 * 4 + l.2.1) l.2.2.1 l.2.2.2).isNone
    | _ => false)

/-- The same of a block, and of its twin with it (R314, R320). -/
def State.drained (s : State) (bid : Nat) : Bool :=
  s.drained1 bid && ((s.block? bid).all fun b => b.role == .solo || (s.block? b.mate).isNone || s.drained1 b.mate)

/-- A thread as it is saved: a `regacq` that waits issues again after the resumption (R105). -/
def Thread.park (t : Thread) : Thread := if t.wait = .regacq then { t with wait := .none } else t

/-- Ends the implicit checkpoint of a group of a halting pair, whose result has come back: the trailing threads take it, every thread is
snapshotted, and the group is rolled back (R319, R320). -/
def State.closeCkpt (s : State) (bid mate grp : Nat) : State :=
  let take (t : Thread) : Thread :=
    if !(t.bid == mate && t.grp == grp && t.wait == Wait.matched) then t
    else match s.fetchFor t, t.lvq with
      | .ok i, e :: _ => if e.filled && e.trap.isNone then t.takeVals i e else t
      | _, _ => t
  let mine (t : Thread) : Bool := (t.bid == bid || t.bid == mate) && t.grp == grp
  let s := { s with threads := s.threads.map fun (t : Thread) => if mine t then (take t).snap (take t).pc else t }
  let done (g : Group) : Group := { g with snapAt := s.nextId, fails := 0 }
  ((s.updGroup bid grp done).updGroup mate grp done).rollGroup bid mate grp

/-- Ends those of a block's groups and its twin's (R320). -/
def State.closeCkpts (s : State) (b : Block) : State :=
  let (l, t) := if b.role == .trail then (b.mate, b.bid) else (b.bid, b.mate)
  if b.role == .solo then s else (s.groups.filter fun g => g.bid == l && g.ckpting).foldl (fun s g => s.closeCkpt l t g.idx) s

/-- The places of the images of blocks that are saved now: those kept at the halt, or others where an image has grown with its core's segments since
(R378). None where there is no room: the blocks stay where they are. -/
def State.placeAgain (s : State) (bs : List Block) : Option State :=
  if bs.all fun b => b.saveAt.any fun p => s.imageSize b ≤ p.2 then some s
  else
    let off := bs.foldl (fun s b => s.updBlock b.bid fun b => { b with saveAt := none }) s
    let f := (bs.head?.bind fun b => s.launch? b.lid).elim 0 fun l => l.f
    (off.saveRoom f bs).map fun ps => ps.foldl (fun s p => s.updBlock p.1 fun b => { b with saveAt := some p.2 }) off

/-- Saves a drained block and frees its core (R379); a pair's implicit checkpoints end first (R320). -/
def State.saveBlock (s : State) (bid : Nat) : State :=
  match s.block? bid with
  | none => s
  | some b =>
    let s := (s.closeCkpts b).gatePause b.core
    let c := s.core b.core
    let claims := c.claims.filter fun e => e.2.ofBlock bid
    let slots : Memory := c.slots.filter fun e => claims.any fun k => k.1 == e.1 / 8192
    let tiles : Tab Word := c.tiles.filter fun e => claims.any fun k => k.1 == 64 + e.1 / 8192
    let segs := c.segs.filter fun e => e.2.lid == b.lid
    let slice := b.status == .halting true
    let late := s.resuming.filter fun r => r.bid == bid
    let img : SavedBlock := {
      block := { b with status := .running, started := false }, threads := (s.threads.filter fun t => t.bid == bid).map Thread.park,
      groups := s.groups.filter (fun g => g.bid == bid), claims, slots, tiles,
      pools := (c.pools.filter fun p => p.2.bid == bid).map (fun p => (p.1, p.2.shift (-(s.clk : Int)))), segs, copies := s.copies.filter (fun x => x.bid == bid) ++ late.flatMap (fun r => r.copies),
      nps := s.nps.filter (fun p => p.bid == bid) ++ late.flatMap fun r => r.nps }
    let w : WaitingBlock := { blk := b.blk, relaunch := b.relaunch, saved := some bid, behind := slice, core := b.core, core2 := b.mateCore }
    let s := s.setCore b.core { c with
      claims := c.claims.filter (fun e => !e.2.ofBlock bid), pools := c.pools.filter (fun p => p.2.bid != bid),
      regq := c.regq.filter fun r => r.2.1.bid != bid }
    let s := { s with
      saved := s.saved ++ [img], resuming := s.resuming.filter (fun r => r.bid != bid), blocks := s.blocks.filter (fun x => x.bid != bid),
      groups := s.groups.filter (fun g => g.bid != bid), threads := s.threads.filter (fun t => t.bid != bid),
      copies := s.copies.filter (fun x => x.bid != bid), nps := s.nps.filter fun p => p.bid != bid }
    -- a launch whose slice ends goes behind the others of its queue (R350, log entry 87)
    let order := s.nextId
    let s := if b.role == .trail then s
      else { s with nextId := order + 1 }.updLaunch b.lid fun l => { l with waiting := l.waiting ++ [w], order := if slice then order else l.order }
    let s := (s.launch? b.lid).elim s fun l => s.storeImage img l
    s.leaveCore b.core ((s.launch? b.lid).elim 0 fun l => l.tag)

/-! Resumption (R248, R290, R382). -/

/-- Whether a saved block fits on a core: its lanes, its room, and its claims Free under their numbers (R380, R382). -/
def State.resumeFits (s : State) (l : Launch) (x : SavedBlock) (core : Nat) : Bool :=
  s.coreUsable l core && s.coreRoom l core && s.hbarRoom l core &&
  (x.threads.all fun t => (s.onLane core t.lane).length + (x.threads.filter fun u => u.lane == t.lane).length ≤ 8 &&
    ((x.threads.filter fun u => u.lane == t.lane).map fun u => u.nb).sum ≤ s.freeRegs core t.lane) &&
  (x.claims.all fun e => (s.core core).claim e.1 == .free) &&
  (s.core core).pools.length + x.pools.length ≤ 8 &&
  -- a block with staged lines resumes within its quad (R269)
  (quadOf x.block.core = quadOf core ||
    !((s.quad (quadOf x.block.core)).staging.any fun y => y.1 == l.lid && y.2.1 == x.block.blk))

/-- A die's constant cache gives up its lines. -/
def State.dropConsts (s : State) (die : Nat) : State :=
  let d := s.die die
  if d.constLines.isEmpty then s else s.setDie die { d with constLines := [] }

/-- A thread that waits at a hierarchy barrier waits at it in the instance of its new core (R225, R381). -/
def Wait.at (w : Wait) (core : Nat) : Wait :=
  match w with
  | .hbar level _ idx => .hbar level (levelInst level core) idx
  | w => w

/-- Steps 2 to 5 of R382 for one saved block on a core; the others wait for its code. What the core and its die cache with a lease goes first: the block's threads may
have read or acquired later values elsewhere (R253, R256, log entry 107). Copy remainders all come back, past the 16 entries of R263 where there are
more (log entry 102). -/
def State.restore (s : State) (l : Launch) (x : SavedBlock) (core mateCore : Nat) : State :=
  if (s.launch? l.lid).all fun l => l.failed then s else
  let s := ((s.takeCore l core).dropLeases core).dropConsts (dieOf core)
  let c := s.core core
  let s := s.setCore core { c with
    claims := x.claims.foldl (fun t e => Tab.set (fun _ => SlotSt.free) t e.1 e.2) c.claims,
    slots := x.slots.foldl (fun m e => Memory.setByte m e.1 e.2) (c.slots.filter fun e => !(x.claims.any fun k => k.1 == e.1 / 8192)),
    tiles := x.tiles.foldl (fun m e => Tab.set (fun _ => (0 : Word)) m e.1 e.2)
      (c.tiles.filter fun e => !(x.claims.any fun k => k.1 == 64 + e.1 / 8192)),
    pools := x.pools.foldl (fun t e =>
      Tab.set (fun _ => Pool.reset) t (((List.range 8).find? fun n => !(t.any fun p => p.1 == n)).getD e.1) (e.2.shift s.clk)) c.pools }
  let b := { x.block with core, mateCore, started := false, status := .running, lastIssue := s.clk, sliceStart := s.clk, saveAt := none }
  let s := s.freeImage x.block l.tag
  let s : State := { s with
    saved := s.saved.filter fun y => y.block.bid != b.bid, blocks := s.blocks ++ [b], groups := s.groups ++ x.groups,
    threads := s.threads ++ x.threads.map (fun (t : Thread) => { t with wait := t.wait.at core }),
    resuming := s.resuming ++ [{ bid := b.bid, copies := x.copies, nps := x.nps }] }
  match s.preloadAll (l.env core b.bid b.share) l.lid (x.segs.map fun e => (e.1, BitVec.ofNat 64 (4096 * e.2.granule), false)) with
  | (s, none) => s
  | (s, some (a, c)) => s.preloadFault l.lid b.bid b.blk a c

/-- A saved block whose place on a core is looked for, or a killed one that keeps its place (R226, R381). -/
structure Member where
  blk : Nat
  saved : Option SavedBlock
  deriving DecidableEq, Repr

/-- Whether two members of a gang-scheduled launch may stand on these two cores (R225, R314, R381): in one instance of a granted level where
they share its barriers, and in two where they do not. -/
def Launch.agree (l : Launch) (x : Member) (c : Nat) (y : Member) (d : Nat) : Bool :=
  let share (level : Nat) : Bool := l.hbars.any fun h => h.level == level && h.members.contains x.blk && h.members.contains y.blk
  ([3, 4, 5, 6].all fun level => l.record.granted level == 0 || share level == (levelInst level c == levelInst level d)) &&
  (x.blk != y.blk || (c != d && quadOf c == quadOf d))

/-- Cores for the members of a gang-scheduled launch, found one after another on the machine as the earlier ones leave it (R381, R382, log
entry 18). -/
def State.gangFit (l : Launch) : List Member → State → List (Member × Nat) → Option (List (Member × Nat))
  | [], _, m => some m
  | x :: r, s, m =>
    let held := (List.range 192).filter fun c => 0 < s.heldOf l [c]
    (held ++ List.range 192).findSome? fun c =>
      if !(m.all fun e => l.agree x c e.1 e.2) then none
      else match x.saved with
        | some y => if s.resumeFits l y c then State.gangFit l r (s.restore l y c c) (m ++ [(x, c)]) else none
        | none =>
          if s.fits l [c] then
            let hs := (s.halves [c] l.record.regs (groupSizes l.record.threads) []).getD []
            State.gangFit l r (s.putBlock l 0 x.blk c 0 0 c .solo hs) (m ++ [(x, c)])
          else none

/-- The members of a switched-out gang-scheduled launch: its saved blocks, and its killed ones, twice in a pair. -/
def State.gangMembers (s : State) (l : Launch) : List Member :=
  ((s.saved.filter fun y => y.block.lid == l.lid).map fun y => { blk := y.block.blk, saved := some y }) ++
  (l.waiting.filter fun w => w.saved.isNone).flatMap fun w =>
    List.replicate (if l.record.redundant then 2 else 1) { blk := w.blk, saved := none }

/-- A place for every member of a switched-out gang-scheduled launch, once no block of it is left on a core. -/
def State.gangPlace (s : State) (l : Launch) : Option (List (Member × Nat)) :=
  if s.blocks.any fun b => b.lid == l.lid then none else State.gangFit l (s.gangMembers l) s []

/-- The barriers of a gang-scheduled launch move with their members; the device reports the arrivals of a pod phase again (R381). They are the saved
launch record, which has no place in the save area (log entry 110). -/
def Launch.moveHbars (l : Launch) (core : Nat → Option Nat) : Launch :=
  { l with hbars := l.hbars.map fun (h : HBar) => { h with
      inst := ((h.members.filterMap core).head?.map (levelInst h.level)).getD h.inst, told := false } }

/-- Resumes a gang-scheduled launch whole, where a place is found for it (R227, R381, R382). -/
def State.resumeGang (s : State) (l : Launch) : Option State :=
  (s.gangPlace l).map fun m =>
    let coresOf (blk : Nat) : List Nat := (m.filter fun e => e.1.blk == blk).map fun e => e.2
    let s := m.foldl (fun s e => match e.1.saved with
      | some y => s.restore l y e.2 (((coresOf e.1.blk).find? fun c => c != e.2).getD e.2)
      | none => s) s
    s.updLaunch l.lid fun l => ({ l with
      waiting := (l.waiting.filter fun (w : WaitingBlock) => w.saved.isNone).map fun (w : WaitingBlock) => { w with
        core := (coresOf w.blk).headD w.core, core2 := (coresOf w.blk).getLastD w.core2 } }).moveHbars fun blk => (coresOf blk).head?

/-- The copies of a saved block with their cores in a place. -/
def State.copiesAt (s : State) (x : SavedBlock) (cores : List Nat) : List (SavedBlock × Nat) :=
  match cores with
  | [c] => [(x, c)]
  | [c, d] => (x, c) :: (s.saved.filter fun y => y.block.bid == x.block.mate).map fun y => (y, d)
  | _ => []

/-- Whether a saved block, with its twin, which must be saved too, fits a place (R314, R382). -/
def State.savedFits (s : State) (l : Launch) (x : SavedBlock) (cores : List Nat) : Bool :=
  let xs := s.copiesAt x cores
  xs.length == cores.length && xs.all fun y => s.resumeFits l y.1 y.2

/-- Resumes a saved block, or a pair (R382). -/
def State.resumeAt (s : State) (l : Launch) (x : SavedBlock) (cores : List Nat) : State :=
  let xs := s.copiesAt x cores
  let s := xs.foldl (fun s y => s.restore l y.1 y.2 ((cores.find? fun c => c != y.2).getD y.2)) s
  s.updLaunch l.lid fun l => { l with waiting := l.waiting.filter fun w => w.saved != some x.block.bid }

end Sys2Proof.Machine
end

