-- ==== Sys2Proof/Machine/Launches.lean ====
section
/-! DEFINITION. Queues, records, the task graph, the scheduler and its events (R337 to R351, R367, R375, R377, R382). -/

namespace Sys2Proof.Machine

/-! The queue registers (R337 to R339, R357). -/

def qReg (q o : Nat) : Nat := 0x1000 + 32 * q + o

/-- The number of records of a queue's ring (R337). -/
def State.ringSize (s : State) (f q : Nat) : Nat := 2 ^ bits (s.bar f (qReg q 8)).toNat 28 24

/-- Whether a function's queues are read: a virtual function in RUN, or the physical function (R392, R393). -/
def State.reading (s : State) (f : Nat) : Bool := f == 8 || s.vfState f == 3

/-- R337: 0 to 1 sets QHEAD and QEIDX to 0 and numbers error records from 1; reading starts again (R339). -/
def State.enableQueue (s : State) (f q : Nat) : State :=
  let c := (s.bar f (qReg q 8)).toNat
  if bit c 31 then s
  else
    let s := ((s.setBar f (qReg q 8) (BitVec.ofNat 32 (setBits c 31 31 1))).setBar f (qReg q 0xC) 0).setBar f (qReg q 0x14) 0
    { s with errSeq := Tab.set (fun _ => 0) s.errSeq (64 * f + q) 0, ringStops := s.ringStops.filter fun r => r != (f, q) }

/-- R337. -/
def State.disableQueue (s : State) (f q : Nat) : State :=
  s.setBar f (qReg q 8) (BitVec.ofNat 32 (setBits (s.bar f (qReg q 8)).toNat 31 31 0))

/-- R337: LOG2N outside 4–16 is written as the nearer limit; ignored while EN is 1. -/
def State.sizeQueue (s : State) (f q n : Nat) : State :=
  let c := (s.bar f (qReg q 8)).toNat
  if bit c 31 then s else s.setBar f (qReg q 8) (BitVec.ofNat 32 (setBits c 28 24 (max 4 (min 16 n))))

/-! Records (R340 to R342). -/

/-- A record from its 32 words (R340). -/
def Record.ofWords (w : List Word) : Record where
  ctrl := w.getD 0 0
  grid := w.getD 1 0
  entry := dAddr w 2
  handler := dAddr w 4
  shape := w.getD 6 0
  barriers := w.getD 7 0
  done := dAddr w 8
  value := BitVec.ofNat 64 (dw w 10 + 2 ^ 32 * dw w 11)
  preds := BitVec.ofNat 16 (dw w 12)
  spawntime := BitVec.ofNat 16 (dw w 12 / 65536)
  key := w.getD 13 0
  podset := BitVec.ofNat 64 (dw w 14 + 2 ^ 32 * dw w 15)
  succ := [16, 18, 20, 22, 24, 26, 28, 30].map (dAddr w)

/-- Reads a record in guest memory as eight 16-byte accesses, under a root and a world tag (R339); a fault is the cause. -/
def State.readRecord (s : State) (f root tag : Nat) (a : VAddr) : Except Cause Record :=
  let part (i : Nat) : Except Cause (List Word) := match s.resolve (State.devEnv f root tag) .engR (a + BitVec.ofNat 64 (16 * i)) 16 with
    | .error x => .error x.cause
    | .ok t => .ok ((List.range 4).map fun k => BitVec.ofNat 32 (s.readTgt 0 (t.offset (4 * k)) 4))
  match (List.range 8).mapM part with
  | .error c => .error c
  | .ok l => .ok (Record.ofWords l.flatten)

/-- Successors used (R341). -/
def Record.nsucc (r : Record) : Nat := bits r.ctrl.toNat 18 15
def Record.dscope (r : Record) : Nat := bits r.ctrl.toNat 21 19

/-- The least legal completion scope of where a completion address leads (R344 reason 4). -/
def Target.minScope : Target → Nat
  | .peer _ _ => 6
  | .host _ => 7
  | _ => 5

/-- The blocks of a launch that an empty core holds, at most `fuel` (R211, R222, R233). -/
def Record.perCore (r : Record) (fuel : Nat) : Nat :=
  let empty : State := State.reset
  let rec go (n : Nat) (given : List (Nat × Nat)) (k : Nat) : Nat :=
    match n with
    | 0 => k
    | n + 1 => match empty.halves [0] r.regs (groupSizes r.threads) given with
      | some g => if (k + 1) * r.nbar ≤ 32 && (k + 1) * r.share ≤ (512 - r.l1k) * 1024 then go n g (k + 1) else k
      | none => k
  go fuel [] 0

/-- Reason 6: a block beyond a core, or a gang beyond its partition (R344). -/
def State.tooLarge (s : State) (f : Nat) (r : Record) : Bool :=
  let n := r.perCore 16
  let cores := (s.partCores (s.partOf f)).length
  n == 0 || (r.gang && (if r.redundant then cores * n / 2 else cores * n) < r.grid.toNat)

/-- A key word's handle and generation (R340). -/
def Record.handle (r : Record) : Nat := r.key.toNat % 2 ^ 24
def Record.gen (r : Record) : Nat := r.key.toNat / 2 ^ 24

def State.handle? (s : State) (h : Nat) : Option KeyHandle := (s.handles.find? fun e => e.1 == h).map fun e => e.2

/-- Whether a key word names an installed handle at its current generation, or no world (R367). -/
def State.keyOk (s : State) (r : Record) : Bool :=
  r.key == 0 || (s.handle? r.handle).any fun k => k.gen.toNat == r.gen

/-- The lowest refusal reason of a record, 0 for none (R344). -/
def State.refusal (s : State) (f q : Nat) (r : Record) : Nat :=
  let c := r.ctrl.toNat
  let ty := bits c 31 28
  if (ty ≠ 1 && ty ≠ 2) || bits c 14 0 ≠ 0 || 8 < r.nsucc then 1
  else if r.grid = 0 || (if ty = 2 then r.shape ≠ 0 || r.barriers ≠ 0 else
      r.threads = 0 || 512 < r.threads || r.regs = 0 || 16 < r.regs ||
      !([1, 2, 4, 6, 7].contains (bits r.shape.toNat 31 24))) then 2
  else if ty = 1 && (32 < r.nbar || 16 < r.granted 3 || 8 < r.granted 4 || 4 < r.granted 5 || 2 < r.granted 6 ||
      (r.granted 6 ≠ 0 && !((s.ownVdn f).any fun v => r.podset.getLsbD v))) then 3
  else if (ty = 1 && (r.entry.toNat % 4 ≠ 0 || r.handler.toNat % 4 ≠ 0)) ||
      (if r.done = 0 then 5 ≤ r.dscope else r.dscope < 5 ||
        -- a page that may not be written is no ground for a refusal: the store fails at the finish (R346)
        (match s.translate (State.devEnv f (s.queueRoot f q) 0) r.done.toNat with
          | .ok t => t.w && r.dscope < t.tgt.minScope
          | .error _ => false)) then 4
  else if ty = 1 && bit c 22 && f < 8 then 5
  else if ty = 1 && s.tooLarge f r then 6
  else if !s.keyOk r then 7
  else 0

/-- An error record of a refusal (R344, R376). -/
def State.refuse (s : State) (f q : Nat) (a : VAddr) (reason : Nat) : State :=
  s.errorRecord f q { ErrRec.empty with kind := 3, reason, rcd := a }

/-- The world tag of a key word (R365). -/
def State.tagOf (s : State) (r : Record) : Nat := if r.key = 0 then 0 else (s.handle? r.handle).elim 0 fun k => k.tag

/-- The slot that holds a key word's current generation (R367). -/
def State.slotOf (s : State) (r : Record) : Option Nat :=
  (s.keySlots.find? fun e => e.2.handle == r.handle && e.2.gen.toNat == r.gen).map fun e => e.1

/-- A record becomes a launch (R345, R357). -/
def State.start (s : State) (f q : Nat) (a : VAddr) (r : Record) (slot : Option Nat) : State :=
  let s := match slot with
    | some k => { s with keySlots := s.keySlots.map fun (e : Nat × KeySlot) =>
        if e.1 = k then (k, { e.2 with pins := e.2.pins + 1, used := s.clk }) else e }
    | none => s
  let l : Launch := {
    lid := s.nextId, f, q, addr := a, record := r, root := s.queueRoot f q,
    asid := (s.bar f (0x2000 + 16 * q + 8)).toNat % 65536, tag := s.tagOf r, mgmt := false, slot, next := 0, waiting := [],
    ended := [], failed := false, completing := false, stored := false, hbars := [], cores := [], landed := 0, order := s.nextId }
  { s with nextId := s.nextId + 1, launches := s.launches ++ [l] }

/-- Dispatches a record, or refuses it, or stalls it for its key (R344, R345, R367). -/
def State.dispatch (s : State) (f q : Nat) (a : VAddr) (r : Record) : State :=
  let why := s.refusal f q r
  if why ≠ 0 then s.refuse f q a why
  else if r.key = 0 then s.start f q a r none
  else match s.slotOf r with
    | some k => s.start f q a r (some k)
    | none => { s with stalled := s.stalled ++ [{ f, q, addr := a, record := r }] }

/-- PREDS of a record, where it may be read and written; else the cause (R345, log entries 39 and 94). -/
def State.predsAt (s : State) (f root tag : Nat) (a : VAddr) : Except Cause Target :=
  match s.resolve (State.devEnv f root tag) .engW (a + 0x30) 2 with
  | .ok t => .ok t
  | .error x => .error x.cause

/-- Writes PREDS as an atomic at the record's home (R345); a migrating page or the throttle holds the write (R364, R406). -/
def State.setPreds (s : State) (f tag : Nat) (t : Target) (v : Nat) : State :=
  match t with
  | .loc pa =>
    if s.moving true pa || s.devThrottled f t then s.devWrite (State.devEnv f 0 tag) t (leBytes v 2) none
    else s.homeUpdate f tag pa (leBytes v 2)
  | t => s.writeTgt (State.devEnv f 0 tag) none t (leBytes v 2)

/-- A ring-slot fault stops the queue's reading (R339). -/
def State.ringFault (s : State) (f q : Nat) (a : VAddr) (c : Cause) : State :=
  let s := s.errorRecord f q { ErrRec.empty with kind := 11, cause := c.code, rcd := a, addr := a }
  { s with ringStops := s.ringStops ++ [(f, q)] }

/-- Whether a ring record lies in host memory over an insecure link (R443). -/
def State.ringCut (s : State) (f root : Nat) (a : VAddr) : Bool :=
  match s.resolve (State.devEnv f root 0) .engR a 2 with
  | .ok t => s.cutOff t
  | .error _ => false

/-- The front end reads the ring record at QHEAD (R338, R339, R345), with world tag 0 (log entry 93). A record to be launched whose PREDS may not be
written stops the queue as a read that faults does (log entry 94); a page migration makes it wait. -/
def State.recordRead (s : State) (f q : Nat) : State :=
  let c := (s.bar f (qReg q 8)).toNat
  let n := s.ringSize f q
  let h := (s.bar f (qReg q 0xC)).toNat
  let a : VAddr := BitVec.ofNat 64 (s.bar64 f (qReg q 0) / 4096 * 4096 + 128 * h)
  if !bit c 31 || !s.reading f || h = (s.bar f (qReg q 0x10)).toNat % n || s.ringStops.contains (f, q) ||
      s.stalled.any (fun p => p.f == f && p.q == q) || s.ringCut f (s.queueRoot f q) a then s
  else match s.readRecord f (s.queueRoot f q) 0 a with
    | .error x => s.ringFault f q a x
    | .ok r =>
      let next := s.setBar f (qReg q 0xC) (BitVec.ofNat 32 ((h + 1) % n))
      if r.preds = 0xFFFF then next
      else if r.preds ≠ 0 then { next with parked := s.parked ++ [{ f, q, addr := a }] }
      else match s.predsAt f (s.queueRoot f q) 0 a with
        | .error x => s.ringFault f q a x
        | .ok t => if s.waitsMove true t || s.devThrottled f t then s else (next.setPreds f 0 t 0xFFFF).dispatch f q a r

/-- One successor's decrement (R345): it goes to the predecessor's queue. -/
def State.decrement (s : State) (l : Launch) (x : VAddr) : State :=
  if x.toNat % 128 ≠ 0 then s.refuse l.f l.q x 9
  else match s.predsAt l.f l.root l.tag x with
    | .error _ => s.refuse l.f l.q x 9
    | .ok t =>
      let c := s.readTgt 0 t 2
      if c = 0 || c = 0xFFFF then s.refuse l.f l.q x 8
      else if c = 1 then
        let s := s.setPreds l.f l.tag t 0xFFFF
        let s := { s with parked := s.parked.filter fun p => !(p.f == l.f && p.addr == x) }
        match s.readRecord l.f l.root l.tag x with
        | .ok r => s.dispatch l.f l.q x r
        | .error c => s.errorRecord l.f l.q { ErrRec.empty with kind := 11, cause := c.code, rcd := x, addr := x }
      else s.setPreds l.f l.tag t (c - 1)

/-- Whether a launch's threads have left closes pending (R346). -/
def State.closing (s : State) (lid : Nat) : Bool :=
  s.windows.any fun e => e.2.st == .closing && e.2.closer.any fun c => c.lid == lid

/-- Whether a dispatched record has finished (R346). -/
def State.finished (s : State) (l : Launch) : Bool :=
  !l.failed && !l.completing && (l.hbars.all fun h => h.level != 6 || h.toldGone || h.members.isEmpty) && (if l.record.isCopy then l.landed == l.record.grid.toNat
    else l.ended.length == l.record.grid.toNat && !(s.blocks.any fun b => b.lid == l.lid) && !s.closing l.lid)

/-- Whether a page migration, the throttle or an insecure link holds the PREDS of a successor (R364, R406, R443). -/
def State.predsHeld (s : State) (l : Launch) : Bool :=
  (l.record.succ.take l.record.nsucc).any fun x => x.toNat % 128 == 0 && (match s.predsAt l.f l.root l.tag x with
    | .ok t => s.waitsMove true t || s.devThrottled l.f t || s.cutOff t
    | .error _ => false)

/-- Whether a page migration or the throttle holds the completion store of a record (R364, R406). -/
def State.doneHeld (s : State) (l : Launch) : Bool :=
  l.record.done != 0 && l.record.done.toNat % 8 == 0 && (match s.resolve (l.env 192 0 0) .engW l.record.done 8 with
    | .ok t => s.waitsMove true t || s.devThrottled l.f t
    | .error _ => false)

/-- Step 2 of R346, once the completion store is performed or has failed: the successors are decremented in order, and the record is over. -/
def State.finishRecord (s : State) (lid : Nat) : State :=
  let waits (l : Launch) : Launch := { l with stored := true }
  match s.launch? lid with
  | none => s
  | some l =>
    if l.failed then s
    else if s.predsHeld l then s.updLaunch lid waits
    else
      let s := (l.record.succ.take l.record.nsucc).foldl (fun s x => s.decrement l x) s
      (s.updLaunch lid fun l => { l with failed := true }).sweepLaunch lid

/-- A completion store that is not performed: an error record of kind 10, then step 2 (R346). -/
def State.completionFails (s : State) (lid : Nat) (c : Cause) : State :=
  match s.launch? lid with
  | none => s
  | some l =>
    if l.failed then s
    else (s.errorRecord l.f l.q { ErrRec.empty with kind := 10, cause := c.code, rcd := l.addr, addr := l.record.done }).finishRecord lid

/-- The completion store and what follows it (R346): a peer's is sent as a fabric request, and its response brings step 2. -/
def State.complete (s : State) (l : Launch) : State :=
  let r := l.record
  if r.done = 0 then s.finishRecord l.lid
  else
    let e := l.env 192 0 0
    let bs := leBytes r.value.toNat 8
    if r.done.toNat % 8 ≠ 0 then s.completionFails l.lid .misaligned
    else match s.resolve e .fst r.done 8 with
      | .ok (.peer v ipa) =>
        let wait (l : Launch) : Launch := { l with completing := true }
        (s.updLaunch l.lid wait).sendFree r.handle l.f v ipa (.atom .exch 8 r.value.toNat 0) (some l.lid)
      | _ => match s.resolve e .engW r.done 8 with
        | .ok (.loc pa) => (s.homeUpdate l.f l.tag pa bs).finishRecord l.lid
        | .ok t => (s.writeTgt e none t bs).finishRecord l.lid
        | .error x => s.completionFails l.lid x.cause

/-- A finished record: the scrub of its cores, its completion store, then its successors in order; its slot is unpinned (R346, R367). -/
def State.recordFinish (s : State) (lid : Nat) : State :=
  match s.launch? lid with
  | none => s
  | some l =>
    if l.stored then s.finishRecord lid
    else if s.finished l && !s.doneHeld l then (s.scrubLaunch lid).complete l else s

/-! Copy records (R347). -/

/-- Whether no open boundary joins the dies between which a copy record's byte moves (R386). -/
def State.apart (s : State) (x y : Target) : Bool :=
  match x, y with
  | .loc a, .loc b => !s.dieReaches (s.homeDie a) (s.homeDie b)
  | _, _ => false

/-- Lands the next bytes of a copy record in ascending order, at most `n`; a fault answers its cause and address. -/
def State.copyBytes (s : State) (lid : Nat) : Nat → State × Option (Cause × VAddr)
  | 0 => (s, none)
  | n + 1 => match s.launch? lid with
    | none => (s, none)
    | some l =>
      if l.landed = l.record.grid.toNat then (s, none)
      else
        let e := l.env 192 0 0
        let a := l.record.entry + BitVec.ofNat 64 l.landed
        let d := l.record.handler + BitVec.ofNat 64 l.landed
        match s.resolve e .engR a 1, s.resolve e .engW d 1 with
        | .error x, _ => (s, some (x.cause, a))
        | _, .error x => (s, some (x.cause, d))
        | .ok x, .ok y =>
          if s.waitsMove false x || s.waitsMove true y || s.devThrottled l.f y || s.cutOff x || s.apart x y then (s, none)
          else
            let s := (s.touchRead l.f l.tag x 1).writeTgt e none y (s.bytesAt 0 x 1)
            (s.updLaunch lid fun l => { l with landed := l.landed + 1 }).copyBytes lid n

/-- A cycle of the partitions' copy units: up to 128 bytes of each unit's oldest running record (R347). -/
def State.copyUnits (s : State) : State :=
  [0, 1, 2, 3].foldl (fun s p =>
    match s.launches.find? fun l => l.record.isCopy && !l.failed && s.partOf l.f == p && l.landed != l.record.grid.toNat with
    | some l => (s.copyBytes l.lid 128).1
    | none => s) s

/-- A copy record finishes, or its next byte faults (R347). -/
def State.copyRecordComplete (s : State) (lid : Nat) : State :=
  match s.launch? lid with
  | none => s
  | some l =>
    if !l.record.isCopy || l.failed then s
    else match s.copyBytes lid 1 with
      | (s1, none) => s1
      | (s1, some (c, a)) =>
        ((s1.errorRecord l.f l.q { ErrRec.empty with kind := 9, cause := c.code, rcd := l.addr, addr := a, aux := l.landed }).updLaunch
          lid fun l => { l with failed := true }).sweepLaunch lid

/-! Abort and function-level reset (R351). -/

/-- QCTL.ABORT (R351): records that have finished stand. -/
def State.abortQueue (s : State) (f q : Nat) : State :=
  let s := (s.launches.filter fun l => l.f == f && l.q == q && !l.failed && !l.completing && !l.stored && !s.finished l).foldl (fun s l =>
    ((s.errorRecord f q { ErrRec.empty with kind := 4, rcd := l.addr }).endLaunch l.lid).sweepLaunch l.lid) s
  let s := (s.parked.filter fun p => p.f == f && p.q == q).foldl (fun s p =>
    match s.predsAt f (s.queueRoot f q) 0 p.addr with
    | .ok t => s.setPreds f 0 t 0xFFFF
    | .error _ => s) s
  let s := { s with parked := s.parked.filter (fun p => !(p.f == f && p.q == q)),
                    stalled := s.stalled.filter fun p => !(p.f == f && p.q == q) }
  s.setBar f (qReg q 0xC) (BitVec.ofNat 32 ((s.bar f (qReg q 0x10)).toNat % s.ringSize f q))

/-- A queue's registers after a function-level reset: every field of R337 but the ring addresses, and stage 1's root and ASID (R3, R337, R357). -/
def State.queueReset (s : State) (f q : Nat) : State :=
  ([0x0C, 0x10, 0x14].foldl (fun s o => s.setBar f (qReg q o) 0)
    ([0, 4, 8].foldl (fun s o => s.setBar f (0x2000 + 16 * q + o) 0) s)).setBar f (qReg q 8) 0x04000000

/-- A function-level reset (R295, R299, R301, R309, R337, R351, R423), which ends all context-span state of the function: its translation
roots, tags and TLB entries and its VDN table too (R2, R3, log entry 90). -/
def State.flr (s : State) (f : Nat) : State :=
  let s := (List.range 64).foldl (fun s q => (s.abortQueue f q).queueReset f q) s
  let s := (List.range 64).foldl (fun s v => s.setSys (0x1000 + 0x40 * f + v) 0) s
  let s := { s with tlb := s.tlb.filter fun t => t.vmid != s.vmid f }
  let s := [0, 1, 2].foldl (fun s n => s.setSys (fReg 0x0600 f n) 0) s
  let s := (s.setSys (fReg 0x0400 f 4) 0).setSys (fReg 0x0D00 f 1) 0
  { s with windows := s.windows.filter (fun e => e.1 / 32 != f), epochs := s.epochs.filter (fun e => e.1 / 2048 != f),
           arrivals := s.arrivals.filter (fun a => a.key.f != f), seqs := s.seqs.filter (fun e => e.1 / 64 != f),
           dups := s.dups.filter (fun e => e.1 / 64 != f), lockLog := s.lockLog.filter fun e => e.1 != f }

/-! The scheduler (R228, R229, R349, R350). -/

/-- Whether a launch has a block waiting and its function runs (R393). -/
def State.waits (s : State) (l : Launch) : Bool :=
  !l.failed && !l.record.isCopy && s.reading l.f && (!l.waiting.isEmpty || l.next < l.record.grid.toNat)

/-- Whether a launch of higher priority of the same partition has a block waiting: it comes first (R349). -/
def State.outranked (s : State) (l : Launch) : Bool :=
  s.launches.any fun o => s.partOf o.f == s.partOf l.f && l.record.prio < o.record.prio && s.waits o

/-- Whether a waiting block is a saved one whose groups hold a line lock (R229, R291). -/
def State.lockHolder (s : State) (w : WaitingBlock) : Bool :=
  w.saved.any fun bid => s.saved.any fun x => x.block.bid == bid && x.groups.any fun g => !g.held.isEmpty

/-- The waiting block of the lowest `%blk`. -/
def lowestBlk (l : List WaitingBlock) : Option WaitingBlock :=
  l.foldl (fun o w => match o with
    | some x => if w.blk < x.blk then some w else some x
    | none => some w) none

/-- What a launch places next (R228, R349): a block that holds a lock, then pre-empted and relaunched ones, then a new one (answered as `none`),
all in ascending `%blk`, then those that a slice's end switched out, in that order. -/
def State.nextOf (s : State) (l : Launch) : Option (Option WaitingBlock) :=
  match lowestBlk (l.waiting.filter s.lockHolder), lowestBlk (l.waiting.filter fun w => !w.behind) with
  | some w, _ => some (some w)
  | none, some w => some (some w)
  | none, none => if l.next < l.record.grid.toNat then some none else l.waiting.head?.map some

/-- The saved block of a waiting one. -/
def State.savedOf (s : State) (w : WaitingBlock) : Option SavedBlock := w.saved.bind fun bid => s.saved.find? fun x => x.block.bid == bid

/-- The places at which a launch that is not placed whole can put its next block (R226, R348, R382). -/
def State.options (s : State) (l : Launch) : List (List Nat) :=
  match s.nextOf l with
  | some (some w) => (match s.savedOf w with
    | some x => s.best l ((places l).filter (s.savedFits l x))
    | none =>
      -- a relaunched member keeps its instances (R226)
      let home (p : List Nat) : Bool := l.hbars.all fun h => !h.members.contains w.blk || p.all fun c => h.inst == levelInst h.level c
      s.best l ((places l).filter fun p => home p && s.fits l p))
  | some none => s.best l ((places l).filter (s.fits l))
  | none => []

/-- Whether a launch is placed whole next: a gang-scheduled one at its dispatch or its resumption (R227). -/
def State.whole (s : State) (l : Launch) : Bool := l.record.gang && (l.next == 0 || s.saved.any fun x => x.block.lid == l.lid)

/-- A launch that is placed whole, placed. -/
def State.placeWhole (s : State) (l : Launch) : Option State := if l.next = 0 then s.placeAll l else s.resumeGang l

/-- Whether the next block of a launch has a place now. -/
def State.placeable (s : State) (l : Launch) : Bool := if s.whole l then (s.placeWhole l).isSome else !(s.options l).isEmpty

/-- A launch's turn among those of its priority (R349): lock holders first, then round the functions and the queues of a function from the ones
served last. -/
def State.turnOf (s : State) (l : Launch) : Nat :=
  let k := 4 * s.partOf l.f + l.record.prio
  let at' (n : Nat) : Nat := Tab.get (fun _ => 0) s.turns n
  let lock := match s.nextOf l with
    | some (some w) => s.lockHolder w
    | _ => false
  (ofBool (!lock) * 9 + (l.f + 9 - at' k) % 9) * 64 + (l.q + 64 - at' (64 + 9 * k + l.f)) % 64

/-- Whether a launch comes before another of its priority: by its turn, then by the order in which they became ready (R349), or in which a slice of theirs
last ended (R350, log entry 87). -/
def State.before (s : State) (o l : Launch) : Bool :=
  s.turnOf o < s.turnOf l || (s.turnOf o == s.turnOf l && o.order < l.order)

/-- The launches of the same partition and priority that have a block waiting. -/
def State.rivals (s : State) (l : Launch) : List Launch :=
  s.launches.filter fun o => o.lid != l.lid && s.partOf o.f == s.partOf l.f && o.record.prio == l.record.prio && s.waits o

/-- Whether it is a launch's turn: none of higher priority waits, and none of its own that comes before it could be placed (R349). -/
def State.hasTurn (s : State) (l : Launch) : Bool :=
  s.waits l && !s.outranked l && !(l.record.gang && s.blocks.any fun b => b.lid == l.lid && b.halting) && (s.rivals l).all fun o => !s.before o l || !s.placeable o

/-- Whether a sliced launch leaves a core that it still holds to one of its priority whose turn comes first and which finds no core (R350, log
entry 87). -/
def State.yields (s : State) (l : Launch) (cores : List Nat) : Bool :=
  l.record.concurrent && !l.record.gang && s.heldOf l cores != 0 &&
  (s.rivals l).any fun o => s.before o l && !o.record.gang && !s.placeable o

/-- A launch was served: the rotation goes on behind it. -/
def State.served (s : State) (l : Launch) : State :=
  let k := 4 * s.partOf l.f + l.record.prio
  let set' (t : Tab Nat) (n v : Nat) : Tab Nat := Tab.set (fun _ => 0) t n v
  { s with turns := set' (set' s.turns k (l.f + 1)) (64 + 9 * k + l.f) (l.q + 1) }

/-- The machine without some blocks, as a scheduler imagines it that decides what to halt. -/
def State.without (s : State) (bids : List Nat) : State :=
  let cut (c : Core) : Core := { c with
    claims := c.claims.filter (fun e => !(bids.any fun b => e.2.ofBlock b)), pools := c.pools.filter fun p => !bids.contains p.2.bid }
  { s with
    blocks := s.blocks.filter (fun b => !bids.contains b.bid), groups := s.groups.filter (fun g => !bids.contains g.bid),
    threads := s.threads.filter (fun t => !bids.contains t.bid), cores := s.cores.mapVals (fun _ => Core.reset) cut }

/-- Inserts by priority, then by number of blocks. -/
def insertUnit (x : Nat × List Nat) : List (Nat × List Nat) → List (Nat × List Nat)
  | [] => [x]
  | y :: r => if x.1 < y.1 || (x.1 == y.1 && x.2.length < y.2.length) then x :: y :: r else y :: insertUnit x r

/-- Two units together: of the higher of their priorities. -/
def unitPairs (us : List (Nat × List Nat)) : List (Nat × List Nat) :=
  (us.zipIdx.flatMap fun x => (us.drop (x.2 + 1)).map fun y => (max x.1.1 y.1, (x.1.2 ++ y.2).eraseDups)).foldl (fun l u => insertUnit u l) []

/-- What may halt for a launch (R350): on each core of its partition the blocks of a lower priority, with what halts together with them, where
the save area has room; the lowest priority and the fewest blocks first. -/
def State.units (s : State) (l : Launch) : List (Nat × List Nat) :=
  ((List.range 192).filterMap fun c => match s.resident c with
    | [] => none
    | b :: _ =>
      let o := s.launch? b.lid
      let p := o.elim 3 fun o => o.record.prio
      let all := ((s.resident c).filter fun x => x.status == .running).flatMap s.together?
      let bids := (all.map fun x => x.bid).eraseDups
      if s.dieId (dieOf c) == s.partOf l.f && p < l.record.prio && !bids.isEmpty &&
          (s.saveRoom (o.elim 0 fun o => o.f) (bids.filterMap s.block?)).isSome then some (p, bids) else none).foldl (fun us u => insertUnit u us) []

/-- The fewest blocks whose halt gives a launch's next block a place, lowest priority first (R350): those of one core, or of two for a pair, and for a
gang of as many as it takes; none while a halt under way will. -/
def State.victims (s : State) (l : Launch) : List Nat :=
  let s := s.without ((s.blocks.filter fun b => b.status != .running).map fun b => b.bid)
  if s.placeable l then []
  else
    let us := s.units l
    let does (l' : List (Nat × List Nat)) : Bool := (s.without (l'.flatMap fun u => u.2)).placeable l
    match us.find? fun u => does [u] with
    | some u => u.2
    | none => match (unitPairs us).find? fun u => does [u] with
    | some u => u.2
    | none =>
      let grown := us.foldl (fun acc u => if does acc then acc else acc ++ [u]) []
      if does grown then
        ((grown.reverse.foldl (fun acc u => if does (acc.erase u) then acc.erase u else acc) grown).flatMap fun u => u.2).eraseDups
      else []

/-- The pre-emption decision (R350). -/
def State.preempt (s : State) (l : Launch) : State := (s.victims l).foldl (fun s b => s.halt b false) s

/-- The scheduler serves a launch (R349): its next block, or all of it, is placed where there is a place, and blocks of lower priority halt where
there is none. `cores` is the place, which the rule allows. -/
def State.schedule (s : State) (l : Launch) (saved : Option Nat) (cores : Option (List Nat)) : State :=
  if !s.hasTurn l then s
  else if !s.placeable l then s.preempt l
  else if s.whole l then ((s.placeWhole l).map fun t => t.served l).getD s
  else match cores.filter fun p => (s.options l).contains p && !s.yields l p, s.nextOf l with
    | some p, some (some w) => (match s.savedOf w with
      | some x => if saved == some x.block.bid then (s.resumeAt l x p).served l else s
      | none =>
        if saved.isSome then s
        else match s.place l.lid w.blk w.relaunch p with
          | some s => (s.updLaunch l.lid fun l => { l with waiting := l.waiting.filter fun x => x.blk != w.blk }).served l
          | none => s)
    | some p, some none =>
      if saved.isSome then s
      else match s.place l.lid l.next 0 p with
        | some s => (s.updLaunch l.lid fun l => { l with next := l.next + 1 }).served l
        | none => s
    | _, _ => s

/-- The scheduler places the next block of a launch that is not a saved one, or all of a gang-scheduled one (R349). -/
def State.blockPlace (s : State) (lid core core2 : Nat) : State :=
  match s.launch? lid with
  | some l => s.schedule l none (cores? l core core2)
  | none => s

/-- Whether every live thread of a block waits in `yield`, at a barrier, for a lock or in `regacq` (R101). -/
def State.idleBlock (s : State) (bid : Nat) : Bool :=
  (s.threads.filter fun t => t.bid == bid).all fun t => match t.wait with
    | .yielding _ | .bar _ | .hbar _ _ _ | .lock | .regacq => true
    | _ => false

/-- Whether a concurrent-mode block's slice has ended while a block of equal priority waits for its core (R350). -/
def State.sliceOver (s : State) (b : Block) : Bool :=
  match s.launch? b.lid with
  | none => false
  | some l =>
    let p := s.partOf l.f
    let slice := us (10 * ((s.sys (unitKey 0x0500 p)).toNat % 65536))
    l.record.concurrent && !l.record.gang && b.status == .running && (b.sliceStart + slice ≤ s.clk || s.idleBlock b.bid) &&
    s.launches.any fun o => s.partOf o.f == p && o.record.prio == l.record.prio && s.waits o && !s.placeable o

/-! The steps. -/

/-- R338. -/
def execDoorbellWrite (f q : Nat) (x : Word) (s : State) : Res := .next (s.doorbell f (64 * q) x.toNat)

/-- R337, R339. -/
def execQueueEnable (f q : Nat) (s : State) : Res := .next (s.enableQueue f q)

/-- R337. -/
def execQueueDisable (f q : Nat) (s : State) : Res := .next (s.disableQueue f q)

/-- R337. -/
def execQueueSetSize (f q n : Nat) (s : State) : Res := .next (s.sizeQueue f q n)

/-- R351. -/
def execQueueAbort (f q : Nat) (s : State) : Res := .next (s.abortQueue f q)

/-- R339, R345. -/
def execRecordRead (f q : Nat) (s : State) : Res := .next (s.recordRead f q)

/-- R346. -/
def execRecordFinish (lid : Nat) (s : State) : Res := .next (s.recordFinish lid)

/-- R347. -/
def execCopyRecordComplete (lid : Nat) (s : State) : Res := .next (s.copyRecordComplete lid)

/-- R367: the stalled dispatch of an index loads its handle's current generation into a slot that the rule allows, and then proceeds, or is refused
after a rotation. -/
def execKeySlotLoad (lid slot : Nat) (s : State) : Res :=
  match s.stalled[lid]? with
  | none => .next s
  | some p =>
    let r := p.record
    let s1 := { s with stalled := s.stalled.eraseIdx lid }
    let get (k : Nat) : KeySlot := ((s.keySlots.find? fun e => e.1 == k).map fun e => e.2).getD
      { handle := 0, gen := 0, material := 0, pins := 0, used := 0 }
    let free := (List.range 64).filter fun k => (get k).pins == 0
    let older := free.filter fun k => (get k).handle == r.handle
    let fitsRule := free.contains slot && (if older.isEmpty then free.all fun k => (get slot).used ≤ (get k).used else older.contains slot)
    match s.handle? r.handle with
    | some h =>
      if !fitsRule then .next s
      else
        let x : KeySlot := { handle := r.handle, gen := h.gen, material := h.wrapped, pins := 0, used := s.clk }
        let s2 := { s1 with keySlots := (s1.keySlots.filter fun (e : Nat × KeySlot) => e.1 != slot) ++ [(slot, x)] }
        .next (if s.keyOk r then s2.start p.f p.q p.addr r (some slot) else s2.refuse p.f p.q p.addr 7)
    | none => .next (s1.refuse p.f p.q p.addr 7)

/-- R349. -/
def execBlockPlace (lid core core2 : Nat) (s : State) : Res := .next (s.blockPlace lid core core2)

/-- R350. -/
def execTimeSliceExpiry (bid : Nat) (s : State) : Res :=
  match s.block? bid with
  | some b => .next (if s.sliceOver b then s.halt bid true else s)
  | none => .next s

/-- R377, R378: a scheduler's halt is for a launch of higher priority that waits, or for a function that leaves RUN. -/
def execHaltRequest (bid : Nat) (s : State) : Res :=
  match s.block? bid with
  | none => .next s
  | some b => match s.launch? b.lid with
    | none => .next s
    | some l =>
      let higher := s.launches.any fun o => s.hasTurn o && (s.victims o).contains bid
      .next (if higher || !s.reading l.f then s.halt bid false else s)

/-- R377, R379: the block image is saved once the block, and its twin, have drained. -/
def execDrainComplete (bid : Nat) (s : State) : Res :=
  match s.block? bid with
  | none => .next s
  | some b => .next (match b.status with
    | .halting _ => if s.drained bid && (b.role == .solo || s.drained b.mate) then
        (match s.placeAgain (b :: (if b.role == .solo then none else s.block? b.mate).toList) with
        | some s => if b.role == .solo then s.saveBlock bid else (s.saveBlock bid).saveBlock b.mate
        | none => s) else s
    | _ => s)

/-- R382: the saved block that its launch places next; only while the function runs (R393). -/
def execBlockResume (bid core core2 : Nat) (s : State) : Res :=
  .next (match (s.saved.find? fun x => x.block.bid == bid).bind fun x => s.launch? x.block.lid with
    | some l => s.schedule l (some bid) (cores? l core core2)
    | none => s)

/-- R351. -/
def execFunctionLevelReset (f : Nat) (s : State) : Res := .next (s.flr f)

/-- R375: WATCHDOG in every live thread that is not in its handler; the count restarts. -/
def execWatchdogExpiry (bid : Nat) (s : State) : Res :=
  match s.block? bid with
  | none => .next s
  | some b =>
    let limit := (s.sys (unitKey 0x0501 (s.dieId (dieOf b.core)))).toNat % 65536
    if limit = 0 || b.status != .running || (s.core b.core).power != .run || s.clk + b.counted < b.lastIssue + us (1000 * limit) then .next s
    else
      let d : DefTrap := { cause := Cause.watchdog.code, addr := 0, aux := 0 }
      let s := s.updBlock bid fun b => { b with lastIssue := s.clk, counted := 0 }
      .next { s with threads := s.threads.map fun (t : Thread) => if t.bid == bid && !t.inHandler then t.addDeferred d else t }

/-- R370: a deferred trap reaches a thread. -/
def execDeferredTrapArrival (bid tid cause : Nat) (addr : VAddr) (aux : Word) (s : State) : Res :=
  .next (s.updThread { bid, tid } fun t => t.addDeferred { cause, addr, aux })

/-- Whether a thread is inside an instruction that has issued and whose boundary is still to come. -/
def Thread.inside (t : Thread) : Bool :=
  match t.wait with
  | .spawned _ _ | .fence _ _ _ | .pause | .sparse | .unlock | .compare | .matched => true
  | _ => false

/-- R371: the oldest pending trap is taken at the thread's next instruction boundary, out of whatever wait it stands in. -/
def execTrapTake (bid tid : Nat) (s : State) : Res :=
  match s.thread? { bid, tid } with
  | none => .next s
  | some t => match t.deferred, s.block? bid with
    | d :: rest, some b =>
      if t.inHandler || t.inside || b.status != .running || !b.started then .next s
      else .next ((s.updThread t.key fun t => { t with deferred := rest }).takeTrap t.key t.pc t.pc d)
    | _, _ => .next s

end Sys2Proof.Machine
end

