-- ==== Sys2Proof/Machine/Partition.lean ====
section
/-! DEFINITION. Partitions and virtual functions (R384 to R395), shoot-downs (R361, R362), page migration within the device
(R363, R364), and page owners (R365, R366). -/

namespace Sys2Proof.Machine

/-! Idle functions and dies (R388, R393). -/

/-- Queues of a function that are busy (R393). -/
def State.busyQ (s : State) (f : Nat) : Nat :=
  ((List.range 64).filter fun q => s.launches.any fun l => l.f == f && l.q == q &&
    (s.blocks.any (fun b => b.lid == l.lid) || s.finished l || ((l.completing || l.stored) && !l.failed) ||
      (l.record.isCopy && !l.failed))).length

/-- Whether the physical function counts as idle (R388). -/
def State.pfIdle (s : State) : Bool := !(s.launches.any fun l => l.f == 8) && s.busyQ 8 == 0

/-- The functions whose VFPART names a partition. -/
def State.funcsOf (s : State) (p : Nat) : List Nat := (List.range 9).filter fun f => s.partOf f == p

def State.funcIdle (s : State) (f : Nat) : Bool := if f = 8 then s.pfIdle else [0, 1, 5].contains (s.vfState f)

def State.funcDisabled (s : State) (f : Nat) : Bool := if f = 8 then s.pfIdle else s.vfState f == 0

def State.dieIdle (s : State) (d : Nat) : Bool := (s.funcsOf (s.dieId d)).all s.funcIdle

/-! Layout registers (R387 to R389). -/

def State.pstat (s : State) (n : Nat) : State := s.setSys 0x0806 (BitVec.ofNat 32 n)

/-- Whether a physical address is local memory of the device (R385). -/
def State.isLocal (s : State) (pa : Nat) : Bool := [0, 1, 2, 3].any fun p => s.inPart p pa

/-- Zeroes local memory at its homes and in every cache. -/
def State.zeroLocal (s : State) (pa n : Nat) : State :=
  let inside (line : Nat) : Bool := pa / 128 ≤ line && line < (pa + n) / 128
  { s with mem := s.mem.zero pa n, hbm := s.hbm.filter (fun e => !inside (s.hbmAddr (e.1 / 2 ^ 30) (e.1 % 2 ^ 30 * 128) / 128)),
           mere := s.mere.filter (fun m => !inside m.line), poisoned := s.poisoned.filter (fun l => !inside l),
           dies := s.dies.mapVals (fun _ => Die.reset) (fun d => { d with constLines := d.constLines.filter fun c => !inside c.line }),
           l1 := s.l1.filter fun (l : L1Line) => !inside l.line }

/-- Zeroes a die's Mere window and returns its owners to 0 (R245, R388). -/
def State.zeroWindow (s : State) (d : Nat) : State :=
  let a := 2 ^ 40 + d * 2 ^ 30
  let s := s.zeroLocal a (2 ^ 30)
  { s with owners := s.owners.filter fun e => e.1 < a / 4096 || (a + 2 ^ 30) / 4096 ≤ e.1 }

/-- What is kept by physical address follows the bytes of HBM when the map from addresses to them changes from one state's to this one's: no data
moves, and each address reaches the byte that the new map names (R385, R388). -/
def State.remap (s old : State) : State :=
  let there (pa : Nat) : Nat := if inWindow pa then pa else s.hbmAddr (old.hbmPlace pa).1 (old.hbmPlace pa).2
  let line (n : Nat) : Nat := there (128 * n) / 128
  { s with
    mem := s.mem.foldl (fun (m : Memory) e => m.setByte (there e.1) e.2) [],
    owners := s.owners.foldl (fun (t : Tab Nat) e => Tab.set (fun _ => 0) t (there (4096 * e.1) / 4096) e.2) [],
    l1 := s.l1.map fun (l : L1Line) => { l with line := line l.line },
    mere := s.mere.map fun (m : MereLine) => { m with line := line m.line },
    poisoned := s.poisoned.map line,
    locks := s.locks.map fun (e : LockEntry) => { e with line := line e.line },
    dies := s.dies.mapVals (fun _ => Die.reset) fun d => { d with
      constLines := d.constLines.map (fun (c : ConstLine) => { c with line := line c.line }),
      dir := d.dir.map fun e => (line (4 * e.1) / 4, e.2) } }

/-- A write to MILVd (R388). -/
def State.milvSet (s : State) (d v : Nat) : State :=
  let o := s.milv d
  let win := bits v 11 8
  let changes := bits v 1 0 != bits o 1 0 || win != bits o 11 8
  if 2 ≤ bits v 1 0 || !([0, 4, 8, 12].contains win) then s.pstat 1
  else if !s.dieIdle d then s.pstat 2
  else if changes && !((s.funcsOf (s.dieId d)).all s.funcDisabled) then s.pstat 5
  else
    let t := s.setSys (0x0801 + d) (BitVec.ofNat 32 (win * 256 + bits v 7 4 * 16 + bits v 1 0))
    let s := if bits v 1 0 = bits o 1 0 then t else t.remap s
    (if win = bits o 11 8 then s else s.zeroWindow d).pstat 0

/-- A write to NBND (R388). -/
def State.nbndSet (s : State) (v : Nat) : State :=
  let o := (s.sys 0x0805).toNat
  let busy := (List.range 4).any fun n => bit v n != bit o n && !(s.dieIdle (boundary n).1 && s.dieIdle (boundary n).2)
  let t := (s.setSys 0x0805 (BitVec.ofNat 32 (v % 16))).pstat 0
  -- an L1 gives up what it could no longer write back to its home (R386, log entry 83)
  let cut (l : L1Line) : Bool := !t.dieReaches (dieOf l.core) (t.homeDie (128 * l.line))
  if busy then s.pstat 2
  else
    let u := (s.l1.filter cut).foldl State.takeDirty t
    { u with l1 := u.l1.filter fun l => !cut l }

/-- The partition ID that a DIEPART value gives a die (R384). -/
def dieIdOf (part d : Nat) : Nat := part / 4 ^ d % 4
def diesOf (part p : Nat) : List Nat := (List.range 4).filter fun d => dieIdOf part d == p

/-- A write to PLAYOUT: the judgement and commit of R389. -/
def State.playoutSet (s : State) (v : Nat) : State :=
  let N := v % 256
  let O := (s.sys 0x0800).toNat
  let setOf (x d : Nat) := diesOf x (dieIdOf x d)
  let C := (List.range 4).filter fun d => setOf O d != setOf N d
  let funcs := (List.range 9).filter fun f => C.any fun d => s.partOf f == dieIdOf O d
  let bad := (List.range 4).any (fun d => bits (s.milv d) 7 4 != ((setOf N d).map fun k => 2 ^ k).sum) ||
    (List.range 4).any fun n => bit (s.sys 0x0805).toNat n != (dieIdOf N (boundary n).1 == dieIdOf N (boundary n).2)
  let a := C.headD 0
  let b := C.getLastD 0
  let merge := C.length == 2 && (setOf O a == [a]) && (setOf O b == [b]) && (setOf N a == C) &&
    bits (s.milv a) 1 0 == 0 && bits (s.milv b) 1 0 == 0 && bits (s.milv a) 11 8 == bits (s.milv b) 11 8
  let ways (f : Nat) : Nat := (s.sys (fReg 0x0900 f 3)).toNat % 65536
  let window := 2 ^ 16 - 2 ^ (16 - bits (s.milv a) 11 8)
  let overlap := funcs.any fun f => Nat.land (ways f) window != 0 ||
    funcs.any fun h => h != f && Nat.land (ways f) (ways h) != 0
  if !([0x00, 0xA0, 0xE4, 0xE0, 0xA4].contains N) then s.pstat 1
  else if !(C.all s.dieIdle) then s.pstat 2
  else if bad then s.pstat 3
  else if merge && overlap then s.pstat 4
  else if !C.isEmpty && !merge && !(funcs.all s.funcDisabled) then s.pstat 5
  else
    let t := s.setSys 0x0800 (BitVec.ofNat 32 N)
    let s := if ((List.range 4).any fun d => bits (s.milv d) 1 0 = 1) && !C.isEmpty then t.remap s else t
    let s := if merge then
        let s := (s.funcsOf b).foldl (fun s f => s.setSys (fReg 0x0900 f 2) (BitVec.ofNat 32 a)) s
        { s with stale := (funcs.filter fun f => f < 8) ++ s.stale.filter fun f => !funcs.contains f }
      else C.foldl State.zeroWindow s
    s.pstat 0

/-- R389. -/
def execPlayoutWrite (v : Word) (s : State) : Res := .next (s.playoutSet v.toNat)

/-- R388. -/
def execMilvWrite (die : Nat) (v : Word) (s : State) : Res := .next (s.milvSet (die % 4) v.toNat)

/-- R388. -/
def execNbndWrite (v : Word) (s : State) : Res := .next (s.nbndSet v.toNat)

/-! Virtual functions (R391 to R395). -/

/-- Sets STATE and STATUS of VFSTAT; MOVING by its own argument. -/
def State.setVf (s : State) (f state moving status : Nat) : State :=
  s.setSys (fReg 0x0900 f 1) (BitVec.ofNat 32 (state * 2 ^ 28 + moving * 2 ^ 27 + status * 2 ^ 24))

def State.vfMoving (s : State) (f : Nat) : Bool := bit (s.sys (fReg 0x0900 f 1)).toNat 27

/-- A command that only reports (R392). -/
def State.vfStatus (s : State) (f status : Nat) : State := s.setVf f (s.vfState f) (ofBool (s.vfMoving f)) status

/-- ENABLE (R392); in recovery every virtual function stays DISABLED (R441). -/
def State.vfEnable (s : State) (f : Nat) : State :=
  if s.vfState f = 0 && !s.recovery then s.setVf f 1 0 0 else s.vfStatus f 1

/-- Whether LOCK finds PART and WAYS in order (R246, R392). -/
def State.lockable (s : State) (f : Nat) : Bool :=
  let p := s.partOf f
  let ways (f : Nat) : Nat := (s.sys (fReg 0x0900 f 3)).toNat % 65536
  let window (d : Nat) : Nat := 2 ^ 16 - 2 ^ (16 - bits (s.milv d) 11 8)
  !(s.partDies p).isEmpty && ways f != 0 && ((s.partDies p).all fun d => Nat.land (ways f) (window d) == 0) &&
  (List.range 9).all fun h => h == f || s.partOf h != p || (h < 8 && s.vfState h < 2) || Nat.land (ways f) (ways h) == 0

def State.vfLock (s : State) (f : Nat) : State :=
  if s.vfState f ≠ 1 then s.vfStatus f 1 else if s.lockable f then s.setVf f 2 0 0 else s.vfStatus f 5

def State.vfUnlock (s : State) (f : Nat) : State :=
  if s.vfState f = 2 && !s.vfMoving f then s.setVf f 1 0 0 else s.vfStatus f 1

def State.vfStart (s : State) (f : Nat) : State :=
  if s.vfState f = 2 && !s.vfMoving f then s.setVf f 2 1 0 else s.vfStatus f 1

/-- Halts every resident block of a function for whose image the save area has room (R378, R393). -/
def State.haltAll (s : State) (f : Nat) : State :=
  (s.blocks.filter fun b => (s.launch? b.lid).any fun l => l.f == f).foldl (fun s b => s.halt b.bid false) s

/-- QUIESCE (R393): the queues stop and every resident block halts. One that comes in the cycle of a RESUME leaves the function in RUN (R399, log entry
123). -/
def State.vfQuiesce (s : State) (f : Nat) : State :=
  if s.vfState f ≠ 3 then s.vfStatus f 1
  else if Tab.get (fun _ => 0) s.resumes f = s.clk + 1 then s.vfStatus f 0
  else (s.setVf f 4 0 0).haltAll f

/-- Moves the timers of a window: to the time that remains, or back to the clock. -/
def Window.shift (w : Window) (g : Nat → Nat) : Window := { w with pending := w.pending.map fun (p : Pend) => { p with deadline := g p.deadline } }

def Arrival.shift (a : Arrival) (g : Nat → Nat) : Arrival := { a with deadline := g a.deadline }

def LockEntry.shift (e : LockEntry) (g : Nat → Nat) : LockEntry :=
  { e with waiters := e.waiters.map fun (w : Waiter) => { w with deadline := w.deadline.map g } }

/-- A frozen function thaws: its timers run on from where they stood, and the host-port writes that the freeze held are performed (R407). -/
def State.thaw (s : State) (f : Nat) : State :=
  let x := s.session f
  match x.frozen with
  | none => s
  | some c =>
    let on (d : Nat) : Nat := d + (s.clk - c)
    let s := s.setSession f { x with frozen := none, held := [] }
    let s := x.held.foldl (fun s w => s.homeWrite 8 0 none w.1 w.2) s
    { s with
      windows := s.windows.map fun (e : Nat × Window) => if e.1 / 32 = f then (e.1, e.2.shift on) else e,
      arrivals := s.arrivals.map fun (a : Arrival) => if a.key.f = f then a.shift on else a,
      locks := s.locks.map fun (e : LockEntry) => if e.f = f then { e.shift on with since := e.since.map on } else e,
      nps := s.nps.map fun (p : NonPosted) => if p.f = f then { p with deadline := on p.deadline } else p }

/-- The packets that the inbound buffer holds for a function come next, in their order (R410, R435); those whose source VDN its table does not hold are
discarded (R298). -/
def State.unhold (s : State) (f : Nat) : State :=
  let x := s.session f
  let (good, bad) := x.inbuf.partition fun p => vdnOk (s.vdne f p.svdn)
  let s := bad.foldl (fun s _ => s.stalePkt f) (s.setSession f { x with inbuf := [] })
  { s with accepted := s.accepted ++ good.map fun p => (p, RxSlot.none) }

/-- RESUME (R392, R395); packets that a checkpoint's freeze held come next (R435). -/
def State.vfResume (s : State) (f : Nat) : State :=
  let s := { s with resumes := Tab.set (fun _ => 0) s.resumes f (s.clk + 1) }
  if s.vfState f ≠ 4 && s.vfState f ≠ 5 then s.vfStatus f 1
  else if s.stale.contains f then s.vfStatus f 4
  else ((s.thaw f).setVf f 3 0 0).unhold f

/-- DISABLE (R392): at once, or when START ends; Oxbow forwarding of the function stops (R412). -/
def State.vfDisable (s : State) (f : Nat) : State :=
  if s.vfMoving f then { (s.vfStatus f 0) with disables := f :: s.disables.filter fun x => x != f }
  else
    let s := ((s.flr f).thaw f).setVf f 0 0 0
    s.setSession f { s.session f with forwarding := false }

/-- START ends (R392); STATUS stays that of the last command or locked-set write (R391). -/
def State.vfStarted (s : State) (f : Nat) : State :=
  if s.vfState f = 2 && s.vfMoving f then
    let s := s.setVf f 3 0 (bits (s.sys (fReg 0x0900 f 1)).toNat 26 24)
    if s.disables.contains f then { s with disables := s.disables.filter fun x => x != f }.vfDisable f else s
  else s

/-- QUIESCED when no queue is busy; until then a block that found no room in the save area halts once there is some (R378, R393). -/
def State.vfQuiesced (s : State) (f : Nat) : State :=
  if s.vfState f ≠ 4 then s
  else if s.busyQ f = 0 then s.setVf f 5 0 (bits (s.sys (fReg 0x0900 f 1)).toNat 26 24)
  else s.haltAll f

/-- R392. -/
def execVfEnable (f : Nat) (s : State) : Res := .next (s.vfEnable (f % 8))
/-- R392. -/
def execVfLock (f : Nat) (s : State) : Res := .next (s.vfLock (f % 8))
/-- R392. -/
def execVfUnlock (f : Nat) (s : State) : Res := .next (s.vfUnlock (f % 8))
/-- R392. -/
def execVfStart (f : Nat) (s : State) : Res := .next (s.vfStart (f % 8))
/-- R392. -/
def execVfStartComplete (f : Nat) (s : State) : Res := .next (s.vfStarted (f % 8))
/-- R393. -/
def execVfQuiesce (f : Nat) (s : State) : Res := .next (s.vfQuiesce (f % 8))
/-- R393. -/
def execVfQuiesceComplete (f : Nat) (s : State) : Res := .next (s.vfQuiesced (f % 8))
/-- R392, R395. -/
def execVfResume (f : Nat) (s : State) : Res := .next (s.vfResume (f % 8))
/-- R392. -/
def execVfDisable (f : Nat) (s : State) : Res := .next (s.vfDisable (f % 8))

/-- The bits that a locked-set register keeps (R358, R378, R391). -/
def lockedMask (num : Nat) : Nat :=
  if num < 0x0700 then (match num % 16 with
    | 0 => 0xFFFFFC00 | 1 => 0xFFF | _ => 0x8000003F)
  else if num < 0x0900 then (match num % 16 with
    | 0 => 0xFFFFF000 | 1 => 0xFFF | _ => 0xFFFFFFFF)
  else if num % 16 = 2 then 3 else 0xFFFF

/-- Whether a number names a locked-set register; its function (R394). -/
def lockedFunc (num : Nat) : Option Nat :=
  let f := num % 256 / 16
  if f < 9 && (((num / 256 = 6 || num / 256 = 7) && num % 16 < 3) || (num / 256 = 9 && (num % 16 = 2 || num % 16 = 3)))
  then some f else none

/-- Whether a value of S2CTL would give two enabled functions one VMID (R358). -/
def State.vmidClash (s : State) (f v : Nat) : Bool :=
  bit v 31 && (List.range 9).any fun h => h != f &&
    bit (s.sys (fReg 0x0600 h 2)).toNat 31 && (s.sys (fReg 0x0600 h 2)).toNat % 64 == v % 64

/-- A write to a locked-set register (R394). A write of a VMID that another function uses changes nothing, STATUS neither (log entry 36). -/
def State.lockedWrite (s : State) (num : Nat) (v : Word) : State :=
  match lockedFunc num with
  | none => s
  | some f =>
    let clash := num / 256 = 6 && num % 16 = 2 && s.vmidClash f v.toNat
    let put (s : State) : State := s.setSys num (v &&& BitVec.ofNat 32 (lockedMask num))
    if f = 8 then (if s.pfIdle && !clash then put s else s)
    else if s.vfState f = 1 || s.vfState f = 5 then (if clash then s else put (s.vfStatus f 0))
    else if s.vfState f = 2 && s.vfMoving f then s.vfStatus f 3
    else s.vfStatus f 2

/-- R394. -/
def execLockedSetWrite (num : Nat) (v : Word) (s : State) : Res := .next (s.lockedWrite num v)

/-! Shoot-downs (R361, R362). -/

/-- The address range of a command: from `addr` rounded down to 2^n pages. -/
def shootRange (c : ShootCmd) : Nat × Nat :=
  let size := 4096 * 2 ^ min 18 c.n
  (c.addr / size * size, size)

/-- Whether a command of a kind covers a cached translation (R361); kind 4 is the page of an owner command (R366). -/
def State.shootCovers (s : State) (c : ShootCmd) (kind : Nat) (e : TlbEntry) : Bool :=
  let (a, size) := shootRange c
  let own := e.vmid == s.vmid c.f
  let covered (x : Nat) : Bool := x < a + size && a < x + 2 ^ e.size
  match kind with
  | 0 => own && e.asid == c.asid && covered (e.vpage * 2 ^ e.size)
  | 1 => own && e.asid == c.asid
  | 2 => own && covered e.ipage
  | 3 => own
  | _ => match e.tgt with
    | .loc pa => covered pa
    | _ => false

/-- Where a command block keeps INVB: a guest's BAR 0, or the host's system register (R361). -/
def State.invb (s : State) (c : ShootCmd) : Nat := (if c.guest then s.bar c.f 0x2404 else s.sys 0x06B1).toNat

def State.setInvb (s : State) (c : ShootCmd) (v : Nat) : State :=
  if c.guest then s.setBar c.f 0x2404 (BitVec.ofNat 32 v) else s.setSys 0x06B1 (BitVec.ofNat 32 v)

def shootBlock (c : ShootCmd) : Nat := if c.guest then c.f else 9

/-- Starts a shoot-down: every covered entry goes (R362). -/
def State.shoot (s : State) (blk kind : Nat) (c : ShootCmd) : State :=
  { s with nextId := s.nextId + 1, tlb := s.tlb.filter (fun e => !s.shootCovers c kind e), shoots := s.shoots ++ [(blk, kind, c, s.nextId)] }

/-- A write of INVB that gives a command (R361): none while GO is 1, none for an IPA range from the guest. -/
def State.shootWrite (s : State) (kind : Nat) (go : Bool) (c : ShootCmd) : State :=
  if bit (s.invb c) 31 then s
  else
    let go := go && !(c.guest && kind == 2)
    let v := ofBool go * 2 ^ 31 + kind * 2 ^ 29 + min 18 c.n * 2 ^ 24 + bits c.addr 51 44 * 2 ^ 16 + c.asid % 65536
    let s := s.setInvb c v
    if go then s.shoot (shootBlock c) kind c else s

/-- INVA and, for the host, INVC as a command names them. -/
def State.setInva (s : State) (c : ShootCmd) : State :=
  let a := BitVec.ofNat 32 (bits c.addr 43 12)
  if c.guest then s.setBar c.f 0x2400 a else (s.setSys 0x06B0 a).setSys 0x06B2 (BitVec.ofNat 32 c.f)

/-- A command as its own step: its registers, then GO. -/
def State.shootStep (s : State) (kind : Nat) (c : ShootCmd) : State :=
  if bit (s.invb c) 31 || 8 < c.f then s else (s.setInva c).shootWrite kind true c

/-- Whether every access of a function translated up to `n` has been performed: loads, requests, those of saved blocks and those that wait for the issue limit
among them, posted writes, queued stores, lock requests on their way to the home, releases, code fetches, the elements that an engine has started, and
writes that a page migration holds (R362). A lock request that waits in the home's queue has been performed there. -/
def State.settled (s : State) (f n : Nat) : Bool :=
  let ofL (lid : Nat) : Bool := (s.launch? lid).any fun l => l.f == f
  let ofF (bid : Nat) : Bool := (s.launchOf bid).any fun l => l.f == f
  !(s.loads.any fun l => l.id ≤ n && ofF l.bid) && !((s.nps ++ s.savedNps).any fun p => p.id ≤ n && p.f == f) &&
  !(s.wants.any fun w => w.id ≤ n && w.f == f) && (s.pageMove.all fun m => m.held.isEmpty) && !(s.devHeld.any fun e => e.f == f) &&
  !(s.posts.any fun p => p.id ≤ n && ofF p.bid) &&
  !(s.groups.any fun g => ofF g.bid && ((g.queue.any fun e => e.id ≤ n) || (g.req.any fun r => r.id ≤ n && !r.queued) ||
    (g.unlocking.any fun u => u.before ≤ n))) &&
  !(s.cores.any fun c => c.2.segs.any fun e => !e.2.landed && e.2.id ≤ n && ofL e.2.lid) &&
  !(s.copies.any fun c => ofF c.bid && ((c.begun.any fun x => x.id ≤ n) || (c.id ≤ n && (match c.kind with
    | .lane _ _ => true
    | _ => false))))

/-- GO reads 0 once a command's conditions hold (R362). -/
def State.shootDone (s : State) (blk : Nat) : State :=
  match s.shoots.find? fun x => x.1 == blk with
  | none => s
  | some (_, kind, c, n) =>
    let ok := if kind = 4 then (List.range 9).all fun f => s.settled f n else s.settled c.f n
    if !ok then s
    else
      let s := { s with shoots := s.shoots.filter fun x => x.1 != blk }
      if kind = 4 then
        -- the owner changes as the command completes; the page that is released is zeroed (R366)
        let s := if c.guest then ((s.zeroLocal c.addr 4096).mark c.addr 4096).setOwner c.addr 0 else s.setOwner c.addr c.asid
        s.setSys 0x06A1 (s.sys 0x06A1 &&& 0x7FFFFFFF)
      else
        let s := s.setInvb c (s.invb c % 2 ^ 31)
        if kind = 3 then { s with stale := s.stale.filter fun f => f != c.f } else s

/-- R361. -/
def execShootdownVaRange (c : ShootCmd) (s : State) : Res := .next (s.shootStep 0 c)
/-- R361. -/
def execShootdownAsid (c : ShootCmd) (s : State) : Res := .next (s.shootStep 1 c)
/-- R361. -/
def execShootdownIpaRange (c : ShootCmd) (s : State) : Res := .next (if c.guest then s else s.shootStep 2 c)
/-- R361. -/
def execShootdownFunction (c : ShootCmd) (s : State) : Res := .next (s.shootStep 3 c)
/-- R362. -/
def execShootdownComplete (blk : Nat) (s : State) : Res := .next (s.shootDone blk)

/-! Page owners (R365, R366). -/

/-- A write to WCTL (R366): the command's page, its operation (`guest`: a release) and the handle's tag wait in `shoots` for its completion. -/
def State.ownerCommand (s : State) (v : Nat) : State :=
  let pa := (s.sys 0x06A0).toNat * 4096
  let h := v % 2 ^ 24
  let low := bit v 24
  let base := ofBool low * 2 ^ 24 + h
  let status (n : Nat) : State := s.setSys 0x06A1 (BitVec.ofNat 32 (n * 2 ^ 28 + base))
  if bit (s.sys 0x06A1).toNat 31 then s
  else if !bit v 31 then s.setSys 0x06A1 (BitVec.ofNat 32 (bits (s.sys 0x06A1).toNat 30 28 * 2 ^ 28 + base))
  else if !s.isLocal pa then status 1
  else match s.handle? h with
    | none => status 2
    | some k =>
      if s.owner pa ≠ 0 && s.owner pa ≠ k.tag then status 1
      else if s.pageMove.any fun m => (m.src ≤ pa && pa < m.src + m.size) || (m.dst ≤ pa && pa < m.dst + m.size) then status 3
      else
        let s := s.setSys 0x06A1 (BitVec.ofNat 32 (2 ^ 31 + base))
        s.shoot 10 4 { guest := low, f := 0, addr := pa, n := 0, asid := k.tag }

/-- R366. -/
def execOwnerAssign (handle : Nat) (s : State) : Res := .next (s.ownerCommand (2 ^ 31 + handle % 2 ^ 24))
/-- R366. -/
def execOwnerRelease (handle : Nat) (s : State) : Res := .next (s.ownerCommand (2 ^ 31 + 2 ^ 24 + handle % 2 ^ 24))

/-! Page migration within the device (R363, R364). -/

/-- The exponent of a page-migration SIZE. -/
def moveSize (n : Nat) : Nat :=
  match n with
  | 0 => 12 | 1 => 16 | _ => 21

/-- Whether a tracked range of a session that is not IDLE holds a physical address (R402). -/
def State.tracked (s : State) (pa n : Nat) : Bool :=
  (List.range 8).any fun f => bits (s.sys (fReg 0x0A00 f 4)).toNat 27 24 != 0 && (s.session f).tracking &&
    (s.trackDescs f).any fun d => pa < d.pa + d.len && d.pa < pa + n

/-- A write to MIGCTL: its checks, then the source is locked (R363, R364 steps 1 to 3). DESIGN CHOICE (log entry 115): a destination outside local memory is
refused with STATUS 3. -/
def State.moveCommand (s : State) (v : Nat) : State :=
  let src := (s.sys 0x0690).toNat * 4096
  let dst := (s.sys 0x0691).toNat * 4096
  let ipa := (s.sys 0x0692).toNat * 4096 + bits v 19 18 * 2 ^ 44
  let f := bits v 23 20
  let base := bits v 23 16 * 2 ^ 16
  let k := moveSize (bits v 17 16)
  let status (n : Nat) : State := s.setSys 0x0693 (BitVec.ofNat 32 (n * 2 ^ 28 + base))
  if bit (s.sys 0x0693).toNat 31 then s
  else if !bit v 31 then s.setSys 0x0693 (BitVec.ofNat 32 (bits (s.sys 0x0693).toNat 30 28 * 2 ^ 28 + base))
  else if bits v 17 16 = 3 || 8 < f || !bit (s.sys (fReg 0x0600 f 2)).toNat 31 then status 2
  else match walkLevels true (fun p => some (s.mem.read p 8)) ipa [0, 1, 2, 3] (s.s2root f) with
    | none => status 2
    | some (e, size, p) =>
      if size ≠ k || bits e 6 5 ≠ 0 || leafOut e size (ipa / 2 ^ size * 2 ^ size) ≠ src then status 2
      else if dst % 2 ^ k ≠ 0 || (dst < src + 2 ^ k && src < dst + 2 ^ k) || !s.isLocal dst ||
          (List.range (2 ^ (k - 12))).any (fun i => s.owner (dst + 4096 * i) != 0) ||
          (s.shoots.any fun x => x.1 == 10 && dst ≤ x.2.2.1.addr && x.2.2.1.addr < dst + 2 ^ k) || s.tracked src (2 ^ k) then status 3
      else
        let m : PageMove := { src, dst, leaf := p, size := 2 ^ k, f, ipa := ipa / 2 ^ k * 2 ^ k, held := [], reads := [] }
        { (s.setSys 0x0693 (BitVec.ofNat 32 (2 ^ 31 + 2 ^ 28 + base))) with pageMove := some m }

/-- A host-port read (R365): world tag 0; a byte of an owned page, or outside local memory, reads as ones. -/
def State.hostBytes (s : State) (pa n : Nat) : List Byte :=
  (List.range n).map fun i => if s.isLocal (pa + i) && s.owner (pa + i) == 0 then s.mem.byte (pa + i) else 0xFF

def State.hostAnswer (s : State) (pa n : Nat) : State :=
  let s := if s.isLocal pa && s.owner pa = 0 then s.touchRead 8 0 (.loc pa) n else s
  s.send (.hostRead pa (s.hostBytes pa n))

/-- A physical address after a page has moved. -/
def PageMove.goes (m : PageMove) (pa : Nat) : Nat := if m.src ≤ pa && pa < m.src + m.size then m.dst + (pa - m.src) else pa

def PageMove.tgt (m : PageMove) (t : Target) : Target :=
  match t with
  | .loc pa => .loc (m.goes pa)
  | t => t

/-- Changes the lines that a saved block's groups hold or wait for. -/
def SavedBlock.retarget (x : SavedBlock) (g : Target → Target) : SavedBlock :=
  { x with groups := x.groups.map fun (y : Group) => { y with
      held := y.held.map (fun (h : Held) => { h with tgt := g h.tgt }),
      req := y.req.map fun (r : LockReq) => { r with tgt := g r.tgt } } }

/-- Steps 3 to 6 of R364: the copy, the leaf, the shoot-down, the locks, the owner, the held writes, and the source zeroed.
Accesses in flight, and the locks of saved groups, go to the destination. -/
def State.moveDone (s : State) : State :=
  match s.pageMove with
  | none => s
  | some m =>
    let moved : Memory := (s.mem.filter fun e => m.src ≤ e.1 && e.1 < m.src + m.size).map fun e => (e.1 - m.src + m.dst, e.2)
    let owners := (List.range (m.size / 4096)).map fun i => s.owner (m.src + 4096 * i)
    let s := (s.zeroLocal m.dst m.size).zeroLocal m.src m.size
    let s := { s with mem := moved.foldl (fun (x : Memory) (e : Nat × Byte) => x.setByte e.1 e.2) s.mem }
    let leaf (s : State) (p i : Nat) : State :=
      let e := s.mem.read p 8
      { s with mem := s.mem.store p (leBytes (setBits e 51 12 (m.dst / 4096 + i)) 8) }
    let s := if m.size = 2 ^ 16 then (List.range 16).foldl (fun s i => leaf s (m.leaf / 128 * 128 + 8 * i) i) s else leaf s m.leaf 0
    let c : ShootCmd := { guest := false, f := m.f, addr := m.ipa, n := (m.size / 4096).log2, asid := 0 }
    let s := { s with
      pageMove := none, saved := s.saved.map (fun (x : SavedBlock) => x.retarget m.tgt), tlb := s.tlb.filter (fun e => !s.shootCovers c 2 e),
      loads := s.loads.map (fun (l : Load) => { l with tgt := m.tgt l.tgt }),
      groups := s.groups.map (fun (g : Group) => { g with
        queue := g.queue.map (fun (e : QEntry) => { e with tgt := m.tgt e.tgt }),
        held := g.held.map (fun (h : Held) => { h with tgt := m.tgt h.tgt }),
        req := g.req.map (fun (r : LockReq) => { r with tgt := m.tgt r.tgt }),
        unlocking := g.unlocking.map (fun (u : Unlocking) => { u with tgt := m.tgt u.tgt }),
        losing := g.losing.map fun (u : Unlocking) => { u with tgt := m.tgt u.tgt } }),
      copies := s.copies.map (fun (x : CopyCmd) => { x with
        begun := x.begun.map (fun (b : Begun) => { b with src := m.tgt b.src, dst := m.tgt b.dst }),
        kind := match x.kind with
        | .lane n l => .lane n (l.map fun (y : VAddr × Target × Target) => (y.1, m.tgt y.2.1, m.tgt y.2.2))
        | k => k }),
      cores := s.cores.map (fun (c : Nat × Core) => (c.1, { c.2 with
        segs := c.2.segs.map fun (e : Nat × Seg) => (e.1, { e.2 with src := m.tgt e.2.src }) })),
      devHeld := s.devHeld.map (fun (e : DevHeld) => { e with pa := m.goes e.pa }),
      locks := s.locks.map fun (e : LockEntry) => { e with line := m.goes (128 * e.line) / 128 } }
    let s := owners.zipIdx.foldl (fun s x => (s.setOwner (m.dst + 4096 * x.2) x.1).setOwner (m.src + 4096 * x.2) 0) s
    let s := m.held.foldl (fun s w =>
      let s := s.homeWrite 8 0 none (m.goes w.1) w.2.1
      w.2.2.elim s fun v => s.vector v.1 v.2) s
    let s := m.reads.foldl (fun s r => s.hostAnswer r.1 r.2) s
    s.setSys 0x0693 (BitVec.ofNat 32 (bits (s.sys 0x0693).toNat 23 16 * 2 ^ 16))

/-- R363, R364. -/
def execPageMigration (v : Word) (s : State) : Res := .next (s.moveCommand (2 ^ 31 + v.toNat % 2 ^ 31))
/-- R364. -/
def execPageMigrationComplete (s : State) : Res := .next s.moveDone

end Sys2Proof.Machine
end

