-- ==== Sys2Proof/Machine/Migration.lean ====
section
/-! DEFINITION. Live migration and checkpoints (R400 to R413, R434, R435): the session commands, Seep, the stop phase, the Neutral
State Image, the VDN switch and Oxbow. -/

namespace Sys2Proof.Machine

/-! Session registers (R400, R401). -/

def State.mreg (s : State) (f n : Nat) : Nat := (s.sys (fReg 0x0A00 f n)).toNat
def State.migState (s : State) (f : Nat) : Nat := bits (s.mreg f 4) 27 24
def State.ckEn (s : State) (f : Nat) : Bool := bit (s.mreg f 6) 0
def State.pdev (s : State) (f : Nat) : Nat := bits (s.mreg f 2) 21 16
def State.pfunc (s : State) (f : Nat) : Nat := bits (s.mreg f 2) 15 12
def State.mtag (s : State) (f : Nat) : Nat := bits (s.mreg f 2) 31 24

/-- The host base of a checkpoint (R434). -/
def State.hostBase (s : State) (f : Nat) : Nat := bits (s.mreg f 6) 31 16 * 2 ^ 16 + s.mreg f 7 * 2 ^ 32

/-- Writes STATE and STATUS of MCTL; SWDONE by its own argument (R400). -/
def State.setMig (s : State) (f state status : Nat) (swdone : Bool) : State :=
  s.setSys (fReg 0x0A00 f 4) (BitVec.ofNat 32 (state * 2 ^ 24 + status * 2 ^ 20 + ofBool swdone * 2 ^ 19))

def State.swDone (s : State) (f : Nat) : Bool := bit (s.mreg f 4) 19

/-- A command that only reports (R401). -/
def State.migStatus (s : State) (f status : Nat) : State := s.setMig f (s.migState f) status (s.swDone f)

def State.updSession (s : State) (f : Nat) (g : Session → Session) : State := s.setSession f (g (s.session f))

/-- Sends a packet on the migration channel to the other end of a session (R405). -/
def State.toPeer (s : State) (f : Nat) (body : Body) : State := s.emit (s.packetAt f (s.pdev f) (s.pfunc f) body)

/-- Sends a control packet, or holds it until a credit returns or a fibre of its group is back: of the 64 control slots of a receive port each of its 16
devices has 4 (R421, log entry 116). -/
def State.sendCtrl (s : State) (p : Packet) : State :=
  let n := Tab.get (fun _ => 0) s.credits p.dstDev
  if n < 4 && (p.dstDev == s.phys || s.fibres p.dstDev != 0) then { s with credits := Tab.set (fun _ => 0) s.credits p.dstDev (n + 1) }.emit p
  else { s with ctrlWait := s.ctrlWait ++ [p] }

/-- Sends the oldest held control packet towards each device of a list. -/
def State.flushCtrl (s : State) (devs : List Nat) : State :=
  devs.foldl (fun s d => match s.ctrlWait.find? fun p => p.dstDev == d with
    | some p => { s with ctrlWait := s.ctrlWait.erase p }.sendCtrl p
    | none => s) s

def State.ctrlTo (s : State) (f dev fun_ : Nat) (body : Body) : State := s.sendCtrl (s.packetAt f dev fun_ body)

/-- A credit towards a device is back, and the oldest held control packet leaves (R421). -/
def State.creditBack (s : State) (dev : Nat) : State :=
  let n := Tab.get (fun _ => 0) s.credits dev
  { s with credits := Tab.set (fun _ => 0) s.credits dev (n - 1) }.flushCtrl [dev]

/-- R421. -/
def execControlCreditReturn (dev : Nat) (s : State) : Res := .next (s.creditBack dev)

/-- What a session had under way goes: its pass, its image and its timer (R405, R413). -/
def Session.rest (x : Session) : Session := { x with expect := none, deadline := none, pass := [], image := none, finishing := false }

/-- A session fails at this end (R404, R405, R413). -/
def State.migFail (s : State) (f status : Nat) : State := (s.updSession f Session.rest).setMig f 6 status (s.swDone f)

/-- A session fails at both ends. -/
def State.migFailBoth (s : State) (f status : Nat) : State :=
  let s := s.migFail f status
  if s.ckEn f then s else s.toPeer f (.abort (s.mtag f) status)

/-! Tracking (R402, R403). -/

/-- Whether a local leaf of a table from an entry list down covers a physical page. -/
def leafCovers (rd : Nat → Nat) (pa : Nat) : List Nat → Nat → Nat → Bool
  | [], _, _ => false
  | lvl :: rest, n, base => (List.range n).any fun i =>
      let e := rd (base + 8 * i)
      entryOk true lvl e &&
        (if bit e 7 then bits e 6 5 == 0 && (let k := leafSize lvl false
          entryOa e / 2 ^ k == pa / 2 ^ k)
         else leafCovers rd pa rest 512 (entryOa e))

/-- Whether a function reaches a physical page (R402). -/
def State.reaches (s : State) (f pa : Nat) : Bool :=
  if bit (s.sys (fReg 0x0600 f 2)).toNat 31 then leafCovers (fun p => s.mem.read p 8) pa [0, 1, 2, 3] 128 (s.s2root f)
  else s.inPart (s.partOf f) pa

def TrackDesc.aligned (d : TrackDesc) : Bool :=
  d.ipa % 2 ^ 21 == 0 && d.pa % 2 ^ 21 == 0 && 1 ≤ d.units && d.zero == 0 && d.bitmap % 8 == 0

/-- Whether no two descriptors overlap. -/
def disjoint : List TrackDesc → Bool
  | [] => true
  | d :: r => (r.all fun e => (d.ipa + d.len ≤ e.ipa || e.ipa + e.len ≤ d.ipa) && (d.pa + d.len ≤ e.pa || e.pa + e.len ≤ d.pa)) &&
      disjoint r

/-- TRACK's checks of the descriptors (R402). -/
def State.trackOk (s : State) (f : Nat) : Bool :=
  let ds := s.trackDescs f
  ds.all TrackDesc.aligned && disjoint ds &&
  ds.all fun d => (List.range ((d.bitmap % 4096 + 512 * d.units + 4095) / 4096)).all fun i =>
    (List.range 9).all fun h => !s.reaches h (d.bitmap / 4096 * 4096 + 4096 * i)

/-- Whether the next command of the session fails for its PFUNC (R400). -/
def State.badPeer (s : State) (f : Nat) : Bool := 8 ≤ s.pfunc f && !s.ckEn f

/-- TRACK (R402). -/
def State.migTrack (s : State) (f : Nat) : State :=
  if s.migState f ≠ 0 || s.vfState f ≠ 3 || s.badPeer f || !s.trackOk f then s.migStatus f 1
  else
    let s := (s.trackDescs f).foldl (fun s d =>
      { s with mem := s.mem.store d.bitmap (List.replicate (512 * d.units) 0xFF) }) s
    (s.setSession f { Session.reset with tracking := true }).setMig f 1 0 false

/-- COPY (R401). -/
def State.migCopy (s : State) (f : Nat) : State :=
  if s.migState f ≠ 1 || s.badPeer f then s.migStatus f 1
  else (s.updSession f fun x => { x with desc := 0, word := 0, pass := [], r := 0, resends := 0 }).setMig f 2 0 false

/-- ACCEPT (R409). -/
def State.migAccept (s : State) (f : Nat) : State :=
  if s.migState f ≠ 0 || s.vfState f ≠ 2 || s.badPeer f then s.migStatus f 1
  else (s.setSession f { Session.reset with epoch := 255 }).setMig f 8 0 false

/-- END (R401, R413). -/
def State.migEnd (s : State) (f : Nat) : State :=
  let m := s.migState f
  if (m = 0 && !s.badPeer f) || m = 5 || m = 6 || (m = 10 && s.swDone f) then
    let back := m = 6 && s.vfState f = 6
    let s := if back then s.setVf f 5 0 0 else s
    let s := if m = 6 then s.thaw f else s
    let s := s.updSession f fun x => { x.rest with tracking := false, forwarding := x.forwarding && !(m == 6) }
    s.setMig f 0 0 false
  else s.migStatus f 1

/-- ABORT (R401, R413). A source whose image has left, so that its destination may have written LOAD, asks it. -/
def State.migAbort (s : State) (f : Nat) : State :=
  let m := s.migState f
  let asks := m = 4 || (m = 3 && (s.session f).image.isNone && !s.ckEn f)
  if asks then s.toPeer f (.abort (s.mtag f) 7)
  else if m = 1 || m = 2 || m = 3 then s.migFailBoth f 7
  else if m = 8 || (m = 9 && !(s.session f).switched) then (s.migFailBoth f 7).updSession f fun x => { x with inbuf := [] }
  else s.migStatus f 1

/-- An abort from the other end: late at a destination that has written LOAD or SWITCH; else this end fails, and a source that
waits for the judgement is told (R413). STATUS 1 tells a source that its abort came too late. -/
def State.abortArrive (s : State) (f srcDev status : Nat) : State :=
  let m := s.migState f
  if srcDev ≠ s.pdev f || m = 0 || s.ckEn f then s
  else if status = 1 then s.migStatus f 1
  else if m = 10 || (m = 9 && (s.session f).switched) then s.toPeer f (.abort (s.mtag f) 1)
  else if m = 8 || m = 9 then
    ((s.migFail f status).updSession f fun x => { x with inbuf := [] }).toPeer f (.abort (s.mtag f) status)
  else if 1 ≤ m && m ≤ 4 then s.migFail f status
  else s

/-- R402. -/
def execMigTrack (f : Nat) (s : State) : Res := .next (s.migTrack (f % 8))
/-- R401. -/
def execMigCopy (f : Nat) (s : State) : Res := .next (s.migCopy (f % 8))
/-- R409. -/
def execMigAccept (f : Nat) (s : State) : Res := .next (s.migAccept (f % 8))
/-- R413. -/
def execMigAbort (f : Nat) (s : State) : Res := .next (s.migAbort (f % 8))
/-- R413. -/
def execMigAbortArrival (f srcDev : Nat) (s : State) : Res := .next (s.abortArrive (f % 8) srcDev 7)
/-- R401. -/
def execMigEnd (f : Nat) (s : State) : Res := .next (s.migEnd (f % 8))

/-! Seep (R404, R405). -/

/-- The handle whose tag owns a page, 0 for an open page. -/
def State.ownerHandle (s : State) (pa : Nat) : Nat :=
  let o := s.owner pa
  if o = 0 then 0 else ((s.handles.find? fun e => e.2.tag == o).map fun e => e.1).getD 0

/-- Posts one granule: to the other end, in packets of 128 bytes (R418), or to host memory at a checkpoint (R404, R435). A sleeping die wakes for it
(R437). -/
def State.seepPost (s : State) (f ipa pa : Nat) : State :=
  let d := s.homeDie pa
  let s := [0, 1, 2, 3].foldl (fun s k => s.downgrade none (pa / 128 + k)) (s.askDie d)
  let data := s.mem.bytes pa 512
  let s := ((s.meter f d 6 512).dieEvent d 34 512).updSession f fun x => { x with copied := s.clk :: x.copied.filter fun c => s.clk < c + us 100 }
  if s.ckEn f then { s with host := s.host.store (s.hostBase f + ipa) data }
  else
    let x := s.session f
    [0, 1, 2, 3].foldl (fun s k =>
      s.toPeer f (.seep (s.mtag f) x.epoch.toNat x.r (ipa + 128 * k) (s.ownerHandle pa) ((data.drop (128 * k)).take 128))) s

/-- Sends the image in packets of at most 128 bytes (R407, R418). -/
def State.imagePost (s : State) (f : Nat) (img : Image) : State :=
  let bs := layoutBytes img
  let x := s.session f
  (List.range ((bs.length + 127) / 128)).foldl (fun s k =>
    s.toPeer f (.seepImage (s.mtag f) x.epoch.toNat x.r (128 * k) ((bs.drop (128 * k)).take 128))) s

/-- Sends a pass's counted release, and the image's (R405). -/
def State.seepRelease (s : State) (f n : Nat) (image : Option Image) : State :=
  let x := s.session f
  let s := s.updSession f fun x => { x with deadline := some (s.clk + us 40), expect := some (n, image) }
  if s.ckEn f then s else s.toPeer f (.seepRelease (s.mtag f) x.epoch.toNat x.r n image)

/-- A checkpoint's posts while the host link is insecure: the pass is tried again after 20 µs, and fails after the third time (R405,
R443). -/
def State.linkDown (s : State) (f : Nat) : State :=
  let x := s.session f
  match x.deadline with
  | none => s.updSession f fun x => { x with r := 0, deadline := some (s.clk + us 20) }
  | some d =>
    if s.clk < d then s
    else if x.r = 3 then s.migFail f 6
    else s.updSession f fun x => { x with r := x.r + 1, deadline := some (s.clk + us 20) }

/-- Seep sends the image, between the pass that SAVE found under way and the last one: under a release of its own, or to host memory at a
checkpoint (R405, R407, R435). -/
def State.seepImage (s : State) (f : Nat) (img : Image) : State :=
  let s := s.updSession f fun x => { x with image := none }
  if s.ckEn f then { s with host := s.host.store (s.hostBase f + 2 ^ 46) (layoutBytes img) }
  else (s.imagePost f img).seepRelease f (((layoutBytes img).length + 127) / 128) (some img)

/-- Whether Seep copies for a session: in COPYING and FINAL, and where the switch committed it before the last pass was over (R404, R411). -/
def State.seeps (s : State) (f : Nat) : Bool :=
  let m := s.migState f
  m == 2 || m == 3 || (m == 5 && (s.session f).finishing)

/-- One bitmap word of a session's pass (R404): exchanged with 0 first, then its granules; after the last word the release. The next word is the
next session's that has work. -/
def State.seepPass (s : State) (f : Nat) : State :=
  let x := s.session f
  let ds := s.trackDescs f
  -- a pass waits for the answer to the last one's release
  if !s.seeps f || (!s.ckEn f && x.expect.isSome) then s
  else if s.ckEn f && !s.ideSecure then s.linkDown f
  else match (if x.desc = 0 && x.word = 0 then x.image else none), ds[x.desc]? with
    | some img, _ => s.seepImage f img
    | none, none => s
    | none, some d =>
      let s := { s with seepTurn := f + 1 }
      let a := d.bitmap + 8 * x.word
      let w := s.mem.read a 8
      let s := { s with mem := s.mem.store a (leBytes 0 8) }
      let gs := ((List.range 64).filter fun i => bit w i).map fun i => (d.ipa + 512 * (64 * x.word + i), d.pa + 512 * (64 * x.word + i))
      let bad := gs.flatMap fun g => ([0, 1, 2, 3].map fun k => g.2 / 128 + k).filter fun l => s.poisoned.contains l
      if !bad.isEmpty then
        (bad.foldl (fun s l => s.logError (if s.mere.any fun m => m.line == l then 1 else 0) f (128 * l)) s).migFailBoth f 7
      else
        let s := gs.foldl (fun s g => s.seepPost f g.1 g.2) s
        let last := x.word + 1 = 64 * d.units
        let s := s.updSession f fun x => { x with
          pass := x.pass ++ gs, word := if last then 0 else x.word + 1, desc := if last then x.desc + 1 else x.desc }
        if last && x.desc + 1 = ds.length then
          let n := 4 * (s.session f).pass.length
          let s := s.updSession f fun x => { x with desc := 0 }
          if s.ckEn f then s.updSession f fun x => { x with pass := [], r := 0, deadline := none } else s.seepRelease f n none
        else s

/-- R404. -/
def execSeepPass (f : Nat) (s : State) : Res := .next (s.seepPass (f % 8))

/-- The other end's token: the pass is closed, and the next one has the next epoch and a fresh replay number (R405). -/
def State.seepToken (s : State) (f epoch : Nat) : State :=
  if (s.session f).expect.isNone || (s.session f).epoch.toNat ≠ epoch then s
  else s.updSession f fun x => { x with expect := none, epoch := x.epoch + 1, pass := [], r := 0, deadline := none, resends := 0 }

/-- A replay request of the other end: every granule of the pass again, read afresh, or the image (R405). -/
def State.seepReplay (s : State) (f epoch r : Nat) : State :=
  let x := s.session f
  if x.epoch.toNat ≠ epoch then s
  else match x.expect with
    | none => s
    | some (_, image) =>
      let s := s.updSession f fun x => { x with r, deadline := some (s.clk + us 40), resends := 0 }
      image.elim (x.pass.foldl (fun s g => s.seepPost f g.1 g.2) s) (s.imagePost f)

/-- The source's release without an answer for 40 µs: it goes again, and after the third time the session fails (R307, R405). -/
def State.seepResend (s : State) (f : Nat) : State :=
  let x := s.session f
  match x.expect, x.deadline with
  | some (n, image), some d =>
    if s.clk < d || s.ckEn f || !s.seeps f then s
    else if x.resends = 3 then s.migFail f 6
    else (s.updSession f fun x => { x with resends := x.resends + 1, deadline := some (s.clk + us 40) }).toPeer f
      (.seepRelease (s.mtag f) x.epoch.toNat x.r n image)
  | _, _ => s

/-- Whether a packet comes from the other end of a session: that of a checkpoint is host memory (R409, R435). -/
def State.fromPeer (s : State) (p : Packet) (mtag : Nat) : Bool :=
  !s.ckEn (p.dstFun % 8) && p.srcDev == s.pdev p.dstFun && p.srcFun == s.pfunc p.dstFun && mtag == s.mtag p.dstFun

/-- From ACCEPT on, until its session ends, the destination port performs Seep writes (R409). -/
def State.seepOpen (s : State) (f : Nat) : Bool := s.migState f == 8 || s.migState f == 9 || s.migState f == 10

/-- The destination closes a pass, or has the whole image, once its count has arrived (R304, R405, R409). -/
def State.seepClose (s : State) (f : Nat) : State :=
  let x := s.session f
  match x.expect with
  | some (n, image) =>
    if x.arrived ≠ n then s
    else
      let s := s.updSession f fun x => { x with expect := none, epoch := x.epoch + 1, arrived := 0, r := 0, deadline := none }
      let s := match image with
        | some img => { (if s.migState f = 8 then s.setMig f 9 0 false else s) with images := img :: s.images }
        | none => s
      s.toPeer f (.seepToken (s.mtag f) (x.epoch + 1).toNat x.r)
  | none => s

/-- Whether a write of a pass is accepted at the destination: of the session's other end, of the pass under way and of its replay number (R304, R405,
R409); a discarded one counts (R309). -/
def State.seepAccepts (s : State) (p : Packet) (mtag epoch r : Nat) : Bool :=
  let x := s.session (p.dstFun % 8)
  s.seepOpen (p.dstFun % 8) && s.fromPeer p mtag && epoch == (x.epoch + 1).toNat && r == x.r

/-- A write of a pass or of the image has been performed: it is counted, and may close the pass. -/
def State.seepLanded (s : State) (f n : Nat) : State :=
  ((s.fabricBytes f 10 n).updSession f fun x => { x with arrived := x.arrived + 1 }).seepClose f

/-- R404, R409: a Seep write at the destination, through the function's stage 2; a page takes its owner at the first one. A part of the image goes into
the save area; one that does not fit there ends the session (log entry 118). -/
def State.seepWrite (s : State) (p : Packet) : State :=
  let f := p.dstFun % 8
  match p.body with
  | .seep mtag epoch r ipa owner data =>
    if !s.seepAccepts p mtag epoch r then s.stalePkt f
    else match s.stage2 f ipa with
      | some { tgt := .loc pa, w := true, .. } =>
        let tag := (s.handle? owner).map fun k => k.tag
        if owner ≠ 0 && tag.isNone then s.migFailBoth f 5
        else
          let s := if s.owner pa = 0 then s.setOwner pa (if owner = 0 then 0 else tag.getD 0) else s
          (s.homeWrite f 0 none pa data).seepLanded f data.length
      | _ => s.migFailBoth f 8
  | .seepImage mtag epoch r off data =>
    if !s.seepAccepts p mtag epoch r then s.stalePkt f
    else if (s.saveArea f).2 < off + data.length then s.migFailBoth f 2
    else (s.homeWrite f 0 none ((s.saveArea f).1 + off) data).seepLanded f data.length
  | _ => s

/-- R404, R409. -/
def execSeepWriteArrival (p : Packet) (s : State) : Res := .next (s.seepWrite p)

/-- The counted release of a pass or of the image at the destination: of the pass under way, or of the last one, whose token goes again (R301, R304,
R405). -/
def State.seepReleaseArrive (s : State) (p : Packet) : State :=
  let f := p.dstFun % 8
  let x := s.session f
  match p.body with
  | .seepRelease mtag epoch r n image =>
    if !s.seepOpen f || !s.fromPeer p mtag then s
    else if epoch = x.epoch.toNat then s.toPeer f (.seepToken mtag epoch r)
    else if epoch ≠ (x.epoch + 1).toNat then s.stalePkt f
    else if x.expect.isSome then s
    else (s.updSession f fun x => { x with expect := some (n, image), deadline := some (s.clk + us 20) }).seepClose f
  | _ => s

/-- R409. -/
def execImageReleaseArrival (p : Packet) (s : State) : Res := .next (s.seepReleaseArrive p)

/-- T_lost of a pass at the destination (R304, R405). -/
def State.seepLost (s : State) (f : Nat) : State :=
  let x := s.session f
  match x.expect, x.deadline with
  | some _, some d =>
    if s.clk < d || !s.seepOpen f then s
    else if x.r = 3 then s.migFailBoth f 6
    else (s.updSession f fun x => { x with r := x.r + 1, arrived := 0, deadline := some (s.clk + us 20) }).toPeer f
      (.seepReplay (s.mtag f) (x.epoch + 1).toNat (x.r + 1))
  | _, _ => s

/-! The stop phase and the image (R407 to R410). -/

/-- The intermediate address that a table from an entry list down maps to a physical address: the lowest. -/
def leafIpa (rd : Nat → Nat) (pa : Nat) : List Nat → Nat → Nat → Nat → Option Nat
  | [], _, _, _ => none
  | lvl :: rest, n, base, ipa => (List.range n).findSome? fun i =>
      let e := rd (base + 8 * i)
      let k := leafSize lvl false
      if !entryOk true lvl e then none
      else if bit e 7 then (if bits e 6 5 = 0 && entryOa e / 2 ^ k = pa / 2 ^ k then some (ipa + i * 2 ^ k + pa % 2 ^ k) else none)
      else leafIpa rd pa rest 512 (entryOa e) (ipa + i * 2 ^ k)

/-- The intermediate address of a physical address: its descriptor's (R402), else its stage 2's, which is the address itself where stage 2 is off
(R358); none where stage 2 maps nothing to it. -/
def State.ipaOf (s : State) (f pa : Nat) : Option Nat :=
  match (s.trackDescs f).find? fun d => d.pa ≤ pa && pa < d.pa + d.len with
  | some d => some (d.ipa + (pa - d.pa))
  | none =>
    if bit (s.sys (fReg 0x0600 f 2)).toNat 31 then leafIpa (fun p => s.mem.read p 8) pa [0, 1, 2, 3] 128 (s.s2root f) 0 else some pa

/-- The entries of a table whose keys lie in one function's range of `n`, keyed within it. -/
def Tab.part (t : Tab α) (f n : Nat) : Tab α := (t.filter fun e => e.1 / n == f).map fun e => (e.1 % n, e.2)

/-- An image names no core (R408): 192 stands for none. -/
def SavedBlock.noCore (x : SavedBlock) : SavedBlock :=
  { x with
    block := { x.block with core := 192, mateCore := 192, saveAt := none },
    copies := x.copies.map fun (c : CopyCmd) => { c with core := 192 } }

/-- A window with its timers as the time that remains, which names no core (R299, R408). -/
def Window.carried (w : Window) (now : Nat) : Window :=
  { w.shift fun d => d - now with copies := w.copies.map fun (r : CopyRec) => { r with env := { r.env with core := 192 } } }

/-- The registers of section 1 that BAR 0 holds, by offset: those of each queue (R337, R357, R408). -/
def section1 : List Nat :=
  (List.range 64).flatMap fun q => ([0, 4, 8, 0x0C, 0x10, 0x14, 0x18, 0x1C].map fun o => 0x1000 + 32 * q + o) ++ [0, 4, 8].map fun o => 0x2000 + 16 * q + o

/-- The arrival entries that a function reserves at each port (R308). -/
def State.arsv (s : State) (f : Nat) : Nat := 64 * bits (s.sys (fReg 0x0400 f 3)).toNat 21 16

/-- An arrival takes an entry at its port: of the reservation first, then of the pool (R303). -/
def State.enter (s : State) (a : Arrival) : Option State :=
  let here := s.arrivals.filter fun x => x.port == a.port
  let own := (here.filter fun x => x.reserved && x.key.f == a.key.f).length
  let pool := (here.filter fun x => !x.reserved).length
  let a := { a with reserved := own < s.arsv a.key.f }
  if a.reserved || pool < 4096 - ((List.range 9).map s.arsv).sum then some { s with arrivals := s.arrivals ++ [a] } else none

/-- The image of a function (R408). Timers are kept as the time that remains (R294). The header of a function that has no own VDN names 0, where LOAD then
puts it (R410, log entry 119). -/
def State.capture (s : State) (f : Nat) : Image where
  major := 1
  ownVdn := (s.ownVdn f).getD 0
  bar0 := (Tab.part s.bar0 f 0x10000).filter fun (e : Nat × Word) => section1.contains e.1
  regs := [0, 1, 2, 3, 4].map fun r => (r, s.sys (fReg 0x0400 f r))
  vdn := (List.range 64).map fun v => (v, s.sys (0x1000 + 0x40 * f + v))
  log := Tab.get (fun _ => []) s.lockLog f
  windows := (Tab.part s.windows f 32).map fun (e : Nat × Window) => (e.1, e.2.carried s.clk)
  epochs := Tab.part s.epochs f 2048
  arrivals := (s.arrivals.filter fun a => a.key.f == f).map fun a => a.shift fun d => d - s.clk
  dups := Tab.part s.dups f 64
  seqs := Tab.part s.seqs f 64
  locks := (s.locks.filter fun e => e.f == f).filterMap fun (e : LockEntry) => (s.ipaOf f (128 * e.line)).map fun ipa =>
    { e.shift fun d => d - s.clk with
      line := ipa / 128,
      held := e.held + (e.since.map fun c => s.clk - c).getD 0 }
  launches := (s.launches.filter fun l => l.f == f).map fun (l : Launch) => { l with
    cores := [], waiting := l.waiting.map fun (w : WaitingBlock) => { w with core := 192, core2 := 192 } }
  parked := s.parked.filter fun p => p.f == f
  blocks := (s.saved.filter fun x => (s.launch? x.block.lid).any fun l => l.f == f).map fun x => x.noCore.retarget fun t => match t with
    | .loc pa => .loc ((s.ipaOf f pa).getD pa)
    | t => t
  frees := (s.nps.filter fun p => p.f == f && p.bid == 0).map fun (p : NonPosted) => { p with deadline := p.deadline - s.clk }
  wants := s.wants.filter fun w => w.f == f
  bound := s.nextId

/-- VFCTL SAVE (R407): the freeze and the capture into the save area; where a session is in COPYING, Seep sends the image and makes the last pass. -/
def State.vfSave (s : State) (f : Nat) : State :=
  if s.vfState f ≠ 5 then s.vfStatus f 1
  else
    let img := s.capture f
    let bs := layoutBytes img
    let (base, size) := s.saveArea f
    if size < bs.length then (s.migFail f 2).vfStatus f 0
    else
      let s := { s with mem := s.mem.store base bs, images := img :: s.images }.mark base bs.length
      if s.migState f ≠ 2 then s.setVf f 6 0 0
      else ((s.updSession f fun x => { x with frozen := some s.clk, forwarding := !s.ckEn f, image := some img }).setMig f 3 0 false).vfStatus f 0

/-- R407, R435: the image is sent, and the last pass has left no granule marked. After a checkpoint the function is quiesced again. -/
def State.finalPass (s : State) (f : Nat) : State :=
  let x := s.session f
  if s.migState f = 3 && x.image.isNone && s.backlog f = 0 && x.desc = 0 && x.word = 0 && x.expect.isNone then
    if s.ckEn f then (s.setVf f 5 0 0).setMig f 1 0 false else (s.setVf f 6 0 0).setMig f 4 0 false
  else s

/-- R407. -/
def execVfSave (f : Nat) (s : State) : Res := .next (s.vfSave (f % 8))
/-- R407, R435. -/
def execFinalPassComplete (f : Nat) (s : State) : Res := .next (s.finalPass (f % 8))

/-- MCTL RESTORE (R435): the image comes from host memory into the save area. -/
def State.migRestore (s : State) (f : Nat) : State :=
  if s.migState f ≠ 0 || s.vfState f ≠ 2 || !s.ckEn f then s.migStatus f 1
  else
    let (base, size) := s.saveArea f
    { (s.setMig f 9 0 false) with mem := s.mem.store base (s.host.bytes (s.hostBase f + 2 ^ 46) size) }

/-- R435. -/
def execMigRestore (f : Nat) (s : State) : Res := .next (s.migRestore (f % 8))

/-- The image in the save area: one that was laid out or received here, whatever device wrote it, while its bytes stand there (R15, R410); else
what the bytes hold. -/
def State.imageIn (s : State) (f : Nat) : Option Image :=
  let (base, size) := s.saveArea f
  let bs := s.mem.bytes base size
  match s.images.find? fun img => (layoutBytes img).isPrefixOf bs with
  | some img => some img
  | none => layoutOf bs

/-- Renumbers a group that an image names: it lives on this device now. -/
def GroupRef.move (s : State) (off : Nat) (g : GroupRef) : GroupRef := { g with dev := s.phys, bid := g.bid + off }

/-- Renumbers an arrival of an image. -/
def Arriver.move (off : Nat) (a : Arriver) : Arriver := { a with bid := a.bid + off, before := a.before + off }

/-- What a thread of an image waits for: a yield is over, and numbers move. -/
def Wait.move (off : Nat) (w : Wait) : Wait :=
  match w with
  | .yielding _ => .none
  | .released l => .released (l.map (Arriver.move off))
  | .spawned a _ => .spawned (a.move off) 0
  | .fence n q d => .fence (n + off) q d
  | w => w

/-- Renumbers a request of an image. -/
def NonPosted.move (off f : Nat) (p : NonPosted) : NonPosted :=
  { p with id := p.id + off, tok := p.tok + off, bid := if p.bid = 0 then 0 else p.bid + off, f, done := p.done.map fun l => l + off }

/-- Renumbers a saved block of an image (R410). -/
def SavedBlock.move (x : SavedBlock) (off f : Nat) : SavedBlock :=
  { x with
    block := { x.block with
      bid := x.block.bid + off, lid := x.block.lid + off, mate := x.block.mate + off, saveAt := none, arrivers := x.block.arrivers.map fun e => (e.1, e.2.move off) },
    threads := x.threads.map (fun (t : Thread) => { t with bid := t.bid + off, wait := t.wait.move off, gate := t.gate.map fun n => n + off }),
    groups := x.groups.map (fun (g : Group) => { g with
      bid := g.bid + off, losing := g.losing.map fun (u : Unlocking) => { u with before := u.before + off } }),
    claims := x.claims.map (fun e => (e.1, match e.2 with
      | .claimed b g => SlotSt.claimed (b + off) g
      | k => k)),
    pools := x.pools.map (fun e => (e.1, { e.2 with bid := e.2.bid + off, before := e.2.before.map (Arriver.move off) })),
    segs := x.segs.map (fun e => (e.1, { e.2 with lid := e.2.lid + off })),
    copies := x.copies.map (fun (c : CopyCmd) => { c with
      id := c.id + off, tok := c.tok + off, bid := c.bid + off, before := c.before.map (fun n => n + off),
      owed := c.owed.map fun o => (o.1 + off, o.2) }),
    nps := x.nps.map (NonPosted.move off f) }

/-- Applies an image to a function (R410). Numbers of launches, blocks and accesses move beyond this device's own. -/
def State.applyImage (s : State) (f : Nat) (img : Image) : State :=
  let off := s.nextId
  let re (n : Nat) (t : Tab Word) (set : State → Nat → Word → State) (s : State) : State :=
    t.foldl (fun s e => if e.1 < n then set s e.1 e.2 else s) s
  let s := section1.foldl (fun s o => s.setBar f o (Tab.get barReset img.bar0 o)) s
  let s := re 16 img.regs (fun s r v => s.setSys (fReg 0x0400 f r) v) s
  let s := re 64 img.vdn (fun s v x => s.setSys (0x1000 + 0x40 * f + v) x) s
  let own := (s.vdne f img.ownVdn)
  let s := s.setSys (0x1000 + 0x40 * f + img.ownVdn % 64)
    (BitVec.ofNat 32 (setBits (setBits (setBits (setBits own 21 16 s.phys) 5 2 f) 15 8 (bits own 15 8 + 1)) 1 0 1))
  let back (t : Target) : Target := match t with
    | .loc ipa => (match s.stage2 f ipa with
      | some { tgt := .loc pa, .. } => .loc pa
      | _ => .loc ipa)
    | t => t
  let key (n : Nat) : Nat → Nat := fun k => n * f + k % n
  let win (w : Window) : Window := { w.shift fun d => d + s.clk with
    closer := w.closer.map (fun (c : Closer) => { c with key := { c.key with bid := c.key.bid + off }, lid := c.lid + off, before := c.before + off }),
    copies := w.copies.map fun (r : CopyRec) => { r with cmd := r.cmd + off, env := { r.env with f, bid := r.env.bid + off, tag := (s.handle? r.handle).elim 0 fun k => k.tag } } }
  let locks := img.locks.filterMap fun (e : LockEntry) => match s.stage2 f (128 * e.line) with
    | some { tgt := .loc pa, .. } => some { e with
        line := lineOf pa, f,
        holder := if e.hvdn.isSome then e.holder else e.holder.map (GroupRef.move s off),
        since := if e.hvdn.isSome then e.since.map fun _ => s.clk else none,
        waiters := e.waiters.map fun (w : Waiter) => { w with
          deadline := w.deadline.map fun d => d + s.clk,
          who := if w.vdn.isSome then w.who else GroupRef.move s off w.who, absent := w.absent || w.vdn.isNone } }
    | _ => none
  let s := { s with
    nextId := off + img.bound + 1,
    lockLog := Tab.set (fun _ => []) s.lockLog f img.log,
    windows := img.windows.foldl (fun t (e : Nat × Window) => Tab.set (fun _ => Window.reset) t (key 32 e.1) (win e.2)) s.windows,
    epochs := s.epochs ++ img.epochs.map (fun (e : Nat × EpochRec) => (key 2048 e.1, e.2)),
    seqs := img.seqs.foldl (fun t (e : Nat × Nat) => Tab.set (fun _ => 0) t (key 64 e.1) e.2) s.seqs,
    dups := img.dups.foldl (fun t (e : Nat × DupFilter) => Tab.set (fun _ => { high := 0, marks := [] }) t (key 64 e.1) e.2) s.dups,
    locks := s.locks ++ locks,
    launches := s.launches ++ img.launches.map (fun (l : Launch) => { l with
      lid := l.lid + off, order := l.order + off, slot := none, cores := [], f, tag := s.tagOf l.record, waiting := l.waiting.map (fun (w : WaitingBlock) => { w with saved := w.saved.map (fun b => b + off) }) }),
    parked := s.parked ++ img.parked.map (fun (p : Parked) => { p with f }),
    saved := s.saved ++ img.blocks.map (fun (x : SavedBlock) => (x.move off f).retarget back),
    nps := s.nps ++ img.frees.map (fun (p : NonPosted) => { p.move off f with deadline := p.deadline + s.clk }),
    wants := s.wants ++ img.wants.map fun (w : Want) => { w with f, done := w.done.map fun l => l + off } }
  -- an arrival is placed at the port of its source's device; one that finds no entry is dropped
  let s := img.arrivals.foldl (fun s (a : Arrival) =>
    let port := Config.receivePort s.phys (vdnPhys (s.vdne f a.key.svdn))
    (s.enter { a.shift (fun d => d + s.clk) with key := { a.key with f }, port }).getD s) s
  s.setVf f 5 0 0

/-- Whether the key handle of a launch is installed (R410). -/
def State.keyStands (s : State) (r : Record) : Bool := r.key == 0 || (s.handle? r.handle).isSome

/-- MCTL LOAD (R410). -/
def State.migLoad (s : State) (f : Nat) : State :=
  if s.migState f ≠ 9 then s.migStatus f 1
  else match s.imageIn f with
    | none => s.migStatus f 4
    | some img =>
      if img.major ≠ 1 then s.migStatus f 3
      else if !(img.launches.all fun l => s.keyStands l.record) then s.migStatus f 5
      else if img.launches.any fun l => !l.record.isCopy && s.tooLarge f l.record then s.migStatus f 2
      else ((s.applyImage f img).setMig f 10 0 (s.swDone f)).unhold f

/-- R410. -/
def execMigLoad (f : Nat) (s : State) : Res := .next (s.migLoad (f % 8))

/-! The VDN switch (R411). -/

/-- MCTL SWITCH: a control frame to every device of the pod. -/
def State.migSwitch (s : State) (f : Nat) : State :=
  if s.migState f ≠ 9 && s.migState f ≠ 10 then s.migStatus f 1
  else
    let body : Body := .switch (s.pdev f) (s.pfunc f) s.phys f (s.mtag f)
    let s := (List.range 64).foldl (fun s d => s.ctrlTo f d f body) s
    (s.updSession f fun x => { x with switched := true, acks := [] }).migStatus f 0

/-- The source's own switch frame commits its session, in FINAL as in SENT: what the last pass has still to copy goes on (R404, R411). Held host-port writes
end with completer abort, and the Oxbow window runs (R407, R412). -/
def State.commit (s : State) (f dstDev dstFun mtag : Nat) : State :=
  let m := s.migState f
  let x := s.session f
  if !(m == 4 || (m == 3 && x.image.isNone)) || s.ckEn f || mtag ≠ s.mtag f || dstDev ≠ s.pdev f || dstFun ≠ s.pfunc f then s
  else
    let s := x.held.foldl (fun s w => s.send (.hostDropped w.1)) s
    let s := if m = 3 then s.setVf f 6 0 0 else s
    (s.setMig f 5 0 false).updSession f fun x => { x with
      oxEnd := some (s.clk + us (bits (s.mreg f 2) 9 0)), held := [], finishing := m == 3 }

/-- A switch frame at a device: matching redirecting entries are retargeted, the frame is acknowledged, and the source commits. -/
def State.switchFrame (s : State) (srcDev srcFun dstDev dstFun mtag : Nat) : State :=
  let s := (List.range 9).foldl (fun s f => (List.range 64).foldl (fun s v =>
    let e := s.vdne f v
    if e % 4 = 2 && vdnPhys e = srcDev && vdnFunc e = srcFun && bits e 31 24 = mtag then
      s.setSys (0x1000 + 0x40 * f + v) (BitVec.ofNat 32
        (setBits (setBits (setBits (setBits e 21 16 dstDev) 5 2 dstFun) 15 8 (bits e 15 8 + 1)) 1 0 1))
    else s) s) s
  let s := if srcDev = s.phys then s.commit srcFun dstDev dstFun mtag else s
  s.ctrlTo srcFun dstDev dstFun (.switchAck dstFun)

/-- An acknowledgement: SWDONE once every device has acknowledged. -/
def State.switchAck (s : State) (f dev : Nat) : State :=
  let x := s.session f
  if !x.switched || x.acks.contains dev then s
  else
    let s := s.setSession f { x with acks := dev :: x.acks }
    if x.acks.length + 1 = 64 then s.setMig f (s.migState f) (bits (s.mreg f 4) 23 20) true else s

/-- R411. -/
def execMigSwitch (f : Nat) (s : State) : Res := .next (s.migSwitch (f % 8))
/-- R411. -/
def execVdnSwitchFrame (srcDev srcFun dstDev dstFun mtag : Nat) (s : State) : Res :=
  .next (s.switchFrame srcDev (srcFun % 8) dstDev dstFun mtag)
/-- R411. -/
def execVdnSwitchAck (f dev : Nat) (s : State) : Res := .next (s.switchAck (f % 8) dev)

/-- A write to VDNE (R411). -/
def State.vdneSet (s : State) (f v x : Nat) : State :=
  if 8 < bits x 5 2 then s
  else
    let x := if x % 4 = 3 then setBits x 1 0 0 else x
    s.setSys (0x1000 + 0x40 * f + v) (BitVec.ofNat 32 x &&& 0xFF3FFF3F)

/-- R411. -/
def execVdneWrite (f v : Nat) (x : Word) (s : State) : Res := .next (s.vdneSet (f % 9) (v % 64) x.toNat)

/-! Oxbow (R412). -/

/-- Room for one more packet in a device's inbound buffer of 8 MiB (R412). -/
def State.inbufRoom (s : State) : Bool :=
  ((List.range 8).map fun f => ((s.session f).inbuf.map fun p => 32 * flitsOf p.body).sum).sum + 192 ≤ 8 * 2 ^ 20

/-- The inbound buffer takes a packet; one that finds it full is dropped and counted (R412). -/
def State.hold (s : State) (f : Nat) (p : Packet) : State :=
  if s.inbufRoom then s.updSession f fun x => { x with inbuf := x.inbuf ++ [p] } else s.noEntry f

/-- What Oxbow makes of a packet for a frozen function: sent on, held at a checkpoint, or dropped after the window (R412, R435). -/
def State.oxbow (s : State) (p : Packet) : State :=
  let f := p.dstFun % 8
  let x := s.session f
  if x.forwarding then
    s.emit { p with dstDev := s.pdev f, dstFun := s.pfunc f, srcFun := f }
  else if x.frozen.isSome && s.ckEn f then s.hold f p
  else s

/-- R412. -/
def execOxbowForward (p : Packet) (s : State) : Res := .next (s.oxbow p)

/-- R412: OXWIN µs after COMMITTED. -/
def execOxbowWindowExpiry (f : Nat) (s : State) : Res :=
  let x := s.session f
  .next (match x.oxEnd with
    | some c => if c ≤ s.clk then s.setSession f { x with forwarding := false, oxEnd := none } else s
    | none => s)

end Sys2Proof.Machine
end

