-- ==== Sys2Proof/Machine/Sync.lean ====
section
/-! DEFINITION. Fences, barrier registers, hierarchy barriers, and the line-lock instructions at their issue (R153 to R169). -/

namespace Sys2Proof.Machine

/-- R153, R154. An acquire or full fence holds the thread behind it; a release fence gates later stores. An acquire of `.quad`
or wider drops the core's leases once its condition holds (R240). -/
def execFence (g : BitVec 3) (k : BitVec 2) (sc : BitVec 3) (s : State) : Res :=
  s.inTurn (.fence g k sc) fun _ s t =>
    if k = 2 then .ok (s.updThread t.key fun t => { t.next 4 with gate := some s.nextId })
    else
      let drop := decide (3 ≤ sc.toNat)
      if s.fenceMet t s.nextId (k = 0) then
        let s := if drop then s.dropLeases (s.envOf t.bid).core else s
        .ok (s.updThread t.key fun t => t.next 4)
      else .ok (s.updThread t.key fun t => { t.next 4 with wait := .fence s.nextId (k = 0) drop })

/-- An instruction on barrier register `n`: naming one that the block may not is ACCESS_DENIED (R163). -/
def State.onBar (s : State) (i : Instr) (n : Nat) (f : Nat → State → Thread → Block → TRes) : Res :=
  s.inTurn i fun tok s t =>
    if s.nbar t.bid ≤ n then .trap (plainTrap .accessDenied) 0
    else match s.block? t.bid with
      | some b => f tok s t b
      | none => .held

/-- R165. -/
def execBarInit (g : BitVec 3) (b : BitVec 5) (a : BitVec 7) (s : State) : Res :=
  s.onBar (.barInit g b a) b.toNat fun _ s t _ =>
    .ok ((s.barEv t.bid b.toNat (.init t.lane (t.reg a.toNat % 4096))).updThread t.key fun t => t.next 4)

/-- R165. -/
def execBarExpect (g : BitVec 3) (b : BitVec 5) (a : BitVec 7) (s : State) : Res :=
  s.onBar (.barExpect g b a) b.toNat fun _ s t _ =>
    .ok ((s.barEv t.bid b.toNat (.expect (t.reg a.toNat))).updThread t.key fun t => t.next 4)

/-- R165: the token is the phase arrived in. -/
def execBarArrive (g : BitVec 3) (d : BitVec 7) (b : BitVec 5) (s : State) : Res :=
  s.onBar (.barArrive g d b) b.toNat fun _ s t k =>
    .ok ((s.arrive t b.toNat).updThread t.key fun t => (t.setReg d.toNat (ofBool (k.bar b.toNat).ph)).next 4)

/-- A thread that begins to wait with a token: it is released at once where the phase differs (R167), behind what the arrivals
released (R256). -/
def State.waitBar (s : State) (t : Thread) (b : Block) (n : Nat) (tok : Bool) : State :=
  let w : Wait := if (b.bar n).ph != tok then .released (s.arrivedAt b n) else .bar n
  s.updThread t.key fun t => { t with wait := w }

/-- A thread that stands at a hierarchy barrier begins to wait (R167, R169). -/
def State.waitHbar (s : State) (t : Thread) (h : HBar) (tok : Bool) : State :=
  let w : Wait := if h.phase != tok then .released (s.still h.before) else .hbar h.level h.inst h.idx
  s.updThread t.key fun t => { t with wait := w }

/-- R165, R167: a released thread goes on; one whose token differs from the phase is released as it begins to wait, and stays until what
the arrivals released is performed (R256). -/
def execBarWait (g : BitVec 3) (b : BitVec 5) (a : BitVec 7) (s : State) : Res :=
  s.onBar (.barWait g b a) b.toNat fun _ s t k =>
    if t.isReleased || (s.arrivedAt k b.toNat).isEmpty then .ok (s.updThread t.key fun t => t.next 4)
    else .ok (s.waitBar t k b.toNat (bit (t.reg a.toNat) 0))

/-- R165: arrives and waits. An arrival that a deferred trap interrupted does not count again (log entry 12). -/
def execBarSync (g : BitVec 3) (b : BitVec 5) (s : State) : Res :=
  s.onBar (.barSync g b) b.toNat fun _ s t k =>
    let ph := (k.bar b.toNat).ph
    if t.isReleased then .ok (s.updThread t.key fun t => { t.next 4 with syncTok := none })
    else match t.syncTok.filter fun x => x.1 == b.toNat with
      | some (_, tok) =>
        .ok (s.waitBar t k b.toNat tok)
      | none =>
        .ok ((s.arrive t b.toNat).updThread t.key
          fun t => { t with wait := .bar b.toNat, age := 0, syncTok := some (b.toNat, ph) })

/-- R165. -/
def execBarTest (g : BitVec 3) (p : BitVec 3) (b : BitVec 5) (s : State) : Res :=
  s.onBar (.barTest g p b) b.toNat fun _ s t k =>
    .ok (s.updThread t.key fun t => (t.setPred p.toNat (k.bar b.toNat).ph).next 4)

/-- An instruction on a hierarchy barrier: a level or index that the launch is not granted is ACCESS_DENIED (R168, R224). -/
def State.onHbar (s : State) (i : Instr) (level idx : Nat) (f : State → Thread → Block → Launch → HBar → TRes) : Res :=
  s.inTurn i fun _ s t =>
    match s.block? t.bid with
    | none => .held
    | some b => match s.launch? b.lid with
      | none => .held
      | some l =>
        if l.granted level ≤ idx then .trap (plainTrap .accessDenied) 0
        else match l.hbarOf level idx b.blk with
          | some h => f s t b l h
          | none => .held

/-- R169: a block arrives once a phase; a further arrival is not ready until the phase completes. -/
def execHbarArrive (g : BitVec 3) (d : BitVec 7) (lv : BitVec 3) (n : BitVec 4) (s : State) : Res :=
  s.onHbar (.hbarArrive g d lv n) lv.toNat n.toNat fun s t b l h =>
    -- a pod barrier's arrivals go out by fabric control frames, which need an own VDN (R169, R298)
    if lv = 6 && (s.ownVdn l.f).isNone then .trap (plainTrap .vdnInvalid) 0
    else if h.arrived.contains b.blk then .held
    else
      let add (x : HBar) : HBar := { x with arrived := x.arrived ++ [b.blk], before := (s.arriver t).addTo x.before }
      let s := s.updLaunch l.lid fun l => { l with hbars := updFirst (fun x => x.is h.level h.inst h.idx) add l.hbars }
      let s := s.updThread t.key fun t => (t.setReg d.toNat (ofBool h.phase)).next 4
      .ok (s.hbarSettle l.lid)

/-- R169: released as R167 has it; the acquire is at the level, which is `.quad` or wider (R240). -/
def execHbarWait (g : BitVec 3) (d : BitVec 7) (lv : BitVec 3) (n : BitVec 4) (s : State) : Res :=
  s.onHbar (.hbarWait g d lv n) lv.toNat n.toNat fun s t b _ h =>
    if t.isReleased || (s.still h.before).isEmpty then .ok ((s.dropLeases b.core).updThread t.key fun t => t.next 4)
    else .ok (s.waitHbar t h (bit (t.reg d.toNat) 0))

/-! Line locks (R155 to R160). -/

/-- Each participant's trap of alignment, and of divergence, which every other participant receives (R157). -/
def lockTraps (part : List Thread) (a : Nat) : List (ThreadKey × TrapInfo) :=
  let ea0 := (part.map fun t => t.addr a).headD 0
  let split := part.any fun t => t.addr a != ea0
  part.filterMap fun t =>
    let ea := t.addr a
    if ea.toNat % 128 ≠ 0 then some (t.key, addrTrapAt .misaligned ea)
    else if split then some (t.key, addrTrapAt .lockDivergent ea)
    else none
where
  /-- A trap with the participant's own address. -/
  addrTrapAt (c : Cause) (ea : VAddr) : TrapInfo := { cause := c, addr := ea, aux := 0 }

/-- Every participant receives one trap. -/
def allTrap (part : List Thread) (x : TrapInfo) : GRes := .trap (part.map fun t => (t.key, x))

/-- `llock` and `ltry` at their issue (R157 to R159): the request leaves for the line's home. At `llock` the group sleeps (R158, log
entry 46); at `ltry` its participants wait for the answer, and the others go on (R81). -/
def State.askLock (s : State) (tok bid grp : Nat) (part : List Thread) (a pred cls : Nat) (tri : Bool) : GRes :=
  match part, s.group? bid grp with
  | t0 :: _, some g =>
    let ea := t0.addr a
    let traps := lockTraps part a
    if !traps.isEmpty then .trap traps
    else match s.resolve (s.envOf bid) .lock ea 128 with
      | .error x => allTrap part x
      | .ok tgt =>
        if 4 ≤ g.held.length then allTrap part { cause := .lockLimit, addr := ea, aux := 0 }
        else if g.held.any fun h => ea.toNat ≤ h.va.toNat then allTrap part { cause := .lockOrder, addr := ea, aux := 0 }
        else
          let r : LockReq := { id := tok, va := ea, tgt, tri, cls, pred, queued := false, members := part.map fun t => t.tid }
          let s := (s.standAt bid grp t0.pc .lock fun t => !tri || part.any fun u => u.key == t.key).updGroup bid grp fun g => { g with req := some r }
          match tgt with
          | .peer v ipa =>
            let me := s.peerRef bid grp
            let blk := (s.block? bid).elim 0 fun b => b.blk
            let op := if tri then PeerOp.ltry me blk ea else .llock me cls blk ea
            (match s.requestFor t0 tok v ipa ea op [] 0 none true with
            | some s => .ok s
            | none => .held)
          | _ => .ok s
  | _, _ => .held

/-- R157, R158. -/
def execLlock (g : BitVec 3) (d : BitVec 3) (a : BitVec 7) (c : BitVec 2) (s : State) : Res :=
  s.together (.llock g d a c) fun tok s bid grp part => s.askLock tok bid grp part a.toNat d.toNat c.toNat false

/-- R159. -/
def execLtry (g : BitVec 3) (d : BitVec 3) (a : BitVec 7) (s : State) : Res :=
  s.together (.ltry g d a) fun tok s bid grp part => s.askLock tok bid grp part a.toNat d.toNat 0 true

/-- R160: the checks, with steps 2 to 5 of R139 before LOCK_NOT_HELD (log entry 78); the release itself follows the accesses that
precede it, and its participants wait for it. -/
def execLunlock (g : BitVec 3) (a : BitVec 7) (s : State) : Res :=
  s.together (.lunlock g a) fun _ s bid grp part =>
    match part, s.group? bid grp with
    | t0 :: _, some gr =>
      let ea := t0.addr a.toNat
      let traps := lockTraps part a.toNat
      if !traps.isEmpty then .trap traps
      else match s.resolve (s.envOf bid) .lock ea 128, gr.held.find? fun h => h.va == ea with
        | .error x, _ => allTrap part x
        | .ok _, none => allTrap part { cause := .lockNotHeld, addr := ea, aux := 0 }
        | .ok _, some h =>
          .ok ((s.standAt bid grp t0.pc .unlock fun t => part.any fun u => u.key == t.key).updGroup bid grp fun x =>
            { x with unlocking := some { va := ea, tgt := h.tgt, before := s.nextId, sent := false } })
    | _, _ => .held

end Sys2Proof.Machine
end

