-- ==== Sys2Proof/Machine/System.lean ====
section
/-! DEFINITION. System registers as `srd` and `swr` see them, the BAR 0 registers, the trap instructions, cache control, meters
and counters, the lock log, and the redundancy instructions (R202 to R208, R241, R286, R287, R308, R309, R337, R357, R358, R361,
R363, R366, R378, R387, R391, R400, R411, R416, R419, R422, R423, R431, R432, R434, R438, R439). -/

namespace Sys2Proof.Machine

/-! The register map. -/

/-- Whether a number lies in a block of 16 numbers for each of `n` functions, at a register below `k`. -/
def inBlock (num base n k : Nat) : Bool := base ≤ num && num < base + 16 * n && num % 16 < k

/-- Whether a number names a register open to the supervisor (R206). -/
def sysOpen (num : Nat) : Bool :=
  num == 0x0210 || inBlock num 0x0400 9 5 || num == 0x0500 || num == 0x0501 || inBlock num 0x0600 9 3 ||
  (0x0690 ≤ num && num ≤ 0x0693) || num == 0x06A0 || num == 0x06A1 || (0x06B0 ≤ num && num ≤ 0x06B2) ||
  inBlock num 0x0700 9 3 || (0x0800 ≤ num && num ≤ 0x0806) || inBlock num 0x0900 8 4 || num == 0x0982 || num == 0x0983 ||
  inBlock num 0x0A00 8 8 || (0x0C00 ≤ num && num ≤ 0x0C03) || num == 0x0C08 || num == 0x0C09 ||
  (0x0C10 ≤ num && num ≤ 0x0C18) || inBlock num 0x0D00 9 2 || (0x0DA0 ≤ num && num ≤ 0x0DA4) ||
  (0x1000 ≤ num && num < 0x1000 + 0x40 * 9)

/-- Reads a register (R206), from a die and for a partition; `none` for a number that is not open. -/
def State.sread (s : State) (num die part : Nat) : Option Word :=
  if !sysOpen num then none
  else if num = 0x0210 then some (s.sys (unitKey num die))
  else if num = 0x0500 || num = 0x0501 then some (s.sys (unitKey num part))
  else if inBlock num 0x0900 8 4 && num % 16 = 0 then some 0
  else if inBlock num 0x0900 8 4 && num % 16 = 1 then
    some (BitVec.ofNat 32 (setBits (s.sys num).toNat 14 8 (s.busyQ (num % 256 / 16))))
  else if inBlock num 0x0A00 8 8 && num % 16 = 5 then some (BitVec.ofNat 32 (min (2 ^ 32 - 1) (s.backlog (num % 256 / 16))))
  else some (s.sys num)

/-- Pauses a die's constant class and empties its cache (R242). -/
def State.flushConst (s : State) (die : Nat) : State := s.setDie die { s.die die with pause := true, constLines := [] }

/-- LEASECFG (R241): a zero field is ignored, a lowered one invalidates first. -/
def State.setLease (s : State) (die v : Nat) : State :=
  let old := (s.sys (unitKey 0x0210 die)).toNat
  let lc := if bits v 27 16 = 0 then bits old 27 16 else bits v 27 16
  let ls := if bits v 15 0 = 0 then bits old 15 0 else bits v 15 0
  let s := if ls < bits old 15 0 then
      { s with l1 := s.l1.filter fun (l : L1Line) => !(l.st == .leased && dieOf l.core == die) } else s
  let s := if lc < bits old 27 16 then s.flushConst die else s
  s.setSys (unitKey 0x0210 die) (BitVec.ofNat 32 (lc * 65536 + ls))

/-- Sum over the nine functions of a field of a register, with function `f`'s value replaced. -/
def State.sumField (s : State) (base r f v : Nat) (g : Nat → Nat) : Nat :=
  ((List.range 9).map fun h => g (if h = f then v else (s.sys (fReg base h r)).toNat)).sum

/-- LKTMOA, LKTMOB, LKLIM and FWCFG (R286, R287, R308). -/
def State.setTarn (s : State) (num f v : Nat) : State :=
  match num % 16 with
  | 0 | 1 => s.setSys num (BitVec.ofNat 32 v)
  | 2 =>
    let hold := if bits v 15 0 = 0 then bits (s.sys num).toNat 15 0 else bits v 15 0
    s.setSys num (BitVec.ofNat 32 (min 4096 (bits v 28 16) * 65536 + hold))
  | 3 =>
    let t := bits v 8 0
    if t < 4 || 256 < t || 32 < bits v 21 16 || 4096 < s.sumField 0x0400 3 f v (fun x => 64 * bits x 21 16) then s
    else s.setSys num (BitVec.ofNat 32 (bits v 21 16 * 65536 + t))
  | _ => s

/-- INVB of the host's block (R361). An INVC that names no function, 9 to 15, takes the VMID that its number's register would hold (log entry 115). -/
def State.hostInvb (s : State) (v : Nat) : State :=
  let c : ShootCmd := { guest := false, f := (s.sys 0x06B2).toNat % 16,
                        addr := (s.sys 0x06B0).toNat * 4096 + bits v 23 16 * 2 ^ 44, n := bits v 28 24, asid := v % 65536 }
  s.shootWrite (bits v 30 29) (bit v 31) c

/-- A command of VFCTL (R392). -/
def State.vfCommand (s : State) (f n : Nat) : State :=
  match n with
  | 1 => s.vfEnable f | 2 => s.vfLock f | 3 => s.vfUnlock f | 4 => s.vfStart f | 5 => s.vfQuiesce f
  | 6 => s.vfResume f | 7 => s.vfSave f | 8 => s.vfDisable f | _ => s.vfStatus f 1

/-- A command of MCTL (R401, R435). -/
def State.migCommand (s : State) (f n : Nat) : State :=
  match n with
  | 1 => s.migTrack f | 2 => s.migCopy f | 3 => s.migAccept f | 4 => s.migLoad f | 5 => s.migSwitch f
  | 6 => s.migAbort f | 7 => s.migEnd f | 9 => s.migRestore f | _ => s.migStatus f 1

/-- A migration register (R400, R434). -/
def State.setMigReg (s : State) (num f v : Nat) : State :=
  let idle (x : Nat) : State := if s.migState f = 0 then s.setSys num (BitVec.ofNat 32 x) else s
  match num % 16 with
  | 0 => idle (bits v 31 12 * 4096 + v % 64)
  | 1 => idle (v % 4096)
  | 2 => idle (bits v 31 24 * 2 ^ 24 + bits v 21 12 * 4096 + max 1 (min 1000 (v % 1024)))
  | 3 => s.setSys num (BitVec.ofNat 32 (bits v 31 19 * 2 ^ 19 + v % 65536))
  | 4 => s.migCommand f (bits v 31 28)
  | 6 => idle (bits v 31 16 * 65536 + v % 2)
  | 7 => idle v
  | _ => s

/-- LNKCFG (R422). -/
def State.setLnk (s : State) (num f v : Nat) : State :=
  if num % 16 ≠ 0 then s
  else
    let w := if v % 16 = 0 then (s.sys num).toNat % 16 else v % 16
    let x := min 32 (bits v 13 8) * 256 + w
    if 2048 < s.sumField 0x0D00 0 f x (fun y => 16 * bits y 13 8) then s else s.setSys num (BitVec.ofNat 32 x)

/-- RASUE1 (R432): VALID is cleared by writing 1. -/
def State.clearRasue (s : State) (v : Nat) : State :=
  if bit v 31 then s.setSys 0x0C09 (s.sys 0x0C09 &&& 0x7FFFFFFF) else s

/-- Writes a register from a die and for a partition (R206); a write that the map rejects has no effect. -/
def State.swrite (s : State) (num : Nat) (v : Word) (die part : Nat) : State :=
  let x := v.toNat
  let f := num % 256 / 16
  let put (m : Nat) : State := s.setSys num (BitVec.ofNat 32 m)
  if !sysOpen num then s
  else if num = 0x0210 then s.setLease die x
  else if inBlock num 0x0400 9 5 then s.setTarn num f x
  else if num = 0x0500 then (if x % 65536 = 0 then s else s.setSys (unitKey num part) (BitVec.ofNat 32 (x % 65536)))
  else if num = 0x0501 then s.setSys (unitKey num part) (BitVec.ofNat 32 (x % 65536))
  else if (lockedFunc num).isSome then s.lockedWrite num v
  else if 0x0690 ≤ num && num ≤ 0x0692 then put x
  else if num = 0x0693 then s.moveCommand x
  else if num = 0x06A0 then put x
  else if num = 0x06A1 then s.ownerCommand x
  else if num = 0x06B0 then put x
  else if num = 0x06B1 then s.hostInvb x
  else if num = 0x06B2 then put (x % 16)
  else if num = 0x0800 then s.playoutSet x
  else if 0x0801 ≤ num && num ≤ 0x0804 then s.milvSet (num - 0x0801) x
  else if num = 0x0805 then s.nbndSet x
  else if inBlock num 0x0900 8 1 then s.vfCommand f (x % 16)
  else if inBlock num 0x0A00 8 8 then s.setMigReg num f x
  else if 0x0C00 ≤ num && num ≤ 0x0C03 then put 0
  else if num = 0x0C09 then s.clearRasue x
  else if 0x0C10 ≤ num && num ≤ 0x0C18 then put (x % 65536)
  else if inBlock num 0x0D00 9 2 then s.setLnk num f x
  else if 0x1000 ≤ num then s.vdneSet ((num - 0x1000) / 0x40) (num % 0x40) x
  else s

/-- QCTL (R337): LOG2N while EN is 0, then EN, then ABORT. -/
def State.setQctl (s : State) (f q v : Nat) : State :=
  let s := s.sizeQueue f q (bits v 28 24)
  let s := if bit v 31 then s.enableQueue f q else s.disableQueue f q
  if bit v 30 then s.abortQueue f q else s

/-- A write to a BAR 0 register of a function (R337, R357, R358, R361). The physical function's driver reaches the system registers
from 0x8000 up. -/
def State.barWrite (s : State) (f o : Nat) (v : Word) (die part : Nat) : State :=
  let x := v.toNat
  let put (m : Nat) : State := s.setBar f o (BitVec.ofNat 32 m)
  if o % 4 ≠ 0 || 8 < f then s
  else if 0x1000 ≤ o && o < 0x1800 then
    let q := (o - 0x1000) / 32
    match o % 32 with
    | 0 | 0x18 => put (x / 4096 * 4096)
    | 4 | 0x1C => put x
    | 8 => s.setQctl f q x
    | _ => s
  else if 0x2000 ≤ o && o < 0x2400 then
    match o % 16 with
    | 0 => put (x / 65536 * 65536 + x % 2)
    | 4 => put (x % 2 ^ 14)
    | 8 => put (x % 65536)
    | _ => s
  else if o = 0x2400 then put x
  else if o = 0x2404 then
    s.shootWrite (bits x 30 29) (bit x 31)
      { guest := true, f, addr := (s.bar f 0x2400).toNat * 4096 + bits x 23 16 * 2 ^ 44, n := bits x 28 24, asid := x % 65536 }
  else if f = 8 && 0x8000 ≤ o then s.swrite ((o - 0x8000) / 4) v die part
  else s

/-- The management core makes a launch its firmware's, or not (log entry 17). -/
def State.markFirmware (s : State) (lid : Nat) (on : Bool) : State := s.updLaunch lid fun l => { l with mgmt := on }

/-- R206 and the map's chapters: a number below 0x100000 names a system register; above, register `offset` of function f's
BAR 0 has number 0x100000 + 0x10000 · f + offset (log entry 21), of which a device in recovery presents those of the physical function alone (R441);
and 0x200000 and more name a launch (log entry 17). -/
def execSysregWrite (num : Nat) (v : Word) (die part : Nat) (s : State) : Res :=
  let f := (num - 0x100000) / 0x10000
  .next (if num < 0x100000 then s.swrite num v (die % 4) (part % 4)
    else if 0x200000 ≤ num then s.markFirmware (num - 0x200000) (v.getLsbD 0)
    else if s.recovery && f < 8 then s
    else s.barWrite ((num - 0x100000) / 0x10000) (num % 0x10000) v (die % 4) (part % 4))

/-- R241. -/
def execLeasecfgWrite (die : Nat) (v : Word) (s : State) : Res := .next (s.setLease (die % 4) v.toNat)

/-- R431. -/
def execRasceClear (die : Nat) (s : State) : Res := .next (s.setSys (0x0C00 + die % 4) 0)

/-- R432. -/
def execRasueClear (v : Word) (s : State) : Res := .next (s.clearRasue v.toNat)

/-! The instructions. -/

/-- The die and partition of a block. -/
def State.placeOf (s : State) (bid : Nat) : Nat × Nat :=
  let die := dieOf (s.envOf bid).core
  (die, s.dieId die)

/-- R206. -/
def execSrd (g : BitVec 3) (d a : BitVec 7) (s : State) : Res :=
  s.inTurn (.srd g d a) fun _ s t =>
    let (die, part) := s.placeOf t.bid
    match s.sread (t.reg a.toNat) die part with
    | some v => .ok (s.updThread t.key fun t => (t.setReg d.toNat v.toNat).next 4)
    | none => .trap (plainTrap .accessDenied) 0

/-- R206. -/
def execSwr (g : BitVec 3) (d a : BitVec 7) (s : State) : Res :=
  s.inTurn (.swr g d a) fun _ s t =>
    let (die, part) := s.placeOf t.bid
    if !sysOpen (t.reg d.toNat) then .trap (plainTrap .accessDenied) 0
    else
      let s := s.updThread t.key fun t => t.next 4
      .ok (s.swrite (t.reg d.toNat) (BitVec.ofNat 32 (t.reg a.toNat)) die part)

/-- The word of a trap frame that a selector names (R205). -/
def TrapFrame.word (f : TrapFrame) (sel : Nat) : Nat :=
  match sel with
  | 0 => f.cause
  | 1 => f.pc.toNat % 2 ^ 32
  | 2 => f.pc.toNat / 2 ^ 32
  | 3 => f.addr.toNat % 2 ^ 32
  | 4 => f.addr.toNat / 2 ^ 32
  | _ => f.aux.toNat

/-- R205. -/
def execTrd (g : BitVec 3) (d : BitVec 7) (sel : BitVec 3) (s : State) : Res :=
  s.inTurn (.trd g d sel) fun _ s t => .ok (s.updThread t.key fun t => (t.setReg d.toNat (t.frame.word sel.toNat)).next 4)

/-- R205: to the saved resume address. -/
def execTret (g : BitVec 3) (s : State) : Res :=
  s.eachTrap (.tret g) fun t => .ok ((t.goto t.frame.resume).tret t.frame.resume)

/-- R205: to the address in a pair, checked as `jmp` checks it. -/
def execTretAddr (g : BitVec 3) (a : BitVec 7) (s : State) : Res :=
  s.eachTrap (.tretAddr g a) fun t => s.indirect t (t.tret t.pc) (t.addr a.toNat)

/-- R207: past the fence's condition (`Machine/Stall.lean`). -/
def execCinvL1 (g : BitVec 3) (s : State) : Res :=
  s.inTurn (.cinvL1 g) fun _ s t => .ok ((s.flushL1 (s.envOf t.bid).core).updThread t.key fun t => t.next 4)

/-- R207: the thread is not ready until the pause ends (R242). -/
def execCinvC (g : BitVec 3) (s : State) : Res :=
  s.inTurn (.cinvC g) fun _ s t =>
    let core := (s.envOf t.bid).core
    .ok (((s.dropLeases core).flushConst (dieOf core)).updThread t.key fun t => { t.next 4 with wait := .pause })

/-- Writes back the dirty Mere lines of one page between two addresses (R207). -/
def State.cleanPage (s : State) (e : Env) (ea : VAddr) (n : Nat) (page : VAddr) : State :=
  match s.resolve e .ld page 1 with
  | .ok (.loc pa) =>
    let p := pa / 4096 * 4096
    let v := page.toNat / 4096 * 4096
    let first := ea.toNat / 128 * 128
    let last := ea.toNat + n
    let hit (m : MereLine) : Bool :=
      m.dirty && p ≤ 128 * m.line && 128 * m.line < p + 4096 && first ≤ v + (128 * m.line - p) && v + (128 * m.line - p) < last
    (s.mere.filter hit).foldl (fun s m => s.mereClean m.line) s
  | _ => s

/-- R207. -/
def execCwbMere (g : BitVec 3) (d a : BitVec 7) (s : State) : Res :=
  s.inTurn (.cwbMere g d a) fun _ s t =>
    let e := s.envOf t.bid
    let ea := t.addr a.toNat
    let n := t.reg d.toNat
    let bad := (pagesOf ea n).findSome? fun page => match s.resolve e .ld page 1 with
      | .ok (.loc _) => none
      | .ok _ => some { cause := Cause.accessDenied, addr := page, aux := 0 }
      | .error x => some x
    match bad with
    | some x => .trap x 0
    | none =>
      let s := (pagesOf ea n).foldl (fun s page => s.cleanPage e ea n page) (s.dropLeases e.core)
      .ok (s.updThread t.key fun t => t.next 4)

/-- R208, R440. -/
def execMtrd (g : BitVec 3) (d a : BitVec 7) (s : State) : Res :=
  s.inTurn (.mtrd g d a) fun _ s t =>
    let x := t.reg a.toNat
    let m := bits x 3 0
    let o := bits x 7 4
    if x / 256 ≠ 0 || 11 ≤ m || 9 ≤ o then .trap (plainTrap .illegalOp) 0
    else
      let owner := if o = 8 then 8 + (s.placeOf t.bid).2 else o
      let v := (Tab.get (fun _ => (0 : BitVec 64)) s.meters (16 * owner + m)).toNat
      .ok (s.updThread t.key fun t => (t.setPair d.toNat v).next 4)

/-- Whether a source code is in a counter's scope (R439); 0 stops it. -/
def evScope (n code : Nat) : Bool := code == 0 || (if n < 16 then code ≤ 15 else 32 ≤ code && code ≤ 40)

/-- R208, R439. -/
def execEvcfg (g : BitVec 3) (d a : BitVec 7) (s : State) : Res :=
  s.inTurn (.evcfg g d a) fun _ s t =>
    let n := t.reg d.toNat
    let code := t.reg a.toNat
    let core := (s.envOf t.bid).core
    if 48 ≤ n || !evScope n code then .trap (plainTrap .illegalOp) 0
    else
      let s := if n < 16 then
          (let c := s.core core
          s.setCore core { c with evSrc := Tab.set (fun _ => 0) c.evSrc n code, evCnt := Tab.set (fun _ => (0 : BitVec 64)) c.evCnt n 0 })
        else
          (let c := s.die (dieOf core)
          s.setDie (dieOf core) { c with evSrc := Tab.set (fun _ => 0) c.evSrc (n - 16) code,
                                         evCnt := Tab.set (fun _ => (0 : BitVec 64)) c.evCnt (n - 16) 0 })
      .ok (s.updThread t.key fun t => t.next 4)

/-- The active functions of a partition (R438). -/
def State.active (s : State) (p : Nat) : List Nat :=
  (List.range 8).filter fun f => s.partOf f == p && (s.vfState f == 3 || s.vfState f == 4)

/-- R208, R439. -/
def execEvrd (g : BitVec 3) (d a : BitVec 7) (s : State) : Res :=
  s.inTurn (.evrd g d a) fun _ s t =>
    let n := t.reg a.toNat
    let core := (s.envOf t.bid).core
    let get (c : Tab (BitVec 64)) (k : Nat) : Nat := (Tab.get (fun _ => (0 : BitVec 64)) c k).toNat
    if 48 ≤ n then .trap (plainTrap .illegalOp) 0
    else
      let hidden := s.levelOf t.bid == .user && (s.active (s.dieId (dieOf core))).length != 1
      let v := if n < 16 then get (s.core core).evCnt n else if hidden then 0 else get (s.die (dieOf core)).evCnt (n - 16)
      .ok (s.updThread t.key fun t => (t.setPair d.toNat v).next 4)

/-- R208, R295. -/
def execLklog (g : BitVec 3) (d a : BitVec 7) (s : State) : Res :=
  s.inTurn (.lklog g d a) fun _ s t =>
    let n := t.reg a.toNat
    if 64 ≤ n then .trap (plainTrap .illegalOp) 0
    else
      let v := ((Tab.get (fun _ => []) s.lockLog (s.envOf t.bid).f).getD n 0).toNat
      .ok (s.updThread t.key fun t => (t.setAll (t.absRegs (.quad d.toNat)) v).next 4)

/-! Redundancy (R202 to R204). -/

/-- R202: in a pair, every participant of both copies is snapshotted behind the `ckpt`, by the copy that comes to it first; the
count of failures starts again (R318). -/
def execCkpt (g : BitVec 3) (s : State) : Res :=
  s.together (.ckpt g) fun _ s bid grp part =>
    match s.block? bid, part with
    | some b, t0 :: _ =>
      let twin (t : Thread) : Bool := t.bid == b.mate && t.wait == Wait.matched && t.pc == t0.pc
      if b.role == .solo || !(s.threads.any fun t => twin t && t.tid == t0.tid) then .ok s
      else
        let hit (t : Thread) : Bool := part.any fun u => u.tid == t.tid && (u.bid == t.bid || twin t)
        let s := { s with threads := s.threads.map fun (t : Thread) => if hit t then t.snap (t.pc + 4) else t }
        let taken (g : Group) : Group := { g with snapAt := s.nextId, fails := 0 }
        .ok ((s.updGroup bid grp taken).updGroup b.mate grp taken)
    | _, _ => .ok s

/-- The redundancy status word (R203). -/
def State.ckWord (s : State) (bid : Nat) : Nat :=
  match s.block? bid with
  | none => 0
  | some b =>
    let fails := ((s.groups.filter fun g => g.bid == bid).map fun g => g.fails).foldl max 0
    min 255 b.mismatches * 256 + min 3 fails * 16 + ofBool (b.role == .trail) * 2 + ofBool (b.role != .solo)

/-- R203. -/
def execCkstat (g : BitVec 3) (d : BitVec 7) (s : State) : Res :=
  s.inTurn (.ckstat g d) fun _ s t => let v := s.ckWord t.bid; .ok (s.updThread t.key fun t => (t.setReg d.toNat v).next 4)

/-- R203. -/
def execCkrole (g : BitVec 3) (d : BitVec 3) (s : State) : Res :=
  s.inTurn (.ckrole g d) fun _ s t =>
    let lead := (s.block? t.bid).all fun b => b.role != .trail
    .ok (s.updThread t.key fun t => (t.setPred d.toNat lead).next 4)

/-- R204. -/
def execKinj (g : BitVec 3) (a : BitVec 7) (s : State) : Res :=
  s.inTurn (.kinj g a) fun _ s t =>
    let x := t.reg a.toNat
    let q := bits x 5 0
    if x / 4096 ≠ 0 || 48 ≤ q then .trap (plainTrap .illegalOp) 0
    else
      let s := s.setQuad q { s.quad q with inject := if bit x 11 then some (bits x 10 6) else none }
      .ok (s.updThread t.key fun t => t.next 4)

end Sys2Proof.Machine
end

