-- ==== Sys2Proof/Machine/Cohere.lean ====
section
/-! DEFINITION. The homes' own steps, leases, the constant counter and the power states (R235 to R243, R375, R437, R438). -/

namespace Sys2Proof.Machine

/-- An access finds a correctable error in a line: it is corrected and logged (R429, R431). -/
def State.correctedLine (s : State) (pa : Nat) : State :=
  s.corrected (s.homeDie pa) (if s.mere.any fun m => m.line == lineOf pa then .mere else .hbm)

/-- A local line of a core's launch that its L1 asks for: the home downgrades an owner first (R237). `fixed`: its check bits needed a correction (R429). -/
def State.homeRead (s : State) (core pa : Nat) (ty : BitVec 2) (fixed : Bool) : State :=
  let s := if fixed && s.isLocal pa then s.correctedLine pa else s
  match (s.core core).lid.bind fun l => s.launch? l with
  | none => s
  | some l =>
    if !s.inPart (s.partOf l.f) pa || (s.owner pa != 0 && s.owner pa != l.tag) || s.blocked core false (.loc pa) then s
    else if ty.toNat = 3 then s.downgrade none (lineOf pa)
    else if (s.l1Find core (lineOf pa)).isSome then s
    else s.fill core l.f l.tag ty pa

/-- R237. -/
def execHomeReadRequest (core pa : Nat) (r : HomeRead) (s : State) : Res := .next (s.homeRead core pa r.ty r.fixed)

/-- A core writes an Owned line's dirty bytes back: the home probes the other holders, and the line stays Owned and clean (R237). -/
def State.writeBack (s : State) (core line : Nat) : State :=
  match s.l1.find? fun l => l.core == core && l.line == line && l.st == .owned with
  | none => s
  | some l =>
    if l.dirty.isEmpty then s
    else
      let s := (s.probe (some core) line).takeDirty l
      { s with l1 := s.l1.map fun (x : L1Line) => if x.core == core && x.line == line then { x with dirty := [] } else x }

/-- R237. -/
def execHomeWriteRequest (core line : Nat) (s : State) : Res := .next (s.writeBack core line)

/-- R238: every tracked line of a 512-byte region is recalled. -/
def execDirectoryEviction (region : Nat) (s : State) : Res :=
  .next (s.evictRegion (s.homeDie (512 * region)) region)

/-! Leases (R239, R243). -/

/-- R239: the clock has ticked once for every 64 cycles, except while the die sleeps. -/
def execLeaseClockTick (die : Nat) (s : State) : Res :=
  let d := s.die die
  .next (if die < 4 && d.power != .sleep && d.lease.toNat < s.clk / 64 then s.setDie die { d with lease := d.lease + 1 } else s)

/-- Whether a leased line has expired (R239). -/
def State.expired (s : State) (l : L1Line) : Bool := l.st == .leased && !leaseValid l.expiry (s.leaseNow (dieOf l.core))

/-- A core's L1 invalidates its expired leased lines (R239). -/
def State.visit (s : State) (core : Nat) : State :=
  let gone := s.l1.filter fun l => l.core == core && s.expired l
  let s1 := { s with l1 := s.l1.filter fun (l : L1Line) => !(l.core == core && s.expired l) }
  if gone.isEmpty then s1 else s1.coreEvent core 10 gone.length

/-- R239. -/
def execLeaseVisit (core : Nat) (s : State) : Res := .next (s.visit core)

/-! The constant counter (R242). -/

/-- R242: a tick every 1,024 cycles, none during a pause and none past 4,095. -/
def execConstantTick (die : Nat) (s : State) : Res :=
  let d := s.die die
  .next (if die < 4 && !d.pause && d.constNext ≤ s.clk && d.constCnt < 4095 then
    s.setDie die { d with constCnt := d.constCnt + 1, constNext := d.constNext + 1024 } else s)

/-- R242: the counter would pass 4,095. -/
def execConstantWrap (die : Nat) (s : State) : Res :=
  let d := s.die die
  .next (if die < 4 && !d.wrap && d.constNext ≤ s.clk && d.constCnt = 4095 then
    (s.setDie die { d with pause := true, wrap := true, constLines := [] }).dieEvent die 38 1 else s)

/-- The first tick of a die's constant counter after a cycle, on the beat of its ticks: those that fell in a pause are not made up (R242, log entry 65). -/
def Die.nextTick (d : Die) (clk : Nat) : Nat := if clk < d.constNext then d.constNext else d.constNext + ((clk - d.constNext) / 1024 + 1) * 1024

/-- R242: the pause ends; after a wrap the counter starts again. A thread behind its `cinv.c` goes on (R207). -/
def execConstantPauseEnd (die : Nat) (s : State) : Res :=
  let d := s.die die
  if !d.pause then .next s
  else
    let d := if d.wrap then { d with pause := false, wrap := false, constCnt := 0, constNext := s.clk + 1024 }
      else { d with pause := false, constNext := d.nextTick s.clk }
    let here (bid : Nat) : Bool := (s.block? bid).any fun b => dieOf b.core == die
    let s := s.setDie die d
    .next { s with threads := s.threads.map fun (t : Thread) => if t.wait == Wait.pause && here t.bid then { t with wait := .none } else t }

/-! Power (R243, R437, R438). -/

/-- The least latency tolerance of a partition's active functions in µs, if they set a limit (R438). -/
def State.tolerance (s : State) (p : Nat) : Option Nat :=
  ((s.active p).map fun f => (s.sys (0x0C10 + f)).toNat % 65536).foldl (fun (o : Option Nat) x =>
    if x = 0xFFFF then o else match o with
      | some y => some (min x y)
      | none => some x) none

/-- The latency tolerance that the host port reports: the least of all active functions, 0xFFFF where none sets a limit (R438, R443). -/
def State.ltr (s : State) : Nat := ([0, 1, 2, 3].filterMap s.tolerance).foldl min 0xFFFF

/-- The host port reports a changed tolerance (R443). -/
def State.sendLtr (s : State) : State := if s.ltr = s.ltrSent then s else { s with ltrSent := s.ltr }.send (.ltr s.ltr)

/-- Whether a die's partition allows a state with an exit bound in µs (R438). -/
def State.mayGate (s : State) (die bound : Nat) : Bool := (s.tolerance (s.dieId die)).all fun t => bound ≤ t

/-- Whether some thread of a core could issue. -/
def State.coreReady (s : State) (core : Nat) : Bool :=
  s.threads.any fun t => (match s.block? t.bid with
    | some b => b.core == core
    | none => false) && (s.awake t && match s.fetchFor t with
      | .ok i => s.ready s.nextId t i
      | _ => true)

/-- R437: no ready thread for 64 cycles. -/
def execClockGateEntry (core : Nat) (s : State) : Res :=
  let c := s.core core
  let idle := (s.resident core).all (fun b => b.lastIssue + 64 ≤ s.clk) && !s.coreReady core
  .next (if core < 192 && c.power == .run && idle then s.setCore core { c with power := .clockGate, gatedAt := s.clk } else s)

/-- Whether a core has no resident block and no command in flight (R437). -/
def State.coreIdle (s : State) (core : Nat) : Bool :=
  (s.resident core).isEmpty && !(s.copies.any fun c => c.core == core) && !(s.mcmds.any fun c => c.core == core)

/-- R243: dirty owned lines go home, tracked lines leave, expired leases go, and the wrap epoch is kept. -/
def execCoreRetentionEntry (core : Nat) (s : State) : Res :=
  let c := s.core core
  let die := dieOf core
  if core < 192 && (c.power == .run || c.power == .clockGate) && s.coreIdle core && s.mayGate die 2 then
    let lines := (s.l1.filter fun l => l.core == core && l.st == .owned).map fun l => l.line
    let s := lines.foldl (fun s n => s.writeBack core n) s
    let s := { s with l1 := s.l1.filter fun (l : L1Line) => l.core != core || l.st == L1St.leased }
    let s := s.visit core
    .next (s.setCore core { s.core core with power := .retention, gatedAt := s.clk, wrapEpoch := (s.die die).lease.toNat / 2 ^ 19 })
  else .next s

/-- A retained core wakes, and its die with it where that sleeps: its lease clock is set forward first (R239, R243, R437). -/
def State.wakeRetained (s : State) (core : Nat) : State :=
  let asleep := (s.die (dieOf core)).power == .sleep || (s.die (dieOf core)).power == .mereRetention
  let s := if asleep then s.askDie (dieOf core) else s
  let c := s.core core
  let s := if c.wrapEpoch = (s.die (dieOf core)).lease.toNat / 2 ^ 19 then s.visit core else s.dropLeases core
  s.setCore core { s.core core with power := .run }

/-- R243. -/
def execCoreRetentionWake (core : Nat) (s : State) : Res :=
  .next (if (s.core core).power == .retention then s.wakeRetained core else s)

/-- The cores of a die. -/
def coresOf (die : Nat) : List Nat := (List.range 48).map fun k => 48 * die + k

/-- Whether every core of a die is power-gated (R437). -/
def State.dieGated (s : State) (die : Nat) : Bool := (coresOf die).all fun c => (s.core c).power == .retention

/-- Whether a die's cores and its Mere leave it free to enter a state: every core power-gated, and no request to the Mere for 10 µs (R437). -/
def State.dieQuiet (s : State) (die : Nat) : Bool := s.dieGated die && (s.die die).mereAt + us 10 ≤ s.clk

/-- Whether a die may sleep: it has no Mere window, and its partition's tolerance allows it (R437, R438). -/
def State.maySleep (s : State) (die : Nat) : Bool := bits (s.milv die) 11 8 == 0 && s.mayGate die 1500

/-- R437: only where no deeper state is allowed (R438). -/
def execMereRetentionEntry (die : Nat) (s : State) : Res :=
  let d := s.die die
  .next (if die < 4 && d.power == .run && s.dieQuiet die && s.mayGate die 40 && !s.maySleep die then s.setDie die { d with power := .mereRetention } else s)

/-- R437, R243: dirty Mere lines go to HBM, Mere, the constant cache and the L1s of the die are emptied. -/
def execDieSleepEntry (die : Nat) (s : State) : Res :=
  let d := s.die die
  if die < 4 && (d.power == .run || d.power == .mereRetention) && s.dieQuiet die && s.maySleep die then
    let mine (m : MereLine) : Bool := s.homeDie (128 * m.line) == die
    let s1 := (s.mere.filter mine).foldl State.mereOut s
    let s1 := { s1 with l1 := s1.l1.filter fun (l : L1Line) => dieOf l.core != die }
    .next (s1.setDie die { s1.die die with power := .sleep, constLines := [] })
  else .next s

/-- A core leaves its clock gate: its blocks' watchdog counts and its spawn timers have paused meanwhile (R218, R375). -/
def State.ungate (s : State) (core : Nat) : State :=
  if (s.core core).power == .clockGate then
    let s := s.gatePause core
    s.setCore core { s.core core with power := .run }
  else s

/-- R437: a request reaches a sleeping core or die. A die's lease clock is set forward by the time asleep (R239). -/
def execWakeRequest (isDie : Bool) (n : Nat) (s : State) : Res :=
  .next (
    if isDie then (if n < 4 then s.askDie n else s)
    else match (s.core n).power with
      | .clockGate => s.ungate n
      | .retention => s.wakeRetained n
      | _ => s)

end Sys2Proof.Machine
end

