-- ==== Sys2Proof/Machine/Collective.lean ====
section
/-! DEFINITION. The group collectives that compute over the participants' registers (R129 to R136). -/

namespace Sys2Proof.Machine

/-- A thread's index in its group (R128 and after): `%lane` mod 32. -/
def Thread.gl (t : Thread) : Nat := t.lane % 32

/-- Every participant gets its own result: `f` is applied to the participants and the thread (R129). -/
def State.collect (s : State) (part : List Thread) (f : Thread → Thread) : State :=
  { s with threads := s.threads.map fun (t : Thread) => if part.any fun (u : Thread) => u.key == t.key then f t else t }

/-- The issue of a computing collective: `f` gets the participants and one of them, and writes its result. -/
def State.gather (s : State) (i : Instr) (f : List Thread → Thread → Thread) : Res :=
  s.together i fun _ s _ _ part => .ok (s.collect part (f part))

/-- The participant with an index, if there is one. -/
def atGl (part : List Thread) (n : Int) : Option Thread := part.find? fun t => decide ((t.gl : Int) = n)

/-- A cross-lane read: the source's A, or the thread's own (R133). -/
def xlane (part : List Thread) (d a : Nat) (src : Int) (t : Thread) : Thread :=
  match atGl part src with
  | some u => t.setReg d (u.reg a)
  | none => t.setReg d (t.reg a)

/-- A mask of the participants that satisfy a condition, by index (R134). -/
def maskOf (part : List Thread) (p : Thread → Bool) : Nat := ((part.filter p).map fun t => 2 ^ t.gl).sum

/-- The best A over the participants under a comparison (R135). -/
def best (part : List Thread) (a : Nat) (le : Nat → Nat → Bool) : Nat :=
  match part.map fun t => t.reg a with
  | [] => 0
  | x :: r => r.foldl (fun x y => if le x y then x else y) x

/-- The tree sum of `gred.fadd`, and its conditions (R136). -/
def gredTree (part : List Thread) (a : Nat) : Nat × Conds :=
  gredFadd ((List.range 32).map fun (n : Nat) => (atGl part n).map fun t => t.reg a)

/-- R133. -/
def execXlaneAt (g : BitVec 3) (d : BitVec 7) (a : BitVec 7) (b : BitVec 7) (s : State) : Res :=
  s.gather (.xlaneAt g d a b) fun part t => xlane part d.toNat a.toNat ((t.reg b.toNat % 32 : Nat) : Int) t

/-- R133. -/
def execXlaneBack (g : BitVec 3) (d : BitVec 7) (a : BitVec 7) (b : BitVec 7) (s : State) : Res :=
  s.gather (.xlaneBack g d a b) fun part t => xlane part d.toNat a.toNat ((t.gl : Int) - (t.reg b.toNat % 64 : Nat)) t

/-- R133. -/
def execXlaneFwd (g : BitVec 3) (d : BitVec 7) (a : BitVec 7) (b : BitVec 7) (s : State) : Res :=
  s.gather (.xlaneFwd g d a b) fun part t => xlane part d.toNat a.toNat ((t.gl : Int) + (t.reg b.toNat % 64 : Nat)) t

/-- R133. -/
def execXlaneFlip (g : BitVec 3) (d : BitVec 7) (a : BitVec 7) (b : BitVec 7) (s : State) : Res :=
  s.gather (.xlaneFlip g d a b) fun part t => xlane part d.toNat a.toNat ((t.gl ^^^ (t.reg b.toNat % 32) : Nat) : Int) t

/-- R134. -/
def execVoteAll (g : BitVec 3) (d : BitVec 3) (a : BitVec 3) (s : State) : Res :=
  s.gather (.voteAll g d a) fun part t => t.setPred d.toNat (part.all fun u => u.pred a.toNat)

/-- R134. -/
def execVoteAny (g : BitVec 3) (d : BitVec 3) (a : BitVec 3) (s : State) : Res :=
  s.gather (.voteAny g d a) fun part t => t.setPred d.toNat (part.any fun u => u.pred a.toNat)

/-- R134. -/
def execBallot (g : BitVec 3) (d : BitVec 7) (a : BitVec 3) (s : State) : Res :=
  s.gather (.ballot g d a) fun part t => t.setReg d.toNat (maskOf part fun u => u.pred a.toNat)

/-- R134. -/
def execMatchV (g : BitVec 3) (d : BitVec 7) (a : BitVec 7) (s : State) : Res :=
  s.gather (.matchV g d a) fun part t => t.setReg d.toNat (maskOf part fun u => u.reg a.toNat == t.reg a.toNat)

/-- R135. -/
def execGredAdd (g : BitVec 3) (d : BitVec 7) (a : BitVec 7) (s : State) : Res :=
  s.gather (.gredAdd g d a) fun part t => t.setReg d.toNat (part.map fun u => u.reg a.toNat).sum

/-- R135. -/
def execGredMinS (g : BitVec 3) (d : BitVec 7) (a : BitVec 7) (s : State) : Res :=
  s.gather (.gredMinS g d a) fun part t => t.setReg d.toNat (best part a.toNat fun x y => decide (sgn 32 x ≤ sgn 32 y))

/-- R135. -/
def execGredMinZ (g : BitVec 3) (d : BitVec 7) (a : BitVec 7) (s : State) : Res :=
  s.gather (.gredMinZ g d a) fun part t => t.setReg d.toNat (best part a.toNat fun x y => decide (x ≤ y))

/-- R135. -/
def execGredMaxS (g : BitVec 3) (d : BitVec 7) (a : BitVec 7) (s : State) : Res :=
  s.gather (.gredMaxS g d a) fun part t => t.setReg d.toNat (best part a.toNat fun x y => decide (sgn 32 y ≤ sgn 32 x))

/-- R135. -/
def execGredMaxZ (g : BitVec 3) (d : BitVec 7) (a : BitVec 7) (s : State) : Res :=
  s.gather (.gredMaxZ g d a) fun part t => t.setReg d.toNat (best part a.toNat fun x y => decide (y ≤ x))

/-- R136. -/
def execGredFadd (g : BitVec 3) (d : BitVec 7) (a : BitVec 7) (s : State) : Res :=
  s.gather (.gredFadd g d a) fun part t => (t.setReg d.toNat (gredTree part a.toNat).1).raise (gredTree part a.toNat).2

/-- R135. -/
def execGscanAdd (g : BitVec 3) (d : BitVec 7) (a : BitVec 7) (s : State) : Res :=
  s.gather (.gscanAdd g d a) fun part t => t.setReg d.toNat (((part.filter fun u => u.gl ≤ t.gl).map fun u => u.reg a.toNat).sum)

/-- R134. -/
def execElect (g : BitVec 3) (d : BitVec 3) (s : State) : Res :=
  s.gather (.elect g d) fun part t => t.setPred d.toNat (part.all fun u => t.gl ≤ u.gl)

end Sys2Proof.Machine
end

