-- ==== Sys2Proof/Machine/Fabric.lean ====
section
/-! DEFINITION. The fabric instructions at their issue (R195 to R201), and sending a window's release packets (R198, R260). -/

namespace Sys2Proof.Machine

/-- The bytes of register-sourced data that a window holds for replay (R197, R300). -/
def Window.held (w : Window) : Nat := (w.buf.map fun b => b.data.length).sum

/-- The send count of a window's current epoch for a VDN (R299). -/
def Window.sent (w : Window) (v : Nat) : Nat := Tab.get (fun _ => 0) w.counts v

def Window.addSent (w : Window) (v n : Nat) : Window := { w with counts := Tab.set (fun _ => 0) w.counts v (w.sent v + n) }

/-- Whether a window takes writes: open, or open with a close pending (R197). -/
def Window.takes (w : Window) : Bool := w.st == .open || w.st == .closing

/-- R197: the write is counted and kept for replay, and waits for the local port. -/
def execFst (g : BitVec 3) (sz : BitVec 2) (w : BitVec 5) (a b : BitVec 7) (s : State) : Res :=
  s.inTurn (.fst g sz w a b) fun tok s t =>
    let n := 4 * 2 ^ sz.toNat
    let ea := t.addr a.toNat
    let e := s.envOf t.bid
    match s.check e .fst ea n n with
    | .error x => .trap x 0
    | .ok (.peer v ipa) =>
      let win := s.window e.f w.toNat
      let data := leBytes (t.opdVal (dataOpd (2 + sz.toNat) b.toNat)) n
      if !win.takes then .trap { cause := .windowState, addr := ea, aux := 0 } 0
      else if win.sent v = 2 ^ 24 - 1 || 65536 < win.held + n then .trap { cause := .windowFull, addr := ea, aux := 0 } 0
      else
        let handle := s.handleOf t.bid
        let kept : BufWrite := { handle, epoch := win.epoch.toNat, vdn := v, addr := ipa, data }
        let counted := win.addSent v 1
        let win' : Window := { counted with buf := win.buf ++ [kept] }
        let pkt := s.packetTo handle e.f v (.write w.toNat win.inc.toNat win.epoch.toNat 0 ipa data)
        let s := s.setWindow e.f w.toNat win'
        let post : Posted := { id := s.nextId, tok, bid := t.bid, grp := t.grp, pkt }
        let s := { s with nextId := s.nextId + 1, posts := s.posts ++ [post] }
        .ok (s.updThread t.key fun t => t.next 4)
    | .ok _ => .trap { cause := .accessDenied, addr := ea, aux := 0 } 0

/-- A non-posted fabric access of a thread (R200). -/
def State.fabricAccess (s : State) (t : Thread) (tok : Nat) (acc : Acc) (a n : Nat) (op : PeerOp) (dst : List Nat) (p : Nat) : TRes :=
  let ea := t.addr a
  match s.check (s.envOf t.bid) acc ea n n with
  | .error x => .trap x 0
  | .ok (.peer v ipa) =>
    let pred := if p = 7 then none else some p
    (match s.requestFor t tok v ipa ea op dst 0 pred false with
    | some s => .ok (s.updThread t.key fun t => (t.await dst pred).next 4)
    | none => .held)
  | .ok _ => .trap { cause := .accessDenied, addr := ea, aux := 0 } 0

/-- R200. -/
def execFld (g : BitVec 3) (d a : BitVec 7) (sz : BitVec 2) (p : BitVec 3) (s : State) : Res :=
  s.inTurn (.fld g d a sz p) fun tok s t =>
    let n := 4 * 2 ^ sz.toNat
    s.fabricAccess t tok .fld a.toNat n (.ld n) (t.absRegs (dataOpd (2 + sz.toNat) d.toNat)) p.toNat

/-- The operation of a `fatom` code (R200). -/
def fatomOp (x : Nat) : AtomOp :=
  match x with
  | 0 => .add | 1 => .exch | 2 => .cas | 3 => .add | 4 => .minS | 5 => .maxS | 6 => .minZ | 7 => .maxZ | _ => .fadd

/-- R200: `cas.b32` compares with d and writes d + 1, and returns to d alone. -/
def execFatom (g : BitVec 3) (d a : BitVec 7) (x : BitVec 4) (p : BitVec 3) (s : State) : Res :=
  s.inTurn (.fatom g d a x p) fun tok s t =>
    let d := d.toNat
    let op := fatomOp x.toNat
    match x.toNat with
    | 2 => s.fabricAccess t tok .fatom a.toNat 4 (.atom op 4 (t.reg (d + 1)) (t.reg d)) [t.idx d] p.toNat
    | 3 => s.fabricAccess t tok .fatom a.toNat 8 (.atom op 8 (t.pair d) 0) (t.absRegs (.pair d)) p.toNat
    | _ => s.fabricAccess t tok .fatom a.toNat 4 (.atom op 4 (t.reg d) 0) [t.idx d] p.toNat

/-- The VDNs with a non-zero send count, in ascending order. -/
def Window.targets (w : Window) : List Nat := (w.counts.filter fun e => e.2 != 0).map fun e => e.1

/-- Data and copies of an epoch are freed when its close ends (R300). -/
def Window.free (w : Window) (epoch : Nat) : Window :=
  { w with buf := w.buf.filter fun b => b.epoch != epoch, copies := w.copies.filter fun c => c.epoch != epoch }

/-- The scope code of a close (R195). -/
def closeScope (sc : Nat) : Nat := 5 + sc

/-- R198: the epoch advances at once; the release packets leave once what precedes the close is performed (R260). -/
def execFwclose (g : BitVec 3) (sc : BitVec 2) (w : BitVec 5) (a b : BitVec 7) (s : State) : Res :=
  s.inTurn (.fwclose g sc w a b) fun _ s t =>
    let ea := t.addr a.toNat
    let e := s.envOf t.bid
    let win := s.window e.f w.toNat
    if win.st != .open then .trap { cause := .windowState, addr := ea, aux := 0 } 0
    else if ea.toNat % 4 ≠ 0 then .trap { cause := .misaligned, addr := ea, aux := 0 } 0
    else if !win.targets.isEmpty && (s.ownVdn e.f).isNone then .trap { cause := .vdnInvalid, addr := ea, aux := 0 } 0
    else
      let E := win.epoch.toNat
      let pend : List Pend := win.targets.map fun v => { vdn := v, count := win.sent v, r := 0, resends := 0, deadline := 0 }
      let c : Closer := {
        handle := s.handleOf t.bid, key := t.key, lid := (s.block? t.bid).elim 0 (fun b => b.lid), pc := t.pc, flag := ea, value := BitVec.ofNat 32 (t.reg b.toNat), scope := closeScope sc.toNat,
        before := s.nextId, grp := t.grp, sent := false }
      let win' : Window := { win with epoch := win.epoch + 1, counts := [], closing := win.epoch }
      let win' := if pend.isEmpty then win'.free E else { win' with st := .closing, pending := pend, closer := some c }
      .ok ((s.setWindow e.f w.toNat win').updThread t.key fun t => t.next 4)

/-- Sends the release packets of every pending close whose accesses, queue entries and copies' reads are done (R260, R267). A
copy's final count replaces the count taken at the close. -/
def State.sendCloses (s : State) : State :=
  s.windows.foldl (fun s (e : Nat × Window) =>
    let w := e.2
    match w.st, w.closer with
    | .closing, some c =>
      let done := s.performed c.key.bid c.grp c.key.tid c.before true && w.copies.all fun x => x.epoch != w.closing.toNat || x.final
      if c.sent || !done || s.frozen (e.1 / 32) then s
      else
        let f := e.1 / 32
        let s := w.pending.foldl (fun s p => s.sendTo c.handle f p.vdn
          (.release (e.1 % 32) w.inc.toNat w.closing.toNat p.r p.count c.flag c.value c.scope)) s
        s.setWindow f (e.1 % 32) { w with
          closer := some { c with sent := true },
          pending := w.pending.map fun p => { p with deadline := s.clk + 2 * s.tlost f } }
    | _, _ => s) s

/-- R196. -/
def execFwopen (g : BitVec 3) (d : BitVec 7) (p : BitVec 3) (s : State) : Res :=
  s.inTurn (.fwopen g d p) fun _ s t =>
    let f := (s.envOf t.bid).f
    let w := s.window f d.toNat
    if w.st = .free then
      let w' : Window := { Window.reset with st := .open, inc := w.inc + 1 }
      .ok ((s.setWindow f d.toNat w').updThread t.key fun t => (t.setPred p.toNat true).next 4)
    else .ok (s.updThread t.key fun t => (t.setPred p.toNat false).next 4)

/-- R196: an open window with no pending close, or a failed one; the incarnation and the epoch stand. -/
def execFwopenFree (g : BitVec 3) (d : BitVec 7) (s : State) : Res :=
  s.inTurn (.fwopenFree g d) fun _ s t =>
    let f := (s.envOf t.bid).f
    let w := s.window f d.toNat
    if w.st = .free || w.st = .closing then .trap (plainTrap .windowState) 0
    else
      let w' : Window := { Window.reset with inc := w.inc, epoch := w.epoch }
      .ok ((s.setWindow f d.toNat w').updThread t.key fun t => t.next 4)

/-- A window's status word (R199). -/
def Window.status (w : Window) : Nat :=
  let st := match w.st with
    | .free => 0 | .open => 1 | .closing => 2 | .failed => 3
  st * 2 ^ 30 + w.fault * 2 ^ 24 + w.epoch.toNat * 2 ^ 16 + min 63 w.pending.length * 2 ^ 8 + (w.held + 1023) / 1024

/-- R199. -/
def execFwstat (g : BitVec 3) (d : BitVec 7) (w : BitVec 5) (s : State) : Res :=
  s.inTurn (.fwstat g d w) fun _ s t =>
    let v := (s.window (s.envOf t.bid).f w.toNat).status
    .ok (s.updThread t.key fun t => (t.setReg d.toNat v).next 4)

/-- R201. -/
def execVdnq (g : BitVec 3) (d a : BitVec 7) (s : State) : Res :=
  s.inTurn (.vdnq g d a) fun _ s t =>
    let f := (s.envOf t.bid).f
    let e := s.vdne f (t.reg a.toNat % 64)
    let v := ofBool (s.vdnSelf f e) * 2 ^ 16 + bits e 15 8 * 2 ^ 8 + e % 4
    .ok (s.updThread t.key fun t => (t.setReg d.toNat v).next 4)

end Sys2Proof.Machine
end

