-- ==== Sys2Proof/Machine/Redundant.lean ====
section
/-! DEFINITION. Redundant pairs after the issue: the load-value queue, the compare buffer, mismatches and implicit checkpoints
(R316 to R319). -/

namespace Sys2Proof.Machine

/-- The address of the entry at which a thread stands. -/
def State.entryAt (s : State) (t : Thread) : VAddr :=
  match s.fetchFor t with
  | .ok i => entryAddr i t
  | _ => 0

/-- A mismatch of a group of a pair (R318): both copies return to their snapshots, and the third in a row raises REDUNDANT_FAIL in
every live thread of the group. -/
def State.mismatch (s : State) (bid grp : Nat) (addr : VAddr) : State :=
  match s.block? bid with
  | none => s
  | some b =>
    let s := s.rollGroup bid b.mate grp
    let up (g : Group) : Group := { g with fails := g.fails + 1 }
    let s := ((s.updGroup bid grp up).updGroup b.mate grp up)
    let more (b : Block) : Block := { b with mismatches := b.mismatches + 1 }
    let s := (s.updBlock bid more).updBlock b.mate more
    if (s.group? bid grp).any fun g => 3 ≤ g.fails then
      let d : DefTrap := { cause := Cause.redundantFail.code, addr, aux := 0 }
      (s.live bid grp ++ s.live b.mate grp).foldl (fun s t => s.takeTrap t.key t.pc t.pc d) s
    else s

/-- R316: the oldest filled entry that is still on its way arrives. -/
def execLvqEntryArrival (bid tid : Nat) (s : State) : Res :=
  .next (s.updThread { bid, tid } fun t =>
    match t.lvq.find? fun e => !e.arrived with
    | some x => if x.filled then { t with lvq := updFirst (fun e => !e.arrived) (fun e => { e with arrived := true }) t.lvq } else t
    | none => t)

/-- Whether another thread of a group has an older entry that is not over (R317, R319). -/
def State.olderEntry (s : State) (t : Thread) : Bool :=
  s.threads.any fun u => u.bid == t.bid && u.grp == t.grp && u.tid != t.tid && (u.wait == .compare || u.wait == .matched) && u.sigId < t.sigId

/-- Whether the other threads of an implicit checkpoint's group stand level with their twins, with no result on its way: it is performed once,
and no rollback comes between that and the snapshot (R319). -/
def State.level (s : State) (t : Thread) (mate : Nat) : Bool :=
  (s.live t.bid t.grp).all fun v => v.tid == t.tid || (v.busy.isEmpty && v.busyP.isEmpty && (s.thread? { bid := mate, tid := v.tid }).any fun u =>
    u.icount == v.icount && u.busy.isEmpty && u.busyP.isEmpty && u.wait != .matched && v.wait != .matched)

/-- The effect of two matched entries that both copies take in the same cycle (R315, R317): the threads leave, or each spawn pool takes its
record. Nothing for another instruction; no state while a pool has no room. -/
def State.takeBoth (s : State) (t u : Thread) : Option (Option State) :=
  match s.fetchFor t with
  | .ok (.exit _) => some (some { s with threads := s.threads.filter fun (x : Thread) => x.key != t.key && x.key != u.key })
  | .ok (.spawn _ d a) =>
    if (t.addr a.toNat).toNat % 4 ≠ 0 then none
    else match s.offer t d.toNat a.toNat with
      | none => some none
      | some s => some (s.offer u d.toNat a.toNat)
  | _ => none

/-- The twin group's waiting entry of the same position, or at a `ckpt`, which makes none, the twin that waits there too (R202, R317). -/
def State.twinEntry (s : State) (b : Block) (t : Thread) : Option Thread :=
  s.threads.find? fun u => u.bid == b.mate && u.grp == t.grp && u.wait == Wait.compare && u.sig.isEmpty == t.sig.isEmpty &&
    (if t.sig.isEmpty then u.tid == t.tid else u.sigPos == t.sigPos)

/-- Whether an implicit checkpoint of a thread's group is matched or performed, and its snapshot still to come: nothing is rolled back behind it
(R319). -/
def State.committed (s : State) (b : Block) (t : Thread) : Bool :=
  s.checkpoints t b || s.threads.any fun u => (u.bid == b.bid || u.bid == b.mate) && u.grp == t.grp && u.sigImp && u.wait == Wait.matched

/-- Both twins' entries of the same position meet (R317): equal ones retire, in the group's order for an `exit` and an implicit checkpoint, and the
effect may be performed; others mismatch. While an implicit checkpoint of the group is under way they wait (R319). -/
def State.compare (s : State) (bid tid : Nat) : State :=
  match s.block? bid, s.thread? { bid, tid } with
  | some b, some t =>
    (match s.twinEntry b t with
    | some u =>
      let (l, r) := if b.role == .lead then (t, u) else (u, t)
      let last := match s.fetchFor l with
        | .ok (.exit _) => true
        | _ => false
      if b.role == .solo || t.wait != Wait.compare || s.committed b t then s
      else if t.sig != u.sig then s.mismatch l.bid t.grp (s.entryAt l)
      else if (last || t.sigImp || t.sig.isEmpty) && s.olderEntry l then s
      else if t.sigImp && !s.level l r.bid then s
      else match s.takeBoth l r with
        | some o => o.getD s
        | none =>
          let go (x : Thread) : Thread := { x with wait := .matched }
          (s.updThread t.key go).updThread u.key go
    | none => s)
  | _, _ => s

/-- R317. -/
def execCompareEntryMatch (bid tid : Nat) (s : State) : Res := .next (s.compare bid tid)

/-- R317: a leader's entry has waited 2^16 cycles. -/
def execCompareTimeout (bid tid : Nat) (s : State) : Res :=
  .next (match s.block? bid, s.thread? { bid, tid } with
  | some b, some t =>
    if b.role == .lead && t.wait == Wait.compare && !t.sig.isEmpty && (s.twinEntry b t).isNone && !s.committed b t && t.sigAt + 2 ^ 16 ≤ s.clk then
      s.mismatch bid t.grp (s.entryAt t)
    else s
  | _, _ => s)

/-- A trailing thread's instruction does not match its next entry in kind and size (R316): a mismatch at once. The spec names no address for it
(log entry 96). Behind a performed implicit checkpoint nothing is rolled back (R319). -/
def State.lvqMismatch (s : State) : State :=
  s.threads.foldl (fun s t =>
    match s.block? t.bid, t.lvq, s.fetchFor t with
    | some b, e :: _, .ok i =>
      let takes := match i.pairClass with
        | .forwarded => true
        | .result _ => t.wait == Wait.matched
        | _ => false
      if b.role == .trail && e.arrived && e.kind != fwdKind i && takes && t.pred i.guard && s.awake t && !s.checkpoints t b then
        s.mismatch t.bid t.grp 0 else s
    | _, _, _ => s) s

/-- The snapshots of implicit checkpoints whose result is in place in both copies (R319): a thread that waits, at a barrier or with an entry of its
own, is snapshotted where it stands. -/
def State.endCkpts (s : State) : State :=
  (s.blocks.filter fun b => b.role == .lead).foldl (fun s b =>
    (s.groups.filter fun g => g.bid == b.bid && g.ckpting).foldl (fun s g =>
      let quiet (t : Thread) : Bool := t.wait != Wait.matched && t.busy.isEmpty && t.busyP.isEmpty
      let ready := g.req.isNone && g.unlocking.isNone && (s.live b.bid g.idx).all fun t =>
        quiet t && (s.thread? { bid := b.mate, tid := t.tid }).any fun u => quiet u && u.icount == t.icount
      if !ready then s
      else
        let mine (t : Thread) : Bool := (t.bid == b.bid || t.bid == b.mate) && t.grp == g.idx
        let done (x : Group) : Group := { x with ckpting := false, snapAt := s.nextId, fails := 0 }
        (({ s with threads := s.threads.map fun (t : Thread) => if mine t then t.snap t.pc else t }).updGroup b.bid g.idx done).updGroup
          b.mate g.idx done) s) s

end Sys2Proof.Machine
end

