-- ==== Sys2Proof/Machine/Ras.lean ====
section
/-! DEFINITION. Corrected and uncorrectable errors (R430 to R433). -/

namespace Sys2Proof.Machine

/-- Kills the block for an error, with a record of kind 6 (R433). -/
def State.errorKill (s : State) (bid cls pa : Nat) (va : VAddr) : State :=
  match s.block? bid with
  | none => s
  | some b =>
    let f := (s.launch? b.lid).elim 15 fun l => l.f
    (s.logError cls f pa).killFor bid { ErrRec.empty with kind := 6, blk := b.blk, addr := va }

/-- Whether the stored check bits of what an access reads fail (R433). -/
def State.poison (s : State) (t : Target) (n : Nat) : Bool :=
  match t with
  | .loc pa => s.poisoned.any fun l => 128 * l < pa + n && pa < 128 * (l + 1)
  | _ => false

/-- An access to a poisoned line kills the launch that makes it (R433); the poison stays (log entry 108). -/
def State.poisonKill (s : State) (bid : Nat) (t : Target) (va : VAddr) : State :=
  match t with
  | .loc pa => s.errorKill bid (if s.mere.any (fun m => m.line == lineOf pa) then 1 else 0) pa va
  | _ => s

/-- The function in whose ways a line stands, 15 for none. -/
def State.lineFunc (s : State) (line : Nat) : Nat := ((s.mere.find? fun m => m.line == line).map fun m => m.f).getD 15

/-- Marks a line's stored check bits as failing. -/
def State.addPoison (s : State) (pa : Nat) : State :=
  if s.poisoned.contains (lineOf pa) then s else { s with poisoned := s.poisoned ++ [lineOf pa] }

/-- R433. -/
def State.uncorrectable (s : State) (u : ErrorSite) : State :=
  match u with
  | .cleanLine core line =>
    let clean (l : L1Line) : Bool := l.core == core && l.line == line && (l.st != .owned || l.dirty.isEmpty)
    let s := { s with l1 := s.l1.filter (fun (l : L1Line) => !clean l), mere := s.mere.filter (fun m => m.line != line || m.dirty),
                      dies := s.dies.mapVals (fun _ => Die.reset) fun d => { d with constLines := d.constLines.filter fun c => c.line != line } }
    s.countError
  | .segment core seg =>
    let c := s.core core
    let again (e : Nat × Seg) : Nat × Seg := if e.1 = seg then (seg, { e.2 with landed := false, again := e.2.again || e.2.landed }) else e
    let f := ((c.segs.find? fun e => e.1 == seg).bind fun e => s.launch? e.2.lid).elim 15 fun l => l.f
    (s.setCore core { c with segs := c.segs.map again }).logError 2 f 0
  | .coreState bid cls grps =>
    (match s.block? bid with
    | none => s
    | some b =>
      if b.role != .solo && (cls = 3 || cls = 4) then
        let f := (s.launch? b.lid).elim 15 fun l => l.f
        (s.groups.filter fun g => g.bid == bid && grps.contains g.idx).foldl (fun s g => s.mismatch bid g.idx 0) (s.logError cls f 0)
      else s.errorKill bid cls 0 0)
  | .read bid cls pa va => (s.addPoison pa).errorKill bid cls pa va
  | .patrol cls pa => (s.addPoison pa).logError cls (s.lineFunc (lineOf pa)) pa
  | .seep f cls pa =>
    let s := (s.addPoison pa).logError cls f pa
    if f < 8 && (s.migState f == 2 || s.migState f == 3) then s.migFailBoth f 7 else s

/-- R433. -/
def execUncorrectableError (u : ErrorSite) (s : State) : Res := .next (s.uncorrectable u)

/-- R430, R431: the scrubber changes no value; a correction is logged. -/
def execPatrolScrub (u : ScrubUnit) (s : State) : Res := .next (if u.corrected then s.corrected (u.die % 4) u.field else s)

end Sys2Proof.Machine
end

