-- ==== Sys2Proof/Machine/Queue.lean ====
section
/-! DEFINITION. The instants at which loads return and store-queue entries are performed (R141, R144, R148, R150, R156, R179, R236,
R242, R251 to R253, R268). -/

namespace Sys2Proof.Machine

/-! Values that come back. -/

/-- Overlays the forwarded bytes on the bytes read from memory. -/
def overlay : List (Option Byte) → Nat → Nat
  | [], _ => 0
  | some b :: r, v => b.toNat + 256 * overlay r (v / 256)
  | none :: r, v => v % 256 + 256 * overlay r (v / 256)

/-- A result reaches its thread: registers and predicate are written and no longer busy (R83); a thread that has exited gets nothing
(R100). A pair's twin gets it through the load-value queue (R316). -/
def State.deliver (s : State) (k : ThreadKey) (tok : Nat) (dst : List Nat) (v : Nat) (pred : Option (Nat × Bool)) : State :=
  let put (t : Thread) : Thread :=
    let t := t.setAll dst v
    let t := match pred with
      | some (p, b) => t.setPred p b
      | none => t
    { t with busy := t.busy.filter (fun r => !dst.contains r),
             busyP := t.busyP.filter fun p => !(pred.any fun x => x.1 == p) }
  (s.updThread k put).forward k tok ((List.range dst.length).map fun i => BitVec.ofNat 32 (v / 2 ^ (32 * i)))
    (pred.any fun x => x.2) (!(dst.isEmpty && pred.isNone)) none

/-- A loaded value as its register takes it (R141). -/
def loadWord (signed : Bool) (n v : Nat) : Nat := if signed then low 32 (sgn (8 * n) v) else v

/-! Loads. -/

/-- Whether a load would be served from a leased line. Where it is no acquire it comes last in its cycle, after every acquire that another thread of
its core performs in it (R250). -/
def State.fromLease (s : State) (l : Load) : Bool :=
  match l.kind, l.tgt with
  | .ld, .loc pa => l.ty != 3 && !l.acq && !l.home && (s.l1Find (s.envOf l.bid).core (lineOf pa)).any fun x => x.st == .leased
  | _, _ => false

/-- Whether a load waits for entries of its group's queue: an atomic or reduction of one of its bytes (R148); where nothing is forwarded, as outside
local global memory, any entry of one of its bytes (R252); and at an `ld.c` the same, which its thread may have written under another address (R253). -/
def State.queueFirst (s : State) (l : Load) : Bool :=
  match s.group? l.bid l.grp, l.kind, l.tgt with
  | none, _, _ | _, .lstat, _ => false
  | some g, .ld, .loc _ => g.updateAhead l
  | some g, _, _ => g.queue.any fun e => e.id < l.id && e.tgt.overlaps e.size l.tgt l.n

/-- Whether a load may be performed now (R144, R148, R242, R250, R253, R364): after the lower lanes' accesses of its issue (R143), the upper half of a
`.b128` load of host memory after the lower (R141). -/
def State.loadReady (s : State) (l : Load) : Bool :=
  let mine (b t : Nat) : Bool := b == l.bid && t == l.tid
  !(s.loads.any fun o => o.id < l.id && (o.tok == l.tok || (mine o.bid o.tid && (o.acq || (o.kind != .lstat && l.kind != .lstat && o.tgt.overlaps o.n l.tgt l.n))))) &&
  !(s.nps.any fun o => o.id < l.id && (o.tok == l.tok || (mine o.bid o.tid && o.acq))) && !s.blocked (s.envOf l.bid).core false l.tgt &&
  !(l.kind == .ldc && (s.die (dieOf (s.envOf l.bid).core)).pause) && (!s.fromLease l || s.turn == 191) &&
  !s.queueFirst l

/-- A read through a die's constant cache (R145, R242). -/
def State.constLoad (s : State) (e : Env) (pa n : Nat) : Nat × State :=
  let line := lineOf pa
  let k := dieOf e.core
  let d := s.die k
  match d.constLines.find? fun c => c.line == line && d.constCnt < c.expiry with
  | some c => (c.data.read (pa % 128) n, s)
  | none =>
    let s := ((s.downgrade none line).mereTouch e.f e.tag line 128 false).carried false e.core pa 128
    let lc := bits (s.sys (unitKey 0x0210 k)).toNat 27 16
    let c : ConstLine := { line, expiry := min (d.constCnt + lc) 4095, tag := e.tag, data := Memory.store [] 0 (s.mem.bytes (128 * line) 128) }
    let d := s.die k
    (s.mem.read pa n, s.setDie k { d with constLines := c :: d.constLines.filter fun x => x.line != line })

/-- The group's bits of an `lstat` word for an address (R156). -/
def Group.lockBits (g : Group) (ea : VAddr) : Nat :=
  let same (x : VAddr) : Bool := x.toNat / 128 == ea.toNat / 128
  (if same g.lastLine then g.lastStat.toNat * 2 else 0) + ofBool (g.held.any fun h => same h.va)

/-- The groups queued on a line, 0 when it is not locked (R156). -/
def State.waiterCount (s : State) (pa : Nat) : Nat :=
  match s.lockEntry? (lineOf pa) with
  | some e => if e.holder.isSome then min 255 e.waiters.length else 0
  | none => 0

/-- A die's constant cache gives up a line that a plain load has read, so that no later `ld.c` returns an older value (R253). -/
def State.dropConst (s : State) (die line : Nat) : State :=
  let d := s.die die
  if d.constLines.any fun c => c.line == line then s.setDie die { d with constLines := d.constLines.filter fun c => c.line != line } else s

/-- A core gives up its leased copy of a line that an `ld.c` has read, so that no later plain load returns an older value (R253). -/
def State.dropLease (s : State) (core line : Nat) : State :=
  { s with l1 := s.l1.filter fun (l : L1Line) => !(l.core == core && l.line == line && l.st == .leased) }

/-- The value that a load reads, and the caches after it (R251, R252): queued stores of its group are forwarded to a load of local global memory
(R148, log entry 84), and a load that waited for an atomic reads at the home. -/
def State.readLoad (s : State) (e : Env) (g : Group) (l : Load) : Nat × State :=
  match l.kind, l.tgt with
  | .lstat, .loc pa => (s.waiterCount pa * 256 + g.lockBits l.ea, s)
  | .lstat, _ => (g.lockBits l.ea, s)
  | .ldc, .loc pa =>
    let (v, s) := s.constLoad e pa l.n
    (v, s.dropLease e.core (lineOf pa))
  | _, .loc pa =>
    let f := g.forwarded l
    if f.all Option.isSome then (overlay f 0, s)
    else
      let s := if l.home then s.dropLease e.core (lineOf pa) else s
      let (v, s) := s.loadLocal e.core e.f e.tag l.ty pa l.n
      (overlay f v, s.dropConst (dieOf e.core) (lineOf pa))
  | _, t => (s.readTgt l.bid t l.n, s)

/-- A load returns its value (R141, R252). An acquire load at `.dev` or wider then drops the core's leases (R240). -/
def State.returnLoad (s : State) (id : Nat) : State :=
  match s.loads.find? fun l => l.id == id with
  | none => s
  | some l =>
    match s.group? l.bid l.grp with
    | none => { s with loads := s.loads.filter fun l => l.id != id }
    | some g =>
      if !s.loadReady l then s
      else if l.kind != .lstat && s.poison l.tgt l.n then { s with loads := s.loads.filter fun x => x.id != id }.poisonKill l.bid l.tgt l.ea
      else
        let e := s.envOf l.bid
        let (v, s) := { s with loads := s.loads.filter fun l => l.id != id }.readLoad e g l
        let s := if l.acq && !inScratch l.ea then s.dropLeases e.core else s
        (s.deliver { bid := l.bid, tid := l.tid } l.tok l.dst (loadWord l.signed l.n v) none).settleCnt l.bid l.grp .ld l.tok

/-- R141, R252. -/
def execLoadValueReturn (id : Nat) (s : State) : Res := .next (s.returnLoad id)

/-! The head of a group's store queue. -/

/-- Whether the head entry may be performed: after its thread's older acquire loads and same-byte loads; a release after every older
load of its thread (R144, R253); after lower lanes' entries of the same issue, those of other groups among them (R143, R152). -/
def State.headReady (s : State) (g : Group) (e : QEntry) : Bool :=
  !(s.loads.any fun l => l.bid == g.bid && l.tid == e.tid && l.id < e.id && (e.rel || l.acq || l.tgt.overlaps l.n e.tgt e.size)) &&
  !(s.nps.any fun p => p.bid == g.bid && p.tid == e.tid && p.id < e.id &&
    (e.rel || p.acq || (Target.peer p.vdn p.ipa).overlaps (peerSize p.op) e.tgt e.size)) &&
  !(s.groups.any fun h => h.queue.any fun x => x.tok == e.tok && x.id < e.id) &&
  !s.blocked (s.envOf g.bid).core true e.tgt && !(s.cutOff e.tgt && (match e.kind with
    | .store _ => false
    | _ => true))

/-- Drops the head entry and settles its issue. -/
def State.popQueue (s : State) (bid grp : Nat) (e : QEntry) (c : Counter) : State :=
  (s.updGroup bid grp fun g => { g with queue := g.queue.filter fun x => x.id != e.id }).settleCnt bid grp c e.tok

/-- A store into local memory by request type (R236, R251). -/
def State.storeLocal (s : State) (e : Env) (ty : BitVec 2) (pa : Nat) (bs : List Byte) : State :=
  let line := lineOf pa
  match ty.toNat with
  | 0 =>
    let owned := (s.l1Find e.core line).any fun l => l.st == .owned
    let fetch (s : State) : State := (((s.pace e.f pa bs.length).probe (some e.core) line).mereTouch e.f e.tag line 128 false).carried false e.core pa 128
    -- the grant of an owned line marks its granule, and so does the write-back (R403)
    let s := (if owned then s else (fetch s).mark (128 * line) 128).keepHbm line
    { s with mem := s.mem.store pa bs }.l1Store e.core ty pa bs.length
  | 3 => ((s.l1Store e.core ty pa bs.length).homeWrite e.f e.tag none pa bs).carried true e.core pa bs.length
  | _ =>
    let wrote (o : Nat) : Bool := pa % 128 ≤ o && o < pa % 128 + bs.length
    let s := (s.homeWrite e.f e.tag (some e.core) pa bs).carried true e.core pa bs.length
    { s with l1 := s.l1.map fun (l : L1Line) =>
        if l.core == e.core && l.line == line then { l with dirty := l.dirty.filter fun o => !wrote o } else l }

/-- The head store of a group's queue is performed at its home (R148, R251). -/
def State.performStore (s : State) (bid grp : Nat) : State :=
  match s.group? bid grp with
  | none => s
  | some g =>
    match g.queue with
    | [] => s
    | q :: _ =>
      match q.kind with
      | .store d =>
        if !s.headReady g q then s
        else if s.poison q.tgt d.length then (s.popQueue bid grp q .st).poisonKill bid q.tgt q.ea
        else
          let e := s.envOf bid
          let s := match q.tgt with
            | .loc pa => s.storeLocal e q.ty pa d
            | t => s.writeTgt e none t d
          s.popQueue bid grp q .st
      | _ => s

/-- R148, R251. -/
def execStoreQueuePerform (bid grp : Nat) (s : State) : Res := .next (s.performStore bid grp)

/-! Updates (R150, R151, R237). -/

/-- The new value of a location of `n` bytes that holds `m` (R150). -/
def atomNew (op : AtomOp) (n m b c : Nat) : Nat :=
  match op with
  | .add => (m + b) % 2 ^ (8 * n)
  | .exch => b
  | .cas => if m = c then b else m
  | .minS => if sgn 32 m ≤ sgn 32 b then m else b
  | .maxS => if sgn 32 b ≤ sgn 32 m then m else b
  | .minZ => min m b
  | .maxZ => max m b
  | .and => m &&& b
  | .or => m ||| b
  | .fadd => fadd32 m b
  | .fadd2c => fadd2c m b

/-- An indivisible update where an address leads: the old value, and the state after it. -/
def State.update (s : State) (e : Env) (t : Target) (op : AtomOp) (n b c : Nat) : Nat × State :=
  match t with
  | .loc pa =>
    let m := s.mem.read pa n
    (m, s.coreUpdate e pa (leBytes (atomNew op n m b c) n))
  | t =>
    let m := s.readTgt e.bid t n
    (m, s.writeTgt e none t (leBytes (atomNew op n m b c) n))

/-! Bin records (R179, R268). -/

/-- Whether a row size is legal (R179). -/
def rowOk (n : Nat) : Bool := n % 4 == 0 && 4 ≤ n && n ≤ 4096

/-- The update of one record: its index, row size and base where the row finds a place. -/
def State.bump (s : State) (e : Env) (pa : Nat) : Option (Nat × Nat × Nat) × State :=
  let cap := s.mem.read (pa + 8) 4
  let size := s.mem.read (pa + 12) 4
  let count := s.mem.read (pa + 16) 4
  if rowOk size && count < cap then
    (some (count, size, s.mem.read pa 8), s.coreUpdate e (pa + 16) (leBytes (count + 1) 4))
  else (none, s)

/-- The overflow record that a record names, where it counts as present (R179). -/
def State.overflowOf (s : State) (e : Env) (pa : Nat) : Option Nat :=
  let y := s.mem.read (pa + 24) 8
  if y % 32 ≠ 0 then none
  else match s.resolve e .bin (BitVec.ofNat 64 y) 32 with
    | .ok (.loc q) => some q
    | _ => none

/-- The walk that a record update's overflow record needs (R179, R359). -/
def State.binMisses (s : State) (e : Env) (pa : Nat) : List WalkReq :=
  let y := s.mem.read (pa + 24) 8
  let size := s.mem.read (pa + 12) 4
  if y = 0 || y % 32 ≠ 0 || (rowOk size && s.mem.read (pa + 16) 4 < s.mem.read (pa + 8) 4) then [] else s.missing e [BitVec.ofNat 64 y]

/-- Whether the throttle holds the update of a record's overflow record (R179, R406). -/
def State.binThrottled (s : State) (e : Env) (pa : Nat) : Bool :=
  let size := s.mem.read (pa + 12) 4
  s.mem.read (pa + 24) 8 != 0 && !(rowOk size && s.mem.read (pa + 16) 4 < s.mem.read (pa + 8) 4) && (s.overflowOf e pa).any fun q => s.throttled e.f q

/-- The walks that a group's head entry needs. -/
def State.headMisses (s : State) (g : Group) : List WalkReq :=
  match g.queue with
  | { kind := .bin _ _ _ _, tgt := .loc pa, .. } :: _ => s.binMisses (s.envOf g.bid) pa
  | _ => []

/-- One row's place: the value for the thread's register, the destination and size of the row if it has a place, the copy status that
it sets, and the state after the update. -/
def State.binPlace (s : State) (e : Env) (pa : Nat) : Nat × Option (Nat × Nat) × BitVec 3 × State :=
  let drop (pa : Nat) (s : State) : State := s.coreUpdate e (pa + 20) (leBytes (s.mem.read (pa + 20) 4 + 1) 4)
  match s.bump e pa with
  | (some (i, size, base), s) => (i, some (base + i * size, size), 0, s)
  | (none, s) =>
    if s.mem.read (pa + 24) 8 = 0 then (2 ^ 32 - 1, none, 2, drop pa s)
    else match s.overflowOf e pa with
      | none => (2 ^ 32 - 1, none, 6, drop pa s)
      | some q => match s.bump e q with
        | (some (i, size, base), s) => (2 ^ 31 ||| i, some (base + i * size, size), 0, s)
        | (none, s) => (2 ^ 32 - 1, none, 2, drop q s)

/-- The copy of a placed row becomes a command of the core's engine (R268). -/
def State.addRow (s : State) (e : Env) (g : Group) (q : QEntry) (pc : VAddr) (bind : Option Nat) (src dst : VAddr) (n : Nat) : State :=
  { s with nextId := s.nextId + 1, copies := s.copies ++ [{
      id := s.nextId, tok := q.tok, core := e.core, bid := g.bid, grp := g.idx, tid := q.tid, pc, kind := .row src (some dst) n, h := 0,
      more := [], begun := [], bind, before := none, rel := false, fabric := none, lines := [],
      base := 0, owed := [] }] }

/-- The head update of a group's queue is performed: at its home here, or by a request to a peer home (R138, R150, R179). -/
def State.performUpdate (s : State) (bid grp : Nat) : State :=
  match s.group? bid grp with
  | none => s
  | some g =>
    match g.queue with
    | [] => s
    | q :: _ =>
      if !s.headReady g q then s
      else if s.poison q.tgt q.size then (s.popQueue bid grp q .st).poisonKill bid q.tgt q.ea
      else
        let e := s.envOf bid
        let k : ThreadKey := { bid, tid := q.tid }
        match q.kind, q.tgt with
        | .store _, _ => s
        | .update op n b c dst, .peer v ipa =>
          if q.sent || !s.npRoom e.f v then s
          else
            let s := s.updGroup bid grp fun g => { g with queue := g.queue.map fun x => if x.id = q.id then { x with sent := true } else x }
            s.sendNp { id := q.id, tok := q.tok, f := e.f, vdn := v, seq := 0, bid, grp, tid := q.tid, va := q.ea, ipa, op := .atom op n b c, dst,
                       signed := 0, pred := none, acq := false, handle := s.handleOf bid, done := none, deadline := 0, tries := 0, pent := false }
        | .update op n b c dst, t =>
          let (m, s) := s.update e t op n b c
          if dst.isEmpty then s.popQueue bid grp q .st
          else (s.deliver k q.tok dst m none).popQueue bid grp q .ld
        | .bin row dst pc bind, .loc pa => if !(s.binMisses e pa).isEmpty || s.binThrottled e pa then s else
          let (v, place, st, s) := s.binPlace e pa
          let s := s.updPair bid grp fun g => { g with cstat := g.cstat ||| st }
          let s := match place with
            | some (a, n) => s.addRow e g q pc bind row (BitVec.ofNat 64 a) n
            | none => s
          (s.deliver k q.tok [dst] v none).popQueue bid grp q .cp
        | .bin _ _ _ _, _ => s

/-- R150, R179. -/
def execHomeAtomicRequest (bid grp : Nat) (s : State) : Res := .next (s.performUpdate bid grp)

end Sys2Proof.Machine
end

