-- ==== Sys2Proof/Machine/Locks.lean ====
section
/-! DEFINITION. Line locks at their home: requests, hand-offs, timeouts, the hold limit and its message (R155 to R162, R280 to R297). -/

namespace Sys2Proof.Machine

/-- A timeout class's duration in µs (R286). -/
def State.lockClass (s : State) (f cls : Nat) : Nat :=
  let a := (s.sys (fReg 0x0400 f 0)).toNat
  let b := (s.sys (fReg 0x0400 f 1)).toNat
  match cls with
  | 0 => bits a 15 0 | 1 => bits a 31 16 | 2 => bits b 15 0 | _ => bits b 31 16

/-- Whether a function finds a free lock entry for a line (R280, R281). -/
def State.entryFree (s : State) (f line : Nat) : Bool :=
  let here := s.locks.filter fun e => s.sliceOf e.line == s.sliceOf line
  here.length < 4096 && (here.filter fun e => e.f == f).length < bits (s.sys (fReg 0x0400 f 2)).toNat 28 16

/-- A request reaches a line's home (R158, R159, R281): granted, queued, or denied with a status. `f` owns the entry. -/
def State.lockAsk (s : State) (f line : Nat) (w : Waiter) (tri : Bool) : State × Option (BitVec 4) :=
  match s.lockEntry? line with
  | some e =>
    if e.holder.isNone then (s.grant line w, none)
    else if tri then (s, some 1)
    else
      let put (e : LockEntry) : LockEntry := { e with waiters := e.waiters ++ [w] }
      (s.updLock line put, none)
  | none =>
    if !s.entryFree f line then (s.lockEvent f 5 w.who.grp (if tri then 0 else w.cls) w.blk w.va, some 4)
    else
      let e : LockEntry := { line, f, va := w.va, holder := none, hvdn := none, hblk := 0, hva := 0, hcls := 0, told := 0, waiters := [], held := 0, since := none,
                             limit := 0, lost := false, losing := none }
      ({ s with locks := s.locks ++ [e] }.grant line w, none)

/-- A waiter that arrives now (R288). -/
def State.waiter (s : State) (f : Nat) (who : GroupRef) (vdn : Option Nat) (blk : Nat) (va : VAddr) (cls seq : Nat) (absent : Bool) : Waiter :=
  let d := s.lockClass f cls
  { who, vdn, blk, va, told := 0, cls, deadline := if d = 0 then none else some (s.clk + us d), absent, seq }

/-- A local group's request reaches the home. -/
def State.lockArrive (s : State) (bid grp : Nat) : State :=
  match s.group? bid grp with
  | none => s
  | some g => match g.req, g.req.bind fun r => r.tgt.line with
    | some r, some line =>
      if r.queued || s.unreached (s.envOf bid).core true r.tgt then s
      else
        let f := (s.envOf bid).f
        let w := s.waiter f (s.own bid grp) none ((s.block? bid).elim 0 fun b => b.blk) r.va r.cls 0 ((s.block? bid).any fun b => b.status != .running || !b.started)
        let s := s.updGroup bid grp fun g => { g with req := some { r with queued := true } }
        (match s.lockAsk f line w r.tri with
        | (s, some st) => s.lockResult bid grp false st
        | (s, none) =>
          if (s.lockEntry? line).any fun e => e.waiters.contains w then s.coreEvent (s.envOf bid).core 15 1 else s)
    | _, _ => s

/-- R158, R159. -/
def execLockRequestAtHome (bid grp : Nat) (s : State) : Res := .next (s.lockArrive bid grp)

/-- Whether what precedes a group's `lunlock` is performed (R160): its queue entries and its threads' older loads, and the requests that it has
outstanding while it is saved (R259, R377). -/
def State.unlockReady (s : State) (g : Group) (n : Nat) : Bool :=
  !(g.queue.any fun q => q.id < n) && !(s.loads.any fun l => l.bid == g.bid && l.grp == g.idx && l.id < n) &&
  !((s.nps ++ s.savedNps).any fun p => p.bid == g.bid && p.grp == g.idx && p.id < n)

/-- The group's `lunlock` is over: its threads go on. -/
def State.unlocked (s : State) (bid grp : Nat) (va : VAddr) : State :=
  let s := s.updGroup bid grp fun g => { g with unlocking := none, held := g.held.filter fun h => h.va != va }
  { s with threads := s.threads.map fun (t : Thread) =>
      if t.bid == bid && t.grp == grp && t.wait == Wait.unlock then { t with wait := .none } else t }

/-- A `lunlock` of a group on a line reaches the home: it releases the line if the group still holds it (R160, R162, R284). -/
def State.unlockAt (s : State) (line : Nat) (g : Group) (u : Unlocking) : State :=
  let mine := (s.lockEntry? line).any fun e => e.heldHere (s.own g.bid g.idx) && e.losing.isNone
  let s := s.unlocked g.bid g.idx u.va
  if mine then s.handOffLine line false else s

/-- A holder that is lost passes its line on once its queue entries and older accesses are performed (R259, R292): a line it has lost by the hold
limit, or all of them with its last live thread. -/
def State.passLost (s : State) (line : Nat) : State :=
  match s.lockEntry? line with
  | none => s
  | some e => match e.holder with
    | none => s
    | some h =>
      if e.hvdn.isSome || (s.saved.any fun x => x.block.bid == h.bid) then s
      else match s.group? h.bid h.grp, e.losing with
        | none, _ => if s.nps.any fun p => p.bid == h.bid && p.grp == h.grp then s else s.handOffLine line true
        | some g, some n => if s.unlockReady g n then s.handOffLine line true else s
        | some g, none =>
          if (s.live h.bid h.grp).isEmpty && s.unlockReady g s.nextId then
            (s.updGroup h.bid h.grp fun g => { g with held := g.held.filter fun x => x.tgt.line != some line }).handOffLine line true
          else s

/-- The home passes a line on (R284). -/
def State.passLine (s : State) (line : Nat) : State :=
  let due (g : Group) : Bool := match g.unlocking with
    | some u => u.tgt.line == some line && s.unlockReady g u.before && !s.unreached (s.envOf g.bid).core false u.tgt
    | none => false
  match s.groups.find? due with
  | some g => (match g.unlocking with
    | some u => s.unlockAt line g u
    | none => s)
  | none => s.passLost line

/-- R284. -/
def execHandOff (line : Nat) (s : State) : Res := .next (s.passLine line)

/-- The home of a peer-homed line that a group has lost by a hold expiry hears so once what precedes is performed (R259, R293). -/
def State.sendLost (s : State) (g : Group) (u : Unlocking) : State :=
  match u.tgt with
  | .peer v ipa =>
    if !s.unlockReady g u.before then s
    else (s.updGroup g.bid g.idx fun g => { g with losing := g.losing.erase u }).sendFree (s.handleOf g.bid) (s.envOf g.bid).f v ipa
      (.lunlock (s.peerRef g.bid g.idx) true) none
  | _ => s

/-- A `lunlock` of a peer-homed line leaves as a request once what precedes it is performed (R160, R293); and the word of a lost one. -/
def State.sendUnlocks (s : State) : State :=
  let s := s.groups.foldl (fun s g => g.losing.foldl (fun s u => s.sendLost g u) s) s
  s.groups.foldl (fun s g => match g.unlocking with
    | some u => (match u.tgt with
      | .peer v ipa =>
        let f := (s.envOf g.bid).f
        if u.sent || !s.unlockReady g u.before || !s.npRoom f v then s
        else
          let s := s.updGroup g.bid g.idx fun g => { g with unlocking := some { u with sent := true } }
          { s with nextId := s.nextId + 1 }.sendNp {
            id := s.nextId, tok := 0, f, vdn := v, seq := 0, bid := g.bid, grp := g.idx, tid := 0, va := u.va, ipa, op := .lunlock (s.peerRef g.bid g.idx) false,
            dst := [], signed := 0, pred := none, acq := false, handle := s.handleOf g.bid, done := none, deadline := 0, tries := 0, pent := false }
      | _ => s)
    | none => s) s

/-- An entry with neither holder nor waiter is freed (R280). -/
def State.freeEntry (s : State) (line : Nat) : State :=
  match s.lockEntry? line with
  | some e => if e.holder.isNone && e.waiters.isEmpty then s.dropLock line else s
  | none => s

/-- R288: a waiter whose class has expired leaves the queue. The expiry comes at the end of its cycle: a grant in the same cycle wins. Where an absent
head of an unlocked line leaves so, a present waiter behind it is granted the line with the next resumption or word of presence there: the spec names
no instant (DESIGN CHOICE, log entry 114). -/
def execWaiterTimeout (line idx : Nat) (s : State) : Res :=
  match s.lockEntry? line with
  | none => .next s
  | some e => match e.waiters[idx]? with
    | none => .next s
    | some w =>
      if s.turn ≠ 191 || s.frozen e.f || !(w.deadline.any fun d => d ≤ s.clk) then .next s
      else
        let out (e : LockEntry) : LockEntry := { e with waiters := e.waiters.filter fun x => !(x.who == w.who && x.vdn == w.vdn) }
        let s := (s.updLock line out).freeEntry line
        let s := s.lockEvent e.f 1 w.who.grp w.cls w.blk w.va
        .next (if w.vdn.isNone then s.lockResult w.who.bid w.who.grp false 2 else s.lockAnswer e.f w (.denied 2))

/-- A group loses a line that it names by an address: the line leaves its held set, an `llock` in which it waits leaves its queue, and
every live thread raises LOCK_HOLD_EXPIRED at its next boundary (R162, R289). -/
def State.expire (s : State) (bid grp : Nat) (gone : Held → Bool) : State :=
  let gs := s.groups ++ s.saved.flatMap fun x => x.groups
  match gs.find? fun g => g.is bid grp with
  | none => s
  | some g => match g.held.find? gone with
    | none => s
    | some h =>
      let lose (g : Group) : Group := if g.is bid grp then { g with held := g.held.filter fun x => !gone x } else g
      let loseS (x : SavedBlock) : SavedBlock := { x with groups := x.groups.map lose }
      let s := { s with groups := s.groups.map lose, saved := s.saved.map loseS }
      let s := if g.req.isSome then s.leaveQueue bid grp else s
      let lid := match s.block? bid with
        | some b => b.lid
        | none => ((s.saved.find? fun (x : SavedBlock) => x.block.bid == bid).map fun x => x.block.lid).getD 0
      let ts := (s.threads ++ s.saved.flatMap fun (x : SavedBlock) => x.threads).filter fun t => t.bid == bid && t.grp == grp
      ts.foldl (fun s t => s.deferTrap lid t.key t.pc { cause := Cause.lockHoldExpired.code, addr := h.va, aux := 0 }) s

/-- A peer's device that has been told of a hold expiry has not answered: it is told again after each TLOST, and the line passes on only with its
word that what the holder did is performed (R259, R293, log entry 85). -/
def State.tellAgain (s : State) (line : Nat) (e : LockEntry) (h : GroupRef) (c : Nat) : State :=
  match e.hvdn with
  | none => s
  | some v =>
    if s.clk < c + s.tlost e.f then s
    else (s.updLock line fun e => { e with since := some s.clk }).sendTo 0 e.f v (.holdExpiry h e.hva)

/-- R289. -/
def execHoldLimitExpiry (line : Nat) (s : State) : Res :=
  match s.lockEntry? line with
  | none => .next s
  | some e => match e.holder, e.since with
    | some h, some c =>
      if s.frozen e.f then .next s
      else if e.losing.isSome then .next (s.tellAgain line e h c)
      else if e.held + (s.clk - c) < e.limit then .next s
      else
        let s := s.lockEvent e.f 4 h.grp e.hcls e.hblk e.hva
        match e.hvdn with
        | some v =>
          let mark (e : LockEntry) : LockEntry := { e with since := some s.clk, losing := some 0 }
          .next ((s.updLock line mark).sendTo 0 e.f v (.holdExpiry h e.hva))
        | none =>
          let mark (e : LockEntry) : LockEntry := { e with since := none, losing := some s.nextId }
          .next (((s.updLock line mark).expire h.bid h.grp fun x => x.tgt.line == some line).passLost line)
    | _, _ => .next s

/-- Whether a lock target is at a peer home. -/
def Target.isPeer (t : Target) : Bool :=
  match t with
  | .peer _ _ => true
  | _ => false

/-- R293: a peer home's hold expiry reaches the holder's device. The line is lost there, and the home hears so once the group's accesses are
performed: by the `lunlock` that is already on its way, or by a word of its own (R259). -/
def execHoldExpiryMessage (bid grp : Nat) (va : VAddr) (s : State) : Res :=
  let mine (h : Held) : Bool := h.va == va && h.tgt.isPeer
  match (s.groups ++ s.saved.flatMap fun x => x.groups).find? fun g => g.is bid grp with
  | none => .next s
  | some g => match g.held.find? mine with
    | none => .next s
    | some h =>
      let u : Unlocking := { va, tgt := h.tgt, before := s.nextId, sent := false }
      let s := s.expire bid grp mine
      .next (if g.unlocking.any fun x => x.va == va then s
        else if (s.group? bid grp).isNone && s.unlockReady g u.before then s.sendLost g u
        else
          let add (g : Group) : Group := if g.is bid grp then { g with losing := g.losing ++ [u] } else g
          { s with groups := s.groups.map add, saved := s.saved.map fun x => { x with groups := x.groups.map add } })

end Sys2Proof.Machine
end

