-- ==== Sys2Proof/Machine/Cycle.lean ====
section
/-! DEFINITION. A core's cycle and what ends with it: the choice of the issue sets, ages, waits that clear, register grants, code that
lands, spawn pools, the end of groups and pod barriers (R73 to R85, R100 to R111, R212, R217 to R220, R225). -/

namespace Sys2Proof.Machine

/-! Readiness at the table (R74, R130). -/

/-- Whether a thread's word traps before its readiness is asked (R35, R36). -/
def State.trapsFirst (s : State) (t : Thread) (i : Instr) : Bool :=
  !i.wf || (i.level == .handler && !t.inHandler) || (i.collective && t.inHandler) || !levelAllows (s.levelOf t.bid) i.level

/-- Whether every live thread of the group stands at a collective, none at a lower PC, and those at this one are ready (R130, R131). -/
def State.gathered (s : State) (t : Thread) (i : Instr) : Bool :=
  (s.live t.bid t.grp).all fun u => s.atCollective u && t.pc.toNat ≤ u.pc.toNat && (u.pc != t.pc || s.ready s.nextId u i)

/-- Whether the granule of a thread's PC is fetched again after an error (R433). -/
def State.refetching (s : State) (t : Thread) : Bool :=
  match s.launchOf t.bid with
  | some l => ((s.core (s.envOf t.bid).core).segOf l.tag (t.pc.toNat / 4096)).any fun g => g.2.again
  | none => false

/-- Whether a thread is ready in this cycle (R74). -/
def State.readyNow (s : State) (t : Thread) : Bool :=
  match s.fetchFor t with
  | .ok i =>
    if s.trapsFirst t i then s.awake t
    else s.ready s.nextId t i && (!i.collective || s.gathered t i)
  | .absent => s.awake t && !s.refetching t
  | .illegal => s.awake t

/-- The resident threads of a core. -/
def State.threadsOn (s : State) (core : Nat) : List Thread :=
  s.threads.filter fun t => (s.block? t.bid).any fun b => b.core == core

/-! The choice (R76 to R78). -/

/-- Whether a thread comes before another on their lane: greater age, then lower group, then lower `%blk` (R76). -/
def State.ahead (s : State) (t u : Thread) : Bool :=
  let blk (x : Thread) : Nat := (s.block? x.bid).elim 0 fun b => b.blk
  u.age < t.age || (t.age == u.age && (t.grp < u.grp || (t.grp == u.grp && blk t < blk u)))

/-- The issue set at a PC among ready threads, in ascending lane order (R76). -/
def State.setAt (s : State) (ready : List Thread) (pc : VAddr) : List Thread :=
  (List.range 64).filterMap fun lane =>
    (ready.filter fun t => t.lane == lane && t.pc == pc).foldl (fun o t =>
      match o with
      | none => some t
      | some u => if s.ahead t u then some t else some u) none

/-- The PC of the aged thread with the greatest age, the lower PC of equals (R75, R77). -/
def oldest (ready : List Thread) : Option VAddr :=
  ((ready.filter fun t => 64 ≤ t.age).foldl (fun (o : Option Thread) t =>
    match o with
    | none => some t
    | some u => if u.age < t.age || (u.age == t.age && t.pc.toNat < u.pc.toNat) then some t else some u) none).map Thread.pc

/-- The lowest PC of a list of threads. -/
def lowest (l : List Thread) : Option VAddr :=
  l.foldl (fun o t =>
    match o with
    | none => some t.pc
    | some p => if t.pc.toNat < p.toNat then some t.pc else some p) none

/-- Port A's PC (R77), and whether the aging rule gave it. -/
def portA (ready : List Thread) : Option (VAddr × Bool) :=
  match oldest ready with
  | some p => some (p, true)
  | none => (lowest ready).map fun p => (p, false)

/-- Whether port B holds a PC back: within 16 words above port A's, for a group of port A's set (R78). -/
def State.pcHeld (s : State) (ready setA : List Thread) (p1 p2 : VAddr) : Bool :=
  p1.toNat < p2.toNat && p2.toNat ≤ p1.toNat + 64 &&
  (s.setAt ready p2).any fun t => setA.any fun u => u.bid == t.bid && u.grp == t.grp

/-- The threads that port B may take: on lanes that port A's set leaves, at another PC (R78). -/
def restFor (ready setA : List Thread) (p1 : VAddr) : List Thread :=
  ready.filter fun t => t.pc != p1 && !(setA.any fun u => u.lane == t.lane)

/-- Port B's PC (R78). -/
def State.portB (s : State) (rest setA : List Thread) (p1 : VAddr) : Option (VAddr × Bool) :=
  match oldest rest with
  | some p => some (p, true)
  | none => (lowest (rest.filter fun t => !s.pcHeld rest setA p1 t.pc)).map fun p => (p, false)

/-- Whether a thread of a pair stands at an implicit checkpoint, which issues alone for its group (R319). -/
def State.alone (s : State) (t : Thread) : Bool :=
  (s.block? t.bid).any (fun b => b.role != .solo) && (match s.fetchFor t with
  | .ok i => i.pairClass == .result true
  | _ => false)

/-- The issue sets of a core's cycle, with how many the aging rule chose. -/
def State.choose (s : State) (core : Nat) (ready : List Thread) : List IssueSet × Nat :=
  match portA ready with
  | none => ([], 0)
  | some (p1, old1) =>
    let setA := s.setAt ready p1
    let rest := (restFor ready setA p1).filter fun t => !(setA.any fun u => u.bid == t.bid && u.grp == t.grp && (s.alone u || s.alone t))
    let a : IssueSet := { core, port := .a, pc := p1, members := setA.map Thread.key }
    match s.portB rest setA p1 with
    | none => ([a], ofBool old1)
    | some (p2, old2) =>
      ([a, { core, port := .b, pc := p2, members := (s.setAt rest p2).map Thread.key }], ofBool old1 + ofBool old2)

/-- The groups whose collective fires with an issue set (R439). -/
def State.firing (s : State) (p : IssueSet) : Nat :=
  match (s.membersOf p).head? with
  | some t => (match s.fetchFor t with
    | .ok i => if i.collective then ((s.groupsOf p).filter fun g => s.fires g.1 g.2 p).length else 0
    | _ => 0)
  | none => 0

/-- Counts a core source unless nothing came about (R439). -/
def State.coreCount (s : State) (core src n : Nat) : State := if n = 0 then s else s.coreEvent core src n

/-- Whether a thread stands at a collective for which a port chose its PC, and holds a thread of its group, or on a thread's lane an older thread
of another: it fires for that group only with all of its threads, and else these keep their ages (R130, log entry 57). -/
def State.keepsAge (s : State) (ps : List IssueSet) (t : Thread) : Bool :=
  s.atCollective t && (s.threads.any fun u => u.bid == t.bid && u.grp == t.grp && u.pc == t.pc &&
    ps.any fun p => p.pc == t.pc && (s.membersOf p).any fun w => w.lane == u.lane)

/-- The chosen sets wait at the ports; the ready threads that were not chosen grow older (R75), and a block that issues has its
watchdog count restarted (R375). Where nothing issues, the cycle's events on barrier registers apply at once (R166). -/
def State.fillPorts (s : State) (core : Nat) : State :=
  let ready := (s.threadsOn core).filter s.readyNow
  let (ps, old) := s.choose core ready
  let rests (t : Thread) : Bool := (ps.any fun p => p.members.contains t.key) || s.keepsAge ps t
  let held := (s.threadsOn core).any fun t => s.awake t && (match s.fetchFor t with
    | .ok i => t.busyP.contains i.guard || (t.pred i.guard && t.interlocked i)
    | _ => false)
  let s := ((((((s.coreCount core 1 (ofBool !(s.resident core).isEmpty)).coreCount core 2 (ofBool (1 ≤ ps.length))).coreCount core 3
    (ofBool (2 ≤ ps.length))).coreCount core 4 (ps.map fun p => p.members.length).sum).coreCount core 5 old).coreCount core 6
    (ps.map s.firing).sum).coreCount core 7 (ofBool held)
  let s := if ps.isEmpty then s.settleBars core else s
  { s with
    ports := ps,
    threads := s.threads.map fun (t : Thread) =>
      if (ready.any fun u => u.key == t.key) && !rests t then { t with age := t.age + 1 } else t,
    blocks := s.blocks.map fun (b : Block) =>
      if ps.any (fun p => p.members.any fun k => k.bid == b.bid) then { b with lastIssue := s.clk, counted := 0 } else b }

/-! What clears with a cycle. -/

/-- Threads behind a fence whose condition holds go on; an acquire of `.quad` or wider drops the leases (R154, R240). -/
def State.clearFences (s : State) : State :=
  s.threads.foldl (fun s t =>
    match t.wait with
    | .fence n q drop =>
      if s.fenceMet t n q then
        let s := s.updThread t.key fun (t : Thread) => { t with wait := .none }
        if drop then s.dropLeases (s.envOf t.bid).core else s
      else s
    | _ => s) s

/-- A thread that comes to stand at a wait on a barrier begins to wait, and does so only once (R165, R167, R169). -/
def State.beginWait (s : State) (t : Thread) : State :=
  match s.block? t.bid, s.fetchFor t with
  | some b, .ok i =>
    if t.wait != .none || s.trapsFirst t i || !s.awake t || t.busyP.contains i.guard || !t.pred i.guard || t.interlocked i || !t.covers i then s
    else match i with
      | .barWait _ r a => if r.toNat < s.nbar t.bid then s.waitBar t b r.toNat (bit (t.reg a.toNat) 0) else s
      | .barSync _ r => (match t.syncTok.filter fun x => x.1 == r.toNat with
        | some (_, tok) => if r.toNat < s.nbar t.bid then s.waitBar t b r.toNat tok else s
        | none => s)
      | .hbarWait _ d lv n => (match s.launch? b.lid with
        | some l => if n.toNat < l.granted lv.toNat then (match l.hbarOf lv.toNat n.toNat b.blk with
          | some h => s.waitHbar t h (bit (t.reg d.toNat) 0)
          | none => s) else s
        | none => s)
      | _ => s
  | _, _ => s

/-- Every thread of a core that comes to stand at one. -/
def State.beginWaits (s : State) (core : Nat) : State := (s.threadsOn core).foldl (fun s t => s.beginWait t) s

/-- Whether a `spawn`'s entry and its twin's both wait in the compare buffer (R315, R317): what they still wait for is room in the pools. -/
def State.pairWaits (s : State) (t : Thread) : Bool :=
  (s.block? t.bid).any fun b => b.status == .running && (s.twinEntry b t).any fun u => u.sig == t.sig

/-- A `spawn` that finds no place for its record counts once as a stall of its block (R107, R220). -/
def State.countStalls (s : State) (core : Nat) : State :=
  (s.threadsOn core).foldl (fun s t =>
    match s.fetchFor t with
    | .ok (.spawn g d a) =>
      let i : Instr := .spawn g d a
      let stands := s.awake t || (t.wait == .compare && s.pairWaits t)
      if t.stalled != some (t.offer d.toNat a.toNat) && stands && i.wf && !t.busyP.contains g.toNat && t.pred g.toNat && !t.interlocked i &&
          t.covers i && (t.addr a.toNat).toNat % 4 == 0 && !(s.core core).poolTakes t.bid (t.addr a.toNat) then
        let more (b : Block) : Block := { b with spawnStall := if b.spawnStall = 0xFFFFFFFF then b.spawnStall else b.spawnStall + 1 }
        (((s.updThread t.key fun (t : Thread) => { t with stalled := some (t.offer d.toNat a.toNat) }).updBlock t.bid more)).coreEvent core 11 1
      else s
    | _ => s) s

/-- Whether the members of a barrier have all ended (R226). -/
def Launch.allEnded (l : Launch) (h : HBar) : Bool := h.members.all fun m => l.ended.contains m

/-- The device's report of a pod barrier to every other device of the pod set (R225): phase 2 where its members have all ended, which stands
for every later phase (R226, log entry 86). -/
def State.podReport (s : State) (l : Launch) (h : HBar) : State :=
  let ended := l.allEnded h
  let mark (x : HBar) : HBar := { x with told := true, toldGone := ended }
  let phase := if ended then 2 else ofBool h.phase
  let s := s.updLaunch l.lid fun l => { l with hbars := updFirst (fun x => x.is h.level h.inst h.idx) mark l.hbars }
  let vs := (List.range 64).filter fun v => l.record.podset.getLsbD v && vdnPhys (s.vdne l.f v) != s.phys &&
    !h.gone.contains (vdnPhys (s.vdne l.f v))
  let s := vs.foldl (fun s v =>
    s.sendCtrl (s.packetTo 0 l.f v (.podBarrier (bits l.record.barriers.toNat 31 20) l.record.podset h.idx phase))) s
  s.hbarSettle l.lid

/-- Pod barriers at which every member here has arrived: the device reports once the accesses that came first are performed, and never
while the launch is saved (R169, R225, R381); and once more when its members have all ended (R226). -/
def State.podFrames (s : State) : State :=
  s.launches.foldl (fun s l => l.hbars.foldl (fun s h =>
    if h.level != 6 || (if l.allEnded h then h.toldGone else h.told) || h.members.isEmpty || !l.hbarHere h || (s.saved.any fun b => b.block.lid == l.lid) then s
    else if (s.still h.before).isEmpty then s.podReport l h
    else s) s) s

/-- The `yield` of a thread whose 64 cycles are over ends (R101). -/
def Thread.rested (t : Thread) (now : Nat) : Thread :=
  match t.wait with
  | .yielding till => if till < now then { t with wait := .none } else t
  | _ => t

/-- What the device does beside a core's issue in each cycle: the yields that end with it among it, so that their threads are ready in it
(R101). -/
def State.keepHouse (s : State) (core : Nat) : State :=
  let s := { s with threads := s.threads.map fun (t : Thread) => t.rested s.clk }
  let s := s.clearFences.sendCloses.sendUnlocks.sendWants.podFrames
  ((s.lvqMismatch.endCkpts.startBlocks).beginWaits core).countStalls core

/-- The device's clock reaches the next cycle when the cores have been gone round (log entry 10). -/
def State.advance (s : State) (core : Nat) : State :=
  if core ≤ s.turn then { s with clk := s.clk + 1, turn := core }.copyUnits else { s with turn := core }

/-- A core's cycle: a clock-gated core with a ready thread runs again in it (R437). -/
def State.cycle (s : State) (core : Nat) : State :=
  if 192 ≤ core || !s.ports.isEmpty then s
  else
    let s := (s.advance core).keepHouse core
    let s := if (s.core core).power == .clockGate && s.coreReady core then s.ungate core else s
    if (s.core core).power == .run then s.fillPorts core else s.settleBars core

/-- R77. -/
def execIssueCycle (core : Nat) (s : State) : Res := .next (s.cycle core)

/-- R101. -/
def execYieldExpiry (bid tid : Nat) (s : State) : Res :=
  .next (s.updThread { bid, tid } fun (t : Thread) => t.rested s.clk)

/-- R105: the oldest request of a lane takes its blocks once they are free. -/
def execRegacqGrant (core lane : Nat) (s : State) : Res :=
  let c := s.core core
  .next (match c.regq.find? fun r => r.1 == lane with
    | some (_, k, n) =>
      if n ≤ s.freeRegs core lane && (s.block? k.bid).any (fun b => b.status == .running) then
        (s.setCore core { c with regq := c.regq.filter fun r => r.2.1 != k }).updThread k fun t => (t.grow n).next 4
      else s
    | none => s)

/-- Whether a thread's own older store-queue entries write bytes that a read touches (R253). -/
def State.storing (s : State) (a : Arriver) (src : Target) (n : Nat) : Bool :=
  (s.group? a.bid a.grp).any fun g => g.queue.any fun e => e.tid == a.tid && e.id < a.before && e.tgt.overlaps e.size src n

/-- The granule as a trailing copy's leader has it: landed there, with its segment, or in flight (R315). -/
def State.leaderSeg (s : State) (g : Seg) : Option (Nat × Nat × Seg) :=
  g.reader.bind fun r => ((s.core r).segOf g.tag g.granule).map fun x => (r, x)

/-- R109: all 4 KiB have arrived. A trailing copy reads none: they land in its segment as they have landed in its leader's (R315). -/
def State.landSeg (s : State) (core n : Nat) : State :=
  let c := s.core core
  match c.segs.find? fun e => e.1 == n with
  | none => s
  | some (_, g) =>
    let landed (bs : List Byte) (c : Core) : Core := { c with
      segs := Tab.set (fun _ => Seg.empty) c.segs n { g with landed := true, again := false }, imem := (c.imem.zero (4096 * n) 4096).store (4096 * n) bs }
    if g.landed || !c.fetches.contains n then s
    else match s.leaderSeg g with
    | some (r, m, x) => if x.landed then s.setCore core (landed ((s.core r).imem.bytes (4096 * m) 4096) c) else s
    | none =>
    if s.blocked core false g.src || (g.after.any fun a => s.storing a g.src 4096) then s
    else if s.poison g.src 4096 then
      (match (s.resident core).find? fun b => b.lid == g.lid with
      | some b => s.poisonKill b.bid g.src (BitVec.ofNat 64 (4096 * g.granule))
      | none => s)
    else
      let f := (s.launch? g.lid).elim 8 fun l => l.f
      let s := s.serveRead { State.devEnv f 0 g.tag with core } g.src 4096
      s.setCore core (landed (s.bytesAt 0 g.src 4096) (s.core core))

/-- R109, R111. -/
def execCodeGranuleLand (core seg : Nat) (s : State) : Res := .next (s.landSeg core seg)

/-! Spawn pools (R217 to R219). -/

/-- R218: the timer counts while the core runs. -/
def execSpawnTimerExpiry (core pool : Nat) (s : State) : Res :=
  let c := s.core core
  let ring (e : Nat × Pool) : Nat × Pool :=
    if e.1 = pool && c.power == .run && e.2.timer.any (fun t => t ≤ s.clk) then (e.1, { e.2 with timer := none, expired := true }) else e
  .next (s.setCore core { c with pools := c.pools.map ring })

/-- Whether a pool may launch (R219). -/
def State.mayLaunch (s : State) (p : Pool) : Bool :=
  p.recs.length == 32 || (p.expired && !p.recs.isEmpty) || (!p.recs.isEmpty && !(s.threads.any fun t => t.bid == p.bid))

/-- A pool's records become a group of its block (R107): the child comes after what its spawns release (R108), and may issue from the next cycle
on (R219). -/
def State.formGroup (s : State) (b : Block) (l : Launch) (pool : Nat) (p : Pool) (g half : Nat) : State :=
  let c := s.core b.core
  let ths := ((p.recs.zip p.before).zipIdx).map fun (x, k) =>
    { newThread b.bid g (32 * g + k) (32 * half + k) p.entry (x.1.1.toNat + 2 ^ 32 * x.1.2.toNat) l.record.regs with wait := .spawned x.2 s.clk }
  let s := s.setCore b.core { c with pools := c.pools.filter fun e => e.1 != pool }
  { s with groups := s.groups ++ [newGroup b.bid g ths.length], threads := s.threads ++ ths }

/-- A pool that may launch forms its group where a group index and a half of the lanes are free (R107, R219). In a redundant pair the leader's and
the trailer's form theirs together, with one index and one half, so that twins have equal `%grp`, `%tid` and `%lane` (R314, R315). -/
def State.launchPool (s : State) (core pool : Nat) : State :=
  let c := s.core core
  match c.pools.find? fun e => e.1 == pool, s.block? ((c.pools.find? fun e => e.1 == pool).elim 0 fun e => e.2.bid) with
  | some (_, p), some b =>
    let twin : Option (Block × Nat × Pool) := (s.block? b.mate).bind fun m =>
      ((s.core m.core).pools.find? fun e => e.2.bid == m.bid && e.2.entry == p.entry).map fun e => (m, e.1, e.2)
    let pools : List (Block × Nat × Pool) := (b, pool, p) :: (if b.role == .lead then twin.toList else [])
    (match (List.range 16).find? fun g => pools.all fun x => (s.group? x.1.bid g).isNone, s.launch? b.lid with
    | some g, some l =>
      let fits (half : Nat) : Bool := pools.all fun x => (List.range 32).all fun k => s.laneFits x.1.core (32 * half + k) l.record.regs
      if b.role == .trail || (b.role == .lead && twin.isNone) || !s.mayLaunch p || pools.any (fun x => x.1.status != .running) ||
          !(fits 0 || fits 1) then s
      else pools.foldl (fun s x => s.formGroup x.1 l x.2.1 x.2.2 g (if fits 0 then 0 else 1)) s
    | _, _ => s)
  | _, _ => s

/-- R219. -/
def execSpawnPoolLaunch (core pool : Nat) (s : State) : Res := .next (s.launchPool core pool)

/-! The end of groups and blocks (R100, R212). -/

/-- Whether anything that a group has issued is still under way. -/
def State.groupBusy (s : State) (g : Group) : Bool :=
  let mine (b x : Nat) : Bool := b == g.bid && x == g.idx
  !g.queue.isEmpty || g.unlocking.isSome || !g.losing.isEmpty || g.req.isSome || s.loads.any (fun l => mine l.bid l.grp) || s.nps.any (fun l => mine l.bid l.grp) ||
  s.posts.any (fun l => mine l.bid l.grp) || s.copies.any (fun l => mine l.bid l.grp) ||
  s.mcmds.any fun m => m.bid == g.bid && (m.grp == g.idx || (match m.kind with
    | .mma _ _ _ _ _ _ _ gang => gang.contains g.idx
    | _ => false))

/-- The state of a group's counters. -/
def Group.quiet (g : Group) : Bool := g.ld == 0 && g.st == 0 && g.cp == 0 && g.tl == 0

/-- A block whose groups have all ended, and no pool of whose core holds a record of it, ends (R100, R220). -/
def State.blockDone (s : State) (bid : Nat) : State :=
  match s.block? bid with
  | none => s
  | some b =>
    if (s.groups.any fun g => g.bid == bid) || ((s.core b.core).pools.any fun p => p.2.bid == bid) then s else s.endBlock bid

/-- An ended group is dropped from a gang that lists it: its index may come to be another group's (R212). -/
def Group.dropMember (bid grp : Nat) (x : Group) : Group :=
  if x.bid = bid then { x with gang := x.gang &&& ~~~(BitVec.ofNat 16 (2 ^ grp)) } else x

/-- A group with no live thread and all counters 0 ends: its locks pass on, its claims are released; a gang no longer waits for it (R100, R212,
R273). -/
def State.endGroup (s : State) (bid grp : Nat) : State :=
  match s.group? bid grp, s.block? bid with
  | some g, some b =>
    if !(s.live bid grp).isEmpty || !g.quiet || s.groupBusy g then s
    else
      let kill := match b.status with
        | .dying _ => true
        | _ => false
      let s := s.loseLocks bid grp
      let c := s.core b.core
      let free (e : Nat × SlotSt) : Nat × SlotSt :=
        if e.2.ofGroup bid grp then (e.1, if kill then SlotSt.scrub else SlotSt.free) else e
      let s := s.setCore b.core { c with claims := (c.claims.map free).filter fun e => e.2 != .free }
      { s with groups := (s.groups.filter fun (x : Group) => !x.is bid grp).map (Group.dropMember bid grp) }.blockDone bid
  | _, _ => s

/-- R212. -/
def execGroupEnd (bid grp : Nat) (s : State) : Res := .next (s.endGroup bid grp)

/-! Pod barriers (R225). -/

/-- R225: the launches of the frame's pod set count the report; where none stands placed it waits for one (log entry 111). -/
def execPodBarrierFrame (dev tag : Nat) (mask : BitVec 64) (idx phase : Nat) (s : State) : Res :=
  let x : PodHeard := { dev, tag, mask, idx, phase }
  match s.launches.filter fun l => x.isFor l && !l.hbars.isEmpty && !l.failed with
  | [] => .next { s with podHeard := s.podHeard ++ [x] }
  | ls => .next (ls.foldl (fun s l => (s.updLaunch l.lid x.tell).hbarSettle l.lid) s)

end Sys2Proof.Machine
end

