-- ==== Sys2Proof/Machine/EngineRun.lean ====
section
/-! DEFINITION. The copy engine at work: elements that land, faults that stop a copy, fabric copies, rows of `cp.bin`, and the delivery
of multicast lines (R172 to R182, R258, R265 to R270, R312). -/

namespace Sys2Proof.Machine

/-- Whether what an engine command's acquire waits for is still under way: its thread's older accesses, and its group's queue (R172). -/
def State.acqHeld (s : State) (bid grp tid : Nat) (before : Option Nat) : Bool :=
  match before with
  | none => false
  | some n => s.loads.any (fun l => l.bid == bid && l.tid == tid && l.id < n) ||
      s.nps.any (fun l => l.bid == bid && l.tid == tid && l.id < n) ||
      (match s.group? bid grp with
      | some g => g.queue.any fun q => q.id < n
      | none => false)

def State.updCopy (s : State) (c : CopyCmd) : State := { s with copies := updFirst (fun x => x.id == c.id) (fun _ => c) s.copies }

/-- A copy command completes or stops: its entry is freed and its issue settles (R84, R263, R266); the bytes of a release count now (R172). -/
def State.dropCopy (s : State) (c : CopyCmd) : State :=
  let s := c.owed.foldl (fun s o => s.landLate o.1 c.bind o.2) s
  { s with copies := s.copies.filter fun x => x.id != c.id }.settleCnt c.bid c.grp .cp c.tok

/-- Bytes that have landed are owed to a block's register until a release's command is complete (R172). -/
def CopyCmd.owe (c : CopyCmd) (bid n : Nat) : CopyCmd := if c.rel && c.bind.isSome then { c with owed := c.owed ++ [(bid, n)] } else c

/-- Bytes that have landed count on the bound register, without a release at once (R172, R182), and as an event (R439). -/
def State.landBytes (s : State) (c : CopyCmd) (n : Nat) : State := (if c.rel then s else s.landBar c.bid c.bind n).coreEvent c.core 13 n

/-- The bytes of the next access of an element of which `n` bytes are left: 16 bytes of host memory move as two accesses of 8 (R141, R251). -/
def Target.piece (t : Target) (n : Nat) : Nat :=
  match t with
  | .host _ => min 8 n
  | _ => n

/-- The next read of a started element of `n` bytes (R141, R258). -/
def State.readMore (s : State) (e : Env) (o : Begun) (n : Nat) : State × Begun :=
  let t := o.src.offset o.got.length
  let m := o.src.piece (n - o.got.length)
  (s.serveRead e t m, { o with got := o.got ++ s.bytesAt e.bid t m })

/-- The next write of an element that has been read. -/
def State.writeMore (s : State) (e : Env) (o : Begun) (n : Nat) : State × Begun :=
  let m := o.dst.piece (n - o.put)
  (s.writeTgt e none (o.dst.offset o.put) ((o.got.drop o.put).take m), { o with put := o.put + m })

def CopyCmd.updBegun (c : CopyCmd) (o : Begun) : CopyCmd := { c with begun := c.begun.map fun x => if x.k = o.k then o else x }

/-- The lines of a list of local addresses. -/
def linesOf (l : List (Nat × α)) : List Nat := (l.map fun x => lineOf x.1).eraseDups

/-- Bytes by address, a later one in place of an earlier one. -/
def lastBytes (l : List (Nat × Byte)) : List (Nat × Byte) := l.foldl (fun m x => m.filter (fun y => y.1 != x.1) ++ [x]) []

/-- One line of a merged issue is written under a byte mask (R265, R439). -/
def State.writeMask (s : State) (e : Env) (line : Nat) (bs : List (Nat × Byte)) : State :=
  (s.homeWriteMask e.f e.tag line bs).carried true e.core (128 * line) bs.length

/-! Per-lane copies (R174, R265). -/

/-- The parts of a per-lane issue, as elements whose places stand since its issue (R174). -/
def lanesOf (c : CopyCmd) (parts : List (VAddr × Target × Target)) : CopyCmd :=
  if c.begun.isEmpty && c.more.isEmpty then
    { c with begun := parts.zipIdx.map fun (p, k) => { k, src := p.2.1, dst := p.2.2, id := c.id, got := [], put := 0 } }
  else c

/-- Whether two targets lie in one line of local memory: the coalescer reads and writes it once for all of an issue (R265). -/
def sameLine (x y : Target) : Bool :=
  match x, y with
  | .loc a, .loc b => lineOf a == lineOf b
  | _, _ => false

/-- The next read of a lane's part, with all that the issue reads of its line of local memory (R258, R265). -/
def State.laneRead (s : State) (c : CopyCmd) (n : Nat) (o : Begun) : State :=
  let e := s.envOf c.bid
  match o.src with
  | .loc pa =>
    let here := c.begun.filter fun x => x.got.isEmpty && sameLine x.src o.src
    let pas := (here.map fun x => x.src).eraseDups
    let c := { c with begun := c.begun.map fun x => if here.any (fun y => y.k == x.k) then { x with got := s.bytesAt e.bid x.src n } else x }
    (s.serveRead e (.loc (128 * lineOf pa)) (min 128 (n * pas.length))).updCopy c
  | _ =>
    let (s, o) := s.readMore e o n
    s.updCopy (c.updBegun o)

/-- The next write of a lane's part, with all that the issue writes of its line, the higher lane's byte last (R174, R258, R265); elsewhere after the
lower lanes' writes of its bytes. The last one completes the command. -/
def State.laneWrite (s : State) (c : CopyCmd) (n : Nat) (o : Begun) : State :=
  let e := s.envOf c.bid
  let landed (s : State) (c : CopyCmd) (done : List Begun) : State :=
    let c := { c with begun := c.begun.filter fun x => !(done.any fun y => y.k == x.k), more := c.more ++ done.map fun (x : Begun) => x.k }.owe c.bid (n * done.length)
    let s := (s.updCopy c).landBytes c (n * done.length)
    if done.isEmpty || !c.begun.isEmpty then s else s.dropCopy c
  match o.dst with
  | .loc pa =>
    let here := c.begun.filter fun x => sameLine x.dst o.dst
    let bs := lastBytes (here.flatMap fun x => match x.dst with
      | .loc p => x.got.zipIdx.map fun y => (p + y.2, y.1)
      | _ => [])
    landed (s.writeMask e (lineOf pa) bs) c here
  | _ =>
    if c.begun.any fun x => x.k < o.k && x.dst.overlaps n o.dst n then s
    else
      let (s, o) := s.writeMore e o n
      landed s (c.updBegun o) (if o.put < n then [] else [o])

/-- The next access of part `k` of a per-lane issue: every read comes before any write (R174, R258). -/
def State.laneStep (s : State) (id k : Nat) : State :=
  match s.copies.find? fun c => c.id == id with
  | none => s
  | some c => match c.kind with
    | .lane n parts =>
      let c := lanesOf c parts
      let e := s.envOf c.bid
      (match c.begun.find? fun o => o.k == k with
      | none => s
      | some o =>
        let va := (parts.getD k (0, o.src, o.dst)).1
        if o.got.length < n then
          (if s.blocked e.core false o.src then s
          else if s.poison o.src n then (s.dropCopy c).poisonKill c.bid o.src va
          else s.laneRead c n o)
        else if (c.begun.any fun x => x.got.length < n) || s.blocked e.core true o.dst then s
        else if s.poison o.dst n then (s.dropCopy c).poisonKill c.bid o.dst 0
        else s.laneWrite c n o)
    | _ => s

/-- A per-lane issue lands: every read, then every write; part of it where accesses must wait (R174, R265). -/
def State.landLanes (s : State) (id parts : Nat) : State := (List.range (4 * parts)).foldl (fun s i => s.laneStep id (i % parts)) s

/-! Bulk copies (R176, R266). -/

/-- Where element `k` leads, or its fault. -/
def State.elemAt (s : State) (e : Env) (b : Bulk) (k : Nat) : Except TrapInfo (Target × Target) :=
  match s.resolve e .engR (b.srcAt k) b.z, s.resolve e .engW (b.dstAt k) b.z with
  | .error x, _ => .error x
  | _, .error x => .error x
  | .ok x, .ok y => .ok (x, y)

/-- Whether the engine may start elements: not of a block that is halted or killed (R266, R278, R377). -/
def State.mayStart (s : State) (c : CopyCmd) : Bool := (s.block? c.bid).any fun b => b.status == .running

/-- The engine starts every element up to `k`, in iteration order, at most 1,024 that have not landed: where each of them leads stands from then on
(R178, R266). Nothing where one of them faults. -/
def State.begin (s : State) (e : Env) (b : Bulk) (c : CopyCmd) (k : Nat) : Option CopyCmd :=
  let new := ((List.range (k + 1 - c.h)).map fun i => c.h + i).filter fun i => !c.more.contains i && !c.begun.any fun x => x.k == i
  let add (o : Option (List Begun)) (i : Nat) : Option (List Begun) := o.bind fun l => match s.elemAt e b i with
    | .ok (src, dst) => some (l ++ [{ k := i, src, dst, id := s.nextId, got := [], put := 0 }])
    | .error _ => none
  if c.h + 1024 ≤ k || !s.mayStart c then none else (new.foldl add (some c.begun)).map fun l => { c with begun := l }

/-- The landed prefix with elements landed beyond it. -/
def prefixOf (more : List Nat) (h : Nat) : Nat → Nat
  | 0 => h
  | n + 1 => if more.contains h then prefixOf more (h + 1) n else h

/-- Whether an element may be read: of the elements before it that write its source all have landed, or none has been written (R176). -/
def State.mayRead (s : State) (e : Env) (b : Bulk) (c : CopyCmd) (o : Begun) : Bool :=
  let left := c.begun.filter fun x => x.k < o.k && x.dst.overlaps b.z o.src b.z
  let wrote (k : Nat) : Bool := k < o.k && (match s.elemAt e b k with
    | .ok (_, y) => y.overlaps b.z o.src b.z
    | .error _ => false)
  left.isEmpty || (left.all (fun x => x.put == 0) && !(((List.range (c.h - c.base)).map fun i => c.base + i) ++ c.more).any wrote)

/-- Whether an element may be written: every element before it that reads a byte of its destination has been read (R176). -/
def mayWrite (b : Bulk) (c : CopyCmd) (o : Begun) : Bool :=
  c.begun.all fun x => o.k ≤ x.k || b.z ≤ x.got.length || !x.src.overlaps b.z o.dst b.z

/-- An element has landed; a copy that has no more to land is over (R176, R266). -/
def State.elemLanded (s : State) (c : CopyCmd) (b : Bulk) (k : Nat) : State :=
  let more := k :: c.more
  let h := prefixOf more c.h more.length
  let c := { c with h, more := more.filter (fun m => h ≤ m), begun := c.begun.filter fun o => o.k != k }.owe c.bid b.z
  let s := (s.updCopy c).landBytes c b.z
  if h = b.count || ((s.block? c.bid).any Block.dying && c.over) then s.dropCopy c else s

/-- The next access of a started element: a read, and once it is read a write; with the last one it has landed (R176, R258). -/
def State.elemStep (s : State) (id k : Nat) : State :=
  match s.copies.find? fun c => c.id == id with
  | none => s
  | some c => match c.kind, c.begun.find? fun o => o.k == k with
    | .bulk w, some o =>
      let b := bulkOf w
      let e := s.envOf c.bid
      if o.got.length < b.z then
        (if s.blocked e.core false o.src || !s.mayRead e b c o then s
        else if s.poison o.src b.z then (s.dropCopy c).poisonKill c.bid o.src (b.srcAt k)
        else
          let (s, o) := s.readMore e o b.z
          s.updCopy (c.updBegun o))
      else if s.blocked e.core true o.dst || !mayWrite b c o then s
      else if s.poison o.dst b.z then (s.dropCopy c).poisonKill c.bid o.dst (b.dstAt k)
      else
        let (s, o) := s.writeMore e o b.z
        if o.put < b.z then s.updCopy (c.updBegun o) else s.elemLanded c b k
    | _, _ => s

/-- The addresses of elements of a bulk copy. -/
def Bulk.addrs (b : Bulk) (k n : Nat) : List VAddr := (List.range n).flatMap fun i => [b.srcAt (k + i), b.dstAt (k + i)]

/-- The addresses of word `k` of a row. -/
def rowAddrs (src dst : VAddr) (k : Nat) : List VAddr :=
  (src + BitVec.ofNat 64 (4 * k)) :: [0, 1, 2, 3].map fun i => dst + BitVec.ofNat 64 (4 * k + i)

/-- The addresses that a copy translates next (R177, R178, R359). -/
def CopyCmd.nextAddrs (c : CopyCmd) : List VAddr :=
  match c.kind with
  | .bulk w =>
    let b := bulkOf w
    if b.count ≤ c.h || c.begun.any (fun o => o.k == c.h) then [] else b.addrs c.h (if c.fabric.isSome then b.runLen c.h 128 else 1)
  | .mcast w _ =>
    let b := bulkOf w
    if b.count ≤ c.h || !c.lines.isEmpty then [] else b.addrs c.h (b.runLen c.h 128)
  | .row src (some dst) n => if n ≤ 4 * c.h then [] else rowAddrs src dst c.h
  | _ => []

/-- The walks that a copy's next translations need (R359). -/
def State.copyMisses (s : State) (c : CopyCmd) : List WalkReq :=
  if (s.block? c.bid).isSome then s.missing (s.envOf c.bid) c.nextAddrs else []

/-- The engine starts an element of a bulk copy, where it is not started and may be (R266), and the walks of all up to it are done (R359). -/
def State.startElem (s : State) (c : CopyCmd) (b : Bulk) (k : Nat) : State :=
  if k < c.h || b.count ≤ k || c.more.contains k || c.begun.any (fun o => o.k == k) || !(s.missing (s.envOf c.bid) (b.addrs c.h (min 1024 (k + 1 - c.h)))).isEmpty then s
  else (s.begin (s.envOf c.bid) b c k).elim s s.updCopy

/-- An element of a bulk copy lands: it is started where it was not, read where it has not been read, and written (R176, R266). -/
def State.landElem (s : State) (c : CopyCmd) (b : Bulk) (k : Nat) : State :=
  [(), (), (), ()].foldl (fun s _ => s.elemStep c.id k) (s.startElem c b k)

/-! Fabric copies (R177, R267, R312). -/

/-- Where element `k` of a fabric copy to a VDN leads: its source and the peer's address. -/
def State.fabricElem (s : State) (e : Env) (v : Nat) (b : Bulk) (k : Nat) : Except TrapInfo (Target × Nat) :=
  match s.resolve e .engR (b.srcAt k) b.z, s.resolve e .fst (b.dstAt k) b.z with
  | .error x, _ => .error x
  | _, .error x => .error x
  | .ok x, .ok (.peer v' ipa) =>
    if v' = v then .ok (x, ipa) else .error { cause := .accessDenied, addr := b.dstAt k, aux := BitVec.ofNat 32 v' }
  | .ok _, .ok _ => .error { cause := .accessDenied, addr := b.dstAt k, aux := 0 }

/-- The elements from `k` on that resolve, at most `n`. -/
def State.fabricRun (s : State) (e : Env) (v : Nat) (b : Bulk) (k : Nat) : Nat → List (Target × Nat)
  | 0 => []
  | n + 1 => match s.fabricElem e v b k with
    | .ok x => x :: s.fabricRun e v b (k + 1) n
    | .error _ => []

/-- Whether a fabric copy stops because its VDN has another generation than at its issue: at the next line boundary of its destination (R312). -/
def State.regen (s : State) (f v gen : Nat) (b : Bulk) (h : Nat) : Bool :=
  bits (s.vdne f v) 15 8 != gen && (h == 0 || (b.dstAt h).toNat / 128 != (b.dstAt (h - 1)).toNat / 128)

/-- The next write of a fabric copy: one run of contiguous destination bytes within a line, accepted by the local port (R177, R267). -/
def State.landRun (s : State) (c : CopyCmd) (b : Bulk) (win v gen k : Nat) : State :=
  let e := s.envOf c.bid
  let els := s.fabricRun e v b c.h (b.runLen c.h 128)
  if k != c.h || b.count ≤ k || !s.mayStart c || s.regen e.f v gen b c.h || !(s.copyMisses c).isEmpty then s
  else match els with
    | [] => s
    | (_, ipa) :: _ =>
      if els.any fun y => s.blocked e.core false y.1 then s
      else match els.find? fun y => s.poison y.1 b.z with
        | some y => ((s.takeBack e.f c).dropCopy c).poisonKill c.bid y.1 (b.srcAt k)
        | none =>
          let data := els.flatMap fun y => s.bytesAt e.bid y.1 b.z
          let s := els.foldl (fun s y => s.serveRead e y.1 b.z) s
          let w := s.window e.f win
          let c := { c with h := c.h + els.length }.owe c.bid data.length
          let s := match w.copies.find? fun r => r.cmd == c.id with
            | none => s
            | some r =>
              let w := w.updCopyRec c.id fun r => { r with sent := r.sent + 1, landed := c.h, final := c.h == b.count }
              (s.setWindow e.f win w).sendTo r.handle e.f v (.write win w.inc.toNat r.epoch 0 ipa data)
          let s := (s.updCopy c).landBytes c data.length
          if c.h = b.count then s.dropCopy c else s

/-! Rows of `cp.bin` (R178, R179). -/

/-- Where the four bytes of word `k` of a row go, or the fault. -/
def State.rowWord (s : State) (e : Env) (src dst : VAddr) (k : Nat) : Except TrapInfo (Target × List Target) :=
  match s.resolve e .engR (src + BitVec.ofNat 64 (4 * k)) 4 with
  | .error x => .error x
  | .ok x =>
    let put := [0, 1, 2, 3].map fun i => s.resolve e .engW (dst + BitVec.ofNat 64 (4 * k + i)) 1
    put.foldr (fun r l => match r, l with
      | .error x, _ => .error x
      | .ok _, .error x => .error x
      | .ok y, .ok (x, ys) => .ok (x, y :: ys)) (.ok (x, []))

/-- Word `k` of a row is read ahead of its writes (R258). -/
def State.readWord (s : State) (c : CopyCmd) (src dst : VAddr) (n k : Nat) : State :=
  let e := s.envOf c.bid
  if k < c.h || n ≤ 4 * k || c.begun.any (fun o => o.k == k) || !(s.missing e (rowAddrs src dst k)).isEmpty then s
  else match s.rowWord e src dst k with
    | .error _ => s
    | .ok (x, _) =>
      if s.blocked e.core false x then s
      else if s.poison x 4 then (s.dropCopy c).poisonKill c.bid x (src + BitVec.ofNat 64 (4 * k))
      else (s.serveRead e x 4).updCopy { c with begun := c.begun ++ [{ k, src := x, dst := x, id := s.nextId, got := s.bytesAt e.bid x 4, put := 0 }] }

/-- The next word of a row, read, is written. -/
def State.writeWord (s : State) (c : CopyCmd) (src dst : VAddr) (n k : Nat) : State :=
  let e := s.envOf c.bid
  match c.begun.find? fun o => o.k == k, s.rowWord e src dst k with
  | some o, .ok (_, ys) =>
    if k != c.h || ys.any (fun y => s.blocked e.core true y) || !(s.missing e (rowAddrs src dst k)).isEmpty then s
    else match ys.find? fun y => s.poison y 1 with
      | some y => (s.dropCopy c).poisonKill c.bid y (dst + BitVec.ofNat 64 (4 * k))
      | none =>
        let s := (ys.zip o.got).foldl (fun s y => s.writeTgt e none y.1 [y.2]) s
        let c := { c with h := k + 1, begun := c.begun.filter fun x => x.k != k }
        let s := (s.updCopy c).landBytes c 4
        if n ≤ 4 * (k + 1) then s.dropCopy c else s
  | _, _ => s

/-- The next word of a row lands. -/
def State.landWord (s : State) (c : CopyCmd) (src dst : VAddr) (n k : Nat) : State :=
  let s := s.readWord c src dst n k
  match s.copies.find? fun x => x.id == c.id with
  | some c => s.writeWord c src dst n k
  | none => s

/-! Multicast (R180, R181, R269). -/

/-- The elements from `k` on of a multicast that resolve, at most `n`: source and scratchpad offset. -/
def State.castRun (s : State) (e : Env) (b : Bulk) (k : Nat) : Nat → List (Target × Nat)
  | 0 => []
  | n + 1 => match s.elemAt e b k with
    | .ok (x, .scratch o) => (x, o) :: s.castRun e b (k + 1) n
    | _ => []

/-- Whether the staging buffer of a multicast's quad has room for a line at the cores named, beside the lines that other multicasts have read
(R181). -/
def State.castRoom (s : State) (c : CopyCmd) (cores : List Nat) : Bool :=
  let q := quadOf c.core
  let lid (bid : Nat) : Nat := (s.block? bid).elim 0 fun b => b.lid
  let need (c : CopyCmd) (cores : List Nat) : Nat := (cores.map fun k => (s.stagedFor (lid c.bid) (4 * q + k)).length).sum
  let others := (s.copies.filter fun o => o.id != c.id && quadOf o.core == q).map fun o => need o (o.lines.map fun l => l.2.1)
  need c cores = 0 || (s.quad q).staging.length + others.sum + need c cores ≤ 512

/-- The bytes of the next line of a multicast are read, for every core that its mask names, once the staging buffer has room. -/
def State.readLine (s : State) (c : CopyCmd) (b : Bulk) (mask : Word) (k : Nat) : State :=
  let e := s.envOf c.bid
  if k != c.h || b.count ≤ k || !c.lines.isEmpty || !s.mayStart c || !(s.copyMisses c).isEmpty || !s.castRoom c ((List.range 4).filter fun q => bit mask.toNat q) then s
  else
    let els := s.castRun e b c.h (b.runLen c.h 128)
    match els with
    | [] => s
    | (_, off) :: _ =>
      if els.any fun y => s.blocked e.core false y.1 then s
      else match els.find? fun y => s.poison y.1 b.z with
        | some y => (s.dropCopy c).poisonKill c.bid y.1 (b.srcAt k)
        | none =>
          let data := els.flatMap fun y => s.bytesAt e.bid y.1 b.z
          let s := els.foldl (fun s y => s.serveRead e y.1 b.z) s
          let cores := (List.range 4).filter fun q => bit mask.toNat q
          if cores.isEmpty then
            let c := { c with h := c.h + els.length }
            let s := s.updCopy c
            if c.h = b.count then s.dropCopy c else s
          else s.updCopy { c with lines := cores.map fun q => (k, q, off, data) }

/-- One core's delivery of a line that has been read; after the last one the line has landed. -/
def State.castLine (s : State) (id idx core : Nat) : State :=
  match s.copies.find? fun c => c.id == id with
  | none => s
  | some c => match c.kind, c.lines.find? fun l => l.1 == idx && l.2.1 == core % 4 with
    | .mcast w _, some (k, q, off, data) =>
      let at_ := c.core / 4 * 4 + q
      (match s.deliverLine c at_ off data with
      | none => s
      | some t =>
        let b := bulkOf w
        let lines := c.lines.filter fun l => l.2.1 != q
        let c := { c with lines, h := if lines.isEmpty then k + data.length / b.z else c.h }
        let c := (s.writtenAt c at_).foldl (fun (c : CopyCmd) (b : Block) => c.owe b.bid data.length) c
        let s := t.updCopy c
        let s := if lines.isEmpty then s.coreEvent c.core 13 data.length else s
        if lines.isEmpty && (c.h == b.count || (s.block? c.bid).any Block.dying) then s.dropCopy c else s)
    | _, _ => s

/-- R180, R269. -/
def execMcastLineDeliver (cmd idx core : Nat) (s : State) : Res := .next (s.castLine cmd idx core)

/-! The two events. -/

/-- An element of a copy lands. An index beyond its elements stands for the next access of one of them alone, which is started, read or written ahead
of its landing (R258, log entry 101). -/
def State.copyLand (s : State) (id idx : Nat) : State :=
  match s.copies.find? fun c => c.id == id with
  | none => s
  | some c =>
    if s.acqHeld c.bid c.grp c.tid c.before then s
    else match c.kind, c.fabric with
      | .lane _ parts, _ => if idx < parts.length then s.landLanes id parts.length else s.laneStep id (idx - parts.length)
      | .bulk w, none =>
        let b := bulkOf w
        if idx < b.count then s.landElem c b idx else (s.startElem c b (idx - b.count)).elemStep id (idx - b.count)
      | .bulk w, some (win, v, gen) => s.landRun c (bulkOf w) win v gen idx
      | .mcast w mask, _ => s.readLine c (bulkOf w) mask idx
      | .row src (some dst) n, _ => if 4 * idx < n then s.landWord c src dst n idx else s.readWord c src dst n (idx - (n + 3) / 4)
      | .row _ none _, _ => s

/-- The fault of a copy's first element that has not landed, and the bytes landed before it (R178, R266). -/
def State.copyFault (s : State) (c : CopyCmd) : Option (TrapInfo × Nat) :=
  let e := s.envOf c.bid
  let err {α : Type} (r : Except TrapInfo α) (n : Nat) : Option (TrapInfo × Nat) := match r with
    | .error x => some (x, n)
    | .ok _ => none
  match c.kind, c.fabric with
  | .bulk w, none =>
    let b := bulkOf w
    if c.h < b.count && !(c.begun.any fun o => o.k == c.h) then err (s.elemAt e b c.h) (c.h * b.z) else none
  | .bulk w, some (_, v, gen) =>
    let b := bulkOf w
    if b.count ≤ c.h then none
    else if s.regen e.f v gen b c.h then some ({ cause := .vdnInvalid, addr := b.dstAt c.h, aux := 0 }, c.h * b.z)
    else err (s.fabricElem e v b c.h) (c.h * b.z)
  | .mcast w _, _ =>
    let b := bulkOf w
    if b.count ≤ c.h || !c.lines.isEmpty then none
    else (match s.elemAt e b c.h with
      | .error x => some (x, c.h * b.z)
      | .ok (_, .scratch _) => none
      | .ok _ => some ({ cause := .accessDenied, addr := b.dstAt c.h, aux := 0 }, c.h * b.z))
  | .row src (some dst) n, _ => if 4 * c.h < n then err (s.rowWord e src dst c.h) (4 * c.h) else none
  | _, _ => none

/-- Whether the engine comes to a copy's next element: it starts no further element of a halted or killed block, and `cp.bin` completes (R266). -/
def State.comesTo (s : State) (c : CopyCmd) : Bool :=
  match c.kind with
  | .row _ _ _ => true
  | _ => s.mayStart c

/-- A copy stops at the first faulting element (R178, R267). -/
def State.copyStop (s : State) (c : CopyCmd) : State :=
  if s.acqHeld c.bid c.grp c.tid c.before || !s.comesTo c || !(s.copyMisses c).isEmpty then s
  else match s.copyFault c with
    | none => s
    | some (x, n) =>
      let lid := (s.block? c.bid).elim 0 fun b => b.lid
      let s := s.takeBack (s.envOf c.bid).f c
      (s.dropCopy c).deferTrap lid { bid := c.bid, tid := c.tid } c.pc { cause := x.cause.code, addr := x.addr, aux := BitVec.ofNat 32 n }

end Sys2Proof.Machine
end

