-- ==== Sys2Proof/Machine/Float.lean ====
section
/-! DEFINITION. The floating-point instructions that act on one thread: FP32 and packed arithmetic, compares, special functions,
the flag word and conversions (R112 to R128). A `lim` pair's rounding mode and seed come in as arguments (R28). -/

namespace Sys2Proof.Machine

/-- Writes a result to a register and records its conditions (R61). -/
def Thread.setFp (t : Thread) (d : Nat) (r : Nat × Conds) : Thread := (t.setReg d r.1).raise r.2

/-- Writes a predicate and records conditions (R116). -/
def Thread.setFpPred (t : Thread) (d : Nat) (b : Bool) (c : Conds) : Thread := (t.setPred d b).raise c

/-- A two-operand result. -/
def fp2 (d a b : Nat) (f : Nat → Nat → Nat × Conds) (t : Thread) : Thread := t.setFp d (f (t.reg a) (t.reg b))

/-- A three-operand result, the third being d's old value. -/
def fp3 (d a b : Nat) (f : Nat → Nat → Nat → Nat × Conds) (t : Thread) : Thread :=
  t.setFp d (f (t.reg a) (t.reg b) (t.reg d))

/-- A one-operand result. -/
def fp1 (d a : Nat) (f : Nat → Nat × Conds) (t : Thread) : Thread := t.setFp d (f (t.reg a))

/-- An FP32 compare (R116): `quiet` raises NV for a signalling NaN alone. -/
def fcmp (d a b : Nat) (quiet : Bool) (f : Val → Val → Bool) (t : Thread) : Thread :=
  let x := Fmt.fp32.decode (t.reg a)
  let y := Fmt.fp32.decode (t.reg b)
  t.setFpPred d (f x y) (if quiet then quietNv x y else if x.isNan || y.isNan then Conds.nv else 0)

/-- The floating-point format of a `cvt` code (R124). -/
def cvtFmt (z : Nat) : Option Fmt :=
  match z with
  | 0 => some .fp32 | 1 => some .fp16 | 2 => some .bf16 | 3 => some .e5m2 | 4 => some .e4m3 | 5 => some .e2m1 | _ => none

/-- The integer format of a `cvt` code (R124). -/
def cvtInt (z : Nat) : IntFmt :=
  match z with
  | 8 => ⟨32, true⟩ | 9 => ⟨32, false⟩ | 10 => ⟨64, true⟩ | 11 => ⟨64, false⟩ | 12 => ⟨8, true⟩ | 13 => ⟨8, false⟩
  | 14 => ⟨4, true⟩ | _ => ⟨4, false⟩

/-- The exact value of a `cvt` source (R127). -/
def cvtVal (z w : Nat) : Val :=
  match cvtFmt z with
  | some f => f.decode (w % 2 ^ (f.sign + 1))
  | none => let f := cvtInt z; Val.ofInt (if f.signed then sgn f.bits w else (w % 2 ^ f.bits : Nat))

/-- The result of `cvt`: destination code `y`, source code `z`, `.sat`, rounding, and the seed of `.sr` (R127, R128). -/
def cvtC (y z : Nat) (sat : Bool) (m : Mode) (seed : Option Nat) (w : Nat) : Nat × Conds :=
  if y = 6 then toE8m0 m sat (Fmt.fp32.decode (w % 2 ^ 32))
  else if z = 6 then (ofE8m0 (w % 256), 0)
  else match cvtFmt y with
    | some f => (match seed with
      | some k => cvtSr f sat k (cvtVal z w)
      | none => cvtF f m sat (cvtVal z w))
    | none =>
      let f := cvtInt y
      let (n, c) := toInt f m (cvtVal z w)
      (low f.bits n, c)

/-- Reads a `cvt` source, and writes the destination at its placement with zeros above (R124). The seed register steps before
the result is written (R59). -/
def cvtTo (d a y z : Nat) (sat : Bool) (m : Mode) (seed : Option Nat) (t : Thread) : Thread :=
  let w := if z = 10 || z = 11 then t.pair a else t.reg a
  let k := seed.map fun n => srStep (t.reg n)
  let r := cvtC y z sat m k w
  let t := match seed, k with
    | some n, some k => t.setReg n k
    | _, _ => t
  (if y = 10 || y = 11 then t.setPair d r.1 else t.setReg d r.1).raise r.2

/-- The rounding that a `lim` payload selects (R28). -/
def limMode (h : Option Nat) : Mode := Mode.of (h.getD 0)

/-- The seed register of a `cvt` with `.sr` (R28, R59). -/
def limSeedReg (h : Option Nat) : Option Nat :=
  match h with
  | some h => if bit h 2 then some (bits h 9 3) else none
  | none => none

/-! What each extendable instruction does under an optional payload. -/

def faddOp (h : Option Nat) (d a b : Nat) : Thread → Thread := fp2 d a b (faddC .fp32 (limMode h))
def fsubOp (h : Option Nat) (d a b : Nat) : Thread → Thread := fp2 d a b (fsubC .fp32 (limMode h))
def fmulOp (h : Option Nat) (d a b : Nat) : Thread → Thread := fp2 d a b (fmulC .fp32 (limMode h))
def ffmaOp (h : Option Nat) (d a b : Nat) : Thread → Thread := fp3 d a b (ffmaC .fp32 (limMode h))
def packAddOp (f : Fmt) (h : Option Nat) (d a b : Nat) : Thread → Thread := fp2 d a b (packed2 f (faddC f (limMode h)))
def packSubOp (f : Fmt) (h : Option Nat) (d a b : Nat) : Thread → Thread := fp2 d a b (packed2 f (fsubC f (limMode h)))
def packMulOp (f : Fmt) (h : Option Nat) (d a b : Nat) : Thread → Thread := fp2 d a b (packed2 f (fmulC f (limMode h)))
def packFmaOp (f : Fmt) (h : Option Nat) (d a b : Nat) : Thread → Thread := fp3 d a b (packed3 f (ffmaC f (limMode h)))
def frndOp (h : Option Nat) (d a : Nat) : Thread → Thread := fp1 d a (frndC (limMode h))
def fdot2Op (f : Fmt) (h : Option Nat) (d a b : Nat) : Thread → Thread := fp3 d a b (fdot2C f (limMode h))
def cvtOp (h : Option Nat) (d a x y z : Nat) (t : Thread) : Thread :=
  cvtTo d a y z (x == 1) (limMode h) (limSeedReg h) t

/-- R114. -/
def execFadd (g : BitVec 3) (d : BitVec 7) (a : BitVec 7) (b : BitVec 7) (s : State) : Res :=
  s.each (.fadd g d a b) fun t => faddOp none d.toNat a.toNat b.toNat t

/-- R114. -/
def execFsub (g : BitVec 3) (d : BitVec 7) (a : BitVec 7) (b : BitVec 7) (s : State) : Res :=
  s.each (.fsub g d a b) fun t => fsubOp none d.toNat a.toNat b.toNat t

/-- R114. -/
def execFmul (g : BitVec 3) (d : BitVec 7) (a : BitVec 7) (b : BitVec 7) (s : State) : Res :=
  s.each (.fmul g d a b) fun t => fmulOp none d.toNat a.toNat b.toNat t

/-- R114. -/
def execFfma (g : BitVec 3) (d : BitVec 7) (a : BitVec 7) (b : BitVec 7) (s : State) : Res :=
  s.each (.ffma g d a b) fun t => ffmaOp none d.toNat a.toNat b.toNat t

/-- R115. -/
def execFmin (g : BitVec 3) (d : BitVec 7) (a : BitVec 7) (b : BitVec 7) (s : State) : Res :=
  s.each (.fmin g d a b) fun t => fp2 d.toNat a.toNat b.toNat (fminmaxC false .fp32) t

/-- R115. -/
def execFmax (g : BitVec 3) (d : BitVec 7) (a : BitVec 7) (b : BitVec 7) (s : State) : Res :=
  s.each (.fmax g d a b) fun t => fp2 d.toNat a.toNat b.toNat (fminmaxC true .fp32) t

/-- R116. -/
def execFcmpEq (g : BitVec 3) (d : BitVec 3) (a : BitVec 7) (b : BitVec 7) (s : State) : Res :=
  s.each (.fcmpEq g d a b) fun t => fcmp d.toNat a.toNat b.toNat true Val.eq t

/-- R116. -/
def execFcmpLt (g : BitVec 3) (d : BitVec 3) (a : BitVec 7) (b : BitVec 7) (s : State) : Res :=
  s.each (.fcmpLt g d a b) fun t => fcmp d.toNat a.toNat b.toNat false Val.lt t

/-- R116. -/
def execFcmpLe (g : BitVec 3) (d : BitVec 3) (a : BitVec 7) (b : BitVec 7) (s : State) : Res :=
  s.each (.fcmpLe g d a b) fun t => fcmp d.toNat a.toNat b.toNat false (fun x y => x.lt y || x.eq y) t

/-- R116. -/
def execFcmpUn (g : BitVec 3) (d : BitVec 3) (a : BitVec 7) (b : BitVec 7) (s : State) : Res :=
  s.each (.fcmpUn g d a b) fun t => fcmp d.toNat a.toNat b.toNat true (fun x y => x.isNan || y.isNan) t

/-- R117. -/
def execFabs (g : BitVec 3) (d : BitVec 7) (a : BitVec 7) (s : State) : Res :=
  s.each (.fabs g d a) fun t => t.setReg d.toNat (t.reg a.toNat % 2 ^ 31)

/-- R117. -/
def execFneg (g : BitVec 3) (d : BitVec 7) (a : BitVec 7) (s : State) : Res :=
  s.each (.fneg g d a) fun t => t.setReg d.toNat (t.reg a.toNat ^^^ 2 ^ 31)

/-- R119. -/
def execFaddF16x2 (g : BitVec 3) (d : BitVec 7) (a : BitVec 7) (b : BitVec 7) (s : State) : Res :=
  s.each (.faddF16x2 g d a b) fun t => packAddOp .fp16 none d.toNat a.toNat b.toNat t

/-- R119. -/
def execFsubF16x2 (g : BitVec 3) (d : BitVec 7) (a : BitVec 7) (b : BitVec 7) (s : State) : Res :=
  s.each (.fsubF16x2 g d a b) fun t => packSubOp .fp16 none d.toNat a.toNat b.toNat t

/-- R119. -/
def execFmulF16x2 (g : BitVec 3) (d : BitVec 7) (a : BitVec 7) (b : BitVec 7) (s : State) : Res :=
  s.each (.fmulF16x2 g d a b) fun t => packMulOp .fp16 none d.toNat a.toNat b.toNat t

/-- R119. -/
def execFfmaF16x2 (g : BitVec 3) (d : BitVec 7) (a : BitVec 7) (b : BitVec 7) (s : State) : Res :=
  s.each (.ffmaF16x2 g d a b) fun t => packFmaOp .fp16 none d.toNat a.toNat b.toNat t

/-- R119. -/
def execFminF16x2 (g : BitVec 3) (d : BitVec 7) (a : BitVec 7) (b : BitVec 7) (s : State) : Res :=
  s.each (.fminF16x2 g d a b) fun t => fp2 d.toNat a.toNat b.toNat (packed2 .fp16 (fminmaxC false .fp16)) t

/-- R119. -/
def execFmaxF16x2 (g : BitVec 3) (d : BitVec 7) (a : BitVec 7) (b : BitVec 7) (s : State) : Res :=
  s.each (.fmaxF16x2 g d a b) fun t => fp2 d.toNat a.toNat b.toNat (packed2 .fp16 (fminmaxC true .fp16)) t

/-- R119. -/
def execFaddBf16x2 (g : BitVec 3) (d : BitVec 7) (a : BitVec 7) (b : BitVec 7) (s : State) : Res :=
  s.each (.faddBf16x2 g d a b) fun t => packAddOp .bf16 none d.toNat a.toNat b.toNat t

/-- R119. -/
def execFsubBf16x2 (g : BitVec 3) (d : BitVec 7) (a : BitVec 7) (b : BitVec 7) (s : State) : Res :=
  s.each (.fsubBf16x2 g d a b) fun t => packSubOp .bf16 none d.toNat a.toNat b.toNat t

/-- R119. -/
def execFmulBf16x2 (g : BitVec 3) (d : BitVec 7) (a : BitVec 7) (b : BitVec 7) (s : State) : Res :=
  s.each (.fmulBf16x2 g d a b) fun t => packMulOp .bf16 none d.toNat a.toNat b.toNat t

/-- R119. -/
def execFfmaBf16x2 (g : BitVec 3) (d : BitVec 7) (a : BitVec 7) (b : BitVec 7) (s : State) : Res :=
  s.each (.ffmaBf16x2 g d a b) fun t => packFmaOp .bf16 none d.toNat a.toNat b.toNat t

/-- R119. -/
def execFminBf16x2 (g : BitVec 3) (d : BitVec 7) (a : BitVec 7) (b : BitVec 7) (s : State) : Res :=
  s.each (.fminBf16x2 g d a b) fun t => fp2 d.toNat a.toNat b.toNat (packed2 .bf16 (fminmaxC false .bf16)) t

/-- R119. -/
def execFmaxBf16x2 (g : BitVec 3) (d : BitVec 7) (a : BitVec 7) (b : BitVec 7) (s : State) : Res :=
  s.each (.fmaxBf16x2 g d a b) fun t => fp2 d.toNat a.toNat b.toNat (packed2 .bf16 (fminmaxC true .bf16)) t

/-- R122, R123. -/
def execRcp (g : BitVec 3) (d : BitVec 7) (a : BitVec 7) (s : State) : Res :=
  s.each (.rcp g d a) fun t => fp1 d.toNat a.toNat rcpC t

/-- R122, R123. -/
def execRsq (g : BitVec 3) (d : BitVec 7) (a : BitVec 7) (s : State) : Res :=
  s.each (.rsq g d a) fun t => fp1 d.toNat a.toNat rsqC t

/-- R122, R123. -/
def execSqrt (g : BitVec 3) (d : BitVec 7) (a : BitVec 7) (s : State) : Res :=
  s.each (.sqrt g d a) fun t => fp1 d.toNat a.toNat sqrtC t

/-- R122, R123. -/
def execExp2 (g : BitVec 3) (d : BitVec 7) (a : BitVec 7) (s : State) : Res :=
  s.each (.exp2 g d a) fun t => fp1 d.toNat a.toNat exp2C t

/-- R122, R123. -/
def execLog2 (g : BitVec 3) (d : BitVec 7) (a : BitVec 7) (s : State) : Res :=
  s.each (.log2 g d a) fun t => fp1 d.toNat a.toNat log2C t

/-- R122, R123. -/
def execSin (g : BitVec 3) (d : BitVec 7) (a : BitVec 7) (s : State) : Res :=
  s.each (.sin g d a) fun t => fp1 d.toNat a.toNat (trigC false) t

/-- R122, R123. -/
def execCos (g : BitVec 3) (d : BitVec 7) (a : BitVec 7) (s : State) : Res :=
  s.each (.cos g d a) fun t => fp1 d.toNat a.toNat (trigC true) t

/-- R118. -/
def execFrnd (g : BitVec 3) (d : BitVec 7) (a : BitVec 7) (s : State) : Res :=
  s.each (.frnd g d a) fun t => frndOp none d.toNat a.toNat t

/-- R121. -/
def execRdflg (g : BitVec 3) (d : BitVec 7) (s : State) : Res :=
  s.each (.rdflg g d) fun t => t.setReg d.toNat t.flags.toNat

/-- R121. -/
def execClrflg (g : BitVec 3) (a : BitVec 7) (s : State) : Res :=
  s.each (.clrflg g a) fun t => { t with flags := t.flags &&& ~~~(BitVec.ofNat 5 (t.reg a.toNat)) }

/-- R120. -/
def execFdot2F16 (g : BitVec 3) (d : BitVec 7) (a : BitVec 7) (b : BitVec 7) (s : State) : Res :=
  s.each (.fdot2F16 g d a b) fun t => fdot2Op .fp16 none d.toNat a.toNat b.toNat t

/-- R120. -/
def execFdot2Bf16 (g : BitVec 3) (d : BitVec 7) (a : BitVec 7) (b : BitVec 7) (s : State) : Res :=
  s.each (.fdot2Bf16 g d a b) fun t => fdot2Op .bf16 none d.toNat a.toNat b.toNat t

/-- R127, R128. -/
def execCvt (g : BitVec 3) (d : BitVec 7) (a : BitVec 7) (x : BitVec 1) (y : BitVec 4) (z : BitVec 4) (s : State) : Res :=
  s.each (.cvt g d a x y z) fun t => cvtOp none d.toNat a.toNat x.toNat y.toNat z.toNat t

end Sys2Proof.Machine
end

