-- ==== Sys2Proof/Machine/Integer.lean ====
section
/-! DEFINITION. The integer, immediate, compare, select and move instructions, and the predicate instructions (R87 to R94). -/

namespace Sys2Proof.Machine

/-- A left shift by the whole amount, kept to `n` bits (R89). -/
def shl (n x k : Nat) : Nat := if n ≤ k then 0 else x * 2 ^ k % 2 ^ n

/-- A logical right shift (R89). -/
def shrZ (n x k : Nat) : Nat := if n ≤ k then 0 else x / 2 ^ k

/-- floor(As / 2^B), kept to `n` bits (R89). -/
def shrS (n x k : Nat) : Nat :=
  if n ≤ k then (if sgn n x < 0 then 2 ^ n - 1 else 0) else low n (sgn n x / (2 ^ k : Nat))

/-- A left rotation of 32 bits by B modulo 32 (R89). -/
def rot (x k : Nat) : Nat := (x * 2 ^ (k % 32) + x / 2 ^ (32 - k % 32)) % 2 ^ 32

/-- The number of 1 bits among the low `n` (R89). -/
def popc (x : Nat) : Nat → Nat
  | 0 => 0
  | n + 1 => ofBool (bit x n) + popc x n

/-- The number of 0 bits above the most significant 1, of `n` (R89). -/
def clz (x : Nat) : Nat → Nat
  | 0 => 0
  | n + 1 => if bit x n then 0 else 1 + clz x n

/-- One result byte of `bsel.b32` (R90). -/
def bselByte (x b i : Nat) : Nat :=
  let y := x / 2 ^ (8 * bits b (3 * i + 2) (3 * i)) % 256
  if bit b (12 + i) then (if bit y 7 then 255 else 0) else y

/-- `bsel.b32` of a pair under a control word (R90). -/
def bsel (x b : Nat) : Nat := bselByte x b 0 + 2 ^ 8 * bselByte x b 1 + 2 ^ 16 * bselByte x b 2 + 2 ^ 24 * bselByte x b 3

/-- The position and clipped length of a bit field (R90). -/
def fieldAt (b : Nat) : Nat × Nat :=
  let q := min (bits b 7 0) 32
  let n := bits b 15 8
  (q, if q + n > 32 then 32 - q else n)

/-- `bfx.b32` (R90). -/
def bfx (x b : Nat) : Nat :=
  let (q, n) := fieldAt b
  let y := x / 2 ^ q % 2 ^ n
  if bit b 16 && 0 < n && bit y (n - 1) then y + 2 ^ 32 - 2 ^ n else y

/-- `bfi.b32` of A into D (R90): bits q to q + n − 1 are A's low bits. -/
def bfi (x old b : Nat) : Nat :=
  let (q, n) := fieldAt b
  old % 2 ^ q + x % 2 ^ n * 2 ^ q + old / 2 ^ (q + n) * 2 ^ (q + n)

/-- The immediate of `addi`, single or composed (R28, R91). -/
def addImm (h : Option Nat) (i : BitVec 9) : Int :=
  match h with
  | none => sgn 9 i.toNat
  | some h => sgn 32 (h * 2 ^ 9 + i.toNat)

/-- The immediate of `movi`, single or composed (R28, R91). -/
def movImm (h : Option Nat) (i : BitVec 16) : Nat :=
  match h with
  | none => low 32 (sgn 16 i.toNat)
  | some h => h * 2 ^ 16 + i.toNat

/-- R88. -/
def execAddB32 (g : BitVec 3) (d : BitVec 7) (a : BitVec 7) (b : BitVec 7) (s : State) : Res :=
  s.each (.addB32 g d a b) fun t => t.setReg d.toNat (t.reg a.toNat + t.reg b.toNat)

/-- R88. -/
def execSubB32 (g : BitVec 3) (d : BitVec 7) (a : BitVec 7) (b : BitVec 7) (s : State) : Res :=
  s.each (.subB32 g d a b) fun t => t.setReg d.toNat (low 32 ((t.reg a.toNat : Int) - t.reg b.toNat))

/-- R88. -/
def execAddB64 (g : BitVec 3) (d : BitVec 7) (a : BitVec 7) (b : BitVec 7) (s : State) : Res :=
  s.each (.addB64 g d a b) fun t => t.setPair d.toNat (t.pair a.toNat + t.pair b.toNat)

/-- R88. -/
def execSubB64 (g : BitVec 3) (d : BitVec 7) (a : BitVec 7) (b : BitVec 7) (s : State) : Res :=
  s.each (.subB64 g d a b) fun t => t.setPair d.toNat (low 64 ((t.pair a.toNat : Int) - t.pair b.toNat))

/-- R88. -/
def execAddcB32 (g : BitVec 3) (d : BitVec 7) (a : BitVec 7) (b : BitVec 7) (s : State) : Res :=
  s.each (.addcB32 g d a b) fun t => t.setReg d.toNat ((t.reg a.toNat + t.reg b.toNat) / 2 ^ 32)

/-- R88. -/
def execSubcB32 (g : BitVec 3) (d : BitVec 7) (a : BitVec 7) (b : BitVec 7) (s : State) : Res :=
  s.each (.subcB32 g d a b) fun t => t.setReg d.toNat (ofBool (decide (t.reg a.toNat < t.reg b.toNat)))

/-- R88. -/
def execMulLoB32 (g : BitVec 3) (d : BitVec 7) (a : BitVec 7) (b : BitVec 7) (s : State) : Res :=
  s.each (.mulLoB32 g d a b) fun t => t.setReg d.toNat (t.reg a.toNat * t.reg b.toNat)

/-- R88. -/
def execMulWideZ (g : BitVec 3) (d : BitVec 7) (a : BitVec 7) (b : BitVec 7) (s : State) : Res :=
  s.each (.mulWideZ g d a b) fun t => t.setPair d.toNat (t.reg a.toNat * t.reg b.toNat)

/-- R88. -/
def execMulHiSB32 (g : BitVec 3) (d : BitVec 7) (a : BitVec 7) (b : BitVec 7) (s : State) : Res :=
  s.each (.mulHiSB32 g d a b) fun t => t.setReg d.toNat (low 32 (sgn 32 (t.reg a.toNat) * sgn 32 (t.reg b.toNat) / (2 ^ 32 : Nat)))

/-- R88. -/
def execMulHiZB32 (g : BitVec 3) (d : BitVec 7) (a : BitVec 7) (b : BitVec 7) (s : State) : Res :=
  s.each (.mulHiZB32 g d a b) fun t => t.setReg d.toNat (t.reg a.toNat * t.reg b.toNat / 2 ^ 32)

/-- R88. -/
def execMadLoB32 (g : BitVec 3) (d : BitVec 7) (a : BitVec 7) (b : BitVec 7) (s : State) : Res :=
  s.each (.madLoB32 g d a b) fun t => t.setReg d.toNat (t.reg a.toNat * t.reg b.toNat + t.reg d.toNat)

/-- R88. -/
def execMulWideS (g : BitVec 3) (d : BitVec 7) (a : BitVec 7) (b : BitVec 7) (s : State) : Res :=
  s.each (.mulWideS g d a b) fun t => t.setPair d.toNat (low 64 (sgn 32 (t.reg a.toNat) * sgn 32 (t.reg b.toNat)))

/-- R88. -/
def execMinSB32 (g : BitVec 3) (d : BitVec 7) (a : BitVec 7) (b : BitVec 7) (s : State) : Res :=
  s.each (.minSB32 g d a b) fun t => t.setReg d.toNat (if sgn 32 (t.reg a.toNat) ≤ sgn 32 (t.reg b.toNat) then t.reg a.toNat else t.reg b.toNat)

/-- R88. -/
def execMaxSB32 (g : BitVec 3) (d : BitVec 7) (a : BitVec 7) (b : BitVec 7) (s : State) : Res :=
  s.each (.maxSB32 g d a b) fun t => t.setReg d.toNat (if sgn 32 (t.reg b.toNat) ≤ sgn 32 (t.reg a.toNat) then t.reg a.toNat else t.reg b.toNat)

/-- R88. -/
def execMinZB32 (g : BitVec 3) (d : BitVec 7) (a : BitVec 7) (b : BitVec 7) (s : State) : Res :=
  s.each (.minZB32 g d a b) fun t => t.setReg d.toNat (if t.reg a.toNat ≤ t.reg b.toNat then t.reg a.toNat else t.reg b.toNat)

/-- R88. -/
def execMaxZB32 (g : BitVec 3) (d : BitVec 7) (a : BitVec 7) (b : BitVec 7) (s : State) : Res :=
  s.each (.maxZB32 g d a b) fun t => t.setReg d.toNat (if t.reg b.toNat ≤ t.reg a.toNat then t.reg a.toNat else t.reg b.toNat)

/-- R89. -/
def execShlB32 (g : BitVec 3) (d : BitVec 7) (a : BitVec 7) (b : BitVec 7) (s : State) : Res :=
  s.each (.shlB32 g d a b) fun t => t.setReg d.toNat (shl 32 (t.reg a.toNat) (t.reg b.toNat))

/-- R89. -/
def execShrZB32 (g : BitVec 3) (d : BitVec 7) (a : BitVec 7) (b : BitVec 7) (s : State) : Res :=
  s.each (.shrZB32 g d a b) fun t => t.setReg d.toNat (shrZ 32 (t.reg a.toNat) (t.reg b.toNat))

/-- R89. -/
def execShrSB32 (g : BitVec 3) (d : BitVec 7) (a : BitVec 7) (b : BitVec 7) (s : State) : Res :=
  s.each (.shrSB32 g d a b) fun t => t.setReg d.toNat (shrS 32 (t.reg a.toNat) (t.reg b.toNat))

/-- R89. -/
def execRotB32 (g : BitVec 3) (d : BitVec 7) (a : BitVec 7) (b : BitVec 7) (s : State) : Res :=
  s.each (.rotB32 g d a b) fun t => t.setReg d.toNat (rot (t.reg a.toNat) (t.reg b.toNat))

/-- R89. -/
def execShlB64 (g : BitVec 3) (d : BitVec 7) (a : BitVec 7) (b : BitVec 7) (s : State) : Res :=
  s.each (.shlB64 g d a b) fun t => t.setPair d.toNat (shl 64 (t.pair a.toNat) (t.reg b.toNat))

/-- R89. -/
def execShrZB64 (g : BitVec 3) (d : BitVec 7) (a : BitVec 7) (b : BitVec 7) (s : State) : Res :=
  s.each (.shrZB64 g d a b) fun t => t.setPair d.toNat (shrZ 64 (t.pair a.toNat) (t.reg b.toNat))

/-- R89. -/
def execShrSB64 (g : BitVec 3) (d : BitVec 7) (a : BitVec 7) (b : BitVec 7) (s : State) : Res :=
  s.each (.shrSB64 g d a b) fun t => t.setPair d.toNat (shrS 64 (t.pair a.toNat) (t.reg b.toNat))

/-- R90. -/
def execBselB32 (g : BitVec 3) (d : BitVec 7) (a : BitVec 7) (b : BitVec 7) (s : State) : Res :=
  s.each (.bselB32 g d a b) fun t => t.setReg d.toNat (bsel (t.pair a.toNat) (t.reg b.toNat))

/-- R89. -/
def execAndB32 (g : BitVec 3) (d : BitVec 7) (a : BitVec 7) (b : BitVec 7) (s : State) : Res :=
  s.each (.andB32 g d a b) fun t => t.setReg d.toNat (t.reg a.toNat &&& t.reg b.toNat)

/-- R89. -/
def execOrB32 (g : BitVec 3) (d : BitVec 7) (a : BitVec 7) (b : BitVec 7) (s : State) : Res :=
  s.each (.orB32 g d a b) fun t => t.setReg d.toNat (t.reg a.toNat ||| t.reg b.toNat)

/-- R89. -/
def execXorB32 (g : BitVec 3) (d : BitVec 7) (a : BitVec 7) (b : BitVec 7) (s : State) : Res :=
  s.each (.xorB32 g d a b) fun t => t.setReg d.toNat (t.reg a.toNat ^^^ t.reg b.toNat)

/-- R89. -/
def execAndnB32 (g : BitVec 3) (d : BitVec 7) (a : BitVec 7) (b : BitVec 7) (s : State) : Res :=
  s.each (.andnB32 g d a b) fun t => t.setReg d.toNat (t.reg a.toNat &&& (2 ^ 32 - 1 - t.reg b.toNat))

/-- R89. -/
def execPopcB32 (g : BitVec 3) (d : BitVec 7) (a : BitVec 7) (s : State) : Res :=
  s.each (.popcB32 g d a) fun t => t.setReg d.toNat (popc (t.reg a.toNat) 32)

/-- R89. -/
def execClzB32 (g : BitVec 3) (d : BitVec 7) (a : BitVec 7) (s : State) : Res :=
  s.each (.clzB32 g d a) fun t => t.setReg d.toNat (clz (t.reg a.toNat) 32)

/-- R90. -/
def execBfxB32 (g : BitVec 3) (d : BitVec 7) (a : BitVec 7) (b : BitVec 7) (s : State) : Res :=
  s.each (.bfxB32 g d a b) fun t => t.setReg d.toNat (bfx (t.reg a.toNat) (t.reg b.toNat))

/-- R90. -/
def execBfiB32 (g : BitVec 3) (d : BitVec 7) (a : BitVec 7) (b : BitVec 7) (s : State) : Res :=
  s.each (.bfiB32 g d a b) fun t => t.setReg d.toNat (bfi (t.reg a.toNat) (t.reg d.toNat) (t.reg b.toNat))

/-- R92. -/
def execCmpEqB32 (g : BitVec 3) (d : BitVec 3) (a : BitVec 7) (b : BitVec 7) (s : State) : Res :=
  s.each (.cmpEqB32 g d a b) fun t => t.setPred d.toNat (decide (t.reg a.toNat = t.reg b.toNat))

/-- R92. -/
def execCmpNeB32 (g : BitVec 3) (d : BitVec 3) (a : BitVec 7) (b : BitVec 7) (s : State) : Res :=
  s.each (.cmpNeB32 g d a b) fun t => t.setPred d.toNat (decide (t.reg a.toNat ≠ t.reg b.toNat))

/-- R92. -/
def execCmpLtSB32 (g : BitVec 3) (d : BitVec 3) (a : BitVec 7) (b : BitVec 7) (s : State) : Res :=
  s.each (.cmpLtSB32 g d a b) fun t => t.setPred d.toNat (decide (sgn 32 (t.reg a.toNat) < sgn 32 (t.reg b.toNat)))

/-- R92. -/
def execCmpLtZB32 (g : BitVec 3) (d : BitVec 3) (a : BitVec 7) (b : BitVec 7) (s : State) : Res :=
  s.each (.cmpLtZB32 g d a b) fun t => t.setPred d.toNat (decide (t.reg a.toNat < t.reg b.toNat))

/-- R92. -/
def execCmpLeSB32 (g : BitVec 3) (d : BitVec 3) (a : BitVec 7) (b : BitVec 7) (s : State) : Res :=
  s.each (.cmpLeSB32 g d a b) fun t => t.setPred d.toNat (decide (sgn 32 (t.reg a.toNat) ≤ sgn 32 (t.reg b.toNat)))

/-- R92. -/
def execCmpLeZB32 (g : BitVec 3) (d : BitVec 3) (a : BitVec 7) (b : BitVec 7) (s : State) : Res :=
  s.each (.cmpLeZB32 g d a b) fun t => t.setPred d.toNat (decide (t.reg a.toNat ≤ t.reg b.toNat))

/-- R92. -/
def execCmpEqB64 (g : BitVec 3) (d : BitVec 3) (a : BitVec 7) (b : BitVec 7) (s : State) : Res :=
  s.each (.cmpEqB64 g d a b) fun t => t.setPred d.toNat (decide (t.pair a.toNat = t.pair b.toNat))

/-- R92. -/
def execCmpLtSB64 (g : BitVec 3) (d : BitVec 3) (a : BitVec 7) (b : BitVec 7) (s : State) : Res :=
  s.each (.cmpLtSB64 g d a b) fun t => t.setPred d.toNat (decide (sgn 64 (t.pair a.toNat) < sgn 64 (t.pair b.toNat)))

/-- R92. -/
def execCmpLtZB64 (g : BitVec 3) (d : BitVec 3) (a : BitVec 7) (b : BitVec 7) (s : State) : Res :=
  s.each (.cmpLtZB64 g d a b) fun t => t.setPred d.toNat (decide (t.pair a.toNat < t.pair b.toNat))

/-- R93. -/
def execSelB32 (g : BitVec 3) (d : BitVec 7) (a : BitVec 7) (b : BitVec 7) (s : State) : Res :=
  s.each (.selB32 g d a b) fun t => t.setReg d.toNat (if t.reg d.toNat ≠ 0 then t.reg a.toNat else t.reg b.toNat)

/-- R93. -/
def execMovB32 (g : BitVec 3) (d : BitVec 7) (a : BitVec 7) (s : State) : Res :=
  s.each (.movB32 g d a) fun t => t.setReg d.toNat (t.reg a.toNat)

/-- What `addi` writes (R91). -/
def addiTo (d a : Nat) (x : Int) (t : Thread) : Thread := t.setReg d (low 32 (t.reg a + x))

/-- What `addi.b64` writes (R91). -/
def addi64To (d a : Nat) (x : Int) (t : Thread) : Thread := t.setPair d (low 64 (t.pair a + x))

/-- R91. -/
def execAddi (g : BitVec 3) (d : BitVec 7) (a : BitVec 7) (i : BitVec 9) (s : State) : Res :=
  s.each (.addi g d a i) fun t => addiTo d.toNat a.toNat (addImm none i) t

/-- R91. -/
def execAddiB64 (g : BitVec 3) (d : BitVec 7) (a : BitVec 7) (i : BitVec 9) (s : State) : Res :=
  s.each (.addiB64 g d a i) fun t => addi64To d.toNat a.toNat (addImm none i) t

/-- R91. -/
def execMovi (g : BitVec 3) (d : BitVec 7) (i : BitVec 16) (s : State) : Res :=
  s.each (.movi g d i) fun t => t.setReg d.toNat (movImm none i)

/-- R94. -/
def execPand (g : BitVec 3) (d : BitVec 3) (a : BitVec 3) (b : BitVec 3) (s : State) : Res :=
  s.each (.pand g d a b) fun t => t.setPred d.toNat (t.pred a.toNat && t.pred b.toNat)

/-- R94. -/
def execPor (g : BitVec 3) (d : BitVec 3) (a : BitVec 3) (b : BitVec 3) (s : State) : Res :=
  s.each (.por g d a b) fun t => t.setPred d.toNat (t.pred a.toNat || t.pred b.toNat)

/-- R94. -/
def execPxor (g : BitVec 3) (d : BitVec 3) (a : BitVec 3) (b : BitVec 3) (s : State) : Res :=
  s.each (.pxor g d a b) fun t => t.setPred d.toNat (t.pred a.toNat != t.pred b.toNat)

/-- R94. -/
def execPnot (g : BitVec 3) (d : BitVec 3) (a : BitVec 3) (s : State) : Res :=
  s.each (.pnot g d a) fun t => t.setPred d.toNat (!t.pred a.toNat)

/-- R94. -/
def execP2v (g : BitVec 3) (d : BitVec 7) (a : BitVec 3) (s : State) : Res :=
  s.each (.p2v g d a) fun t => t.setReg d.toNat (ofBool (t.pred a.toNat))

/-- R94. -/
def execV2p (g : BitVec 3) (d : BitVec 3) (a : BitVec 7) (s : State) : Res :=
  s.each (.v2p g d a) fun t => t.setPred d.toNat (decide (t.reg a.toNat ≠ 0))

end Sys2Proof.Machine
end

