-- ==== Sys2Proof/Machine/Lim.lean ====
section
/-! DEFINITION. The meaning of a `lim` pair (R28): the instruction of its second word, with the payload that the first word
carries, issued as one instruction of 8 bytes. -/

namespace Sys2Proof.Machine

/-- A pair whose instruction acts on each thread alone. -/
def State.limEach (s : State) (i : Instr) (f : Option Nat → Thread → Thread) : Res := s.each i (f (limPayload i))

/-- A pair whose instruction reaches memory. -/
def State.limMem (s : State) (i : Instr) (f : Option Nat → Nat → Nat → State → Thread → TRes) : Res :=
  s.inTurn i (f (limPayload i) i.len)

/-- A pair whose instruction is an `mma`: the payload names the metadata slot (R28, R186). -/
def State.limMma (s : State) (i : Instr) (k : Option Nat → MatKind) : Res := s.together i (mmaOp i.guard i.len (k (limMeta (limPayload i))))

/-- R28: the second word's instruction under the payload; a pair that does not compose is illegal (R35). -/
def execLim (h : BitVec 26) (w : BitVec 32) (s : State) : Res :=
  let i : Instr := .lim h w
  match decodeWord w.toNat with
  | some (.addi _ d a x) => s.limEach i fun h => addiTo d.toNat a.toNat (addImm h x)
  | some (.addiB64 _ d a x) => s.limEach i fun h => addi64To d.toNat a.toNat (addImm h x)
  | some (.movi _ d x) => s.limEach i fun h t => t.setReg d.toNat (movImm h x)
  | some (.bra _ o) => s.bra i o
  | some (.call _ o) => s.call i o
  | some (.jfence _ o) => s.bra i o
  | some (.ld _ d a z y o) => s.limMem i fun h n => ldOp h n d.toNat a.toNat z.toNat y o false
  | some (.st _ d a z y o) => s.limMem i fun h n => stOp h n d.toNat a.toNat z.toNat y o false
  | some (.ldAcq _ d a z y o) => s.limMem i fun h n => ldOp h n d.toNat a.toNat (2 + z.toNat) y o true
  | some (.stRel _ d a z y o) => s.limMem i fun h n => stOp h n d.toNat a.toNat (2 + z.toNat) y o true
  | some (.ldC _ d a z o) => s.limMem i fun h n => ldCOp h n d.toNat a.toNat z.toNat o
  | some (.pref _ a y o) => s.limMem i fun h n _ => prefOp h n a.toNat y o
  | some (.fadd _ d a b) => s.limEach i fun h => faddOp h d.toNat a.toNat b.toNat
  | some (.fsub _ d a b) => s.limEach i fun h => fsubOp h d.toNat a.toNat b.toNat
  | some (.fmul _ d a b) => s.limEach i fun h => fmulOp h d.toNat a.toNat b.toNat
  | some (.ffma _ d a b) => s.limEach i fun h => ffmaOp h d.toNat a.toNat b.toNat
  | some (.frnd _ d a) => s.limEach i fun h => frndOp h d.toNat a.toNat
  | some (.fdot2F16 _ d a b) => s.limEach i fun h => fdot2Op .fp16 h d.toNat a.toNat b.toNat
  | some (.fdot2Bf16 _ d a b) => s.limEach i fun h => fdot2Op .bf16 h d.toNat a.toNat b.toNat
  | some (.faddF16x2 _ d a b) => s.limEach i fun h => packAddOp .fp16 h d.toNat a.toNat b.toNat
  | some (.fsubF16x2 _ d a b) => s.limEach i fun h => packSubOp .fp16 h d.toNat a.toNat b.toNat
  | some (.fmulF16x2 _ d a b) => s.limEach i fun h => packMulOp .fp16 h d.toNat a.toNat b.toNat
  | some (.ffmaF16x2 _ d a b) => s.limEach i fun h => packFmaOp .fp16 h d.toNat a.toNat b.toNat
  | some (.faddBf16x2 _ d a b) => s.limEach i fun h => packAddOp .bf16 h d.toNat a.toNat b.toNat
  | some (.fsubBf16x2 _ d a b) => s.limEach i fun h => packSubOp .bf16 h d.toNat a.toNat b.toNat
  | some (.fmulBf16x2 _ d a b) => s.limEach i fun h => packMulOp .bf16 h d.toNat a.toNat b.toNat
  | some (.ffmaBf16x2 _ d a b) => s.limEach i fun h => packFmaOp .bf16 h d.toNat a.toNat b.toNat
  | some (.cvt _ d a x y z) => s.limEach i fun h => cvtOp h d.toNat a.toNat x.toNat y.toNat z.toNat
  | some (.mmaF16 _ n m c a b) => s.limMma i (mmaKind 0 n m c a b)
  | some (.mmaBf16 _ n m c a b) => s.limMma i (mmaKind 1 n m c a b)
  | some (.mmaE4m3 _ n m c a b) => s.limMma i (mmaKind 2 n m c a b)
  | some (.mmaE4m3e5m2 _ n m c a b) => s.limMma i (mmaKind 3 n m c a b)
  | some (.mmaE5m2 _ n m c a b) => s.limMma i (mmaKind 4 n m c a b)
  | some (.mmaS8 _ n m c a b) => s.limMma i (mmaKind 5 n m c a b)
  | some (.mmaE2m1 _ n m c a b) => s.limMma i (mmaKind 6 n m c a b)
  | some (.mmaBf16s4 _ n m c a b) => s.limMma i (mmaKind 7 n m c a b)
  | _ => s.trapSet (plainTrap .illegalOp)

end Sys2Proof.Machine
end

