-- ==== Sys2Proof/Machine/Spdm.lean ====
section
/-! DEFINITION. SPDM, key handles and link secrets (R366, R367, R424, R442). The cryptographic functions and the contents of SPDM responses that the standard
alone gives are opaque constants (log entry 9). -/

namespace Sys2Proof.Machine

/-- The 48 bytes of a measurement register. -/
def digestBytes (x : BitVec 384) : List Byte := leBytes x.toNat 48

def State.measurement (s : State) (i : Nat) : BitVec 384 := Tab.get (fun _ => 0) s.measure i

/-! SPDM (R442). Response numbers: 1 to 10 in the order of R442, 0 for an error. -/

def State.spdmSay (s : State) (code : Nat) : State := s.send (.spdmBlob code (Config.spdmBlob code))

/-- A signed response, which covers the requester's nonce. -/
def State.spdmSigned (s : State) (code : Nat) (nonce : BitVec 256) (data : List Nat) : State :=
  s.send (.spdm code data (Config.spdmSign nonce data))

/-- A response that needs negotiated algorithms (log entry 23). -/
def State.spdmAfter (s : State) (ok : Bool) (f : State → State) : State := if ok then f s else s.spdmSay 0

/-- R442: the connection begins again. -/
def execGetVersion (s : State) : Res :=
  .next ({ s with spdm := { s.spdm with negotiated := false, exchanged := false, secured := false } }.spdmSay 1)

/-- R442. -/
def execGetCapabilities (s : State) : Res := .next (s.spdmSay 2)

/-- R442: ECDSA P-384, SHA-384 and AES-256-GCM. -/
def execNegotiateAlgorithms (s : State) : Res := .next ({ s with spdm := { s.spdm with negotiated := true } }.spdmSay 3)

/-- R442. -/
def execGetDigests (s : State) : Res := .next (s.spdmAfter s.spdm.negotiated fun s => s.spdmSay 4)

/-- R442. -/
def execGetCertificate (s : State) : Res := .next (s.spdmAfter s.spdm.negotiated fun s => s.spdmSay 5)

/-- R442: the signature covers the nonce and the measurement registers as they stand. -/
def execChallenge (nonce : BitVec 256) (s : State) : Res :=
  .next (s.spdmAfter s.spdm.negotiated fun s => s.spdmSigned 6 nonce ((List.range 16).map fun i => (s.measurement i).toNat))

/-- The meters of an owner in order, the power-on count, the snapshot's number and PHYS (R440, R442). -/
def State.meterSnapshot (s : State) (o : Nat) : List Nat :=
  let owner := if o < 8 then o else 8 + s.partOf 8
  ((List.range 11).map fun m => (Tab.get (fun _ => (0 : BitVec 64)) s.meters (16 * owner + m)).toNat) ++
    [s.spdm.powerOns, s.spdm.snapshots, s.phys]

/-- R442: index m + 1 is measurement register m, index 0x40 + o a meter snapshot of owner o. -/
def execGetMeasurements (idx : Nat) (nonce : BitVec 256) (s : State) : Res :=
  .next (s.spdmAfter s.spdm.negotiated fun s =>
    if 1 ≤ idx && idx ≤ 16 then s.spdmSigned 7 nonce [(s.measurement (idx - 1)).toNat]
    else if 0x40 ≤ idx && idx ≤ 0x48 then
      let s := { s with spdm := { s.spdm with snapshots := s.spdm.snapshots + 1 } }
      s.spdmSigned 7 nonce (s.meterSnapshot (idx - 0x40))
    else s.spdmSay 0)

/-- R442. -/
def execKeyExchange (nonce : BitVec 256) (s : State) : Res :=
  .next (s.spdmAfter s.spdm.negotiated fun s =>
    { s with spdm := { s.spdm with exchanged := true, secured := false } }.spdmSigned 8 nonce ((List.range 16).map fun i => (s.measurement i).toNat))

/-- R442: the session is secured. -/
def execFinish (s : State) : Res :=
  .next (s.spdmAfter s.spdm.exchanged fun s => { s with spdm := { s.spdm with exchanged := false, secured := true } }.spdmSay 9)

/-- R442. -/
def execEndSession (s : State) : Res :=
  .next (s.spdmAfter s.spdm.secured fun s => { s with spdm := { s.spdm with secured := false } }.spdmSay 10)

/-! Keys (R366, R367, R424): accepted only inside a secured session (R442). -/

/-- The lowest tag that no handle has (R366; log entry 24). -/
def State.freeTag (s : State) : Option Nat :=
  ((List.range 4095).map fun i => i + 1).find? fun t => !(s.handles.any fun e => e.2.tag == t)

/-- R366: an installed handle keeps its tag. -/
def execKeyInstall (handle gen : Nat) (s : State) : Res :=
  .next (if !s.spdm.secured || handle = 0 || 2 ^ 24 ≤ handle || (s.handle? handle).isSome then s
    else match s.freeTag with
      | some t => { s with handles := s.handles ++ [(handle, { gen := BitVec.ofNat 8 gen, tag := t, wrapped := Config.keyMaterial handle (BitVec.ofNat 8 gen) })] }
      | none => s)

/-- R366: not while a page is owned by its tag, or an owner command gives it one. -/
def execKeyRemove (handle : Nat) (s : State) : Res :=
  .next (match s.handle? handle with
    | some k =>
      let given (x : Nat × Nat × ShootCmd × Nat) : Bool := x.1 == 10 && !x.2.2.1.guest && x.2.2.1.asid == k.tag
      if !s.spdm.secured || (s.owners.any fun e => e.2 == k.tag) || s.shoots.any given then s
      else { s with handles := s.handles.filter (fun e => e.1 != handle),
                    keySlots := s.keySlots.filter fun (e : Nat × KeySlot) => e.2.handle != handle || e.2.pins != 0 }
    | none => s)

/-- R367: the current generation advances by 1 modulo 256; the link keys of the handle change their phase (R427). -/
def execKeyRotate (handle : Nat) (s : State) : Res :=
  .next (if !s.spdm.secured then s
    else
      let turn (e : Nat × KeyHandle) : Nat × KeyHandle := if e.1 = handle then (handle, { e.2 with gen := e.2.gen + 1, wrapped := Config.keyMaterial handle (e.2.gen + 1) }) else e
      let mark (e : LinkKey × LinkState) : LinkKey × LinkState := if e.1.handle = handle then (e.1, { e.2 with wanted := true }) else e
      { s with handles := s.handles.map turn, links := s.links.map mark })

/-- R424. -/
def execLinkSecretInstall (f : Nat) (secret : BitVec 256) (s : State) : Res :=
  .next (if s.spdm.secured then { s with linkSecrets := Tab.set (fun _ => 0) s.linkSecrets (f % 9) secret.toNat } else s)

/-- A request by its number: 1 to 10 in the order of R442, then the vendor-defined ones (R366, R367, R424, R442). -/
def spdmRequest (code a b : Nat) (value : BitVec 256) : State → Res :=
  match code with
  | 1 => execGetVersion
  | 2 => execGetCapabilities
  | 3 => execNegotiateAlgorithms
  | 4 => execGetDigests
  | 5 => execGetCertificate
  | 6 => execChallenge value
  | 7 => execGetMeasurements a value
  | 8 => execKeyExchange value
  | 9 => execFinish
  | 10 => execEndSession
  | 11 => execKeyInstall a b
  | 12 => execKeyRemove a
  | 13 => execKeyRotate a
  | 14 => execLinkSecretInstall a value
  | _ => fun s => .next (s.spdmSay 0)

end Sys2Proof.Machine
end

