-- ==== Sys2Proof/Machine/Receive.lean ====
section
/-! DEFINITION. Fabric packets at their receiver and the messages that come back to a sender: epoch records, the arrival table, counted
release, non-posted requests and responses, receive slots, integrity and the counter window (R84, R200, R260, R261, R298 to R313,
R418 to R428). -/

namespace Sys2Proof.Machine

/-! Receive slots, tags and counters (R418, R421, R423, R426, R427). -/

/-- The receive port of a packet (R303, R417). -/
def State.portOf (s : State) (p : Packet) : Nat := Config.receivePort s.phys p.srcDev

/-- The slots that a function reserves at each port (R422). -/
def State.rslots (s : State) (f : Nat) : Nat := 16 * bits (s.sys (fReg 0x0D00 f 0)).toNat 13 8

/-- The slot that a packet finds (R421). -/
def State.slotFor (s : State) (p : Packet) : Option RxSlot :=
  let here := s.accepted.filter fun e => s.portOf e.1 == s.portOf p
  if packetClass p.body = .control then (if (here.filter fun e => e.2 == .control).length < 64 then some .control else none)
  else
    let own := (here.filter fun e => e.2 == .own && e.1.dstFun == p.dstFun).length
    let pool := (here.filter fun e => e.2 == .pool).length
    if own < s.rslots p.dstFun then some .own
    else if pool < 2048 - ((List.range 9).map s.rslots).sum then some .pool
    else none

/-- The link key of a packet at its receiver (R424). -/
def rxKey (p : Packet) : LinkKey := { f := p.dstFun, dev := p.srcDev, fun' := p.srcFun, handle := p.handle }

/-- The number of a counter window: link key, source VDN and phase (R426). -/
def ivKey (k : LinkKey) (svdn : Nat) (phase : Bool) : Nat :=
  ((((k.f * 64 + k.dev) * 16 + k.fun') * 2 ^ 24 + k.handle) * 128 + svdn) * 2 + ofBool phase

/-- The counter check of R426: the window after an accepted counter. -/
def IvWindow.accept (w : IvWindow) (n : Nat) : Option IvWindow :=
  if w.cmax ≤ n then some { cmax := n + 1, marks := n :: w.marks.filter fun m => n < m + 65536 }
  else if w.cmax ≤ n + 65536 && !w.marks.contains n then some { w with marks := n :: w.marks }
  else none

/-- The number of a source for the drops that count towards a change of phase: function here, device and function there (R427). -/
def sourceKey (k : LinkKey) : Nat := (k.f * 64 + k.dev) * 16 + k.fun'

/-- A drop that counts towards a change of phase: with the 64th within 1 ms the keys of the pair want one (R427). -/
def State.dropOf (s : State) (k : LinkKey) : State :=
  let ds := s.clk :: (Tab.get (fun _ => []) s.drops (sourceKey k)).filter fun d => s.clk < d + us 1000
  if ds.length < 64 then { s with drops := Tab.set (fun _ => []) s.drops (sourceKey k) ds }
  else
    let want (e : LinkKey × LinkState) : LinkKey × LinkState := if sourceKey e.1 = sourceKey k then (e.1, { e.2 with wanted := true }) else e
    let s := s.setLink k (s.link k)
    { s with drops := Tab.set (fun _ => []) s.drops (sourceKey k) [], links := s.links.map want }

/-- Whether a key's phase is still received (R427). -/
def State.phaseOk (s : State) (k : LinkKey) (phase : Bool) : Bool :=
  let l := s.link k
  phase == l.rxPhase || l.both

/-- The first packet under the new phase starts the last 2 ms of the old one (R427). -/
def State.sawPhase (s : State) (k : LinkKey) (phase : Bool) : State :=
  let l := s.link k
  if phase != l.rxPhase && l.both && l.overlap.isNone then s.setLink k { l with overlap := some (s.clk + us 2000) } else s

/-- Whether a device can check a packet's tag: it verifies under the link key, whose world key stands here (R424). -/
def State.tagGood (s : State) (p : Packet) : Bool :=
  p.good && (p.handle == 0 || (s.handle? p.handle).isSome) && s.phaseOk (rxKey p) p.phase

/-- The source VDN of a packet that its function performs must stand in its table (R298); migration and control packets come from devices that
the function's table need not name (R409, R420, log entry 103). -/
def State.staleVdn (s : State) (p : Packet) : Bool :=
  (packetClass p.body == .nonPosted || packetClass p.body == .posted) && !vdnOk (s.vdne p.dstFun p.svdn)

/-- Whether a session's destination holds what comes for its function until LOAD (R412). -/
def State.holds (s : State) (f : Nat) : Bool := f < 8 && (s.migState f == 8 || s.migState f == 9) && !s.ckEn f

/-- A packet at a receive port: slot, flits and tag, counter, source VDN (R298, R418, R421, R426, R431, log entry 100). An accepted one waits for
its own step. -/
def State.receive (s : State) (p : Packet) : State :=
  let f := p.dstFun
  let k := rxKey p
  if p.dstDev ≠ s.phys || 9 ≤ f then s
  else match s.slotFor p with
    | none => s.noSlot f
    | some slot =>
      if !intact p then (s.badTag f).rasCount (s.portOf p) 0
      else if !isSealed p.body then { s with accepted := s.accepted ++ [(p, slot)] }
      else if !s.tagGood p then (s.badTag f).dropOf k
      else
        let n := ivKey k p.svdn p.phase
        let w := Tab.get (fun _ => { cmax := 0, marks := [] }) s.ivs n
        match w.accept p.ctr with
        | none => (s.ivReject f).dropOf k
        | some w =>
          let s := { s with ivs := Tab.set (fun _ => { cmax := 0, marks := [] }) s.ivs n w }.sawPhase k p.phase
          if s.staleVdn p && !s.holds f then s.stalePkt f
          else { s with accepted := s.accepted ++ [(p, slot)] }

/-- R417, R418, R426. -/
def execPacketReceive (p : Packet) (s : State) : Res := .next (s.receive p)

/-! Epoch records and arrival entries (R301, R303). -/

/-- How a window packet is judged (R301). -/
inductive Judged
  | accept | token | reject | drop
  deriving DecidableEq, Repr

def epochKey (f svdn win : Nat) : Nat := f * 2048 + svdn % 64 * 32 + win % 32

def State.epochRec (s : State) (f svdn win : Nat) : Option EpochRec :=
  (s.epochs.find? fun e => e.1 == epochKey f svdn win).map fun e => e.2

def State.setEpoch (s : State) (f svdn win : Nat) (x : EpochRec) : State :=
  { s with epochs := (epochKey f svdn win, x) :: s.epochs.filter fun e => e.1 != epochKey f svdn win }

/-- The judgement by epoch of a record. -/
def byEpoch (ec epoch : BitVec 8) (rel : Bool) : Judged :=
  let d := (epoch - ec).toNat
  if d = 0 then (if rel then .token else .drop)
  else if d ≤ 64 then .accept
  else if d ≤ 192 then (if rel then .reject else .drop)
  else .drop

/-- R301: the judgement of a window packet, and the record after it. -/
def State.judge (s : State) (f svdn win : Nat) (inc epoch : BitVec 8) (rel : Bool) : State × Judged :=
  let fresh : State × Judged :=
    let old (a : Arrival) : Bool := a.key.f == f && a.key.svdn == svdn && a.key.win == win
    (({ s with arrivals := s.arrivals.filter fun a => !old a }.setEpoch f svdn win { irec := inc, ec := 255 }), byEpoch 255 epoch rel)
  match s.epochRec f svdn win with
  | none => fresh
  | some e =>
    let d := (inc - e.irec).toNat
    if d = 0 then (s, byEpoch e.ec epoch rel)
    else if d ≤ 127 then fresh
    else (s, .drop)

def State.arrival (s : State) (k : EpochKey) : Option Arrival := s.arrivals.find? fun a => a.key == k

def State.updArrival (s : State) (k : EpochKey) (g : Arrival → Arrival) : State :=
  { s with arrivals := updFirst (fun a => a.key == k) g s.arrivals }

def State.dropArrival (s : State) (k : EpochKey) : State := { s with arrivals := s.arrivals.filter fun a => a.key != k }

/-- The entry of a key, allocated where there is none: from the reservation first, then the pool (R303). -/
def State.entryFor (s : State) (k : EpochKey) (port : Nat) : Option State :=
  if (s.arrival k).isSome then some s
  else s.enter { key := k, port, reserved := false, r := 0, arrivals := 0, expect := none, deadline := 0, denied := false }

/-- The tag that this device holds for the handle that a packet names (R365). -/
def State.tagFor (s : State) (handle : Nat) : Nat := if handle = 0 then 0 else (s.handle? handle).elim 0 fun k => k.tag

/-- Where a peer's access leads through the receiving function's stage 2 (R356), with write permission where it writes, and past the
firewall (R365); nothing where it is refused. -/
def State.peerTgt (s : State) (f ipa handle : Nat) (w : Bool) : Option Target :=
  match s.stage2 f ipa with
  | some t =>
    if w && !t.w then none
    else match t.tgt with
      | .loc pa => if s.owner pa = 0 || s.owner pa = s.tagFor handle then some (.loc pa) else none
      | .host ha => some (.host ha)
      | _ => none
  | none => none

/-- What a peer's access carries at its home here. -/
def State.portEnv (s : State) (f handle : Nat) : Env := State.devEnv f (s.queueRoot f 0) (s.tagFor handle)

/-! Counted release at the receiver (R304 to R306). -/

/-- Where a flag leads: the port translates it in the receiving function's space, through the stage 1 of its queue 0 (log entry 22). -/
def State.flagTgt (s : State) (k : EpochKey) (x : Expect) : Except TrapInfo Target :=
  s.check (State.devEnv k.f (s.queueRoot k.f 0) x.tag) .st x.flag 4 4

/-- The entry is freed and its epoch is the last one completed (R305, R306). -/
def State.closeEntry (s : State) (k : EpochKey) : State :=
  (s.dropArrival k).setEpoch k.f k.svdn k.win { irec := BitVec.ofNat 8 k.inc, ec := BitVec.ofNat 8 k.epoch }

/-- After any event on an entry: the flag, once the count has arrived (R304, R305). A flag on a migrating page waits (R364). -/
def State.settleArrival (s : State) (k : EpochKey) : State :=
  match s.arrival k with
  | none => s
  | some a => match a.expect with
    | none => s
    | some x =>
      if a.arrivals ≠ x.count then s
      else if a.denied then (s.closeEntry k).sendTo 0 k.f k.svdn (.flagDenied k.win k.inc k.epoch a.r)
      else match s.flagTgt k x with
        | .error _ => (s.closeEntry k).sendTo 0 k.f k.svdn (.flagDenied k.win k.inc k.epoch a.r)
        | .ok t =>
          if s.waitsMove true t then s
          else
            let e := State.devEnv k.f (s.queueRoot k.f 0) x.tag
            let s := (s.unpaced fun s => s.writeTgt e none t (leBytes x.value.toNat 4)).fabricBytes k.f 10 4
            (s.closeEntry k).sendTo 0 k.f k.svdn (.token k.win k.inc k.epoch a.r)

/-- R304: a window write. -/
def State.windowWrite (s : State) (p : Packet) : State :=
  match p.body with
  | .write win inc epoch r addr data =>
    let f := p.dstFun
    match s.judge f p.svdn win (BitVec.ofNat 8 inc) (BitVec.ofNat 8 epoch) false with
    | (s, .accept) =>
      let k : EpochKey := { f, svdn := p.svdn, win, inc, epoch }
      (match s.entryFor k (s.portOf p) with
      | none => s.noEntry f
      | some s =>
        if (s.arrival k).any fun a => a.r != r then s.stalePkt f
        else
          let s := match s.peerTgt f addr p.handle true with
            | none => s.updArrival k fun a => { a with denied := true }
            | some t => (s.unpaced fun s => s.writeTgt (s.portEnv f p.handle) none t data).fabricBytes f 10 data.length
          (s.updArrival k fun a => { a with arrivals := a.arrivals + 1 }).settleArrival k)
    | (s, _) => s.stalePkt f
  | _ => s

/-- R301, R304. -/
def execWindowWritePacket (p : Packet) (s : State) : Res := .next (s.windowWrite p)

/-- R304: a release packet. -/
def State.releaseArrive (s : State) (p : Packet) : State :=
  match p.body with
  | .release win inc epoch r count flag value scope =>
    let f := p.dstFun
    match s.judge f p.svdn win (BitVec.ofNat 8 inc) (BitVec.ofNat 8 epoch) true with
    | (s, .accept) =>
      let k : EpochKey := { f, svdn := p.svdn, win, inc, epoch }
      (match s.entryFor k (s.portOf p) with
      | none => s.noEntry f
      | some s =>
        let x : Expect := { tag := s.tagFor p.handle, count, flag, value, scope }
        (s.updArrival k fun a => if a.expect.isSome then a else { a with expect := some x, deadline := s.clk + s.tlost f }).settleArrival k)
    | (s, .token) => s.sendTo 0 f p.svdn (.token win inc epoch r)
    | (s, .reject) => (s.stalePkt f).sendTo 0 f p.svdn (.reject win inc epoch r)
    | (s, .drop) => s.stalePkt f
  | _ => s

/-- R301, R304. -/
def execReleasePacket (p : Packet) (s : State) : Res := .next (s.releaseArrive p)

/-- T_lost of an entry: a replay request, or after the third the loss (R304, R306). Window 32 stands for a Seep pass (R405). -/
def State.tLost (s : State) (k : EpochKey) : State :=
  if k.win = 32 then s.seepLost (k.f % 8)
  else match s.arrival k with
    | none => s
    | some a =>
      match a.expect with
      | none => s
      | some x =>
        if s.clk < a.deadline || s.frozen k.f then s
        else if a.r = 3 then
          let s := (s.closeEntry k).sendTo 0 k.f k.svdn (.loss k.win k.inc k.epoch a.r)
          s.errorRecord k.f 0 { ErrRec.empty with
            kind := 5, cause := Cause.fabricLoss.code, addr := x.flag, extra := k.svdn + k.win * 2 ^ 8 + k.epoch * 2 ^ 16 }
        else
          (s.updArrival k fun a => { a with r := a.r + 1, arrivals := 0, denied := false, deadline := s.clk + s.tlost k.f }).sendTo 0 k.f k.svdn
            (.replayReq k.win k.inc k.epoch (a.r + 1))

/-- R304, R306, R405. -/
def execTLostExpiry (k : EpochKey) (s : State) : Res := .next (s.tLost k)

/-! The sender during a close (R307). -/

/-- The pending entry of a VDN in a window whose close is pending. -/
def Window.pend (w : Window) (v : Nat) : Option Pend := if w.st == .closing then w.pending.find? fun p => p.vdn == v else none

/-- The close fails at the first failing VDN: data of the epoch go, the window is failed, and the closing thread gets its trap (R198,
R307, log entry 71). -/
def State.closeFails (s : State) (f win v : Nat) (c : Cause) (fault : Nat) : State :=
  let w := s.window f win
  match w.pend v with
  | none => s
  | some _ =>
    let s := s.setWindow f win { w.free w.closing.toNat with
      st := .failed, fault, pending := w.pending.filter (fun p => p.vdn != v), closer := none }
    match w.closer with
    | some x => s.deferTrap x.lid x.key x.pc { cause := c.code, addr := x.flag, aux := BitVec.ofNat 32 v }
    | none => s

/-- A token: its VDN leaves the pending set; the close completes with the last (R198, R307). -/
def State.tokenArrive (s : State) (f win v : Nat) : State :=
  let w := s.window f win
  match w.pend v with
  | none => s
  | some _ =>
    let rest := w.pending.filter fun p => p.vdn != v
    if rest.isEmpty then s.setWindow f win { w.free w.closing.toNat with st := .open, pending := [], closer := none }
    else s.setWindow f win { w with pending := rest }

/-- R307. -/
def execTokenArrival (f win vdn : Nat) (s : State) : Res := .next (s.tokenArrive f win vdn)
/-- R307. -/
def execRejectArrival (f win vdn : Nat) (s : State) : Res := .next (s.closeFails f win vdn .windowState 2)
/-- R307. -/
def execLossMessageArrival (f win vdn : Nat) (s : State) : Res := .next (s.closeFails f win vdn .fabricLoss 1)
/-- R307. -/
def execFlagDeniedArrival (f win vdn : Nat) (s : State) : Res := .next (s.closeFails f win vdn .accessDenied 3)

/-- Sends a fabric copy's writes again: the elements it has sent, from its descriptor, with the source read now (R300). -/
def State.resendCopy (s : State) (f win inc v r : Nat) (c : CopyRec) : Nat → Nat → State
  | 0, _ => s
  | fuel + 1, k =>
    if c.landed ≤ k then s
    else
      let b := bulkOf c.desc
      let n := min (b.runLen k 128) (c.landed - k)
      let els := s.fabricRun c.env v b k n
      match els with
      | [] => s.resendCopy f win inc v r c fuel (k + n)
      | (_, ipa) :: _ =>
        let data := els.flatMap fun y => s.bytesAt c.env.bid y.1 b.z
        let s := els.foldl (fun s y => s.touchRead c.env.f c.env.tag y.1 b.z) s
        (s.sendTo c.handle f v (.write win inc c.epoch r ipa data)).resendCopy f win inc v r c fuel (k + n)

/-- A replay request: every write of the epoch to that VDN again (R300, R307). -/
def State.replay (s : State) (f win v epoch r : Nat) : State :=
  let w := s.window f win
  if w.closing.toNat ≠ epoch then s
  else match w.pend v with
    | none => s
    | some _ =>
      let s := s.setWindow f win { w with pending := w.pending.map fun p =>
        if p.vdn = v then { p with r, deadline := s.clk + 2 * s.tlost f } else p }
      let s := (w.buf.filter fun b => b.epoch == epoch && b.vdn == v).foldl (fun s b =>
        s.sendTo b.handle f v (.write win w.inc.toNat epoch r b.addr b.data)) s
      (w.copies.filter fun c => c.epoch == epoch && c.vdn == v).foldl (fun s c =>
        s.resendCopy f win w.inc.toNat v r c c.landed 0) s

/-- R307. -/
def execReplayRequestArrival (f win vdn epoch r : Nat) (s : State) : Res := .next (s.replay f win vdn epoch r)

/-- No message from a pending VDN for 2 × TLOST: the release packet again, and after the third time the failure (R307). Window 32 stands
for a Seep pass (R405). -/
def State.resend (s : State) (f win v : Nat) : State :=
  if win = 32 then s.seepResend (f % 8)
  else
    let w := s.window f win
    match w.pend v, w.closer with
    | some p, some c =>
      if !c.sent || s.clk < p.deadline || s.frozen f then s
      else if p.resends = 3 then s.closeFails f win v .fabricTimeout 4
      else
        (s.setWindow f win { w with pending := w.pending.map fun q =>
          if q.vdn = v then { q with resends := q.resends + 1, deadline := s.clk + 2 * s.tlost f } else q }).sendTo c.handle f v
          (.release win w.inc.toNat w.closing.toNat p.r p.count c.flag c.value c.scope)
    | _, _ => s

/-- R307. -/
def execResendTimeout (f win vdn : Nat) (s : State) : Res := .next (s.resend f win vdn)

/-! Non-posted requests at the home (R310, R311). -/

/-- The duplicate filter's judgement of a number: to perform, repeated with its answer, or too old. -/
inductive DupVerdict
  | perform
  | repeated (a : Option Answer)
  | old
  deriving DecidableEq, Repr

/-- R310, by 32-bit distances. `high` is one more than the highest number performed; where none is, every number is new. -/
def DupFilter.judge (d : DupFilter) (n : Nat) : DupVerdict :=
  if d.marks.isEmpty || seqDist n d.high < 2 ^ 31 then .perform
  else if 4096 < seqDist d.high n then .old
  else match d.marks.find? fun m => m.1 == n with
    | some m => .repeated m.2
    | none => .perform

/-- A number is marked as performed; marks leave with the window (R310). -/
def DupFilter.mark (d : DupFilter) (n : Nat) : DupFilter :=
  let h := if d.marks.isEmpty || seqDist n d.high < 2 ^ 31 then (n + 1) % 2 ^ 32 else d.high
  { high := h, marks := (n, none) :: d.marks.filter fun m => seqDist h m.1 ≤ 4096 }

/-- A peer's `lunlock`, or a group's leave of the queue (R160, R293); of a holder that is lost or not (R292). -/
def State.peerUnlock (s : State) (line v : Nat) (g : GroupRef) (lost : Bool) : State :=
  match s.lockEntry? line with
  | none => s
  | some e =>
    if e.hvdn == some v && e.holder == some g then s.handOffLine line (lost || e.losing.isSome)
    else
      let out (e : LockEntry) : LockEntry := { e with waiters := e.waiters.filter fun w => !(w.vdn == some v && w.who == g) }
      (s.updLock line out).freeEntry line

/-- A peer's group that waits or holds is switched out, or back: a later word than the last one known (R290, R291, log entry 85). -/
def State.peerPresence (s : State) (line v : Nat) (g : GroupRef) (n : Nat) (there : Bool) : State :=
  let waits (w : Waiter) : Waiter := if w.vdn == some v && w.who == g && w.told < n then { w with absent := !there, told := n } else w
  let holds (e : LockEntry) : Bool := e.hvdn == some v && e.holder == some g && e.told < n && e.losing.isNone
  let tell (e : LockEntry) : LockEntry :=
    let e := if holds e then { e.count s.clk there with told := n } else e
    { e with waiters := e.waiters.map waits }
  (s.updLock line tell).grantHead line

/-- A peer's access meets a line whose check bits fail: the error is recorded at its home, and the answer says so, so that the launch that made the access is
killed on its own device (R433, log entry 113). -/
def State.peerPoisoned (s : State) (f : Nat) (t : Target) : State × Option Answer :=
  match t with
  | .loc pa => (s.logError (if s.mere.any fun m => m.line == lineOf pa then 1 else 0) f pa, some .poisoned)
  | _ => (s, some .refused)

/-- The home performs a request once (R200, R261, R293): the state after it, and the answer unless a lock's comes later. -/
def State.performPeer (s : State) (p : Packet) (n ipa : Nat) (op : PeerOp) : State × Option Answer :=
  let f := p.dstFun
  let e := s.portEnv f p.handle
  let v := p.svdn
  match op with
  | .ld k => match s.peerTgt f ipa p.handle false with
    | none => (s, some .refused)
    | some t => if s.poison t k then s.peerPoisoned f t else
      let s := s.touchRead f e.tag t k
      (s, some (.done k (s.readTgt 0 t k)))
  | .atom op k b c => match s.peerTgt f ipa p.handle true with
    | some (.loc pa) => if s.poison (.loc pa) k then s.peerPoisoned f (.loc pa) else
      let (m, s) := (s.update e (.loc pa) op k b c).map id fun t => s.unpaced fun _ => t
      (s.fabricBytes f 10 k, some (.done k m))
    | _ => (s, some .refused)
  | .llock g cls blk va => match s.peerTgt f ipa p.handle true with
    | some (.loc pa) =>
      let w := s.waiter f g (some v) blk va cls n false
      let (s, st) := s.lockAsk f (lineOf pa) w false
      let queued := (s.lockEntry? (lineOf pa)).any fun e => e.waiters.contains w
      (s, if queued then some .queued else st.map Answer.denied)
    | _ => (s, some .refused)
  | .ltry g blk va => match s.peerTgt f ipa p.handle true with
    | some (.loc pa) =>
      let (s, st) := s.lockAsk f (lineOf pa) (s.waiter f g (some v) blk va 0 n false) true
      (s, st.map Answer.denied)
    | _ => (s, some .refused)
  | .lunlock g lost => match s.peerTgt f ipa p.handle true with
    | some (.loc pa) => (s.peerUnlock (lineOf pa) v g lost, some (.done 0 0))
    | _ => (s, some .refused)
  | .presence g n there => match s.peerTgt f ipa p.handle true with
    | some (.loc pa) => (s.peerPresence (lineOf pa) v g n there, some (.done 0 0))
    | _ => (s, some .refused)
  | .lstat => match s.peerTgt f ipa p.handle false with
    | some (.loc pa) => (s, some (.done 4 (256 * s.waiterCount pa)))
    | _ => (s, some .refused)

/-- A kept response to a grant carries the line's bytes as they stand (R293, R310). -/
def State.withLine (s : State) (p : Packet) (ipa : Nat) (a : Answer) : Answer :=
  match a, s.peerTgt p.dstFun ipa p.handle true with
  | .grant st _, some (.loc pa) => .grant st (s.mem.bytes (128 * lineOf pa) 128)
  | a, _ => a

/-- R310: a request is performed once, and a repeated one answered again. -/
def State.requestArrive (s : State) (p : Packet) : State :=
  match p.body with
  | .request n ipa op =>
    let f := p.dstFun
    match (s.dup f p.svdn).judge n with
    | .old => s
    | .repeated (some a) => s.sendTo 0 f p.svdn (.response n (s.withLine p ipa a))
    | .repeated none => s
    | .perform =>
      (match (s.setDup f p.svdn ((s.dup f p.svdn).mark n)).performPeer p n ipa op with
      | (s, some a) => s.answer f p.svdn n a
      | (s, none) => s)
  | _ => s

/-- R310, R261. -/
def execNonpostedRequestArrival (p : Packet) (s : State) : Res := .next (s.requestArrive p)

/-! Responses (R200, R310). -/

/-- A request is no longer outstanding; its issue drops its counter (R84). A lock operation counts on none. -/
def State.endNp (s : State) (x : NonPosted) : State :=
  let s := { s with nps := s.nps.filter fun p => p.id != x.id || p.seq != x.seq || p.vdn != x.vdn || p.f != x.f }
  match (s.group? x.bid x.grp).bind fun g => g.queue.find? fun q => q.id == x.id with
  | some q => s.popQueue x.bid x.grp q .ld
  | none => match x.op with
    | .llock .. | .ltry .. | .lunlock .. => s
    | _ => s.settleCnt x.bid x.grp .ld x.tok

/-- A thread's results stay as they are and are no longer waited for; a pair's twin takes the same (R200, R316). -/
def State.unwritten (s : State) (x : NonPosted) (pred : Option Bool) : State :=
  let k : ThreadKey := { bid := x.bid, tid := x.tid }
  let put (t : Thread) : Thread :=
    let t := match x.pred, pred with
      | some p, some b => t.setPred p b
      | _, _ => t
    { t with busy := t.busy.filter (fun r => !x.dst.contains r), busyP := t.busyP.filter fun p => some p != x.pred }
  let s := s.updThread k put
  match s.thread? k with
  | some t => s.forward k x.tok (x.dst.map fun r => Tab.get (fun _ => (0 : Word)) t.regs r) (x.pred.any t.pred) (!(x.dst.isEmpty && x.pred.isNone)) none
  | none => s

/-- The launch of a block, resident or saved. -/
def State.lidOf (s : State) (bid : Nat) : Nat := (s.anyBlock bid).elim 0 fun b => b.lid

/-- The peer address and the VDN that a failed access reports (R139, R200). -/
def NonPosted.trap (x : NonPosted) (c : Cause) : DefTrap := { cause := c.code, addr := x.va, aux := BitVec.ofNat 32 x.vdn }

/-- A group's lock operation at a peer ends without effect: its participants raise a deferred trap, and every stander goes on (R158,
R200, R293). -/
def State.peerLockFails (s : State) (x : NonPosted) (c : Cause) : State :=
  let mine (t : Thread) : Bool := t.bid == x.bid && t.grp == x.grp && (t.wait == Wait.lock || t.wait == Wait.unlock)
  let req := (s.group? x.bid x.grp).bind fun g => g.req
  let ts := s.threads.filter fun t => mine t && req.all fun r => r.members.contains t.tid
  let go (t : Thread) : Thread := if mine t then (if t.wait == Wait.lock then t.next 4 else { t with wait := .none }) else t
  let s := { s.updGroup x.bid x.grp fun g => { g with req := none, unlocking := none } with threads := s.threads.map go }
  -- a trailing twin takes the trap with its leader (R315)
  let s := req.elim s fun r => r.members.foldl (fun s tid => s.forward { bid := x.bid, tid } r.id [] false false (some (x.trap c))) s
  ts.foldl (fun s t => s.deferTrap (s.lidOf x.bid) t.key t.pc (x.trap c)) s

/-- The failure of a request by its kind: a completion store's is an error record (R346), a lock's and an access's a deferred trap. -/
def State.npFails (s : State) (x : NonPosted) (c : Cause) : State :=
  let s := s.endNp x
  match x.done with
  | some lid => s.completionFails lid c
  | none =>
    if x.bid = 0 then s
    else match x.op with
      | .llock .. | .ltry .. | .lunlock .. => s.peerLockFails x c
      | _ =>
        if c = .fabricTimeout && x.pred.isSome then s.unwritten x (some false)
        else
          let pc := ((s.thread? { bid := x.bid, tid := x.tid }).map fun t => t.pc).getD 0
          (s.unwritten x none).deferTrap (s.lidOf x.bid) { bid := x.bid, tid := x.tid } pc (x.trap c)

/-- An `llock` is queued at its home: its answer comes later, and the request is asked again from time to time (R293, log entry 85). -/
def State.npQueued (s : State) (x : NonPosted) : State :=
  { s with nps := updFirst (fun p => p.id == x.id) (fun p => { p with tries := 0, deadline := s.clk + s.tlost p.f }) s.nps }

/-- A request met a line whose check bits fail at its home: the block that made the access is killed (R433, log entry 113). -/
def State.npPoisoned (s : State) (x : NonPosted) : State :=
  match x.done, s.block? x.bid with
  | some lid, _ => (s.endNp x).completionFails lid .accessDenied
  | none, some b => (s.endNp x).killFor x.bid { ErrRec.empty with kind := 6, blk := b.blk, addr := x.va }
  | none, none => s.endNp x

/-- What a performed request brings to the thread or group that waits for it (R156, R158, R160, R200). -/
def State.npDone (s : State) (x : NonPosted) (k v : Nat) : State :=
  match x.op with
  | .llock .. | .ltry .. => s
  | .lunlock .. => s.unlocked x.bid x.grp x.va
  | .lstat =>
    let own := ((s.group? x.bid x.grp).map fun g => g.lockBits x.va).getD 0
    s.deliver { bid := x.bid, tid := x.tid } x.tok x.dst (v + own) none
  | _ =>
    let v := if x.signed = 0 then v else low 32 (sgn x.signed v)
    let s := s.deliver { bid := x.bid, tid := x.tid } x.tok x.dst (v % 2 ^ (8 * max k 4)) (x.pred.map fun p => (p, true))
    if x.acq then s.dropLeases (s.envOf x.bid).core else s

/-- A response ends its request (R200, R293, R310). -/
def State.responseArrive (s : State) (p : Packet) : State :=
  match p.body with
  | .response n a =>
    (match s.nps.find? fun x => x.f == p.dstFun && x.vdn == p.svdn && x.seq == n with
    | none => s
    | some x =>
      let s := s.fabricBytes x.f 10 (payload p.body)
      match a with
      | .refused => s.npFails x .accessDenied
      | .denied st => (s.endNp x).lockResult x.bid x.grp false st
      | .queued => s.npQueued x
      -- the line reaches the waiter's core, whose L1 keeps no peer line (R235, R293)
      | .grant st _ => (s.endNp x).lockResult x.bid x.grp true st
      | .poisoned => s.npPoisoned x
      | .done k v =>
        let s := s.endNp x
        match x.done with
        | some lid => s.finishRecord lid
        | none => if x.bid = 0 then s else s.npDone x k v)
  | _ => s

/-- R200, R310. -/
def execNonpostedResponseArrival (p : Packet) (s : State) : Res := .next (s.responseArrive p)

/-- TLOST without a response: the request again with its number, and after the third time its failure (R139, R200, R310). An `llock`
that fails leaves no waiter at the home (R293). -/
def State.retransmit (s : State) (id : Nat) : State :=
  match s.nps.find? fun x => x.id == id with
  | none => s
  | some x =>
    if x.pent || s.clk < x.deadline || s.frozen x.f then s
    else if x.tries < 3 then
      let again (p : NonPosted) : NonPosted := { p with tries := p.tries + 1, deadline := s.clk + s.tlost p.f }
      { s with nps := updFirst (fun p => p.id == id) again s.nps }.sendTo x.handle x.f x.vdn (.request x.seq x.ipa x.op)
    else
      let s := s.npFails x .fabricTimeout
      match x.op with
      | .llock g _ _ _ | .ltry g _ _ => s.sendFree x.handle x.f x.vdn x.ipa (.lunlock g false) none
      | _ => s

/-- R310. -/
def execRetransmitTimeout (id : Nat) (s : State) : Res := .next (s.retransmit id)

/-! Posted writes (R84). -/

/-- R84: the local port accepts a posted write. -/
def execLocalPortAccept (id : Nat) (s : State) : Res :=
  .next (match s.posts.find? fun x => x.id == id with
    | none => s
    | some x => ({ s with posts := s.posts.filter fun y => y.id != id }.emit x.pkt).settleCnt x.bid x.grp .st x.tok)

/-! Key phases (R427). -/

/-- Whether 10 ms have passed since the last refresh of a pair of functions (R427). -/
def State.mayRefresh (s : State) (k : LinkKey) : Bool :=
  (s.links.filter fun e => sourceKey e.1 == sourceKey k).all fun e => e.2.refreshAt.all fun d => d + us 10000 ≤ s.clk

/-- A change of phase is under way: packets under both phases are received, the new one from counter 0 (R425, R427). -/
def State.freshPhase (s : State) (k : LinkKey) (phase : Bool) : State :=
  let l := s.link k
  let base := ivKey k 0 false / 256
  let s := { s with ivs := s.ivs.filter fun e => !(e.1 / 256 == base && e.1 % 2 == ofBool phase) }
  s.setLink k { l with rxPhase := !phase, both := true, overlap := none, asked := true, refreshAt := some s.clk, wanted := false }

/-- The sender seals all new traffic under the new phase from counter 0 (R427). -/
def State.turnPhase (s : State) (k : LinkKey) (phase : Bool) : State :=
  s.setLink k { s.link k with phase, ctr := 0, asked := false }

/-- The control frame of a refresh at its receiver: a request is answered, and either makes this end seal under the new phase; where both ends asked, each
takes the other's request for the answer (R427, log entry 30). -/
def State.refreshFrame (s : State) (k : LinkKey) (phase answer : Bool) : State :=
  let l := s.link k
  if phase = l.phase then s
  else if answer || l.asked then (if l.asked then s.turnPhase k phase else s)
  else ((s.freshPhase k phase).ctrlTo k.f k.dev k.fun' (.refresh k.handle phase true)).turnPhase k phase

/-! The own step of an accepted packet. -/

/-- Whether a packet's access waits for a page migration at its home (R364). -/
def State.packetWaits (s : State) (p : Packet) : Bool :=
  let at' (ipa : Nat) (w : Bool) : Bool := match s.peerTgt p.dstFun ipa p.handle w with
    | some t => s.waitsMove w t
    | none => false
  match p.body with
  | .write _ _ _ _ a _ => at' a true
  | .request _ a (.ld _) => at' a false
  | .request _ a _ => at' a true
  | .seep _ _ _ a _ _ => (match s.stage2 (p.dstFun % 8) a with
    | some t => s.waitsMove true t.tgt
    | none => false)
  | _ => false

/-- The local block of a peer-known number. -/
def State.bidOf (s : State) (g : GroupRef) : Nat :=
  (((s.blocks ++ s.saved.map fun x => x.block).find? fun b => b.ref == (g.dev, g.bid)).map fun b => b.bid).getD 0

/-- Whether a pending close of this function is the one that a message names. -/
def State.closingIs (s : State) (f win inc epoch : Nat) : Bool :=
  (s.window f win).inc.toNat == inc && (s.window f win).closing.toNat == epoch

/-- An SPDM request in a control frame: its answers go back in control frames to the device that asked (R420, R442). -/
def State.spdmFrame (s : State) (p : Packet) (code a b : Nat) (value : BitVec 256) : Res :=
  match spdmRequest code a b value { s with outbox := [] } with
  | .next t =>
    let say (u : State) (o : Out) : State := match o with
      | .spdm c data sig => u.ctrlTo p.dstFun p.srcDev p.srcFun (.spdmAnswer c data sig [])
      | .spdmBlob c bs => u.ctrlTo p.dstFun p.srcDev p.srcFun (.spdmAnswer c [] 0 bs)
      | o => u.send o
    .next (t.outbox.foldl say { t with outbox := s.outbox })
  | r => r

/-- The step of an accepted packet by what it carries (R303 to R313, R405, R409, R411, R412, R435). At an end whose session failed what was sent to the
moved function is not performed (R413). -/
def State.packetStep (s : State) (p : Packet) : Res :=
  let f := p.dstFun
  let x := s.session f
  let data := packetClass p.body == .nonPosted || packetClass p.body == .posted || (match p.body with
    | .podBarrier .. => true
    | _ => false)
  if data && f < 8 && (x.forwarding || x.frozen.isSome) then execOxbowForward p s
  else if data && s.holds f then .next (s.hold f p)
  else if data && f < 8 && s.migState f = 6 && s.vfState f = 2 then .next s
  else match p.body with
    | .write .. => execWindowWritePacket p s
    | .release .. => execReleasePacket p s
    | .token w i e _ => if s.closingIs f w i e then execTokenArrival f w p.svdn s else .next s
    | .replayReq w i e r => if s.closingIs f w i e then execReplayRequestArrival f w p.svdn e r s else .next s
    | .reject w i e _ => if s.closingIs f w i e then execRejectArrival f w p.svdn s else .next s
    | .loss w i e _ => if s.closingIs f w i e then execLossMessageArrival f w p.svdn s else .next s
    | .flagDenied w i e _ => if s.closingIs f w i e then execFlagDeniedArrival f w p.svdn s else .next s
    | .request .. => execNonpostedRequestArrival p s
    | .response .. => execNonpostedResponseArrival p s
    | .holdExpiry g va => execHoldExpiryMessage (s.bidOf g) g.grp va s
    | .seep .. | .seepImage .. => execSeepWriteArrival p s
    | .seepRelease .. => execImageReleaseArrival p s
    | .seepToken m e _ => .next (if s.fromPeer p m then s.seepToken (f % 8) e else s)
    | .seepReplay m e r => .next (if s.fromPeer p m then s.seepReplay (f % 8) e r else s)
    | .abort m st => .next (if s.fromPeer p m then s.abortArrive (f % 8) p.srcDev st else s)
    | .podBarrier tag mask idx ph => execPodBarrierFrame p.srcDev tag mask idx ph s
    | .switch a b c d m => execVdnSwitchFrame a b c d m s
    | .switchAck d => execVdnSwitchAck d p.srcDev s
    | .refresh h ph ans => .next (s.refreshFrame { f := p.dstFun, dev := p.srcDev, fun' := p.srcFun, handle := h } ph ans)
    | .spdm c a b v => s.spdmFrame p c a b v
    | .spdmAnswer .. => .next s

/-- An accepted packet is taken: its step is done, its slot is free, and the credit of a control packet goes back (R421). -/
def State.takePacket (s : State) (e : Packet × RxSlot) : Res :=
  let s := { s with accepted := s.accepted.erase e }
  let s := if e.2 ≠ .control then s else if e.1.srcDev = s.phys then s.creditBack s.phys else s.send (.credit e.1.srcDev)
  s.packetStep e.1

end Sys2Proof.Machine
end

