-- ==== Sys2Proof/Machine/Link.lean ====
section
/-! DEFINITION. The optical link: fibres and key phases (R416 to R419, R424 to R427). -/

namespace Sys2Proof.Machine

/-- A transmit fibre by its number (R419). -/
def fibreKey (g fibre : Nat) : Nat := 32 * (g % 4) + fibre % 32

/-- A fibre leaves its stripe: what it carries is lost, and its next test comes 100 ms later (R419, log entry 120). -/
def State.fibreOut (s : State) (g fibre : Nat) : State :=
  let r := 0x0DA0 + g % 4
  let k := fibreKey g fibre
  if !bit (s.sys r).toNat (fibre % 32) then s
  else
    { s.setSys r (s.sys r &&& ~~~(BitVec.ofNat 32 (2 ^ (fibre % 32)))) with
      fibreErrs := Tab.set (fun _ => []) s.fibreErrs k [], fibreRuns := Tab.set (fun _ => 0) s.fibreRuns k 0,
      fibreNext := Tab.set (fun _ => 0) s.fibreNext k (s.clk + us 100000) }.send (.flitsLost (g % 4) (fibre % 32))

/-- R419: a fibre that loses lock, or shows the 16th flit CRC error within 1 ms, leaves the stripe. -/
def execFibreLeaveStripe (g : Nat) (x : FibreFault) (s : State) : Res :=
  let k := fibreKey g x.fibre
  let es := s.clk :: (Tab.get (fun _ => []) s.fibreErrs k).filter fun c => s.clk < c + us 1000
  .next (if x.lock || 16 ≤ es.length then s.fibreOut g x.fibre else { s with fibreErrs := Tab.set (fun _ => []) s.fibreErrs k es })

/-- The devices that a transmit group of this device reaches (R417). -/
def State.groupDevs (s : State) (g : Nat) : List Nat := (List.range 64).filter fun d => d != s.phys && Config.receivePort s.phys d == g

/-- R419: an idle flit of a fibre's test, which may begin every 100 ms: with an error the test ends, and after 1 ms without one the fibre rejoins; held
control packets of its group leave (R421). -/
def execFibreTest (g fibre : Nat) (good : Bool) (s : State) : Res :=
  let r := 0x0DA0 + g % 4
  let k := fibreKey g fibre
  let since := Tab.get (fun _ => 0) s.fibreRuns k
  let run (n : Nat) : State := { s with fibreRuns := Tab.set (fun _ => 0) s.fibreRuns k n }
  .next (if bit (s.sys r).toNat (fibre % 32) then s
    else if !good then run 0
    else if since = 0 then
      (if s.clk < Tab.get (fun _ => 0) s.fibreNext k then s
       else { run (s.clk + 1) with fibreNext := Tab.set (fun _ => 0) s.fibreNext k (s.clk + us 100000) })
    else if s.clk + 1 < since + us 1000 then s
    else ((run 0).setSys r (s.sys r ||| BitVec.ofNat 32 (2 ^ (fibre % 32)))).flushCtrl (s.groupDevs (g % 4)))

/-! The order in which packets leave a transmit group (R420). -/

/-- The transmit weight of a function (R422). -/
def State.txWeight (s : State) (f : Nat) : Nat := (s.sys (fReg 0x0D00 f 0)).toNat % 16

/-- The class that goes before the weighted ones: control, and migration during its session's stop phase (R405, R420). -/
def State.txFirst (s : State) (l : List Packet) : Option Packet :=
  match l.find? fun p => packetClass p.body == .control with
  | some p => some p
  | none => l.find? fun p => packetClass p.body == .migration && s.migState p.srcFun == 3

/-- Deficit round robin over the functions with traffic for a group: the function served last goes on while its deficit lasts, else the next one gets
`TXW` times the bytes of the largest packet more (R420, log entry 117). -/
def State.txRobin (s : State) (g : Nat) (l : List Packet) : Option (State × Packet) :=
  let head (f : Nat) : Option Packet := l.find? fun p => p.srcFun == f
  let cur := Tab.get (fun _ => 0) s.txTurn g
  let have' (f : Nat) : Nat := Tab.get (fun _ => 0) s.txDeficit (16 * g + f)
  let pay (f d : Nat) (p : Packet) : State × Packet :=
    ({ s with txTurn := Tab.set (fun _ => 0) s.txTurn g f,
              txDeficit := Tab.set (fun _ => 0) s.txDeficit (16 * g + f) (if (l.filter fun q => q.srcFun == f).length = 1 then 0 else d - 32 * flitsOf p.body) }, p)
  match (head cur).filter fun p => 32 * flitsOf p.body ≤ have' cur with
  | some p => some (pay cur (have' cur) p)
  | none => ((List.range 9).map fun i => (cur + 1 + i) % 9).findSome? fun f =>
      (head f).map fun p => pay f (have' f + 192 * s.txWeight f) p

/-- The next packet of a transmit group leaves (R417 to R420). -/
def State.transmit (s : State) (g : Nat) : State :=
  let l := s.txq.filter fun p => Config.receivePort s.phys p.dstDev == g
  match s.txFirst l, s.txRobin g l with
  | some p, _ => { s with txq := s.txq.erase p }.launchPacket p
  | none, some (t, p) => { t with txq := s.txq.erase p }.launchPacket p
  | none, none => s

/-- Whether this end asks for a change of phase: it wants one, or the counter has come to its end, and it has not yet asked (R427). -/
def State.wantsRefresh (s : State) (k : LinkKey) : Bool :=
  let l := s.link k
  (l.wanted || 2 ^ 48 ≤ l.ctr) && !l.asked && s.mayRefresh k

/-- The security core asks the other end for a change of phase by a control frame; packets of the new phase may come before the answer (R427). -/
def State.askRefresh (s : State) (k : LinkKey) : State :=
  if !s.mayRefresh k then s
  else
    let l := s.link k
    (s.freshPhase k (!l.phase)).ctrlTo k.f k.dev k.fun' (.refresh k.handle (!l.phase) false)

/-- R427. -/
def execKeyPhaseChange (k : LinkKey) (s : State) : Res := .next (s.askRefresh k)

/-- R427: 2 ms after the first packet of the new phase the old one is no longer received. -/
def execKeyPhaseOverlapEnd (k : LinkKey) (s : State) : Res :=
  let l := s.link k
  .next (if l.overlap.any fun d => d ≤ s.clk then s.setLink k { l with rxPhase := !l.rxPhase, both := false, overlap := none } else s)

end Sys2Proof.Machine
end

