-- ==== Sys2Proof/Machine/MatRun.lean ====
section
/-! DEFINITION. The matrix engine at work: `mma` and its checks, fills, loads and drains, gangs, faults in a slot fill, and scrubs (R66 to
R70, R183 to R194, R271 to R278). -/

namespace Sys2Proof.Machine

/-! Slots and tiles (R184). -/

/-- A byte of an operand slot. -/
def Core.slotByte (c : Core) (slot k : Nat) : Nat := (c.slots.byte (8192 * slot + k)).toNat

/-- Element `k` of a run of `w`-bit elements packed from a byte of a slot on (R52). -/
def Core.packed (c : Core) (slot base w k : Nat) : Nat :=
  let p := w * k
  c.slots.read (8192 * slot + base + p / 8) ((w + 7) / 8) / 2 ^ (p % 8) % 2 ^ w

/-- A cell of an accumulator tile; a column may lie in a later tile (R184). -/
def cellKey (tile i j : Nat) : Nat := 8192 * (tile + j / 128) + 128 * i + j % 128

def Core.cell (c : Core) (key : Nat) : Nat := (Tab.get (fun _ => (0 : Word)) c.tiles key).toNat

def Core.setCell (c : Core) (key v : Nat) : Core := { c with tiles := Tab.set (fun _ => (0 : Word)) c.tiles key (BitVec.ofNat 32 v) }

/-! The arithmetic of `mma` (R22, R66 to R70). -/

/-- K of a major's low bits (R22). -/
def mmaK (f : Nat) : Nat :=
  match f with
  | 0 | 1 | 7 => 32
  | 6 => 128
  | _ => 64

/-- The element formats of A and B; INT8's are read as integers. -/
def mmaA (f : Nat) : Fmt :=
  match f with
  | 0 => .fp16 | 2 | 3 => .e4m3 | 4 => .e5m2 | 6 => .e2m1 | _ => .bf16

def mmaB (f : Nat) : Fmt := if f = 3 then .e5m2 else mmaA f

/-- The element width. -/
def mmaW (f : Nat) : Nat :=
  match f with
  | 0 | 1 | 7 => 16
  | 6 => 4
  | _ => 8

/-- The metadata code of group `q` of row `i` (R186). -/
def Core.spCode (c : Core) (md i q : Nat) : Nat := c.slotByte md (32 * i + q / 2) / 16 ^ (q % 2) % 16

/-- Whether a code is legal (R70). -/
def codeOk (x : Nat) : Bool := x % 4 < x / 4

/-- The stored place of logical position `k` of row `i`, if it is kept (R70, R186). -/
def Core.kept (c : Core) (md : Option Nat) (i k : Nat) : Option Nat :=
  match md with
  | none => some k
  | some s =>
    let x := c.spCode s i (k / 4)
    if !codeOk x then none
    else if k % 4 = x % 4 then some (2 * (k / 4))
    else if k % 4 = x / 4 then some (2 * (k / 4) + 1)
    else none

/-- Whether an `mma` takes scales (R67). -/
def mmaScaled (f : Nat) (cfg : Pcfg) : Bool := f == 6 || ((f == 2 || f == 3 || f == 4) && cfg.fp8Scales)

/-- Where column `j` of B lies: slot and byte (R184). -/
def colOf (sb : Nat) (md : Option Nat) (j : Nat) : Nat × Nat :=
  if md.isSome then (sb + j / 64, 128 * (j % 64)) else (sb + j / 128, 64 * (j % 128))

/-- The new value of a cell, with the conditions of its roundings (R66 to R68). -/
def Core.mmaCell (c : Core) (f sa sb : Nat) (md : Option Nat) (cfg : Pcfg) (i j old : Nat) : Nat × Conds :=
  let kl := if md.isSome then 2 * mmaK f else mmaK f
  let w := mmaW f
  let (slot, base) := colOf sb md j
  let a (m : Nat) : Nat := c.packed sa (64 * i) w m
  let b (k : Nat) : Nat := c.packed slot base w k
  if f = 5 then
    let sum := (List.range kl).foldl (fun (x : Int) k => match c.kept md i k with
      | some m => x + sgn 8 (a m) * sgn 8 (b k)
      | none => x) 0
    (low 32 (old + sum), 0)
  else
    (List.range (kl / 16)).foldl (fun (y : Nat × Conds) ch =>
      let prods := (List.range 16).map fun t =>
        let k := 16 * ch + t
        match c.kept md i k with
        | some m => Val.mul ((mmaA f).decode (a m)) ((mmaB f).decode (b k))
        | none => Val.num false 0 0
      let scale := if mmaScaled f cfg then
          some (Val.mul (scaleVal (c.slotByte sa (4096 + 8 * i + ch / 2))) (scaleVal (c.slotByte cfg.bSlot (8 * j + ch / 2))))
        else none
      let (v, e) := chunkAdd y.1 prods scale
      (v, y.2 ||| e)) (old, 0)

/-- Whether the metadata that an `mma` uses holds an illegal code (R275). -/
def Core.spBad (c : Core) (f m : Nat) (md : Option Nat) : Bool :=
  match md with
  | none => false
  | some s => (List.range m).any fun i => (List.range (2 * mmaK f / 4)).any fun q => !codeOk (c.spCode s i q)

/-- The matrix status bits of conditions (R194). -/
def mstatOf (c : Conds) : BitVec 3 := BitVec.ofNat 3 (ofBool (c &&& Conds.nv != 0) + 2 * ofBool (c &&& Conds.of != 0))

/-- The cells of an `mma`, and its status (R186). -/
def Core.mma (c : Core) (f n m acc sa sb : Nat) (md : Option Nat) (cfg : Pcfg) : Core × BitVec 3 :=
  let r := (List.range (m * n)).foldl (fun (r : Core × Conds) k =>
    let key := cellKey acc (k / n) (k % n)
    let (v, e) := c.mmaCell f sa sb md cfg (k / n) (k % n) (c.cell key)
    (r.1.setCell key v, r.2 ||| e)) (c, 0)
  (r.1, mstatOf r.2 ||| (if c.spBad f m md then 4 else 0))

/-- The meter of a format's MACs (R208). -/
def macMeter (f : Nat) : Nat :=
  match f with
  | 6 => 0 | 2 | 3 | 4 => 1 | 5 => 2 | 7 => 4 | _ => 3

/-! Order of a group's commands (R193, R273). -/

/-- The oldest command of a group. -/
def State.matHead (s : State) (bid grp : Nat) : Option MatCmd :=
  (s.mcmds.filter fun m => m.bid == bid && m.groups.contains grp).foldl (fun o m => match o with
    | none => some m
    | some x => if m.id < x.id then some m else some x) none

/-- Whether a command is the oldest of each of its groups and what its acquire waits for is done. -/
def State.matTurn (s : State) (m : MatCmd) : Bool :=
  m.groups.all (fun g => (s.matHead m.bid g).any fun x => x.id == m.id) && !s.acqHeld m.bid m.grp m.tid m.before

/-- A command completes: its entry is freed, TL drops, and releases that waited for it take effect (R183, R193). -/
def State.dropMat (s : State) (m : MatCmd) : State :=
  let s := { s with mcmds := s.mcmds.filter fun x => x.id != m.id }
  (m.groups.foldl (fun s g => s.settleCnt m.bid g .tl m.tok) s).settleClaims m.core

/-- Threads of a command's groups that wait for its metadata go on past the `mma`, which is a pair (R186). -/
def State.passSparse (s : State) (m : MatCmd) : State :=
  { s with threads := s.threads.map fun (t : Thread) =>
      if t.bid == m.bid && m.groups.contains t.grp && t.wait == Wait.sparse then t.next 8 else t }

/-- The trap of illegal metadata in every participant; the other threads issue anew (R186, R275). -/
def State.trapSparse (s : State) (m : MatCmd) : State :=
  let back (t : Thread) : Thread := if t.bid == m.bid && m.groups.contains t.grp && t.wait == Wait.sparse then { t with wait := .none } else t
  let s := { s with threads := s.threads.map back }
  m.part.foldl (fun s k => match s.thread? k with
    | some t => s.takeTrap k t.pc t.pc { cause := Cause.sparseMeta.code, addr := 0, aux := 0 }
    | none => s) s

/-- An `mma` is performed (R186, R273, R275, R440). -/
def State.runMma (s : State) (m : MatCmd) (f n rows acc sa sb : Nat) (md : Option Nat) : State :=
  let c := s.core m.core
  if !m.part.isEmpty && c.spBad f rows md then (s.dropMat m).trapSparse m
  else
    let (c', st) := c.mma f n rows acc sa sb md m.cfg
    let fn := (s.envOf m.bid).f
    let s := ((s.setCore m.core c').coreEvent m.core 14 1).meter fn (dieOf m.core) (macMeter f) (rows * n * mmaK f)
    let s := m.groups.foldl (fun s g => s.updGroup m.bid g fun g => { g with mstat := g.mstat ||| st }) s
    (s.passSparse m).dropMat m

/-! Memory that the matrix commands reach, in pieces of at most 16 bytes (R189 to R192). -/

/-- Where the leading pieces of a list lead, and the fault of the first that does not resolve. -/
def State.pieces (s : State) (e : Env) (a : Acc) : List (VAddr × Nat) → List (VAddr × Target × Nat) × Option TrapInfo
  | [] => ([], none)
  | (va, n) :: r => match s.check e a va n n with
    | .error x => ([], some x)
    | .ok t =>
      let (l, x) := s.pieces e a r
      ((va, t, n) :: l, x)

/-- Pieces of 16 bytes from an address on. -/
def run16 (a : VAddr) (n : Nat) : List (VAddr × Nat) := (List.range n).map fun p => (a + BitVec.ofNat 64 (16 * p), 16)

/-- Row `r` of a descriptor's address and pitch. -/
def rowAddr (w : List Word) (r : Nat) : VAddr := BitVec.ofInt 64 ((dAddr w 0).toNat + r * sgn 32 (dw w 2))

/-- The group of scales that a dequantising fill takes (R190). -/
def dqGroup (cfg : Pcfg) (w : List Word) : Nat := dw w 5 / (if cfg.g128 then 128 else 32)

/-- What row `r` of a dequantising fill reads: weights, scale and zero point (R190, R274). -/
def dqPieces (cfg : Pcfg) (w : List Word) (r : Nat) : List (VAddr × Nat) :=
  let j := dw w 4 + r
  let g := dqGroup cfg w
  [(rowAddr w r, 16), (cfg.s + BitVec.ofNat 64 (j * cfg.pitchS + 2 * g), 2), (cfg.z + BitVec.ofNat 64 (j * cfg.pitchZ + g / 2), 1)]

/-- Rows of a fill. -/
def fillRows (w : List Word) : Nat := bits (dw w 3) 12 0 + 1

/-- Rows of a drain. -/
def drainRows (w : List Word) : Nat := bits (dw w 3) 11 6 + 1

/-- Bytes of a drained cell. -/
def drainSize (w : List Word) : Nat :=
  match bits (dw w 3) 2 0 with
  | 1 | 2 => 2
  | 3 | 4 => 1
  | _ => 4

/-- The pieces of a command's memory, in its order, and their kind of access. -/
def MatCmd.touches (m : MatCmd) : List (VAddr × Nat) × Acc :=
  match m.kind with
  | .fill _ w => ((List.range (fillRows w)).flatMap fun r => run16 (rowAddr w r) 4, .engR)
  | .fillDq _ w => ((List.range (fillRows w)).flatMap (dqPieces m.cfg w), .engR)
  | .aload _ ea => (run16 ea 2048, .engR)
  | .drain _ w | .drainAdd _ w => ((List.range (drainRows w)).flatMap fun r => run16 (rowAddr w r) (8 * drainSize w), .engW)
  | _ => ([], .engR)

/-- Where a command's memory leads, and its first fault; a `tdrain.add` reaches local global memory alone (R192). -/
def State.matPieces (s : State) (m : MatCmd) : List (VAddr × Target × Nat) × Option TrapInfo :=
  let (ps, a) := m.touches
  let (l, x) := s.pieces (s.envOf m.bid) a ps
  match m.kind with
  | .drainAdd _ _ =>
    let far (p : VAddr × Target × Nat) : Bool := match p.2.1 with
      | .loc _ => false
      | _ => true
    (match l.find? far with
    | some p => (l, some { cause := .accessDenied, addr := p.1, aux := 0 })
    | none => (l, x))
  | _ => (l, x)

/-- Whether a command works on memory: in a pair the leader performs it for both copies (R315). -/
def MatKind.onMemory (k : MatKind) : Bool :=
  match k with
  | .fill _ _ | .fillDq _ _ | .aload _ _ | .drain _ _ | .drainAdd _ _ => true
  | _ => false

/-- The twin's command, for the leader's command of a pair. -/
def State.twinCmd (s : State) (m : MatCmd) : Option MatCmd :=
  match s.block? m.bid with
  | some b => if b.role == .lead then s.matHead b.mate m.grp else none
  | none => none

/-- The walks that a memory command's pieces need (R359). -/
def State.matMisses (s : State) (m : MatCmd) : List WalkReq :=
  if (s.block? m.bid).isSome then s.missing (s.envOf m.bid) (m.touches.1.map fun p => p.1) else []

/-- Whether a memory command may be performed: the trailer's with its leader's, the leader's once its twin's is due (R315); and once the walks of its
pieces are done (R359). -/
def State.pairTurn (s : State) (m : MatCmd) : Bool :=
  match s.block? m.bid with
  | none => true
  | some b => match b.role with
    | .solo => (s.matMisses m).isEmpty
    | .trail => false
    | .lead => (s.twinCmd m).any (fun x => x.kind == m.kind) && (s.matMisses m).isEmpty

/-- A memory command of a pair completes in both copies. -/
def State.dropBoth (s : State) (m : MatCmd) : State :=
  match s.twinCmd m with
  | some x => (s.dropMat m).dropMat x
  | none => s.dropMat m

/-- The cores whose slots and tiles a command's data reaches: both copies' of a pair (R315). -/
def State.bothCores (s : State) (m : MatCmd) : List Nat :=
  m.core :: (match s.twinCmd m with
    | some x => [x.core]
    | none => [])

/-- The bytes of piece `k` that a command has read or written ahead of the rest (R258). -/
def MatCmd.bytesOf (m : MatCmd) (k : Nat) : List Byte := ((m.moved.find? fun x => x.1 == k).map fun x => x.2).getD []

/-- What is left of a command's pieces, each from its first byte that has not moved. -/
def MatCmd.rest (m : MatCmd) (l : List (VAddr × Target × Nat)) : List (VAddr × Target × Nat) :=
  l.zipIdx.map fun (p, k) => let n := (m.bytesOf k).length
    (p.1, p.2.1.offset n, p.2.2 - n)

/-- The bytes of the pieces that a command reads, with those that it has read. -/
def State.pieceBytes (s : State) (m : MatCmd) (l : List (VAddr × Target × Nat)) : List Byte :=
  (m.rest l).zipIdx.flatMap fun (p, k) => m.bytesOf k ++ s.bytesAt m.bid p.2.1 p.2.2

/-- The homes serve a command's reads. -/
def State.serve (s : State) (e : Env) (l : List (VAddr × Target × Nat)) : State :=
  (l.filter fun p => p.2.2 != 0).foldl (fun s p => s.serveRead e p.2.1 p.2.2) s

/-- What a dequantising fill reads of its pieces: each weight row, and a scale or zero point that rows share once for all of them (R274). -/
def dqReads (l : List (VAddr × Target × Nat)) : List (VAddr × Target × Nat) := l.filter (fun p => 2 < p.2.2) ++ (l.filter fun p => p.2.2 ≤ 2).eraseDups

/-- The 64 bytes that a dequantised row of 16 + 2 + 1 bytes becomes (R51, R190). -/
def dqRow (g : Nat) (bs : List Byte) : List Byte :=
  let q := leNat (bs.take 16)
  let sc := leNat ((bs.drop 16).take 2)
  let z := leNat (bs.drop 18) / 16 ^ (g % 2) % 16
  (List.range 32).flatMap fun k => leBytes (dequant (sgn 4 (q / 16 ^ k % 16)) (sgn 4 z) sc) 2

/-- Rows of `n` bytes of a list. -/
def rowsOf (n : Nat) (bs : List Byte) : Nat → List (List Byte)
  | 0 => []
  | k + 1 => bs.take n :: rowsOf n (bs.drop n) k

/-- Slot data reaches the cores. -/
def State.fillSlots (s : State) (cores : List Nat) (slot : Nat) (data : List Byte) : State :=
  cores.foldl (fun s n => let c := s.core n
    s.setCore n { c with slots := c.slots.store (8192 * slot) data }) s

/-- Words reach a tile's cells in order. -/
def Core.loadTile (c : Core) (tile : Nat) (data : List Byte) : Core :=
  (List.range (data.length / 4)).foldl (fun c k => c.setCell (8192 * tile + k) (leNat ((data.drop (4 * k)).take 4))) c

def State.fillTile (s : State) (cores : List Nat) (tile : Nat) (data : List Byte) : State :=
  cores.foldl (fun s n => s.setCore n ((s.core n).loadTile tile data)) s

/-- A drained cell and its conditions (R192). -/
def drainCell (w : List Word) (x : Nat) : List Byte × Conds :=
  let f := dw w 3
  let out (g : Fmt) (n : Nat) : List Byte × Conds :=
    let r := cvtF g (Mode.of (bits f 5 4)) (bit f 3) (Fmt.fp32.decode x)
    (leBytes r.1 n, r.2)
  match bits f 2 0 with
  | 1 => out .fp16 2
  | 2 => out .bf16 2
  | 3 => out .e4m3 1
  | 4 => out .e5m2 1
  | _ => (leBytes x 4, 0)

/-- The cells that a drain writes, in order. -/
def Core.drained (c : Core) (tile : Nat) (w : List Word) : List (List Byte × Conds) :=
  (List.range (128 * drainRows w)).map fun k => drainCell w (c.cell (8192 * tile + k))

/-- What is left of a drain's pieces of 16 bytes is written where it leads. -/
def State.drainTo (s : State) (e : Env) (m : MatCmd) (l : List (VAddr × Target × Nat)) (data : List Byte) : State :=
  ((m.rest l).zip (rowsOf 16 data l.length)).foldl (fun s p =>
    if p.1.2.2 = 0 then s else s.writeTgt e none p.1.2.1 (p.2.drop (16 - p.1.2.2))) s

/-- The cells of a `tdrain.add` are applied at their homes (R192, R276). -/
def State.addTo (s : State) (e : Env) (fp : Bool) (l : List (VAddr × Target × Nat)) (data : List Byte) : State :=
  (l.zip (rowsOf 16 data l.length)).foldl (fun s p => match p.1.2.1 with
    | .loc pa =>
      let new := (List.range 4).flatMap fun k =>
        let x := s.mem.read (pa + 4 * k) 4
        let y := leNat ((p.2.drop (4 * k)).take 4)
        leBytes (if fp then fadd32 x y else x + y) 4
      (s.homeUpdate e.f e.tag pa new).carried true e.core pa new.length
    | _ => s) s

/-- The rows of a drain whose entries match in both copies, up to the first that does not (R315, R317): all of them outside a pair. -/
def State.rowsAlike (s : State) (m : MatCmd) (tile : Nat) (w : List Word) : Nat :=
  match s.twinCmd m with
  | some x =>
    let row (c r : Nat) := (((s.core c).drained tile w).drop (128 * r)).take 128
    ((List.range (drainRows w)).takeWhile fun r => row x.core r == row m.core r).length
  | none => drainRows w

/-- The pieces of a command that the twins' matching rows let it write, where some row does not match. -/
def State.pairPieces (s : State) (m : MatCmd) : Option Nat :=
  match m.kind with
  | .drain t w | .drainAdd t w =>
    let k := s.rowsAlike m t w
    if k = drainRows w then none else some (8 * drainSize w * k)
  | _ => none

/-- Rows of a pair that drain differently are a mismatch of the group (R315, R318). -/
def State.drainMismatch (s : State) (m : MatCmd) : State := (s.dropBoth m).mismatch m.bid m.grp 0

/-- The effect of a memory command on the pieces `l` that it has reached. -/
def State.runPieces (s : State) (m : MatCmd) (l : List (VAddr × Target × Nat)) : State :=
  let e := s.envOf m.bid
  let cores := s.bothCores m
  match m.kind with
  | .fill sl _ => ((s.serve e (m.rest l)).fillSlots cores sl (s.pieceBytes m l))
  | .fillDq sl w =>
    ((s.serve e (dqReads (m.rest l))).fillSlots cores sl ((rowsOf 19 (s.pieceBytes m l) (fillRows w)).flatMap (dqRow (dqGroup m.cfg w))))
  | .aload t _ => ((s.serve e (m.rest l)).fillTile cores t (s.pieceBytes m l))
  | .drain t w =>
    let cells := ((s.core m.core).drained t w).take (l.length * 16 / drainSize w)
    let st := mstatOf (cells.foldl (fun c x => c ||| x.2) 0)
    (s.drainTo e m l (cells.flatMap fun x => x.1)).updPair m.bid m.grp fun g => { g with mstat := g.mstat ||| st }
  | .drainAdd t w => s.addTo e (bits (dw w 3) 2 0 == 0) l (((s.core m.core).drained t w).flatMap fun x => x.1)
  | _ => s

/-- Whether a page migration holds a command's access. -/
def State.piecesWait (s : State) (m : MatCmd) (l : List (VAddr × Target × Nat)) : Bool :=
  l.any fun p => s.blocked m.core (m.touches.2 == .engW) p.2.1

/-- A memory command whose pieces all resolve is performed (R189 to R192): every read or write that it has not made ahead (R258, R279). -/
def State.runMemory (s : State) (m : MatCmd) : State :=
  match s.matPieces m with
  | (_, some _) => s
  | (l, none) =>
    if s.piecesWait m l then s
    else match l.find? fun p => s.poison p.2.1 p.2.2 with
      | some p => (s.dropBoth m).poisonKill m.bid p.2.1 p.1
      | none =>
        match s.pairPieces m with
        | none => (s.runPieces m l).dropBoth m
        | some k => (s.runPieces m (l.take k)).drainMismatch m

def State.updMat (s : State) (m : MatCmd) : State := { s with mcmds := updFirst (fun x => x.id == m.id) (fun _ => m) s.mcmds }

/-- One access to piece `k` of a memory command, ahead of the rest: a read of a fill or `aload`, a write of a plain drain; the cells of a `tdrain.add`
have one instant (R192, R258, log entry 101). 16 bytes of host memory are two accesses (R141). -/
def State.matAhead (s : State) (m : MatCmd) (k : Nat) : State :=
  let l := (s.matPieces m).1
  if !m.kind.onMemory || !s.matTurn m || !s.pairTurn m then s
  else match l[k]? with
    | none => s
    | some (va, t, n) =>
      let x := m.bytesOf k
      let c := t.piece (n - x.length)
      let u := t.offset x.length
      let move (s : State) (bs : List Byte) : State := s.updMat { m with moved := (m.moved.filter fun y => y.1 != k) ++ [(k, x ++ bs)] }
      if c = 0 || s.piecesWait m [(va, t, n)] then s
      else match m.kind with
        | .drainAdd _ _ => s
        | .drain tile w =>
          if (s.pairPieces m).any fun r => r ≤ k then s
          else if s.poison t n then (s.dropBoth m).poisonKill m.bid t va
          else
            let data := (((s.core m.core).drained tile w).flatMap fun y => y.1).drop (16 * k + x.length)
            move (s.writeTgt (s.envOf m.bid) none u (data.take c)) (data.take c)
        | _ =>
          if s.poison t n then (s.dropBoth m).poisonKill m.bid t va
          else move (s.serveRead (s.envOf m.bid) u c) (s.bytesAt m.bid u c)

/-- R266; an index of a matrix command stands for one access to a piece of its memory (R258, log entry 101). -/
def execCopyElementLand (cmd idx : Nat) (s : State) : Res :=
  .next (match s.mcmds.find? fun m => m.id == cmd with
    | some m => s.matAhead m idx
    | none => s.copyLand cmd idx)

/-- The oldest command of a group is performed, if it is that of every member (R193, R273). -/
def State.matComplete (s : State) (bid grp : Nat) : State :=
  match s.matHead bid grp with
  | none => s
  | some m =>
    if !s.matTurn m then s
    else match m.kind with
      | .pcfg _ => s.dropMat m
      | .azero t n =>
        let c := s.core m.core
        (s.setCore m.core { c with tiles := c.tiles.filter fun e => e.1 < 8192 * t || 8192 * (t + n) ≤ e.1 }).dropMat m
      | .mma f n rows acc sa sb md _ => s.runMma m f n rows acc sa sb md
      | _ => if s.pairTurn m then s.runMemory m else s

/-- R193. -/
def execMatrixCommandComplete (bid grp : Nat) (s : State) : Res := .next (s.matComplete bid grp)

/-! Faults (R178, R191, R192, R278). -/

/-- The fault of a load or drain stops it: what came before it stands, but nothing of a `tdrain.add` (R191, R192, R277). The threads of a
killed block get no trap (R278). -/
def State.matStop (s : State) (m : MatCmd) : State :=
  if !s.matTurn m || !s.pairTurn m then s
  else match m.kind, s.matPieces m with
    | .fill _ _, _ | .fillDq _ _, _ => s
    | _, (_, none) => s
    | k, (l, some x) =>
      let add := match k with
        | .drainAdd _ _ => true
        | _ => false
      if s.piecesWait m l then s
      else if (s.pairPieces m).any fun n => n < l.length then (s.runPieces m (l.take ((s.pairPieces m).getD 0))).drainMismatch m
      else
        let n := if add then 0 else 16 * l.length
        let lid := (s.block? m.bid).elim 0 fun b => b.lid
        let s := if add then s else s.runPieces m l
        (s.dropBoth m).deferTrap lid { bid := m.bid, tid := m.tid } m.pc { cause := x.cause.code, addr := x.addr, aux := BitVec.ofNat 32 n }

/-- R178, R191. -/
def execEngineFaultStop (cmd : Nat) (s : State) : Res :=
  .next (match s.copies.find? fun c => c.id == cmd, s.mcmds.find? fun m => m.id == cmd with
    | some c, _ => s.copyStop c
    | none, some m => s.matStop m
    | none, none => s)

/-- A slot fill that faults kills its block, which is placed again in a restartable launch, at most three times; an error record of kind 2 and
the launch's failure follow the block's end otherwise (R278). A fill of a block already killed is discarded. -/
def State.fillFault (s : State) (bid grp : Nat) : State :=
  match s.matHead bid grp, s.block? bid with
  | some m, some b =>
    let isFill := match m.kind with
      | .fill _ _ | .fillDq _ _ => true
      | _ => false
    if !isFill || !s.matTurn m || !s.pairTurn m then s
    else match (s.matPieces m).2, s.launch? b.lid with
      | some x, some l =>
        if b.dying then s.dropBoth m
        else
          let again := l.record.restartable && b.relaunch < 3
          let r : ErrRec := { ErrRec.empty with kind := 2, cause := x.cause.code, blk := b.blk, pc := m.pc, addr := x.addr, tid := m.tid }
          let note (b : Block) : Block := { b with record := if again then none else some r }
          let twin := s.twinCmd m
          let s := (s.updBlock bid note).killBlock bid again m.id
          match twin with
          | some y => s.killBlock b.mate again y.id
          | none => s
      | _, _ => s
  | _, _ => s

/-- R278. -/
def execSlotFillFault (bid grp : Nat) (s : State) : Res := .next (s.fillFault bid grp)

/-- R271: a scrubbed slot or tile reads 0 and is free. -/
def execSlotScrubDone (core idx : Nat) (s : State) : Res :=
  let c := s.core core
  .next (if c.claim idx != .scrub then s
    else
      let c := c.setClaims [idx] .free
      s.setCore core (if idx < 64 then { c with slots := c.slots.zero (8192 * idx) 8192 }
        else { c with tiles := c.tiles.filter fun e => e.1 / 8192 != idx - 64 }))

/-! Gangs (R187, R273). -/

/-- The live groups that a gang register lists. -/
def State.members (s : State) (bid : Nat) (gang : BitVec 16) : List Group :=
  ((List.range 16).filter fun k => gang.getLsbD k).filterMap fun k => s.group? bid k

/-- The configuration fields that an `mma` uses (R187). -/
def mmaFields (k : MatKind) (c : Pcfg) : List Nat :=
  match k with
  | .mma f _ _ _ _ _ md _ =>
    (if f = 2 || f = 3 || f = 4 then [ofBool c.fp8Scales] else []) ++ (if mmaScaled f c then [c.bSlot] else []) ++
    (if md.isSome then [ofBool c.sparseTrap] else [])
  | _ => []

/-- Whether two waiting members agree (R187). -/
def agree (g h : Group) : Bool :=
  g.gang == h.gang && (match g.latch, h.latch with
  | some a, some b => a.kind == b.kind && a.guard == b.guard && a.len == b.len && mmaFields a.kind g.pcfg == mmaFields b.kind h.pcfg
  | _, _ => false)

/-- Members that do not agree: every participant traps, and the other threads issue anew (R187). -/
def State.gangTrap (s : State) (bid : Nat) (gs : List Group) : State :=
  let s := gs.foldl (fun s g => s.updGroup bid g.idx fun g => { g with latch := none }) s
  let back (t : Thread) : Thread :=
    if t.bid == bid && t.wait == Wait.gang && gs.any (fun g => g.idx == t.grp) then { t with wait := .none } else t
  let s := { s with threads := s.threads.map back }
  gs.foldl (fun s g => match g.latch with
    | some l => l.part.foldl (fun s tid =>
        s.takeTrap { bid, tid } l.pc l.pc { cause := Cause.gangMismatch.code, addr := 0, aux := 0 }) s
    | none => s) s

/-- The command of a gang enters the queue, and each member counts it (R273). -/
def State.gangQueue (s : State) (bid : Nat) (gs : List Group) (g : Group) (l : Latch) : State :=
  let ids := gs.map fun x => x.idx
  let kind := match l.kind with
    | .mma f n m acc sa sb md _ => MatKind.mma f n m acc sa sb md ids
    | k => k
  let checks := mmaChecks l.kind g.pcfg
  let part : List ThreadKey := gs.flatMap fun x => (x.latch.elim [] fun y => y.part).map fun tid => { bid, tid }
  let cmd : MatCmd := {
    id := s.nextId, tok := s.nextId + 1, core := (s.envOf bid).core, bid, grp := g.idx, tid := l.part.headD 0, pc := l.pc, kind,
    before := none, cfg := g.pcfg, part := if checks then part else [], moved := [] }
  let s := { s with nextId := s.nextId + 2, mcmds := s.mcmds ++ [cmd] }
  let s := gs.foldl (fun s x => s.updGroup bid x.idx fun x => { x.addCnt .tl 1 with latch := none }) s
  let go (t : Thread) : Thread :=
    if t.bid == bid && t.wait == Wait.gang && ids.contains t.grp then (if checks then { t with wait := .sparse } else t.next l.len) else t
  { s with threads := s.threads.map go }

/-- The latch fires once every listed group that has not ended waits at it, and the queue has room (R187, R263, R273). -/
def State.fireLatch (s : State) (bid grp : Nat) : State :=
  match s.group? bid grp with
  | none => s
  | some g => match g.latch with
    | none => s
    | some l =>
      let gs := if g.gang = 0 then [g] else s.members bid g.gang
      let core := (s.envOf bid).core
      if gs.any (fun x => x.latch.isNone) || gs.any (fun x => x.tl == 63) || 8 ≤ s.matQueue core bid 16 0 ||
          !((s.block? bid).any fun b => b.status == .running) || (g.gang == 0 && s.listed bid grp) then s
      else if gs.all fun x => agree g x then s.gangQueue bid gs g l
      else s.gangTrap bid gs

/-- R187, R273. -/
def execGangLatchFire (bid grp : Nat) (s : State) : Res := .next (s.fireLatch bid grp)

end Sys2Proof.Machine
end

