-- ==== Sys2Proof/Machine/Translate.lean ====
section
/-! DEFINITION. Walks that fill the TLBs (R353 to R360), and the host port (R365, R443). -/

namespace Sys2Proof.Machine

/-- R359: a miss goes to its die's walker, shares a walk of its page, or waits while 256 are outstanding. -/
def execTlbMissWalk (w : WalkReq) (s : State) : Res :=
  .next (if 192 ≤ w.core || s.walks.contains w || !s.walkRoom w then s else { s with walks := s.walks ++ [w] })

/-- R354 to R356, R359. -/
def execWalkComplete (w : WalkReq) (s : State) : Res := .next (s.walkDone w)

/-- A packet of the host port as it arrives: a link retry is counted, at die 0 (R429, R431, log entry 122); one whose IDE tag fails is dropped and the link
is insecure until keys are programmed again, and nothing crosses an insecure link (R443). -/
def State.hostLink (s : State) (chk : HostCheck) (f : State → State) : State :=
  if s.ideBroken then s
  else match chk with
    | .whole => f s
    | .retried => f (s.rasCount 0 0)
    | .badTag => { s with ideSecure := false, ideBroken := true }

/-- R365: a read through the host port; one of a migrating page's destination waits (R364). -/
def execHostPortRead (r : HostAccess) (n : Nat) (s : State) : Res :=
  .next (s.hostLink r.chk fun s => if s.moving false r.pa then
      { s with pageMove := s.pageMove.map fun (m : PageMove) => { m with reads := m.reads ++ [(r.pa, n)] } }
    else s.hostAnswer r.pa n)

/-- The function whose session tracks a range that a host-port write touches, from its freeze until the session's end (R407). -/
def State.freezes (s : State) (pa n : Nat) : Option Nat :=
  (List.range 8).find? fun f => (s.frozen f || s.migState f == 5) && (s.session f).tracking &&
    (s.trackDescs f).any fun d => pa < d.pa + d.len && d.pa < pa + n

/-- A write through the host port: dropped at an owned page (R365), held at a migrating one (R364), and in a frozen function's tracked memory held
until the session commits, then aborted (R407). -/
def State.hostWrite (s : State) (pa : Nat) (data : List Byte) : State :=
  let ok := (List.range data.length).all fun i => s.isLocal (pa + i) && s.owner (pa + i) == 0
  if !ok then s.send (.hostDropped pa)
  else if s.moving true pa then
    { s with pageMove := s.pageMove.map fun (m : PageMove) => { m with held := m.held ++ [(pa, data, none)] } }
  else match s.freezes pa data.length with
    | none => s.homeWrite 8 0 none pa data
    | some f =>
      if s.migState f = 5 then s.send (.hostDropped pa) else s.updSession f fun x => { x with held := x.held ++ [(pa, data)] }

/-- R365, R407, R443. -/
def execHostPortWrite (r : HostAccess) (data : List Byte) (s : State) : Res := .next (s.hostLink r.chk fun s => s.hostWrite r.pa data)

end Sys2Proof.Machine
end

