-- ==== Sys2Proof/Machine/Trust.lean ====
section
/-! DEFINITION. Power-on with measured boot, and IDE keys (R416, R441, R443). The cryptographic functions are opaque constants (log entry 9). -/

namespace Sys2Proof.Machine

/-! Measured boot (R441). -/

/-- Extends a register: SHA-384 of its old value followed by a digest (R441). -/
def State.extend (s : State) (i : Nat) (h : BitVec 384) : State :=
  { s with measure := Tab.set (fun _ => 0) s.measure i (Config.sha384 (digestBytes (s.measurement i) ++ digestBytes h)) }

/-- Verifies and measures the stages in turn, the first of which extends register `i`; a stage that fails its checks ends the boot in
recovery (R441). -/
def State.bootStages (s : State) (i : Nat) : List BootStage → State
  | [] => s
  | x :: r =>
    let h := Config.sha384 x.image
    if Config.ecdsaOk h x.sig && Config.rollbackCount i ≤ x.version then (s.extend i h).bootStages (i + 1) r
    else { s with recovery := true }

/-- Power-on (R3, R8, R416, R441): the machine after reset, with host memory, what has been sent and what is to come as they were. -/
def State.boot (s : State) (img : BootImages) : State :=
  let s0 : State := { State.reset with
    inputs := s.inputs, outbox := s.outbox, host := s.host, spdm := { State.reset.spdm with powerOns := s.spdm.powerOns + 1 } }
  let s1 := (s0.extend 0 (Config.sha384 img.rom)).bootStages 1 (img.stages.take 3)
  if s1.recovery then s1 else s1.setSys 0x0DA4 (BitVec.ofNat 32 (2 ^ 31 + img.position % 64))

/-- R441, R416. -/
def execPowerOn (img : BootImages) (s : State) : Res := .next (s.boot img)

/-- R441: registers 4 to 15, by the security core alone. -/
def execMeasurementExtend (reg : Nat) (h : BitVec 384) (s : State) : Res := .next (if 4 ≤ reg && reg < 16 then s.extend reg h else s)

/-! IDE keys (R443). -/

/-- R443: keys are programmed in a session, or, at `false`, withdrawn: the link is insecure until they are programmed again. -/
def execIdeKeyProgram (keys : Bool) (s : State) : Res :=
  .next (if !keys then { s with ideSecure := false, ideBroken := s.ideBroken || s.ideSecure }
    else if s.spdm.secured then { s with ideSecure := true, ideBroken := false } else s)

end Sys2Proof.Machine
end

