-- ==== Sys2Proof/Machine/Dispatch.lean ====
section
/-! DEFINITION. What each instruction does: one arm per constructor of `Instr`. -/

namespace Sys2Proof.Machine

/-- The effect of one instruction for the issue set that the machine has chosen, or of one step of the table. -/
def exec (i : Instr) (s : State) : Host.Outcome State Fault Refusal :=
  match i with
  | .addB32 g d a b => Sys2Proof.Machine.execAddB32 g d a b s
  | .subB32 g d a b => Sys2Proof.Machine.execSubB32 g d a b s
  | .addB64 g d a b => Sys2Proof.Machine.execAddB64 g d a b s
  | .subB64 g d a b => Sys2Proof.Machine.execSubB64 g d a b s
  | .addcB32 g d a b => Sys2Proof.Machine.execAddcB32 g d a b s
  | .subcB32 g d a b => Sys2Proof.Machine.execSubcB32 g d a b s
  | .mulLoB32 g d a b => Sys2Proof.Machine.execMulLoB32 g d a b s
  | .mulWideZ g d a b => Sys2Proof.Machine.execMulWideZ g d a b s
  | .mulHiSB32 g d a b => Sys2Proof.Machine.execMulHiSB32 g d a b s
  | .mulHiZB32 g d a b => Sys2Proof.Machine.execMulHiZB32 g d a b s
  | .madLoB32 g d a b => Sys2Proof.Machine.execMadLoB32 g d a b s
  | .mulWideS g d a b => Sys2Proof.Machine.execMulWideS g d a b s
  | .minSB32 g d a b => Sys2Proof.Machine.execMinSB32 g d a b s
  | .maxSB32 g d a b => Sys2Proof.Machine.execMaxSB32 g d a b s
  | .minZB32 g d a b => Sys2Proof.Machine.execMinZB32 g d a b s
  | .maxZB32 g d a b => Sys2Proof.Machine.execMaxZB32 g d a b s
  | .shlB32 g d a b => Sys2Proof.Machine.execShlB32 g d a b s
  | .shrZB32 g d a b => Sys2Proof.Machine.execShrZB32 g d a b s
  | .shrSB32 g d a b => Sys2Proof.Machine.execShrSB32 g d a b s
  | .rotB32 g d a b => Sys2Proof.Machine.execRotB32 g d a b s
  | .shlB64 g d a b => Sys2Proof.Machine.execShlB64 g d a b s
  | .shrZB64 g d a b => Sys2Proof.Machine.execShrZB64 g d a b s
  | .shrSB64 g d a b => Sys2Proof.Machine.execShrSB64 g d a b s
  | .bselB32 g d a b => Sys2Proof.Machine.execBselB32 g d a b s
  | .andB32 g d a b => Sys2Proof.Machine.execAndB32 g d a b s
  | .orB32 g d a b => Sys2Proof.Machine.execOrB32 g d a b s
  | .xorB32 g d a b => Sys2Proof.Machine.execXorB32 g d a b s
  | .andnB32 g d a b => Sys2Proof.Machine.execAndnB32 g d a b s
  | .popcB32 g d a => Sys2Proof.Machine.execPopcB32 g d a s
  | .clzB32 g d a => Sys2Proof.Machine.execClzB32 g d a s
  | .bfxB32 g d a b => Sys2Proof.Machine.execBfxB32 g d a b s
  | .bfiB32 g d a b => Sys2Proof.Machine.execBfiB32 g d a b s
  | .cmpEqB32 g d a b => Sys2Proof.Machine.execCmpEqB32 g d a b s
  | .cmpNeB32 g d a b => Sys2Proof.Machine.execCmpNeB32 g d a b s
  | .cmpLtSB32 g d a b => Sys2Proof.Machine.execCmpLtSB32 g d a b s
  | .cmpLtZB32 g d a b => Sys2Proof.Machine.execCmpLtZB32 g d a b s
  | .cmpLeSB32 g d a b => Sys2Proof.Machine.execCmpLeSB32 g d a b s
  | .cmpLeZB32 g d a b => Sys2Proof.Machine.execCmpLeZB32 g d a b s
  | .cmpEqB64 g d a b => Sys2Proof.Machine.execCmpEqB64 g d a b s
  | .cmpLtSB64 g d a b => Sys2Proof.Machine.execCmpLtSB64 g d a b s
  | .cmpLtZB64 g d a b => Sys2Proof.Machine.execCmpLtZB64 g d a b s
  | .selB32 g d a b => Sys2Proof.Machine.execSelB32 g d a b s
  | .movB32 g d a => Sys2Proof.Machine.execMovB32 g d a s
  | .movSv g d a => Sys2Proof.Machine.execMovSv g d a s
  | .fadd g d a b => Sys2Proof.Machine.execFadd g d a b s
  | .fsub g d a b => Sys2Proof.Machine.execFsub g d a b s
  | .fmul g d a b => Sys2Proof.Machine.execFmul g d a b s
  | .ffma g d a b => Sys2Proof.Machine.execFfma g d a b s
  | .fmin g d a b => Sys2Proof.Machine.execFmin g d a b s
  | .fmax g d a b => Sys2Proof.Machine.execFmax g d a b s
  | .fcmpEq g d a b => Sys2Proof.Machine.execFcmpEq g d a b s
  | .fcmpLt g d a b => Sys2Proof.Machine.execFcmpLt g d a b s
  | .fcmpLe g d a b => Sys2Proof.Machine.execFcmpLe g d a b s
  | .fcmpUn g d a b => Sys2Proof.Machine.execFcmpUn g d a b s
  | .fabs g d a => Sys2Proof.Machine.execFabs g d a s
  | .fneg g d a => Sys2Proof.Machine.execFneg g d a s
  | .faddF16x2 g d a b => Sys2Proof.Machine.execFaddF16x2 g d a b s
  | .fsubF16x2 g d a b => Sys2Proof.Machine.execFsubF16x2 g d a b s
  | .fmulF16x2 g d a b => Sys2Proof.Machine.execFmulF16x2 g d a b s
  | .ffmaF16x2 g d a b => Sys2Proof.Machine.execFfmaF16x2 g d a b s
  | .faddBf16x2 g d a b => Sys2Proof.Machine.execFaddBf16x2 g d a b s
  | .fsubBf16x2 g d a b => Sys2Proof.Machine.execFsubBf16x2 g d a b s
  | .fmulBf16x2 g d a b => Sys2Proof.Machine.execFmulBf16x2 g d a b s
  | .ffmaBf16x2 g d a b => Sys2Proof.Machine.execFfmaBf16x2 g d a b s
  | .fminF16x2 g d a b => Sys2Proof.Machine.execFminF16x2 g d a b s
  | .fmaxF16x2 g d a b => Sys2Proof.Machine.execFmaxF16x2 g d a b s
  | .fminBf16x2 g d a b => Sys2Proof.Machine.execFminBf16x2 g d a b s
  | .fmaxBf16x2 g d a b => Sys2Proof.Machine.execFmaxBf16x2 g d a b s
  | .rcp g d a => Sys2Proof.Machine.execRcp g d a s
  | .rsq g d a => Sys2Proof.Machine.execRsq g d a s
  | .sqrt g d a => Sys2Proof.Machine.execSqrt g d a s
  | .exp2 g d a => Sys2Proof.Machine.execExp2 g d a s
  | .log2 g d a => Sys2Proof.Machine.execLog2 g d a s
  | .sin g d a => Sys2Proof.Machine.execSin g d a s
  | .cos g d a => Sys2Proof.Machine.execCos g d a s
  | .frnd g d a => Sys2Proof.Machine.execFrnd g d a s
  | .rdflg g d => Sys2Proof.Machine.execRdflg g d s
  | .clrflg g a => Sys2Proof.Machine.execClrflg g a s
  | .fdot2F16 g d a b => Sys2Proof.Machine.execFdot2F16 g d a b s
  | .fdot2Bf16 g d a b => Sys2Proof.Machine.execFdot2Bf16 g d a b s
  | .pand g d a b => Sys2Proof.Machine.execPand g d a b s
  | .por g d a b => Sys2Proof.Machine.execPor g d a b s
  | .pxor g d a b => Sys2Proof.Machine.execPxor g d a b s
  | .pnot g d a => Sys2Proof.Machine.execPnot g d a s
  | .p2v g d a => Sys2Proof.Machine.execP2v g d a s
  | .v2p g d a => Sys2Proof.Machine.execV2p g d a s
  | .atomMinS g d a b => Sys2Proof.Machine.execAtomMinS g d a b s
  | .atomMinZ g d a b => Sys2Proof.Machine.execAtomMinZ g d a b s
  | .atomMaxS g d a b => Sys2Proof.Machine.execAtomMaxS g d a b s
  | .atomMaxZ g d a b => Sys2Proof.Machine.execAtomMaxZ g d a b s
  | .redAdd g a b => Sys2Proof.Machine.execRedAdd g a b s
  | .redAddB64 g a b => Sys2Proof.Machine.execRedAddB64 g a b s
  | .redFadd g a b => Sys2Proof.Machine.execRedFadd g a b s
  | .redFadd2c g a b => Sys2Proof.Machine.execRedFadd2c g a b s
  | .redMinS g a b => Sys2Proof.Machine.execRedMinS g a b s
  | .redMaxS g a b => Sys2Proof.Machine.execRedMaxS g a b s
  | .redAnd g a b => Sys2Proof.Machine.execRedAnd g a b s
  | .redOr g a b => Sys2Proof.Machine.execRedOr g a b s
  | .cpLaneB32 g d a sc r q => Sys2Proof.Machine.execCpLaneB32 g d a sc r q s
  | .cpLaneB64 g d a sc r q => Sys2Proof.Machine.execCpLaneB64 g d a sc r q s
  | .cpLaneB128 g d a sc r q => Sys2Proof.Machine.execCpLaneB128 g d a sc r q s
  | .cpBin g d a b => Sys2Proof.Machine.execCpBin g d a b s
  | .xlaneAt g d a b => Sys2Proof.Machine.execXlaneAt g d a b s
  | .xlaneBack g d a b => Sys2Proof.Machine.execXlaneBack g d a b s
  | .xlaneFwd g d a b => Sys2Proof.Machine.execXlaneFwd g d a b s
  | .xlaneFlip g d a b => Sys2Proof.Machine.execXlaneFlip g d a b s
  | .voteAll g d a => Sys2Proof.Machine.execVoteAll g d a s
  | .voteAny g d a => Sys2Proof.Machine.execVoteAny g d a s
  | .ballot g d a => Sys2Proof.Machine.execBallot g d a s
  | .matchV g d a => Sys2Proof.Machine.execMatchV g d a s
  | .gredAdd g d a => Sys2Proof.Machine.execGredAdd g d a s
  | .gredMinS g d a => Sys2Proof.Machine.execGredMinS g d a s
  | .gredMinZ g d a => Sys2Proof.Machine.execGredMinZ g d a s
  | .gredMaxS g d a => Sys2Proof.Machine.execGredMaxS g d a s
  | .gredMaxZ g d a => Sys2Proof.Machine.execGredMaxZ g d a s
  | .gredFadd g d a => Sys2Proof.Machine.execGredFadd g d a s
  | .gscanAdd g d a => Sys2Proof.Machine.execGscanAdd g d a s
  | .elect g d => Sys2Proof.Machine.execElect g d s
  | .atomAdd g d a b => Sys2Proof.Machine.execAtomAdd g d a b s
  | .atomAddB64 g d a b => Sys2Proof.Machine.execAtomAddB64 g d a b s
  | .atomExch g d a b => Sys2Proof.Machine.execAtomExch g d a b s
  | .atomExchB64 g d a b => Sys2Proof.Machine.execAtomExchB64 g d a b s
  | .atomCas g d a b => Sys2Proof.Machine.execAtomCas g d a b s
  | .atomCasB64 g d a b => Sys2Proof.Machine.execAtomCasB64 g d a b s
  | .atomFadd g d a b => Sys2Proof.Machine.execAtomFadd g d a b s
  | .atomFadd2c g d a b => Sys2Proof.Machine.execAtomFadd2c g d a b s
  | .llock g d a c => Sys2Proof.Machine.execLlock g d a c s
  | .lunlock g a => Sys2Proof.Machine.execLunlock g a s
  | .ltry g d a => Sys2Proof.Machine.execLtry g d a s
  | .lstat g d a => Sys2Proof.Machine.execLstat g d a s
  | .fst g sc w a b => Sys2Proof.Machine.execFst g sc w a b s
  | .fld g d a sc p => Sys2Proof.Machine.execFld g d a sc p s
  | .fatom g d a x p => Sys2Proof.Machine.execFatom g d a x p s
  | .fwclose g sc w a b => Sys2Proof.Machine.execFwclose g sc w a b s
  | .addi g d a im => Sys2Proof.Machine.execAddi g d a im s
  | .addiB64 g d a im => Sys2Proof.Machine.execAddiB64 g d a im s
  | .movi g d im => Sys2Proof.Machine.execMovi g d im s
  | .cvt g d a x y z => Sys2Proof.Machine.execCvt g d a x y z s
  | .bra g o => Sys2Proof.Machine.execBra g o s
  | .call g o => Sys2Proof.Machine.execCall g o s
  | .jfence g o => Sys2Proof.Machine.execJfence g o s
  | .wait g l sc c t => Sys2Proof.Machine.execWait g l sc c t s
  | .ld g d a z y o => Sys2Proof.Machine.execLd g d a z y o s
  | .st g d a z y o => Sys2Proof.Machine.execSt g d a z y o s
  | .ldAcq g d a z y o => Sys2Proof.Machine.execLdAcq g d a z y o s
  | .stRel g d a z y o => Sys2Proof.Machine.execStRel g d a z y o s
  | .ldC g d a z o => Sys2Proof.Machine.execLdC g d a z o s
  | .pref g a y o => Sys2Proof.Machine.execPref g a y o s
  | .mmaF16 g n m c a b => Sys2Proof.Machine.execMmaF16 g n m c a b s
  | .mmaBf16 g n m c a b => Sys2Proof.Machine.execMmaBf16 g n m c a b s
  | .mmaE4m3 g n m c a b => Sys2Proof.Machine.execMmaE4m3 g n m c a b s
  | .mmaE4m3e5m2 g n m c a b => Sys2Proof.Machine.execMmaE4m3e5m2 g n m c a b s
  | .mmaE5m2 g n m c a b => Sys2Proof.Machine.execMmaE5m2 g n m c a b s
  | .mmaS8 g n m c a b => Sys2Proof.Machine.execMmaS8 g n m c a b s
  | .mmaE2m1 g n m c a b => Sys2Proof.Machine.execMmaE2m1 g n m c a b s
  | .mmaBf16s4 g n m c a b => Sys2Proof.Machine.execMmaBf16s4 g n m c a b s
  | .nop g => Sys2Proof.Machine.execNop g s
  | .jmp g a => Sys2Proof.Machine.execJmp g a s
  | .calli g d a => Sys2Proof.Machine.execCalli g d a s
  | .ret g a => Sys2Proof.Machine.execRet g a s
  | .exit g => Sys2Proof.Machine.execExit g s
  | .yield g => Sys2Proof.Machine.execYield g s
  | .brk g d => Sys2Proof.Machine.execBrk g d s
  | .wbase g m v => Sys2Proof.Machine.execWbase g m v s
  | .regacq g n => Sys2Proof.Machine.execRegacq g n s
  | .regacqTry g d n => Sys2Proof.Machine.execRegacqTry g d n s
  | .regrel g n => Sys2Proof.Machine.execRegrel g n s
  | .spawn g d a => Sys2Proof.Machine.execSpawn g d a s
  | .cfetch g sc a => Sys2Proof.Machine.execCfetch g sc a s
  | .fence g k sc => Sys2Proof.Machine.execFence g k sc s
  | .barInit g b a => Sys2Proof.Machine.execBarInit g b a s
  | .barExpect g b a => Sys2Proof.Machine.execBarExpect g b a s
  | .barArrive g d b => Sys2Proof.Machine.execBarArrive g d b s
  | .barWait g b a => Sys2Proof.Machine.execBarWait g b a s
  | .barSync g b => Sys2Proof.Machine.execBarSync g b s
  | .barTest g p b => Sys2Proof.Machine.execBarTest g p b s
  | .hbarArrive g d sc im => Sys2Proof.Machine.execHbarArrive g d sc im s
  | .hbarWait g d sc im => Sys2Proof.Machine.execHbarWait g d sc im s
  | .cpBulk g a => Sys2Proof.Machine.execCpBulk g a s
  | .cpMcast g d a => Sys2Proof.Machine.execCpMcast g d a s
  | .cpBind g b => Sys2Proof.Machine.execCpBind g b s
  | .cpBindNone g => Sys2Proof.Machine.execCpBindNone g s
  | .fwopen g d p => Sys2Proof.Machine.execFwopen g d p s
  | .fwopenFree g d => Sys2Proof.Machine.execFwopenFree g d s
  | .fwstat g d w => Sys2Proof.Machine.execFwstat g d w s
  | .vdnq g d a => Sys2Proof.Machine.execVdnq g d a s
  | .ckpt g => Sys2Proof.Machine.execCkpt g s
  | .ckstat g d => Sys2Proof.Machine.execCkstat g d s
  | .ckrole g d => Sys2Proof.Machine.execCkrole g d s
  | .tclaim g d a => Sys2Proof.Machine.execTclaim g d a s
  | .trel g a => Sys2Proof.Machine.execTrel g a s
  | .tfill g sc a => Sys2Proof.Machine.execTfill g sc a s
  | .tfillDq g sc a => Sys2Proof.Machine.execTfillDq g sc a s
  | .azero g t n => Sys2Proof.Machine.execAzero g t n s
  | .aload g t a => Sys2Proof.Machine.execAload g t a s
  | .tdrain g t a => Sys2Proof.Machine.execTdrain g t a s
  | .tdrainAdd g t a => Sys2Proof.Machine.execTdrainAdd g t a s
  | .gang g a => Sys2Proof.Machine.execGang g a s
  | .pcfg g a => Sys2Proof.Machine.execPcfg g a s
  | .mstat g d x sc => Sys2Proof.Machine.execMstat g d x sc s
  | .tret g => Sys2Proof.Machine.execTret g s
  | .tretAddr g a => Sys2Proof.Machine.execTretAddr g a s
  | .trd g d sc => Sys2Proof.Machine.execTrd g d sc s
  | .srd g d a => Sys2Proof.Machine.execSrd g d a s
  | .swr g d a => Sys2Proof.Machine.execSwr g d a s
  | .cinvL1 g => Sys2Proof.Machine.execCinvL1 g s
  | .cinvC g => Sys2Proof.Machine.execCinvC g s
  | .cwbMere g d a => Sys2Proof.Machine.execCwbMere g d a s
  | .mtrd g d a => Sys2Proof.Machine.execMtrd g d a s
  | .evcfg g d a => Sys2Proof.Machine.execEvcfg g d a s
  | .evrd g d a => Sys2Proof.Machine.execEvrd g d a s
  | .lklog g d a => Sys2Proof.Machine.execLklog g d a s
  | .kinj g a => Sys2Proof.Machine.execKinj g a s
  | .lim h w => Sys2Proof.Machine.execLim h w s
  | .issueCycle core => Sys2Proof.Machine.execIssueCycle core s
  | .loadValueReturn id => Sys2Proof.Machine.execLoadValueReturn id s
  | .storeQueuePerform bid grp => Sys2Proof.Machine.execStoreQueuePerform bid grp s
  | .yieldExpiry bid tid => Sys2Proof.Machine.execYieldExpiry bid tid s
  | .regacqGrant core lane => Sys2Proof.Machine.execRegacqGrant core lane s
  | .codeGranuleLand core seg => Sys2Proof.Machine.execCodeGranuleLand core seg s
  | .spawnTimerExpiry core pool => Sys2Proof.Machine.execSpawnTimerExpiry core pool s
  | .spawnPoolLaunch core pool => Sys2Proof.Machine.execSpawnPoolLaunch core pool s
  | .groupEnd bid grp => Sys2Proof.Machine.execGroupEnd bid grp s
  | .podBarrierFrame dev tag mask idx phase => Sys2Proof.Machine.execPodBarrierFrame dev tag mask idx phase s
  | .homeReadRequest core pa ty => Sys2Proof.Machine.execHomeReadRequest core pa ty s
  | .homeWriteRequest core line => Sys2Proof.Machine.execHomeWriteRequest core line s
  | .homeAtomicRequest bid grp => Sys2Proof.Machine.execHomeAtomicRequest bid grp s
  | .directoryEviction region => Sys2Proof.Machine.execDirectoryEviction region s
  | .leaseClockTick die => Sys2Proof.Machine.execLeaseClockTick die s
  | .leaseVisit core => Sys2Proof.Machine.execLeaseVisit core s
  | .leasecfgWrite die v => Sys2Proof.Machine.execLeasecfgWrite die v s
  | .constantTick die => Sys2Proof.Machine.execConstantTick die s
  | .constantWrap die => Sys2Proof.Machine.execConstantWrap die s
  | .constantPauseEnd die => Sys2Proof.Machine.execConstantPauseEnd die s
  | .coreRetentionEntry core => Sys2Proof.Machine.execCoreRetentionEntry core s
  | .coreRetentionWake core => Sys2Proof.Machine.execCoreRetentionWake core s
  | .clockGateEntry core => Sys2Proof.Machine.execClockGateEntry core s
  | .mereRetentionEntry die => Sys2Proof.Machine.execMereRetentionEntry die s
  | .dieSleepEntry die => Sys2Proof.Machine.execDieSleepEntry die s
  | .wakeRequest isDie n => Sys2Proof.Machine.execWakeRequest isDie n s
  | .copyElementLand cmd idx => Sys2Proof.Machine.execCopyElementLand cmd idx s
  | .engineFaultStop cmd => Sys2Proof.Machine.execEngineFaultStop cmd s
  | .mcastLineDeliver cmd idx core => Sys2Proof.Machine.execMcastLineDeliver cmd idx core s
  | .matrixCommandComplete bid grp => Sys2Proof.Machine.execMatrixCommandComplete bid grp s
  | .gangLatchFire bid grp => Sys2Proof.Machine.execGangLatchFire bid grp s
  | .slotFillFault bid grp => Sys2Proof.Machine.execSlotFillFault bid grp s
  | .slotScrubDone core idx => Sys2Proof.Machine.execSlotScrubDone core idx s
  | .lockRequestAtHome bid grp => Sys2Proof.Machine.execLockRequestAtHome bid grp s
  | .handOff line => Sys2Proof.Machine.execHandOff line s
  | .waiterTimeout line idx => Sys2Proof.Machine.execWaiterTimeout line idx s
  | .holdLimitExpiry line => Sys2Proof.Machine.execHoldLimitExpiry line s
  | .holdExpiryMessage bid grp va => Sys2Proof.Machine.execHoldExpiryMessage bid grp va s
  | .packetReceive p => Sys2Proof.Machine.execPacketReceive p s
  | .windowWritePacket p => Sys2Proof.Machine.execWindowWritePacket p s
  | .releasePacket p => Sys2Proof.Machine.execReleasePacket p s
  | .tLostExpiry k => Sys2Proof.Machine.execTLostExpiry k s
  | .tokenArrival f win vdn => Sys2Proof.Machine.execTokenArrival f win vdn s
  | .replayRequestArrival f win vdn epoch r => Sys2Proof.Machine.execReplayRequestArrival f win vdn epoch r s
  | .rejectArrival f win vdn => Sys2Proof.Machine.execRejectArrival f win vdn s
  | .lossMessageArrival f win vdn => Sys2Proof.Machine.execLossMessageArrival f win vdn s
  | .flagDeniedArrival f win vdn => Sys2Proof.Machine.execFlagDeniedArrival f win vdn s
  | .resendTimeout f win vdn => Sys2Proof.Machine.execResendTimeout f win vdn s
  | .nonpostedRequestArrival p => Sys2Proof.Machine.execNonpostedRequestArrival p s
  | .nonpostedResponseArrival p => Sys2Proof.Machine.execNonpostedResponseArrival p s
  | .retransmitTimeout id => Sys2Proof.Machine.execRetransmitTimeout id s
  | .fibreLeaveStripe g fibre => Sys2Proof.Machine.execFibreLeaveStripe g fibre s
  | .fibreTest g fibre good => Sys2Proof.Machine.execFibreTest g fibre good s
  | .keyPhaseChange k => Sys2Proof.Machine.execKeyPhaseChange k s
  | .keyPhaseOverlapEnd k => Sys2Proof.Machine.execKeyPhaseOverlapEnd k s
  | .oxbowForward p => Sys2Proof.Machine.execOxbowForward p s
  | .oxbowWindowExpiry f => Sys2Proof.Machine.execOxbowWindowExpiry f s
  | .vdnSwitchFrame srcDev srcFun dstDev dstFun mtag => Sys2Proof.Machine.execVdnSwitchFrame srcDev srcFun dstDev dstFun mtag s
  | .vdnSwitchAck f dev => Sys2Proof.Machine.execVdnSwitchAck f dev s
  | .vdneWrite f v x => Sys2Proof.Machine.execVdneWrite f v x s
  | .doorbellWrite f q x => Sys2Proof.Machine.execDoorbellWrite f q x s
  | .queueEnable f q => Sys2Proof.Machine.execQueueEnable f q s
  | .queueDisable f q => Sys2Proof.Machine.execQueueDisable f q s
  | .queueSetSize f q n => Sys2Proof.Machine.execQueueSetSize f q n s
  | .queueAbort f q => Sys2Proof.Machine.execQueueAbort f q s
  | .recordRead f q => Sys2Proof.Machine.execRecordRead f q s
  | .recordFinish lid => Sys2Proof.Machine.execRecordFinish lid s
  | .copyRecordComplete lid => Sys2Proof.Machine.execCopyRecordComplete lid s
  | .keySlotLoad lid slot => Sys2Proof.Machine.execKeySlotLoad lid slot s
  | .blockPlace lid core core2 => Sys2Proof.Machine.execBlockPlace lid core core2 s
  | .timeSliceExpiry bid => Sys2Proof.Machine.execTimeSliceExpiry bid s
  | .tlbMissWalk w => Sys2Proof.Machine.execTlbMissWalk w s
  | .walkComplete w => Sys2Proof.Machine.execWalkComplete w s
  | .shootdownVaRange c => Sys2Proof.Machine.execShootdownVaRange c s
  | .shootdownAsid c => Sys2Proof.Machine.execShootdownAsid c s
  | .shootdownIpaRange c => Sys2Proof.Machine.execShootdownIpaRange c s
  | .shootdownFunction c => Sys2Proof.Machine.execShootdownFunction c s
  | .shootdownComplete blk => Sys2Proof.Machine.execShootdownComplete blk s
  | .pageMigration v => Sys2Proof.Machine.execPageMigration v s
  | .pageMigrationComplete => Sys2Proof.Machine.execPageMigrationComplete s
  | .ownerAssign handle => Sys2Proof.Machine.execOwnerAssign handle s
  | .ownerRelease handle => Sys2Proof.Machine.execOwnerRelease handle s
  | .deferredTrapArrival bid tid cause addr aux => Sys2Proof.Machine.execDeferredTrapArrival bid tid cause addr aux s
  | .trapTake bid tid => Sys2Proof.Machine.execTrapTake bid tid s
  | .watchdogExpiry bid => Sys2Proof.Machine.execWatchdogExpiry bid s
  | .haltRequest bid => Sys2Proof.Machine.execHaltRequest bid s
  | .drainComplete bid => Sys2Proof.Machine.execDrainComplete bid s
  | .blockResume bid core core2 => Sys2Proof.Machine.execBlockResume bid core core2 s
  | .functionLevelReset f => Sys2Proof.Machine.execFunctionLevelReset f s
  | .playoutWrite v => Sys2Proof.Machine.execPlayoutWrite v s
  | .milvWrite die v => Sys2Proof.Machine.execMilvWrite die v s
  | .nbndWrite v => Sys2Proof.Machine.execNbndWrite v s
  | .vfEnable f => Sys2Proof.Machine.execVfEnable f s
  | .vfLock f => Sys2Proof.Machine.execVfLock f s
  | .vfUnlock f => Sys2Proof.Machine.execVfUnlock f s
  | .vfStart f => Sys2Proof.Machine.execVfStart f s
  | .vfStartComplete f => Sys2Proof.Machine.execVfStartComplete f s
  | .vfQuiesce f => Sys2Proof.Machine.execVfQuiesce f s
  | .vfQuiesceComplete f => Sys2Proof.Machine.execVfQuiesceComplete f s
  | .vfResume f => Sys2Proof.Machine.execVfResume f s
  | .vfSave f => Sys2Proof.Machine.execVfSave f s
  | .vfDisable f => Sys2Proof.Machine.execVfDisable f s
  | .lockedSetWrite num v => Sys2Proof.Machine.execLockedSetWrite num v s
  | .migTrack f => Sys2Proof.Machine.execMigTrack f s
  | .migCopy f => Sys2Proof.Machine.execMigCopy f s
  | .migAccept f => Sys2Proof.Machine.execMigAccept f s
  | .migLoad f => Sys2Proof.Machine.execMigLoad f s
  | .migSwitch f => Sys2Proof.Machine.execMigSwitch f s
  | .migAbort f => Sys2Proof.Machine.execMigAbort f s
  | .migEnd f => Sys2Proof.Machine.execMigEnd f s
  | .migRestore f => Sys2Proof.Machine.execMigRestore f s
  | .seepPass f => Sys2Proof.Machine.execSeepPass f s
  | .seepWriteArrival p => Sys2Proof.Machine.execSeepWriteArrival p s
  | .finalPassComplete f => Sys2Proof.Machine.execFinalPassComplete f s
  | .imageReleaseArrival p => Sys2Proof.Machine.execImageReleaseArrival p s
  | .migAbortArrival f srcDev => Sys2Proof.Machine.execMigAbortArrival f srcDev s
  | .hostPortRead pa n => Sys2Proof.Machine.execHostPortRead pa n s
  | .hostPortWrite pa data => Sys2Proof.Machine.execHostPortWrite pa data s
  | .lvqEntryArrival bid tid => Sys2Proof.Machine.execLvqEntryArrival bid tid s
  | .compareEntryMatch bid tid => Sys2Proof.Machine.execCompareEntryMatch bid tid s
  | .compareTimeout bid tid => Sys2Proof.Machine.execCompareTimeout bid tid s
  | .patrolScrub u => Sys2Proof.Machine.execPatrolScrub u s
  | .uncorrectableError u => Sys2Proof.Machine.execUncorrectableError u s
  | .rasceClear die => Sys2Proof.Machine.execRasceClear die s
  | .rasueClear v => Sys2Proof.Machine.execRasueClear v s
  | .powerOn img => Sys2Proof.Machine.execPowerOn img s
  | .measurementExtend reg h => Sys2Proof.Machine.execMeasurementExtend reg h s
  | .getVersion => Sys2Proof.Machine.execGetVersion s
  | .getCapabilities => Sys2Proof.Machine.execGetCapabilities s
  | .negotiateAlgorithms => Sys2Proof.Machine.execNegotiateAlgorithms s
  | .getDigests => Sys2Proof.Machine.execGetDigests s
  | .getCertificate => Sys2Proof.Machine.execGetCertificate s
  | .challenge nonce => Sys2Proof.Machine.execChallenge nonce s
  | .getMeasurements idx nonce => Sys2Proof.Machine.execGetMeasurements idx nonce s
  | .keyExchange nonce => Sys2Proof.Machine.execKeyExchange nonce s
  | .finish => Sys2Proof.Machine.execFinish s
  | .endSession => Sys2Proof.Machine.execEndSession s
  | .keyInstall handle gen => Sys2Proof.Machine.execKeyInstall handle gen s
  | .keyRemove handle => Sys2Proof.Machine.execKeyRemove handle s
  | .keyRotate handle => Sys2Proof.Machine.execKeyRotate handle s
  | .linkSecretInstall f secret => Sys2Proof.Machine.execLinkSecretInstall f secret s
  | .sysregWrite num v die part => Sys2Proof.Machine.execSysregWrite num v die part s
  | .localPortAccept id => Sys2Proof.Machine.execLocalPortAccept id s
  | .ideKeyProgram keys => Sys2Proof.Machine.execIdeKeyProgram keys s
  | .controlCreditReturn dev => Sys2Proof.Machine.execControlCreditReturn dev s

end Sys2Proof.Machine
end

