-- ==== Sys2Proof/Machine/Due.lean ====
section
/-! DEFINITION. The steps that the machine itself owes: work under way that can finish, timers that have run out, and the scheduler's next
placement (log entry 2). A step is owed only where it changes the state. -/

namespace Sys2Proof.Machine

/-- A step of the table without an encoding that no outside agent begins, the flag that waited for a page (R364), and a request that waited for its
thread's older accesses (R253). -/
inductive Due
  | trap (bid tid : Nat)
  | load (id : Nat)
  | head (bid grp : Nat)
  | update (bid grp : Nat)
  | post (id : Nat)
  | copy (cmd idx : Nat)
  | cast (cmd idx core : Nat)
  | copyFault (cmd : Nat)
  | matrix (bid grp : Nat)
  | fillFault (bid grp : Nat)
  | latch (bid grp : Nat)
  | scrub (core idx : Nat)
  | granule (core seg : Nat)
  | regs (core lane : Nat)
  | yielded (bid tid : Nat)
  | spawnTimer (core pool : Nat)
  | spawnLaunch (core pool : Nat)
  | groupEnd (bid grp : Nat)
  | lockRequest (bid grp : Nat)
  | handOff (line : Nat)
  | lockTimeout (line idx : Nat)
  | holdLimit (line : Nat)
  | entryArrival (bid tid : Nat)
  | compare (bid tid : Nat)
  | compareTime (bid tid : Nat)
  | leaseTick (die : Nat)
  | leaseVisit (core : Nat)
  | constTick (die : Nat)
  | constWrap (die : Nat)
  | constPause (die : Nat)
  | walk (w : WalkReq)
  | miss (w : WalkReq)
  | shoot (blk : Nat)
  | pageMove
  | flag (k : EpochKey)
  | tLost (k : EpochKey)
  | resend (f win vdn : Nat)
  | retransmit (id : Nat)
  | request (id : Nat)
  | phase (k : LinkKey)
  | transmit (g : Nat)
  | devHeld (f : Nat)
  | ltr
  | overlap (k : LinkKey)
  | oxbowEnd (f : Nat)
  | record (f q : Nat)
  | finish (lid : Nat)
  | copyRecord (lid : Nat)
  | keySlot (lid slot : Nat)
  | watchdog (bid : Nat)
  | slice (bid : Nat)
  | drained (bid : Nat)
  | started (f : Nat)
  | quiesced (f : Nat)
  | seep (f : Nat)
  | final (f : Nat)
  | place (lid core core2 : Nat)
  | resume (bid core core2 : Nat)
  | wake (core : Nat)
  deriving DecidableEq, Repr

/-- The step that is owed. -/
def Due.run (d : Due) (s : State) : Res :=
  match d with
  | .trap b t => execTrapTake b t s
  | .load i => execLoadValueReturn i s
  | .head b g => execStoreQueuePerform b g s
  | .update b g => execHomeAtomicRequest b g s
  | .post i => execLocalPortAccept i s
  | .copy c i => execCopyElementLand c i s
  | .cast c i k => execMcastLineDeliver c i k s
  | .copyFault c => execEngineFaultStop c s
  | .matrix b g => execMatrixCommandComplete b g s
  | .fillFault b g => execSlotFillFault b g s
  | .latch b g => execGangLatchFire b g s
  | .scrub c i => execSlotScrubDone c i s
  | .granule c n => execCodeGranuleLand c n s
  | .regs c l => execRegacqGrant c l s
  | .yielded b t => execYieldExpiry b t s
  | .spawnTimer c p => execSpawnTimerExpiry c p s
  | .spawnLaunch c p => execSpawnPoolLaunch c p s
  | .groupEnd b g => execGroupEnd b g s
  | .lockRequest b g => execLockRequestAtHome b g s
  | .handOff l => execHandOff l s
  | .lockTimeout l i => execWaiterTimeout l i s
  | .holdLimit l => execHoldLimitExpiry l s
  | .entryArrival b t => execLvqEntryArrival b t s
  | .compare b t => execCompareEntryMatch b t s
  | .compareTime b t => execCompareTimeout b t s
  | .leaseTick d => execLeaseClockTick d s
  | .leaseVisit c => execLeaseVisit c s
  | .constTick d => execConstantTick d s
  | .constWrap d => execConstantWrap d s
  | .constPause d => execConstantPauseEnd d s
  | .walk w => execWalkComplete w s
  | .miss w => execTlbMissWalk w s
  | .shoot b => execShootdownComplete b s
  | .pageMove => execPageMigrationComplete s
  | .flag k => .next (s.settleArrival k)
  | .tLost k => execTLostExpiry k s
  | .resend f w v => execResendTimeout f w v s
  | .retransmit i => execRetransmitTimeout i s
  | .request i => .next (s.sendPent i)
  | .phase k => execKeyPhaseChange k s
  | .transmit g => .next (s.transmit g)
  | .devHeld f => .next (s.admitHeld f)
  | .ltr => .next s.sendLtr
  | .overlap k => execKeyPhaseOverlapEnd k s
  | .oxbowEnd f => execOxbowWindowExpiry f s
  | .record f q => execRecordRead f q s
  | .finish l => execRecordFinish l s
  | .copyRecord l => execCopyRecordComplete l s
  | .keySlot l k => execKeySlotLoad l k s
  | .watchdog b => execWatchdogExpiry b s
  | .slice b => execTimeSliceExpiry b s
  | .drained b => execDrainComplete b s
  | .started f => execVfStartComplete f s
  | .quiesced f => execVfQuiesceComplete f s
  | .seep f => execSeepPass f s
  | .final f => execFinalPassComplete f s
  | .place l c k => execBlockPlace l c k s
  | .resume b c k => execBlockResume b c k s
  | .wake c => execWakeRequest false c s

/-- Inserts a pool before the first one whose oldest record arrived later. -/
def insertPool (x : Nat × Pool) : Tab Pool → Tab Pool
  | [] => [x]
  | y :: r => if x.2.first < y.2.first then x :: y :: r else y :: insertPool x r

/-- A core's pools, the one whose oldest record arrived first before the others (R219). -/
def poolsByAge (l : Tab Pool) : Tab Pool := l.foldl (fun l p => insertPool p l) []

/-- Inserts a group before the first whose lock request issued later. -/
def insertReq (g : Group) : List Group → List Group
  | [] => [g]
  | h :: r => if (g.req.elim 0 fun q => q.id) < (h.req.elim 0 fun q => q.id) then g :: h :: r else h :: insertReq g r

/-- The groups with a lock request, in the order of its issue: port A's of a core before port B's of one cycle (R283). -/
def State.lockRequests (s : State) : List Group := (s.groups.filter fun g => g.req.isSome).foldl (fun l g => insertReq g l) []

/-- The walks that a thread asks for where it stands (R359); a trailing copy asks for none where its leader makes the access (R315). -/
def State.misses (s : State) (t : Thread) : List WalkReq :=
  let reads (i : Instr) : Bool := !(s.block? t.bid).any (fun (b : Block) => b.role == Role.trail) || (match i.pairClass with
    | .each | .self => true
    | _ => false)
  match s.fetchFor t with
  | .ok i => if reads i && s.awake t && !t.busyP.contains i.guard && t.pred i.guard && !t.interlocked i then
      i.inner.toList.flatMap fun j => s.walksFor t (limPayload i) j else []
  | _ => []

/-- Work of the threads, groups and engines that may finish. -/
def State.dueWork (s : State) : List Due :=
  (s.threads.filter fun t => !t.deferred.isEmpty).map (fun t => Due.trap t.bid t.tid) ++
  (s.loads.filter fun l => !s.fromLease l).map (fun l => Due.load l.id) ++
  (s.groups.filter fun g => !g.queue.isEmpty).flatMap (fun g => [Due.head g.bid g.idx, .update g.bid g.idx]) ++
  s.posts.map (fun p => Due.post p.id) ++
  s.copies.flatMap (fun c => Due.copyFault c.id :: .copy c.id c.h :: c.lines.map fun l => Due.cast c.id l.1 (c.core / 4 * 4 + l.2.1)) ++
  s.mcmds.flatMap (fun m => [Due.matrix m.bid m.grp, .copyFault m.id, .fillFault m.bid m.grp]) ++
  (s.groups.filter fun g => g.latch.isSome).map (fun g => Due.latch g.bid g.idx) ++
  s.cores.flatMap (fun e =>
    (e.2.claims.filter fun k => k.2 == .scrub).map (fun k => Due.scrub e.1 k.1) ++
    (e.2.segs.filter fun k => !k.2.landed).map (fun k => Due.granule e.1 k.1) ++
    e.2.regq.map (fun r => Due.regs e.1 r.1) ++
    e.2.pools.map (fun p => Due.spawnTimer e.1 p.1) ++ (poolsByAge e.2.pools).map fun p => Due.spawnLaunch e.1 p.1) ++
  s.threads.flatMap (fun t => match t.wait with
    | .yielding _ => [Due.yielded t.bid t.tid]
    | .compare => [Due.compare t.bid t.tid, .compareTime t.bid t.tid]
    | _ => []) ++
  (s.threads.filter fun t => t.lvq.any fun e => e.filled && !e.arrived).map (fun t => Due.entryArrival t.bid t.tid) ++
  s.lockRequests.map (fun g => Due.lockRequest g.bid g.idx) ++
  (s.threads.flatMap s.misses ++ s.copies.flatMap s.copyMisses ++ (s.mcmds.filter s.matTurn).flatMap s.matMisses ++ s.groups.flatMap s.headMisses).map Due.miss ++
  (s.groups.filter fun g => (s.live g.bid g.idx).isEmpty).map fun g => Due.groupEnd g.bid g.idx

/-- Locks, caches, translation and the fabric's timers. -/
def State.dueTimers (s : State) : List Due :=
  s.locks.flatMap (fun e => [Due.handOff e.line, .holdLimit e.line]) ++
  [0, 1, 2, 3].flatMap (fun d => [Due.leaseTick d, .constWrap d, .constTick d, .constPause d]) ++
  (s.l1.filter fun l => l.st == .leased).map (fun l => Due.leaseVisit l.core) ++
  s.walks.map Due.walk ++ s.shoots.map (fun x => Due.shoot x.1) ++ (if s.pageMove.isSome then [Due.pageMove] else []) ++
  s.arrivals.flatMap (fun a => [Due.flag a.key, .tLost a.key]) ++
  s.windows.flatMap (fun e => e.2.pending.map fun p => Due.resend (e.1 / 32) (e.1 % 32) p.vdn) ++
  s.nps.map (fun p => if p.pent then Due.request p.id else .retransmit p.id) ++
  (if s.txq.isEmpty then [] else [0, 1, 2, 3].map Due.transmit) ++ (s.devHeld.map fun (e : DevHeld) => Due.devHeld e.f) ++
  (if s.ltr = s.ltrSent then [] else [Due.ltr]) ++
  s.links.flatMap (fun e => (if s.wantsRefresh e.1 then [Due.phase e.1] else []) ++ (if e.2.overlap.isSome then [Due.overlap e.1] else []))

/-- Launches, queues and functions. -/
def State.dueLaunches (s : State) : List Due :=
  s.blocks.flatMap (fun b => [Due.drained b.bid, .watchdog b.bid, .slice b.bid]) ++
  s.launches.flatMap (fun l => if l.record.isCopy then [Due.copyRecord l.lid, .finish l.lid] else [Due.finish l.lid]) ++
  (List.range 9).flatMap (fun f => ((List.range 64).filter fun q => bit (s.bar f (qReg q 8)).toNat 31).map fun q => Due.record f q) ++
  (List.range s.stalled.length).flatMap (fun i => (List.range 64).map fun k => Due.keySlot i k)

/-- Functions that change their state, and their sessions: Seep's next word is of the session whose turn it is (R404). -/
def State.dueSessions (s : State) : List Due :=
  (List.range 8).flatMap fun k =>
    let f := (s.seepTurn + k) % 8
    let x := s.session f
    let m := s.migState f
    (if s.vfMoving f then [Due.started f] else []) ++ (if s.vfState f = 4 then [Due.quiesced f] else []) ++
    (if x.oxEnd.isSome then [Due.oxbowEnd f] else []) ++
    (if s.seeps f && (x.desc != 0 || x.word != 0 || x.image.isSome || s.backlog f != 0) then [Due.seep f] else []) ++
    (if m = 3 then [Due.final f] else []) ++
    (if x.deadline.isSome then [Due.tLost { f, svdn := 0, win := 32, inc := 0, epoch := 0 }, .resend f 32 0] else [])

/-- The scheduler's placements (R349, R350): the next block of a launch whose turn it is at the places that it may take, on a core that wakes, or
where others halt for it. -/
def State.duePlaces (s : State) : List Due :=
  (s.launches.filter s.hasTurn).flatMap fun l =>
    if !s.placeable l then
      ((List.range 192).filter fun c => (s.core c).power == .retention && (s.partCores (s.partOf l.f)).contains c).map Due.wake ++ [.place l.lid 0 1]
    else if s.whole l then [.place l.lid 0 1]
    else (s.options l).map fun p => match (s.nextOf l).bind fun w => w.bind fun w => w.saved with
      | some bid => Due.resume bid (p.headD 0) (p.getLastD 0)
      | none => Due.place l.lid (p.headD 0) (p.getLastD 0)

/-- A step that changes the state. -/
def State.changes (s : State) (d : Due) : Bool :=
  match d.run s with
  | .next t => t != s
  | _ => false

/-- What comes after everything else in a cycle: loads that leases serve (R250), and the timeouts of waiters (R288). -/
def State.dueLast (s : State) : List Due :=
  (s.loads.filter s.fromLease).map (fun l => Due.load l.id) ++
  s.locks.flatMap fun e => (List.range e.waiters.length).map fun i => Due.lockTimeout e.line i

/-- The step that is owed next, if any. -/
def State.due? (s : State) : Option Due :=
  (s.dueWork ++ s.dueTimers ++ s.dueSessions ++ s.dueLaunches ++ s.duePlaces ++ s.dueLast).find? s.changes

end Sys2Proof.Machine
end

