-- ==== Sys2Proof/Machine/Step.lean ====
section
/-! DEFINITION. One step of the machine: the issue of an instruction that waits at a port, else the next step from the outside, else the
step of a received packet, else work that the machine owes, else a core's cycle (log entry 2). -/

namespace Sys2Proof.Machine

/-- The threads of an issue set that still stand at its PC. -/
def State.standing (s : State) (p : IssueSet) : IssueSet :=
  { p with members := p.members.filter fun k => (s.thread? k).any fun t => t.pc == p.pc }

/-- The issue at a port: the fetch at the set's PC and the instruction that it finds (R36, R95). -/
def State.issueAt (s : State) (p : IssueSet) (rest : List IssueSet) : Res :=
  let q := s.standing p
  let s := { s with ports := q :: rest }
  match s.membersOf q with
  | [] => .next (s.endIssue rest)
  | t :: _ => match s.fetchFor t with
    | .absent => s.trapSet { cause := .codeAbsent, addr := q.pc, aux := 0 }
    | .illegal => s.trapSet (plainTrap .illegalOp)
    | .ok i => exec i s

/-- The next core in turn. -/
def State.nextCore (s : State) : Nat := (s.turn + 1) % 192

/-- A step where no issue set waits at a port. -/
def State.agentStep (s : State) : Res :=
  match s.inputs with
  | i :: r => exec i { s with inputs := r }
  | [] =>
    match s.accepted.find? fun e => !s.packetWaits e.1 with
    | some e => s.takePacket e
    | none =>
      match s.arriving with
      | p :: r => execPacketReceive p { s with arriving := r }
      | [] => match s.due? with
        | some d => d.run s
        | none => execIssueCycle s.nextCore s

/-- One step. -/
def step (s : State) : Host.Outcome State Fault Refusal :=
  match s.ports with
  | p :: rest => s.issueAt p rest
  | [] => s.agentStep

/-! The first instruction after reset (log entry 4). -/

/-- A launch record of one block of one thread at supervisor level, entered at address 0. -/
def probeRecord : Record where
  ctrl := 0x00400000
  grid := 1
  entry := 0
  handler := 0
  shape := 0
  barriers := 0
  done := 0
  value := 0
  preds := 0
  spawntime := 0
  key := 0
  podset := 0
  succ := []

/-- The launch, block, group and thread that stand on core 0 with all 128 registers, and the code segment with the words. -/
def State.withFetchWord (s : State) (nbits w : Nat) : State :=
  let bid := s.nextId
  let lid := s.nextId + 1
  let l : Launch := {
    lid, f := 8, q := 0, addr := 0, record := probeRecord, root := 0, asid := 0, tag := 0, mgmt := false, slot := none, next := 1, waiting := [],
    ended := [], failed := false, completing := false, stored := false, hbars := [], cores := [0], landed := 0, order := 0 }
  let b : Block := {
    bid, lid, blk := 0, core := 0, share := 0, scratch := [], bars := [], barEvs := [], arrivers := [], relaunch := 0, spawnStall := 0, role := .solo,
    mate := bid, ref := (s.phys, bid), mismatches := 0, started := true, status := .running, record := none, lastIssue := s.clk, counted := 0, sliceStart := s.clk,
    mateCore := 0, saveAt := none }
  let c := s.core 0
  let g : Seg := { granule := 0, tag := 0, landed := true, again := false, lid, src := .loc 0, id := 0, after := none, reader := none }
  { s.setCore 0 { c with lid := some lid, segs := [(0, g)], imem := Memory.store [] 0 (leBytes (w % 2 ^ nbits) 8) } with
    nextId := s.nextId + 2, launches := s.launches ++ [l], blocks := s.blocks ++ [b], groups := s.groups ++ [newGroup bid 0 1],
    threads := s.threads ++ [{ newThread bid 0 0 0 0 0 4 with nb := 8 }],
    ports := [{ core := 0, port := .a, pc := 0, members := [{ bid, tid := 0 }] }] }

end Sys2Proof.Machine
end

