-- ==== Sys2Proof/Laws/Word.lean ====
section
/-! SUPPORT. Every encoding decodes to the instruction that it encodes, one lemma for each word of the opcode map (R19 to R22, R31 to
R34). -/

namespace Sys2Proof.Laws.Word

theorem field_eq {n : Nat} (x : BitVec n) (w lo : Nat) (h : w / 2 ^ lo % 2 ^ n = x.toNat) : fieldOf w lo n = x := by
  apply BitVec.eq_of_toNat_eq
  rw [← h]
  simp [fieldOf]

theorem onlyIf_true {c : Bool} {i : Instr} (h : c = true) : onlyIf c i = some i := by rw [h]; rfl

theorem orElse_left {a b : Option Instr} {i : Instr} (h : a = some i) : (a.orElse fun _ => b) = some i := by rw [h]; rfl

theorem orElse_right {a b : Option Instr} {i : Instr} (h : a = none) (k : b = some i) : (a.orElse fun _ => b) = some i := by
  rw [h]; exact k

theorem major_01 (w : Nat) (h : w / 67108864 % 64 = 1) : decodeWord w = dec01 w := by
  unfold decodeWord
  rw [h]
  rfl

theorem major_02 (w : Nat) (h : w / 67108864 % 64 = 2) : decodeWord w = dec02 w := by
  unfold decodeWord
  rw [h]
  rfl

theorem major_03 (w : Nat) (h : w / 67108864 % 64 = 3) : decodeWord w = dec03 w := by
  unfold decodeWord
  rw [h]
  rfl

theorem major_04 (w : Nat) (h : w / 67108864 % 64 = 4) : decodeWord w = dec04 w := by
  unfold decodeWord
  rw [h]
  rfl

theorem major_05 (w : Nat) (h : w / 67108864 % 64 = 5) : decodeWord w = dec05 w := by
  unfold decodeWord
  rw [h]
  rfl

theorem major_06 (w : Nat) (h : w / 67108864 % 64 = 6) : decodeWord w = dec06 w := by
  unfold decodeWord
  rw [h]
  rfl

theorem major_07 (w : Nat) (h : w / 67108864 % 64 = 7) : decodeWord w = dec07 w := by
  unfold decodeWord
  rw [h]
  rfl

theorem major_08 (w : Nat) (h : w / 67108864 % 64 = 8) : decodeWord w = dec08 w := by
  unfold decodeWord
  rw [h]
  rfl

theorem major_09 (w : Nat) (h : w / 67108864 % 64 = 9) : decodeWord w = dec09 w := by
  unfold decodeWord
  rw [h]
  rfl

theorem major_0A (w : Nat) (h : w / 67108864 % 64 = 10) : decodeWord w = dec0A w := by
  unfold decodeWord
  rw [h]
  rfl

theorem major_0B (w : Nat) (h : w / 67108864 % 64 = 11) : decodeWord w = dec0B w := by
  unfold decodeWord
  rw [h]
  rfl

theorem major_0C (w : Nat) (h : w / 67108864 % 64 = 12) : decodeWord w = dec0C w := by
  unfold decodeWord
  rw [h]
  rfl

theorem major_0D (w : Nat) (h : w / 67108864 % 64 = 13) : decodeWord w = dec0D w := by
  unfold decodeWord
  rw [h]
  rfl

theorem major_0E (w : Nat) (h : w / 67108864 % 64 = 14) : decodeWord w = dec0E w := by
  unfold decodeWord
  rw [h]
  rfl

theorem major_0F (w : Nat) (h : w / 67108864 % 64 = 15) : decodeWord w = dec0F w := by
  unfold decodeWord
  rw [h]
  rfl

theorem major_10 (w : Nat) (h : w / 67108864 % 64 = 16) : decodeWord w = dec10 w := by
  unfold decodeWord
  rw [h]
  rfl

theorem major_11 (w : Nat) (h : w / 67108864 % 64 = 17) : decodeWord w = dec11 w := by
  unfold decodeWord
  rw [h]
  rfl

theorem major_12 (w : Nat) (h : w / 67108864 % 64 = 18) : decodeWord w = dec12 w := by
  unfold decodeWord
  rw [h]
  rfl

theorem major_13 (w : Nat) (h : w / 67108864 % 64 = 19) : decodeWord w = dec13 w := by
  unfold decodeWord
  rw [h]
  rfl

theorem major_14 (w : Nat) (h : w / 67108864 % 64 = 20) : decodeWord w = dec14 w := by
  unfold decodeWord
  rw [h]
  rfl

theorem major_15 (w : Nat) (h : w / 67108864 % 64 = 21) : decodeWord w = dec15 w := by
  unfold decodeWord
  rw [h]
  rfl

theorem major_16 (w : Nat) (h : w / 67108864 % 64 = 22) : decodeWord w = dec16 w := by
  unfold decodeWord
  rw [h]
  rfl

theorem major_17 (w : Nat) (h : w / 67108864 % 64 = 23) : decodeWord w = dec17 w := by
  unfold decodeWord
  rw [h]
  rfl

theorem major_18 (w : Nat) (h : w / 67108864 % 64 = 24) : decodeWord w = dec18 w := by
  unfold decodeWord
  rw [h]
  rfl

theorem major_19 (w : Nat) (h : w / 67108864 % 64 = 25) : decodeWord w = dec19 w := by
  unfold decodeWord
  rw [h]
  rfl

theorem major_1A (w : Nat) (h : w / 67108864 % 64 = 26) : decodeWord w = dec1A w := by
  unfold decodeWord
  rw [h]
  rfl

theorem major_1C (w : Nat) (h : w / 67108864 % 64 = 28) : decodeWord w = dec1C w := by
  unfold decodeWord
  rw [h]
  rfl

theorem major_1D (w : Nat) (h : w / 67108864 % 64 = 29) : decodeWord w = dec1D w := by
  unfold decodeWord
  rw [h]
  rfl

theorem major_1E (w : Nat) (h : w / 67108864 % 64 = 30) : decodeWord w = dec1E w := by
  unfold decodeWord
  rw [h]
  rfl

theorem major_1F (w : Nat) (h : w / 67108864 % 64 = 31) : decodeWord w = dec1F w := by
  unfold decodeWord
  rw [h]
  rfl

theorem major_20 (w : Nat) (h : w / 67108864 % 64 = 32) : decodeWord w = dec20 w := by
  unfold decodeWord
  rw [h]
  rfl

theorem major_21 (w : Nat) (h : w / 67108864 % 64 = 33) : decodeWord w = dec21 w := by
  unfold decodeWord
  rw [h]
  rfl

theorem major_22 (w : Nat) (h : w / 67108864 % 64 = 34) : decodeWord w = dec22 w := by
  unfold decodeWord
  rw [h]
  rfl

theorem major_23 (w : Nat) (h : w / 67108864 % 64 = 35) : decodeWord w = dec23 w := by
  unfold decodeWord
  rw [h]
  rfl

theorem major_24 (w : Nat) (h : w / 67108864 % 64 = 36) : decodeWord w = dec24 w := by
  unfold decodeWord
  rw [h]
  rfl

theorem major_25 (w : Nat) (h : w / 67108864 % 64 = 37) : decodeWord w = dec25 w := by
  unfold decodeWord
  rw [h]
  rfl

theorem major_26 (w : Nat) (h : w / 67108864 % 64 = 38) : decodeWord w = dec26 w := by
  unfold decodeWord
  rw [h]
  rfl

theorem major_27 (w : Nat) (h : w / 67108864 % 64 = 39) : decodeWord w = dec27 w := by
  unfold decodeWord
  rw [h]
  rfl

theorem major_28 (w : Nat) (h : w / 67108864 % 64 = 40) : decodeWord w = dec28 w := by
  unfold decodeWord
  rw [h]
  rfl

theorem major_29 (w : Nat) (h : w / 67108864 % 64 = 41) : decodeWord w = dec29 w := by
  unfold decodeWord
  rw [h]
  rfl

theorem major_2A (w : Nat) (h : w / 67108864 % 64 = 42) : decodeWord w = dec2A w := by
  unfold decodeWord
  rw [h]
  rfl

theorem major_2B (w : Nat) (h : w / 67108864 % 64 = 43) : decodeWord w = dec2B w := by
  unfold decodeWord
  rw [h]
  rfl

theorem major_2C (w : Nat) (h : w / 67108864 % 64 = 44) : decodeWord w = dec2C w := by
  unfold decodeWord
  rw [h]
  rfl

theorem major_2D (w : Nat) (h : w / 67108864 % 64 = 45) : decodeWord w = dec2D w := by
  unfold decodeWord
  rw [h]
  rfl

theorem major_2E (w : Nat) (h : w / 67108864 % 64 = 46) : decodeWord w = dec2E w := by
  unfold decodeWord
  rw [h]
  rfl

theorem major_2F (w : Nat) (h : w / 67108864 % 64 = 47) : decodeWord w = dec2F w := by
  unfold decodeWord
  rw [h]
  rfl

theorem major_30 (w : Nat) (h : w / 67108864 % 64 = 48) : decodeWord w = dec30 w := by
  unfold decodeWord
  rw [h]
  rfl

theorem major_31 (w : Nat) (h : w / 67108864 % 64 = 49) : decodeWord w = dec31 w := by
  unfold decodeWord
  rw [h]
  rfl

theorem major_32 (w : Nat) (h : w / 67108864 % 64 = 50) : decodeWord w = dec32 w := by
  unfold decodeWord
  rw [h]
  rfl

theorem major_33 (w : Nat) (h : w / 67108864 % 64 = 51) : decodeWord w = dec33 w := by
  unfold decodeWord
  rw [h]
  rfl

theorem major_34 (w : Nat) (h : w / 67108864 % 64 = 52) : decodeWord w = dec34 w := by
  unfold decodeWord
  rw [h]
  rfl

theorem major_35 (w : Nat) (h : w / 67108864 % 64 = 53) : decodeWord w = dec35 w := by
  unfold decodeWord
  rw [h]
  rfl

theorem major_36 (w : Nat) (h : w / 67108864 % 64 = 54) : decodeWord w = dec36 w := by
  unfold decodeWord
  rw [h]
  rfl

theorem major_37 (w : Nat) (h : w / 67108864 % 64 = 55) : decodeWord w = dec37 w := by
  unfold decodeWord
  rw [h]
  rfl

theorem major_38 (w : Nat) (h : w / 67108864 % 64 = 56) : decodeWord w = dec38 w := by
  unfold decodeWord
  rw [h]
  rfl

theorem major_39 (w : Nat) (h : w / 67108864 % 64 = 57) : decodeWord w = dec39 w := by
  unfold decodeWord
  rw [h]
  rfl

theorem major_3A (w : Nat) (h : w / 67108864 % 64 = 58) : decodeWord w = dec3A w := by
  unfold decodeWord
  rw [h]
  rfl

theorem major_3B (w : Nat) (h : w / 67108864 % 64 = 59) : decodeWord w = dec3B w := by
  unfold decodeWord
  rw [h]
  rfl

theorem major_3C (w : Nat) (h : w / 67108864 % 64 = 60) : decodeWord w = dec3C w := by
  unfold decodeWord
  rw [h]
  rfl

theorem major_3D (w : Nat) (h : w / 67108864 % 64 = 61) : decodeWord w = dec3D w := by
  unfold decodeWord
  rw [h]
  rfl

theorem major_3E (w : Nat) (h : w / 67108864 % 64 = 62) : decodeWord w = dec3E w := by
  unfold decodeWord
  rw [h]
  rfl

theorem addB32 (g : BitVec 3) (d : BitVec 7) (a : BitVec 7) (b : BitVec 7) (w : Nat) (hw : w = 67108864 + g.toNat * 8388608 + d.toNat * 16384 + a.toNat * 128 + b.toNat) :
    decodeWord w = some (.addB32 g d a b) := by
  have := g.isLt
  have := d.isLt
  have := a.isLt
  have := b.isLt
  rw [major_01 w (by omega)]
  unfold dec01
  rw [show w / 2097152 % 4 = 0 by omega]
  show some _ = some _
  rw [field_eq g w 23 (by omega), field_eq d w 14 (by omega), field_eq a w 7 (by omega), field_eq b w 0 (by omega)]

theorem subB32 (g : BitVec 3) (d : BitVec 7) (a : BitVec 7) (b : BitVec 7) (w : Nat) (hw : w = 69206016 + g.toNat * 8388608 + d.toNat * 16384 + a.toNat * 128 + b.toNat) :
    decodeWord w = some (.subB32 g d a b) := by
  have := g.isLt
  have := d.isLt
  have := a.isLt
  have := b.isLt
  rw [major_01 w (by omega)]
  unfold dec01
  rw [show w / 2097152 % 4 = 1 by omega]
  show some _ = some _
  rw [field_eq g w 23 (by omega), field_eq d w 14 (by omega), field_eq a w 7 (by omega), field_eq b w 0 (by omega)]

theorem addB64 (g : BitVec 3) (d : BitVec 7) (a : BitVec 7) (b : BitVec 7) (w : Nat) (hw : w = 71303168 + g.toNat * 8388608 + d.toNat * 16384 + a.toNat * 128 + b.toNat) :
    decodeWord w = some (.addB64 g d a b) := by
  have := g.isLt
  have := d.isLt
  have := a.isLt
  have := b.isLt
  rw [major_01 w (by omega)]
  unfold dec01
  rw [show w / 2097152 % 4 = 2 by omega]
  show some _ = some _
  rw [field_eq g w 23 (by omega), field_eq d w 14 (by omega), field_eq a w 7 (by omega), field_eq b w 0 (by omega)]

theorem subB64 (g : BitVec 3) (d : BitVec 7) (a : BitVec 7) (b : BitVec 7) (w : Nat) (hw : w = 73400320 + g.toNat * 8388608 + d.toNat * 16384 + a.toNat * 128 + b.toNat) :
    decodeWord w = some (.subB64 g d a b) := by
  have := g.isLt
  have := d.isLt
  have := a.isLt
  have := b.isLt
  rw [major_01 w (by omega)]
  unfold dec01
  rw [show w / 2097152 % 4 = 3 by omega]
  show some _ = some _
  rw [field_eq g w 23 (by omega), field_eq d w 14 (by omega), field_eq a w 7 (by omega), field_eq b w 0 (by omega)]

theorem addcB32 (g : BitVec 3) (d : BitVec 7) (a : BitVec 7) (b : BitVec 7) (w : Nat) (hw : w = 134217728 + g.toNat * 8388608 + d.toNat * 16384 + a.toNat * 128 + b.toNat) :
    decodeWord w = some (.addcB32 g d a b) := by
  have := g.isLt
  have := d.isLt
  have := a.isLt
  have := b.isLt
  rw [major_02 w (by omega)]
  unfold dec02
  rw [show w / 2097152 % 4 = 0 by omega]
  show some _ = some _
  rw [field_eq g w 23 (by omega), field_eq d w 14 (by omega), field_eq a w 7 (by omega), field_eq b w 0 (by omega)]

theorem subcB32 (g : BitVec 3) (d : BitVec 7) (a : BitVec 7) (b : BitVec 7) (w : Nat) (hw : w = 136314880 + g.toNat * 8388608 + d.toNat * 16384 + a.toNat * 128 + b.toNat) :
    decodeWord w = some (.subcB32 g d a b) := by
  have := g.isLt
  have := d.isLt
  have := a.isLt
  have := b.isLt
  rw [major_02 w (by omega)]
  unfold dec02
  rw [show w / 2097152 % 4 = 1 by omega]
  show some _ = some _
  rw [field_eq g w 23 (by omega), field_eq d w 14 (by omega), field_eq a w 7 (by omega), field_eq b w 0 (by omega)]

theorem mulLoB32 (g : BitVec 3) (d : BitVec 7) (a : BitVec 7) (b : BitVec 7) (w : Nat) (hw : w = 138412032 + g.toNat * 8388608 + d.toNat * 16384 + a.toNat * 128 + b.toNat) :
    decodeWord w = some (.mulLoB32 g d a b) := by
  have := g.isLt
  have := d.isLt
  have := a.isLt
  have := b.isLt
  rw [major_02 w (by omega)]
  unfold dec02
  rw [show w / 2097152 % 4 = 2 by omega]
  show some _ = some _
  rw [field_eq g w 23 (by omega), field_eq d w 14 (by omega), field_eq a w 7 (by omega), field_eq b w 0 (by omega)]

theorem mulWideZ (g : BitVec 3) (d : BitVec 7) (a : BitVec 7) (b : BitVec 7) (w : Nat) (hw : w = 140509184 + g.toNat * 8388608 + d.toNat * 16384 + a.toNat * 128 + b.toNat) :
    decodeWord w = some (.mulWideZ g d a b) := by
  have := g.isLt
  have := d.isLt
  have := a.isLt
  have := b.isLt
  rw [major_02 w (by omega)]
  unfold dec02
  rw [show w / 2097152 % 4 = 3 by omega]
  show some _ = some _
  rw [field_eq g w 23 (by omega), field_eq d w 14 (by omega), field_eq a w 7 (by omega), field_eq b w 0 (by omega)]

theorem mulHiSB32 (g : BitVec 3) (d : BitVec 7) (a : BitVec 7) (b : BitVec 7) (w : Nat) (hw : w = 201326592 + g.toNat * 8388608 + d.toNat * 16384 + a.toNat * 128 + b.toNat) :
    decodeWord w = some (.mulHiSB32 g d a b) := by
  have := g.isLt
  have := d.isLt
  have := a.isLt
  have := b.isLt
  rw [major_03 w (by omega)]
  unfold dec03
  rw [show w / 2097152 % 4 = 0 by omega]
  show some _ = some _
  rw [field_eq g w 23 (by omega), field_eq d w 14 (by omega), field_eq a w 7 (by omega), field_eq b w 0 (by omega)]

theorem mulHiZB32 (g : BitVec 3) (d : BitVec 7) (a : BitVec 7) (b : BitVec 7) (w : Nat) (hw : w = 203423744 + g.toNat * 8388608 + d.toNat * 16384 + a.toNat * 128 + b.toNat) :
    decodeWord w = some (.mulHiZB32 g d a b) := by
  have := g.isLt
  have := d.isLt
  have := a.isLt
  have := b.isLt
  rw [major_03 w (by omega)]
  unfold dec03
  rw [show w / 2097152 % 4 = 1 by omega]
  show some _ = some _
  rw [field_eq g w 23 (by omega), field_eq d w 14 (by omega), field_eq a w 7 (by omega), field_eq b w 0 (by omega)]

theorem madLoB32 (g : BitVec 3) (d : BitVec 7) (a : BitVec 7) (b : BitVec 7) (w : Nat) (hw : w = 205520896 + g.toNat * 8388608 + d.toNat * 16384 + a.toNat * 128 + b.toNat) :
    decodeWord w = some (.madLoB32 g d a b) := by
  have := g.isLt
  have := d.isLt
  have := a.isLt
  have := b.isLt
  rw [major_03 w (by omega)]
  unfold dec03
  rw [show w / 2097152 % 4 = 2 by omega]
  show some _ = some _
  rw [field_eq g w 23 (by omega), field_eq d w 14 (by omega), field_eq a w 7 (by omega), field_eq b w 0 (by omega)]

theorem mulWideS (g : BitVec 3) (d : BitVec 7) (a : BitVec 7) (b : BitVec 7) (w : Nat) (hw : w = 207618048 + g.toNat * 8388608 + d.toNat * 16384 + a.toNat * 128 + b.toNat) :
    decodeWord w = some (.mulWideS g d a b) := by
  have := g.isLt
  have := d.isLt
  have := a.isLt
  have := b.isLt
  rw [major_03 w (by omega)]
  unfold dec03
  rw [show w / 2097152 % 4 = 3 by omega]
  show some _ = some _
  rw [field_eq g w 23 (by omega), field_eq d w 14 (by omega), field_eq a w 7 (by omega), field_eq b w 0 (by omega)]

theorem minSB32 (g : BitVec 3) (d : BitVec 7) (a : BitVec 7) (b : BitVec 7) (w : Nat) (hw : w = 268435456 + g.toNat * 8388608 + d.toNat * 16384 + a.toNat * 128 + b.toNat) :
    decodeWord w = some (.minSB32 g d a b) := by
  have := g.isLt
  have := d.isLt
  have := a.isLt
  have := b.isLt
  rw [major_04 w (by omega)]
  unfold dec04
  rw [show w / 2097152 % 4 = 0 by omega]
  show some _ = some _
  rw [field_eq g w 23 (by omega), field_eq d w 14 (by omega), field_eq a w 7 (by omega), field_eq b w 0 (by omega)]

theorem maxSB32 (g : BitVec 3) (d : BitVec 7) (a : BitVec 7) (b : BitVec 7) (w : Nat) (hw : w = 270532608 + g.toNat * 8388608 + d.toNat * 16384 + a.toNat * 128 + b.toNat) :
    decodeWord w = some (.maxSB32 g d a b) := by
  have := g.isLt
  have := d.isLt
  have := a.isLt
  have := b.isLt
  rw [major_04 w (by omega)]
  unfold dec04
  rw [show w / 2097152 % 4 = 1 by omega]
  show some _ = some _
  rw [field_eq g w 23 (by omega), field_eq d w 14 (by omega), field_eq a w 7 (by omega), field_eq b w 0 (by omega)]

theorem minZB32 (g : BitVec 3) (d : BitVec 7) (a : BitVec 7) (b : BitVec 7) (w : Nat) (hw : w = 272629760 + g.toNat * 8388608 + d.toNat * 16384 + a.toNat * 128 + b.toNat) :
    decodeWord w = some (.minZB32 g d a b) := by
  have := g.isLt
  have := d.isLt
  have := a.isLt
  have := b.isLt
  rw [major_04 w (by omega)]
  unfold dec04
  rw [show w / 2097152 % 4 = 2 by omega]
  show some _ = some _
  rw [field_eq g w 23 (by omega), field_eq d w 14 (by omega), field_eq a w 7 (by omega), field_eq b w 0 (by omega)]

theorem maxZB32 (g : BitVec 3) (d : BitVec 7) (a : BitVec 7) (b : BitVec 7) (w : Nat) (hw : w = 274726912 + g.toNat * 8388608 + d.toNat * 16384 + a.toNat * 128 + b.toNat) :
    decodeWord w = some (.maxZB32 g d a b) := by
  have := g.isLt
  have := d.isLt
  have := a.isLt
  have := b.isLt
  rw [major_04 w (by omega)]
  unfold dec04
  rw [show w / 2097152 % 4 = 3 by omega]
  show some _ = some _
  rw [field_eq g w 23 (by omega), field_eq d w 14 (by omega), field_eq a w 7 (by omega), field_eq b w 0 (by omega)]

theorem shlB32 (g : BitVec 3) (d : BitVec 7) (a : BitVec 7) (b : BitVec 7) (w : Nat) (hw : w = 335544320 + g.toNat * 8388608 + d.toNat * 16384 + a.toNat * 128 + b.toNat) :
    decodeWord w = some (.shlB32 g d a b) := by
  have := g.isLt
  have := d.isLt
  have := a.isLt
  have := b.isLt
  rw [major_05 w (by omega)]
  unfold dec05
  rw [show w / 2097152 % 4 = 0 by omega]
  show some _ = some _
  rw [field_eq g w 23 (by omega), field_eq d w 14 (by omega), field_eq a w 7 (by omega), field_eq b w 0 (by omega)]

theorem shrZB32 (g : BitVec 3) (d : BitVec 7) (a : BitVec 7) (b : BitVec 7) (w : Nat) (hw : w = 337641472 + g.toNat * 8388608 + d.toNat * 16384 + a.toNat * 128 + b.toNat) :
    decodeWord w = some (.shrZB32 g d a b) := by
  have := g.isLt
  have := d.isLt
  have := a.isLt
  have := b.isLt
  rw [major_05 w (by omega)]
  unfold dec05
  rw [show w / 2097152 % 4 = 1 by omega]
  show some _ = some _
  rw [field_eq g w 23 (by omega), field_eq d w 14 (by omega), field_eq a w 7 (by omega), field_eq b w 0 (by omega)]

theorem shrSB32 (g : BitVec 3) (d : BitVec 7) (a : BitVec 7) (b : BitVec 7) (w : Nat) (hw : w = 339738624 + g.toNat * 8388608 + d.toNat * 16384 + a.toNat * 128 + b.toNat) :
    decodeWord w = some (.shrSB32 g d a b) := by
  have := g.isLt
  have := d.isLt
  have := a.isLt
  have := b.isLt
  rw [major_05 w (by omega)]
  unfold dec05
  rw [show w / 2097152 % 4 = 2 by omega]
  show some _ = some _
  rw [field_eq g w 23 (by omega), field_eq d w 14 (by omega), field_eq a w 7 (by omega), field_eq b w 0 (by omega)]

theorem rotB32 (g : BitVec 3) (d : BitVec 7) (a : BitVec 7) (b : BitVec 7) (w : Nat) (hw : w = 341835776 + g.toNat * 8388608 + d.toNat * 16384 + a.toNat * 128 + b.toNat) :
    decodeWord w = some (.rotB32 g d a b) := by
  have := g.isLt
  have := d.isLt
  have := a.isLt
  have := b.isLt
  rw [major_05 w (by omega)]
  unfold dec05
  rw [show w / 2097152 % 4 = 3 by omega]
  show some _ = some _
  rw [field_eq g w 23 (by omega), field_eq d w 14 (by omega), field_eq a w 7 (by omega), field_eq b w 0 (by omega)]

theorem shlB64 (g : BitVec 3) (d : BitVec 7) (a : BitVec 7) (b : BitVec 7) (w : Nat) (hw : w = 402653184 + g.toNat * 8388608 + d.toNat * 16384 + a.toNat * 128 + b.toNat) :
    decodeWord w = some (.shlB64 g d a b) := by
  have := g.isLt
  have := d.isLt
  have := a.isLt
  have := b.isLt
  rw [major_06 w (by omega)]
  unfold dec06
  rw [show w / 2097152 % 4 = 0 by omega]
  show some _ = some _
  rw [field_eq g w 23 (by omega), field_eq d w 14 (by omega), field_eq a w 7 (by omega), field_eq b w 0 (by omega)]

theorem shrZB64 (g : BitVec 3) (d : BitVec 7) (a : BitVec 7) (b : BitVec 7) (w : Nat) (hw : w = 404750336 + g.toNat * 8388608 + d.toNat * 16384 + a.toNat * 128 + b.toNat) :
    decodeWord w = some (.shrZB64 g d a b) := by
  have := g.isLt
  have := d.isLt
  have := a.isLt
  have := b.isLt
  rw [major_06 w (by omega)]
  unfold dec06
  rw [show w / 2097152 % 4 = 1 by omega]
  show some _ = some _
  rw [field_eq g w 23 (by omega), field_eq d w 14 (by omega), field_eq a w 7 (by omega), field_eq b w 0 (by omega)]

theorem shrSB64 (g : BitVec 3) (d : BitVec 7) (a : BitVec 7) (b : BitVec 7) (w : Nat) (hw : w = 406847488 + g.toNat * 8388608 + d.toNat * 16384 + a.toNat * 128 + b.toNat) :
    decodeWord w = some (.shrSB64 g d a b) := by
  have := g.isLt
  have := d.isLt
  have := a.isLt
  have := b.isLt
  rw [major_06 w (by omega)]
  unfold dec06
  rw [show w / 2097152 % 4 = 2 by omega]
  show some _ = some _
  rw [field_eq g w 23 (by omega), field_eq d w 14 (by omega), field_eq a w 7 (by omega), field_eq b w 0 (by omega)]

theorem bselB32 (g : BitVec 3) (d : BitVec 7) (a : BitVec 7) (b : BitVec 7) (w : Nat) (hw : w = 408944640 + g.toNat * 8388608 + d.toNat * 16384 + a.toNat * 128 + b.toNat) :
    decodeWord w = some (.bselB32 g d a b) := by
  have := g.isLt
  have := d.isLt
  have := a.isLt
  have := b.isLt
  rw [major_06 w (by omega)]
  unfold dec06
  rw [show w / 2097152 % 4 = 3 by omega]
  show some _ = some _
  rw [field_eq g w 23 (by omega), field_eq d w 14 (by omega), field_eq a w 7 (by omega), field_eq b w 0 (by omega)]

theorem andB32 (g : BitVec 3) (d : BitVec 7) (a : BitVec 7) (b : BitVec 7) (w : Nat) (hw : w = 469762048 + g.toNat * 8388608 + d.toNat * 16384 + a.toNat * 128 + b.toNat) :
    decodeWord w = some (.andB32 g d a b) := by
  have := g.isLt
  have := d.isLt
  have := a.isLt
  have := b.isLt
  rw [major_07 w (by omega)]
  unfold dec07
  rw [show w / 2097152 % 4 = 0 by omega]
  show some _ = some _
  rw [field_eq g w 23 (by omega), field_eq d w 14 (by omega), field_eq a w 7 (by omega), field_eq b w 0 (by omega)]

theorem orB32 (g : BitVec 3) (d : BitVec 7) (a : BitVec 7) (b : BitVec 7) (w : Nat) (hw : w = 471859200 + g.toNat * 8388608 + d.toNat * 16384 + a.toNat * 128 + b.toNat) :
    decodeWord w = some (.orB32 g d a b) := by
  have := g.isLt
  have := d.isLt
  have := a.isLt
  have := b.isLt
  rw [major_07 w (by omega)]
  unfold dec07
  rw [show w / 2097152 % 4 = 1 by omega]
  show some _ = some _
  rw [field_eq g w 23 (by omega), field_eq d w 14 (by omega), field_eq a w 7 (by omega), field_eq b w 0 (by omega)]

theorem xorB32 (g : BitVec 3) (d : BitVec 7) (a : BitVec 7) (b : BitVec 7) (w : Nat) (hw : w = 473956352 + g.toNat * 8388608 + d.toNat * 16384 + a.toNat * 128 + b.toNat) :
    decodeWord w = some (.xorB32 g d a b) := by
  have := g.isLt
  have := d.isLt
  have := a.isLt
  have := b.isLt
  rw [major_07 w (by omega)]
  unfold dec07
  rw [show w / 2097152 % 4 = 2 by omega]
  show some _ = some _
  rw [field_eq g w 23 (by omega), field_eq d w 14 (by omega), field_eq a w 7 (by omega), field_eq b w 0 (by omega)]

theorem andnB32 (g : BitVec 3) (d : BitVec 7) (a : BitVec 7) (b : BitVec 7) (w : Nat) (hw : w = 476053504 + g.toNat * 8388608 + d.toNat * 16384 + a.toNat * 128 + b.toNat) :
    decodeWord w = some (.andnB32 g d a b) := by
  have := g.isLt
  have := d.isLt
  have := a.isLt
  have := b.isLt
  rw [major_07 w (by omega)]
  unfold dec07
  rw [show w / 2097152 % 4 = 3 by omega]
  show some _ = some _
  rw [field_eq g w 23 (by omega), field_eq d w 14 (by omega), field_eq a w 7 (by omega), field_eq b w 0 (by omega)]

theorem popcB32 (g : BitVec 3) (d : BitVec 7) (a : BitVec 7) (w : Nat) (hw : w = 536870912 + g.toNat * 8388608 + d.toNat * 16384 + a.toNat * 128) :
    decodeWord w = some (.popcB32 g d a) := by
  have := g.isLt
  have := d.isLt
  have := a.isLt
  rw [major_08 w (by omega)]
  unfold dec08
  rw [show w / 2097152 % 4 = 0 by omega]
  refine (onlyIf_true ?_).trans ?_
  · simp only [show w % 128 = 0 by omega]
    rfl
  rw [field_eq g w 23 (by omega), field_eq d w 14 (by omega), field_eq a w 7 (by omega)]

theorem clzB32 (g : BitVec 3) (d : BitVec 7) (a : BitVec 7) (w : Nat) (hw : w = 538968064 + g.toNat * 8388608 + d.toNat * 16384 + a.toNat * 128) :
    decodeWord w = some (.clzB32 g d a) := by
  have := g.isLt
  have := d.isLt
  have := a.isLt
  rw [major_08 w (by omega)]
  unfold dec08
  rw [show w / 2097152 % 4 = 1 by omega]
  refine (onlyIf_true ?_).trans ?_
  · simp only [show w % 128 = 0 by omega]
    rfl
  rw [field_eq g w 23 (by omega), field_eq d w 14 (by omega), field_eq a w 7 (by omega)]

theorem bfxB32 (g : BitVec 3) (d : BitVec 7) (a : BitVec 7) (b : BitVec 7) (w : Nat) (hw : w = 541065216 + g.toNat * 8388608 + d.toNat * 16384 + a.toNat * 128 + b.toNat) :
    decodeWord w = some (.bfxB32 g d a b) := by
  have := g.isLt
  have := d.isLt
  have := a.isLt
  have := b.isLt
  rw [major_08 w (by omega)]
  unfold dec08
  rw [show w / 2097152 % 4 = 2 by omega]
  show some _ = some _
  rw [field_eq g w 23 (by omega), field_eq d w 14 (by omega), field_eq a w 7 (by omega), field_eq b w 0 (by omega)]

theorem bfiB32 (g : BitVec 3) (d : BitVec 7) (a : BitVec 7) (b : BitVec 7) (w : Nat) (hw : w = 543162368 + g.toNat * 8388608 + d.toNat * 16384 + a.toNat * 128 + b.toNat) :
    decodeWord w = some (.bfiB32 g d a b) := by
  have := g.isLt
  have := d.isLt
  have := a.isLt
  have := b.isLt
  rw [major_08 w (by omega)]
  unfold dec08
  rw [show w / 2097152 % 4 = 3 by omega]
  show some _ = some _
  rw [field_eq g w 23 (by omega), field_eq d w 14 (by omega), field_eq a w 7 (by omega), field_eq b w 0 (by omega)]

theorem cmpEqB32 (g : BitVec 3) (d : BitVec 3) (a : BitVec 7) (b : BitVec 7) (w : Nat) (hw : w = 603979776 + g.toNat * 8388608 + d.toNat * 16384 + a.toNat * 128 + b.toNat) :
    decodeWord w = some (.cmpEqB32 g d a b) := by
  have := g.isLt
  have := d.isLt
  have := a.isLt
  have := b.isLt
  rw [major_09 w (by omega)]
  unfold dec09
  rw [show w / 2097152 % 4 = 0 by omega]
  refine (onlyIf_true ?_).trans ?_
  · simp only [show w / 131072 % 16 = 0 by omega]
    rfl
  rw [field_eq g w 23 (by omega), field_eq d w 14 (by omega), field_eq a w 7 (by omega), field_eq b w 0 (by omega)]

theorem cmpNeB32 (g : BitVec 3) (d : BitVec 3) (a : BitVec 7) (b : BitVec 7) (w : Nat) (hw : w = 606076928 + g.toNat * 8388608 + d.toNat * 16384 + a.toNat * 128 + b.toNat) :
    decodeWord w = some (.cmpNeB32 g d a b) := by
  have := g.isLt
  have := d.isLt
  have := a.isLt
  have := b.isLt
  rw [major_09 w (by omega)]
  unfold dec09
  rw [show w / 2097152 % 4 = 1 by omega]
  refine (onlyIf_true ?_).trans ?_
  · simp only [show w / 131072 % 16 = 0 by omega]
    rfl
  rw [field_eq g w 23 (by omega), field_eq d w 14 (by omega), field_eq a w 7 (by omega), field_eq b w 0 (by omega)]

theorem cmpLtSB32 (g : BitVec 3) (d : BitVec 3) (a : BitVec 7) (b : BitVec 7) (w : Nat) (hw : w = 608174080 + g.toNat * 8388608 + d.toNat * 16384 + a.toNat * 128 + b.toNat) :
    decodeWord w = some (.cmpLtSB32 g d a b) := by
  have := g.isLt
  have := d.isLt
  have := a.isLt
  have := b.isLt
  rw [major_09 w (by omega)]
  unfold dec09
  rw [show w / 2097152 % 4 = 2 by omega]
  refine (onlyIf_true ?_).trans ?_
  · simp only [show w / 131072 % 16 = 0 by omega]
    rfl
  rw [field_eq g w 23 (by omega), field_eq d w 14 (by omega), field_eq a w 7 (by omega), field_eq b w 0 (by omega)]

theorem cmpLtZB32 (g : BitVec 3) (d : BitVec 3) (a : BitVec 7) (b : BitVec 7) (w : Nat) (hw : w = 610271232 + g.toNat * 8388608 + d.toNat * 16384 + a.toNat * 128 + b.toNat) :
    decodeWord w = some (.cmpLtZB32 g d a b) := by
  have := g.isLt
  have := d.isLt
  have := a.isLt
  have := b.isLt
  rw [major_09 w (by omega)]
  unfold dec09
  rw [show w / 2097152 % 4 = 3 by omega]
  refine (onlyIf_true ?_).trans ?_
  · simp only [show w / 131072 % 16 = 0 by omega]
    rfl
  rw [field_eq g w 23 (by omega), field_eq d w 14 (by omega), field_eq a w 7 (by omega), field_eq b w 0 (by omega)]

theorem cmpLeSB32 (g : BitVec 3) (d : BitVec 3) (a : BitVec 7) (b : BitVec 7) (w : Nat) (hw : w = 671088640 + g.toNat * 8388608 + d.toNat * 16384 + a.toNat * 128 + b.toNat) :
    decodeWord w = some (.cmpLeSB32 g d a b) := by
  have := g.isLt
  have := d.isLt
  have := a.isLt
  have := b.isLt
  rw [major_0A w (by omega)]
  unfold dec0A
  rw [show w / 2097152 % 4 = 0 by omega]
  refine (onlyIf_true ?_).trans ?_
  · simp only [show w / 131072 % 16 = 0 by omega]
    rfl
  rw [field_eq g w 23 (by omega), field_eq d w 14 (by omega), field_eq a w 7 (by omega), field_eq b w 0 (by omega)]

theorem cmpLeZB32 (g : BitVec 3) (d : BitVec 3) (a : BitVec 7) (b : BitVec 7) (w : Nat) (hw : w = 673185792 + g.toNat * 8388608 + d.toNat * 16384 + a.toNat * 128 + b.toNat) :
    decodeWord w = some (.cmpLeZB32 g d a b) := by
  have := g.isLt
  have := d.isLt
  have := a.isLt
  have := b.isLt
  rw [major_0A w (by omega)]
  unfold dec0A
  rw [show w / 2097152 % 4 = 1 by omega]
  refine (onlyIf_true ?_).trans ?_
  · simp only [show w / 131072 % 16 = 0 by omega]
    rfl
  rw [field_eq g w 23 (by omega), field_eq d w 14 (by omega), field_eq a w 7 (by omega), field_eq b w 0 (by omega)]

theorem cmpEqB64 (g : BitVec 3) (d : BitVec 3) (a : BitVec 7) (b : BitVec 7) (w : Nat) (hw : w = 675282944 + g.toNat * 8388608 + d.toNat * 16384 + a.toNat * 128 + b.toNat) :
    decodeWord w = some (.cmpEqB64 g d a b) := by
  have := g.isLt
  have := d.isLt
  have := a.isLt
  have := b.isLt
  rw [major_0A w (by omega)]
  unfold dec0A
  rw [show w / 2097152 % 4 = 2 by omega]
  refine (onlyIf_true ?_).trans ?_
  · simp only [show w / 131072 % 16 = 0 by omega]
    rfl
  rw [field_eq g w 23 (by omega), field_eq d w 14 (by omega), field_eq a w 7 (by omega), field_eq b w 0 (by omega)]

theorem cmpLtSB64 (g : BitVec 3) (d : BitVec 3) (a : BitVec 7) (b : BitVec 7) (w : Nat) (hw : w = 677380096 + g.toNat * 8388608 + d.toNat * 16384 + a.toNat * 128 + b.toNat) :
    decodeWord w = some (.cmpLtSB64 g d a b) := by
  have := g.isLt
  have := d.isLt
  have := a.isLt
  have := b.isLt
  rw [major_0A w (by omega)]
  unfold dec0A
  rw [show w / 2097152 % 4 = 3 by omega]
  refine (onlyIf_true ?_).trans ?_
  · simp only [show w / 131072 % 16 = 0 by omega]
    rfl
  rw [field_eq g w 23 (by omega), field_eq d w 14 (by omega), field_eq a w 7 (by omega), field_eq b w 0 (by omega)]

theorem cmpLtZB64 (g : BitVec 3) (d : BitVec 3) (a : BitVec 7) (b : BitVec 7) (w : Nat) (hw : w = 738197504 + g.toNat * 8388608 + d.toNat * 16384 + a.toNat * 128 + b.toNat) :
    decodeWord w = some (.cmpLtZB64 g d a b) := by
  have := g.isLt
  have := d.isLt
  have := a.isLt
  have := b.isLt
  rw [major_0B w (by omega)]
  unfold dec0B
  rw [show w / 2097152 % 4 = 0 by omega]
  refine (onlyIf_true ?_).trans ?_
  · simp only [show w / 131072 % 16 = 0 by omega]
    rfl
  rw [field_eq g w 23 (by omega), field_eq d w 14 (by omega), field_eq a w 7 (by omega), field_eq b w 0 (by omega)]

theorem selB32 (g : BitVec 3) (d : BitVec 7) (a : BitVec 7) (b : BitVec 7) (w : Nat) (hw : w = 740294656 + g.toNat * 8388608 + d.toNat * 16384 + a.toNat * 128 + b.toNat) :
    decodeWord w = some (.selB32 g d a b) := by
  have := g.isLt
  have := d.isLt
  have := a.isLt
  have := b.isLt
  rw [major_0B w (by omega)]
  unfold dec0B
  rw [show w / 2097152 % 4 = 1 by omega]
  show some _ = some _
  rw [field_eq g w 23 (by omega), field_eq d w 14 (by omega), field_eq a w 7 (by omega), field_eq b w 0 (by omega)]

theorem movB32 (g : BitVec 3) (d : BitVec 7) (a : BitVec 7) (w : Nat) (hw : w = 742391808 + g.toNat * 8388608 + d.toNat * 16384 + a.toNat * 128) :
    decodeWord w = some (.movB32 g d a) := by
  have := g.isLt
  have := d.isLt
  have := a.isLt
  rw [major_0B w (by omega)]
  unfold dec0B
  rw [show w / 2097152 % 4 = 2 by omega]
  refine (onlyIf_true ?_).trans ?_
  · simp only [show w % 128 = 0 by omega]
    rfl
  rw [field_eq g w 23 (by omega), field_eq d w 14 (by omega), field_eq a w 7 (by omega)]

theorem movSv (g : BitVec 3) (d : BitVec 7) (a : BitVec 7) (w : Nat) (hw : w = 744488960 + g.toNat * 8388608 + d.toNat * 16384 + a.toNat * 128) :
    decodeWord w = some (.movSv g d a) := by
  have := g.isLt
  have := d.isLt
  have := a.isLt
  rw [major_0B w (by omega)]
  unfold dec0B
  rw [show w / 2097152 % 4 = 3 by omega]
  refine (onlyIf_true ?_).trans ?_
  · simp only [show w % 128 = 0 by omega]
    rfl
  rw [field_eq g w 23 (by omega), field_eq d w 14 (by omega), field_eq a w 7 (by omega)]

theorem fadd (g : BitVec 3) (d : BitVec 7) (a : BitVec 7) (b : BitVec 7) (w : Nat) (hw : w = 805306368 + g.toNat * 8388608 + d.toNat * 16384 + a.toNat * 128 + b.toNat) :
    decodeWord w = some (.fadd g d a b) := by
  have := g.isLt
  have := d.isLt
  have := a.isLt
  have := b.isLt
  rw [major_0C w (by omega)]
  unfold dec0C
  rw [show w / 2097152 % 4 = 0 by omega]
  show some _ = some _
  rw [field_eq g w 23 (by omega), field_eq d w 14 (by omega), field_eq a w 7 (by omega), field_eq b w 0 (by omega)]

theorem fsub (g : BitVec 3) (d : BitVec 7) (a : BitVec 7) (b : BitVec 7) (w : Nat) (hw : w = 807403520 + g.toNat * 8388608 + d.toNat * 16384 + a.toNat * 128 + b.toNat) :
    decodeWord w = some (.fsub g d a b) := by
  have := g.isLt
  have := d.isLt
  have := a.isLt
  have := b.isLt
  rw [major_0C w (by omega)]
  unfold dec0C
  rw [show w / 2097152 % 4 = 1 by omega]
  show some _ = some _
  rw [field_eq g w 23 (by omega), field_eq d w 14 (by omega), field_eq a w 7 (by omega), field_eq b w 0 (by omega)]

theorem fmul (g : BitVec 3) (d : BitVec 7) (a : BitVec 7) (b : BitVec 7) (w : Nat) (hw : w = 809500672 + g.toNat * 8388608 + d.toNat * 16384 + a.toNat * 128 + b.toNat) :
    decodeWord w = some (.fmul g d a b) := by
  have := g.isLt
  have := d.isLt
  have := a.isLt
  have := b.isLt
  rw [major_0C w (by omega)]
  unfold dec0C
  rw [show w / 2097152 % 4 = 2 by omega]
  show some _ = some _
  rw [field_eq g w 23 (by omega), field_eq d w 14 (by omega), field_eq a w 7 (by omega), field_eq b w 0 (by omega)]

theorem ffma (g : BitVec 3) (d : BitVec 7) (a : BitVec 7) (b : BitVec 7) (w : Nat) (hw : w = 811597824 + g.toNat * 8388608 + d.toNat * 16384 + a.toNat * 128 + b.toNat) :
    decodeWord w = some (.ffma g d a b) := by
  have := g.isLt
  have := d.isLt
  have := a.isLt
  have := b.isLt
  rw [major_0C w (by omega)]
  unfold dec0C
  rw [show w / 2097152 % 4 = 3 by omega]
  show some _ = some _
  rw [field_eq g w 23 (by omega), field_eq d w 14 (by omega), field_eq a w 7 (by omega), field_eq b w 0 (by omega)]

theorem fmin (g : BitVec 3) (d : BitVec 7) (a : BitVec 7) (b : BitVec 7) (w : Nat) (hw : w = 872415232 + g.toNat * 8388608 + d.toNat * 16384 + a.toNat * 128 + b.toNat) :
    decodeWord w = some (.fmin g d a b) := by
  have := g.isLt
  have := d.isLt
  have := a.isLt
  have := b.isLt
  rw [major_0D w (by omega)]
  unfold dec0D
  rw [show w / 2097152 % 4 = 0 by omega]
  show some _ = some _
  rw [field_eq g w 23 (by omega), field_eq d w 14 (by omega), field_eq a w 7 (by omega), field_eq b w 0 (by omega)]

theorem fmax (g : BitVec 3) (d : BitVec 7) (a : BitVec 7) (b : BitVec 7) (w : Nat) (hw : w = 874512384 + g.toNat * 8388608 + d.toNat * 16384 + a.toNat * 128 + b.toNat) :
    decodeWord w = some (.fmax g d a b) := by
  have := g.isLt
  have := d.isLt
  have := a.isLt
  have := b.isLt
  rw [major_0D w (by omega)]
  unfold dec0D
  rw [show w / 2097152 % 4 = 1 by omega]
  show some _ = some _
  rw [field_eq g w 23 (by omega), field_eq d w 14 (by omega), field_eq a w 7 (by omega), field_eq b w 0 (by omega)]

theorem fcmpEq (g : BitVec 3) (d : BitVec 3) (a : BitVec 7) (b : BitVec 7) (w : Nat) (hw : w = 876609536 + g.toNat * 8388608 + d.toNat * 16384 + a.toNat * 128 + b.toNat) :
    decodeWord w = some (.fcmpEq g d a b) := by
  have := g.isLt
  have := d.isLt
  have := a.isLt
  have := b.isLt
  rw [major_0D w (by omega)]
  unfold dec0D
  rw [show w / 2097152 % 4 = 2 by omega]
  refine (onlyIf_true ?_).trans ?_
  · simp only [show w / 131072 % 16 = 0 by omega]
    rfl
  rw [field_eq g w 23 (by omega), field_eq d w 14 (by omega), field_eq a w 7 (by omega), field_eq b w 0 (by omega)]

theorem fcmpLt (g : BitVec 3) (d : BitVec 3) (a : BitVec 7) (b : BitVec 7) (w : Nat) (hw : w = 878706688 + g.toNat * 8388608 + d.toNat * 16384 + a.toNat * 128 + b.toNat) :
    decodeWord w = some (.fcmpLt g d a b) := by
  have := g.isLt
  have := d.isLt
  have := a.isLt
  have := b.isLt
  rw [major_0D w (by omega)]
  unfold dec0D
  rw [show w / 2097152 % 4 = 3 by omega]
  refine (onlyIf_true ?_).trans ?_
  · simp only [show w / 131072 % 16 = 0 by omega]
    rfl
  rw [field_eq g w 23 (by omega), field_eq d w 14 (by omega), field_eq a w 7 (by omega), field_eq b w 0 (by omega)]

theorem fcmpLe (g : BitVec 3) (d : BitVec 3) (a : BitVec 7) (b : BitVec 7) (w : Nat) (hw : w = 939524096 + g.toNat * 8388608 + d.toNat * 16384 + a.toNat * 128 + b.toNat) :
    decodeWord w = some (.fcmpLe g d a b) := by
  have := g.isLt
  have := d.isLt
  have := a.isLt
  have := b.isLt
  rw [major_0E w (by omega)]
  unfold dec0E
  rw [show w / 2097152 % 4 = 0 by omega]
  refine (onlyIf_true ?_).trans ?_
  · simp only [show w / 131072 % 16 = 0 by omega]
    rfl
  rw [field_eq g w 23 (by omega), field_eq d w 14 (by omega), field_eq a w 7 (by omega), field_eq b w 0 (by omega)]

theorem fcmpUn (g : BitVec 3) (d : BitVec 3) (a : BitVec 7) (b : BitVec 7) (w : Nat) (hw : w = 941621248 + g.toNat * 8388608 + d.toNat * 16384 + a.toNat * 128 + b.toNat) :
    decodeWord w = some (.fcmpUn g d a b) := by
  have := g.isLt
  have := d.isLt
  have := a.isLt
  have := b.isLt
  rw [major_0E w (by omega)]
  unfold dec0E
  rw [show w / 2097152 % 4 = 1 by omega]
  refine (onlyIf_true ?_).trans ?_
  · simp only [show w / 131072 % 16 = 0 by omega]
    rfl
  rw [field_eq g w 23 (by omega), field_eq d w 14 (by omega), field_eq a w 7 (by omega), field_eq b w 0 (by omega)]

theorem fabs (g : BitVec 3) (d : BitVec 7) (a : BitVec 7) (w : Nat) (hw : w = 943718400 + g.toNat * 8388608 + d.toNat * 16384 + a.toNat * 128) :
    decodeWord w = some (.fabs g d a) := by
  have := g.isLt
  have := d.isLt
  have := a.isLt
  rw [major_0E w (by omega)]
  unfold dec0E
  rw [show w / 2097152 % 4 = 2 by omega]
  refine (onlyIf_true ?_).trans ?_
  · simp only [show w % 128 = 0 by omega]
    rfl
  rw [field_eq g w 23 (by omega), field_eq d w 14 (by omega), field_eq a w 7 (by omega)]

theorem fneg (g : BitVec 3) (d : BitVec 7) (a : BitVec 7) (w : Nat) (hw : w = 945815552 + g.toNat * 8388608 + d.toNat * 16384 + a.toNat * 128) :
    decodeWord w = some (.fneg g d a) := by
  have := g.isLt
  have := d.isLt
  have := a.isLt
  rw [major_0E w (by omega)]
  unfold dec0E
  rw [show w / 2097152 % 4 = 3 by omega]
  refine (onlyIf_true ?_).trans ?_
  · simp only [show w % 128 = 0 by omega]
    rfl
  rw [field_eq g w 23 (by omega), field_eq d w 14 (by omega), field_eq a w 7 (by omega)]

theorem faddF16x2 (g : BitVec 3) (d : BitVec 7) (a : BitVec 7) (b : BitVec 7) (w : Nat) (hw : w = 1006632960 + g.toNat * 8388608 + d.toNat * 16384 + a.toNat * 128 + b.toNat) :
    decodeWord w = some (.faddF16x2 g d a b) := by
  have := g.isLt
  have := d.isLt
  have := a.isLt
  have := b.isLt
  rw [major_0F w (by omega)]
  unfold dec0F
  rw [show w / 2097152 % 4 = 0 by omega]
  show some _ = some _
  rw [field_eq g w 23 (by omega), field_eq d w 14 (by omega), field_eq a w 7 (by omega), field_eq b w 0 (by omega)]

theorem fsubF16x2 (g : BitVec 3) (d : BitVec 7) (a : BitVec 7) (b : BitVec 7) (w : Nat) (hw : w = 1008730112 + g.toNat * 8388608 + d.toNat * 16384 + a.toNat * 128 + b.toNat) :
    decodeWord w = some (.fsubF16x2 g d a b) := by
  have := g.isLt
  have := d.isLt
  have := a.isLt
  have := b.isLt
  rw [major_0F w (by omega)]
  unfold dec0F
  rw [show w / 2097152 % 4 = 1 by omega]
  show some _ = some _
  rw [field_eq g w 23 (by omega), field_eq d w 14 (by omega), field_eq a w 7 (by omega), field_eq b w 0 (by omega)]

theorem fmulF16x2 (g : BitVec 3) (d : BitVec 7) (a : BitVec 7) (b : BitVec 7) (w : Nat) (hw : w = 1010827264 + g.toNat * 8388608 + d.toNat * 16384 + a.toNat * 128 + b.toNat) :
    decodeWord w = some (.fmulF16x2 g d a b) := by
  have := g.isLt
  have := d.isLt
  have := a.isLt
  have := b.isLt
  rw [major_0F w (by omega)]
  unfold dec0F
  rw [show w / 2097152 % 4 = 2 by omega]
  show some _ = some _
  rw [field_eq g w 23 (by omega), field_eq d w 14 (by omega), field_eq a w 7 (by omega), field_eq b w 0 (by omega)]

theorem ffmaF16x2 (g : BitVec 3) (d : BitVec 7) (a : BitVec 7) (b : BitVec 7) (w : Nat) (hw : w = 1012924416 + g.toNat * 8388608 + d.toNat * 16384 + a.toNat * 128 + b.toNat) :
    decodeWord w = some (.ffmaF16x2 g d a b) := by
  have := g.isLt
  have := d.isLt
  have := a.isLt
  have := b.isLt
  rw [major_0F w (by omega)]
  unfold dec0F
  rw [show w / 2097152 % 4 = 3 by omega]
  show some _ = some _
  rw [field_eq g w 23 (by omega), field_eq d w 14 (by omega), field_eq a w 7 (by omega), field_eq b w 0 (by omega)]

theorem faddBf16x2 (g : BitVec 3) (d : BitVec 7) (a : BitVec 7) (b : BitVec 7) (w : Nat) (hw : w = 1275068416 + g.toNat * 8388608 + d.toNat * 16384 + a.toNat * 128 + b.toNat) :
    decodeWord w = some (.faddBf16x2 g d a b) := by
  have := g.isLt
  have := d.isLt
  have := a.isLt
  have := b.isLt
  rw [major_13 w (by omega)]
  unfold dec13
  rw [show w / 2097152 % 4 = 0 by omega]
  show some _ = some _
  rw [field_eq g w 23 (by omega), field_eq d w 14 (by omega), field_eq a w 7 (by omega), field_eq b w 0 (by omega)]

theorem fsubBf16x2 (g : BitVec 3) (d : BitVec 7) (a : BitVec 7) (b : BitVec 7) (w : Nat) (hw : w = 1277165568 + g.toNat * 8388608 + d.toNat * 16384 + a.toNat * 128 + b.toNat) :
    decodeWord w = some (.fsubBf16x2 g d a b) := by
  have := g.isLt
  have := d.isLt
  have := a.isLt
  have := b.isLt
  rw [major_13 w (by omega)]
  unfold dec13
  rw [show w / 2097152 % 4 = 1 by omega]
  show some _ = some _
  rw [field_eq g w 23 (by omega), field_eq d w 14 (by omega), field_eq a w 7 (by omega), field_eq b w 0 (by omega)]

theorem fmulBf16x2 (g : BitVec 3) (d : BitVec 7) (a : BitVec 7) (b : BitVec 7) (w : Nat) (hw : w = 1279262720 + g.toNat * 8388608 + d.toNat * 16384 + a.toNat * 128 + b.toNat) :
    decodeWord w = some (.fmulBf16x2 g d a b) := by
  have := g.isLt
  have := d.isLt
  have := a.isLt
  have := b.isLt
  rw [major_13 w (by omega)]
  unfold dec13
  rw [show w / 2097152 % 4 = 2 by omega]
  show some _ = some _
  rw [field_eq g w 23 (by omega), field_eq d w 14 (by omega), field_eq a w 7 (by omega), field_eq b w 0 (by omega)]

theorem ffmaBf16x2 (g : BitVec 3) (d : BitVec 7) (a : BitVec 7) (b : BitVec 7) (w : Nat) (hw : w = 1281359872 + g.toNat * 8388608 + d.toNat * 16384 + a.toNat * 128 + b.toNat) :
    decodeWord w = some (.ffmaBf16x2 g d a b) := by
  have := g.isLt
  have := d.isLt
  have := a.isLt
  have := b.isLt
  rw [major_13 w (by omega)]
  unfold dec13
  rw [show w / 2097152 % 4 = 3 by omega]
  show some _ = some _
  rw [field_eq g w 23 (by omega), field_eq d w 14 (by omega), field_eq a w 7 (by omega), field_eq b w 0 (by omega)]

theorem fminF16x2 (g : BitVec 3) (d : BitVec 7) (a : BitVec 7) (b : BitVec 7) (w : Nat) (hw : w = 1342177280 + g.toNat * 8388608 + d.toNat * 16384 + a.toNat * 128 + b.toNat) :
    decodeWord w = some (.fminF16x2 g d a b) := by
  have := g.isLt
  have := d.isLt
  have := a.isLt
  have := b.isLt
  rw [major_14 w (by omega)]
  unfold dec14
  rw [show w / 2097152 % 4 = 0 by omega]
  show some _ = some _
  rw [field_eq g w 23 (by omega), field_eq d w 14 (by omega), field_eq a w 7 (by omega), field_eq b w 0 (by omega)]

theorem fmaxF16x2 (g : BitVec 3) (d : BitVec 7) (a : BitVec 7) (b : BitVec 7) (w : Nat) (hw : w = 1344274432 + g.toNat * 8388608 + d.toNat * 16384 + a.toNat * 128 + b.toNat) :
    decodeWord w = some (.fmaxF16x2 g d a b) := by
  have := g.isLt
  have := d.isLt
  have := a.isLt
  have := b.isLt
  rw [major_14 w (by omega)]
  unfold dec14
  rw [show w / 2097152 % 4 = 1 by omega]
  show some _ = some _
  rw [field_eq g w 23 (by omega), field_eq d w 14 (by omega), field_eq a w 7 (by omega), field_eq b w 0 (by omega)]

theorem fminBf16x2 (g : BitVec 3) (d : BitVec 7) (a : BitVec 7) (b : BitVec 7) (w : Nat) (hw : w = 1346371584 + g.toNat * 8388608 + d.toNat * 16384 + a.toNat * 128 + b.toNat) :
    decodeWord w = some (.fminBf16x2 g d a b) := by
  have := g.isLt
  have := d.isLt
  have := a.isLt
  have := b.isLt
  rw [major_14 w (by omega)]
  unfold dec14
  rw [show w / 2097152 % 4 = 2 by omega]
  show some _ = some _
  rw [field_eq g w 23 (by omega), field_eq d w 14 (by omega), field_eq a w 7 (by omega), field_eq b w 0 (by omega)]

theorem fmaxBf16x2 (g : BitVec 3) (d : BitVec 7) (a : BitVec 7) (b : BitVec 7) (w : Nat) (hw : w = 1348468736 + g.toNat * 8388608 + d.toNat * 16384 + a.toNat * 128 + b.toNat) :
    decodeWord w = some (.fmaxBf16x2 g d a b) := by
  have := g.isLt
  have := d.isLt
  have := a.isLt
  have := b.isLt
  rw [major_14 w (by omega)]
  unfold dec14
  rw [show w / 2097152 % 4 = 3 by omega]
  show some _ = some _
  rw [field_eq g w 23 (by omega), field_eq d w 14 (by omega), field_eq a w 7 (by omega), field_eq b w 0 (by omega)]

theorem rcp (g : BitVec 3) (d : BitVec 7) (a : BitVec 7) (w : Nat) (hw : w = 1409286144 + g.toNat * 8388608 + d.toNat * 16384 + a.toNat * 128) :
    decodeWord w = some (.rcp g d a) := by
  have := g.isLt
  have := d.isLt
  have := a.isLt
  rw [major_15 w (by omega)]
  unfold dec15
  rw [show w / 2097152 % 4 = 0 by omega]
  refine (onlyIf_true ?_).trans ?_
  · simp only [show w % 128 = 0 by omega]
    rfl
  rw [field_eq g w 23 (by omega), field_eq d w 14 (by omega), field_eq a w 7 (by omega)]

theorem rsq (g : BitVec 3) (d : BitVec 7) (a : BitVec 7) (w : Nat) (hw : w = 1411383296 + g.toNat * 8388608 + d.toNat * 16384 + a.toNat * 128) :
    decodeWord w = some (.rsq g d a) := by
  have := g.isLt
  have := d.isLt
  have := a.isLt
  rw [major_15 w (by omega)]
  unfold dec15
  rw [show w / 2097152 % 4 = 1 by omega]
  refine (onlyIf_true ?_).trans ?_
  · simp only [show w % 128 = 0 by omega]
    rfl
  rw [field_eq g w 23 (by omega), field_eq d w 14 (by omega), field_eq a w 7 (by omega)]

theorem sqrt (g : BitVec 3) (d : BitVec 7) (a : BitVec 7) (w : Nat) (hw : w = 1413480448 + g.toNat * 8388608 + d.toNat * 16384 + a.toNat * 128) :
    decodeWord w = some (.sqrt g d a) := by
  have := g.isLt
  have := d.isLt
  have := a.isLt
  rw [major_15 w (by omega)]
  unfold dec15
  rw [show w / 2097152 % 4 = 2 by omega]
  refine (onlyIf_true ?_).trans ?_
  · simp only [show w % 128 = 0 by omega]
    rfl
  rw [field_eq g w 23 (by omega), field_eq d w 14 (by omega), field_eq a w 7 (by omega)]

theorem exp2 (g : BitVec 3) (d : BitVec 7) (a : BitVec 7) (w : Nat) (hw : w = 1415577600 + g.toNat * 8388608 + d.toNat * 16384 + a.toNat * 128) :
    decodeWord w = some (.exp2 g d a) := by
  have := g.isLt
  have := d.isLt
  have := a.isLt
  rw [major_15 w (by omega)]
  unfold dec15
  rw [show w / 2097152 % 4 = 3 by omega]
  refine (onlyIf_true ?_).trans ?_
  · simp only [show w % 128 = 0 by omega]
    rfl
  rw [field_eq g w 23 (by omega), field_eq d w 14 (by omega), field_eq a w 7 (by omega)]

theorem log2 (g : BitVec 3) (d : BitVec 7) (a : BitVec 7) (w : Nat) (hw : w = 1476395008 + g.toNat * 8388608 + d.toNat * 16384 + a.toNat * 128) :
    decodeWord w = some (.log2 g d a) := by
  have := g.isLt
  have := d.isLt
  have := a.isLt
  rw [major_16 w (by omega)]
  unfold dec16
  rw [show w / 2097152 % 4 = 0 by omega]
  refine (onlyIf_true ?_).trans ?_
  · simp only [show w % 128 = 0 by omega]
    rfl
  rw [field_eq g w 23 (by omega), field_eq d w 14 (by omega), field_eq a w 7 (by omega)]

theorem sin (g : BitVec 3) (d : BitVec 7) (a : BitVec 7) (w : Nat) (hw : w = 1478492160 + g.toNat * 8388608 + d.toNat * 16384 + a.toNat * 128) :
    decodeWord w = some (.sin g d a) := by
  have := g.isLt
  have := d.isLt
  have := a.isLt
  rw [major_16 w (by omega)]
  unfold dec16
  rw [show w / 2097152 % 4 = 1 by omega]
  refine (onlyIf_true ?_).trans ?_
  · simp only [show w % 128 = 0 by omega]
    rfl
  rw [field_eq g w 23 (by omega), field_eq d w 14 (by omega), field_eq a w 7 (by omega)]

theorem cos (g : BitVec 3) (d : BitVec 7) (a : BitVec 7) (w : Nat) (hw : w = 1480589312 + g.toNat * 8388608 + d.toNat * 16384 + a.toNat * 128) :
    decodeWord w = some (.cos g d a) := by
  have := g.isLt
  have := d.isLt
  have := a.isLt
  rw [major_16 w (by omega)]
  unfold dec16
  rw [show w / 2097152 % 4 = 2 by omega]
  refine (onlyIf_true ?_).trans ?_
  · simp only [show w % 128 = 0 by omega]
    rfl
  rw [field_eq g w 23 (by omega), field_eq d w 14 (by omega), field_eq a w 7 (by omega)]

theorem frnd (g : BitVec 3) (d : BitVec 7) (a : BitVec 7) (w : Nat) (hw : w = 1482686464 + g.toNat * 8388608 + d.toNat * 16384 + a.toNat * 128) :
    decodeWord w = some (.frnd g d a) := by
  have := g.isLt
  have := d.isLt
  have := a.isLt
  rw [major_16 w (by omega)]
  unfold dec16
  rw [show w / 2097152 % 4 = 3 by omega]
  refine (onlyIf_true ?_).trans ?_
  · simp only [show w % 128 = 0 by omega]
    rfl
  rw [field_eq g w 23 (by omega), field_eq d w 14 (by omega), field_eq a w 7 (by omega)]

theorem rdflg (g : BitVec 3) (d : BitVec 7) (w : Nat) (hw : w = 1610612736 + g.toNat * 8388608 + d.toNat * 16384) :
    decodeWord w = some (.rdflg g d) := by
  have := g.isLt
  have := d.isLt
  rw [major_18 w (by omega)]
  unfold dec18
  rw [show w / 2097152 % 4 = 0 by omega]
  refine (onlyIf_true ?_).trans ?_
  · simp only [show w % 16384 = 0 by omega]
    rfl
  rw [field_eq g w 23 (by omega), field_eq d w 14 (by omega)]

theorem clrflg (g : BitVec 3) (a : BitVec 7) (w : Nat) (hw : w = 1612709888 + g.toNat * 8388608 + a.toNat * 128) :
    decodeWord w = some (.clrflg g a) := by
  have := g.isLt
  have := a.isLt
  rw [major_18 w (by omega)]
  unfold dec18
  rw [show w / 2097152 % 4 = 1 by omega]
  refine (onlyIf_true ?_).trans ?_
  · simp only [show w % 128 = 0 by omega, show w / 16384 % 128 = 0 by omega]
    rfl
  rw [field_eq g w 23 (by omega), field_eq a w 7 (by omega)]

theorem fdot2F16 (g : BitVec 3) (d : BitVec 7) (a : BitVec 7) (b : BitVec 7) (w : Nat) (hw : w = 1614807040 + g.toNat * 8388608 + d.toNat * 16384 + a.toNat * 128 + b.toNat) :
    decodeWord w = some (.fdot2F16 g d a b) := by
  have := g.isLt
  have := d.isLt
  have := a.isLt
  have := b.isLt
  rw [major_18 w (by omega)]
  unfold dec18
  rw [show w / 2097152 % 4 = 2 by omega]
  show some _ = some _
  rw [field_eq g w 23 (by omega), field_eq d w 14 (by omega), field_eq a w 7 (by omega), field_eq b w 0 (by omega)]

theorem fdot2Bf16 (g : BitVec 3) (d : BitVec 7) (a : BitVec 7) (b : BitVec 7) (w : Nat) (hw : w = 1616904192 + g.toNat * 8388608 + d.toNat * 16384 + a.toNat * 128 + b.toNat) :
    decodeWord w = some (.fdot2Bf16 g d a b) := by
  have := g.isLt
  have := d.isLt
  have := a.isLt
  have := b.isLt
  rw [major_18 w (by omega)]
  unfold dec18
  rw [show w / 2097152 % 4 = 3 by omega]
  show some _ = some _
  rw [field_eq g w 23 (by omega), field_eq d w 14 (by omega), field_eq a w 7 (by omega), field_eq b w 0 (by omega)]

theorem pand (g : BitVec 3) (d : BitVec 3) (a : BitVec 3) (b : BitVec 3) (w : Nat) (hw : w = 1677721600 + g.toNat * 8388608 + d.toNat * 16384 + a.toNat * 128 + b.toNat) :
    decodeWord w = some (.pand g d a b) := by
  have := g.isLt
  have := d.isLt
  have := a.isLt
  have := b.isLt
  rw [major_19 w (by omega)]
  unfold dec19
  rw [show w / 2097152 % 4 = 0 by omega]
  refine (onlyIf_true ?_).trans ?_
  · simp only [show w / 8 % 16 = 0 by omega, show w / 1024 % 16 = 0 by omega, show w / 131072 % 16 = 0 by omega]
    rfl
  rw [field_eq g w 23 (by omega), field_eq d w 14 (by omega), field_eq a w 7 (by omega), field_eq b w 0 (by omega)]

theorem por (g : BitVec 3) (d : BitVec 3) (a : BitVec 3) (b : BitVec 3) (w : Nat) (hw : w = 1679818752 + g.toNat * 8388608 + d.toNat * 16384 + a.toNat * 128 + b.toNat) :
    decodeWord w = some (.por g d a b) := by
  have := g.isLt
  have := d.isLt
  have := a.isLt
  have := b.isLt
  rw [major_19 w (by omega)]
  unfold dec19
  rw [show w / 2097152 % 4 = 1 by omega]
  refine (onlyIf_true ?_).trans ?_
  · simp only [show w / 8 % 16 = 0 by omega, show w / 1024 % 16 = 0 by omega, show w / 131072 % 16 = 0 by omega]
    rfl
  rw [field_eq g w 23 (by omega), field_eq d w 14 (by omega), field_eq a w 7 (by omega), field_eq b w 0 (by omega)]

theorem pxor (g : BitVec 3) (d : BitVec 3) (a : BitVec 3) (b : BitVec 3) (w : Nat) (hw : w = 1681915904 + g.toNat * 8388608 + d.toNat * 16384 + a.toNat * 128 + b.toNat) :
    decodeWord w = some (.pxor g d a b) := by
  have := g.isLt
  have := d.isLt
  have := a.isLt
  have := b.isLt
  rw [major_19 w (by omega)]
  unfold dec19
  rw [show w / 2097152 % 4 = 2 by omega]
  refine (onlyIf_true ?_).trans ?_
  · simp only [show w / 8 % 16 = 0 by omega, show w / 1024 % 16 = 0 by omega, show w / 131072 % 16 = 0 by omega]
    rfl
  rw [field_eq g w 23 (by omega), field_eq d w 14 (by omega), field_eq a w 7 (by omega), field_eq b w 0 (by omega)]

theorem pnot (g : BitVec 3) (d : BitVec 3) (a : BitVec 3) (w : Nat) (hw : w = 1684013056 + g.toNat * 8388608 + d.toNat * 16384 + a.toNat * 128) :
    decodeWord w = some (.pnot g d a) := by
  have := g.isLt
  have := d.isLt
  have := a.isLt
  rw [major_19 w (by omega)]
  unfold dec19
  rw [show w / 2097152 % 4 = 3 by omega]
  refine (onlyIf_true ?_).trans ?_
  · simp only [show w % 128 = 0 by omega, show w / 1024 % 16 = 0 by omega, show w / 131072 % 16 = 0 by omega]
    rfl
  rw [field_eq g w 23 (by omega), field_eq d w 14 (by omega), field_eq a w 7 (by omega)]

theorem p2v (g : BitVec 3) (d : BitVec 7) (a : BitVec 3) (w : Nat) (hw : w = 1744830464 + g.toNat * 8388608 + d.toNat * 16384 + a.toNat * 128) :
    decodeWord w = some (.p2v g d a) := by
  have := g.isLt
  have := d.isLt
  have := a.isLt
  rw [major_1A w (by omega)]
  unfold dec1A
  rw [show w / 2097152 % 4 = 0 by omega]
  refine (onlyIf_true ?_).trans ?_
  · simp only [show w % 128 = 0 by omega, show w / 1024 % 16 = 0 by omega]
    rfl
  rw [field_eq g w 23 (by omega), field_eq d w 14 (by omega), field_eq a w 7 (by omega)]

theorem v2p (g : BitVec 3) (d : BitVec 3) (a : BitVec 7) (w : Nat) (hw : w = 1746927616 + g.toNat * 8388608 + d.toNat * 16384 + a.toNat * 128) :
    decodeWord w = some (.v2p g d a) := by
  have := g.isLt
  have := d.isLt
  have := a.isLt
  rw [major_1A w (by omega)]
  unfold dec1A
  rw [show w / 2097152 % 4 = 1 by omega]
  refine (onlyIf_true ?_).trans ?_
  · simp only [show w % 128 = 0 by omega, show w / 131072 % 16 = 0 by omega]
    rfl
  rw [field_eq g w 23 (by omega), field_eq d w 14 (by omega), field_eq a w 7 (by omega)]

theorem atomMinS (g : BitVec 3) (d : BitVec 7) (a : BitVec 7) (b : BitVec 7) (w : Nat) (hw : w = 1879048192 + g.toNat * 8388608 + d.toNat * 16384 + a.toNat * 128 + b.toNat) :
    decodeWord w = some (.atomMinS g d a b) := by
  have := g.isLt
  have := d.isLt
  have := a.isLt
  have := b.isLt
  rw [major_1C w (by omega)]
  unfold dec1C
  rw [show w / 2097152 % 4 = 0 by omega]
  show some _ = some _
  rw [field_eq g w 23 (by omega), field_eq d w 14 (by omega), field_eq a w 7 (by omega), field_eq b w 0 (by omega)]

theorem atomMinZ (g : BitVec 3) (d : BitVec 7) (a : BitVec 7) (b : BitVec 7) (w : Nat) (hw : w = 1881145344 + g.toNat * 8388608 + d.toNat * 16384 + a.toNat * 128 + b.toNat) :
    decodeWord w = some (.atomMinZ g d a b) := by
  have := g.isLt
  have := d.isLt
  have := a.isLt
  have := b.isLt
  rw [major_1C w (by omega)]
  unfold dec1C
  rw [show w / 2097152 % 4 = 1 by omega]
  show some _ = some _
  rw [field_eq g w 23 (by omega), field_eq d w 14 (by omega), field_eq a w 7 (by omega), field_eq b w 0 (by omega)]

theorem atomMaxS (g : BitVec 3) (d : BitVec 7) (a : BitVec 7) (b : BitVec 7) (w : Nat) (hw : w = 1883242496 + g.toNat * 8388608 + d.toNat * 16384 + a.toNat * 128 + b.toNat) :
    decodeWord w = some (.atomMaxS g d a b) := by
  have := g.isLt
  have := d.isLt
  have := a.isLt
  have := b.isLt
  rw [major_1C w (by omega)]
  unfold dec1C
  rw [show w / 2097152 % 4 = 2 by omega]
  show some _ = some _
  rw [field_eq g w 23 (by omega), field_eq d w 14 (by omega), field_eq a w 7 (by omega), field_eq b w 0 (by omega)]

theorem atomMaxZ (g : BitVec 3) (d : BitVec 7) (a : BitVec 7) (b : BitVec 7) (w : Nat) (hw : w = 1885339648 + g.toNat * 8388608 + d.toNat * 16384 + a.toNat * 128 + b.toNat) :
    decodeWord w = some (.atomMaxZ g d a b) := by
  have := g.isLt
  have := d.isLt
  have := a.isLt
  have := b.isLt
  rw [major_1C w (by omega)]
  unfold dec1C
  rw [show w / 2097152 % 4 = 3 by omega]
  show some _ = some _
  rw [field_eq g w 23 (by omega), field_eq d w 14 (by omega), field_eq a w 7 (by omega), field_eq b w 0 (by omega)]

theorem redAdd (g : BitVec 3) (a : BitVec 7) (b : BitVec 7) (w : Nat) (hw : w = 1946157056 + g.toNat * 8388608 + a.toNat * 128 + b.toNat) :
    decodeWord w = some (.redAdd g a b) := by
  have := g.isLt
  have := a.isLt
  have := b.isLt
  rw [major_1D w (by omega)]
  unfold dec1D
  rw [show w / 2097152 % 4 = 0 by omega]
  refine (onlyIf_true ?_).trans ?_
  · simp only [show w / 16384 % 128 = 0 by omega]
    rfl
  rw [field_eq g w 23 (by omega), field_eq a w 7 (by omega), field_eq b w 0 (by omega)]

theorem redAddB64 (g : BitVec 3) (a : BitVec 7) (b : BitVec 7) (w : Nat) (hw : w = 1948254208 + g.toNat * 8388608 + a.toNat * 128 + b.toNat) :
    decodeWord w = some (.redAddB64 g a b) := by
  have := g.isLt
  have := a.isLt
  have := b.isLt
  rw [major_1D w (by omega)]
  unfold dec1D
  rw [show w / 2097152 % 4 = 1 by omega]
  refine (onlyIf_true ?_).trans ?_
  · simp only [show w / 16384 % 128 = 0 by omega]
    rfl
  rw [field_eq g w 23 (by omega), field_eq a w 7 (by omega), field_eq b w 0 (by omega)]

theorem redFadd (g : BitVec 3) (a : BitVec 7) (b : BitVec 7) (w : Nat) (hw : w = 1950351360 + g.toNat * 8388608 + a.toNat * 128 + b.toNat) :
    decodeWord w = some (.redFadd g a b) := by
  have := g.isLt
  have := a.isLt
  have := b.isLt
  rw [major_1D w (by omega)]
  unfold dec1D
  rw [show w / 2097152 % 4 = 2 by omega]
  refine (onlyIf_true ?_).trans ?_
  · simp only [show w / 16384 % 128 = 0 by omega]
    rfl
  rw [field_eq g w 23 (by omega), field_eq a w 7 (by omega), field_eq b w 0 (by omega)]

theorem redFadd2c (g : BitVec 3) (a : BitVec 7) (b : BitVec 7) (w : Nat) (hw : w = 1952448512 + g.toNat * 8388608 + a.toNat * 128 + b.toNat) :
    decodeWord w = some (.redFadd2c g a b) := by
  have := g.isLt
  have := a.isLt
  have := b.isLt
  rw [major_1D w (by omega)]
  unfold dec1D
  rw [show w / 2097152 % 4 = 3 by omega]
  refine (onlyIf_true ?_).trans ?_
  · simp only [show w / 16384 % 128 = 0 by omega]
    rfl
  rw [field_eq g w 23 (by omega), field_eq a w 7 (by omega), field_eq b w 0 (by omega)]

theorem redMinS (g : BitVec 3) (a : BitVec 7) (b : BitVec 7) (w : Nat) (hw : w = 2013265920 + g.toNat * 8388608 + a.toNat * 128 + b.toNat) :
    decodeWord w = some (.redMinS g a b) := by
  have := g.isLt
  have := a.isLt
  have := b.isLt
  rw [major_1E w (by omega)]
  unfold dec1E
  rw [show w / 2097152 % 4 = 0 by omega]
  refine (onlyIf_true ?_).trans ?_
  · simp only [show w / 16384 % 128 = 0 by omega]
    rfl
  rw [field_eq g w 23 (by omega), field_eq a w 7 (by omega), field_eq b w 0 (by omega)]

theorem redMaxS (g : BitVec 3) (a : BitVec 7) (b : BitVec 7) (w : Nat) (hw : w = 2015363072 + g.toNat * 8388608 + a.toNat * 128 + b.toNat) :
    decodeWord w = some (.redMaxS g a b) := by
  have := g.isLt
  have := a.isLt
  have := b.isLt
  rw [major_1E w (by omega)]
  unfold dec1E
  rw [show w / 2097152 % 4 = 1 by omega]
  refine (onlyIf_true ?_).trans ?_
  · simp only [show w / 16384 % 128 = 0 by omega]
    rfl
  rw [field_eq g w 23 (by omega), field_eq a w 7 (by omega), field_eq b w 0 (by omega)]

theorem redAnd (g : BitVec 3) (a : BitVec 7) (b : BitVec 7) (w : Nat) (hw : w = 2017460224 + g.toNat * 8388608 + a.toNat * 128 + b.toNat) :
    decodeWord w = some (.redAnd g a b) := by
  have := g.isLt
  have := a.isLt
  have := b.isLt
  rw [major_1E w (by omega)]
  unfold dec1E
  rw [show w / 2097152 % 4 = 2 by omega]
  refine (onlyIf_true ?_).trans ?_
  · simp only [show w / 16384 % 128 = 0 by omega]
    rfl
  rw [field_eq g w 23 (by omega), field_eq a w 7 (by omega), field_eq b w 0 (by omega)]

theorem redOr (g : BitVec 3) (a : BitVec 7) (b : BitVec 7) (w : Nat) (hw : w = 2019557376 + g.toNat * 8388608 + a.toNat * 128 + b.toNat) :
    decodeWord w = some (.redOr g a b) := by
  have := g.isLt
  have := a.isLt
  have := b.isLt
  rw [major_1E w (by omega)]
  unfold dec1E
  rw [show w / 2097152 % 4 = 3 by omega]
  refine (onlyIf_true ?_).trans ?_
  · simp only [show w / 16384 % 128 = 0 by omega]
    rfl
  rw [field_eq g w 23 (by omega), field_eq a w 7 (by omega), field_eq b w 0 (by omega)]

theorem cpLaneB32 (g : BitVec 3) (d : BitVec 7) (a : BitVec 7) (s : BitVec 3) (r : BitVec 1) (q : BitVec 1) (w : Nat) (hw : w = 2080374784 + g.toNat * 8388608 + d.toNat * 16384 + a.toNat * 128 + s.toNat * 4 + r.toNat * 2 + q.toNat) :
    decodeWord w = some (.cpLaneB32 g d a s r q) := by
  have := g.isLt
  have := d.isLt
  have := a.isLt
  have := s.isLt
  have := r.isLt
  have := q.isLt
  rw [major_1F w (by omega)]
  unfold dec1F
  rw [show w / 2097152 % 4 = 0 by omega]
  refine (onlyIf_true ?_).trans ?_
  · simp only [show w / 32 % 4 = 0 by omega]
    rfl
  rw [field_eq g w 23 (by omega), field_eq d w 14 (by omega), field_eq a w 7 (by omega), field_eq s w 2 (by omega), field_eq r w 1 (by omega), field_eq q w 0 (by omega)]

theorem cpLaneB64 (g : BitVec 3) (d : BitVec 7) (a : BitVec 7) (s : BitVec 3) (r : BitVec 1) (q : BitVec 1) (w : Nat) (hw : w = 2082471936 + g.toNat * 8388608 + d.toNat * 16384 + a.toNat * 128 + s.toNat * 4 + r.toNat * 2 + q.toNat) :
    decodeWord w = some (.cpLaneB64 g d a s r q) := by
  have := g.isLt
  have := d.isLt
  have := a.isLt
  have := s.isLt
  have := r.isLt
  have := q.isLt
  rw [major_1F w (by omega)]
  unfold dec1F
  rw [show w / 2097152 % 4 = 1 by omega]
  refine (onlyIf_true ?_).trans ?_
  · simp only [show w / 32 % 4 = 0 by omega]
    rfl
  rw [field_eq g w 23 (by omega), field_eq d w 14 (by omega), field_eq a w 7 (by omega), field_eq s w 2 (by omega), field_eq r w 1 (by omega), field_eq q w 0 (by omega)]

theorem cpLaneB128 (g : BitVec 3) (d : BitVec 7) (a : BitVec 7) (s : BitVec 3) (r : BitVec 1) (q : BitVec 1) (w : Nat) (hw : w = 2084569088 + g.toNat * 8388608 + d.toNat * 16384 + a.toNat * 128 + s.toNat * 4 + r.toNat * 2 + q.toNat) :
    decodeWord w = some (.cpLaneB128 g d a s r q) := by
  have := g.isLt
  have := d.isLt
  have := a.isLt
  have := s.isLt
  have := r.isLt
  have := q.isLt
  rw [major_1F w (by omega)]
  unfold dec1F
  rw [show w / 2097152 % 4 = 2 by omega]
  refine (onlyIf_true ?_).trans ?_
  · simp only [show w / 32 % 4 = 0 by omega]
    rfl
  rw [field_eq g w 23 (by omega), field_eq d w 14 (by omega), field_eq a w 7 (by omega), field_eq s w 2 (by omega), field_eq r w 1 (by omega), field_eq q w 0 (by omega)]

theorem cpBin (g : BitVec 3) (d : BitVec 7) (a : BitVec 7) (b : BitVec 7) (w : Nat) (hw : w = 2086666240 + g.toNat * 8388608 + d.toNat * 16384 + a.toNat * 128 + b.toNat) :
    decodeWord w = some (.cpBin g d a b) := by
  have := g.isLt
  have := d.isLt
  have := a.isLt
  have := b.isLt
  rw [major_1F w (by omega)]
  unfold dec1F
  rw [show w / 2097152 % 4 = 3 by omega]
  show some _ = some _
  rw [field_eq g w 23 (by omega), field_eq d w 14 (by omega), field_eq a w 7 (by omega), field_eq b w 0 (by omega)]

theorem xlaneAt (g : BitVec 3) (d : BitVec 7) (a : BitVec 7) (b : BitVec 7) (w : Nat) (hw : w = 2415919104 + g.toNat * 8388608 + d.toNat * 16384 + a.toNat * 128 + b.toNat) :
    decodeWord w = some (.xlaneAt g d a b) := by
  have := g.isLt
  have := d.isLt
  have := a.isLt
  have := b.isLt
  rw [major_24 w (by omega)]
  unfold dec24
  rw [show w / 2097152 % 4 = 0 by omega]
  show some _ = some _
  rw [field_eq g w 23 (by omega), field_eq d w 14 (by omega), field_eq a w 7 (by omega), field_eq b w 0 (by omega)]

theorem xlaneBack (g : BitVec 3) (d : BitVec 7) (a : BitVec 7) (b : BitVec 7) (w : Nat) (hw : w = 2418016256 + g.toNat * 8388608 + d.toNat * 16384 + a.toNat * 128 + b.toNat) :
    decodeWord w = some (.xlaneBack g d a b) := by
  have := g.isLt
  have := d.isLt
  have := a.isLt
  have := b.isLt
  rw [major_24 w (by omega)]
  unfold dec24
  rw [show w / 2097152 % 4 = 1 by omega]
  show some _ = some _
  rw [field_eq g w 23 (by omega), field_eq d w 14 (by omega), field_eq a w 7 (by omega), field_eq b w 0 (by omega)]

theorem xlaneFwd (g : BitVec 3) (d : BitVec 7) (a : BitVec 7) (b : BitVec 7) (w : Nat) (hw : w = 2420113408 + g.toNat * 8388608 + d.toNat * 16384 + a.toNat * 128 + b.toNat) :
    decodeWord w = some (.xlaneFwd g d a b) := by
  have := g.isLt
  have := d.isLt
  have := a.isLt
  have := b.isLt
  rw [major_24 w (by omega)]
  unfold dec24
  rw [show w / 2097152 % 4 = 2 by omega]
  show some _ = some _
  rw [field_eq g w 23 (by omega), field_eq d w 14 (by omega), field_eq a w 7 (by omega), field_eq b w 0 (by omega)]

theorem xlaneFlip (g : BitVec 3) (d : BitVec 7) (a : BitVec 7) (b : BitVec 7) (w : Nat) (hw : w = 2422210560 + g.toNat * 8388608 + d.toNat * 16384 + a.toNat * 128 + b.toNat) :
    decodeWord w = some (.xlaneFlip g d a b) := by
  have := g.isLt
  have := d.isLt
  have := a.isLt
  have := b.isLt
  rw [major_24 w (by omega)]
  unfold dec24
  rw [show w / 2097152 % 4 = 3 by omega]
  show some _ = some _
  rw [field_eq g w 23 (by omega), field_eq d w 14 (by omega), field_eq a w 7 (by omega), field_eq b w 0 (by omega)]

theorem voteAll (g : BitVec 3) (d : BitVec 3) (a : BitVec 3) (w : Nat) (hw : w = 2483027968 + g.toNat * 8388608 + d.toNat * 16384 + a.toNat * 128) :
    decodeWord w = some (.voteAll g d a) := by
  have := g.isLt
  have := d.isLt
  have := a.isLt
  rw [major_25 w (by omega)]
  unfold dec25
  rw [show w / 2097152 % 4 = 0 by omega]
  refine (onlyIf_true ?_).trans ?_
  · simp only [show w % 128 = 0 by omega, show w / 1024 % 16 = 0 by omega, show w / 131072 % 16 = 0 by omega]
    rfl
  rw [field_eq g w 23 (by omega), field_eq d w 14 (by omega), field_eq a w 7 (by omega)]

theorem voteAny (g : BitVec 3) (d : BitVec 3) (a : BitVec 3) (w : Nat) (hw : w = 2485125120 + g.toNat * 8388608 + d.toNat * 16384 + a.toNat * 128) :
    decodeWord w = some (.voteAny g d a) := by
  have := g.isLt
  have := d.isLt
  have := a.isLt
  rw [major_25 w (by omega)]
  unfold dec25
  rw [show w / 2097152 % 4 = 1 by omega]
  refine (onlyIf_true ?_).trans ?_
  · simp only [show w % 128 = 0 by omega, show w / 1024 % 16 = 0 by omega, show w / 131072 % 16 = 0 by omega]
    rfl
  rw [field_eq g w 23 (by omega), field_eq d w 14 (by omega), field_eq a w 7 (by omega)]

theorem ballot (g : BitVec 3) (d : BitVec 7) (a : BitVec 3) (w : Nat) (hw : w = 2487222272 + g.toNat * 8388608 + d.toNat * 16384 + a.toNat * 128) :
    decodeWord w = some (.ballot g d a) := by
  have := g.isLt
  have := d.isLt
  have := a.isLt
  rw [major_25 w (by omega)]
  unfold dec25
  rw [show w / 2097152 % 4 = 2 by omega]
  refine (onlyIf_true ?_).trans ?_
  · simp only [show w % 128 = 0 by omega, show w / 1024 % 16 = 0 by omega]
    rfl
  rw [field_eq g w 23 (by omega), field_eq d w 14 (by omega), field_eq a w 7 (by omega)]

theorem matchV (g : BitVec 3) (d : BitVec 7) (a : BitVec 7) (w : Nat) (hw : w = 2489319424 + g.toNat * 8388608 + d.toNat * 16384 + a.toNat * 128) :
    decodeWord w = some (.matchV g d a) := by
  have := g.isLt
  have := d.isLt
  have := a.isLt
  rw [major_25 w (by omega)]
  unfold dec25
  rw [show w / 2097152 % 4 = 3 by omega]
  refine (onlyIf_true ?_).trans ?_
  · simp only [show w % 128 = 0 by omega]
    rfl
  rw [field_eq g w 23 (by omega), field_eq d w 14 (by omega), field_eq a w 7 (by omega)]

theorem gredAdd (g : BitVec 3) (d : BitVec 7) (a : BitVec 7) (w : Nat) (hw : w = 2550136832 + g.toNat * 8388608 + d.toNat * 16384 + a.toNat * 128) :
    decodeWord w = some (.gredAdd g d a) := by
  have := g.isLt
  have := d.isLt
  have := a.isLt
  rw [major_26 w (by omega)]
  unfold dec26
  rw [show w / 2097152 % 4 = 0 by omega]
  refine (onlyIf_true ?_).trans ?_
  · simp only [show w % 128 = 0 by omega]
    rfl
  rw [field_eq g w 23 (by omega), field_eq d w 14 (by omega), field_eq a w 7 (by omega)]

theorem gredMinS (g : BitVec 3) (d : BitVec 7) (a : BitVec 7) (w : Nat) (hw : w = 2552233984 + g.toNat * 8388608 + d.toNat * 16384 + a.toNat * 128) :
    decodeWord w = some (.gredMinS g d a) := by
  have := g.isLt
  have := d.isLt
  have := a.isLt
  rw [major_26 w (by omega)]
  unfold dec26
  rw [show w / 2097152 % 4 = 1 by omega]
  refine (onlyIf_true ?_).trans ?_
  · simp only [show w % 128 = 0 by omega]
    rfl
  rw [field_eq g w 23 (by omega), field_eq d w 14 (by omega), field_eq a w 7 (by omega)]

theorem gredMinZ (g : BitVec 3) (d : BitVec 7) (a : BitVec 7) (w : Nat) (hw : w = 2554331136 + g.toNat * 8388608 + d.toNat * 16384 + a.toNat * 128) :
    decodeWord w = some (.gredMinZ g d a) := by
  have := g.isLt
  have := d.isLt
  have := a.isLt
  rw [major_26 w (by omega)]
  unfold dec26
  rw [show w / 2097152 % 4 = 2 by omega]
  refine (onlyIf_true ?_).trans ?_
  · simp only [show w % 128 = 0 by omega]
    rfl
  rw [field_eq g w 23 (by omega), field_eq d w 14 (by omega), field_eq a w 7 (by omega)]

theorem gredMaxS (g : BitVec 3) (d : BitVec 7) (a : BitVec 7) (w : Nat) (hw : w = 2556428288 + g.toNat * 8388608 + d.toNat * 16384 + a.toNat * 128) :
    decodeWord w = some (.gredMaxS g d a) := by
  have := g.isLt
  have := d.isLt
  have := a.isLt
  rw [major_26 w (by omega)]
  unfold dec26
  rw [show w / 2097152 % 4 = 3 by omega]
  refine (onlyIf_true ?_).trans ?_
  · simp only [show w % 128 = 0 by omega]
    rfl
  rw [field_eq g w 23 (by omega), field_eq d w 14 (by omega), field_eq a w 7 (by omega)]

theorem gredMaxZ (g : BitVec 3) (d : BitVec 7) (a : BitVec 7) (w : Nat) (hw : w = 2617245696 + g.toNat * 8388608 + d.toNat * 16384 + a.toNat * 128) :
    decodeWord w = some (.gredMaxZ g d a) := by
  have := g.isLt
  have := d.isLt
  have := a.isLt
  rw [major_27 w (by omega)]
  unfold dec27
  rw [show w / 2097152 % 4 = 0 by omega]
  refine (onlyIf_true ?_).trans ?_
  · simp only [show w % 128 = 0 by omega]
    rfl
  rw [field_eq g w 23 (by omega), field_eq d w 14 (by omega), field_eq a w 7 (by omega)]

theorem gredFadd (g : BitVec 3) (d : BitVec 7) (a : BitVec 7) (w : Nat) (hw : w = 2619342848 + g.toNat * 8388608 + d.toNat * 16384 + a.toNat * 128) :
    decodeWord w = some (.gredFadd g d a) := by
  have := g.isLt
  have := d.isLt
  have := a.isLt
  rw [major_27 w (by omega)]
  unfold dec27
  rw [show w / 2097152 % 4 = 1 by omega]
  refine (onlyIf_true ?_).trans ?_
  · simp only [show w % 128 = 0 by omega]
    rfl
  rw [field_eq g w 23 (by omega), field_eq d w 14 (by omega), field_eq a w 7 (by omega)]

theorem gscanAdd (g : BitVec 3) (d : BitVec 7) (a : BitVec 7) (w : Nat) (hw : w = 2621440000 + g.toNat * 8388608 + d.toNat * 16384 + a.toNat * 128) :
    decodeWord w = some (.gscanAdd g d a) := by
  have := g.isLt
  have := d.isLt
  have := a.isLt
  rw [major_27 w (by omega)]
  unfold dec27
  rw [show w / 2097152 % 4 = 2 by omega]
  refine (onlyIf_true ?_).trans ?_
  · simp only [show w % 128 = 0 by omega]
    rfl
  rw [field_eq g w 23 (by omega), field_eq d w 14 (by omega), field_eq a w 7 (by omega)]

theorem elect (g : BitVec 3) (d : BitVec 3) (w : Nat) (hw : w = 2623537152 + g.toNat * 8388608 + d.toNat * 16384) :
    decodeWord w = some (.elect g d) := by
  have := g.isLt
  have := d.isLt
  rw [major_27 w (by omega)]
  unfold dec27
  rw [show w / 2097152 % 4 = 3 by omega]
  refine (onlyIf_true ?_).trans ?_
  · simp only [show w % 16384 = 0 by omega, show w / 131072 % 16 = 0 by omega]
    rfl
  rw [field_eq g w 23 (by omega), field_eq d w 14 (by omega)]

theorem atomAdd (g : BitVec 3) (d : BitVec 7) (a : BitVec 7) (b : BitVec 7) (w : Nat) (hw : w = 3087007744 + g.toNat * 8388608 + d.toNat * 16384 + a.toNat * 128 + b.toNat) :
    decodeWord w = some (.atomAdd g d a b) := by
  have := g.isLt
  have := d.isLt
  have := a.isLt
  have := b.isLt
  rw [major_2E w (by omega)]
  unfold dec2E
  rw [show w / 2097152 % 4 = 0 by omega]
  show some _ = some _
  rw [field_eq g w 23 (by omega), field_eq d w 14 (by omega), field_eq a w 7 (by omega), field_eq b w 0 (by omega)]

theorem atomAddB64 (g : BitVec 3) (d : BitVec 7) (a : BitVec 7) (b : BitVec 7) (w : Nat) (hw : w = 3089104896 + g.toNat * 8388608 + d.toNat * 16384 + a.toNat * 128 + b.toNat) :
    decodeWord w = some (.atomAddB64 g d a b) := by
  have := g.isLt
  have := d.isLt
  have := a.isLt
  have := b.isLt
  rw [major_2E w (by omega)]
  unfold dec2E
  rw [show w / 2097152 % 4 = 1 by omega]
  show some _ = some _
  rw [field_eq g w 23 (by omega), field_eq d w 14 (by omega), field_eq a w 7 (by omega), field_eq b w 0 (by omega)]

theorem atomExch (g : BitVec 3) (d : BitVec 7) (a : BitVec 7) (b : BitVec 7) (w : Nat) (hw : w = 3091202048 + g.toNat * 8388608 + d.toNat * 16384 + a.toNat * 128 + b.toNat) :
    decodeWord w = some (.atomExch g d a b) := by
  have := g.isLt
  have := d.isLt
  have := a.isLt
  have := b.isLt
  rw [major_2E w (by omega)]
  unfold dec2E
  rw [show w / 2097152 % 4 = 2 by omega]
  show some _ = some _
  rw [field_eq g w 23 (by omega), field_eq d w 14 (by omega), field_eq a w 7 (by omega), field_eq b w 0 (by omega)]

theorem atomExchB64 (g : BitVec 3) (d : BitVec 7) (a : BitVec 7) (b : BitVec 7) (w : Nat) (hw : w = 3093299200 + g.toNat * 8388608 + d.toNat * 16384 + a.toNat * 128 + b.toNat) :
    decodeWord w = some (.atomExchB64 g d a b) := by
  have := g.isLt
  have := d.isLt
  have := a.isLt
  have := b.isLt
  rw [major_2E w (by omega)]
  unfold dec2E
  rw [show w / 2097152 % 4 = 3 by omega]
  show some _ = some _
  rw [field_eq g w 23 (by omega), field_eq d w 14 (by omega), field_eq a w 7 (by omega), field_eq b w 0 (by omega)]

theorem atomCas (g : BitVec 3) (d : BitVec 7) (a : BitVec 7) (b : BitVec 7) (w : Nat) (hw : w = 3154116608 + g.toNat * 8388608 + d.toNat * 16384 + a.toNat * 128 + b.toNat) :
    decodeWord w = some (.atomCas g d a b) := by
  have := g.isLt
  have := d.isLt
  have := a.isLt
  have := b.isLt
  rw [major_2F w (by omega)]
  unfold dec2F
  rw [show w / 2097152 % 4 = 0 by omega]
  show some _ = some _
  rw [field_eq g w 23 (by omega), field_eq d w 14 (by omega), field_eq a w 7 (by omega), field_eq b w 0 (by omega)]

theorem atomCasB64 (g : BitVec 3) (d : BitVec 7) (a : BitVec 7) (b : BitVec 7) (w : Nat) (hw : w = 3156213760 + g.toNat * 8388608 + d.toNat * 16384 + a.toNat * 128 + b.toNat) :
    decodeWord w = some (.atomCasB64 g d a b) := by
  have := g.isLt
  have := d.isLt
  have := a.isLt
  have := b.isLt
  rw [major_2F w (by omega)]
  unfold dec2F
  rw [show w / 2097152 % 4 = 1 by omega]
  show some _ = some _
  rw [field_eq g w 23 (by omega), field_eq d w 14 (by omega), field_eq a w 7 (by omega), field_eq b w 0 (by omega)]

theorem atomFadd (g : BitVec 3) (d : BitVec 7) (a : BitVec 7) (b : BitVec 7) (w : Nat) (hw : w = 3158310912 + g.toNat * 8388608 + d.toNat * 16384 + a.toNat * 128 + b.toNat) :
    decodeWord w = some (.atomFadd g d a b) := by
  have := g.isLt
  have := d.isLt
  have := a.isLt
  have := b.isLt
  rw [major_2F w (by omega)]
  unfold dec2F
  rw [show w / 2097152 % 4 = 2 by omega]
  show some _ = some _
  rw [field_eq g w 23 (by omega), field_eq d w 14 (by omega), field_eq a w 7 (by omega), field_eq b w 0 (by omega)]

theorem atomFadd2c (g : BitVec 3) (d : BitVec 7) (a : BitVec 7) (b : BitVec 7) (w : Nat) (hw : w = 3160408064 + g.toNat * 8388608 + d.toNat * 16384 + a.toNat * 128 + b.toNat) :
    decodeWord w = some (.atomFadd2c g d a b) := by
  have := g.isLt
  have := d.isLt
  have := a.isLt
  have := b.isLt
  rw [major_2F w (by omega)]
  unfold dec2F
  rw [show w / 2097152 % 4 = 3 by omega]
  show some _ = some _
  rw [field_eq g w 23 (by omega), field_eq d w 14 (by omega), field_eq a w 7 (by omega), field_eq b w 0 (by omega)]

theorem llock (g : BitVec 3) (d : BitVec 3) (a : BitVec 7) (c : BitVec 2) (w : Nat) (hw : w = 3758096384 + g.toNat * 8388608 + d.toNat * 16384 + a.toNat * 128 + c.toNat) :
    decodeWord w = some (.llock g d a c) := by
  have := g.isLt
  have := d.isLt
  have := a.isLt
  have := c.isLt
  rw [major_38 w (by omega)]
  unfold dec38
  rw [show w / 2097152 % 4 = 0 by omega]
  refine (onlyIf_true ?_).trans ?_
  · simp only [show w / 4 % 32 = 0 by omega, show w / 131072 % 16 = 0 by omega]
    rfl
  rw [field_eq g w 23 (by omega), field_eq d w 14 (by omega), field_eq a w 7 (by omega), field_eq c w 0 (by omega)]

theorem lunlock (g : BitVec 3) (a : BitVec 7) (w : Nat) (hw : w = 3760193536 + g.toNat * 8388608 + a.toNat * 128) :
    decodeWord w = some (.lunlock g a) := by
  have := g.isLt
  have := a.isLt
  rw [major_38 w (by omega)]
  unfold dec38
  rw [show w / 2097152 % 4 = 1 by omega]
  refine (onlyIf_true ?_).trans ?_
  · simp only [show w % 128 = 0 by omega, show w / 16384 % 128 = 0 by omega]
    rfl
  rw [field_eq g w 23 (by omega), field_eq a w 7 (by omega)]

theorem ltry (g : BitVec 3) (d : BitVec 3) (a : BitVec 7) (w : Nat) (hw : w = 3762290688 + g.toNat * 8388608 + d.toNat * 16384 + a.toNat * 128) :
    decodeWord w = some (.ltry g d a) := by
  have := g.isLt
  have := d.isLt
  have := a.isLt
  rw [major_38 w (by omega)]
  unfold dec38
  rw [show w / 2097152 % 4 = 2 by omega]
  refine (onlyIf_true ?_).trans ?_
  · simp only [show w % 128 = 0 by omega, show w / 131072 % 16 = 0 by omega]
    rfl
  rw [field_eq g w 23 (by omega), field_eq d w 14 (by omega), field_eq a w 7 (by omega)]

theorem lstat (g : BitVec 3) (d : BitVec 7) (a : BitVec 7) (w : Nat) (hw : w = 3764387840 + g.toNat * 8388608 + d.toNat * 16384 + a.toNat * 128) :
    decodeWord w = some (.lstat g d a) := by
  have := g.isLt
  have := d.isLt
  have := a.isLt
  rw [major_38 w (by omega)]
  unfold dec38
  rw [show w / 2097152 % 4 = 3 by omega]
  refine (onlyIf_true ?_).trans ?_
  · simp only [show w % 128 = 0 by omega]
    rfl
  rw [field_eq g w 23 (by omega), field_eq d w 14 (by omega), field_eq a w 7 (by omega)]

theorem fst (g : BitVec 3) (s : BitVec 2) (ww : BitVec 5) (a : BitVec 7) (b : BitVec 7) (w : Nat) (hw : w = 4093640704 + g.toNat * 8388608 + s.toNat * 524288 + ww.toNat * 16384 + a.toNat * 128 + b.toNat) :
    decodeWord w = some (.fst g s ww a b) := by
  have := g.isLt
  have := s.isLt
  have := ww.isLt
  have := a.isLt
  have := b.isLt
  rw [major_3D w (by omega)]
  unfold dec3D
  rw [show w / 2097152 % 4 = 0 by omega]
  show some _ = some _
  rw [field_eq g w 23 (by omega), field_eq s w 19 (by omega), field_eq ww w 14 (by omega), field_eq a w 7 (by omega), field_eq b w 0 (by omega)]

theorem fld (g : BitVec 3) (d : BitVec 7) (a : BitVec 7) (s : BitVec 2) (p : BitVec 3) (w : Nat) (hw : w = 4095737856 + g.toNat * 8388608 + d.toNat * 16384 + a.toNat * 128 + s.toNat * 8 + p.toNat) :
    decodeWord w = some (.fld g d a s p) := by
  have := g.isLt
  have := d.isLt
  have := a.isLt
  have := s.isLt
  have := p.isLt
  rw [major_3D w (by omega)]
  unfold dec3D
  rw [show w / 2097152 % 4 = 1 by omega]
  refine (onlyIf_true ?_).trans ?_
  · simp only [show w / 32 % 4 = 0 by omega]
    rfl
  rw [field_eq g w 23 (by omega), field_eq d w 14 (by omega), field_eq a w 7 (by omega), field_eq s w 3 (by omega), field_eq p w 0 (by omega)]

theorem fatom (g : BitVec 3) (d : BitVec 7) (a : BitVec 7) (x : BitVec 4) (p : BitVec 3) (w : Nat) (hw : w = 4097835008 + g.toNat * 8388608 + d.toNat * 16384 + a.toNat * 128 + x.toNat * 8 + p.toNat) :
    decodeWord w = some (.fatom g d a x p) := by
  have := g.isLt
  have := d.isLt
  have := a.isLt
  have := x.isLt
  have := p.isLt
  rw [major_3D w (by omega)]
  unfold dec3D
  rw [show w / 2097152 % 4 = 2 by omega]
  show some _ = some _
  rw [field_eq g w 23 (by omega), field_eq d w 14 (by omega), field_eq a w 7 (by omega), field_eq x w 3 (by omega), field_eq p w 0 (by omega)]

theorem fwclose (g : BitVec 3) (s : BitVec 2) (ww : BitVec 5) (a : BitVec 7) (b : BitVec 7) (w : Nat) (hw : w = 4099932160 + g.toNat * 8388608 + s.toNat * 524288 + ww.toNat * 16384 + a.toNat * 128 + b.toNat) :
    decodeWord w = some (.fwclose g s ww a b) := by
  have := g.isLt
  have := s.isLt
  have := ww.isLt
  have := a.isLt
  have := b.isLt
  rw [major_3D w (by omega)]
  unfold dec3D
  rw [show w / 2097152 % 4 = 3 by omega]
  show some _ = some _
  rw [field_eq g w 23 (by omega), field_eq s w 19 (by omega), field_eq ww w 14 (by omega), field_eq a w 7 (by omega), field_eq b w 0 (by omega)]

theorem addi (g : BitVec 3) (d : BitVec 7) (a : BitVec 7) (i : BitVec 9) (w : Nat) (hw : w = 1073741824 + g.toNat * 8388608 + d.toNat * 65536 + a.toNat * 512 + i.toNat) :
    decodeWord w = some (.addi g d a i) := by
  have := g.isLt
  have := d.isLt
  have := a.isLt
  have := i.isLt
  rw [major_10 w (by omega)]
  unfold dec10
  show some _ = some _
  rw [field_eq g w 23 (by omega), field_eq d w 16 (by omega), field_eq a w 9 (by omega), field_eq i w 0 (by omega)]

theorem addiB64 (g : BitVec 3) (d : BitVec 7) (a : BitVec 7) (i : BitVec 9) (w : Nat) (hw : w = 1140850688 + g.toNat * 8388608 + d.toNat * 65536 + a.toNat * 512 + i.toNat) :
    decodeWord w = some (.addiB64 g d a i) := by
  have := g.isLt
  have := d.isLt
  have := a.isLt
  have := i.isLt
  rw [major_11 w (by omega)]
  unfold dec11
  show some _ = some _
  rw [field_eq g w 23 (by omega), field_eq d w 16 (by omega), field_eq a w 9 (by omega), field_eq i w 0 (by omega)]

theorem movi (g : BitVec 3) (d : BitVec 7) (i : BitVec 16) (w : Nat) (hw : w = 1207959552 + g.toNat * 8388608 + d.toNat * 65536 + i.toNat) :
    decodeWord w = some (.movi g d i) := by
  have := g.isLt
  have := d.isLt
  have := i.isLt
  rw [major_12 w (by omega)]
  unfold dec12
  show some _ = some _
  rw [field_eq g w 23 (by omega), field_eq d w 16 (by omega), field_eq i w 0 (by omega)]

theorem cvt (g : BitVec 3) (d : BitVec 7) (a : BitVec 7) (x : BitVec 1) (y : BitVec 4) (z : BitVec 4) (w : Nat) (hw : w = 1543503872 + g.toNat * 8388608 + d.toNat * 65536 + a.toNat * 512 + x.toNat * 256 + y.toNat * 16 + z.toNat) :
    decodeWord w = some (.cvt g d a x y z) := by
  have := g.isLt
  have := d.isLt
  have := a.isLt
  have := x.isLt
  have := y.isLt
  have := z.isLt
  rw [major_17 w (by omega)]
  unfold dec17
  show some _ = some _
  rw [field_eq g w 23 (by omega), field_eq d w 16 (by omega), field_eq a w 9 (by omega), field_eq x w 8 (by omega), field_eq y w 4 (by omega), field_eq z w 0 (by omega)]

theorem bra (g : BitVec 3) (o : BitVec 23) (w : Nat) (hw : w = 2147483648 + g.toNat * 8388608 + o.toNat) :
    decodeWord w = some (.bra g o) := by
  have := g.isLt
  have := o.isLt
  rw [major_20 w (by omega)]
  unfold dec20
  show some _ = some _
  rw [field_eq g w 23 (by omega), field_eq o w 0 (by omega)]

theorem call (g : BitVec 3) (o : BitVec 23) (w : Nat) (hw : w = 2214592512 + g.toNat * 8388608 + o.toNat) :
    decodeWord w = some (.call g o) := by
  have := g.isLt
  have := o.isLt
  rw [major_21 w (by omega)]
  unfold dec21
  show some _ = some _
  rw [field_eq g w 23 (by omega), field_eq o w 0 (by omega)]

theorem jfence (g : BitVec 3) (o : BitVec 23) (w : Nat) (hw : w = 2348810240 + g.toNat * 8388608 + o.toNat) :
    decodeWord w = some (.jfence g o) := by
  have := g.isLt
  have := o.isLt
  rw [major_23 w (by omega)]
  unfold dec23
  show some _ = some _
  rw [field_eq g w 23 (by omega), field_eq o w 0 (by omega)]

theorem wait (g : BitVec 3) (l : BitVec 6) (s : BitVec 6) (c : BitVec 6) (t : BitVec 5) (w : Nat) (hw : w = 3892314112 + g.toNat * 8388608 + l.toNat * 131072 + s.toNat * 2048 + c.toNat * 32 + t.toNat) :
    decodeWord w = some (.wait g l s c t) := by
  have := g.isLt
  have := l.isLt
  have := s.isLt
  have := c.isLt
  have := t.isLt
  rw [major_3A w (by omega)]
  unfold dec3A
  show some _ = some _
  rw [field_eq g w 23 (by omega), field_eq l w 17 (by omega), field_eq s w 11 (by omega), field_eq c w 5 (by omega), field_eq t w 0 (by omega)]

theorem ld (g : BitVec 3) (d : BitVec 7) (a : BitVec 7) (z : BitVec 3) (y : BitVec 2) (o : BitVec 4) (w : Nat) (hw : w = 2684354560 + g.toNat * 8388608 + d.toNat * 65536 + a.toNat * 512 + z.toNat * 64 + y.toNat * 16 + o.toNat) :
    decodeWord w = some (.ld g d a z y o) := by
  have := g.isLt
  have := d.isLt
  have := a.isLt
  have := z.isLt
  have := y.isLt
  have := o.isLt
  rw [major_28 w (by omega)]
  unfold dec28
  show some _ = some _
  rw [field_eq g w 23 (by omega), field_eq d w 16 (by omega), field_eq a w 9 (by omega), field_eq z w 6 (by omega), field_eq y w 4 (by omega), field_eq o w 0 (by omega)]

theorem st (g : BitVec 3) (d : BitVec 7) (a : BitVec 7) (z : BitVec 3) (y : BitVec 2) (o : BitVec 4) (w : Nat) (hw : w = 2751463424 + g.toNat * 8388608 + d.toNat * 65536 + a.toNat * 512 + z.toNat * 64 + y.toNat * 16 + o.toNat) :
    decodeWord w = some (.st g d a z y o) := by
  have := g.isLt
  have := d.isLt
  have := a.isLt
  have := z.isLt
  have := y.isLt
  have := o.isLt
  rw [major_29 w (by omega)]
  unfold dec29
  show some _ = some _
  rw [field_eq g w 23 (by omega), field_eq d w 16 (by omega), field_eq a w 9 (by omega), field_eq z w 6 (by omega), field_eq y w 4 (by omega), field_eq o w 0 (by omega)]

theorem ldAcq (g : BitVec 3) (d : BitVec 7) (a : BitVec 7) (z : BitVec 1) (y : BitVec 2) (o : BitVec 4) (w : Nat) (hw : w = 2818572416 + g.toNat * 8388608 + d.toNat * 65536 + a.toNat * 512 + z.toNat * 64 + y.toNat * 16 + o.toNat) :
    decodeWord w = some (.ldAcq g d a z y o) := by
  have := g.isLt
  have := d.isLt
  have := a.isLt
  have := z.isLt
  have := y.isLt
  have := o.isLt
  rw [major_2A w (by omega)]
  unfold dec2A
  refine (onlyIf_true ?_).trans ?_
  · simp only [show w / 128 % 4 = 1 by omega]
    rfl
  rw [field_eq g w 23 (by omega), field_eq d w 16 (by omega), field_eq a w 9 (by omega), field_eq z w 6 (by omega), field_eq y w 4 (by omega), field_eq o w 0 (by omega)]

theorem stRel (g : BitVec 3) (d : BitVec 7) (a : BitVec 7) (z : BitVec 1) (y : BitVec 2) (o : BitVec 4) (w : Nat) (hw : w = 2885681280 + g.toNat * 8388608 + d.toNat * 65536 + a.toNat * 512 + z.toNat * 64 + y.toNat * 16 + o.toNat) :
    decodeWord w = some (.stRel g d a z y o) := by
  have := g.isLt
  have := d.isLt
  have := a.isLt
  have := z.isLt
  have := y.isLt
  have := o.isLt
  rw [major_2B w (by omega)]
  unfold dec2B
  refine (onlyIf_true ?_).trans ?_
  · simp only [show w / 128 % 4 = 1 by omega]
    rfl
  rw [field_eq g w 23 (by omega), field_eq d w 16 (by omega), field_eq a w 9 (by omega), field_eq z w 6 (by omega), field_eq y w 4 (by omega), field_eq o w 0 (by omega)]

theorem ldC (g : BitVec 3) (d : BitVec 7) (a : BitVec 7) (z : BitVec 3) (o : BitVec 4) (w : Nat) (hw : w = 2952790016 + g.toNat * 8388608 + d.toNat * 65536 + a.toNat * 512 + z.toNat * 64 + o.toNat) :
    decodeWord w = some (.ldC g d a z o) := by
  have := g.isLt
  have := d.isLt
  have := a.isLt
  have := z.isLt
  have := o.isLt
  rw [major_2C w (by omega)]
  unfold dec2C
  refine (onlyIf_true ?_).trans ?_
  · simp only [show w / 16 % 4 = 0 by omega]
    rfl
  rw [field_eq g w 23 (by omega), field_eq d w 16 (by omega), field_eq a w 9 (by omega), field_eq z w 6 (by omega), field_eq o w 0 (by omega)]

theorem pref (g : BitVec 3) (a : BitVec 7) (y : BitVec 2) (o : BitVec 4) (w : Nat) (hw : w = 3019898880 + g.toNat * 8388608 + a.toNat * 512 + y.toNat * 16 + o.toNat) :
    decodeWord w = some (.pref g a y o) := by
  have := g.isLt
  have := a.isLt
  have := y.isLt
  have := o.isLt
  rw [major_2D w (by omega)]
  unfold dec2D
  refine (onlyIf_true ?_).trans ?_
  · simp only [show w / 64 % 8 = 0 by omega, show w / 65536 % 128 = 0 by omega]
    rfl
  rw [field_eq g w 23 (by omega), field_eq a w 9 (by omega), field_eq y w 4 (by omega), field_eq o w 0 (by omega)]

theorem mmaF16 (g : BitVec 3) (n : BitVec 6) (m : BitVec 2) (c : BitVec 3) (a : BitVec 6) (b : BitVec 6) (w : Nat) (hw : w = 3221225472 + g.toNat * 8388608 + n.toNat * 131072 + m.toNat * 32768 + c.toNat * 4096 + a.toNat * 64 + b.toNat) :
    decodeWord w = some (.mmaF16 g n m c a b) := by
  have := g.isLt
  have := n.isLt
  have := m.isLt
  have := c.isLt
  have := a.isLt
  have := b.isLt
  rw [major_30 w (by omega)]
  unfold dec30
  show some _ = some _
  rw [field_eq g w 23 (by omega), field_eq n w 17 (by omega), field_eq m w 15 (by omega), field_eq c w 12 (by omega), field_eq a w 6 (by omega), field_eq b w 0 (by omega)]

theorem mmaBf16 (g : BitVec 3) (n : BitVec 6) (m : BitVec 2) (c : BitVec 3) (a : BitVec 6) (b : BitVec 6) (w : Nat) (hw : w = 3288334336 + g.toNat * 8388608 + n.toNat * 131072 + m.toNat * 32768 + c.toNat * 4096 + a.toNat * 64 + b.toNat) :
    decodeWord w = some (.mmaBf16 g n m c a b) := by
  have := g.isLt
  have := n.isLt
  have := m.isLt
  have := c.isLt
  have := a.isLt
  have := b.isLt
  rw [major_31 w (by omega)]
  unfold dec31
  show some _ = some _
  rw [field_eq g w 23 (by omega), field_eq n w 17 (by omega), field_eq m w 15 (by omega), field_eq c w 12 (by omega), field_eq a w 6 (by omega), field_eq b w 0 (by omega)]

theorem mmaE4m3 (g : BitVec 3) (n : BitVec 6) (m : BitVec 2) (c : BitVec 3) (a : BitVec 6) (b : BitVec 6) (w : Nat) (hw : w = 3355443200 + g.toNat * 8388608 + n.toNat * 131072 + m.toNat * 32768 + c.toNat * 4096 + a.toNat * 64 + b.toNat) :
    decodeWord w = some (.mmaE4m3 g n m c a b) := by
  have := g.isLt
  have := n.isLt
  have := m.isLt
  have := c.isLt
  have := a.isLt
  have := b.isLt
  rw [major_32 w (by omega)]
  unfold dec32
  show some _ = some _
  rw [field_eq g w 23 (by omega), field_eq n w 17 (by omega), field_eq m w 15 (by omega), field_eq c w 12 (by omega), field_eq a w 6 (by omega), field_eq b w 0 (by omega)]

theorem mmaE4m3e5m2 (g : BitVec 3) (n : BitVec 6) (m : BitVec 2) (c : BitVec 3) (a : BitVec 6) (b : BitVec 6) (w : Nat) (hw : w = 3422552064 + g.toNat * 8388608 + n.toNat * 131072 + m.toNat * 32768 + c.toNat * 4096 + a.toNat * 64 + b.toNat) :
    decodeWord w = some (.mmaE4m3e5m2 g n m c a b) := by
  have := g.isLt
  have := n.isLt
  have := m.isLt
  have := c.isLt
  have := a.isLt
  have := b.isLt
  rw [major_33 w (by omega)]
  unfold dec33
  show some _ = some _
  rw [field_eq g w 23 (by omega), field_eq n w 17 (by omega), field_eq m w 15 (by omega), field_eq c w 12 (by omega), field_eq a w 6 (by omega), field_eq b w 0 (by omega)]

theorem mmaE5m2 (g : BitVec 3) (n : BitVec 6) (m : BitVec 2) (c : BitVec 3) (a : BitVec 6) (b : BitVec 6) (w : Nat) (hw : w = 3489660928 + g.toNat * 8388608 + n.toNat * 131072 + m.toNat * 32768 + c.toNat * 4096 + a.toNat * 64 + b.toNat) :
    decodeWord w = some (.mmaE5m2 g n m c a b) := by
  have := g.isLt
  have := n.isLt
  have := m.isLt
  have := c.isLt
  have := a.isLt
  have := b.isLt
  rw [major_34 w (by omega)]
  unfold dec34
  show some _ = some _
  rw [field_eq g w 23 (by omega), field_eq n w 17 (by omega), field_eq m w 15 (by omega), field_eq c w 12 (by omega), field_eq a w 6 (by omega), field_eq b w 0 (by omega)]

theorem mmaS8 (g : BitVec 3) (n : BitVec 6) (m : BitVec 2) (c : BitVec 3) (a : BitVec 6) (b : BitVec 6) (w : Nat) (hw : w = 3556769792 + g.toNat * 8388608 + n.toNat * 131072 + m.toNat * 32768 + c.toNat * 4096 + a.toNat * 64 + b.toNat) :
    decodeWord w = some (.mmaS8 g n m c a b) := by
  have := g.isLt
  have := n.isLt
  have := m.isLt
  have := c.isLt
  have := a.isLt
  have := b.isLt
  rw [major_35 w (by omega)]
  unfold dec35
  show some _ = some _
  rw [field_eq g w 23 (by omega), field_eq n w 17 (by omega), field_eq m w 15 (by omega), field_eq c w 12 (by omega), field_eq a w 6 (by omega), field_eq b w 0 (by omega)]

theorem mmaE2m1 (g : BitVec 3) (n : BitVec 6) (m : BitVec 2) (c : BitVec 3) (a : BitVec 6) (b : BitVec 6) (w : Nat) (hw : w = 3623878656 + g.toNat * 8388608 + n.toNat * 131072 + m.toNat * 32768 + c.toNat * 4096 + a.toNat * 64 + b.toNat) :
    decodeWord w = some (.mmaE2m1 g n m c a b) := by
  have := g.isLt
  have := n.isLt
  have := m.isLt
  have := c.isLt
  have := a.isLt
  have := b.isLt
  rw [major_36 w (by omega)]
  unfold dec36
  show some _ = some _
  rw [field_eq g w 23 (by omega), field_eq n w 17 (by omega), field_eq m w 15 (by omega), field_eq c w 12 (by omega), field_eq a w 6 (by omega), field_eq b w 0 (by omega)]

theorem mmaBf16s4 (g : BitVec 3) (n : BitVec 6) (m : BitVec 2) (c : BitVec 3) (a : BitVec 6) (b : BitVec 6) (w : Nat) (hw : w = 3690987520 + g.toNat * 8388608 + n.toNat * 131072 + m.toNat * 32768 + c.toNat * 4096 + a.toNat * 64 + b.toNat) :
    decodeWord w = some (.mmaBf16s4 g n m c a b) := by
  have := g.isLt
  have := n.isLt
  have := m.isLt
  have := c.isLt
  have := a.isLt
  have := b.isLt
  rw [major_37 w (by omega)]
  unfold dec37
  show some _ = some _
  rw [field_eq g w 23 (by omega), field_eq n w 17 (by omega), field_eq m w 15 (by omega), field_eq c w 12 (by omega), field_eq a w 6 (by omega), field_eq b w 0 (by omega)]

theorem nop (g : BitVec 3) (w : Nat) (hw : w = 2281701376 + g.toNat * 8388608) :
    decodeWord w = some (.nop g) := by
  have := g.isLt
  rw [major_22 w (by omega)]
  unfold dec22
  rw [show w / 65536 % 128 = 0 by omega]
  refine (onlyIf_true ?_).trans ?_
  · simp only [show w % 65536 = 0 by omega]
    rfl
  rw [field_eq g w 23 (by omega)]

theorem jmp (g : BitVec 3) (a : BitVec 7) (w : Nat) (hw : w = 2281766912 + g.toNat * 8388608 + a.toNat * 4) :
    decodeWord w = some (.jmp g a) := by
  have := g.isLt
  have := a.isLt
  rw [major_22 w (by omega)]
  unfold dec22
  rw [show w / 65536 % 128 = 1 by omega]
  refine (onlyIf_true ?_).trans ?_
  · simp only [show w % 4 = 0 by omega, show w / 512 % 128 = 0 by omega]
    rfl
  rw [field_eq g w 23 (by omega), field_eq a w 2 (by omega)]

theorem calli (g : BitVec 3) (d : BitVec 7) (a : BitVec 7) (w : Nat) (hw : w = 2281832448 + g.toNat * 8388608 + d.toNat * 512 + a.toNat * 4) :
    decodeWord w = some (.calli g d a) := by
  have := g.isLt
  have := d.isLt
  have := a.isLt
  rw [major_22 w (by omega)]
  unfold dec22
  rw [show w / 65536 % 128 = 2 by omega]
  refine (onlyIf_true ?_).trans ?_
  · simp only [show w % 4 = 0 by omega]
    rfl
  rw [field_eq g w 23 (by omega), field_eq d w 9 (by omega), field_eq a w 2 (by omega)]

theorem ret (g : BitVec 3) (a : BitVec 7) (w : Nat) (hw : w = 2281897984 + g.toNat * 8388608 + a.toNat * 4) :
    decodeWord w = some (.ret g a) := by
  have := g.isLt
  have := a.isLt
  rw [major_22 w (by omega)]
  unfold dec22
  rw [show w / 65536 % 128 = 3 by omega]
  refine (onlyIf_true ?_).trans ?_
  · simp only [show w % 4 = 0 by omega, show w / 512 % 128 = 0 by omega]
    rfl
  rw [field_eq g w 23 (by omega), field_eq a w 2 (by omega)]

theorem exit (g : BitVec 3) (w : Nat) (hw : w = 2281963520 + g.toNat * 8388608) :
    decodeWord w = some (.exit g) := by
  have := g.isLt
  rw [major_22 w (by omega)]
  unfold dec22
  rw [show w / 65536 % 128 = 4 by omega]
  refine (onlyIf_true ?_).trans ?_
  · simp only [show w % 65536 = 0 by omega]
    rfl
  rw [field_eq g w 23 (by omega)]

theorem yield (g : BitVec 3) (w : Nat) (hw : w = 2282029056 + g.toNat * 8388608) :
    decodeWord w = some (.yield g) := by
  have := g.isLt
  rw [major_22 w (by omega)]
  unfold dec22
  rw [show w / 65536 % 128 = 5 by omega]
  refine (onlyIf_true ?_).trans ?_
  · simp only [show w % 65536 = 0 by omega]
    rfl
  rw [field_eq g w 23 (by omega)]

theorem brk (g : BitVec 3) (d : BitVec 7) (w : Nat) (hw : w = 2282094592 + g.toNat * 8388608 + d.toNat * 512) :
    decodeWord w = some (.brk g d) := by
  have := g.isLt
  have := d.isLt
  rw [major_22 w (by omega)]
  unfold dec22
  rw [show w / 65536 % 128 = 6 by omega]
  refine (onlyIf_true ?_).trans ?_
  · simp only [show w % 512 = 0 by omega]
    rfl
  rw [field_eq g w 23 (by omega), field_eq d w 9 (by omega)]

theorem wbase (g : BitVec 3) (m : BitVec 1) (v : BitVec 4) (w : Nat) (hw : w = 2282225664 + g.toNat * 8388608 + m.toNat * 8192 + v.toNat * 512) :
    decodeWord w = some (.wbase g m v) := by
  have := g.isLt
  have := m.isLt
  have := v.isLt
  rw [major_22 w (by omega)]
  unfold dec22
  rw [show w / 65536 % 128 = 8 by omega]
  refine (onlyIf_true ?_).trans ?_
  · simp only [show w % 512 = 0 by omega, show w / 16384 % 4 = 0 by omega]
    rfl
  rw [field_eq g w 23 (by omega), field_eq m w 13 (by omega), field_eq v w 9 (by omega)]

theorem regacq (g : BitVec 3) (n : BitVec 4) (w : Nat) (hw : w = 2282291200 + g.toNat * 8388608 + n.toNat * 4) :
    decodeWord w = some (.regacq g n) := by
  have := g.isLt
  have := n.isLt
  rw [major_22 w (by omega)]
  unfold dec22
  rw [show w / 65536 % 128 = 9 by omega]
  refine (onlyIf_true ?_).trans ?_
  · simp only [show w % 4 = 0 by omega, show w / 64 % 1024 = 0 by omega]
    rfl
  rw [field_eq g w 23 (by omega), field_eq n w 2 (by omega)]

theorem regacqTry (g : BitVec 3) (d : BitVec 3) (n : BitVec 4) (w : Nat) (hw : w = 2282356736 + g.toNat * 8388608 + d.toNat * 512 + n.toNat * 4) :
    decodeWord w = some (.regacqTry g d n) := by
  have := g.isLt
  have := d.isLt
  have := n.isLt
  rw [major_22 w (by omega)]
  unfold dec22
  rw [show w / 65536 % 128 = 10 by omega]
  refine (onlyIf_true ?_).trans ?_
  · simp only [show w % 4 = 0 by omega, show w / 64 % 8 = 0 by omega, show w / 4096 % 16 = 0 by omega]
    rfl
  rw [field_eq g w 23 (by omega), field_eq d w 9 (by omega), field_eq n w 2 (by omega)]

theorem regrel (g : BitVec 3) (n : BitVec 4) (w : Nat) (hw : w = 2282422272 + g.toNat * 8388608 + n.toNat * 4) :
    decodeWord w = some (.regrel g n) := by
  have := g.isLt
  have := n.isLt
  rw [major_22 w (by omega)]
  unfold dec22
  rw [show w / 65536 % 128 = 11 by omega]
  refine (onlyIf_true ?_).trans ?_
  · simp only [show w % 4 = 0 by omega, show w / 64 % 1024 = 0 by omega]
    rfl
  rw [field_eq g w 23 (by omega), field_eq n w 2 (by omega)]

theorem spawn (g : BitVec 3) (d : BitVec 7) (a : BitVec 7) (w : Nat) (hw : w = 2282749952 + g.toNat * 8388608 + d.toNat * 512 + a.toNat * 4) :
    decodeWord w = some (.spawn g d a) := by
  have := g.isLt
  have := d.isLt
  have := a.isLt
  rw [major_22 w (by omega)]
  unfold dec22
  rw [show w / 65536 % 128 = 16 by omega]
  refine (onlyIf_true ?_).trans ?_
  · simp only [show w % 4 = 0 by omega]
    rfl
  rw [field_eq g w 23 (by omega), field_eq d w 9 (by omega), field_eq a w 2 (by omega)]

theorem cfetch (g : BitVec 3) (s : BitVec 6) (a : BitVec 7) (w : Nat) (hw : w = 2283274240 + g.toNat * 8388608 + s.toNat * 512 + a.toNat * 4) :
    decodeWord w = some (.cfetch g s a) := by
  have := g.isLt
  have := s.isLt
  have := a.isLt
  rw [major_22 w (by omega)]
  unfold dec22
  rw [show w / 65536 % 128 = 24 by omega]
  refine (onlyIf_true ?_).trans ?_
  · simp only [show w % 4 = 0 by omega, show w / 32768 % 2 = 0 by omega]
    rfl
  rw [field_eq g w 23 (by omega), field_eq s w 9 (by omega), field_eq a w 2 (by omega)]

theorem fence (g : BitVec 3) (k : BitVec 2) (s : BitVec 3) (w : Nat) (hw : w = 3825205248 + g.toNat * 8388608 + k.toNat * 4096 + s.toNat * 512) :
    decodeWord w = some (.fence g k s) := by
  have := g.isLt
  have := k.isLt
  have := s.isLt
  rw [major_39 w (by omega)]
  unfold dec39
  rw [show w / 65536 % 128 = 0 by omega]
  refine (onlyIf_true ?_).trans ?_
  · simp only [show w % 512 = 0 by omega, show w / 16384 % 4 = 0 by omega]
    rfl
  rw [field_eq g w 23 (by omega), field_eq k w 12 (by omega), field_eq s w 9 (by omega)]

theorem barInit (g : BitVec 3) (b : BitVec 5) (a : BitVec 7) (w : Nat) (hw : w = 3825270784 + g.toNat * 8388608 + b.toNat * 512 + a.toNat * 4) :
    decodeWord w = some (.barInit g b a) := by
  have := g.isLt
  have := b.isLt
  have := a.isLt
  rw [major_39 w (by omega)]
  unfold dec39
  rw [show w / 65536 % 128 = 1 by omega]
  refine (onlyIf_true ?_).trans ?_
  · simp only [show w % 4 = 0 by omega, show w / 16384 % 4 = 0 by omega]
    rfl
  rw [field_eq g w 23 (by omega), field_eq b w 9 (by omega), field_eq a w 2 (by omega)]

theorem barExpect (g : BitVec 3) (b : BitVec 5) (a : BitVec 7) (w : Nat) (hw : w = 3825336320 + g.toNat * 8388608 + b.toNat * 512 + a.toNat * 4) :
    decodeWord w = some (.barExpect g b a) := by
  have := g.isLt
  have := b.isLt
  have := a.isLt
  rw [major_39 w (by omega)]
  unfold dec39
  rw [show w / 65536 % 128 = 2 by omega]
  refine (onlyIf_true ?_).trans ?_
  · simp only [show w % 4 = 0 by omega, show w / 16384 % 4 = 0 by omega]
    rfl
  rw [field_eq g w 23 (by omega), field_eq b w 9 (by omega), field_eq a w 2 (by omega)]

theorem barArrive (g : BitVec 3) (d : BitVec 7) (b : BitVec 5) (w : Nat) (hw : w = 3825401856 + g.toNat * 8388608 + d.toNat * 512 + b.toNat * 4) :
    decodeWord w = some (.barArrive g d b) := by
  have := g.isLt
  have := d.isLt
  have := b.isLt
  rw [major_39 w (by omega)]
  unfold dec39
  rw [show w / 65536 % 128 = 3 by omega]
  refine (onlyIf_true ?_).trans ?_
  · simp only [show w % 4 = 0 by omega, show w / 128 % 4 = 0 by omega]
    rfl
  rw [field_eq g w 23 (by omega), field_eq d w 9 (by omega), field_eq b w 2 (by omega)]

theorem barWait (g : BitVec 3) (b : BitVec 5) (a : BitVec 7) (w : Nat) (hw : w = 3825467392 + g.toNat * 8388608 + b.toNat * 512 + a.toNat * 4) :
    decodeWord w = some (.barWait g b a) := by
  have := g.isLt
  have := b.isLt
  have := a.isLt
  rw [major_39 w (by omega)]
  unfold dec39
  rw [show w / 65536 % 128 = 4 by omega]
  refine (onlyIf_true ?_).trans ?_
  · simp only [show w % 4 = 0 by omega, show w / 16384 % 4 = 0 by omega]
    rfl
  rw [field_eq g w 23 (by omega), field_eq b w 9 (by omega), field_eq a w 2 (by omega)]

theorem barSync (g : BitVec 3) (b : BitVec 5) (w : Nat) (hw : w = 3825532928 + g.toNat * 8388608 + b.toNat * 512) :
    decodeWord w = some (.barSync g b) := by
  have := g.isLt
  have := b.isLt
  rw [major_39 w (by omega)]
  unfold dec39
  rw [show w / 65536 % 128 = 5 by omega]
  refine (onlyIf_true ?_).trans ?_
  · simp only [show w % 512 = 0 by omega, show w / 16384 % 4 = 0 by omega]
    rfl
  rw [field_eq g w 23 (by omega), field_eq b w 9 (by omega)]

theorem barTest (g : BitVec 3) (p : BitVec 3) (b : BitVec 5) (w : Nat) (hw : w = 3825598464 + g.toNat * 8388608 + p.toNat * 512 + b.toNat * 4) :
    decodeWord w = some (.barTest g p b) := by
  have := g.isLt
  have := p.isLt
  have := b.isLt
  rw [major_39 w (by omega)]
  unfold dec39
  rw [show w / 65536 % 128 = 6 by omega]
  refine (onlyIf_true ?_).trans ?_
  · simp only [show w % 4 = 0 by omega, show w / 128 % 4 = 0 by omega, show w / 4096 % 16 = 0 by omega]
    rfl
  rw [field_eq g w 23 (by omega), field_eq p w 9 (by omega), field_eq b w 2 (by omega)]

theorem hbarArrive (g : BitVec 3) (d : BitVec 7) (s : BitVec 3) (i : BitVec 4) (w : Nat) (hw : w = 3825729536 + g.toNat * 8388608 + d.toNat * 512 + s.toNat * 64 + i.toNat * 4) :
    decodeWord w = some (.hbarArrive g d s i) := by
  have := g.isLt
  have := d.isLt
  have := s.isLt
  have := i.isLt
  rw [major_39 w (by omega)]
  unfold dec39
  rw [show w / 65536 % 128 = 8 by omega]
  refine (onlyIf_true ?_).trans ?_
  · simp only [show w % 4 = 0 by omega]
    rfl
  rw [field_eq g w 23 (by omega), field_eq d w 9 (by omega), field_eq s w 6 (by omega), field_eq i w 2 (by omega)]

theorem hbarWait (g : BitVec 3) (d : BitVec 7) (s : BitVec 3) (i : BitVec 4) (w : Nat) (hw : w = 3825795072 + g.toNat * 8388608 + d.toNat * 512 + s.toNat * 64 + i.toNat * 4) :
    decodeWord w = some (.hbarWait g d s i) := by
  have := g.isLt
  have := d.isLt
  have := s.isLt
  have := i.isLt
  rw [major_39 w (by omega)]
  unfold dec39
  rw [show w / 65536 % 128 = 9 by omega]
  refine (onlyIf_true ?_).trans ?_
  · simp only [show w % 4 = 0 by omega]
    rfl
  rw [field_eq g w 23 (by omega), field_eq d w 9 (by omega), field_eq s w 6 (by omega), field_eq i w 2 (by omega)]

theorem cpBulk (g : BitVec 3) (a : BitVec 5) (w : Nat) (hw : w = 3959422976 + g.toNat * 8388608 + a.toNat * 16) :
    decodeWord w = some (.cpBulk g a) := by
  have := g.isLt
  have := a.isLt
  rw [major_3B w (by omega)]
  unfold dec3B
  rw [show w / 65536 % 128 = 0 by omega]
  refine (onlyIf_true ?_).trans ?_
  · simp only [show w % 16 = 0 by omega, show w / 512 % 128 = 0 by omega]
    rfl
  rw [field_eq g w 23 (by omega), field_eq a w 4 (by omega)]

theorem cpMcast (g : BitVec 3) (d : BitVec 7) (a : BitVec 5) (w : Nat) (hw : w = 3959488512 + g.toNat * 8388608 + d.toNat * 512 + a.toNat * 16) :
    decodeWord w = some (.cpMcast g d a) := by
  have := g.isLt
  have := d.isLt
  have := a.isLt
  rw [major_3B w (by omega)]
  unfold dec3B
  rw [show w / 65536 % 128 = 1 by omega]
  refine (onlyIf_true ?_).trans ?_
  · simp only [show w % 16 = 0 by omega]
    rfl
  rw [field_eq g w 23 (by omega), field_eq d w 9 (by omega), field_eq a w 4 (by omega)]

theorem cpBind (g : BitVec 3) (b : BitVec 5) (w : Nat) (hw : w = 3959554052 + g.toNat * 8388608 + b.toNat * 512) :
    decodeWord w = some (.cpBind g b) := by
  have := g.isLt
  have := b.isLt
  rw [major_3B w (by omega)]
  unfold dec3B
  rw [show w / 65536 % 128 = 2 by omega]
  refine orElse_left ((onlyIf_true ?_).trans ?_)
  · simp only [show w % 512 = 4 by omega, show w / 16384 % 4 = 0 by omega]
    rfl
  rw [field_eq g w 23 (by omega), field_eq b w 9 (by omega)]

theorem cpBindNone (g : BitVec 3) (w : Nat) (hw : w = 3959554048 + g.toNat * 8388608) :
    decodeWord w = some (.cpBindNone g) := by
  have := g.isLt
  rw [major_3B w (by omega)]
  unfold dec3B
  rw [show w / 65536 % 128 = 2 by omega]
  refine orElse_right ?_ ((onlyIf_true ?_).trans ?_)
  · simp only [show w % 512 = 0 by omega]
    rfl
  · simp only [show w % 65536 = 0 by omega]
    rfl
  rw [field_eq g w 23 (by omega)]

theorem fwopen (g : BitVec 3) (d : BitVec 7) (p : BitVec 3) (w : Nat) (hw : w = 3960471552 + g.toNat * 8388608 + d.toNat * 512 + p.toNat * 4) :
    decodeWord w = some (.fwopen g d p) := by
  have := g.isLt
  have := d.isLt
  have := p.isLt
  rw [major_3B w (by omega)]
  unfold dec3B
  rw [show w / 65536 % 128 = 16 by omega]
  refine orElse_left ((onlyIf_true ?_).trans ?_)
  · simp only [show w % 4 = 0 by omega, show w / 32 % 16 = 0 by omega]
    rfl
  rw [field_eq g w 23 (by omega), field_eq d w 9 (by omega), field_eq p w 2 (by omega)]

theorem fwopenFree (g : BitVec 3) (d : BitVec 7) (w : Nat) (hw : w = 3960471584 + g.toNat * 8388608 + d.toNat * 512) :
    decodeWord w = some (.fwopenFree g d) := by
  have := g.isLt
  have := d.isLt
  rw [major_3B w (by omega)]
  unfold dec3B
  rw [show w / 65536 % 128 = 16 by omega]
  refine orElse_right ?_ ((onlyIf_true ?_).trans ?_)
  · simp only [show w / 32 % 16 = 1 by omega, show w % 4 = 0 by omega]
    rfl
  · simp only [show w % 512 = 32 by omega]
    rfl
  rw [field_eq g w 23 (by omega), field_eq d w 9 (by omega)]

theorem fwstat (g : BitVec 3) (d : BitVec 7) (ww : BitVec 5) (w : Nat) (hw : w = 3960537088 + g.toNat * 8388608 + d.toNat * 512 + ww.toNat * 4) :
    decodeWord w = some (.fwstat g d ww) := by
  have := g.isLt
  have := d.isLt
  have := ww.isLt
  rw [major_3B w (by omega)]
  unfold dec3B
  rw [show w / 65536 % 128 = 17 by omega]
  refine (onlyIf_true ?_).trans ?_
  · simp only [show w % 4 = 0 by omega, show w / 128 % 4 = 0 by omega]
    rfl
  rw [field_eq g w 23 (by omega), field_eq d w 9 (by omega), field_eq ww w 2 (by omega)]

theorem vdnq (g : BitVec 3) (d : BitVec 7) (a : BitVec 7) (w : Nat) (hw : w = 3960602624 + g.toNat * 8388608 + d.toNat * 512 + a.toNat * 4) :
    decodeWord w = some (.vdnq g d a) := by
  have := g.isLt
  have := d.isLt
  have := a.isLt
  rw [major_3B w (by omega)]
  unfold dec3B
  rw [show w / 65536 % 128 = 18 by omega]
  refine (onlyIf_true ?_).trans ?_
  · simp only [show w % 4 = 0 by omega]
    rfl
  rw [field_eq g w 23 (by omega), field_eq d w 9 (by omega), field_eq a w 2 (by omega)]

theorem ckpt (g : BitVec 3) (w : Nat) (hw : w = 3961520128 + g.toNat * 8388608) :
    decodeWord w = some (.ckpt g) := by
  have := g.isLt
  rw [major_3B w (by omega)]
  unfold dec3B
  rw [show w / 65536 % 128 = 32 by omega]
  refine (onlyIf_true ?_).trans ?_
  · simp only [show w % 65536 = 0 by omega]
    rfl
  rw [field_eq g w 23 (by omega)]

theorem ckstat (g : BitVec 3) (d : BitVec 7) (w : Nat) (hw : w = 3961585664 + g.toNat * 8388608 + d.toNat * 512) :
    decodeWord w = some (.ckstat g d) := by
  have := g.isLt
  have := d.isLt
  rw [major_3B w (by omega)]
  unfold dec3B
  rw [show w / 65536 % 128 = 33 by omega]
  refine (onlyIf_true ?_).trans ?_
  · simp only [show w % 512 = 0 by omega]
    rfl
  rw [field_eq g w 23 (by omega), field_eq d w 9 (by omega)]

theorem ckrole (g : BitVec 3) (d : BitVec 3) (w : Nat) (hw : w = 3961651200 + g.toNat * 8388608 + d.toNat * 512) :
    decodeWord w = some (.ckrole g d) := by
  have := g.isLt
  have := d.isLt
  rw [major_3B w (by omega)]
  unfold dec3B
  rw [show w / 65536 % 128 = 34 by omega]
  refine (onlyIf_true ?_).trans ?_
  · simp only [show w % 512 = 0 by omega, show w / 4096 % 16 = 0 by omega]
    rfl
  rw [field_eq g w 23 (by omega), field_eq d w 9 (by omega)]

theorem tclaim (g : BitVec 3) (d : BitVec 3) (a : BitVec 7) (w : Nat) (hw : w = 4026531840 + g.toNat * 8388608 + d.toNat * 512 + a.toNat * 4) :
    decodeWord w = some (.tclaim g d a) := by
  have := g.isLt
  have := d.isLt
  have := a.isLt
  rw [major_3C w (by omega)]
  unfold dec3C
  rw [show w / 65536 % 128 = 0 by omega]
  refine (onlyIf_true ?_).trans ?_
  · simp only [show w % 4 = 0 by omega, show w / 4096 % 16 = 0 by omega]
    rfl
  rw [field_eq g w 23 (by omega), field_eq d w 9 (by omega), field_eq a w 2 (by omega)]

theorem trel (g : BitVec 3) (a : BitVec 7) (w : Nat) (hw : w = 4026597376 + g.toNat * 8388608 + a.toNat * 4) :
    decodeWord w = some (.trel g a) := by
  have := g.isLt
  have := a.isLt
  rw [major_3C w (by omega)]
  unfold dec3C
  rw [show w / 65536 % 128 = 1 by omega]
  refine (onlyIf_true ?_).trans ?_
  · simp only [show w % 4 = 0 by omega, show w / 512 % 128 = 0 by omega]
    rfl
  rw [field_eq g w 23 (by omega), field_eq a w 2 (by omega)]

theorem tfill (g : BitVec 3) (s : BitVec 6) (a : BitVec 5) (w : Nat) (hw : w = 4026662912 + g.toNat * 8388608 + s.toNat * 512 + a.toNat * 16) :
    decodeWord w = some (.tfill g s a) := by
  have := g.isLt
  have := s.isLt
  have := a.isLt
  rw [major_3C w (by omega)]
  unfold dec3C
  rw [show w / 65536 % 128 = 2 by omega]
  refine (onlyIf_true ?_).trans ?_
  · simp only [show w % 16 = 0 by omega, show w / 32768 % 2 = 0 by omega]
    rfl
  rw [field_eq g w 23 (by omega), field_eq s w 9 (by omega), field_eq a w 4 (by omega)]

theorem tfillDq (g : BitVec 3) (s : BitVec 6) (a : BitVec 5) (w : Nat) (hw : w = 4026728448 + g.toNat * 8388608 + s.toNat * 512 + a.toNat * 16) :
    decodeWord w = some (.tfillDq g s a) := by
  have := g.isLt
  have := s.isLt
  have := a.isLt
  rw [major_3C w (by omega)]
  unfold dec3C
  rw [show w / 65536 % 128 = 3 by omega]
  refine (onlyIf_true ?_).trans ?_
  · simp only [show w % 16 = 0 by omega, show w / 32768 % 2 = 0 by omega]
    rfl
  rw [field_eq g w 23 (by omega), field_eq s w 9 (by omega), field_eq a w 4 (by omega)]

theorem azero (g : BitVec 3) (t : BitVec 3) (n : BitVec 3) (w : Nat) (hw : w = 4027056128 + g.toNat * 8388608 + t.toNat * 512 + n.toNat * 4) :
    decodeWord w = some (.azero g t n) := by
  have := g.isLt
  have := t.isLt
  have := n.isLt
  rw [major_3C w (by omega)]
  unfold dec3C
  rw [show w / 65536 % 128 = 8 by omega]
  refine (onlyIf_true ?_).trans ?_
  · simp only [show w % 4 = 0 by omega, show w / 32 % 16 = 0 by omega, show w / 4096 % 16 = 0 by omega]
    rfl
  rw [field_eq g w 23 (by omega), field_eq t w 9 (by omega), field_eq n w 2 (by omega)]

theorem aload (g : BitVec 3) (t : BitVec 3) (a : BitVec 7) (w : Nat) (hw : w = 4027121664 + g.toNat * 8388608 + t.toNat * 512 + a.toNat * 4) :
    decodeWord w = some (.aload g t a) := by
  have := g.isLt
  have := t.isLt
  have := a.isLt
  rw [major_3C w (by omega)]
  unfold dec3C
  rw [show w / 65536 % 128 = 9 by omega]
  refine (onlyIf_true ?_).trans ?_
  · simp only [show w % 4 = 0 by omega, show w / 4096 % 16 = 0 by omega]
    rfl
  rw [field_eq g w 23 (by omega), field_eq t w 9 (by omega), field_eq a w 2 (by omega)]

theorem tdrain (g : BitVec 3) (t : BitVec 3) (a : BitVec 5) (w : Nat) (hw : w = 4027187200 + g.toNat * 8388608 + t.toNat * 512 + a.toNat * 16) :
    decodeWord w = some (.tdrain g t a) := by
  have := g.isLt
  have := t.isLt
  have := a.isLt
  rw [major_3C w (by omega)]
  unfold dec3C
  rw [show w / 65536 % 128 = 10 by omega]
  refine (onlyIf_true ?_).trans ?_
  · simp only [show w % 16 = 0 by omega, show w / 4096 % 16 = 0 by omega]
    rfl
  rw [field_eq g w 23 (by omega), field_eq t w 9 (by omega), field_eq a w 4 (by omega)]

theorem tdrainAdd (g : BitVec 3) (t : BitVec 3) (a : BitVec 5) (w : Nat) (hw : w = 4027252736 + g.toNat * 8388608 + t.toNat * 512 + a.toNat * 16) :
    decodeWord w = some (.tdrainAdd g t a) := by
  have := g.isLt
  have := t.isLt
  have := a.isLt
  rw [major_3C w (by omega)]
  unfold dec3C
  rw [show w / 65536 % 128 = 11 by omega]
  refine (onlyIf_true ?_).trans ?_
  · simp only [show w % 16 = 0 by omega, show w / 4096 % 16 = 0 by omega]
    rfl
  rw [field_eq g w 23 (by omega), field_eq t w 9 (by omega), field_eq a w 4 (by omega)]

theorem gang (g : BitVec 3) (a : BitVec 7) (w : Nat) (hw : w = 4027580416 + g.toNat * 8388608 + a.toNat * 4) :
    decodeWord w = some (.gang g a) := by
  have := g.isLt
  have := a.isLt
  rw [major_3C w (by omega)]
  unfold dec3C
  rw [show w / 65536 % 128 = 16 by omega]
  refine (onlyIf_true ?_).trans ?_
  · simp only [show w % 4 = 0 by omega, show w / 512 % 128 = 0 by omega]
    rfl
  rw [field_eq g w 23 (by omega), field_eq a w 2 (by omega)]

theorem pcfg (g : BitVec 3) (a : BitVec 5) (w : Nat) (hw : w = 4027645952 + g.toNat * 8388608 + a.toNat * 16) :
    decodeWord w = some (.pcfg g a) := by
  have := g.isLt
  have := a.isLt
  rw [major_3C w (by omega)]
  unfold dec3C
  rw [show w / 65536 % 128 = 17 by omega]
  refine (onlyIf_true ?_).trans ?_
  · simp only [show w % 16 = 0 by omega, show w / 512 % 128 = 0 by omega]
    rfl
  rw [field_eq g w 23 (by omega), field_eq a w 4 (by omega)]

theorem mstat (g : BitVec 3) (d : BitVec 7) (x : BitVec 1) (s : BitVec 1) (w : Nat) (hw : w = 4027711488 + g.toNat * 8388608 + d.toNat * 512 + x.toNat * 8 + s.toNat * 4) :
    decodeWord w = some (.mstat g d x s) := by
  have := g.isLt
  have := d.isLt
  have := x.isLt
  have := s.isLt
  rw [major_3C w (by omega)]
  unfold dec3C
  rw [show w / 65536 % 128 = 18 by omega]
  refine (onlyIf_true ?_).trans ?_
  · simp only [show w % 4 = 0 by omega, show w / 16 % 32 = 0 by omega]
    rfl
  rw [field_eq g w 23 (by omega), field_eq d w 9 (by omega), field_eq x w 3 (by omega), field_eq s w 2 (by omega)]

theorem tret (g : BitVec 3) (w : Nat) (hw : w = 4160749568 + g.toNat * 8388608) :
    decodeWord w = some (.tret g) := by
  have := g.isLt
  rw [major_3E w (by omega)]
  unfold dec3E
  rw [show w / 65536 % 128 = 0 by omega]
  refine orElse_left ((onlyIf_true ?_).trans ?_)
  · simp only [show w % 65536 = 0 by omega]
    rfl
  rw [field_eq g w 23 (by omega)]

theorem tretAddr (g : BitVec 3) (a : BitVec 7) (w : Nat) (hw : w = 4160750080 + g.toNat * 8388608 + a.toNat * 4) :
    decodeWord w = some (.tretAddr g a) := by
  have := g.isLt
  have := a.isLt
  rw [major_3E w (by omega)]
  unfold dec3E
  rw [show w / 65536 % 128 = 0 by omega]
  refine orElse_right ?_ ((onlyIf_true ?_).trans ?_)
  · simp only [onlyIf, show (w % 65536 == 0) = false by simp; omega]
    rfl
  · simp only [show w % 4 = 0 by omega, show w / 512 % 128 = 1 by omega]
    rfl
  rw [field_eq g w 23 (by omega), field_eq a w 2 (by omega)]

theorem trd (g : BitVec 3) (d : BitVec 7) (s : BitVec 3) (w : Nat) (hw : w = 4160815104 + g.toNat * 8388608 + d.toNat * 512 + s.toNat * 4) :
    decodeWord w = some (.trd g d s) := by
  have := g.isLt
  have := d.isLt
  have := s.isLt
  rw [major_3E w (by omega)]
  unfold dec3E
  rw [show w / 65536 % 128 = 1 by omega]
  refine (onlyIf_true ?_).trans ?_
  · simp only [show w % 4 = 0 by omega, show w / 32 % 16 = 0 by omega]
    rfl
  rw [field_eq g w 23 (by omega), field_eq d w 9 (by omega), field_eq s w 2 (by omega)]

theorem srd (g : BitVec 3) (d : BitVec 7) (a : BitVec 7) (w : Nat) (hw : w = 4161273856 + g.toNat * 8388608 + d.toNat * 512 + a.toNat * 4) :
    decodeWord w = some (.srd g d a) := by
  have := g.isLt
  have := d.isLt
  have := a.isLt
  rw [major_3E w (by omega)]
  unfold dec3E
  rw [show w / 65536 % 128 = 8 by omega]
  refine (onlyIf_true ?_).trans ?_
  · simp only [show w % 4 = 0 by omega]
    rfl
  rw [field_eq g w 23 (by omega), field_eq d w 9 (by omega), field_eq a w 2 (by omega)]

theorem swr (g : BitVec 3) (d : BitVec 7) (a : BitVec 7) (w : Nat) (hw : w = 4161339392 + g.toNat * 8388608 + d.toNat * 512 + a.toNat * 4) :
    decodeWord w = some (.swr g d a) := by
  have := g.isLt
  have := d.isLt
  have := a.isLt
  rw [major_3E w (by omega)]
  unfold dec3E
  rw [show w / 65536 % 128 = 9 by omega]
  refine (onlyIf_true ?_).trans ?_
  · simp only [show w % 4 = 0 by omega]
    rfl
  rw [field_eq g w 23 (by omega), field_eq d w 9 (by omega), field_eq a w 2 (by omega)]

theorem cinvL1 (g : BitVec 3) (w : Nat) (hw : w = 4161798144 + g.toNat * 8388608) :
    decodeWord w = some (.cinvL1 g) := by
  have := g.isLt
  rw [major_3E w (by omega)]
  unfold dec3E
  rw [show w / 65536 % 128 = 16 by omega]
  refine (onlyIf_true ?_).trans ?_
  · simp only [show w % 65536 = 0 by omega]
    rfl
  rw [field_eq g w 23 (by omega)]

theorem cinvC (g : BitVec 3) (w : Nat) (hw : w = 4161863680 + g.toNat * 8388608) :
    decodeWord w = some (.cinvC g) := by
  have := g.isLt
  rw [major_3E w (by omega)]
  unfold dec3E
  rw [show w / 65536 % 128 = 17 by omega]
  refine (onlyIf_true ?_).trans ?_
  · simp only [show w % 65536 = 0 by omega]
    rfl
  rw [field_eq g w 23 (by omega)]

theorem cwbMere (g : BitVec 3) (d : BitVec 7) (a : BitVec 7) (w : Nat) (hw : w = 4161929216 + g.toNat * 8388608 + d.toNat * 512 + a.toNat * 4) :
    decodeWord w = some (.cwbMere g d a) := by
  have := g.isLt
  have := d.isLt
  have := a.isLt
  rw [major_3E w (by omega)]
  unfold dec3E
  rw [show w / 65536 % 128 = 18 by omega]
  refine (onlyIf_true ?_).trans ?_
  · simp only [show w % 4 = 0 by omega]
    rfl
  rw [field_eq g w 23 (by omega), field_eq d w 9 (by omega), field_eq a w 2 (by omega)]

theorem mtrd (g : BitVec 3) (d : BitVec 7) (a : BitVec 7) (w : Nat) (hw : w = 4162322432 + g.toNat * 8388608 + d.toNat * 512 + a.toNat * 4) :
    decodeWord w = some (.mtrd g d a) := by
  have := g.isLt
  have := d.isLt
  have := a.isLt
  rw [major_3E w (by omega)]
  unfold dec3E
  rw [show w / 65536 % 128 = 24 by omega]
  refine (onlyIf_true ?_).trans ?_
  · simp only [show w % 4 = 0 by omega]
    rfl
  rw [field_eq g w 23 (by omega), field_eq d w 9 (by omega), field_eq a w 2 (by omega)]

theorem evcfg (g : BitVec 3) (d : BitVec 7) (a : BitVec 7) (w : Nat) (hw : w = 4162387968 + g.toNat * 8388608 + d.toNat * 512 + a.toNat * 4) :
    decodeWord w = some (.evcfg g d a) := by
  have := g.isLt
  have := d.isLt
  have := a.isLt
  rw [major_3E w (by omega)]
  unfold dec3E
  rw [show w / 65536 % 128 = 25 by omega]
  refine (onlyIf_true ?_).trans ?_
  · simp only [show w % 4 = 0 by omega]
    rfl
  rw [field_eq g w 23 (by omega), field_eq d w 9 (by omega), field_eq a w 2 (by omega)]

theorem evrd (g : BitVec 3) (d : BitVec 7) (a : BitVec 7) (w : Nat) (hw : w = 4162453504 + g.toNat * 8388608 + d.toNat * 512 + a.toNat * 4) :
    decodeWord w = some (.evrd g d a) := by
  have := g.isLt
  have := d.isLt
  have := a.isLt
  rw [major_3E w (by omega)]
  unfold dec3E
  rw [show w / 65536 % 128 = 26 by omega]
  refine (onlyIf_true ?_).trans ?_
  · simp only [show w % 4 = 0 by omega]
    rfl
  rw [field_eq g w 23 (by omega), field_eq d w 9 (by omega), field_eq a w 2 (by omega)]

theorem lklog (g : BitVec 3) (d : BitVec 7) (a : BitVec 7) (w : Nat) (hw : w = 4162846720 + g.toNat * 8388608 + d.toNat * 512 + a.toNat * 4) :
    decodeWord w = some (.lklog g d a) := by
  have := g.isLt
  have := d.isLt
  have := a.isLt
  rw [major_3E w (by omega)]
  unfold dec3E
  rw [show w / 65536 % 128 = 32 by omega]
  refine (onlyIf_true ?_).trans ?_
  · simp only [show w % 4 = 0 by omega]
    rfl
  rw [field_eq g w 23 (by omega), field_eq d w 9 (by omega), field_eq a w 2 (by omega)]

theorem kinj (g : BitVec 3) (a : BitVec 7) (w : Nat) (hw : w = 4163895296 + g.toNat * 8388608 + a.toNat * 4) :
    decodeWord w = some (.kinj g a) := by
  have := g.isLt
  have := a.isLt
  rw [major_3E w (by omega)]
  unfold dec3E
  rw [show w / 65536 % 128 = 48 by omega]
  refine (onlyIf_true ?_).trans ?_
  · simp only [show w % 4 = 0 by omega, show w / 512 % 128 = 0 by omega]
    rfl
  rw [field_eq g w 23 (by omega), field_eq a w 2 (by omega)]

end Sys2Proof.Laws.Word
end

