-- ==== Sys2Proof/Laws/PerInstr.lean ====
section
/-! SUPPORT. For each instruction: its words decode to it, whatever follows (R19 to R22, R28, R31 to R34). -/

namespace Sys2Proof.Laws.Encoding

/-- The words of an encoded instruction decode to it: its first word alone, or with its second word for a `lim` pair (R28). -/
def Statement (i : Instr) : Prop :=
  match i with
  | .lim h w => decodePair (encodeWord (.lim h w)) w.toNat = some (.lim h w)
  | i => i.encoded = true → ∀ x : Nat, decodePair (encodeWord i) x = some i

/-- A word that decodes alone is no `lim` word. -/
theorem pair_of_word {w : Nat} {i : Instr} (h : decodeWord w = some i) (x : Nat) : decodePair w x = some i := by
  unfold decodePair
  rw [if_neg, h]
  intro k
  have m : w / 67108864 % 64 = 63 := by simpa [isLim] using k
  unfold decodeWord at h
  rw [m] at h
  cases h

theorem addB32 (g : BitVec 3) (d : BitVec 7) (a : BitVec 7) (b : BitVec 7) : Statement (.addB32 g d a b) :=
  fun _ => pair_of_word (Word.addB32 g d a b _ rfl)

theorem subB32 (g : BitVec 3) (d : BitVec 7) (a : BitVec 7) (b : BitVec 7) : Statement (.subB32 g d a b) :=
  fun _ => pair_of_word (Word.subB32 g d a b _ rfl)

theorem addB64 (g : BitVec 3) (d : BitVec 7) (a : BitVec 7) (b : BitVec 7) : Statement (.addB64 g d a b) :=
  fun _ => pair_of_word (Word.addB64 g d a b _ rfl)

theorem subB64 (g : BitVec 3) (d : BitVec 7) (a : BitVec 7) (b : BitVec 7) : Statement (.subB64 g d a b) :=
  fun _ => pair_of_word (Word.subB64 g d a b _ rfl)

theorem addcB32 (g : BitVec 3) (d : BitVec 7) (a : BitVec 7) (b : BitVec 7) : Statement (.addcB32 g d a b) :=
  fun _ => pair_of_word (Word.addcB32 g d a b _ rfl)

theorem subcB32 (g : BitVec 3) (d : BitVec 7) (a : BitVec 7) (b : BitVec 7) : Statement (.subcB32 g d a b) :=
  fun _ => pair_of_word (Word.subcB32 g d a b _ rfl)

theorem mulLoB32 (g : BitVec 3) (d : BitVec 7) (a : BitVec 7) (b : BitVec 7) : Statement (.mulLoB32 g d a b) :=
  fun _ => pair_of_word (Word.mulLoB32 g d a b _ rfl)

theorem mulWideZ (g : BitVec 3) (d : BitVec 7) (a : BitVec 7) (b : BitVec 7) : Statement (.mulWideZ g d a b) :=
  fun _ => pair_of_word (Word.mulWideZ g d a b _ rfl)

theorem mulHiSB32 (g : BitVec 3) (d : BitVec 7) (a : BitVec 7) (b : BitVec 7) : Statement (.mulHiSB32 g d a b) :=
  fun _ => pair_of_word (Word.mulHiSB32 g d a b _ rfl)

theorem mulHiZB32 (g : BitVec 3) (d : BitVec 7) (a : BitVec 7) (b : BitVec 7) : Statement (.mulHiZB32 g d a b) :=
  fun _ => pair_of_word (Word.mulHiZB32 g d a b _ rfl)

theorem madLoB32 (g : BitVec 3) (d : BitVec 7) (a : BitVec 7) (b : BitVec 7) : Statement (.madLoB32 g d a b) :=
  fun _ => pair_of_word (Word.madLoB32 g d a b _ rfl)

theorem mulWideS (g : BitVec 3) (d : BitVec 7) (a : BitVec 7) (b : BitVec 7) : Statement (.mulWideS g d a b) :=
  fun _ => pair_of_word (Word.mulWideS g d a b _ rfl)

theorem minSB32 (g : BitVec 3) (d : BitVec 7) (a : BitVec 7) (b : BitVec 7) : Statement (.minSB32 g d a b) :=
  fun _ => pair_of_word (Word.minSB32 g d a b _ rfl)

theorem maxSB32 (g : BitVec 3) (d : BitVec 7) (a : BitVec 7) (b : BitVec 7) : Statement (.maxSB32 g d a b) :=
  fun _ => pair_of_word (Word.maxSB32 g d a b _ rfl)

theorem minZB32 (g : BitVec 3) (d : BitVec 7) (a : BitVec 7) (b : BitVec 7) : Statement (.minZB32 g d a b) :=
  fun _ => pair_of_word (Word.minZB32 g d a b _ rfl)

theorem maxZB32 (g : BitVec 3) (d : BitVec 7) (a : BitVec 7) (b : BitVec 7) : Statement (.maxZB32 g d a b) :=
  fun _ => pair_of_word (Word.maxZB32 g d a b _ rfl)

theorem shlB32 (g : BitVec 3) (d : BitVec 7) (a : BitVec 7) (b : BitVec 7) : Statement (.shlB32 g d a b) :=
  fun _ => pair_of_word (Word.shlB32 g d a b _ rfl)

theorem shrZB32 (g : BitVec 3) (d : BitVec 7) (a : BitVec 7) (b : BitVec 7) : Statement (.shrZB32 g d a b) :=
  fun _ => pair_of_word (Word.shrZB32 g d a b _ rfl)

theorem shrSB32 (g : BitVec 3) (d : BitVec 7) (a : BitVec 7) (b : BitVec 7) : Statement (.shrSB32 g d a b) :=
  fun _ => pair_of_word (Word.shrSB32 g d a b _ rfl)

theorem rotB32 (g : BitVec 3) (d : BitVec 7) (a : BitVec 7) (b : BitVec 7) : Statement (.rotB32 g d a b) :=
  fun _ => pair_of_word (Word.rotB32 g d a b _ rfl)

theorem shlB64 (g : BitVec 3) (d : BitVec 7) (a : BitVec 7) (b : BitVec 7) : Statement (.shlB64 g d a b) :=
  fun _ => pair_of_word (Word.shlB64 g d a b _ rfl)

theorem shrZB64 (g : BitVec 3) (d : BitVec 7) (a : BitVec 7) (b : BitVec 7) : Statement (.shrZB64 g d a b) :=
  fun _ => pair_of_word (Word.shrZB64 g d a b _ rfl)

theorem shrSB64 (g : BitVec 3) (d : BitVec 7) (a : BitVec 7) (b : BitVec 7) : Statement (.shrSB64 g d a b) :=
  fun _ => pair_of_word (Word.shrSB64 g d a b _ rfl)

theorem bselB32 (g : BitVec 3) (d : BitVec 7) (a : BitVec 7) (b : BitVec 7) : Statement (.bselB32 g d a b) :=
  fun _ => pair_of_word (Word.bselB32 g d a b _ rfl)

theorem andB32 (g : BitVec 3) (d : BitVec 7) (a : BitVec 7) (b : BitVec 7) : Statement (.andB32 g d a b) :=
  fun _ => pair_of_word (Word.andB32 g d a b _ rfl)

theorem orB32 (g : BitVec 3) (d : BitVec 7) (a : BitVec 7) (b : BitVec 7) : Statement (.orB32 g d a b) :=
  fun _ => pair_of_word (Word.orB32 g d a b _ rfl)

theorem xorB32 (g : BitVec 3) (d : BitVec 7) (a : BitVec 7) (b : BitVec 7) : Statement (.xorB32 g d a b) :=
  fun _ => pair_of_word (Word.xorB32 g d a b _ rfl)

theorem andnB32 (g : BitVec 3) (d : BitVec 7) (a : BitVec 7) (b : BitVec 7) : Statement (.andnB32 g d a b) :=
  fun _ => pair_of_word (Word.andnB32 g d a b _ rfl)

theorem popcB32 (g : BitVec 3) (d : BitVec 7) (a : BitVec 7) : Statement (.popcB32 g d a) :=
  fun _ => pair_of_word (Word.popcB32 g d a _ rfl)

theorem clzB32 (g : BitVec 3) (d : BitVec 7) (a : BitVec 7) : Statement (.clzB32 g d a) :=
  fun _ => pair_of_word (Word.clzB32 g d a _ rfl)

theorem bfxB32 (g : BitVec 3) (d : BitVec 7) (a : BitVec 7) (b : BitVec 7) : Statement (.bfxB32 g d a b) :=
  fun _ => pair_of_word (Word.bfxB32 g d a b _ rfl)

theorem bfiB32 (g : BitVec 3) (d : BitVec 7) (a : BitVec 7) (b : BitVec 7) : Statement (.bfiB32 g d a b) :=
  fun _ => pair_of_word (Word.bfiB32 g d a b _ rfl)

theorem cmpEqB32 (g : BitVec 3) (d : BitVec 3) (a : BitVec 7) (b : BitVec 7) : Statement (.cmpEqB32 g d a b) :=
  fun _ => pair_of_word (Word.cmpEqB32 g d a b _ rfl)

theorem cmpNeB32 (g : BitVec 3) (d : BitVec 3) (a : BitVec 7) (b : BitVec 7) : Statement (.cmpNeB32 g d a b) :=
  fun _ => pair_of_word (Word.cmpNeB32 g d a b _ rfl)

theorem cmpLtSB32 (g : BitVec 3) (d : BitVec 3) (a : BitVec 7) (b : BitVec 7) : Statement (.cmpLtSB32 g d a b) :=
  fun _ => pair_of_word (Word.cmpLtSB32 g d a b _ rfl)

theorem cmpLtZB32 (g : BitVec 3) (d : BitVec 3) (a : BitVec 7) (b : BitVec 7) : Statement (.cmpLtZB32 g d a b) :=
  fun _ => pair_of_word (Word.cmpLtZB32 g d a b _ rfl)

theorem cmpLeSB32 (g : BitVec 3) (d : BitVec 3) (a : BitVec 7) (b : BitVec 7) : Statement (.cmpLeSB32 g d a b) :=
  fun _ => pair_of_word (Word.cmpLeSB32 g d a b _ rfl)

theorem cmpLeZB32 (g : BitVec 3) (d : BitVec 3) (a : BitVec 7) (b : BitVec 7) : Statement (.cmpLeZB32 g d a b) :=
  fun _ => pair_of_word (Word.cmpLeZB32 g d a b _ rfl)

theorem cmpEqB64 (g : BitVec 3) (d : BitVec 3) (a : BitVec 7) (b : BitVec 7) : Statement (.cmpEqB64 g d a b) :=
  fun _ => pair_of_word (Word.cmpEqB64 g d a b _ rfl)

theorem cmpLtSB64 (g : BitVec 3) (d : BitVec 3) (a : BitVec 7) (b : BitVec 7) : Statement (.cmpLtSB64 g d a b) :=
  fun _ => pair_of_word (Word.cmpLtSB64 g d a b _ rfl)

theorem cmpLtZB64 (g : BitVec 3) (d : BitVec 3) (a : BitVec 7) (b : BitVec 7) : Statement (.cmpLtZB64 g d a b) :=
  fun _ => pair_of_word (Word.cmpLtZB64 g d a b _ rfl)

theorem selB32 (g : BitVec 3) (d : BitVec 7) (a : BitVec 7) (b : BitVec 7) : Statement (.selB32 g d a b) :=
  fun _ => pair_of_word (Word.selB32 g d a b _ rfl)

theorem movB32 (g : BitVec 3) (d : BitVec 7) (a : BitVec 7) : Statement (.movB32 g d a) :=
  fun _ => pair_of_word (Word.movB32 g d a _ rfl)

theorem movSv (g : BitVec 3) (d : BitVec 7) (a : BitVec 7) : Statement (.movSv g d a) :=
  fun _ => pair_of_word (Word.movSv g d a _ rfl)

theorem fadd (g : BitVec 3) (d : BitVec 7) (a : BitVec 7) (b : BitVec 7) : Statement (.fadd g d a b) :=
  fun _ => pair_of_word (Word.fadd g d a b _ rfl)

theorem fsub (g : BitVec 3) (d : BitVec 7) (a : BitVec 7) (b : BitVec 7) : Statement (.fsub g d a b) :=
  fun _ => pair_of_word (Word.fsub g d a b _ rfl)

theorem fmul (g : BitVec 3) (d : BitVec 7) (a : BitVec 7) (b : BitVec 7) : Statement (.fmul g d a b) :=
  fun _ => pair_of_word (Word.fmul g d a b _ rfl)

theorem ffma (g : BitVec 3) (d : BitVec 7) (a : BitVec 7) (b : BitVec 7) : Statement (.ffma g d a b) :=
  fun _ => pair_of_word (Word.ffma g d a b _ rfl)

theorem fmin (g : BitVec 3) (d : BitVec 7) (a : BitVec 7) (b : BitVec 7) : Statement (.fmin g d a b) :=
  fun _ => pair_of_word (Word.fmin g d a b _ rfl)

theorem fmax (g : BitVec 3) (d : BitVec 7) (a : BitVec 7) (b : BitVec 7) : Statement (.fmax g d a b) :=
  fun _ => pair_of_word (Word.fmax g d a b _ rfl)

theorem fcmpEq (g : BitVec 3) (d : BitVec 3) (a : BitVec 7) (b : BitVec 7) : Statement (.fcmpEq g d a b) :=
  fun _ => pair_of_word (Word.fcmpEq g d a b _ rfl)

theorem fcmpLt (g : BitVec 3) (d : BitVec 3) (a : BitVec 7) (b : BitVec 7) : Statement (.fcmpLt g d a b) :=
  fun _ => pair_of_word (Word.fcmpLt g d a b _ rfl)

theorem fcmpLe (g : BitVec 3) (d : BitVec 3) (a : BitVec 7) (b : BitVec 7) : Statement (.fcmpLe g d a b) :=
  fun _ => pair_of_word (Word.fcmpLe g d a b _ rfl)

theorem fcmpUn (g : BitVec 3) (d : BitVec 3) (a : BitVec 7) (b : BitVec 7) : Statement (.fcmpUn g d a b) :=
  fun _ => pair_of_word (Word.fcmpUn g d a b _ rfl)

theorem fabs (g : BitVec 3) (d : BitVec 7) (a : BitVec 7) : Statement (.fabs g d a) :=
  fun _ => pair_of_word (Word.fabs g d a _ rfl)

theorem fneg (g : BitVec 3) (d : BitVec 7) (a : BitVec 7) : Statement (.fneg g d a) :=
  fun _ => pair_of_word (Word.fneg g d a _ rfl)

theorem faddF16x2 (g : BitVec 3) (d : BitVec 7) (a : BitVec 7) (b : BitVec 7) : Statement (.faddF16x2 g d a b) :=
  fun _ => pair_of_word (Word.faddF16x2 g d a b _ rfl)

theorem fsubF16x2 (g : BitVec 3) (d : BitVec 7) (a : BitVec 7) (b : BitVec 7) : Statement (.fsubF16x2 g d a b) :=
  fun _ => pair_of_word (Word.fsubF16x2 g d a b _ rfl)

theorem fmulF16x2 (g : BitVec 3) (d : BitVec 7) (a : BitVec 7) (b : BitVec 7) : Statement (.fmulF16x2 g d a b) :=
  fun _ => pair_of_word (Word.fmulF16x2 g d a b _ rfl)

theorem ffmaF16x2 (g : BitVec 3) (d : BitVec 7) (a : BitVec 7) (b : BitVec 7) : Statement (.ffmaF16x2 g d a b) :=
  fun _ => pair_of_word (Word.ffmaF16x2 g d a b _ rfl)

theorem faddBf16x2 (g : BitVec 3) (d : BitVec 7) (a : BitVec 7) (b : BitVec 7) : Statement (.faddBf16x2 g d a b) :=
  fun _ => pair_of_word (Word.faddBf16x2 g d a b _ rfl)

theorem fsubBf16x2 (g : BitVec 3) (d : BitVec 7) (a : BitVec 7) (b : BitVec 7) : Statement (.fsubBf16x2 g d a b) :=
  fun _ => pair_of_word (Word.fsubBf16x2 g d a b _ rfl)

theorem fmulBf16x2 (g : BitVec 3) (d : BitVec 7) (a : BitVec 7) (b : BitVec 7) : Statement (.fmulBf16x2 g d a b) :=
  fun _ => pair_of_word (Word.fmulBf16x2 g d a b _ rfl)

theorem ffmaBf16x2 (g : BitVec 3) (d : BitVec 7) (a : BitVec 7) (b : BitVec 7) : Statement (.ffmaBf16x2 g d a b) :=
  fun _ => pair_of_word (Word.ffmaBf16x2 g d a b _ rfl)

theorem fminF16x2 (g : BitVec 3) (d : BitVec 7) (a : BitVec 7) (b : BitVec 7) : Statement (.fminF16x2 g d a b) :=
  fun _ => pair_of_word (Word.fminF16x2 g d a b _ rfl)

theorem fmaxF16x2 (g : BitVec 3) (d : BitVec 7) (a : BitVec 7) (b : BitVec 7) : Statement (.fmaxF16x2 g d a b) :=
  fun _ => pair_of_word (Word.fmaxF16x2 g d a b _ rfl)

theorem fminBf16x2 (g : BitVec 3) (d : BitVec 7) (a : BitVec 7) (b : BitVec 7) : Statement (.fminBf16x2 g d a b) :=
  fun _ => pair_of_word (Word.fminBf16x2 g d a b _ rfl)

theorem fmaxBf16x2 (g : BitVec 3) (d : BitVec 7) (a : BitVec 7) (b : BitVec 7) : Statement (.fmaxBf16x2 g d a b) :=
  fun _ => pair_of_word (Word.fmaxBf16x2 g d a b _ rfl)

theorem rcp (g : BitVec 3) (d : BitVec 7) (a : BitVec 7) : Statement (.rcp g d a) :=
  fun _ => pair_of_word (Word.rcp g d a _ rfl)

theorem rsq (g : BitVec 3) (d : BitVec 7) (a : BitVec 7) : Statement (.rsq g d a) :=
  fun _ => pair_of_word (Word.rsq g d a _ rfl)

theorem sqrt (g : BitVec 3) (d : BitVec 7) (a : BitVec 7) : Statement (.sqrt g d a) :=
  fun _ => pair_of_word (Word.sqrt g d a _ rfl)

theorem exp2 (g : BitVec 3) (d : BitVec 7) (a : BitVec 7) : Statement (.exp2 g d a) :=
  fun _ => pair_of_word (Word.exp2 g d a _ rfl)

theorem log2 (g : BitVec 3) (d : BitVec 7) (a : BitVec 7) : Statement (.log2 g d a) :=
  fun _ => pair_of_word (Word.log2 g d a _ rfl)

theorem sin (g : BitVec 3) (d : BitVec 7) (a : BitVec 7) : Statement (.sin g d a) :=
  fun _ => pair_of_word (Word.sin g d a _ rfl)

theorem cos (g : BitVec 3) (d : BitVec 7) (a : BitVec 7) : Statement (.cos g d a) :=
  fun _ => pair_of_word (Word.cos g d a _ rfl)

theorem frnd (g : BitVec 3) (d : BitVec 7) (a : BitVec 7) : Statement (.frnd g d a) :=
  fun _ => pair_of_word (Word.frnd g d a _ rfl)

theorem rdflg (g : BitVec 3) (d : BitVec 7) : Statement (.rdflg g d) :=
  fun _ => pair_of_word (Word.rdflg g d _ rfl)

theorem clrflg (g : BitVec 3) (a : BitVec 7) : Statement (.clrflg g a) :=
  fun _ => pair_of_word (Word.clrflg g a _ rfl)

theorem fdot2F16 (g : BitVec 3) (d : BitVec 7) (a : BitVec 7) (b : BitVec 7) : Statement (.fdot2F16 g d a b) :=
  fun _ => pair_of_word (Word.fdot2F16 g d a b _ rfl)

theorem fdot2Bf16 (g : BitVec 3) (d : BitVec 7) (a : BitVec 7) (b : BitVec 7) : Statement (.fdot2Bf16 g d a b) :=
  fun _ => pair_of_word (Word.fdot2Bf16 g d a b _ rfl)

theorem pand (g : BitVec 3) (d : BitVec 3) (a : BitVec 3) (b : BitVec 3) : Statement (.pand g d a b) :=
  fun _ => pair_of_word (Word.pand g d a b _ rfl)

theorem por (g : BitVec 3) (d : BitVec 3) (a : BitVec 3) (b : BitVec 3) : Statement (.por g d a b) :=
  fun _ => pair_of_word (Word.por g d a b _ rfl)

theorem pxor (g : BitVec 3) (d : BitVec 3) (a : BitVec 3) (b : BitVec 3) : Statement (.pxor g d a b) :=
  fun _ => pair_of_word (Word.pxor g d a b _ rfl)

theorem pnot (g : BitVec 3) (d : BitVec 3) (a : BitVec 3) : Statement (.pnot g d a) :=
  fun _ => pair_of_word (Word.pnot g d a _ rfl)

theorem p2v (g : BitVec 3) (d : BitVec 7) (a : BitVec 3) : Statement (.p2v g d a) :=
  fun _ => pair_of_word (Word.p2v g d a _ rfl)

theorem v2p (g : BitVec 3) (d : BitVec 3) (a : BitVec 7) : Statement (.v2p g d a) :=
  fun _ => pair_of_word (Word.v2p g d a _ rfl)

theorem atomMinS (g : BitVec 3) (d : BitVec 7) (a : BitVec 7) (b : BitVec 7) : Statement (.atomMinS g d a b) :=
  fun _ => pair_of_word (Word.atomMinS g d a b _ rfl)

theorem atomMinZ (g : BitVec 3) (d : BitVec 7) (a : BitVec 7) (b : BitVec 7) : Statement (.atomMinZ g d a b) :=
  fun _ => pair_of_word (Word.atomMinZ g d a b _ rfl)

theorem atomMaxS (g : BitVec 3) (d : BitVec 7) (a : BitVec 7) (b : BitVec 7) : Statement (.atomMaxS g d a b) :=
  fun _ => pair_of_word (Word.atomMaxS g d a b _ rfl)

theorem atomMaxZ (g : BitVec 3) (d : BitVec 7) (a : BitVec 7) (b : BitVec 7) : Statement (.atomMaxZ g d a b) :=
  fun _ => pair_of_word (Word.atomMaxZ g d a b _ rfl)

theorem redAdd (g : BitVec 3) (a : BitVec 7) (b : BitVec 7) : Statement (.redAdd g a b) :=
  fun _ => pair_of_word (Word.redAdd g a b _ rfl)

theorem redAddB64 (g : BitVec 3) (a : BitVec 7) (b : BitVec 7) : Statement (.redAddB64 g a b) :=
  fun _ => pair_of_word (Word.redAddB64 g a b _ rfl)

theorem redFadd (g : BitVec 3) (a : BitVec 7) (b : BitVec 7) : Statement (.redFadd g a b) :=
  fun _ => pair_of_word (Word.redFadd g a b _ rfl)

theorem redFadd2c (g : BitVec 3) (a : BitVec 7) (b : BitVec 7) : Statement (.redFadd2c g a b) :=
  fun _ => pair_of_word (Word.redFadd2c g a b _ rfl)

theorem redMinS (g : BitVec 3) (a : BitVec 7) (b : BitVec 7) : Statement (.redMinS g a b) :=
  fun _ => pair_of_word (Word.redMinS g a b _ rfl)

theorem redMaxS (g : BitVec 3) (a : BitVec 7) (b : BitVec 7) : Statement (.redMaxS g a b) :=
  fun _ => pair_of_word (Word.redMaxS g a b _ rfl)

theorem redAnd (g : BitVec 3) (a : BitVec 7) (b : BitVec 7) : Statement (.redAnd g a b) :=
  fun _ => pair_of_word (Word.redAnd g a b _ rfl)

theorem redOr (g : BitVec 3) (a : BitVec 7) (b : BitVec 7) : Statement (.redOr g a b) :=
  fun _ => pair_of_word (Word.redOr g a b _ rfl)

theorem cpLaneB32 (g : BitVec 3) (d : BitVec 7) (a : BitVec 7) (s : BitVec 3) (r : BitVec 1) (q : BitVec 1) : Statement (.cpLaneB32 g d a s r q) :=
  fun _ => pair_of_word (Word.cpLaneB32 g d a s r q _ rfl)

theorem cpLaneB64 (g : BitVec 3) (d : BitVec 7) (a : BitVec 7) (s : BitVec 3) (r : BitVec 1) (q : BitVec 1) : Statement (.cpLaneB64 g d a s r q) :=
  fun _ => pair_of_word (Word.cpLaneB64 g d a s r q _ rfl)

theorem cpLaneB128 (g : BitVec 3) (d : BitVec 7) (a : BitVec 7) (s : BitVec 3) (r : BitVec 1) (q : BitVec 1) : Statement (.cpLaneB128 g d a s r q) :=
  fun _ => pair_of_word (Word.cpLaneB128 g d a s r q _ rfl)

theorem cpBin (g : BitVec 3) (d : BitVec 7) (a : BitVec 7) (b : BitVec 7) : Statement (.cpBin g d a b) :=
  fun _ => pair_of_word (Word.cpBin g d a b _ rfl)

theorem xlaneAt (g : BitVec 3) (d : BitVec 7) (a : BitVec 7) (b : BitVec 7) : Statement (.xlaneAt g d a b) :=
  fun _ => pair_of_word (Word.xlaneAt g d a b _ rfl)

theorem xlaneBack (g : BitVec 3) (d : BitVec 7) (a : BitVec 7) (b : BitVec 7) : Statement (.xlaneBack g d a b) :=
  fun _ => pair_of_word (Word.xlaneBack g d a b _ rfl)

theorem xlaneFwd (g : BitVec 3) (d : BitVec 7) (a : BitVec 7) (b : BitVec 7) : Statement (.xlaneFwd g d a b) :=
  fun _ => pair_of_word (Word.xlaneFwd g d a b _ rfl)

theorem xlaneFlip (g : BitVec 3) (d : BitVec 7) (a : BitVec 7) (b : BitVec 7) : Statement (.xlaneFlip g d a b) :=
  fun _ => pair_of_word (Word.xlaneFlip g d a b _ rfl)

theorem voteAll (g : BitVec 3) (d : BitVec 3) (a : BitVec 3) : Statement (.voteAll g d a) :=
  fun _ => pair_of_word (Word.voteAll g d a _ rfl)

theorem voteAny (g : BitVec 3) (d : BitVec 3) (a : BitVec 3) : Statement (.voteAny g d a) :=
  fun _ => pair_of_word (Word.voteAny g d a _ rfl)

theorem ballot (g : BitVec 3) (d : BitVec 7) (a : BitVec 3) : Statement (.ballot g d a) :=
  fun _ => pair_of_word (Word.ballot g d a _ rfl)

theorem matchV (g : BitVec 3) (d : BitVec 7) (a : BitVec 7) : Statement (.matchV g d a) :=
  fun _ => pair_of_word (Word.matchV g d a _ rfl)

theorem gredAdd (g : BitVec 3) (d : BitVec 7) (a : BitVec 7) : Statement (.gredAdd g d a) :=
  fun _ => pair_of_word (Word.gredAdd g d a _ rfl)

theorem gredMinS (g : BitVec 3) (d : BitVec 7) (a : BitVec 7) : Statement (.gredMinS g d a) :=
  fun _ => pair_of_word (Word.gredMinS g d a _ rfl)

theorem gredMinZ (g : BitVec 3) (d : BitVec 7) (a : BitVec 7) : Statement (.gredMinZ g d a) :=
  fun _ => pair_of_word (Word.gredMinZ g d a _ rfl)

theorem gredMaxS (g : BitVec 3) (d : BitVec 7) (a : BitVec 7) : Statement (.gredMaxS g d a) :=
  fun _ => pair_of_word (Word.gredMaxS g d a _ rfl)

theorem gredMaxZ (g : BitVec 3) (d : BitVec 7) (a : BitVec 7) : Statement (.gredMaxZ g d a) :=
  fun _ => pair_of_word (Word.gredMaxZ g d a _ rfl)

theorem gredFadd (g : BitVec 3) (d : BitVec 7) (a : BitVec 7) : Statement (.gredFadd g d a) :=
  fun _ => pair_of_word (Word.gredFadd g d a _ rfl)

theorem gscanAdd (g : BitVec 3) (d : BitVec 7) (a : BitVec 7) : Statement (.gscanAdd g d a) :=
  fun _ => pair_of_word (Word.gscanAdd g d a _ rfl)

theorem elect (g : BitVec 3) (d : BitVec 3) : Statement (.elect g d) :=
  fun _ => pair_of_word (Word.elect g d _ rfl)

theorem atomAdd (g : BitVec 3) (d : BitVec 7) (a : BitVec 7) (b : BitVec 7) : Statement (.atomAdd g d a b) :=
  fun _ => pair_of_word (Word.atomAdd g d a b _ rfl)

theorem atomAddB64 (g : BitVec 3) (d : BitVec 7) (a : BitVec 7) (b : BitVec 7) : Statement (.atomAddB64 g d a b) :=
  fun _ => pair_of_word (Word.atomAddB64 g d a b _ rfl)

theorem atomExch (g : BitVec 3) (d : BitVec 7) (a : BitVec 7) (b : BitVec 7) : Statement (.atomExch g d a b) :=
  fun _ => pair_of_word (Word.atomExch g d a b _ rfl)

theorem atomExchB64 (g : BitVec 3) (d : BitVec 7) (a : BitVec 7) (b : BitVec 7) : Statement (.atomExchB64 g d a b) :=
  fun _ => pair_of_word (Word.atomExchB64 g d a b _ rfl)

theorem atomCas (g : BitVec 3) (d : BitVec 7) (a : BitVec 7) (b : BitVec 7) : Statement (.atomCas g d a b) :=
  fun _ => pair_of_word (Word.atomCas g d a b _ rfl)

theorem atomCasB64 (g : BitVec 3) (d : BitVec 7) (a : BitVec 7) (b : BitVec 7) : Statement (.atomCasB64 g d a b) :=
  fun _ => pair_of_word (Word.atomCasB64 g d a b _ rfl)

theorem atomFadd (g : BitVec 3) (d : BitVec 7) (a : BitVec 7) (b : BitVec 7) : Statement (.atomFadd g d a b) :=
  fun _ => pair_of_word (Word.atomFadd g d a b _ rfl)

theorem atomFadd2c (g : BitVec 3) (d : BitVec 7) (a : BitVec 7) (b : BitVec 7) : Statement (.atomFadd2c g d a b) :=
  fun _ => pair_of_word (Word.atomFadd2c g d a b _ rfl)

theorem llock (g : BitVec 3) (d : BitVec 3) (a : BitVec 7) (c : BitVec 2) : Statement (.llock g d a c) :=
  fun _ => pair_of_word (Word.llock g d a c _ rfl)

theorem lunlock (g : BitVec 3) (a : BitVec 7) : Statement (.lunlock g a) :=
  fun _ => pair_of_word (Word.lunlock g a _ rfl)

theorem ltry (g : BitVec 3) (d : BitVec 3) (a : BitVec 7) : Statement (.ltry g d a) :=
  fun _ => pair_of_word (Word.ltry g d a _ rfl)

theorem lstat (g : BitVec 3) (d : BitVec 7) (a : BitVec 7) : Statement (.lstat g d a) :=
  fun _ => pair_of_word (Word.lstat g d a _ rfl)

theorem fst (g : BitVec 3) (s : BitVec 2) (w : BitVec 5) (a : BitVec 7) (b : BitVec 7) : Statement (.fst g s w a b) :=
  fun _ => pair_of_word (Word.fst g s w a b _ rfl)

theorem fld (g : BitVec 3) (d : BitVec 7) (a : BitVec 7) (s : BitVec 2) (p : BitVec 3) : Statement (.fld g d a s p) :=
  fun _ => pair_of_word (Word.fld g d a s p _ rfl)

theorem fatom (g : BitVec 3) (d : BitVec 7) (a : BitVec 7) (x : BitVec 4) (p : BitVec 3) : Statement (.fatom g d a x p) :=
  fun _ => pair_of_word (Word.fatom g d a x p _ rfl)

theorem fwclose (g : BitVec 3) (s : BitVec 2) (w : BitVec 5) (a : BitVec 7) (b : BitVec 7) : Statement (.fwclose g s w a b) :=
  fun _ => pair_of_word (Word.fwclose g s w a b _ rfl)

theorem addi (g : BitVec 3) (d : BitVec 7) (a : BitVec 7) (i : BitVec 9) : Statement (.addi g d a i) :=
  fun _ => pair_of_word (Word.addi g d a i _ rfl)

theorem addiB64 (g : BitVec 3) (d : BitVec 7) (a : BitVec 7) (i : BitVec 9) : Statement (.addiB64 g d a i) :=
  fun _ => pair_of_word (Word.addiB64 g d a i _ rfl)

theorem movi (g : BitVec 3) (d : BitVec 7) (i : BitVec 16) : Statement (.movi g d i) :=
  fun _ => pair_of_word (Word.movi g d i _ rfl)

theorem cvt (g : BitVec 3) (d : BitVec 7) (a : BitVec 7) (x : BitVec 1) (y : BitVec 4) (z : BitVec 4) : Statement (.cvt g d a x y z) :=
  fun _ => pair_of_word (Word.cvt g d a x y z _ rfl)

theorem bra (g : BitVec 3) (o : BitVec 23) : Statement (.bra g o) :=
  fun _ => pair_of_word (Word.bra g o _ rfl)

theorem call (g : BitVec 3) (o : BitVec 23) : Statement (.call g o) :=
  fun _ => pair_of_word (Word.call g o _ rfl)

theorem jfence (g : BitVec 3) (o : BitVec 23) : Statement (.jfence g o) :=
  fun _ => pair_of_word (Word.jfence g o _ rfl)

theorem wait (g : BitVec 3) (l : BitVec 6) (s : BitVec 6) (c : BitVec 6) (t : BitVec 5) : Statement (.wait g l s c t) :=
  fun _ => pair_of_word (Word.wait g l s c t _ rfl)

theorem ld (g : BitVec 3) (d : BitVec 7) (a : BitVec 7) (z : BitVec 3) (y : BitVec 2) (o : BitVec 4) : Statement (.ld g d a z y o) :=
  fun _ => pair_of_word (Word.ld g d a z y o _ rfl)

theorem st (g : BitVec 3) (d : BitVec 7) (a : BitVec 7) (z : BitVec 3) (y : BitVec 2) (o : BitVec 4) : Statement (.st g d a z y o) :=
  fun _ => pair_of_word (Word.st g d a z y o _ rfl)

theorem ldAcq (g : BitVec 3) (d : BitVec 7) (a : BitVec 7) (z : BitVec 1) (y : BitVec 2) (o : BitVec 4) : Statement (.ldAcq g d a z y o) :=
  fun _ => pair_of_word (Word.ldAcq g d a z y o _ rfl)

theorem stRel (g : BitVec 3) (d : BitVec 7) (a : BitVec 7) (z : BitVec 1) (y : BitVec 2) (o : BitVec 4) : Statement (.stRel g d a z y o) :=
  fun _ => pair_of_word (Word.stRel g d a z y o _ rfl)

theorem ldC (g : BitVec 3) (d : BitVec 7) (a : BitVec 7) (z : BitVec 3) (o : BitVec 4) : Statement (.ldC g d a z o) :=
  fun _ => pair_of_word (Word.ldC g d a z o _ rfl)

theorem pref (g : BitVec 3) (a : BitVec 7) (y : BitVec 2) (o : BitVec 4) : Statement (.pref g a y o) :=
  fun _ => pair_of_word (Word.pref g a y o _ rfl)

theorem mmaF16 (g : BitVec 3) (n : BitVec 6) (m : BitVec 2) (c : BitVec 3) (a : BitVec 6) (b : BitVec 6) : Statement (.mmaF16 g n m c a b) :=
  fun _ => pair_of_word (Word.mmaF16 g n m c a b _ rfl)

theorem mmaBf16 (g : BitVec 3) (n : BitVec 6) (m : BitVec 2) (c : BitVec 3) (a : BitVec 6) (b : BitVec 6) : Statement (.mmaBf16 g n m c a b) :=
  fun _ => pair_of_word (Word.mmaBf16 g n m c a b _ rfl)

theorem mmaE4m3 (g : BitVec 3) (n : BitVec 6) (m : BitVec 2) (c : BitVec 3) (a : BitVec 6) (b : BitVec 6) : Statement (.mmaE4m3 g n m c a b) :=
  fun _ => pair_of_word (Word.mmaE4m3 g n m c a b _ rfl)

theorem mmaE4m3e5m2 (g : BitVec 3) (n : BitVec 6) (m : BitVec 2) (c : BitVec 3) (a : BitVec 6) (b : BitVec 6) : Statement (.mmaE4m3e5m2 g n m c a b) :=
  fun _ => pair_of_word (Word.mmaE4m3e5m2 g n m c a b _ rfl)

theorem mmaE5m2 (g : BitVec 3) (n : BitVec 6) (m : BitVec 2) (c : BitVec 3) (a : BitVec 6) (b : BitVec 6) : Statement (.mmaE5m2 g n m c a b) :=
  fun _ => pair_of_word (Word.mmaE5m2 g n m c a b _ rfl)

theorem mmaS8 (g : BitVec 3) (n : BitVec 6) (m : BitVec 2) (c : BitVec 3) (a : BitVec 6) (b : BitVec 6) : Statement (.mmaS8 g n m c a b) :=
  fun _ => pair_of_word (Word.mmaS8 g n m c a b _ rfl)

theorem mmaE2m1 (g : BitVec 3) (n : BitVec 6) (m : BitVec 2) (c : BitVec 3) (a : BitVec 6) (b : BitVec 6) : Statement (.mmaE2m1 g n m c a b) :=
  fun _ => pair_of_word (Word.mmaE2m1 g n m c a b _ rfl)

theorem mmaBf16s4 (g : BitVec 3) (n : BitVec 6) (m : BitVec 2) (c : BitVec 3) (a : BitVec 6) (b : BitVec 6) : Statement (.mmaBf16s4 g n m c a b) :=
  fun _ => pair_of_word (Word.mmaBf16s4 g n m c a b _ rfl)

theorem nop (g : BitVec 3) : Statement (.nop g) :=
  fun _ => pair_of_word (Word.nop g _ rfl)

theorem jmp (g : BitVec 3) (a : BitVec 7) : Statement (.jmp g a) :=
  fun _ => pair_of_word (Word.jmp g a _ rfl)

theorem calli (g : BitVec 3) (d : BitVec 7) (a : BitVec 7) : Statement (.calli g d a) :=
  fun _ => pair_of_word (Word.calli g d a _ rfl)

theorem ret (g : BitVec 3) (a : BitVec 7) : Statement (.ret g a) :=
  fun _ => pair_of_word (Word.ret g a _ rfl)

theorem exit (g : BitVec 3) : Statement (.exit g) :=
  fun _ => pair_of_word (Word.exit g _ rfl)

theorem yield (g : BitVec 3) : Statement (.yield g) :=
  fun _ => pair_of_word (Word.yield g _ rfl)

theorem brk (g : BitVec 3) (d : BitVec 7) : Statement (.brk g d) :=
  fun _ => pair_of_word (Word.brk g d _ rfl)

theorem wbase (g : BitVec 3) (m : BitVec 1) (v : BitVec 4) : Statement (.wbase g m v) :=
  fun _ => pair_of_word (Word.wbase g m v _ rfl)

theorem regacq (g : BitVec 3) (n : BitVec 4) : Statement (.regacq g n) :=
  fun _ => pair_of_word (Word.regacq g n _ rfl)

theorem regacqTry (g : BitVec 3) (d : BitVec 3) (n : BitVec 4) : Statement (.regacqTry g d n) :=
  fun _ => pair_of_word (Word.regacqTry g d n _ rfl)

theorem regrel (g : BitVec 3) (n : BitVec 4) : Statement (.regrel g n) :=
  fun _ => pair_of_word (Word.regrel g n _ rfl)

theorem spawn (g : BitVec 3) (d : BitVec 7) (a : BitVec 7) : Statement (.spawn g d a) :=
  fun _ => pair_of_word (Word.spawn g d a _ rfl)

theorem cfetch (g : BitVec 3) (s : BitVec 6) (a : BitVec 7) : Statement (.cfetch g s a) :=
  fun _ => pair_of_word (Word.cfetch g s a _ rfl)

theorem fence (g : BitVec 3) (k : BitVec 2) (s : BitVec 3) : Statement (.fence g k s) :=
  fun _ => pair_of_word (Word.fence g k s _ rfl)

theorem barInit (g : BitVec 3) (b : BitVec 5) (a : BitVec 7) : Statement (.barInit g b a) :=
  fun _ => pair_of_word (Word.barInit g b a _ rfl)

theorem barExpect (g : BitVec 3) (b : BitVec 5) (a : BitVec 7) : Statement (.barExpect g b a) :=
  fun _ => pair_of_word (Word.barExpect g b a _ rfl)

theorem barArrive (g : BitVec 3) (d : BitVec 7) (b : BitVec 5) : Statement (.barArrive g d b) :=
  fun _ => pair_of_word (Word.barArrive g d b _ rfl)

theorem barWait (g : BitVec 3) (b : BitVec 5) (a : BitVec 7) : Statement (.barWait g b a) :=
  fun _ => pair_of_word (Word.barWait g b a _ rfl)

theorem barSync (g : BitVec 3) (b : BitVec 5) : Statement (.barSync g b) :=
  fun _ => pair_of_word (Word.barSync g b _ rfl)

theorem barTest (g : BitVec 3) (p : BitVec 3) (b : BitVec 5) : Statement (.barTest g p b) :=
  fun _ => pair_of_word (Word.barTest g p b _ rfl)

theorem hbarArrive (g : BitVec 3) (d : BitVec 7) (s : BitVec 3) (i : BitVec 4) : Statement (.hbarArrive g d s i) :=
  fun _ => pair_of_word (Word.hbarArrive g d s i _ rfl)

theorem hbarWait (g : BitVec 3) (d : BitVec 7) (s : BitVec 3) (i : BitVec 4) : Statement (.hbarWait g d s i) :=
  fun _ => pair_of_word (Word.hbarWait g d s i _ rfl)

theorem cpBulk (g : BitVec 3) (a : BitVec 5) : Statement (.cpBulk g a) :=
  fun _ => pair_of_word (Word.cpBulk g a _ rfl)

theorem cpMcast (g : BitVec 3) (d : BitVec 7) (a : BitVec 5) : Statement (.cpMcast g d a) :=
  fun _ => pair_of_word (Word.cpMcast g d a _ rfl)

theorem cpBind (g : BitVec 3) (b : BitVec 5) : Statement (.cpBind g b) :=
  fun _ => pair_of_word (Word.cpBind g b _ rfl)

theorem cpBindNone (g : BitVec 3) : Statement (.cpBindNone g) :=
  fun _ => pair_of_word (Word.cpBindNone g _ rfl)

theorem fwopen (g : BitVec 3) (d : BitVec 7) (p : BitVec 3) : Statement (.fwopen g d p) :=
  fun _ => pair_of_word (Word.fwopen g d p _ rfl)

theorem fwopenFree (g : BitVec 3) (d : BitVec 7) : Statement (.fwopenFree g d) :=
  fun _ => pair_of_word (Word.fwopenFree g d _ rfl)

theorem fwstat (g : BitVec 3) (d : BitVec 7) (w : BitVec 5) : Statement (.fwstat g d w) :=
  fun _ => pair_of_word (Word.fwstat g d w _ rfl)

theorem vdnq (g : BitVec 3) (d : BitVec 7) (a : BitVec 7) : Statement (.vdnq g d a) :=
  fun _ => pair_of_word (Word.vdnq g d a _ rfl)

theorem ckpt (g : BitVec 3) : Statement (.ckpt g) :=
  fun _ => pair_of_word (Word.ckpt g _ rfl)

theorem ckstat (g : BitVec 3) (d : BitVec 7) : Statement (.ckstat g d) :=
  fun _ => pair_of_word (Word.ckstat g d _ rfl)

theorem ckrole (g : BitVec 3) (d : BitVec 3) : Statement (.ckrole g d) :=
  fun _ => pair_of_word (Word.ckrole g d _ rfl)

theorem tclaim (g : BitVec 3) (d : BitVec 3) (a : BitVec 7) : Statement (.tclaim g d a) :=
  fun _ => pair_of_word (Word.tclaim g d a _ rfl)

theorem trel (g : BitVec 3) (a : BitVec 7) : Statement (.trel g a) :=
  fun _ => pair_of_word (Word.trel g a _ rfl)

theorem tfill (g : BitVec 3) (s : BitVec 6) (a : BitVec 5) : Statement (.tfill g s a) :=
  fun _ => pair_of_word (Word.tfill g s a _ rfl)

theorem tfillDq (g : BitVec 3) (s : BitVec 6) (a : BitVec 5) : Statement (.tfillDq g s a) :=
  fun _ => pair_of_word (Word.tfillDq g s a _ rfl)

theorem azero (g : BitVec 3) (t : BitVec 3) (n : BitVec 3) : Statement (.azero g t n) :=
  fun _ => pair_of_word (Word.azero g t n _ rfl)

theorem aload (g : BitVec 3) (t : BitVec 3) (a : BitVec 7) : Statement (.aload g t a) :=
  fun _ => pair_of_word (Word.aload g t a _ rfl)

theorem tdrain (g : BitVec 3) (t : BitVec 3) (a : BitVec 5) : Statement (.tdrain g t a) :=
  fun _ => pair_of_word (Word.tdrain g t a _ rfl)

theorem tdrainAdd (g : BitVec 3) (t : BitVec 3) (a : BitVec 5) : Statement (.tdrainAdd g t a) :=
  fun _ => pair_of_word (Word.tdrainAdd g t a _ rfl)

theorem gang (g : BitVec 3) (a : BitVec 7) : Statement (.gang g a) :=
  fun _ => pair_of_word (Word.gang g a _ rfl)

theorem pcfg (g : BitVec 3) (a : BitVec 5) : Statement (.pcfg g a) :=
  fun _ => pair_of_word (Word.pcfg g a _ rfl)

theorem mstat (g : BitVec 3) (d : BitVec 7) (x : BitVec 1) (s : BitVec 1) : Statement (.mstat g d x s) :=
  fun _ => pair_of_word (Word.mstat g d x s _ rfl)

theorem tret (g : BitVec 3) : Statement (.tret g) :=
  fun _ => pair_of_word (Word.tret g _ rfl)

theorem tretAddr (g : BitVec 3) (a : BitVec 7) : Statement (.tretAddr g a) :=
  fun _ => pair_of_word (Word.tretAddr g a _ rfl)

theorem trd (g : BitVec 3) (d : BitVec 7) (s : BitVec 3) : Statement (.trd g d s) :=
  fun _ => pair_of_word (Word.trd g d s _ rfl)

theorem srd (g : BitVec 3) (d : BitVec 7) (a : BitVec 7) : Statement (.srd g d a) :=
  fun _ => pair_of_word (Word.srd g d a _ rfl)

theorem swr (g : BitVec 3) (d : BitVec 7) (a : BitVec 7) : Statement (.swr g d a) :=
  fun _ => pair_of_word (Word.swr g d a _ rfl)

theorem cinvL1 (g : BitVec 3) : Statement (.cinvL1 g) :=
  fun _ => pair_of_word (Word.cinvL1 g _ rfl)

theorem cinvC (g : BitVec 3) : Statement (.cinvC g) :=
  fun _ => pair_of_word (Word.cinvC g _ rfl)

theorem cwbMere (g : BitVec 3) (d : BitVec 7) (a : BitVec 7) : Statement (.cwbMere g d a) :=
  fun _ => pair_of_word (Word.cwbMere g d a _ rfl)

theorem mtrd (g : BitVec 3) (d : BitVec 7) (a : BitVec 7) : Statement (.mtrd g d a) :=
  fun _ => pair_of_word (Word.mtrd g d a _ rfl)

theorem evcfg (g : BitVec 3) (d : BitVec 7) (a : BitVec 7) : Statement (.evcfg g d a) :=
  fun _ => pair_of_word (Word.evcfg g d a _ rfl)

theorem evrd (g : BitVec 3) (d : BitVec 7) (a : BitVec 7) : Statement (.evrd g d a) :=
  fun _ => pair_of_word (Word.evrd g d a _ rfl)

theorem lklog (g : BitVec 3) (d : BitVec 7) (a : BitVec 7) : Statement (.lklog g d a) :=
  fun _ => pair_of_word (Word.lklog g d a _ rfl)

theorem kinj (g : BitVec 3) (a : BitVec 7) : Statement (.kinj g a) :=
  fun _ => pair_of_word (Word.kinj g a _ rfl)

theorem lim (h : BitVec 26) (w : Word) : Statement (.lim h w) := by
  show decodePair _ _ = _
  have k : encodeWord (.lim h w) = 4227858432 + h.toNat := rfl
  have m := h.isLt
  unfold decodePair
  rw [k, if_pos (by simp only [isLim, beq_iff_eq]; omega), Word.field_eq h _ 0 (by omega)]
  simp

theorem issueCycle (core : Nat) : Statement (.issueCycle core) := fun h => absurd h Bool.false_ne_true

theorem loadValueReturn (id : Nat) : Statement (.loadValueReturn id) := fun h => absurd h Bool.false_ne_true

theorem storeQueuePerform (bid : Nat) (grp : Nat) : Statement (.storeQueuePerform bid grp) := fun h => absurd h Bool.false_ne_true

theorem yieldExpiry (bid : Nat) (tid : Nat) : Statement (.yieldExpiry bid tid) := fun h => absurd h Bool.false_ne_true

theorem regacqGrant (core : Nat) (lane : Nat) : Statement (.regacqGrant core lane) := fun h => absurd h Bool.false_ne_true

theorem codeGranuleLand (core : Nat) (seg : Nat) : Statement (.codeGranuleLand core seg) := fun h => absurd h Bool.false_ne_true

theorem spawnTimerExpiry (core : Nat) (pool : Nat) : Statement (.spawnTimerExpiry core pool) := fun h => absurd h Bool.false_ne_true

theorem spawnPoolLaunch (core : Nat) (pool : Nat) : Statement (.spawnPoolLaunch core pool) := fun h => absurd h Bool.false_ne_true

theorem groupEnd (bid : Nat) (grp : Nat) : Statement (.groupEnd bid grp) := fun h => absurd h Bool.false_ne_true

theorem podBarrierFrame (dev : Nat) (tag : Nat) (mask : BitVec 64) (idx : Nat) (phase : Nat) : Statement (.podBarrierFrame dev tag mask idx phase) := fun h => absurd h Bool.false_ne_true

theorem homeReadRequest (core : Nat) (pa : Nat) (ty : HomeRead) : Statement (.homeReadRequest core pa ty) := fun h => absurd h Bool.false_ne_true

theorem homeWriteRequest (core : Nat) (line : Nat) : Statement (.homeWriteRequest core line) := fun h => absurd h Bool.false_ne_true

theorem homeAtomicRequest (bid : Nat) (grp : Nat) : Statement (.homeAtomicRequest bid grp) := fun h => absurd h Bool.false_ne_true

theorem directoryEviction (region : Nat) : Statement (.directoryEviction region) := fun h => absurd h Bool.false_ne_true

theorem leaseClockTick (die : Nat) : Statement (.leaseClockTick die) := fun h => absurd h Bool.false_ne_true

theorem leaseVisit (core : Nat) : Statement (.leaseVisit core) := fun h => absurd h Bool.false_ne_true

theorem leasecfgWrite (die : Nat) (v : Word) : Statement (.leasecfgWrite die v) := fun h => absurd h Bool.false_ne_true

theorem constantTick (die : Nat) : Statement (.constantTick die) := fun h => absurd h Bool.false_ne_true

theorem constantWrap (die : Nat) : Statement (.constantWrap die) := fun h => absurd h Bool.false_ne_true

theorem constantPauseEnd (die : Nat) : Statement (.constantPauseEnd die) := fun h => absurd h Bool.false_ne_true

theorem coreRetentionEntry (core : Nat) : Statement (.coreRetentionEntry core) := fun h => absurd h Bool.false_ne_true

theorem coreRetentionWake (core : Nat) : Statement (.coreRetentionWake core) := fun h => absurd h Bool.false_ne_true

theorem clockGateEntry (core : Nat) : Statement (.clockGateEntry core) := fun h => absurd h Bool.false_ne_true

theorem mereRetentionEntry (die : Nat) : Statement (.mereRetentionEntry die) := fun h => absurd h Bool.false_ne_true

theorem dieSleepEntry (die : Nat) : Statement (.dieSleepEntry die) := fun h => absurd h Bool.false_ne_true

theorem wakeRequest (isDie : Bool) (n : Nat) : Statement (.wakeRequest isDie n) := fun h => absurd h Bool.false_ne_true

theorem copyElementLand (cmd : Nat) (idx : Nat) : Statement (.copyElementLand cmd idx) := fun h => absurd h Bool.false_ne_true

theorem engineFaultStop (cmd : Nat) : Statement (.engineFaultStop cmd) := fun h => absurd h Bool.false_ne_true

theorem mcastLineDeliver (cmd : Nat) (idx : Nat) (core : Nat) : Statement (.mcastLineDeliver cmd idx core) := fun h => absurd h Bool.false_ne_true

theorem matrixCommandComplete (bid : Nat) (grp : Nat) : Statement (.matrixCommandComplete bid grp) := fun h => absurd h Bool.false_ne_true

theorem gangLatchFire (bid : Nat) (grp : Nat) : Statement (.gangLatchFire bid grp) := fun h => absurd h Bool.false_ne_true

theorem slotFillFault (bid : Nat) (grp : Nat) : Statement (.slotFillFault bid grp) := fun h => absurd h Bool.false_ne_true

theorem slotScrubDone (core : Nat) (idx : Nat) : Statement (.slotScrubDone core idx) := fun h => absurd h Bool.false_ne_true

theorem lockRequestAtHome (bid : Nat) (grp : Nat) : Statement (.lockRequestAtHome bid grp) := fun h => absurd h Bool.false_ne_true

theorem handOff (line : Nat) : Statement (.handOff line) := fun h => absurd h Bool.false_ne_true

theorem waiterTimeout (line : Nat) (idx : Nat) : Statement (.waiterTimeout line idx) := fun h => absurd h Bool.false_ne_true

theorem holdLimitExpiry (line : Nat) : Statement (.holdLimitExpiry line) := fun h => absurd h Bool.false_ne_true

theorem holdExpiryMessage (bid : Nat) (grp : Nat) (va : VAddr) : Statement (.holdExpiryMessage bid grp va) := fun h => absurd h Bool.false_ne_true

theorem packetReceive (p : Packet) : Statement (.packetReceive p) := fun h => absurd h Bool.false_ne_true

theorem windowWritePacket (p : Packet) : Statement (.windowWritePacket p) := fun h => absurd h Bool.false_ne_true

theorem releasePacket (p : Packet) : Statement (.releasePacket p) := fun h => absurd h Bool.false_ne_true

theorem tLostExpiry (k : EpochKey) : Statement (.tLostExpiry k) := fun h => absurd h Bool.false_ne_true

theorem tokenArrival (f : Nat) (win : Nat) (vdn : Nat) : Statement (.tokenArrival f win vdn) := fun h => absurd h Bool.false_ne_true

theorem replayRequestArrival (f : Nat) (win : Nat) (vdn : Nat) (epoch : Nat) (r : Nat) : Statement (.replayRequestArrival f win vdn epoch r) := fun h => absurd h Bool.false_ne_true

theorem rejectArrival (f : Nat) (win : Nat) (vdn : Nat) : Statement (.rejectArrival f win vdn) := fun h => absurd h Bool.false_ne_true

theorem lossMessageArrival (f : Nat) (win : Nat) (vdn : Nat) : Statement (.lossMessageArrival f win vdn) := fun h => absurd h Bool.false_ne_true

theorem flagDeniedArrival (f : Nat) (win : Nat) (vdn : Nat) : Statement (.flagDeniedArrival f win vdn) := fun h => absurd h Bool.false_ne_true

theorem resendTimeout (f : Nat) (win : Nat) (vdn : Nat) : Statement (.resendTimeout f win vdn) := fun h => absurd h Bool.false_ne_true

theorem nonpostedRequestArrival (p : Packet) : Statement (.nonpostedRequestArrival p) := fun h => absurd h Bool.false_ne_true

theorem nonpostedResponseArrival (p : Packet) : Statement (.nonpostedResponseArrival p) := fun h => absurd h Bool.false_ne_true

theorem retransmitTimeout (id : Nat) : Statement (.retransmitTimeout id) := fun h => absurd h Bool.false_ne_true

theorem fibreLeaveStripe (g : Nat) (fibre : FibreFault) : Statement (.fibreLeaveStripe g fibre) := fun h => absurd h Bool.false_ne_true

theorem fibreTest (g : Nat) (fibre : Nat) (good : Bool) : Statement (.fibreTest g fibre good) := fun h => absurd h Bool.false_ne_true

theorem keyPhaseChange (k : LinkKey) : Statement (.keyPhaseChange k) := fun h => absurd h Bool.false_ne_true

theorem keyPhaseOverlapEnd (k : LinkKey) : Statement (.keyPhaseOverlapEnd k) := fun h => absurd h Bool.false_ne_true

theorem oxbowForward (p : Packet) : Statement (.oxbowForward p) := fun h => absurd h Bool.false_ne_true

theorem oxbowWindowExpiry (f : Nat) : Statement (.oxbowWindowExpiry f) := fun h => absurd h Bool.false_ne_true

theorem vdnSwitchFrame (srcDev : Nat) (srcFun : Nat) (dstDev : Nat) (dstFun : Nat) (mtag : Nat) : Statement (.vdnSwitchFrame srcDev srcFun dstDev dstFun mtag) := fun h => absurd h Bool.false_ne_true

theorem vdnSwitchAck (f : Nat) (dev : Nat) : Statement (.vdnSwitchAck f dev) := fun h => absurd h Bool.false_ne_true

theorem vdneWrite (f : Nat) (v : Nat) (x : Word) : Statement (.vdneWrite f v x) := fun h => absurd h Bool.false_ne_true

theorem doorbellWrite (f : Nat) (q : Nat) (x : Word) : Statement (.doorbellWrite f q x) := fun h => absurd h Bool.false_ne_true

theorem queueEnable (f : Nat) (q : Nat) : Statement (.queueEnable f q) := fun h => absurd h Bool.false_ne_true

theorem queueDisable (f : Nat) (q : Nat) : Statement (.queueDisable f q) := fun h => absurd h Bool.false_ne_true

theorem queueSetSize (f : Nat) (q : Nat) (n : Nat) : Statement (.queueSetSize f q n) := fun h => absurd h Bool.false_ne_true

theorem queueAbort (f : Nat) (q : Nat) : Statement (.queueAbort f q) := fun h => absurd h Bool.false_ne_true

theorem recordRead (f : Nat) (q : Nat) : Statement (.recordRead f q) := fun h => absurd h Bool.false_ne_true

theorem recordFinish (lid : Nat) : Statement (.recordFinish lid) := fun h => absurd h Bool.false_ne_true

theorem copyRecordComplete (lid : Nat) : Statement (.copyRecordComplete lid) := fun h => absurd h Bool.false_ne_true

theorem keySlotLoad (lid : Nat) (slot : Nat) : Statement (.keySlotLoad lid slot) := fun h => absurd h Bool.false_ne_true

theorem blockPlace (lid : Nat) (core : Nat) (core2 : Nat) : Statement (.blockPlace lid core core2) := fun h => absurd h Bool.false_ne_true

theorem timeSliceExpiry (bid : Nat) : Statement (.timeSliceExpiry bid) := fun h => absurd h Bool.false_ne_true

theorem tlbMissWalk (w : WalkReq) : Statement (.tlbMissWalk w) := fun h => absurd h Bool.false_ne_true

theorem walkComplete (w : WalkReq) : Statement (.walkComplete w) := fun h => absurd h Bool.false_ne_true

theorem shootdownVaRange (c : ShootCmd) : Statement (.shootdownVaRange c) := fun h => absurd h Bool.false_ne_true

theorem shootdownAsid (c : ShootCmd) : Statement (.shootdownAsid c) := fun h => absurd h Bool.false_ne_true

theorem shootdownIpaRange (c : ShootCmd) : Statement (.shootdownIpaRange c) := fun h => absurd h Bool.false_ne_true

theorem shootdownFunction (c : ShootCmd) : Statement (.shootdownFunction c) := fun h => absurd h Bool.false_ne_true

theorem shootdownComplete (blk : Nat) : Statement (.shootdownComplete blk) := fun h => absurd h Bool.false_ne_true

theorem pageMigration (v : Word) : Statement (.pageMigration v) := fun h => absurd h Bool.false_ne_true

theorem pageMigrationComplete : Statement (.pageMigrationComplete) := fun h => absurd h Bool.false_ne_true

theorem ownerAssign (handle : Nat) : Statement (.ownerAssign handle) := fun h => absurd h Bool.false_ne_true

theorem ownerRelease (handle : Nat) : Statement (.ownerRelease handle) := fun h => absurd h Bool.false_ne_true

theorem deferredTrapArrival (bid : Nat) (tid : Nat) (cause : Nat) (addr : VAddr) (aux : Word) : Statement (.deferredTrapArrival bid tid cause addr aux) := fun h => absurd h Bool.false_ne_true

theorem trapTake (bid : Nat) (tid : Nat) : Statement (.trapTake bid tid) := fun h => absurd h Bool.false_ne_true

theorem watchdogExpiry (bid : Nat) : Statement (.watchdogExpiry bid) := fun h => absurd h Bool.false_ne_true

theorem haltRequest (bid : Nat) : Statement (.haltRequest bid) := fun h => absurd h Bool.false_ne_true

theorem drainComplete (bid : Nat) : Statement (.drainComplete bid) := fun h => absurd h Bool.false_ne_true

theorem blockResume (bid : Nat) (core : Nat) (core2 : Nat) : Statement (.blockResume bid core core2) := fun h => absurd h Bool.false_ne_true

theorem functionLevelReset (f : Nat) : Statement (.functionLevelReset f) := fun h => absurd h Bool.false_ne_true

theorem playoutWrite (v : Word) : Statement (.playoutWrite v) := fun h => absurd h Bool.false_ne_true

theorem milvWrite (die : Nat) (v : Word) : Statement (.milvWrite die v) := fun h => absurd h Bool.false_ne_true

theorem nbndWrite (v : Word) : Statement (.nbndWrite v) := fun h => absurd h Bool.false_ne_true

theorem vfEnable (f : Nat) : Statement (.vfEnable f) := fun h => absurd h Bool.false_ne_true

theorem vfLock (f : Nat) : Statement (.vfLock f) := fun h => absurd h Bool.false_ne_true

theorem vfUnlock (f : Nat) : Statement (.vfUnlock f) := fun h => absurd h Bool.false_ne_true

theorem vfStart (f : Nat) : Statement (.vfStart f) := fun h => absurd h Bool.false_ne_true

theorem vfStartComplete (f : Nat) : Statement (.vfStartComplete f) := fun h => absurd h Bool.false_ne_true

theorem vfQuiesce (f : Nat) : Statement (.vfQuiesce f) := fun h => absurd h Bool.false_ne_true

theorem vfQuiesceComplete (f : Nat) : Statement (.vfQuiesceComplete f) := fun h => absurd h Bool.false_ne_true

theorem vfResume (f : Nat) : Statement (.vfResume f) := fun h => absurd h Bool.false_ne_true

theorem vfSave (f : Nat) : Statement (.vfSave f) := fun h => absurd h Bool.false_ne_true

theorem vfDisable (f : Nat) : Statement (.vfDisable f) := fun h => absurd h Bool.false_ne_true

theorem lockedSetWrite (num : Nat) (v : Word) : Statement (.lockedSetWrite num v) := fun h => absurd h Bool.false_ne_true

theorem migTrack (f : Nat) : Statement (.migTrack f) := fun h => absurd h Bool.false_ne_true

theorem migCopy (f : Nat) : Statement (.migCopy f) := fun h => absurd h Bool.false_ne_true

theorem migAccept (f : Nat) : Statement (.migAccept f) := fun h => absurd h Bool.false_ne_true

theorem migLoad (f : Nat) : Statement (.migLoad f) := fun h => absurd h Bool.false_ne_true

theorem migSwitch (f : Nat) : Statement (.migSwitch f) := fun h => absurd h Bool.false_ne_true

theorem migAbort (f : Nat) : Statement (.migAbort f) := fun h => absurd h Bool.false_ne_true

theorem migEnd (f : Nat) : Statement (.migEnd f) := fun h => absurd h Bool.false_ne_true

theorem migRestore (f : Nat) : Statement (.migRestore f) := fun h => absurd h Bool.false_ne_true

theorem seepPass (f : Nat) : Statement (.seepPass f) := fun h => absurd h Bool.false_ne_true

theorem seepWriteArrival (p : Packet) : Statement (.seepWriteArrival p) := fun h => absurd h Bool.false_ne_true

theorem finalPassComplete (f : Nat) : Statement (.finalPassComplete f) := fun h => absurd h Bool.false_ne_true

theorem imageReleaseArrival (p : Packet) : Statement (.imageReleaseArrival p) := fun h => absurd h Bool.false_ne_true

theorem migAbortArrival (f : Nat) (srcDev : Nat) : Statement (.migAbortArrival f srcDev) := fun h => absurd h Bool.false_ne_true

theorem hostPortRead (pa : HostAccess) (n : Nat) : Statement (.hostPortRead pa n) := fun h => absurd h Bool.false_ne_true

theorem hostPortWrite (pa : HostAccess) (data : List Byte) : Statement (.hostPortWrite pa data) := fun h => absurd h Bool.false_ne_true

theorem lvqEntryArrival (bid : Nat) (tid : Nat) : Statement (.lvqEntryArrival bid tid) := fun h => absurd h Bool.false_ne_true

theorem compareEntryMatch (bid : Nat) (tid : Nat) : Statement (.compareEntryMatch bid tid) := fun h => absurd h Bool.false_ne_true

theorem compareTimeout (bid : Nat) (tid : Nat) : Statement (.compareTimeout bid tid) := fun h => absurd h Bool.false_ne_true

theorem patrolScrub (u : ScrubUnit) : Statement (.patrolScrub u) := fun h => absurd h Bool.false_ne_true

theorem uncorrectableError (u : ErrorSite) : Statement (.uncorrectableError u) := fun h => absurd h Bool.false_ne_true

theorem rasceClear (die : Nat) : Statement (.rasceClear die) := fun h => absurd h Bool.false_ne_true

theorem rasueClear (v : Word) : Statement (.rasueClear v) := fun h => absurd h Bool.false_ne_true

theorem powerOn (img : BootImages) : Statement (.powerOn img) := fun h => absurd h Bool.false_ne_true

theorem measurementExtend (reg : Nat) (h : BitVec 384) : Statement (.measurementExtend reg h) := fun h => absurd h Bool.false_ne_true

theorem getVersion : Statement (.getVersion) := fun h => absurd h Bool.false_ne_true

theorem getCapabilities : Statement (.getCapabilities) := fun h => absurd h Bool.false_ne_true

theorem negotiateAlgorithms : Statement (.negotiateAlgorithms) := fun h => absurd h Bool.false_ne_true

theorem getDigests : Statement (.getDigests) := fun h => absurd h Bool.false_ne_true

theorem getCertificate : Statement (.getCertificate) := fun h => absurd h Bool.false_ne_true

theorem challenge (nonce : BitVec 256) : Statement (.challenge nonce) := fun h => absurd h Bool.false_ne_true

theorem getMeasurements (idx : Nat) (nonce : BitVec 256) : Statement (.getMeasurements idx nonce) := fun h => absurd h Bool.false_ne_true

theorem keyExchange (nonce : BitVec 256) : Statement (.keyExchange nonce) := fun h => absurd h Bool.false_ne_true

theorem finish : Statement (.finish) := fun h => absurd h Bool.false_ne_true

theorem endSession : Statement (.endSession) := fun h => absurd h Bool.false_ne_true

theorem keyInstall (handle : Nat) (gen : Nat) : Statement (.keyInstall handle gen) := fun h => absurd h Bool.false_ne_true

theorem keyRemove (handle : Nat) : Statement (.keyRemove handle) := fun h => absurd h Bool.false_ne_true

theorem keyRotate (handle : Nat) : Statement (.keyRotate handle) := fun h => absurd h Bool.false_ne_true

theorem linkSecretInstall (f : Nat) (secret : BitVec 256) : Statement (.linkSecretInstall f secret) := fun h => absurd h Bool.false_ne_true

theorem sysregWrite (num : Nat) (v : Word) (die : Nat) (part : Nat) : Statement (.sysregWrite num v die part) := fun h => absurd h Bool.false_ne_true

theorem localPortAccept (id : Nat) : Statement (.localPortAccept id) := fun h => absurd h Bool.false_ne_true

theorem ideKeyProgram (keys : Bool) : Statement (.ideKeyProgram keys) := fun h => absurd h Bool.false_ne_true

theorem controlCreditReturn (dev : Nat) : Statement (.controlCreditReturn dev) := fun h => absurd h Bool.false_ne_true

end Sys2Proof.Laws.Encoding
end

