-- ==== Sys2Proof/Safety.lean ====
section
/-! DEFINITION. The terms in which claims are stated: the canonical form of the memories, when the threads of an issue set run an
instruction, and what an issue leaves. No run of this machine ends in a fault or a refusal, so every run is a safe one. -/

namespace Sys2Proof.Machine

/-- The memories and the register tables of a state are in canonical form: equal contents are equal data, and a register reads as
last written (log entry 3). -/
def State.Inv (s : State) : Prop :=
  s.mem.wf = true ∧ s.host.wf = true ∧ s.sysregs.wf sysReset = true ∧ s.bar0.wf barReset = true ∧
  (s.cores.wf fun _ => Core.reset) = true ∧ (s.dies.wf fun _ => Die.reset) = true ∧ (s.sessions.wf fun _ => Session.reset) = true ∧
  (s.measure.wf fun _ => 0) = true ∧ (s.linkSecrets.wf fun _ => 0) = true ∧ (s.credits.wf fun _ => 0) = true

/-- A thread passes the checks of R36 at an instruction: it is legal, and outside a handler if it is a collective and inside one if
it needs one (R35, R372); the block's level allows it (R33); the thread is ready (R74); and where its guard reads true, every
register that the instruction names is allocated (R24). -/
def State.Runs (s : State) (i : Instr) (t : Thread) : Prop :=
  i.wf = true ∧ (i.level = .handler → t.inHandler = true) ∧ (i.collective = true → t.inHandler = false) ∧
  levelAllows (s.levelOf t.bid) i.level = true ∧ s.ready s.nextId t i = true ∧ (t.pred i.guard = true → t.covers i = true)

/-- Every thread of an issue set passes the checks. -/
def State.SetRuns (s : State) (p : IssueSet) (i : Instr) : Prop := ∀ t ∈ s.threads, p.members.contains t.key = true → s.Runs i t

/-- The meters after an issue: each thread whose guard reads true counts the instruction's vector operations (R440). -/
def State.vecMeters (s : State) (p : IssueSet) (i : Instr) : Tab (BitVec 64) :=
  (((s.membersOf p).filter fun t => t.pred i.guard).foldl (fun s t => s.countVec p.core t.bid i.vecOps) s).meters

/-- The state after an issue that acts on its own threads alone: `f` on those whose guard reads true, the next PC for the others of the
set, and the meters. Nothing else changes. -/
def State.stepped (s : State) (p : IssueSet) (i : Instr) (f : Thread → Thread) : State :=
  { s with
    threads := s.threads.map fun t => if p.members.contains t.key then (if t.pred i.guard then f t else t.next i.len) else t,
    meters := s.vecMeters p i }

/-- An instruction that does `f` to each thread whose guard reads true, in every state in which its threads pass the checks and
satisfy `ok`. -/
def PerformsWhere (i : Instr) (ok : State → Thread → Prop) (f : State → Thread → Thread) : Prop :=
  ∀ (s : State) (p : IssueSet) (rest : List IssueSet), s.ports = p :: rest → s.SetRuns p i →
    (∀ t ∈ s.threads, p.members.contains t.key = true → t.pred i.guard = true → ok s t) →
    exec i s = .next ((s.stepped p i (f s)).endIssue rest)

/-- The same without a condition of its own. -/
def Performs (i : Instr) (f : Thread → Thread) : Prop := PerformsWhere i (fun _ _ => True) fun _ => f

/-- The block of a thread has no redundant twin (R314). -/
def State.Solo (s : State) (bid : Nat) : Prop := ∀ b, s.block? bid = some b → b.role = .solo

/-- The issue set at the port holds one thread, `t`, the only one of its key, which passes the checks, has a true guard and has no
twin. -/
def State.Alone (s : State) (i : Instr) (k : ThreadKey) (t : Thread) (rest : List IssueSet) : Prop :=
  ((∃ p, s.ports = p :: rest ∧ p.members = [k]) ∧ s.thread? k = some t ∧ s.Runs i t ∧ t.pred i.guard = true ∧ s.Solo t.bid) ∧
  ∀ u ∈ s.threads, u.key = k → u = t

/-- A thread comes to stand at an instruction with its registers ready: it is awake, passes the checks of R36 and has a true guard. -/
def State.Comes (s : State) (i : Instr) (t : Thread) : Prop :=
  s.fetchFor t = .ok i ∧ t.wait = .none ∧ s.trapsFirst t i = false ∧ s.awake t = true ∧ t.busyP.contains i.guard = false ∧
  t.pred i.guard = true ∧ t.interlocked i = false ∧ t.covers i = true

/-- The issue takes a number. -/
def State.numbered (s : State) : State := { s with nextId := s.nextId + 1 }

/-- The group counts the issue, and no longer when nothing of it is under way (R84). -/
def State.counted (s : State) (i : Instr) (bid grp tok : Nat) : State :=
  match i.counter with
  | none => s
  | some c => (s.updGroup bid grp fun g => g.addCnt c 1).settleCnt bid grp c tok

/-- The issue set holds threads of one group alone, at whose collective the group fires (R130), and every one of them passes the checks;
the group has no twin, and some guard reads true. -/
def State.Gathers (s : State) (i : Instr) (p : IssueSet) (rest : List IssueSet) (bid grp : Nat) : Prop :=
  s.ports = p :: rest ∧ s.groupsOf p = [(bid, grp)] ∧ s.fires bid grp p = true ∧ (∀ t ∈ s.standers bid grp p, s.Runs i t) ∧
  s.Solo bid ∧ (s.standers bid grp p).any (fun t => t.pred i.guard) = true

/-- The participants of a collective (R129). -/
def State.parts (s : State) (i : Instr) (p : IssueSet) (bid grp : Nat) : List Thread :=
  (s.standers bid grp p).filter fun t => t.pred i.guard

/-- A collective that gives each participant the result `f` of the participants and the thread itself, and moves every stander on. -/
def GathersTo (i : Instr) (f : List Thread → Thread → Thread) : Prop :=
  ∀ (s : State) (p : IssueSet) (rest : List IssueSet) (bid grp : Nat), s.Gathers i p rest bid grp →
    exec i s = .next (((s.numbered.collect (s.parts i p bid grp) (f (s.parts i p bid grp))).advanceGroup i p.pc bid grp
      (s.standers bid grp p)).endIssue rest)

/-- Writes the code of a rounded result to d and records its conditions, without NX where NV is raised (R61). -/
def fpTo (d : Nat) (r : Nat × Conds) (t : Thread) : Thread := (t.setReg d r.1).raise (settle r.2)

end Sys2Proof.Machine
end

