-- ==== Sys2Proof/Certificates/Slice0/Obligations.lean ====
section
/-! DEFINITION. The statements about the machine that the provers prove. `Performs`, `Alone` and the other terms are those of
`Sys2Proof/Safety.lean`. -/

open Sys2Proof Sys2Proof.Machine

/-- R88: what each arithmetic function writes to d, for every thread of the issue set, and nothing else. -/
def Obligations.IntegerArithmetic : Prop :=
  ∀ (g : BitVec 3) (d a b : BitVec 7),
    Performs (.addB32 g d a b) (fun t => (t.setReg d.toNat ((t.reg a.toNat + t.reg b.toNat) % 2 ^ 32)).next 4) ∧
    Performs (.subB32 g d a b) (fun t => (t.setReg d.toNat (low 32 ((t.reg a.toNat : Int) - t.reg b.toNat))).next 4) ∧
    Performs (.addB64 g d a b) (fun t => (t.setPair d.toNat ((t.pair a.toNat + t.pair b.toNat) % 2 ^ 64)).next 4) ∧
    Performs (.subB64 g d a b) (fun t => (t.setPair d.toNat (low 64 ((t.pair a.toNat : Int) - t.pair b.toNat))).next 4) ∧
    Performs (.addcB32 g d a b) (fun t => (t.setReg d.toNat (if 2 ^ 32 ≤ t.reg a.toNat + t.reg b.toNat then 1 else 0)).next 4) ∧
    Performs (.subcB32 g d a b) (fun t => (t.setReg d.toNat (if t.reg a.toNat < t.reg b.toNat then 1 else 0)).next 4) ∧
    Performs (.mulLoB32 g d a b) (fun t => (t.setReg d.toNat (t.reg a.toNat * t.reg b.toNat % 2 ^ 32)).next 4) ∧
    Performs (.mulHiZB32 g d a b) (fun t => (t.setReg d.toNat (bits (t.reg a.toNat * t.reg b.toNat) 63 32)).next 4) ∧
    Performs (.mulHiSB32 g d a b) (fun t => (t.setReg d.toNat (bits (low 64 (sgn 32 (t.reg a.toNat) * sgn 32 (t.reg b.toNat))) 63 32)).next 4) ∧
    Performs (.mulWideZ g d a b) (fun t => (t.setPair d.toNat (t.reg a.toNat * t.reg b.toNat)).next 4) ∧
    Performs (.mulWideS g d a b) (fun t => (t.setPair d.toNat (low 64 (sgn 32 (t.reg a.toNat) * sgn 32 (t.reg b.toNat)))).next 4) ∧
    Performs (.madLoB32 g d a b) (fun t => (t.setReg d.toNat ((t.reg a.toNat * t.reg b.toNat + t.reg d.toNat) % 2 ^ 32)).next 4) ∧
    Performs (.minSB32 g d a b) (fun t => (t.setReg d.toNat (if sgn 32 (t.reg a.toNat) ≤ sgn 32 (t.reg b.toNat) then t.reg a.toNat else t.reg b.toNat)).next 4) ∧
    Performs (.maxSB32 g d a b) (fun t => (t.setReg d.toNat (if sgn 32 (t.reg a.toNat) ≥ sgn 32 (t.reg b.toNat) then t.reg a.toNat else t.reg b.toNat)).next 4) ∧
    Performs (.minZB32 g d a b) (fun t => (t.setReg d.toNat (if t.reg a.toNat ≤ t.reg b.toNat then t.reg a.toNat else t.reg b.toNat)).next 4) ∧
    Performs (.maxZB32 g d a b) (fun t => (t.setReg d.toNat (if t.reg a.toNat ≥ t.reg b.toNat then t.reg a.toNat else t.reg b.toNat)).next 4)

/-- R89: shifts by the whole of B, rotation, bitwise functions and the counts. -/
def Obligations.ShiftsAndBits : Prop :=
  ∀ (g : BitVec 3) (d a b : BitVec 7),
    Performs (.shlB32 g d a b) (fun t => (t.setReg d.toNat (t.reg a.toNat * 2 ^ t.reg b.toNat % 2 ^ 32)).next 4) ∧
    Performs (.shlB64 g d a b) (fun t => (t.setPair d.toNat (t.pair a.toNat * 2 ^ t.reg b.toNat % 2 ^ 64)).next 4) ∧
    Performs (.shrZB32 g d a b) (fun t => (t.setReg d.toNat (t.reg a.toNat / 2 ^ t.reg b.toNat)).next 4) ∧
    Performs (.shrZB64 g d a b) (fun t => (t.setPair d.toNat (t.pair a.toNat / 2 ^ t.reg b.toNat)).next 4) ∧
    Performs (.shrSB32 g d a b) (fun t => (t.setReg d.toNat (low 32 (sgn 32 (t.reg a.toNat) / ((2 ^ t.reg b.toNat : Nat) : Int)))).next 4) ∧
    Performs (.shrSB64 g d a b) (fun t => (t.setPair d.toNat (low 64 (sgn 64 (t.pair a.toNat) / ((2 ^ t.reg b.toNat : Nat) : Int)))).next 4) ∧
    Performs (.rotB32 g d a b) (fun t => (t.setReg d.toNat ((t.reg a.toNat * 2 ^ (t.reg b.toNat % 32) ||| t.reg a.toNat / 2 ^ (32 - t.reg b.toNat % 32)) % 2 ^ 32)).next 4) ∧
    Performs (.andB32 g d a b) (fun t => (t.setReg d.toNat (t.reg a.toNat &&& t.reg b.toNat)).next 4) ∧
    Performs (.orB32 g d a b) (fun t => (t.setReg d.toNat (t.reg a.toNat ||| t.reg b.toNat)).next 4) ∧
    Performs (.xorB32 g d a b) (fun t => (t.setReg d.toNat (t.reg a.toNat ^^^ t.reg b.toNat)).next 4) ∧
    Performs (.andnB32 g d a b) (fun t => (t.setReg d.toNat (t.reg a.toNat &&& (2 ^ 32 - 1 - t.reg b.toNat))).next 4) ∧
    Performs (.popcB32 g d a) (fun t => (t.setReg d.toNat (((List.range 32).filter fun n => bit (t.reg a.toNat) n).length)).next 4) ∧
    Performs (.clzB32 g d a) (fun t => (t.setReg d.toNat (if t.reg a.toNat = 0 then 32 else 31 - (t.reg a.toNat).log2)).next 4)

/-- R90: each result bit of `bfi.b32`; `bfx.b32` as the clipped field with its sign; each result byte of `bsel.b32`. -/
def Obligations.BitFields : Prop :=
  (∀ (g : BitVec 3) (d a b : BitVec 7),
    Performs (.bselB32 g d a b) (fun t => (t.setReg d.toNat (bsel (t.pair a.toNat) (t.reg b.toNat))).next 4) ∧
    Performs (.bfxB32 g d a b) (fun t => (t.setReg d.toNat (bfx (t.reg a.toNat) (t.reg b.toNat))).next 4) ∧
    Performs (.bfiB32 g d a b) (fun t => (t.setReg d.toNat (bfi (t.reg a.toNat) (t.reg d.toNat) (t.reg b.toNat))).next 4)) ∧
  (∀ x b i, i < 4 → bsel x b / 2 ^ (8 * i) % 256 =
    (let y := x / 2 ^ (8 * bits b (3 * i + 2) (3 * i)) % 256
     if bit b (12 + i) then (if bit y 7 then 255 else 0) else y)) ∧
  (∀ x b q n, q = min (bits b 7 0) 32 → n = min (bits b 15 8) (32 - q) →
    bfx x b = (if bit b 16 ∧ 0 < n ∧ bit x (q + n - 1) then low 32 (x / 2 ^ q % 2 ^ n - (2 ^ n : Nat)) else x / 2 ^ q % 2 ^ n) ∧
    ∀ old k, k < 32 → bit (bfi x old b) k = if q ≤ k ∧ k < q + n then bit x (k - q) else bit old k)

/-- R91 without `lim`, R92 and R93: immediate forms, each relation of the compares written to its predicate, select and moves. -/
def Obligations.ImmediatesMovesAndCompares : Prop :=
  (∀ (g : BitVec 3) (d a b : BitVec 7) (i : BitVec 9) (m : BitVec 16),
    Performs (.addi g d a i) (fun t => (t.setReg d.toNat (low 32 ((t.reg a.toNat : Int) + sgn 9 i.toNat))).next 4) ∧
    Performs (.addiB64 g d a i) (fun t => (t.setPair d.toNat (low 64 ((t.pair a.toNat : Int) + sgn 9 i.toNat))).next 4) ∧
    Performs (.movi g d m) (fun t => (t.setReg d.toNat (low 32 (sgn 16 m.toNat))).next 4) ∧
    Performs (.selB32 g d a b) (fun t => (t.setReg d.toNat (if t.reg d.toNat = 0 then t.reg b.toNat else t.reg a.toNat)).next 4) ∧
    Performs (.movB32 g d a) (fun t => (t.setReg d.toNat (t.reg a.toNat)).next 4)) ∧
  (∀ (g p : BitVec 3) (a b : BitVec 7),
    Performs (.cmpEqB32 g p a b) (fun t => (t.setPred p.toNat (decide (t.reg a.toNat = t.reg b.toNat))).next 4) ∧
    Performs (.cmpNeB32 g p a b) (fun t => (t.setPred p.toNat (decide (t.reg a.toNat ≠ t.reg b.toNat))).next 4) ∧
    Performs (.cmpLtSB32 g p a b) (fun t => (t.setPred p.toNat (decide (sgn 32 (t.reg a.toNat) < sgn 32 (t.reg b.toNat)))).next 4) ∧
    Performs (.cmpLtZB32 g p a b) (fun t => (t.setPred p.toNat (decide (t.reg a.toNat < t.reg b.toNat))).next 4) ∧
    Performs (.cmpLeSB32 g p a b) (fun t => (t.setPred p.toNat (decide (sgn 32 (t.reg a.toNat) ≤ sgn 32 (t.reg b.toNat)))).next 4) ∧
    Performs (.cmpLeZB32 g p a b) (fun t => (t.setPred p.toNat (decide (t.reg a.toNat ≤ t.reg b.toNat))).next 4) ∧
    Performs (.cmpEqB64 g p a b) (fun t => (t.setPred p.toNat (decide (t.pair a.toNat = t.pair b.toNat))).next 4) ∧
    Performs (.cmpLtSB64 g p a b) (fun t => (t.setPred p.toNat (decide (sgn 64 (t.pair a.toNat) < sgn 64 (t.pair b.toNat)))).next 4) ∧
    Performs (.cmpLtZB64 g p a b) (fun t => (t.setPred p.toNat (decide (t.pair a.toNat < t.pair b.toNat))).next 4))

/-- R94: the predicate functions, p7 reading true (R25). -/
def Obligations.PredicateFunctions : Prop :=
  (∀ t : Thread, t.pred 7 = true) ∧
  ∀ (g p q r : BitVec 3) (d a : BitVec 7),
    Performs (.pand g p q r) (fun t => (t.setPred p.toNat (t.pred q.toNat && t.pred r.toNat)).next 4) ∧
    Performs (.por g p q r) (fun t => (t.setPred p.toNat (t.pred q.toNat || t.pred r.toNat)).next 4) ∧
    Performs (.pxor g p q r) (fun t => (t.setPred p.toNat (t.pred q.toNat != t.pred r.toNat)).next 4) ∧
    Performs (.pnot g p q) (fun t => (t.setPred p.toNat (!t.pred q.toNat)).next 4) ∧
    Performs (.p2v g d q) (fun t => (t.setReg d.toNat (if t.pred q.toNat then 1 else 0)).next 4) ∧
    Performs (.v2p g p a) (fun t => (t.setPred p.toNat (decide (t.reg a.toNat ≠ 0))).next 4)

/-- R114: one rounding of the exact result, with its conditions (R61); `fpTo` writes the code and records the conditions. Then the worked examples of R114, R119 and R136. -/
def Obligations.FloatArithmetic : Prop :=
  (∀ (g : BitVec 3) (d a b : BitVec 7),
    Performs (.fadd g d a b) (fun t => (fpTo d.toNat (rne .fp32 .rn (Val.add .rn (Fmt.fp32.decode (t.reg a.toNat)) (Fmt.fp32.decode (t.reg b.toNat)))) t).next 4) ∧
    Performs (.fsub g d a b) (fun t => (fpTo d.toNat (rne .fp32 .rn (Val.add .rn (Fmt.fp32.decode (t.reg a.toNat)) (Fmt.fp32.decode (t.reg b.toNat)).neg)) t).next 4) ∧
    Performs (.fmul g d a b) (fun t => (fpTo d.toNat (rne .fp32 .rn (Val.mul (Fmt.fp32.decode (t.reg a.toNat)) (Fmt.fp32.decode (t.reg b.toNat)))) t).next 4) ∧
    Performs (.ffma g d a b) (fun t => (fpTo d.toNat (rne .fp32 .rn (Val.add .rn (Val.mul (Fmt.fp32.decode (t.reg a.toNat)) (Fmt.fp32.decode (t.reg b.toNat))) (Fmt.fp32.decode (t.reg d.toNat)))) t).next 4)) ∧
  (ffmaC .fp32 .rn 0x3F800800 0x3F800800 0xBF800000 = (0x3A000400, 0) ∧
  fmulC .fp32 .rn 0x3F800800 0x3F800800 = (0x3F801000, Conds.nx) ∧ faddC .fp32 .rn 0x3F801000 0xBF800000 = (0x3A000000, 0) ∧
  packed3 .bf16 (ffmaC .bf16 .rn) 0x40003F80 0x7F803F80 0xFF80BF80 = (0x7FC00000, Conds.nv) ∧
  gredFadd ((List.range 32).map fun n => if n = 0 then some 0x4B800000 else if n = 1 ∨ n = 2 then some 0x3F800000 else none) =
    (0x4B800000, Conds.nx))

/-- R115, R116, R117: minimum and maximum numbers, compares with their NV, and the sign functions. -/
def Obligations.FloatMinMaxCompareSign : Prop :=
  (∀ (g p : BitVec 3) (d a b : BitVec 7),
    Performs (.fmin g d a b) (fun t => (t.setFp d.toNat (fminmaxC false .fp32 (t.reg a.toNat) (t.reg b.toNat))).next 4) ∧
    Performs (.fmax g d a b) (fun t => (t.setFp d.toNat (fminmaxC true .fp32 (t.reg a.toNat) (t.reg b.toNat))).next 4) ∧
    Performs (.fcmpEq g p a b) (fun t => ((t.setPred p.toNat ((Fmt.fp32.decode (t.reg a.toNat)).eq (Fmt.fp32.decode (t.reg b.toNat)))).raise (quietNv (Fmt.fp32.decode (t.reg a.toNat)) (Fmt.fp32.decode (t.reg b.toNat)))).next 4) ∧
    Performs (.fcmpLt g p a b) (fun t => ((t.setPred p.toNat ((Fmt.fp32.decode (t.reg a.toNat)).lt (Fmt.fp32.decode (t.reg b.toNat)))).raise (if (Fmt.fp32.decode (t.reg a.toNat)).isNan || (Fmt.fp32.decode (t.reg b.toNat)).isNan then Conds.nv else 0)).next 4) ∧
    Performs (.fcmpLe g p a b) (fun t => ((t.setPred p.toNat ((Fmt.fp32.decode (t.reg a.toNat)).lt (Fmt.fp32.decode (t.reg b.toNat)) || (Fmt.fp32.decode (t.reg a.toNat)).eq (Fmt.fp32.decode (t.reg b.toNat)))).raise (if (Fmt.fp32.decode (t.reg a.toNat)).isNan || (Fmt.fp32.decode (t.reg b.toNat)).isNan then Conds.nv else 0)).next 4) ∧
    Performs (.fcmpUn g p a b) (fun t => ((t.setPred p.toNat ((Fmt.fp32.decode (t.reg a.toNat)).isNan || (Fmt.fp32.decode (t.reg b.toNat)).isNan)).raise (quietNv (Fmt.fp32.decode (t.reg a.toNat)) (Fmt.fp32.decode (t.reg b.toNat)))).next 4) ∧
    Performs (.fabs g d a) (fun t => (t.setReg d.toNat (t.reg a.toNat % 2 ^ 31)).next 4) ∧
    Performs (.fneg g d a) (fun t => (t.setReg d.toNat (t.reg a.toNat ^^^ 2 ^ 31)).next 4)) ∧
  (∀ x y : Nat, x < 2 ^ 32 → y < 2 ^ 32 → let u := Fmt.fp32.decode x; let v := Fmt.fp32.decode y
    (u.isNan = false → v.isNan = false → u.lt v = true → (fminmaxC false .fp32 x y).1 = x ∧ (fminmaxC true .fp32 x y).1 = y) ∧
    (u.isNan = true → v.isNan = false → (fminmaxC false .fp32 x y).1 = y ∧ (fminmaxC true .fp32 x y).1 = y) ∧
    (u.isNan = false → v.isNan = true → (fminmaxC false .fp32 x y).1 = x ∧ (fminmaxC true .fp32 x y).1 = x) ∧
    (u.isNan = true → v.isNan = true → (fminmaxC false .fp32 x y).1 = 0x7FC00000 ∧ (fminmaxC true .fp32 x y).1 = 0x7FC00000) ∧
    (fminmaxC false .fp32 x y).2 = quietNv u v ∧ (fminmaxC true .fp32 x y).2 = quietNv u v) ∧
  (fminmaxC false .fp32 0 0x80000000).1 = 0x80000000 ∧ (fminmaxC false .fp32 0x80000000 0).1 = 0x80000000 ∧
  (fminmaxC true .fp32 0 0x80000000).1 = 0 ∧ (fminmaxC true .fp32 0x80000000 0).1 = 0

/-- R119 and R120: two independent elements of 16 bits, and the fused two-term dot product. -/
def Obligations.PackedArithmetic : Prop :=
  (∀ (g : BitVec 3) (d a b : BitVec 7),
    Performs (.faddF16x2 g d a b) (fun t => (t.setFp d.toNat (packed2 .fp16 (faddC .fp16 .rn) (t.reg a.toNat) (t.reg b.toNat))).next 4) ∧
    Performs (.fsubF16x2 g d a b) (fun t => (t.setFp d.toNat (packed2 .fp16 (fsubC .fp16 .rn) (t.reg a.toNat) (t.reg b.toNat))).next 4) ∧
    Performs (.fmulF16x2 g d a b) (fun t => (t.setFp d.toNat (packed2 .fp16 (fmulC .fp16 .rn) (t.reg a.toNat) (t.reg b.toNat))).next 4) ∧
    Performs (.ffmaF16x2 g d a b) (fun t => (t.setFp d.toNat (packed3 .fp16 (ffmaC .fp16 .rn) (t.reg a.toNat) (t.reg b.toNat) (t.reg d.toNat))).next 4) ∧
    Performs (.fminF16x2 g d a b) (fun t => (t.setFp d.toNat (packed2 .fp16 (fminmaxC false .fp16) (t.reg a.toNat) (t.reg b.toNat))).next 4) ∧
    Performs (.fmaxF16x2 g d a b) (fun t => (t.setFp d.toNat (packed2 .fp16 (fminmaxC true .fp16) (t.reg a.toNat) (t.reg b.toNat))).next 4) ∧
    Performs (.faddBf16x2 g d a b) (fun t => (t.setFp d.toNat (packed2 .bf16 (faddC .bf16 .rn) (t.reg a.toNat) (t.reg b.toNat))).next 4) ∧
    Performs (.fsubBf16x2 g d a b) (fun t => (t.setFp d.toNat (packed2 .bf16 (fsubC .bf16 .rn) (t.reg a.toNat) (t.reg b.toNat))).next 4) ∧
    Performs (.fmulBf16x2 g d a b) (fun t => (t.setFp d.toNat (packed2 .bf16 (fmulC .bf16 .rn) (t.reg a.toNat) (t.reg b.toNat))).next 4) ∧
    Performs (.ffmaBf16x2 g d a b) (fun t => (t.setFp d.toNat (packed3 .bf16 (ffmaC .bf16 .rn) (t.reg a.toNat) (t.reg b.toNat) (t.reg d.toNat))).next 4) ∧
    Performs (.fminBf16x2 g d a b) (fun t => (t.setFp d.toNat (packed2 .bf16 (fminmaxC false .bf16) (t.reg a.toNat) (t.reg b.toNat))).next 4) ∧
    Performs (.fmaxBf16x2 g d a b) (fun t => (t.setFp d.toNat (packed2 .bf16 (fminmaxC true .bf16) (t.reg a.toNat) (t.reg b.toNat))).next 4) ∧
    Performs (.fdot2F16 g d a b) (fun t => (fpTo d.toNat (rne .fp32 .rn (Val.sum .rn [Val.mul (Fmt.fp16.decode (elem .fp16 (t.reg a.toNat) 0)) (Fmt.fp16.decode (elem .fp16 (t.reg b.toNat) 0)), Val.mul (Fmt.fp16.decode (elem .fp16 (t.reg a.toNat) 1)) (Fmt.fp16.decode (elem .fp16 (t.reg b.toNat) 1)), Fmt.fp32.decode (t.reg d.toNat)])) t).next 4) ∧
    Performs (.fdot2Bf16 g d a b) (fun t => (fpTo d.toNat (rne .fp32 .rn (Val.sum .rn [Val.mul (Fmt.bf16.decode (elem .bf16 (t.reg a.toNat) 0)) (Fmt.bf16.decode (elem .bf16 (t.reg b.toNat) 0)), Val.mul (Fmt.bf16.decode (elem .bf16 (t.reg a.toNat) 1)) (Fmt.bf16.decode (elem .bf16 (t.reg b.toNat) 1)), Fmt.fp32.decode (t.reg d.toNat)])) t).next 4)) ∧
  (∀ (f : Fmt) (op : Nat → Nat → Nat × Conds) (x y : Nat),
    packed2 f op x y = ((op (elem f x 0) (elem f y 0)).1 + 65536 * (op (elem f x 1) (elem f y 1)).1,
      (op (elem f x 0) (elem f y 0)).2 ||| (op (elem f x 1) (elem f y 1)).2)) ∧
  ∀ x : Nat, elem .fp16 x 0 = x % 65536 ∧ elem .fp16 x 1 = x / 65536 % 65536 ∧ elem .bf16 x 0 = x % 65536 ∧ elem .bf16 x 1 = x / 65536 % 65536

/-- R122, R123: the special functions at their special inputs and exact results. Elsewhere `rcpC` and `sqrtC` round the exact value, and the others deliver a free value of the implementation within the bound (log entry 5). -/
def Obligations.SpecialFunctions : Prop :=
  (∀ (g : BitVec 3) (d a : BitVec 7),
    Performs (.rcp g d a) (fun t => (t.setFp d.toNat (rcpC (t.reg a.toNat))).next 4) ∧
    Performs (.rsq g d a) (fun t => (t.setFp d.toNat (rsqC (t.reg a.toNat))).next 4) ∧
    Performs (.sqrt g d a) (fun t => (t.setFp d.toNat (sqrtC (t.reg a.toNat))).next 4) ∧
    Performs (.exp2 g d a) (fun t => (t.setFp d.toNat (exp2C (t.reg a.toNat))).next 4) ∧
    Performs (.log2 g d a) (fun t => (t.setFp d.toNat (log2C (t.reg a.toNat))).next 4) ∧
    Performs (.sin g d a) (fun t => (t.setFp d.toNat (trigC false (t.reg a.toNat))).next 4) ∧
    Performs (.cos g d a) (fun t => (t.setFp d.toNat (trigC true (t.reg a.toNat))).next 4)) ∧
  [rcpC 0, rsqC 0, sqrtC 0, exp2C 0, log2C 0, trigC false 0, trigC true 0] =
    [(0x7F800000, Conds.dz), (0x7F800000, Conds.dz), (0, 0), (0x3F800000, 0), (0xFF800000, Conds.dz), (0, 0), (0x3F800000, 0)] ∧
  [rcpC 0x80000000, rsqC 0x80000000, sqrtC 0x80000000, exp2C 0x80000000, log2C 0x80000000, trigC false 0x80000000, trigC true 0x80000000] =
    [(0xFF800000, Conds.dz), (0xFF800000, Conds.dz), (0x80000000, 0), (0x3F800000, 0), (0xFF800000, Conds.dz), (0x80000000, 0), (0x3F800000, 0)] ∧
  [rcpC 0x7F800000, rsqC 0x7F800000, sqrtC 0x7F800000, exp2C 0x7F800000, log2C 0x7F800000, trigC false 0x7F800000, trigC true 0x7F800000] =
    [(0, 0), (0, 0), (0x7F800000, 0), (0x7F800000, 0), (0x7F800000, 0), (0x7FC00000, Conds.nv), (0x7FC00000, Conds.nv)] ∧
  [rcpC 0xFF800000, rsqC 0xFF800000, sqrtC 0xFF800000, exp2C 0xFF800000, log2C 0xFF800000, trigC false 0xFF800000, trigC true 0xFF800000] =
    [(0x80000000, 0), (0x7FC00000, Conds.nv), (0x7FC00000, Conds.nv), (0, 0), (0x7FC00000, Conds.nv), (0x7FC00000, Conds.nv), (0x7FC00000, Conds.nv)] ∧
  (rsqC 0xBF800000, sqrtC 0xBF800000, log2C 0xBF800000) = ((0x7FC00000, Conds.nv), (0x7FC00000, Conds.nv), (0x7FC00000, Conds.nv)) ∧
  (rcpC 0x40000000, sqrtC 0x40800000, rsqC 0x40800000, exp2C 0x40400000, log2C 0x41000000) =
    ((0x3F000000, 0), (0x40000000, 0), (0x3F000000, 0), (0x41000000, 0), (0x40400000, 0))

/-- R53, R118, R121, R127: `frnd`, the flag word, `cvt` without a `lim` with its source and destination placement and the manual's examples; and rounding to a multiple of 2^q in each mode. -/
def Obligations.ConversionAndRounding : Prop :=
  ((∀ (g : BitVec 3) (d a : BitVec 7) (x : BitVec 1) (y z : BitVec 4),
    Performs (.frnd g d a) (fun t => (t.setFp d.toNat (frndC .rn (t.reg a.toNat))).next 4) ∧
    Performs (.rdflg g d) (fun t => (t.setReg d.toNat t.flags.toNat).next 4) ∧
    (Performs (.clrflg g a) fun t => ({ t with flags := t.flags &&& ~~~(BitVec.ofNat 5 (t.reg a.toNat)) } : Thread).next 4) ∧
    Performs (.cvt g d a x y z) (fun t =>
      let r := cvtC y.toNat z.toNat (x == 1) .rn none (if z = 10 ∨ z = 11 then t.pair a.toNat else t.reg a.toNat)
      ((if y = 10 ∨ y = 11 then t.setPair d.toNat r.1 else t.setReg d.toNat r.1).raise r.2).next 4)) ∧
  -- the manual's examples of R127: −2.5 under .rn and .rm, 300.7 under .rz, and 0x80000000 from unsigned to signed bytes
  cvtC 12 0 false .rn none 0xC0200000 = (0xFE, Conds.nx) ∧ cvtC 12 0 false .rm none 0xC0200000 = (0xFD, Conds.nx) ∧
  cvtC 13 0 false .rz none 0x4396599A = (0xFF, Conds.nv) ∧ cvtC 12 9 false .rn none 0x80000000 = (0x7F, Conds.nv) ∧
  cvtC 0 6 false .rn none 0 = (0x00400000, 0) ∧ cvtC 0 6 false .rn none 0xFF = (0x7FC00000, 0) ∧
  cvtC 6 0 false .rp none 0x40555555 = (0x81, Conds.nx)) ∧
  (∀ (neg : Bool) (mag sh : Nat) (exp : Int), 0 < sh →
    (let r := roundAt .rn neg mag exp (exp + sh)
     2 * (r.1 * 2 ^ sh) ≤ 2 * mag + 2 ^ sh ∧ 2 * mag ≤ 2 * (r.1 * 2 ^ sh) + 2 ^ sh ∧
       (2 * (r.1 * 2 ^ sh) = 2 * mag + 2 ^ sh ∨ 2 * mag = 2 * (r.1 * 2 ^ sh) + 2 ^ sh → r.1 % 2 = 0)) ∧
    (let r := (roundAt .rz neg mag exp (exp + sh)).1
     r * 2 ^ sh ≤ mag ∧ mag < (r + 1) * 2 ^ sh) ∧
    (roundAt .rp true mag exp (exp + sh) = roundAt .rz true mag exp (exp + sh)) ∧
    (roundAt .rm false mag exp (exp + sh) = roundAt .rz false mag exp (exp + sh)) ∧
    (let r := (roundAt .rp false mag exp (exp + sh)).1
     mag ≤ r * 2 ^ sh ∧ r * 2 ^ sh < mag + 2 ^ sh) ∧
    (roundAt .rm true mag exp (exp + sh) = roundAt .rp false mag exp (exp + sh)) ∧
    ∀ m, ((roundAt m neg mag exp (exp + sh)).2 = true ↔ ¬ 2 ^ sh ∣ mag))

/-- R95 to R97: `bra`, `call` and `jfence` go to PC + 4·off where its granule has landed; `call` writes the link PC + 4 to v0:v1. Where the granule has not landed they take CODE_ABSENT (7) at their own address with the target as its address (the model's reading, log entry 49), and write nothing. -/
def Obligations.DirectTransfers : Prop :=
  ∀ (g : BitVec 3) (o : BitVec 23),
    let to_ (t : Thread) : VAddr := t.pc + BitVec.ofInt 64 (4 * sgn 23 o.toNat)
    PerformsWhere (.bra g o) (fun s t => s.landed t (to_ t) = true) (fun _ t => t.goto (to_ t)) ∧
    PerformsWhere (.jfence g o) (fun s t => s.landed t (to_ t) = true) (fun _ t => t.goto (to_ t)) ∧
    PerformsWhere (.call g o) (fun s t => s.landed t (to_ t) = true) (fun _ t => (t.setPair 0 (t.pc + 4).toNat).goto (to_ t)) ∧
    ∀ (s : State) (k : ThreadKey) (t : Thread) (rest : List IssueSet), s.landed t (to_ t) = false →
      ∀ i ∈ [Instr.bra g o, Instr.call g o, Instr.jfence g o], s.Alone i k t rest →
        exec i s = .next ((s.takeTrap k t.pc t.pc { cause := 7, addr := to_ t, aux := 0 }).endIssue rest)

/-- R99: `jmp`, `calli` and `ret` go to the address in the pair a, read before a link is written; MISALIGNED (3) comes before CODE_ABSENT (7), each with the target as its address (the model's reading, log entry 49). -/
def Obligations.IndirectTransfers : Prop :=
  ∀ (g : BitVec 3) (d a : BitVec 7),
    let ok (s : State) (t : Thread) : Prop := (t.addr a.toNat).toNat % 4 = 0 ∧ s.landed t (t.addr a.toNat) = true
    PerformsWhere (.jmp g a) ok (fun _ t => t.goto (t.addr a.toNat)) ∧
    PerformsWhere (.ret g a) ok (fun _ t => t.goto (t.addr a.toNat)) ∧
    PerformsWhere (.calli g d a) ok (fun _ t => (t.setPair d.toNat (t.pc + 4).toNat).goto (t.addr a.toNat)) ∧
    ∀ (s : State) (k : ThreadKey) (t : Thread) (rest : List IssueSet), ¬ ok s t →
      ∀ i ∈ [Instr.jmp g a, Instr.ret g a, Instr.calli g d a], s.Alone i k t rest →
        exec i s = .next ((s.takeTrap k t.pc t.pc
          { cause := if (t.addr a.toNat).toNat % 4 = 0 then 7 else 3, addr := t.addr a.toNat, aux := 0 }).endIssue rest)

/-- R100 to R104, R170: `nop`, `wait` with its limits met, `yield`, `wbase`, `brk` and `exit`. -/
def Obligations.ThreadControl : Prop :=
  (∀ (g : BitVec 3), Performs (.nop g) (fun t => t.next 4)) ∧
  (∀ (g : BitVec 3) (l st c : BitVec 6) (tl : BitVec 5), Performs (.wait g l st c tl) (fun t => t.next 4)) ∧
  (∀ (g : BitVec 3), PerformsWhere (.yield g) (fun _ _ => True)
    fun s t => ({ t.next 4 with wait := .yielding (s.clk + 64) } : Thread)) ∧
  (∀ (g : BitVec 3) (m : BitVec 1) (v : BitVec 4),
    let to_ (t : Thread) : Int := if m = 0 then v.toNat else t.wb + sgn 4 v.toNat
    PerformsWhere (.wbase g m v) (fun _ t => 0 ≤ to_ t ∧ to_ t < t.nb) (fun _ t => ({ t with wb := (to_ t).toNat } : Thread).next 4) ∧
    ∀ (s : State) (k : ThreadKey) (t : Thread) (rest : List IssueSet), s.Alone (.wbase g m v) k t rest → ¬ (0 ≤ to_ t ∧ to_ t < t.nb) →
      exec (.wbase g m v) s = .next ((s.takeTrap k t.pc t.pc { cause := 2, addr := 0, aux := 0 }).endIssue rest)) ∧
  (∀ (g : BitVec 3) (d : BitVec 7) (s : State) (k : ThreadKey) (t : Thread) (rest : List IssueSet), s.Alone (.brk g d) k t rest →
    exec (.brk g d) s = .next ((s.takeTrap k t.pc (t.pc + 4) { cause := 23, addr := 0, aux := BitVec.ofNat 32 d.toNat }).endIssue rest)) ∧
  (∀ (g : BitVec 3) (s : State) (k : ThreadKey) (t : Thread) (rest : List IssueSet), s.Alone (.exit g) k t rest →
    exec (.exit g) s = .next (({ s.numbered with threads := s.threads.filter fun u => u.key != k } : State).endIssue rest))

/-- R105, R106: `regacq` and `regacq.try` take free blocks of the lane at once where no request queues, with new registers that read 0; else the one queues and the other writes false. `regrel` gives the highest blocks back. Each takes REG_RANGE (2) beyond 16 blocks or below the window. -/
def Obligations.RegisterBlocks : Prop :=
  (∀ (g : BitVec 3) (n : BitVec 4) (d : BitVec 3) (s : State) (k : ThreadKey) (t : Thread) (b : Block) (rest : List IssueSet),
    s.block? t.bid = some b →
    let free : Prop := (∀ r ∈ (s.core b.core).regq, r.1 ≠ t.lane) ∧ n.toNat ≤ s.freeRegs b.core t.lane
    (s.Alone (.regacq g n) k t rest → t.nb + n.toNat ≤ 16 → free →
      exec (.regacq g n) s = .next ((s.numbered.updThread k fun t => (t.grow n.toNat).next 4).endIssue rest)) ∧
    (s.Alone (.regacq g n) k t rest → t.nb + n.toNat ≤ 16 → ¬ free →
      exec (.regacq g n) s = .next (((s.numbered.setCore b.core { s.core b.core with
        regq := (s.core b.core).regq ++ [(t.lane, k, n.toNat)] }).updThread k fun t => { t with wait := .regacq, age := 0 }).endIssue rest)) ∧
    (s.Alone (.regacqTry g d n) k t rest → t.nb + n.toNat ≤ 16 → free →
      exec (.regacqTry g d n) s = .next ((s.numbered.updThread k fun t => ((t.grow n.toNat).setPred d.toNat true).next 4).endIssue rest)) ∧
    (s.Alone (.regacqTry g d n) k t rest → t.nb + n.toNat ≤ 16 → ¬ free →
      exec (.regacqTry g d n) s = .next ((s.numbered.updThread k fun t => (t.setPred d.toNat false).next 4).endIssue rest)) ∧
    ∀ i ∈ [Instr.regacq g n, Instr.regacqTry g d n], s.Alone i k t rest → 16 < t.nb + n.toNat →
      exec i s = .next ((s.numbered.takeTrap k t.pc t.pc { cause := 2, addr := 0, aux := 0 }).endIssue rest)) ∧
  (∀ (g : BitVec 3) (n : BitVec 4),
    PerformsWhere (.regrel g n) (fun _ t => n.toNat + 1 ≤ t.nb ∧ t.wb < t.nb - n.toNat)
      (fun _ t => ({ t with nb := t.nb - n.toNat, regs := t.regs.filter fun e => e.1 < 16 * (t.nb - n.toNat) } : Thread).next 4) ∧
    ∀ (s : State) (k : ThreadKey) (t : Thread) (rest : List IssueSet), s.Alone (.regrel g n) k t rest →
      ¬ (n.toNat + 1 ≤ t.nb ∧ t.wb < t.nb - n.toNat) →
      exec (.regrel g n) s = .next ((s.takeTrap k t.pc t.pc { cause := 2, addr := 0, aux := 0 }).endIssue rest)) ∧
  ∀ (t : Thread) (n j : Nat), (t.grow n).nb = t.nb + n ∧ (t.grow n).wb = t.wb ∧
    Tab.get (fun _ => (0 : Word)) (t.grow n).regs (16 * t.nb + j) = 0

/-- R107, R109, R27: `spawn` gives its record to the pool of its entry; `cfetch` puts its granule in flight in the segment, or does nothing where the core has it; `mov.sv` writes the special value. -/
def Obligations.SpawnFetchSpecial : Prop :=
  (∀ (g : BitVec 3) (d a : BitVec 7) (s : State) (k : ThreadKey) (t : Thread) (b : Block) (l : Launch) (rest : List IssueSet),
    s.Alone (.spawn g d a) k t rest → s.block? t.bid = some b → s.launch? b.lid = some l →
    let e := t.addr a.toNat
    let r : Word × Word := (BitVec.ofNat 32 (t.reg d.toNat), BitVec.ofNat 32 (t.reg (d.toNat + 1)))
    let c := s.core b.core
    let q := ((c.poolFor t.bid e).2.add s.clk l.record.spawntime.toNat (s.numbered.arriver t) r)
    -- R217: where a pool of the core takes the record, else the thread waits (R74)
    (e.toNat % 4 = 0 → c.poolTakes t.bid e = true → exec (.spawn g d a) s = .next (((s.numbered.setCore b.core { c with
      pools := Tab.set (fun _ => Pool.reset) c.pools (c.poolFor t.bid e).1 q }).updThread k
        fun t => ({ t with stalled := none } : Thread).next 4).endIssue rest) ∧
      q.recs = (c.poolFor t.bid e).2.recs ++ [r]) ∧
    (e.toNat % 4 ≠ 0 → exec (.spawn g d a) s = .next ((s.numbered.takeTrap k t.pc t.pc { cause := 3, addr := e, aux := 0 }).endIssue rest))) ∧
  (∀ (g : BitVec 3) (n : BitVec 6) (a : BitVec 7) (s : State) (k : ThreadKey) (t : Thread) (b : Block) (l : Launch) (rest : List IssueSet),
    s.Alone (.cfetch g n a) k t rest → s.block? t.bid = some b → s.launch? b.lid = some l →
    let e := t.addr a.toNat
    let c := s.core b.core
    (e.toNat % 4096 ≠ 0 → exec (.cfetch g n a) s = .next ((s.numbered.takeTrap k t.pc t.pc { cause := 3, addr := e, aux := 0 }).endIssue rest)) ∧
    (e.toNat % 4096 = 0 → (n.toNat = 63 ∧ l.record.handler ≠ 0) →
      exec (.cfetch g n a) s = .next ((s.numbered.takeTrap k t.pc t.pc { cause := 6, addr := e, aux := 0 }).endIssue rest)) ∧
    ∀ src, e.toNat % 4096 = 0 → ¬ (n.toNat = 63 ∧ l.record.handler ≠ 0) → s.resolve (s.envOf t.bid) .cfetch e 4096 = .ok src →
      (∀ k' x, c.segFor l (e.toNat / 4096) = some (k', x) →
        (x.reader = none → exec (.cfetch g n a) s = .next ((s.numbered.updThread k fun t => t.next 4).endIssue rest)) ∧
        -- a fetch that waited for a redundant pair's leader becomes this thread's own (R315)
        (x.reader ≠ none → exec (.cfetch g n a) s = .next (((s.numbered.setCore b.core { c with
          segs := Tab.set (fun _ => Seg.empty) c.segs k' { x with reader := none } }).updThread k fun t => t.next 4).endIssue rest))) ∧
      ((c.segFor l (e.toNat / 4096)).isSome = false →
        let seg : Seg := { granule := e.toNat / 4096, tag := l.tag, landed := false, again := false, lid := l.lid, src, id := s.nextId + 1, after := some (s.numbered.arriver t), reader := none }
        exec (.cfetch g n a) s = .next (((s.numbered.setCore b.core { c with
          segs := Tab.set (fun _ => Seg.empty) c.segs n.toNat seg }).updThread k fun t => t.next 4).endIssue rest))) ∧
  ∀ (g : BitVec 3) (d a : BitVec 7) (s : State) (k : ThreadKey) (t : Thread) (b : Block) (rest : List IssueSet),
    s.Alone (.movSv g d a) k t rest → s.block? t.bid = some b →
    (∀ c v, (c, v) ∈ [(0, t.tid), (1, t.lane), (2, t.grp), (3, b.blk), (4, b.core), (5, b.core / 4), (6, b.core / 48)] → a.toNat = c →
      exec (.movSv g d a) s = .next ((s.numbered.updThread k fun t => (t.setReg d.toNat v).next 4).endIssue rest)) ∧
    (a.toNat = 7 → exec (.movSv g d a) s =
      .next ((s.numbered.updThread k fun t => (t.setReg d.toNat ((s.ownVdn (s.envOf t.bid).f).getD 0xFFFFFFFF)).next 4).endIssue rest)) ∧
    (a.toNat = 8 → exec (.movSv g d a) s = .next ((s.numbered.updThread k fun t => (t.setPair d.toNat s.clk).next 4).endIssue rest))

/-- R133: each participant reads A of the participant at its source index, or its own A where none stands there. -/
def Obligations.CrossLane : Prop :=
  ∀ (g : BitVec 3) (d a b : BitVec 7),
    let from_ (part : List Thread) (t : Thread) (n : Int) : Thread :=
      t.setReg d.toNat (((part.find? fun u => decide (((u.lane % 32 : Nat) : Int) = n)).getD t).reg a.toNat)
    GathersTo (.xlaneAt g d a b) (fun part t => from_ part t ((t.reg b.toNat % 32 : Nat) : Int)) ∧
    GathersTo (.xlaneBack g d a b) (fun part t => from_ part t (((t.lane % 32 : Nat) : Int) - (t.reg b.toNat % 64 : Nat))) ∧
    GathersTo (.xlaneFwd g d a b) (fun part t => from_ part t (((t.lane % 32 : Nat) : Int) + (t.reg b.toNat % 64 : Nat))) ∧
    GathersTo (.xlaneFlip g d a b) (fun part t => from_ part t ((t.lane % 32 ^^^ (t.reg b.toNat % 32) : Nat) : Int))

/-- R134 to R136: votes, ballot, match, elect, the integer reductions, the scan and the fixed-order sum over the participants. -/
def Obligations.VotesAndReductions : Prop :=
  (∀ (g p q : BitVec 3) (d a : BitVec 7),
    GathersTo (.voteAll g p q) (fun part t => t.setPred p.toNat (part.all fun u => u.pred q.toNat)) ∧
    GathersTo (.voteAny g p q) (fun part t => t.setPred p.toNat (part.any fun u => u.pred q.toNat)) ∧
    GathersTo (.ballot g d q) (fun part t => t.setReg d.toNat ((part.filter fun u => u.pred q.toNat).map fun u => 2 ^ (u.lane % 32)).sum) ∧
    GathersTo (.matchV g d a) (fun part t => t.setReg d.toNat ((part.filter fun u => u.reg a.toNat == t.reg a.toNat).map fun u => 2 ^ (u.lane % 32)).sum) ∧
    GathersTo (.elect g p) (fun part t => t.setPred p.toNat (part.all fun u => decide (t.lane % 32 ≤ u.lane % 32))) ∧
    GathersTo (.gredAdd g d a) (fun part t => t.setReg d.toNat ((part.map fun u => u.reg a.toNat).sum % 2 ^ 32)) ∧
    GathersTo (.gscanAdd g d a) (fun part t => t.setReg d.toNat (((part.filter fun u => decide (u.lane % 32 ≤ t.lane % 32)).map fun u => u.reg a.toNat).sum % 2 ^ 32)) ∧
    GathersTo (.gredMinS g d a) (fun part t => t.setReg d.toNat (best part a.toNat fun x y => decide (sgn 32 x ≤ sgn 32 y))) ∧
    GathersTo (.gredMinZ g d a) (fun part t => t.setReg d.toNat (best part a.toNat fun x y => decide (x ≤ y))) ∧
    GathersTo (.gredMaxS g d a) (fun part t => t.setReg d.toNat (best part a.toNat fun x y => decide (sgn 32 y ≤ sgn 32 x))) ∧
    GathersTo (.gredMaxZ g d a) (fun part t => t.setReg d.toNat (best part a.toNat fun x y => decide (y ≤ x))) ∧
    GathersTo (.gredFadd g d a) (fun part t => (t.setReg d.toNat (gredTree part a.toNat).1).raise (gredTree part a.toNat).2)) ∧
  ∀ (part : List Thread) (a : Nat) (f : Nat → Int), part ≠ [] →
    let m := best part a fun x y => decide (f x ≤ f y)
    (∃ u ∈ part, u.reg a = m) ∧ ∀ u ∈ part, f m ≤ f (u.reg a)

/-- R137, R141, R144, R145, R156: a load checks its address, waits for its registers, counts, and is in flight, at the host window a `.b128` as two accesses of 8 bytes in ascending order; a trap of the check is all it does. Nothing is written to memory. -/
def Obligations.LoadsIssue : Prop :=
  ∀ (g : BitVec 3) (d a : BitVec 7) (z : BitVec 3) (z1 : BitVec 1) (y : BitVec 2) (o : BitVec 4) (s : State) (k : ThreadKey) (t : Thread)
    (rest : List IssueSet) (i : Instr) (r : LoadReq),
    let n := szBytes z.toNat
    let ea (m : Nat) : VAddr := t.addr a.toNat + BitVec.ofNat 64 (o.toNat * m)
    (i, r) ∈ ([
      (.ld g d a z y o, { acc := .ld, ea := ea n, al := n, n := n, sign := szSign z.toNat, dst := t.absRegs (dataOpd z.toNat d.toNat), ty := y, acq := false, kind := .ld }),
      (.ldAcq g d a z1 y o, { acc := .ld, ea := ea (szBytes (2 + z1.toNat)), al := szBytes (2 + z1.toNat), n := szBytes (2 + z1.toNat), sign := 0, dst := t.absRegs (dataOpd (2 + z1.toNat) d.toNat), ty := y, acq := true, kind := .ld }),
      (.ldC g d a z o, { acc := .ldc, ea := ea n, al := n, n := n, sign := szSign z.toNat, dst := t.absRegs (dataOpd z.toNat d.toNat), ty := 0, acq := false, kind := .ldc }),
      (.lstat g d a, { acc := .lstat, ea := t.addr a.toNat, al := 4, n := 4, sign := 0, dst := [t.idx d.toNat], ty := 0, acq := false, kind := .lstat })] : List (Instr × LoadReq)) →
    s.Alone i k t rest →
    -- a load behind an update of the same byte is served by the home (R252)
    let flight (id off : Nat) (ea : VAddr) (tgt : Target) (m : Nat) (dst : List Nat) : Load :=
      let l : Load := { id, tok := s.nextId, bid := t.bid, grp := t.grp, tid := t.tid, ea := ea + BitVec.ofNat 64 off, tgt, n := m,
                        signed := r.sign != 0, dst, ty := r.ty, acq := r.acq, kind := r.kind, home := false }
      { l with home := (s.group? t.bid t.grp).any fun g => g.updateAhead l }
    (∀ tgt, s.check (s.envOf t.bid) r.acc r.ea r.al r.n = .ok tgt → (∀ v x, tgt ≠ .peer v x) → (∀ x, tgt = .host x → r.n ≠ 16) →
      exec i s = .next (((({ s with nextId := s.nextId + 2, loads := s.loads ++ [flight (s.nextId + 1) 0 r.ea tgt r.n r.dst] } : State).updThread
        k fun t => (t.await r.dst none).next 4).counted i t.bid t.grp s.nextId).endIssue rest)) ∧
    (∀ x, s.check (s.envOf t.bid) r.acc r.ea r.al r.n = .ok (.host x) → r.n = 16 →
      exec i s = .next (((({ s with nextId := s.nextId + 3, loads := s.loads ++ [flight (s.nextId + 1) 0 r.ea (.host x) 8 (r.dst.take 2),
        flight (s.nextId + 2) 8 r.ea (.host (x + 8)) 8 ((r.dst.drop 2).take 2)] } : State).updThread
        k fun t => (t.await r.dst none).next 4).counted i t.bid t.grp s.nextId).endIssue rest)) ∧
    (∀ v ipa s2, s.check (s.envOf t.bid) r.acc r.ea r.al r.n = .ok (.peer v ipa) →
      s.numbered.requestFor t s.nextId v ipa r.ea r.peerOp r.dst r.sign none r.acq = some s2 → s2.Solo t.bid →
      exec i s = .next (((s2.updThread k fun t => (t.await r.dst none).next 4).counted i t.bid t.grp s.nextId).endIssue rest)) ∧
    ∀ x, s.check (s.envOf t.bid) r.acc r.ea r.al r.n = .error x → exec i s = .next ((s.numbered.takeTrap k t.pc t.pc x.word).endIssue rest)

/-- R141, R144, R148: a store enters its group's queue with its address and its bytes, lowest first, at the host window a `.b128` as two of 8 bytes in ascending order; memory changes only when the queue performs it. `pref` only fills a cache, at an aligned address, and never traps. -/
def Obligations.StoresIssue : Prop :=
  (∀ (g : BitVec 3) (d a : BitVec 7) (z : BitVec 3) (z1 : BitVec 1) (y : BitVec 2) (o : BitVec 4) (s : State) (k : ThreadKey) (t : Thread)
    (rest : List IssueSet) (i : Instr) (c : Nat) (rel : Bool),
    (i, c, rel) ∈ ([(.st g d a z y o, z.toNat, false), (.stRel g d a z1 y o, 2 + z1.toNat, true)] : List (Instr × Nat × Bool)) →
    s.Alone i k t rest →
    let n := szBytes c
    let ea : VAddr := t.addr a.toNat + BitVec.ofNat 64 (o.toNat * n)
    let x := t.opdVal (dataOpd c d.toNat)
    let entry (id : Nat) (ea : VAddr) (tgt : Target) (d : List Byte) : QEntry :=
      { rel, sent := false, id, tok := s.nextId, tid := t.tid, ea, tgt, ty := y, kind := .store d }
    (∀ tgt, s.check (s.envOf t.bid) .st ea n n = .ok tgt → (∀ h, tgt = .host h → n ≠ 16) →
      exec i s = .next (((({ s with nextId := s.nextId + 2 } : State).updGroup t.bid t.grp fun q => { q with
        queue := q.queue ++ [entry (s.nextId + 1) ea tgt (leBytes x n)] }).updThread k (fun t => t.next 4)).counted i t.bid t.grp
          s.nextId |>.endIssue rest)) ∧
    (∀ h, s.check (s.envOf t.bid) .st ea n n = .ok (.host h) → n = 16 →
      exec i s = .next ((((({ s with nextId := s.nextId + 3 } : State).updGroup t.bid t.grp fun q => { q with
        queue := q.queue ++ [entry (s.nextId + 1) ea (.host h) (leBytes x 8)] }).updGroup t.bid t.grp fun q => { q with
        queue := q.queue ++ [entry (s.nextId + 2) (ea + 8) (.host (h + 8)) (leBytes (x / 2 ^ 64) 8)] }).updThread k (fun t => t.next 4)).counted
          i t.bid t.grp s.nextId |>.endIssue rest)) ∧
    ∀ x, s.check (s.envOf t.bid) .st ea n n = .error x → exec i s = .next ((s.numbered.takeTrap k t.pc t.pc x.word).endIssue rest)) ∧
  (∀ (g : BitVec 3) (a : BitVec 7) (y : BitVec 2) (o : BitVec 4) (s : State) (k : ThreadKey) (t : Thread) (rest : List IssueSet),
    let ea : VAddr := t.addr a.toNat + BitVec.ofNat 64 (o.toNat * 128)
    s.Alone (.pref g a y o) k t rest → ea.toNat % 128 ≠ 0 ∨ (∀ pa, s.resolve (s.envOf t.bid) .ld ea 1 ≠ .ok (.loc pa)) →
    exec (.pref g a y o) s = .next ((s.numbered.updThread k fun t => t.next 4).endIssue rest)) ∧
  ∀ (g : BitVec 3) (a : BitVec 7) (y : BitVec 2) (o : BitVec 4) (s : State) (k : ThreadKey) (t : Thread) (rest : List IssueSet) (pa : Nat),
    let ea : VAddr := t.addr a.toNat + BitVec.ofNat 64 (o.toNat * 128)
    s.Alone (.pref g a y o) k t rest → ea.toNat % 128 = 0 → s.resolve (s.envOf t.bid) .ld ea 1 = .ok (.loc pa) →
    let e := s.envOf t.bid
    exec (.pref g a y o) s = .next (((if y = 3 ∨ (s.l1Find e.core (lineOf pa)).isSome ∨ s.blocked e.core false (.loc pa) then s.numbered
      else s.numbered.fill e.core e.f e.tag y pa).updThread k fun t => t.next 4).endIssue rest)

/-- R149, R150: an atomic or reduction enters its group's store queue with its operand, its comparand and the registers that wait for the old value. -/
def Obligations.AtomicsIssue : Prop :=
  ∀ (g : BitVec 3) (d a b : BitVec 7) (s : State) (k : ThreadKey) (t : Thread) (rest : List IssueSet) (i : Instr) (op : AtomOp)
    (n x c : Nat) (dst : List Nat),
    (i, op, n, x, c, dst) ∈ ([
      (.atomMinS g d a b, .minS, 4, t.reg b.toNat, t.reg d.toNat, [t.idx d.toNat]),
      (.atomMinZ g d a b, .minZ, 4, t.reg b.toNat, t.reg d.toNat, [t.idx d.toNat]),
      (.atomMaxS g d a b, .maxS, 4, t.reg b.toNat, t.reg d.toNat, [t.idx d.toNat]),
      (.atomMaxZ g d a b, .maxZ, 4, t.reg b.toNat, t.reg d.toNat, [t.idx d.toNat]),
      (.atomAdd g d a b, .add, 4, t.reg b.toNat, t.reg d.toNat, [t.idx d.toNat]),
      (.atomExch g d a b, .exch, 4, t.reg b.toNat, t.reg d.toNat, [t.idx d.toNat]),
      (.atomCas g d a b, .cas, 4, t.reg b.toNat, t.reg d.toNat, [t.idx d.toNat]),
      (.atomFadd g d a b, .fadd, 4, t.reg b.toNat, t.reg d.toNat, [t.idx d.toNat]),
      (.atomAddB64 g d a b, .add, 8, t.pair b.toNat, t.pair d.toNat, t.absRegs (.pair d.toNat)),
      (.atomExchB64 g d a b, .exch, 8, t.pair b.toNat, t.pair d.toNat, t.absRegs (.pair d.toNat)),
      (.atomCasB64 g d a b, .cas, 8, t.pair b.toNat, t.pair d.toNat, t.absRegs (.pair d.toNat)),
      (.atomFadd2c g d a b, .fadd2c, 16, t.reg b.toNat, 0, t.absRegs (.pair d.toNat)),
      (.redAdd g a b, .add, 4, t.reg b.toNat, 0, []),
      (.redFadd g a b, .fadd, 4, t.reg b.toNat, 0, []),
      (.redMinS g a b, .minS, 4, t.reg b.toNat, 0, []),
      (.redMaxS g a b, .maxS, 4, t.reg b.toNat, 0, []),
      (.redAnd g a b, .and, 4, t.reg b.toNat, 0, []),
      (.redOr g a b, .or, 4, t.reg b.toNat, 0, []),
      (.redAddB64 g a b, .add, 8, t.pair b.toNat, 0, []),
      (.redFadd2c g a b, .fadd2c, 16, t.reg b.toNat, 0, [])] : List (Instr × AtomOp × Nat × Nat × Nat × List Nat)) →
    s.Alone i k t rest →
    let acc : Acc := if dst.isEmpty then .red else .atom
    (∀ tgt, s.check (s.envOf t.bid) acc (t.addr a.toNat) n n = .ok tgt →
      exec i s = .next (((({ s with nextId := s.nextId + 2 } : State).updGroup t.bid t.grp fun q => { q with queue := q.queue ++ [{
        rel := false, sent := false, id := s.nextId + 1, tok := s.nextId, tid := t.tid, ea := t.addr a.toNat, tgt, ty := 3,
        kind := .update op n x c dst }] }).updThread k (fun t => (t.await dst none).next 4)).counted i t.bid t.grp s.nextId
          |>.endIssue rest)) ∧
    ∀ e, s.check (s.envOf t.bid) acc (t.addr a.toNat) n n = .error e → exec i s = .next ((s.numbered.takeTrap k t.pc t.pc e.word).endIssue rest)

/-- R150: the new value of each update at the home, from the old value m, the operand b and the comparand c. -/
def Obligations.AtomicValues : Prop :=
  ∀ m b c : Nat, m < 2 ^ 32 → b < 2 ^ 32 →
    atomNew .add 4 m b c = (m + b) % 2 ^ 32 ∧ atomNew .add 8 m b c = (m + b) % 2 ^ 64 ∧ atomNew .exch 4 m b c = b ∧
    (m = c → atomNew .cas 4 m b c = b) ∧ (m ≠ c → atomNew .cas 4 m b c = m) ∧
    (atomNew .minZ 4 m b c ≤ m ∧ atomNew .minZ 4 m b c ≤ b ∧ (atomNew .minZ 4 m b c = m ∨ atomNew .minZ 4 m b c = b)) ∧
    (m ≤ atomNew .maxZ 4 m b c ∧ b ≤ atomNew .maxZ 4 m b c ∧ (atomNew .maxZ 4 m b c = m ∨ atomNew .maxZ 4 m b c = b)) ∧
    (sgn 32 (atomNew .minS 4 m b c) ≤ sgn 32 m ∧ sgn 32 (atomNew .minS 4 m b c) ≤ sgn 32 b ∧
      (atomNew .minS 4 m b c = m ∨ atomNew .minS 4 m b c = b)) ∧
    (sgn 32 m ≤ sgn 32 (atomNew .maxS 4 m b c) ∧ sgn 32 b ≤ sgn 32 (atomNew .maxS 4 m b c) ∧
      (atomNew .maxS 4 m b c = m ∨ atomNew .maxS 4 m b c = b)) ∧
    (∀ n, bit (atomNew .and 4 m b c) n = (bit m n && bit b n)) ∧ (∀ n, bit (atomNew .or 4 m b c) n = (bit m n || bit b n)) ∧
    atomNew .fadd 4 m b c = (rne .fp32 .rn (Val.add .rn (Fmt.fp32.decode m) (Fmt.fp32.decode b))).1

/-- R141, R83, R252: where a load may be performed, its value, sign-extended as its size asks, reaches its registers, which are no longer busy, and its issue leaves the counter; a store or update at the head of a group's queue is performed and leaves the queue. Where no dirty page is tracked and no line is poisoned, a store to local memory leaves exactly its bytes there, and a load that finds no queue entry of its bytes and no leased copy reads the bytes of memory. -/
def Obligations.LoadsReturn : Prop :=
  (∀ (s : State) (e : Env), (∀ f, f < 8 → (s.session f).tracking = false) → s.poisoned = [] →
    (∀ (ty : BitVec 2) (pa : Nat) (d : List Byte), (s.storeLocal e ty pa d).mem = s.mem.store pa d) ∧
    ∀ (g : Group) (l : Load) (pa : Nat), l.kind = .ld → l.tgt = .loc pa →
      (∀ q ∈ g.queue, ∀ i, i < l.n → q.tgt.overlaps q.size ((Target.loc pa).offset i) 1 = false) →
      (∀ x ∈ s.l1, x.core = e.core → x.line = lineOf pa → x.st ≠ .leased) →
      (s.readLoad e g l).1 = s.mem.read pa l.n ∧ (s.readLoad e g l).2.mem = s.mem) ∧
  (∀ (s : State) (l : Load) (g : Group), s.loads.find? (fun x => x.id == l.id) = some l → s.group? l.bid l.grp = some g →
    s.loadReady l = true → (l.kind ≠ .lstat → s.poison l.tgt l.n = false) →
    let r := ({ s with loads := s.loads.filter fun x => x.id != l.id } : State).readLoad (s.envOf l.bid) g l
    let s2 := if l.acq && !inScratch l.ea then r.2.dropLeases (s.envOf l.bid).core else r.2
    let v := if l.signed then low 32 (sgn (8 * l.n) r.1) else r.1
    exec (.loadValueReturn l.id) s =
      .next ((s2.deliver { bid := l.bid, tid := l.tid } l.tok l.dst v none).settleCnt l.bid l.grp .ld l.tok)) ∧
  (∀ (s : State) (bid grp : Nat) (g : Group) (q : QEntry) (r : List QEntry) (d : List Byte), s.group? bid grp = some g → g.queue = q :: r →
    q.kind = .store d → s.headReady g q = true → s.poison q.tgt d.length = false →
    let s2 := match q.tgt with
      | .loc pa => s.storeLocal (s.envOf bid) q.ty pa d
      | t => s.writeTgt (s.envOf bid) none t d
    exec (.storeQueuePerform bid grp) s = .next (s2.popQueue bid grp q .st)) ∧
  ∀ (s : State) (bid grp : Nat) (g : Group) (q : QEntry) (r : List QEntry) (op : AtomOp) (n x c pa : Nat) (dst : List Nat),
    s.group? bid grp = some g → g.queue = q :: r → q.kind = .update op n x c dst → q.tgt = .loc pa → s.headReady g q = true →
    s.poison q.tgt n = false →
    let m := s.mem.read pa n
    let e := s.envOf bid
    let s2 := s.coreUpdate e pa (leBytes (atomNew op n m x c) n)
    exec (.homeAtomicRequest bid grp) s = .next (if dst.isEmpty then s2.popQueue bid grp q .st
      else (s2.deliver { bid, tid := q.tid } q.tok dst m none).popQueue bid grp q .ld)

/-- R153, R154, R163 to R167: fences, and the barrier register instructions: their events apply at the end of the cycle (R166), the token is the phase, a thread that comes to a wait waits for the phase to change and goes on, at the latest, once the arrivals released what they had to (R256). A register beyond the launch's number is ACCESS_DENIED (6). -/
def Obligations.FencesAndBarriers : Prop :=
  (∀ (g : BitVec 3) (f : BitVec 2) (sc : BitVec 3) (s : State) (k : ThreadKey) (t : Thread) (rest : List IssueSet), s.Alone (.fence g f sc) k t rest →
    (f = 2 → exec (.fence g f sc) s =
      .next ((s.numbered.updThread k fun t => { t.next 4 with gate := some (s.nextId + 1) }).endIssue rest)) ∧
    (f ≠ 2 → s.fenceMet t (s.nextId + 1) (f = 0) = true → exec (.fence g f sc) s =
      .next (((if 3 ≤ sc.toNat then s.numbered.dropLeases (s.envOf t.bid).core else s.numbered).updThread k fun t => t.next 4).endIssue rest)) ∧
    (f ≠ 2 → s.fenceMet t (s.nextId + 1) (f = 0) = false → exec (.fence g f sc) s =
      .next ((s.numbered.updThread k fun t => { t.next 4 with wait := .fence (s.nextId + 1) (f = 0) (3 ≤ sc.toNat) }).endIssue rest))) ∧
  ∀ (g p : BitVec 3) (d a : BitVec 7) (n : BitVec 5) (s : State) (k : ThreadKey) (t : Thread) (b : Block) (rest : List IssueSet),
    s.block? t.bid = some b →
    let ph := (b.bar n.toNat).ph
    (n.toNat < s.nbar t.bid →
      (s.Alone (.barInit g n a) k t rest → exec (.barInit g n a) s = .next (((s.numbered.barEv t.bid n.toNat
        (.init t.lane (t.reg a.toNat % 4096))).updThread k fun t => t.next 4).endIssue rest)) ∧
      (s.Alone (.barExpect g n a) k t rest → exec (.barExpect g n a) s = .next (((s.numbered.barEv t.bid n.toNat
        (.expect (t.reg a.toNat))).updThread k fun t => t.next 4).endIssue rest)) ∧
      (s.Alone (.barArrive g d n) k t rest → exec (.barArrive g d n) s = .next (((s.numbered.arrive t n.toNat).updThread k fun t => (t.setReg d.toNat (if ph then 1 else 0)).next 4).endIssue rest)) ∧
      (s.Alone (.barTest g p n) k t rest → exec (.barTest g p n) s =
        .next ((s.numbered.updThread k fun t => (t.setPred p.toNat ph).next 4).endIssue rest)) ∧
      (s.Comes (.barWait g n a) t → s.beginWait t = s.updThread t.key fun u => { u with
        wait := if ph = bit (t.reg a.toNat) 0 then .bar n.toNat else .released (s.arrivedAt b n.toNat) }) ∧
      (s.Alone (.barWait g n a) k t rest → t.isReleased = true ∨ s.numbered.arrivedAt b n.toNat = [] →
        exec (.barWait g n a) s = .next ((s.numbered.updThread k fun t => t.next 4).endIssue rest)) ∧
      (s.Alone (.barSync g n) k t rest → t.isReleased = false → (∀ x, t.syncTok = some x → x.1 ≠ n.toNat) → exec (.barSync g n) s =
        .next (((s.numbered.arrive t n.toNat).updThread k
          fun t => { t with wait := .bar n.toNat, age := 0, syncTok := some (n.toNat, ph) }).endIssue rest)) ∧
      (s.Alone (.barSync g n) k t rest → t.isReleased = true → exec (.barSync g n) s =
        .next ((s.numbered.updThread k fun t => { t.next 4 with syncTok := none }).endIssue rest))) ∧
    (s.nbar t.bid ≤ n.toNat → ∀ i ∈ [Instr.barInit g n a, .barExpect g n a, .barArrive g d n, .barTest g p n, .barWait g n a, .barSync g n],
      s.Alone i k t rest → exec i s = .next ((s.numbered.takeTrap k t.pc t.pc { cause := 6, addr := 0, aux := 0 }).endIssue rest))

/-- R165, R166: what one cycle's events do to a barrier register, and its one completion check. -/
def Obligations.BarrierPhases : Prop :=
  (∀ (x : Bar) (n l : Nat),
    (x.apply (.init l n)).ea = BitVec.ofNat 12 n ∧ (x.apply (.init l n)).pa = (BitVec.ofNat 12 n).toNat ∧ (x.apply (.init l n)).pb = 0 ∧
    (x.apply (.init l n)).ph = x.ph ∧
    x.apply (.landed n) = { x with pb := x.pb - BitVec.ofNat 34 n } ∧ x.apply (.expect n) = { x with pb := x.pb + BitVec.ofNat 34 n } ∧
    x.apply .arrive = { x with pa := x.pa - 1 }) ∧
  (∀ x : Bar, x.completes = true ↔ x.pa ≤ 0 ∧ x.pb = 0) ∧
  (∀ x : Bar, x.complete = { x with ph := !x.ph, pa := x.pa + x.ea.toNat }) ∧
  ∀ (s : State) (bid n : Nat) (b : Block) (evs : List BarEv), s.block? bid = some b →
    let x := (sortEvs evs).foldl Bar.apply (b.bar n)
    (x.completes = false → s.barCycle bid n evs = s.updBlock bid fun b => b.setBar n x) ∧
    let after := s.arrivedAt b n
    (x.completes = true → (s.barCycle bid n evs).block? bid = some { b.setBar n x.complete with
        arrivers := (b.arrivers.filter fun e => e.1 != n) ++ after.map fun a => (n, a) } ∧
      (∀ t ∈ (s.barCycle bid n evs).threads, t.bid = bid → t.wait ≠ .bar n) ∧
      ∀ t ∈ s.threads, t.bid = bid → t.wait = .bar n → ({ t with wait := .released after } : Thread) ∈ (s.barCycle bid n evs).threads)

/-- R168, R169: `hbar.arrive` counts its block once and writes the phase; a thread that comes to `hbar.wait` waits for the phase to change, and goes on, dropping its core's leases (R240), once it is released or nothing that the arrivals released is outstanding (R256). A level or index that the launch is not granted is ACCESS_DENIED (6). -/
def Obligations.HierarchyBarriers : Prop :=
  ∀ (g : BitVec 3) (d : BitVec 7) (lv : BitVec 3) (n : BitVec 4) (s : State) (k : ThreadKey) (t : Thread) (b : Block) (l : Launch)
    (rest : List IssueSet), s.block? t.bid = some b → s.launch? b.lid = some l →
    (l.granted lv.toNat ≤ n.toNat → ∀ i ∈ [Instr.hbarArrive g d lv n, .hbarWait g d lv n], s.Alone i k t rest →
      exec i s = .next ((s.numbered.takeTrap k t.pc t.pc { cause := 6, addr := 0, aux := 0 }).endIssue rest)) ∧
    (n.toNat < l.granted lv.toNat → ∀ h, l.hbarOf lv.toNat n.toNat b.blk = some h →
      (s.Comes (.hbarWait g d lv n) t → s.beginWait t = s.updThread t.key fun u => { u with
        wait := if h.phase = bit (t.reg d.toNat) 0 then .hbar h.level h.inst h.idx else .released (s.still h.before) }) ∧
      (s.Alone (.hbarWait g d lv n) k t rest → t.isReleased = true ∨ s.numbered.still h.before = [] → exec (.hbarWait g d lv n) s =
        .next (((s.numbered.dropLeases b.core).updThread k fun t => t.next 4).endIssue rest)) ∧
      -- a pod barrier's arrivals go out as packets, which need an own VDN (R298): VDN_INVALID (21)
      (s.Alone (.hbarArrive g d lv n) k t rest → lv = 6 → s.ownVdn l.f = none → exec (.hbarArrive g d lv n) s =
        .next ((s.numbered.takeTrap k t.pc t.pc { cause := 21, addr := 0, aux := 0 }).endIssue rest)) ∧
      (s.Alone (.hbarArrive g d lv n) k t rest → h.arrived.contains b.blk = false → (lv = 6 → s.ownVdn l.f ≠ none) →
        let s2 := (s.numbered.updLaunch l.lid fun l => { l with
          hbars := updFirst (fun x => x.is h.level h.inst h.idx) (fun x => { x with
            arrived := x.arrived ++ [b.blk], before := (s.numbered.arriver t).addTo x.before }) l.hbars }).updThread k
            fun t => (t.setReg d.toNat (if h.phase then 1 else 0)).next 4
        exec (.hbarArrive g d lv n) s = .next ((s2.hbarSettle l.lid).endIssue rest)))

/-- R157 to R160, R158's checks in order: MISALIGNED (3) and LOCK_DIVERGENT (12) for each participant, LOCK_LIMIT (9) at four held lines, LOCK_ORDER (8) for an address not above every held one, LOCK_NOT_HELD (11). Else the request leaves for the line's home; at `llock` the whole group sleeps, at `ltry` its participants wait for the answer; the participants of a `lunlock` wait for the accesses that precede it. -/
def Obligations.LineLocks : Prop :=
  ∀ (g p : BitVec 3) (a : BitVec 7) (c : BitVec 2) (s : State) (q : IssueSet) (rest : List IssueSet) (bid grp : Nat) (gr : Group) (t0 : Thread)
    (part : List Thread), s.group? bid grp = some gr →
    (∀ i tri cls, s.parts i q bid grp = t0 :: part → (i, tri, cls) ∈ ([(.llock g p a c, false, c.toNat), (.ltry g p a, true, 0)] :
        List (Instr × Bool × Nat)) → s.Gathers i q rest bid grp →
      (∀ t ∈ t0 :: part, t.addr a.toNat = t0.addr a.toNat) → (t0.addr a.toNat).toNat % 128 = 0 →
      ∀ pa, s.resolve (s.envOf bid) .lock (t0.addr a.toNat) 128 = .ok (.loc pa) → gr.held.length < 4 →
      (∀ h ∈ gr.held, h.va.toNat < (t0.addr a.toNat).toNat) →
      let r : LockReq := {
        id := s.nextId, va := t0.addr a.toNat, tgt := .loc pa, tri, cls, pred := p.toNat, queued := false, members := (t0 :: part).map fun t => t.tid }
      exec i s = .next ((((s.numbered.standAt bid grp t0.pc .lock fun t => !tri || (t0 :: part).any fun u => u.key == t.key).updGroup bid grp fun g => { g with req := some r }).advanceGroup i q.pc bid
        grp (s.standers bid grp q)).endIssue rest)) ∧
    (s.parts (.lunlock g a) q bid grp = t0 :: part → s.Gathers (.lunlock g a) q rest bid grp →
      (∀ t ∈ t0 :: part, t.addr a.toNat = t0.addr a.toNat) → (t0.addr a.toNat).toNat % 128 = 0 →
      ∀ tgt, s.resolve (s.envOf bid) .lock (t0.addr a.toNat) 128 = .ok tgt →
      (gr.held.find? (fun h => h.va == t0.addr a.toNat) = none → t0.wait ≠ .matched → exec (.lunlock g a) s =
        let x : DefTrap := { cause := 11, addr := t0.addr a.toNat, aux := 0 }
        .next ((s.numbered.raiseAll ((t0 :: part).map fun t => { key := t.key, pc := q.pc, resume := q.pc, info := x })).endIssue rest)) ∧
      ∀ h, gr.held.find? (fun h => h.va == t0.addr a.toNat) = some h →
      exec (.lunlock g a) s = .next (((((s.numbered.standAt bid grp t0.pc .unlock fun t => (t0 :: part).any fun u => u.key == t.key).updGroup bid grp fun x =>
        { x with unlocking := some { va := t0.addr a.toNat, tgt := h.tgt, before := s.nextId + 1, sent := false } }).advanceGroup
          (.lunlock g a) q.pc bid grp (s.standers bid grp q)).counted (.lunlock g a) bid grp s.nextId).endIssue rest)) ∧
    (lockTraps (t0 :: part) a.toNat ≠ [] →
      s.askLock 0 bid grp (t0 :: part) a.toNat p.toNat c.toNat false = .trap (lockTraps (t0 :: part) a.toNat)) ∧
    (lockTraps (t0 :: part) a.toNat = [] → ∀ x, s.resolve (s.envOf bid) .lock (t0.addr a.toNat) 128 = .error x →
      s.askLock 0 bid grp (t0 :: part) a.toNat p.toNat c.toNat false = .trap ((t0 :: part).map fun t => (t.key, x))) ∧
    (lockTraps (t0 :: part) a.toNat = [] → ∀ tgt, s.resolve (s.envOf bid) .lock (t0.addr a.toNat) 128 = .ok tgt →
      (4 ≤ gr.held.length → s.askLock 0 bid grp (t0 :: part) a.toNat p.toNat c.toNat false =
        .trap ((t0 :: part).map fun t => (t.key, { cause := .lockLimit, addr := t0.addr a.toNat, aux := 0 }))) ∧
      (gr.held.length < 4 → (∃ h ∈ gr.held, (t0.addr a.toNat).toNat ≤ h.va.toNat) → s.askLock 0 bid grp (t0 :: part) a.toNat p.toNat c.toNat false =
        .trap ((t0 :: part).map fun t => (t.key, { cause := .lockOrder, addr := t0.addr a.toNat, aux := 0 }))))

/-- R171 to R180: each copy instruction, past its checks, leaves one command in its core's copy queue with its addresses or descriptor, its ordering flags and its binding; a multicast with mask bits above 3 sets MCAST_SKIP; a `cp.bin` queues its record update. Misaligned addresses take MISALIGNED (3), a bad descriptor ILLEGAL_OP (1). -/
def Obligations.CopiesIssue : Prop :=
  (∀ (g : BitVec 3) (d a : BitVec 7) (sc : BitVec 3) (r q : BitVec 1) (s : State) (k : ThreadKey) (t : Thread) (rest : List IssueSet) (i : Instr) (n : Nat),
    (i, n) ∈ ([(.cpLaneB32 g d a sc r q, 4), (.cpLaneB64 g d a sc r q, 8), (.cpLaneB128 g d a sc r q, 16)] : List (Instr × Nat)) →
    s.Alone i k t rest →
    let src := t.addr a.toNat
    let dst := t.addr d.toNat
    let e := s.envOf t.bid
    (∀ x y, src.toNat % n = 0 → dst.toNat % n = 0 → s.resolve e .engR src n = .ok x → s.resolve e .engW dst n = .ok y →
      (∀ c ∈ s.copies, c.tok ≠ s.nextId) →
      exec i s = .next (((({ s with nextId := s.nextId + 2, copies := s.copies ++ [{
        id := s.nextId + 1, tok := s.nextId, core := e.core, bid := t.bid, grp := t.grp, tid := t.tid, pc := t.pc, kind := .lane n [(src, x, y)],
        h := 0, more := [], begun := [], bind := s.bindOf t, before := if q == 1 then some (s.nextId + 1) else none, rel := r == 1, fabric := none,
        lines := [], base := 0, owed := [] }] } : State).updThread k fun t => t.next 4).counted i t.bid t.grp s.nextId).endIssue rest)) ∧
    (src.toNat % n ≠ 0 → exec i s = .next ((s.numbered.takeTrap k t.pc t.pc { cause := 3, addr := src, aux := 0 }).endIssue rest)) ∧
    (src.toNat % n = 0 → dst.toNat % n ≠ 0 → exec i s = .next ((s.numbered.takeTrap k t.pc t.pc { cause := 3, addr := dst, aux := 0 }).endIssue rest))) ∧
  (∀ (g : BitVec 3) (d a b : BitVec 7) (s : State) (k : ThreadKey) (t : Thread) (rest : List IssueSet), s.Alone (.cpBin g d a b) k t rest →
    let rc := t.addr a.toNat
    let row := t.addr b.toNat
    let e := s.envOf t.bid
    ∀ x y, rc.toNat % 32 = 0 → row.toNat % 4 = 0 → s.resolve e .bin rc 32 = .ok x → s.resolve e .engR row 4 = .ok y →
      exec (.cpBin g d a b) s = .next (((({ s with nextId := s.nextId + 2 } : State).updGroup t.bid t.grp fun q => { q with queue := q.queue ++ [{
        rel := false, sent := false, id := s.nextId + 1, tok := s.nextId, tid := t.tid, ea := rc, tgt := x, ty := 3,
        kind := .bin row (t.idx d.toNat) t.pc (s.bindOf t) }] }).updThread k (fun t => (t.await [t.idx d.toNat] none).next 4)).counted
          (.cpBin g d a b) t.bid t.grp s.nextId |>.endIssue rest)) ∧
  (∀ (g : BitVec 3) (a : BitVec 5) (s : State) (k : ThreadKey) (t : Thread) (rest : List IssueSet), s.Alone (.cpBulk g a) k t rest →
    let w := t.words (4 * a.toNat) 16
    let b := bulkOf w
    (bulkOk w false = true → b.misaligned = none → b.fabric = false → exec (.cpBulk g a) s =
      .next ((((s.numbered.addCopy t s.nextId (.bulk w) b.acq b.rel none).updThread k fun t => t.next 4).counted (.cpBulk g a) t.bid t.grp
        s.nextId).endIssue rest)) ∧
    (bulkOk w false = true → b.misaligned = none → b.fabric = true → ∀ v, s.fabricCheck t b = .ok v →
      let e := s.envOf t.bid
      let n := bits b.flags 16 12
      let win := s.window e.f n
      let rc : CopyRec := {
        cmd := s.nextId + 1, epoch := win.epoch.toNat, vdn := v, env := e, handle := s.handleOf t.bid, desc := w,
        count := b.runs b.count, sent := 0, landed := 0, final := false, bind := s.bindOf t, tid := t.tid }
      exec (.cpBulk g a) s = .next (((((s.numbered.addCopy t s.nextId (.bulk w) b.acq b.rel (some (n, v, bits (s.vdne e.f v) 15 8))).setWindow e.f n
        { win with counts := Tab.set (fun _ => 0) win.counts v (Tab.get (fun _ => 0) win.counts v + b.runs b.count),
                   copies := win.copies ++ [rc] }).updThread k fun t => t.next 4).counted (.cpBulk g a) t.bid t.grp s.nextId).endIssue rest)) ∧
    (bulkOk w false = false → exec (.cpBulk g a) s = .next ((s.numbered.takeTrap k t.pc t.pc { cause := 1, addr := 0, aux := 0 }).endIssue rest)) ∧
    ∀ x, bulkOk w false = true → b.misaligned = some x → exec (.cpBulk g a) s = .next ((s.numbered.takeTrap k t.pc t.pc { cause := 3, addr := x, aux := 0 }).endIssue rest)) ∧
  (∀ (g : BitVec 3) (d : BitVec 7) (a : BitVec 5) (s : State) (k : ThreadKey) (t : Thread) (rest : List IssueSet), s.Alone (.cpMcast g d a) k t rest →
    let w := t.words (4 * a.toNat) 16
    let b := bulkOf w
    let dst := b.dstAt 0
    bulkOk w true = true → b.misaligned = none → inScratch dst = true → dst.toNat % 2 ^ 32 < (s.envOf t.bid).share →
      exec (.cpMcast g d a) s = .next (((((if t.reg d.toNat / 16 = 0 then s.numbered
        else s.numbered.updGroup t.bid t.grp fun g => { g with cstat := g.cstat ||| 1 }).addCopy t s.nextId
          (.mcast w (BitVec.ofNat 32 (t.reg d.toNat))) b.acq b.rel none).updThread k fun t => t.next 4).counted (.cpMcast g d a) t.bid t.grp
            s.nextId).endIssue rest)) ∧
  ∀ (g : BitVec 3) (n : BitVec 5) (s : State) (k : ThreadKey) (t : Thread) (rest : List IssueSet),
    (s.Alone (.cpBind g n) k t rest → n.toNat < s.nbar t.bid → exec (.cpBind g n) s =
      .next (((s.numbered.updGroup t.bid t.grp fun g => { g with bind := some n.toNat }).updThread k fun t => t.next 4).endIssue rest)) ∧
    (s.Alone (.cpBind g n) k t rest → s.nbar t.bid ≤ n.toNat → exec (.cpBind g n) s = .next ((s.numbered.takeTrap k t.pc t.pc { cause := 6, addr := 0, aux := 0 }).endIssue rest)) ∧
    (s.Alone (.cpBindNone g) k t rest → exec (.cpBindNone g) s =
      .next (((s.numbered.updGroup t.bid t.grp fun g => { g with bind := none }).updThread k fun t => t.next 4).endIssue rest))

/-- R183, R187, R194: `tclaim` claims every named slot and tile or none; `trel` releases what the group holds, else SLOT_NOT_CLAIMED (13); `gang` sets the gang register, else GANG_MISMATCH (15); `mstat` reads a status word and clears it where asked. -/
def Obligations.ClaimsAndStatus : Prop :=
  (∀ (g p : BitVec 3) (a : BitVec 7) (s : State) (k : ThreadKey) (t : Thread) (rest : List IssueSet),
    let x := t.reg a.toNat
    let core := (s.envOf t.bid).core
    let c := s.core core
    let free : Prop := ∀ n ∈ claimNames x, c.claim n = .free ∨ c.claim n = .claimed t.bid t.grp
    let held : Prop := ∀ n ∈ claimNames x, c.claim n = .claimed t.bid t.grp
    claimWordOk x = true → bits x 5 0 + bits x 13 8 + 1 ≤ 64 →
    (s.Alone (.tclaim g p a) k t rest → free → exec (.tclaim g p a) s = .next (((s.numbered.setCore core
      (c.setClaims (claimNames x) (.claimed t.bid t.grp))).updThread k fun t => (t.setPred p.toNat true).next 4).endIssue rest)) ∧
    (s.Alone (.tclaim g p a) k t rest → ¬ free → exec (.tclaim g p a) s =
      .next ((s.numbered.updThread k fun t => (t.setPred p.toNat false).next 4).endIssue rest)) ∧
    (s.Alone (.trel g a) k t rest → held → exec (.trel g a) s = .next ((((s.numbered.setCore core
      (c.setClaims (claimNames x) (.pending t.bid t.grp (s.nextId + 1)))).settleClaims core).updThread k fun t => t.next 4).endIssue rest)) ∧
    (s.Alone (.trel g a) k t rest → ¬ held → exec (.trel g a) s = .next ((s.numbered.takeTrap k t.pc t.pc { cause := 13, addr := 0, aux := 0 }).endIssue rest))) ∧
  (∀ (g p : BitVec 3) (a : BitVec 7) (s : State) (k : ThreadKey) (t : Thread) (rest : List IssueSet) (i : Instr), i ∈ [Instr.tclaim g p a, .trel g a] → s.Alone i k t rest →
    (claimWordOk (t.reg a.toNat) = false → exec i s = .next ((s.numbered.takeTrap k t.pc t.pc { cause := 1, addr := 0, aux := 0 }).endIssue rest)) ∧
    (claimWordOk (t.reg a.toNat) = true → 64 < bits (t.reg a.toNat) 5 0 + bits (t.reg a.toNat) 13 8 + 1 → exec i s = .next ((s.numbered.takeTrap k t.pc t.pc { cause := 14, addr := 0, aux := 0 }).endIssue rest))) ∧
  (∀ (g : BitVec 3) (a : BitVec 7) (s : State) (k : ThreadKey) (t : Thread) (rest : List IssueSet), s.Alone (.gang g a) k t rest →
    let x := t.reg a.toNat
    let n := ((List.range 16).filter fun j => bit x j).length
    (x < 2 ^ 16 → x = 0 ∨ (2 ≤ n ∧ n ≤ 6 ∧ bit x t.grp = true) → exec (.gang g a) s =
      .next (((s.numbered.updGroup t.bid t.grp fun g => { g with gang := BitVec.ofNat 16 x }).updThread k fun t => t.next 4).endIssue rest)) ∧
    (x < 2 ^ 16 → ¬ (x = 0 ∨ (2 ≤ n ∧ n ≤ 6 ∧ bit x t.grp = true)) → exec (.gang g a) s = .next ((s.numbered.takeTrap k t.pc t.pc { cause := 15, addr := 0, aux := 0 }).endIssue rest)) ∧
    (2 ^ 16 ≤ x → exec (.gang g a) s = .next ((s.numbered.takeTrap k t.pc t.pc { cause := 1, addr := 0, aux := 0 }).endIssue rest))) ∧
  ∀ (g : BitVec 3) (d : BitVec 7) (x w : BitVec 1) (s : State) (k : ThreadKey) (t : Thread) (rest : List IssueSet) (gr : Group), s.Alone (.mstat g d x w) k t rest → s.group? t.bid t.grp = some gr →
    let v := if w = 0 then gr.mstat.toNat else gr.cstat.toNat + 256 * gr.mcastDrop
    let s2 := if x = 0 then s.numbered
      else if w = 0 then s.numbered.updGroup t.bid t.grp fun g => { g with mstat := 0 }
      else s.numbered.updGroup t.bid t.grp fun g => { g with cstat := 0, mcastDrop := 0 }
    exec (.mstat g d x w) s = .next ((s2.updThread k fun t => (t.setReg d.toNat v).next 4).endIssue rest)

/-- R184, R188 to R192: each matrix command of one thread, past its word checks, must name slots and tiles that its group may name; it then stands in the core's matrix queue. `pcfg` also sets the group's configuration. -/
def Obligations.MatrixIssue : Prop :=
  (∀ (g ti : BitVec 3) (n : BitVec 6) (m : BitVec 3) (a : BitVec 5) (b : BitVec 7) (s : State) (k : ThreadKey) (t : Thread) (rest : List IssueSet) (i : Instr) (kind : MatKind) (ok acq : Bool),
    let w := t.words (4 * a.toNat) 4
    let w8 := t.words (4 * a.toNat) 8
    (i, kind, ok, acq) ∈ ([
      (.tfill g n a, .fill n.toNat w, fillOk w && (dMisaligned w).isNone, bit (dw w 3) 13),
      (.tfillDq g n a, .fillDq n.toNat w8, fillOk w8 && dw w8 5 % 32 == 0 && dw w8 6 == 0 && dw w8 7 == 0 && (dMisaligned w8).isNone,
        bit (dw w8 3) 13),
      (.azero g ti m, .azero ti.toNat (m.toNat + 1), true, false),
      (.aload g ti b, .aload ti.toNat (t.addr b.toNat), (t.addr b.toNat).toNat % 16 == 0, false),
      (.tdrain g ti a, .drain ti.toNat w, drainOk w false && (dMisaligned w).isNone, false),
      (.tdrainAdd g ti a, .drainAdd ti.toNat w, drainOk w true && (dMisaligned w).isNone, false)] : List (Instr × MatKind × Bool × Bool)) →
    s.Alone i k t rest → ok = true →
    let ns := kind.names (s.cfgOf t.bid t.grp)
    let beyond : Bool := match kind with
      | .fill _ _ | .fillDq _ _ => ns.any fun n => decide (64 ≤ n)
      | _ => ns.any fun n => decide (72 ≤ n)
    (beyond = false → s.mayName t.bid t.grp ns = true → exec i s =
      .next ((((s.numbered.addMat t s.nextId kind acq []).updThread k fun t => t.next 4).counted i t.bid t.grp s.nextId).endIssue rest)) ∧
    (beyond = false → s.mayName t.bid t.grp ns = false → exec i s = .next ((s.numbered.takeTrap k t.pc t.pc { cause := 13, addr := 0, aux := 0 }).endIssue rest)) ∧
    (beyond = true → exec i s = .next ((s.numbered.takeTrap k t.pc t.pc { cause := 14, addr := 0, aux := 0 }).endIssue rest))) ∧
  ∀ (g : BitVec 3) (a : BitVec 5) (s : State) (k : ThreadKey) (t : Thread) (rest : List IssueSet), s.Alone (.pcfg g a) k t rest →
    let w := t.words (4 * a.toNat) 8
    (bits (dw w 4) 31 9 = 0 → dw w 7 = 0 → exec (.pcfg g a) s =
      .next (((((s.numbered.addMat t s.nextId (.pcfg (pcfgOf w)) false []).updGroup t.bid t.grp fun g => { g with pcfg := pcfgOf w }).updThread k
        fun t => t.next 4).counted (.pcfg g a) t.bid t.grp s.nextId).endIssue rest)) ∧
    (¬ (bits (dw w 4) 31 9 = 0 ∧ dw w 7 = 0) → exec (.pcfg g a) s = .next ((s.numbered.takeTrap k t.pc t.pc { cause := 1, addr := 0, aux := 0 }).endIssue rest))

/-- R185 to R187: an `mma` fires for its whole group; without a gang, its own or that of a waiting group that lists it, it stands in the core's matrix queue with its shape, tile and slots; with a gang the group waits at the latch. -/
def Obligations.MatrixMultiplyIssue : Prop :=
  ∀ (g : BitVec 3) (n : BitVec 6) (m : BitVec 2) (c : BitVec 3) (a b : BitVec 6) (s : State) (q : IssueSet) (rest : List IssueSet)
    (bid grp : Nat) (gr : Group) (t0 : Thread) (part : List Thread) (i : Instr) (f : Nat),
    (i, f) ∈ ([(.mmaF16 g n m c a b, 0), (.mmaBf16 g n m c a b, 1), (.mmaE4m3 g n m c a b, 2), (.mmaE4m3e5m2 g n m c a b, 3), (.mmaE5m2 g n m c a b, 4), (.mmaS8 g n m c a b, 5), (.mmaE2m1 g n m c a b, 6), (.mmaBf16s4 g n m c a b, 7)] : List (Instr × Nat)) →
    s.Gathers i q rest bid grp → s.parts i q bid grp = t0 :: part → s.group? bid grp = some gr →
    let kind : MatKind := .mma f (16 * (n.toNat + 1)) (16 * 2 ^ m.toNat) c.toNat a.toNat b.toNat none []
    c.toNat + (16 * (n.toNat + 1) + 127) / 128 ≤ 8 → b.toNat + (16 * (n.toNat + 1) + 127) / 128 ≤ 64 →
    s.mayName bid grp (kind.names gr.pcfg) = true →
    (gr.gang = 0 → s.listed bid grp = false → exec i s = .next ((((s.numbered.addMat t0 s.nextId kind false []).advanceGroup i q.pc bid grp
      (s.standers bid grp q)).counted i bid grp s.nextId).endIssue rest)) ∧
    (gr.gang ≠ 0 ∨ s.listed bid grp = true → exec i s = .next (((s.numbered.updGroup bid grp fun g => { g with latch := some {
      kind, guard := i.guard, len := 4, tok := s.nextId, part := (t0 :: part).map fun t => t.tid, pc := t0.pc } }).standAt bid grp t0.pc
        .gang fun _ => true).endIssue rest))

/-- R197, R200: `fst` counts its write on the window, keeps the data for replay and hands the packet to the local port; `fld` and `fatom` send a request and wait for the answer. A window that is not open is WINDOW_STATE (18), a full one WINDOW_FULL (17). -/
def Obligations.FabricWrites : Prop :=
  (∀ (g : BitVec 3) (sz : BitVec 2) (w : BitVec 5) (a b : BitVec 7) (s : State) (k : ThreadKey) (t : Thread) (rest : List IssueSet) (v ipa : Nat), s.Alone (.fst g sz w a b) k t rest →
    let n := 4 * 2 ^ sz.toNat
    let ea := t.addr a.toNat
    let e := s.envOf t.bid
    let win := s.window e.f w.toNat
    let data := leBytes (t.opdVal (dataOpd (2 + sz.toNat) b.toNat)) n
    s.check e .fst ea n n = .ok (.peer v ipa) →
    (win.st = .open ∨ win.st = .closing → win.sent v ≠ 2 ^ 24 - 1 → win.held + n ≤ 65536 →
      let kept : BufWrite := { handle := s.handleOf t.bid, epoch := win.epoch.toNat, vdn := v, addr := ipa, data }
      let post : Posted := { id := s.nextId + 1, tok := s.nextId, bid := t.bid, grp := t.grp,
                             pkt := s.packetTo (s.handleOf t.bid) e.f v (.write w.toNat win.inc.toNat win.epoch.toNat 0 ipa data) }
      exec (.fst g sz w a b) s = .next (((({ s.setWindow e.f w.toNat { win.addSent v 1 with buf := win.buf ++ [kept] } with
        nextId := s.nextId + 2, posts := s.posts ++ [post] } : State).updThread k fun t => t.next 4).counted (.fst g sz w a b) t.bid t.grp
          s.nextId).endIssue rest)) ∧
    (win.st = .free ∨ win.st = .failed → exec (.fst g sz w a b) s = .next ((s.numbered.takeTrap k t.pc t.pc { cause := 18, addr := ea, aux := 0 }).endIssue rest)) ∧
    (win.st = .open ∨ win.st = .closing → win.sent v = 2 ^ 24 - 1 ∨ 65536 < win.held + n → exec (.fst g sz w a b) s = .next ((s.numbered.takeTrap k t.pc t.pc { cause := 17, addr := ea, aux := 0 }).endIssue rest))) ∧
  ∀ (g : BitVec 3) (d a : BitVec 7) (sz : BitVec 2) (x : BitVec 4) (p : BitVec 3) (s : State) (k : ThreadKey) (t : Thread) (rest : List IssueSet) (i : Instr) (acc : Acc) (n : Nat) (op : PeerOp)
    (dst : List Nat) (v ipa : Nat) (s2 : State),
    (i, acc, n, op, dst) ∈ ([
      (.fld g d a sz p, .fld, 4 * 2 ^ sz.toNat, .ld (4 * 2 ^ sz.toNat), t.absRegs (dataOpd (2 + sz.toNat) d.toNat)),
      (.fatom g d a x p, .fatom, if x = 3 then 8 else 4,
        if x = 2 then .atom .cas 4 (t.reg (d.toNat + 1)) (t.reg d.toNat)
        else if x = 3 then .atom .add 8 (t.pair d.toNat) 0 else .atom (fatomOp x.toNat) 4 (t.reg d.toNat) 0,
        if x = 3 then t.absRegs (.pair d.toNat) else [t.idx d.toNat])] : List (Instr × Acc × Nat × PeerOp × List Nat)) →
    s.Alone i k t rest →
    let ea := t.addr a.toNat
    let pred := if p = 7 then none else some p.toNat
    s.check (s.envOf t.bid) acc ea n n = .ok (.peer v ipa) →
    s.numbered.requestFor t s.nextId v ipa ea op dst 0 pred false = some s2 → s2.Solo t.bid →
    exec i s = .next (((s2.updThread k fun t => (t.await dst pred).next 4).counted i t.bid t.grp s.nextId).endIssue rest)

/-- R196, R198, R199, R201: opening and freeing a window, closing its epoch, its status word, and a query of the VDN table. -/
def Obligations.FabricWindows : Prop :=
  (∀ (g p : BitVec 3) (d : BitVec 7) (s : State) (k : ThreadKey) (t : Thread) (rest : List IssueSet),
    let f := (s.envOf t.bid).f
    let w := s.window f d.toNat
    (s.Alone (.fwopen g d p) k t rest → w.st = .free → exec (.fwopen g d p) s = .next (((s.numbered.setWindow f d.toNat
      { Window.reset with st := .open, inc := w.inc + 1 }).updThread k fun t => (t.setPred p.toNat true).next 4).endIssue rest)) ∧
    (s.Alone (.fwopen g d p) k t rest → w.st ≠ .free → exec (.fwopen g d p) s =
      .next ((s.numbered.updThread k fun t => (t.setPred p.toNat false).next 4).endIssue rest)) ∧
    (s.Alone (.fwopenFree g d) k t rest → w.st = .open ∨ w.st = .failed → exec (.fwopenFree g d) s = .next (((s.numbered.setWindow f d.toNat
      { Window.reset with inc := w.inc, epoch := w.epoch }).updThread k fun t => t.next 4).endIssue rest)) ∧
    (s.Alone (.fwopenFree g d) k t rest → w.st = .free ∨ w.st = .closing → exec (.fwopenFree g d) s = .next ((s.numbered.takeTrap k t.pc t.pc { cause := 18, addr := 0, aux := 0 }).endIssue rest))) ∧
  (∀ (g : BitVec 3) (sc : BitVec 2) (w : BitVec 5) (a b : BitVec 7) (s : State) (k : ThreadKey) (t : Thread) (rest : List IssueSet), s.Alone (.fwclose g sc w a b) k t rest →
    let ea := t.addr a.toNat
    let f := (s.envOf t.bid).f
    let win := s.window f w.toNat
    (win.st = .open → ea.toNat % 4 = 0 → win.targets ≠ [] → s.ownVdn f = none → exec (.fwclose g sc w a b) s =
      .next ((s.numbered.takeTrap k t.pc t.pc { cause := 21, addr := ea, aux := 0 }).endIssue rest)) ∧
    (win.st = .open → ea.toNat % 4 = 0 → win.targets ≠ [] → (∃ v, s.ownVdn f = some v) → ∀ bl, s.block? t.bid = some bl →
      exec (.fwclose g sc w a b) s = .next (((s.numbered.setWindow f w.toNat { win with
        epoch := win.epoch + 1, counts := [], closing := win.epoch, st := .closing,
        pending := win.targets.map fun v => { vdn := v, count := win.sent v, r := 0, resends := 0, deadline := 0 },
        closer := some { handle := s.handleOf t.bid, key := k, lid := bl.lid, pc := t.pc, flag := ea, value := BitVec.ofNat 32 (t.reg b.toNat),
                         scope := 5 + sc.toNat, before := s.nextId + 1, grp := t.grp, sent := false } }).updThread k
          fun t => t.next 4).endIssue rest)) ∧
    (win.st = .open → ea.toNat % 4 = 0 → win.targets = [] →
      exec (.fwclose g sc w a b) s = .next (((s.numbered.setWindow f w.toNat (({ win with
        epoch := win.epoch + 1, counts := [], closing := win.epoch } : Window).free win.epoch.toNat)).updThread k fun t => t.next 4).endIssue rest)) ∧
    (win.st ≠ .open → exec (.fwclose g sc w a b) s = .next ((s.numbered.takeTrap k t.pc t.pc { cause := 18, addr := ea, aux := 0 }).endIssue rest)) ∧
    (win.st = .open → ea.toNat % 4 ≠ 0 → exec (.fwclose g sc w a b) s = .next ((s.numbered.takeTrap k t.pc t.pc { cause := 3, addr := ea, aux := 0 }).endIssue rest))) ∧
  (∀ (g : BitVec 3) (d : BitVec 7) (w : BitVec 5) (s : State) (k : ThreadKey) (t : Thread) (rest : List IssueSet), s.Alone (.fwstat g d w) k t rest →
    let win := s.window (s.envOf t.bid).f w.toNat
    let st := match win.st with
      | .free => 0 | .open => 1 | .closing => 2 | .failed => 3
    exec (.fwstat g d w) s = .next ((s.numbered.updThread k fun t => (t.setReg d.toNat (st * 2 ^ 30 + win.fault * 2 ^ 24 + win.epoch.toNat * 2 ^ 16 +
      min 63 win.pending.length * 2 ^ 8 + (win.held + 1023) / 1024)).next 4).endIssue rest)) ∧
  ∀ (g : BitVec 3) (d a : BitVec 7) (s : State) (k : ThreadKey) (t : Thread) (rest : List IssueSet), s.Alone (.vdnq g d a) k t rest →
    let f := (s.envOf t.bid).f
    let e := s.vdne f (t.reg a.toNat % 64)
    exec (.vdnq g d a) s = .next ((s.numbered.updThread k fun t => (t.setReg d.toNat
      ((if s.vdnSelf f e then 1 else 0) * 2 ^ 16 + bits e 15 8 * 2 ^ 8 + e % 4)).next 4).endIssue rest)

/-- R206, R208, R295: `srd` reads an open system register, `swr` writes one and moves on, `mtrd`, `evrd` and `lklog` read a meter, a counter and a record of the lock log, `evcfg` sets a counter's source and clears it. A number that is not open is ACCESS_DENIED (6), a bad selector ILLEGAL_OP (1). -/
def Obligations.SystemRegisters : Prop :=
  ∀ (g : BitVec 3) (d a : BitVec 7) (s : State) (k : ThreadKey) (t : Thread) (rest : List IssueSet),
    let x := t.reg a.toNat
    let core := (s.envOf t.bid).core
    let die := core / 48
    let part := s.dieId die
    (∀ v, s.Alone (.srd g d a) k t rest → s.sread x die part = some v → exec (.srd g d a) s = .next ((s.numbered.updThread k
      fun t => (t.setReg d.toNat v.toNat).next 4).endIssue rest)) ∧
    (s.Alone (.srd g d a) k t rest → s.sread x die part = none → exec (.srd g d a) s = .next ((s.numbered.takeTrap k t.pc t.pc { cause := 6, addr := 0, aux := 0 }).endIssue rest)) ∧
    (s.Alone (.swr g d a) k t rest → sysOpen (t.reg d.toNat) = false → exec (.swr g d a) s = .next ((s.numbered.takeTrap k t.pc t.pc { cause := 6, addr := 0, aux := 0 }).endIssue rest)) ∧
    (s.Alone (.swr g d a) k t rest → sysOpen (t.reg d.toNat) = true →
      let s2 := (s.numbered.updThread k fun t => t.next 4).swrite (t.reg d.toNat) (BitVec.ofNat 32 x) die part
      s2.Solo t.bid → exec (.swr g d a) s = .next (s2.endIssue rest)) ∧
    (s.Alone (.swr g d a) k t rest → 0x0C10 ≤ t.reg d.toNat → t.reg d.toNat ≤ 0x0C18 → exec (.swr g d a) s =
      .next (((s.numbered.updThread k fun t => t.next 4).setSys (t.reg d.toNat) (BitVec.ofNat 32 (x % 65536))).endIssue rest)) ∧
    (s.Alone (.mtrd g d a) k t rest → x < 256 → x % 16 < 11 → x / 16 < 9 → exec (.mtrd g d a) s = .next ((s.numbered.updThread k fun t =>
      (t.setPair d.toNat (Tab.get (fun _ => (0 : BitVec 64)) s.meters (16 * (if x / 16 = 8 then 8 + part else x / 16) + x % 16)).toNat).next 4).endIssue rest)) ∧
    (s.Alone (.mtrd g d a) k t rest → ¬ (x < 256 ∧ x % 16 < 11 ∧ x / 16 < 9) → exec (.mtrd g d a) s = .next ((s.numbered.takeTrap k t.pc t.pc { cause := 1, addr := 0, aux := 0 }).endIssue rest)) ∧
    (s.Alone (.evcfg g d a) k t rest → t.reg d.toNat < 16 → x ≤ 15 → let c := s.core core
      exec (.evcfg g d a) s = .next (((s.numbered.setCore core { c with
        evSrc := Tab.set (fun _ => 0) c.evSrc (t.reg d.toNat) x, evCnt := Tab.set (fun _ => 0) c.evCnt (t.reg d.toNat) 0 }).updThread k fun t => t.next 4).endIssue rest)) ∧
    (s.Alone (.evcfg g d a) k t rest → 16 ≤ t.reg d.toNat → t.reg d.toNat < 48 → x = 0 ∨ (32 ≤ x ∧ x ≤ 40) → let c := s.die die
      exec (.evcfg g d a) s = .next (((s.numbered.setDie die { c with
        evSrc := Tab.set (fun _ => 0) c.evSrc (t.reg d.toNat - 16) x, evCnt := Tab.set (fun _ => 0) c.evCnt (t.reg d.toNat - 16) 0 }).updThread k fun t => t.next 4).endIssue rest)) ∧
    (s.Alone (.evcfg g d a) k t rest → 48 ≤ t.reg d.toNat ∨ (t.reg d.toNat < 16 ∧ 15 < x) ∨ (16 ≤ t.reg d.toNat ∧ x ≠ 0 ∧ ¬ (32 ≤ x ∧ x ≤ 40)) →
      exec (.evcfg g d a) s = .next ((s.numbered.takeTrap k t.pc t.pc { cause := 1, addr := 0, aux := 0 }).endIssue rest)) ∧
    (s.Alone (.evrd g d a) k t rest → x < 16 → exec (.evrd g d a) s = .next ((s.numbered.updThread k fun t => (t.setPair d.toNat ((Tab.get (fun _ => (0 : BitVec 64)) (s.core core).evCnt x).toNat)).next 4).endIssue rest)) ∧
    (s.Alone (.evrd g d a) k t rest → 16 ≤ x → x < 48 → exec (.evrd g d a) s = .next ((s.numbered.updThread k fun t => (t.setPair d.toNat (if s.levelOf t.bid = .user ∧ (s.active part).length ≠ 1 then 0 else (Tab.get (fun _ => (0 : BitVec 64)) (s.die die).evCnt (x - 16)).toNat)).next 4).endIssue rest)) ∧
    (s.Alone (.evrd g d a) k t rest → 48 ≤ x → exec (.evrd g d a) s = .next ((s.numbered.takeTrap k t.pc t.pc { cause := 1, addr := 0, aux := 0 }).endIssue rest)) ∧
    (s.Alone (.lklog g d a) k t rest → x < 64 → exec (.lklog g d a) s = .next ((s.numbered.updThread k fun t =>
      (t.setAll (t.absRegs (.quad d.toNat)) ((Tab.get (fun _ => []) s.lockLog (s.envOf t.bid).f).getD x 0).toNat).next 4).endIssue rest)) ∧
    (s.Alone (.lklog g d a) k t rest → 64 ≤ x → exec (.lklog g d a) s = .next ((s.numbered.takeTrap k t.pc t.pc { cause := 1, addr := 0, aux := 0 }).endIssue rest))

/-- R202 to R204, R207: cache control, the redundancy status and role, injection, and a checkpoint outside a redundant pair. That `kinj` of a quad 48 to 63 is ILLEGAL_OP (1) is the model's choice (log entry 62). -/
def Obligations.CacheControlAndRedundancy : Prop :=
  (∀ (g p : BitVec 3) (d a : BitVec 7) (s : State) (k : ThreadKey) (t : Thread) (rest : List IssueSet) (b : Block), s.block? t.bid = some b →
    let e := s.envOf t.bid
    let x := t.reg a.toNat
    (s.Alone (.cinvL1 g) k t rest → exec (.cinvL1 g) s = .next (((s.numbered.flushL1 e.core).updThread k fun t => t.next 4).endIssue rest)) ∧
    ((s.flushL1 e.core).l1 = s.l1.filter (fun l => l.core != e.core) ∧
      (s.poisoned = [] → (∀ f, f < 8 → (s.session f).tracking = false) → (s.flushL1 e.core).mem = s.mem)) ∧
    (s.Alone (.cinvC g) k t rest → exec (.cinvC g) s = .next ((((s.numbered.dropLeases e.core).flushConst (e.core / 48)).updThread k
      fun t => { t.next 4 with wait := .pause }).endIssue rest)) ∧
    (s.Alone (.cwbMere g d a) k t rest → (∀ page ∈ pagesOf (t.addr a.toNat) (t.reg d.toNat), ∃ pa, s.resolve e .ld page 1 = .ok (.loc pa)) →
      let s2 := (pagesOf (t.addr a.toNat) (t.reg d.toNat)).foldl (fun s page => s.cleanPage e (t.addr a.toNat) (t.reg d.toNat) page) (s.numbered.dropLeases e.core)
      s2.Solo t.bid → exec (.cwbMere g d a) s = .next ((s2.updThread k fun t => t.next 4).endIssue rest)) ∧
    (s.Alone (.kinj g a) k t rest → x < 4096 → x % 64 < 48 → exec (.kinj g a) s = .next (((s.numbered.setQuad (x % 64) { s.quad (x % 64) with
      inject := if bit x 11 then some (bits x 10 6) else none }).updThread k fun t => t.next 4).endIssue rest)) ∧
    (s.Alone (.kinj g a) k t rest → ¬ (x < 4096 ∧ x % 64 < 48) → exec (.kinj g a) s = .next ((s.numbered.takeTrap k t.pc t.pc { cause := 1, addr := 0, aux := 0 }).endIssue rest)) ∧
    (s.Alone (.ckstat g d) k t rest → (∀ gr ∈ s.groups, gr.bid = t.bid → gr.fails = 0) → exec (.ckstat g d) s =
      .next ((s.numbered.updThread k fun t => (t.setReg d.toNat (min 255 b.mismatches * 256)).next 4).endIssue rest)) ∧
    (s.Alone (.ckrole g p) k t rest → exec (.ckrole g p) s = .next ((s.numbered.updThread k fun t => (t.setPred p.toNat true).next 4).endIssue rest))) ∧
  ∀ (g : BitVec 3) (s : State) (q : IssueSet) (rest : List IssueSet) (bid grp : Nat), s.Gathers (.ckpt g) q rest bid grp →
    exec (.ckpt g) s = .next ((s.numbered.advanceGroup (.ckpt g) q.pc bid grp (s.standers bid grp q)).endIssue rest)

/-- R205, R371: `trd` reads the word of the trap frame that its selector names; `tret` ends the handler and goes to the resume address, or to the address of a pair, whose traps have that address as theirs (the model's reading, log entry 49). -/
def Obligations.TrapReturnAndRead : Prop :=
  (∀ (g : BitVec 3) (d : BitVec 7) (sel : BitVec 3) (n v : Nat) (s : State) (k : ThreadKey) (t : Thread) (rest : List IssueSet), s.Alone (.trd g d sel) k t rest →
    (n, v) ∈ [(0, t.frame.cause), (1, t.frame.pc.toNat % 2 ^ 32), (2, t.frame.pc.toNat / 2 ^ 32), (3, t.frame.addr.toNat % 2 ^ 32),
      (4, t.frame.addr.toNat / 2 ^ 32), (5, t.frame.aux.toNat)] → sel.toNat = n →
    exec (.trd g d sel) s = .next ((s.numbered.updThread k fun t => (t.setReg d.toNat v).next 4).endIssue rest)) ∧
  (∀ (g : BitVec 3), Performs (.tret g) fun t => { t.goto t.frame.resume with inHandler := false }) ∧
  ∀ (g : BitVec 3) (a : BitVec 7),
    let ok (s : State) (t : Thread) : Prop := (t.addr a.toNat).toNat % 4 = 0 ∧ s.landed t (t.addr a.toNat) = true
    PerformsWhere (.tretAddr g a) ok (fun _ t => ({ t with inHandler := false } : Thread).goto (t.addr a.toNat)) ∧
    ∀ (s : State) (k : ThreadKey) (t : Thread) (rest : List IssueSet), ¬ ok s t → s.Alone (.tretAddr g a) k t rest → exec (.tretAddr g a) s = .next ((s.takeTrap k t.pc t.pc
      { cause := if (t.addr a.toNat).toNat % 4 = 0 then 7 else 3, addr := t.addr a.toNat, aux := 0 }).endIssue rest)

/-- R28, R91, R114 and R119: the second word's function with the composed 32-bit immediate, or with the rounding that hi[1:0] selects; the pair is 8 bytes long. -/
def Obligations.LimArithmetic : Prop :=
  ∀ (h : BitVec 26) (w : BitVec 32) (g : BitVec 3) (d a b : BitVec 7) (x : BitVec 9) (y : BitVec 16),
    let m := Mode.of h.toNat
    (decodeWord w.toNat = some (.addi g d a x) → Performs (.lim h w) (fun t => (t.setReg d.toNat (low 32 ((t.reg a.toNat : Int) + sgn 32 (h.toNat * 2 ^ 9 + x.toNat)))).next 8)) ∧
    (decodeWord w.toNat = some (.addiB64 g d a x) → Performs (.lim h w) (fun t => (t.setPair d.toNat (low 64 ((t.pair a.toNat : Int) + sgn 32 (h.toNat * 2 ^ 9 + x.toNat)))).next 8)) ∧
    (decodeWord w.toNat = some (.movi g d y) → Performs (.lim h w) (fun t => (t.setReg d.toNat (h.toNat * 2 ^ 16 + y.toNat)).next 8)) ∧
    (decodeWord w.toNat = some (.fadd g d a b) → Performs (.lim h w) (fun t => (fpTo d.toNat (rne .fp32 m (Val.add m (Fmt.fp32.decode (t.reg a.toNat)) (Fmt.fp32.decode (t.reg b.toNat)))) t).next 8)) ∧
    (decodeWord w.toNat = some (.fsub g d a b) → Performs (.lim h w) (fun t => (fpTo d.toNat (rne .fp32 m (Val.add m (Fmt.fp32.decode (t.reg a.toNat)) (Fmt.fp32.decode (t.reg b.toNat)).neg)) t).next 8)) ∧
    (decodeWord w.toNat = some (.fmul g d a b) → Performs (.lim h w) (fun t => (fpTo d.toNat (rne .fp32 m (Val.mul (Fmt.fp32.decode (t.reg a.toNat)) (Fmt.fp32.decode (t.reg b.toNat)))) t).next 8)) ∧
    (decodeWord w.toNat = some (.ffma g d a b) → Performs (.lim h w) (fun t => (fpTo d.toNat (rne .fp32 m (Val.add m (Val.mul (Fmt.fp32.decode (t.reg a.toNat)) (Fmt.fp32.decode (t.reg b.toNat))) (Fmt.fp32.decode (t.reg d.toNat)))) t).next 8)) ∧
    (decodeWord w.toNat = some (.frnd g d a) → Performs (.lim h w) (fun t => (t.setFp d.toNat (frndC m (t.reg a.toNat))).next 8)) ∧
    (decodeWord w.toNat = some (.fdot2F16 g d a b) → Performs (.lim h w) (fun t => (fpTo d.toNat (rne .fp32 m (Val.sum m [Val.mul (Fmt.fp16.decode (elem .fp16 (t.reg a.toNat) 0)) (Fmt.fp16.decode (elem .fp16 (t.reg b.toNat) 0)), Val.mul (Fmt.fp16.decode (elem .fp16 (t.reg a.toNat) 1)) (Fmt.fp16.decode (elem .fp16 (t.reg b.toNat) 1)), Fmt.fp32.decode (t.reg d.toNat)])) t).next 8)) ∧
    (decodeWord w.toNat = some (.faddF16x2 g d a b) → Performs (.lim h w) (fun t => (t.setFp d.toNat (packed2 .fp16 (faddC .fp16 m) (t.reg a.toNat) (t.reg b.toNat))).next 8)) ∧
    (decodeWord w.toNat = some (.fsubF16x2 g d a b) → Performs (.lim h w) (fun t => (t.setFp d.toNat (packed2 .fp16 (fsubC .fp16 m) (t.reg a.toNat) (t.reg b.toNat))).next 8)) ∧
    (decodeWord w.toNat = some (.fmulF16x2 g d a b) → Performs (.lim h w) (fun t => (t.setFp d.toNat (packed2 .fp16 (fmulC .fp16 m) (t.reg a.toNat) (t.reg b.toNat))).next 8)) ∧
    (decodeWord w.toNat = some (.ffmaF16x2 g d a b) → Performs (.lim h w) (fun t => (t.setFp d.toNat (packed3 .fp16 (ffmaC .fp16 m) (t.reg a.toNat) (t.reg b.toNat) (t.reg d.toNat))).next 8)) ∧
    (decodeWord w.toNat = some (.fdot2Bf16 g d a b) → Performs (.lim h w) (fun t => (fpTo d.toNat (rne .fp32 m (Val.sum m [Val.mul (Fmt.bf16.decode (elem .bf16 (t.reg a.toNat) 0)) (Fmt.bf16.decode (elem .bf16 (t.reg b.toNat) 0)), Val.mul (Fmt.bf16.decode (elem .bf16 (t.reg a.toNat) 1)) (Fmt.bf16.decode (elem .bf16 (t.reg b.toNat) 1)), Fmt.fp32.decode (t.reg d.toNat)])) t).next 8)) ∧
    (decodeWord w.toNat = some (.faddBf16x2 g d a b) → Performs (.lim h w) (fun t => (t.setFp d.toNat (packed2 .bf16 (faddC .bf16 m) (t.reg a.toNat) (t.reg b.toNat))).next 8)) ∧
    (decodeWord w.toNat = some (.fsubBf16x2 g d a b) → Performs (.lim h w) (fun t => (t.setFp d.toNat (packed2 .bf16 (fsubC .bf16 m) (t.reg a.toNat) (t.reg b.toNat))).next 8)) ∧
    (decodeWord w.toNat = some (.fmulBf16x2 g d a b) → Performs (.lim h w) (fun t => (t.setFp d.toNat (packed2 .bf16 (fmulC .bf16 m) (t.reg a.toNat) (t.reg b.toNat))).next 8)) ∧
    (decodeWord w.toNat = some (.ffmaBf16x2 g d a b) → Performs (.lim h w) (fun t => (t.setFp d.toNat (packed3 .bf16 (ffmaC .bf16 m) (t.reg a.toNat) (t.reg b.toNat) (t.reg d.toNat))).next 8))

/-- R28: a branch under a payload goes to PC + 4·off with the 49-bit offset from the `lim` word, and traps with the target as its address (the model's reading, log entry 49); a `cvt` takes its rounding and its seed register; every other combination is ILLEGAL_OP at the `lim` address. -/
def Obligations.LimTransfersAndConversion : Prop :=
  (∀ (h : BitVec 26) (w : BitVec 32) (g : BitVec 3) (o : BitVec 23),
    let to_ (t : Thread) : VAddr := t.pc + BitVec.ofInt 64 (4 * sgn 49 (h.toNat * 2 ^ 23 + o.toNat))
    let ok (s : State) (t : Thread) : Prop := s.landed t (to_ t) = true
    (decodeWord w.toNat = some (.bra g o) ∨ decodeWord w.toNat = some (.jfence g o) →
      PerformsWhere (.lim h w) ok (fun _ t => t.goto (to_ t))) ∧
    (decodeWord w.toNat = some (.call g o) → PerformsWhere (.lim h w) ok (fun _ t => (t.setPair 0 (t.pc + 8).toNat).goto (to_ t))) ∧
    ∀ (s : State) (k : ThreadKey) (t : Thread) (rest : List IssueSet), s.landed t (to_ t) = false → s.Alone (.lim h w) k t rest →
      decodeWord w.toNat = some (.bra g o) ∨ decodeWord w.toNat = some (.jfence g o) ∨ decodeWord w.toNat = some (.call g o) →
      exec (.lim h w) s = .next ((s.takeTrap k t.pc t.pc { cause := 7, addr := to_ t, aux := 0 }).endIssue rest)) ∧
  (∀ (h : BitVec 26) (w : BitVec 32) (g : BitVec 3) (d a : BitVec 7) (x : BitVec 1) (y z : BitVec 4),
    decodeWord w.toNat = some (.cvt g d a x y z) → Performs (.lim h w) (fun t =>
      let n := bits h.toNat 9 3
      let seed := srStep (t.reg n)
      let r := cvtC y.toNat z.toNat (x == 1) (Mode.of h.toNat) (if bit h.toNat 2 then some seed else none)
        (if z = 10 ∨ z = 11 then t.pair a.toNat else t.reg a.toNat)
      let u := if bit h.toNat 2 then t.setReg n seed else t
      ((if y = 10 ∨ y = 11 then u.setPair d.toNat r.1 else u.setReg d.toNat r.1).raise r.2).next 8)) ∧
  ∀ (h : BitVec 26) (w : BitVec 32) (s : State) (k : ThreadKey) (t : Thread) (p : IssueSet) (rest : List IssueSet),
    (∀ i, decodeWord w.toNat = some i → i.wf1 = false ∨ limOk h.toNat i = false) → s.ports = p :: rest → p.members = [k] → p.pc = t.pc →
    s.thread? k = some t → (∀ u ∈ s.threads, u.key = k → u = t) →
    ∃ s2, (s2 = s ∨ s2 = s.numbered) ∧
      exec (.lim h w) s = .next ((s2.takeTrap k t.pc t.pc { cause := 1, addr := 0, aux := 0 }).endIssue rest)

/-- R28, R137, R186: a memory access under a payload is at A + off × size, off the signed 30-bit hi:off4, and issues as its second word does (LoadsIssue, StoresIssue), 8 bytes long; an `mma` with hi[0] takes its metadata slot from hi[6:1]. -/
def Obligations.LimMemoryAndMatrix : Prop :=
  (∀ (h : BitVec 26) (w : BitVec 32) (g : BitVec 3) (d a : BitVec 7) (z : BitVec 3) (z1 : BitVec 1) (y : BitVec 2) (o : BitVec 4) (s : State) (k : ThreadKey) (t : Thread) (rest : List IssueSet),
    let ea (n : Nat) : VAddr := t.addr a.toNat + BitVec.ofInt 64 (sgn 30 (h.toNat * 2 ^ 4 + o.toNat) * n)
    let e := s.envOf t.bid
    s.Alone (.lim h w) k t rest →
    (∀ (i : Instr) (acc : Acc) (c : Nat) (ty : BitVec 2) (acq : Bool) (kind : LoadKind) tgt,
      (i, acc, c, ty, acq, kind) ∈ ([(.ld g d a z y o, .ld, z.toNat, y, false, .ld), (.ldAcq g d a z1 y o, .ld, 2 + z1.toNat, y, true, .ld),
        (.ldC g d a z o, .ldc, z.toNat, 0, false, .ldc)] : List (Instr × Acc × Nat × BitVec 2 × Bool × LoadKind)) →
      decodeWord w.toNat = some i → s.check e acc (ea (szBytes c)) (szBytes c) (szBytes c) = .ok tgt → (∀ v x, tgt ≠ .peer v x) →
      (∀ x, tgt = .host x → szBytes c ≠ 16) →
      let dst := t.absRegs (dataOpd c d.toNat)
      let l : Load := {
        id := s.nextId + 1, tok := s.nextId, bid := t.bid, grp := t.grp, tid := t.tid, ea := ea (szBytes c), tgt, n := szBytes c,
        signed := szSign c != 0, dst, ty, acq, kind, home := false }
      exec (.lim h w) s = .next (((({ s with nextId := s.nextId + 2, loads := s.loads ++ [
        { l with home := (s.group? t.bid t.grp).any fun g => g.updateAhead l }] } : State).updThread k fun t => (t.await dst none).next 8).counted
          i t.bid t.grp s.nextId).endIssue rest)) ∧
    (∀ (i : Instr) (c : Nat) (rel : Bool) tgt,
      (i, c, rel) ∈ ([(.st g d a z y o, z.toNat, false), (.stRel g d a z1 y o, 2 + z1.toNat, true)] : List (Instr × Nat × Bool)) →
      decodeWord w.toNat = some i → s.check e .st (ea (szBytes c)) (szBytes c) (szBytes c) = .ok tgt → (∀ x, tgt = .host x → szBytes c ≠ 16) →
      exec (.lim h w) s = .next (((({ s with nextId := s.nextId + 2 } : State).updGroup t.bid t.grp fun q => { q with queue := q.queue ++ [{
        rel, sent := false, id := s.nextId + 1, tok := s.nextId, tid := t.tid, ea := ea (szBytes c), tgt, ty := y,
        kind := .store (leBytes (t.opdVal (dataOpd c d.toNat)) (szBytes c)) }] }).updThread k (fun t => t.next 8)).counted i t.bid t.grp
          s.nextId |>.endIssue rest)) ∧
    (∀ x, z.toNat = 4 → let dst := t.absRegs (dataOpd 4 d.toNat)
      (decodeWord w.toNat = some (.ld g d a z y o) → s.check e .ld (ea 16) 16 16 = .ok (.host x) →
        let half (id off : Nat) (dst : List Nat) : Load :=
          let l : Load := {
            id, tok := s.nextId, bid := t.bid, grp := t.grp, tid := t.tid, ea := ea 16 + BitVec.ofNat 64 off, tgt := .host (x + off), n := 8,
            signed := false, dst, ty := y, acq := false, kind := .ld, home := false }
          { l with home := (s.group? t.bid t.grp).any fun g => g.updateAhead l }
        exec (.lim h w) s = .next (((({ s with nextId := s.nextId + 3, loads := s.loads ++ [half (s.nextId + 1) 0 (dst.take 2),
          half (s.nextId + 2) 8 ((dst.drop 2).take 2)] } : State).updThread k fun t => (t.await dst none).next 8).counted
            (.ld g d a z y o) t.bid t.grp s.nextId).endIssue rest)) ∧
      (decodeWord w.toNat = some (.st g d a z y o) → s.check e .st (ea 16) 16 16 = .ok (.host x) →
        let half (id off : Nat) (bs : List Byte) : QEntry := {
          rel := false, sent := false, id, tok := s.nextId, tid := t.tid, ea := ea 16 + BitVec.ofNat 64 off, tgt := .host (x + off), ty := y,
          kind := .store bs }
        let v := t.opdVal (dataOpd 4 d.toNat)
        exec (.lim h w) s = .next ((((({ s with nextId := s.nextId + 3 } : State).updGroup t.bid t.grp fun q => { q with
          queue := q.queue ++ [half (s.nextId + 1) 0 (leBytes v 8)] }).updGroup t.bid t.grp fun q => { q with
          queue := q.queue ++ [half (s.nextId + 2) 8 (leBytes (v / 2 ^ 64) 8)] }).updThread k (fun t => t.next 8)).counted
            (.st g d a z y o) t.bid t.grp s.nextId |>.endIssue rest))) ∧
    (decodeWord w.toNat = some (.pref g a y o) → (ea 128).toNat % 128 ≠ 0 ∨ (∀ pa, s.resolve e .ld (ea 128) 1 ≠ .ok (.loc pa)) →
      exec (.lim h w) s = .next ((s.numbered.updThread k fun t => t.next 8).endIssue rest))) ∧
  (∀ (h : BitVec 26) (w : BitVec 32) (g : BitVec 3) (n : BitVec 6) (m : BitVec 2) (c : BitVec 3) (a b : BitVec 6) (s : State) (q : IssueSet)
    (rest : List IssueSet) (bid grp : Nat) (gr : Group) (t0 : Thread) (part : List Thread) (i : Instr) (f : Nat),
    (i, f) ∈ ([(.mmaF16 g n m c a b, 0), (.mmaBf16 g n m c a b, 1), (.mmaE4m3 g n m c a b, 2), (.mmaE4m3e5m2 g n m c a b, 3), (.mmaE5m2 g n m c a b, 4), (.mmaS8 g n m c a b, 5), (.mmaE2m1 g n m c a b, 6), (.mmaBf16s4 g n m c a b, 7)] : List (Instr × Nat)) →
    decodeWord w.toNat = some i → s.Gathers (.lim h w) q rest bid grp → s.parts (.lim h w) q bid grp = t0 :: part → s.group? bid grp = some gr →
    let md := if bit h.toNat 0 then some (bits h.toNat 6 1) else none
    let kind : MatKind := .mma f (16 * (n.toNat + 1)) (16 * 2 ^ m.toNat) c.toNat a.toNat b.toNat md []
    mmaOver kind = false → s.mayName bid grp (kind.names gr.pcfg) = true → gr.gang = 0 → s.listed bid grp = false → gr.pcfg.sparseTrap = false →
    exec (.lim h w) s = .next ((((s.numbered.addMat t0 s.nextId kind false []).advanceGroup (.lim h w) q.pc bid grp
      (s.standers bid grp q)).counted i bid grp s.nextId).endIssue rest))

/-- R17, R19 to R22, R28, R31 to R34: the bytes of every encoded instruction decode to it, with every operand at every value, and leave the bytes that follow. -/
def Obligations.DecodeEncode : Prop :=
  ∀ i : Instr, i.encoded = true → ∀ rest : List Byte, decode (encode i ++ rest) = some (i, rest)

/-- R35: a word that decodes is the word of its instruction, so no bit of it is ignored: bits that must be zero are checked. -/
def Obligations.EncodeDecode : Prop :=
  ∀ (w : Nat) (i : Instr), w < 2 ^ 32 → decodeWord w = some i → encodeWord i = w

/-- Words written out from the encodings of the manual, one or more of each family. -/
def Obligations.SpecWords : Prop :=
  decodeWord 0x05004103 = some (.addB32 2 1 2 3) ∧
  decodeWord 0xA3880883 = some (.ld 7 8 4 2 0 3) ∧ decodePair 0xFC0000C3 0x43850CA0 = some (.lim 0xC3 0x43850CA0) ∧
  decodeWord 0x83FFFFFD = some (.bra 7 0x7FFFFD) ∧ decodeWord 0x27C0C286 = some (.cmpLtSB32 7 3 5 6) ∧
  decodeWord 0x64E08080 = some (.pnot 1 2 1) ∧ decodeWord 0x33E10286 = some (.ffma 7 4 5 6) ∧
  decodeWord 0xBB820209 = some (.atomAdd 7 8 4 9) ∧ decodeWord 0xE7850600 = some (.barSync 7 3) ∧
  decodeWord 0xE3808201 = some (.llock 7 2 4 1) ∧ decodeWord 0xEF800040 = some (.cpBulk 7 4) ∧
  decodeWord 0xF3810018 = some (.trel 7 6) ∧ decodeWord 0xFB881218 = some (.srd 7 9 6)

/-- R73, R83, R95: where an issue set waits at a port and the bytes at its PC, in the landed granule of its code, decode to an instruction, a step is `exec` of that instruction on the set's threads that still stand there. A `lim` in a granule's last word is no pair (R29). That an issue set at a port comes before inputs and packets is the model's order (log entry 2). -/
def Obligations.StepRunsDecoded : Prop :=
  ∀ (s : State) (p : IssueSet) (rest : List IssueSet) (t : Thread) (ts : List Thread) (b : Block) (l : Launch) (n : Nat) (g : Seg)
    (i : Instr) (r : List Byte),
    s.ports = p :: rest → s.membersOf (s.standing p) = t :: ts → s.block? t.bid = some b → s.launch? b.lid = some l →
    (s.core b.core).segOf l.tag (t.pc.toNat / 4096) = some (n, g) → g.landed = true →
    decode ((s.core b.core).imem.bytes (4096 * n + t.pc.toNat % 4096) 8) = some (i, r) → (i.len = 8 → t.pc.toNat % 4096 ≠ 4092) →
    step s = exec i { s with ports := s.standing p :: rest }

/-- R29, R35, R95: a thread whose PC lies in a granule that has not landed takes CODE_ABSENT (7) with the PC as its address; where the bytes decode to no instruction, ILLEGAL_OP (1). An issue set that no thread stands at any more ends. That an issue set at a port comes before inputs and packets is the model's order (log entry 2). -/
def Obligations.FetchTraps : Prop :=
  ∀ (s : State) (p : IssueSet) (rest : List IssueSet), s.ports = p :: rest →
    ((s.standing p).members = [] → step s = .next (({ s with ports := s.standing p :: rest } : State).endIssue rest)) ∧
    ∀ (k : ThreadKey) (t : Thread) (b : Block) (l : Launch), (s.standing p).members = [k] → s.thread? k = some t → s.block? t.bid = some b →
      s.launch? b.lid = some l →
      let s1 := { s with ports := s.standing p :: rest }
      let c := s.core b.core
      ((∀ n g, c.segOf l.tag (t.pc.toNat / 4096) = some (n, g) → g.landed = false) →
        step s = .next ((s1.takeTrap k p.pc p.pc { cause := 7, addr := p.pc, aux := 0 }).endIssue rest)) ∧
      ∀ n g, c.segOf l.tag (t.pc.toNat / 4096) = some (n, g) → g.landed = true →
        decodePair (c.imem.read (4096 * n + t.pc.toNat % 4096) 4) (c.imem.read (4096 * n + t.pc.toNat % 4096 + 4) 4) = none ∨
          (isLim (c.imem.read (4096 * n + t.pc.toNat % 4096) 4) = true ∧ t.pc.toNat % 4096 = 4092) →
        step s = .next ((s1.takeTrap k p.pc p.pc { cause := 1, addr := 0, aux := 0 }).endIssue rest)

/-- R36, R33, R18, R372: the checks before an instruction's own, for a set of one thread: ILLEGAL_OP (1) for an encoding that is not well-formed, for a handler's instruction outside one and for a collective inside one; SYS_PRIV (24); then the guard, whose false leaves only the PC moved; then REG_RANGE (2), which `pref` never takes (R146). -/
def Obligations.IssueChecks : Prop :=
  ∀ (i : Instr) (s : State) (k : ThreadKey) (t : Thread) (p : IssueSet) (rest : List IssueSet), i.encoded = true →
    s.ports = p :: rest → p.members = [k] → p.pc = t.pc → s.threads.filter (fun u => u.key == k) = [t] →
    let trap (c : Nat) : Prop := ∃ s2, (s2 = s ∨ s2 = s.numbered) ∧
      exec i s = .next ((s2.takeTrap k t.pc t.pc { cause := c, addr := 0, aux := 0 }).endIssue rest)
    let skip : Prop := ∃ s2, (s2 = s ∨ s2 = s.numbered) ∧ exec i s = .next ((s2.updThread k fun t => t.next i.len).endIssue rest)
    let placed : Prop := (i.level = .handler → t.inHandler = true) ∧ (i.collective = true → t.inHandler = false)
    (i.wf = false → trap 1) ∧
    (i.wf = true → ¬ placed → trap 1) ∧
    (i.wf = true → placed → i.collective = false → levelAllows (s.levelOf t.bid) i.level = false → trap 24) ∧
    (i.wf = true → placed → i.collective = false → levelAllows (s.levelOf t.bid) i.level = true → s.ready s.nextId t i = true →
      (t.pred i.guard = false → skip) ∧
      (t.pred i.guard = true → t.covers i = false → if neverTraps i = true then skip else trap 2))

/-- R24, R25, R61, R166: the frames that `Performs` rests on. Ending an issue changes the ports, and after the cycle's last set the barrier registers of blocks and the waits of threads, and nothing else. An instruction on threads alone changes the threads of its set and the vector meters, and no memory; setReg, setPair, setPred, raise and next change the one field that they name. -/
def Obligations.FramesOfIssues : Prop :=
  (∀ (s : State) (rest : List IssueSet),
    (rest ≠ [] → s.endIssue rest = { s with ports := rest }) ∧
    ((∀ b ∈ s.blocks, b.barEvs = []) → s.endIssue rest = { s with ports := rest }) ∧
    let u := s.endIssue rest
    u = { s with ports := rest, blocks := u.blocks, threads := u.threads } ∧
    (u.blocks.map fun b => { b with bars := [], barEvs := [], arrivers := [] }) = (s.blocks.map fun b => { b with bars := [], barEvs := [], arrivers := [] }) ∧
    (u.threads.map fun t => { t with wait := .none }) = (s.threads.map fun t => { t with wait := .none })) ∧
  ((∀ (s : State) (p : IssueSet) (i : Instr) (f : Thread → Thread),
    s.stepped p i f = { s with threads := (s.stepped p i f).threads, meters := (s.stepped p i f).meters } ∧
    (∀ a, (s.stepped p i f).mem.byte a = s.mem.byte a) ∧
    (i.vecOps = 0 → (s.stepped p i f).meters = s.meters) ∧
    ∀ t ∈ s.threads, p.members.contains t.key = false → t ∈ (s.stepped p i f).threads) ∧
  (∀ (t : Thread) (n v : Nat), t.setReg n v = { t with regs := (t.setReg n v).regs } ∧ t.setPair n v = { t with regs := (t.setPair n v).regs }) ∧
  (∀ (t : Thread) (n : Nat) (b : Bool), t.setPred n b = { t with preds := (t.setPred n b).preds }) ∧
  (∀ (t : Thread) (c : BitVec 5), t.raise c = { t with flags := t.flags ||| c }) ∧
  (∀ (t : Thread) (n : Nat), t.next n = { t with pc := t.pc + BitVec.ofNat 64 n, age := 0, icount := t.icount + 1, wait := .none }))

/-- R5, R24 to R26, R64, R65, R231: a register keeps 32 bits and reads back, pairs are low word first, p7 reads true and takes no write; stored bytes read back, other bytes are unchanged, values are little-endian, and the canonical form is kept, in which equal contents are equal data (log entry 3). -/
def Obligations.RegistersAndMemory : Prop :=
  (∀ (t : Thread), (t.regs.wf fun _ => (0 : Word)) = true →
    (∀ n v, (t.setReg n v).reg n = v % 2 ^ 32 ∧ ((t.setReg n v).regs.wf fun _ => (0 : Word)) = true ∧
      ∀ m, m ≠ n → (t.setReg n v).reg m = t.reg m) ∧
    (∀ n v, (t.setPair n v).pair n = v % 2 ^ 64 ∧ ∀ m, m ≠ n → m ≠ n + 1 → (t.setPair n v).reg m = t.reg m) ∧
    (∀ n, t.reg n < 2 ^ 32) ∧
    (∀ n w, ({ t with wb := w } : Thread).reg n = ({ t with wb := 0 } : Thread).reg (16 * w + n)) ∧
    (∀ b, t.setPred 7 b = t) ∧ t.pred 7 = true ∧
    (∀ n b, n < 7 → (t.setPred n b).pred n = b ∧ ∀ m, m ≠ n → (t.setPred n b).pred m = t.pred m)) ∧
  (∀ m : Memory, m.wf = true →
    (∀ a bs x, (m.store a bs).byte x = if a ≤ x ∧ x < a + bs.length then bs.getD (x - a) 0 else m.byte x) ∧
    (∀ a bs, (m.store a bs).wf = true) ∧
    (∀ a n v, (m.store a (leBytes v n)).read a n = v % 256 ^ n) ∧
    (∀ a n x, (m.zero a n).wf = true ∧ (m.zero a n).byte x = if a ≤ x ∧ x < a + n then 0 else m.byte x) ∧
    ∀ m2 : Memory, m2.wf = true → (∀ x, m.byte x = m2.byte x) → m = m2)

/-- R370, R371: a thread outside a handler whose launch names one records its frame, is marked and goes to the handler; registers, predicates, window base, allocation and flags, and the rest of the machine, are as before. -/
def Obligations.TrapEntry : Prop :=
  ∀ (s : State) (k : ThreadKey) (t : Thread) (l : Launch) (pc resume : VAddr) (x : DefTrap),
    s.thread? k = some t → s.launchOf k.bid = some l → t.inHandler = false → l.record.handler ≠ 0 →
    (t.wait ≠ .lock → t.wait ≠ .gang → t.wait ≠ .regacq → s.takeTrap k pc resume x = s.updThread k fun t => { t with
      wait := .none, frame := { cause := x.cause, pc, resume, addr := x.addr, aux := x.aux }, inHandler := true, pc := l.record.handler, age := 0 }) ∧
    ∃ u, (s.takeTrap k pc resume x).thread? k = some u ∧ u = { t with
      wait := .none, frame := { cause := x.cause, pc, resume, addr := x.addr, aux := x.aux }, inHandler := true, pc := l.record.handler, age := 0 } ∧
      (s.takeTrap k pc resume x).mem = s.mem ∧ (s.takeTrap k pc resume x).sysregs = s.sysregs

/-- R239, R242, R243, R437, R438: the lease clock, expiry of leases, the constant counter with its wrap and pause, and the power states of cores and dies. That the ticks that fall in a pause are not made up is the model's choice (log entry 65). -/
def Obligations.LeasesConstantsAndPower : Prop :=
  ∀ (s : State) (n : Nat),
    let d := s.die n
    let c := s.core n
    -- the lease clock of a die ticks, and an L1 drops its expired lines (R239)
    (n < 4 → d.power ≠ .sleep → d.lease.toNat < s.clk / 64 → exec (.leaseClockTick n) s = .next (s.setDie n { d with lease := d.lease + 1 })) ∧
    (∃ t, exec (.leaseVisit n) s = .next t ∧ t.l1 = s.l1.filter (fun l => !(l.core == n && s.expired l)) ∧ t.mem = s.mem ∧ t.threads = s.threads) ∧
    (∀ l : L1Line, s.expired l = true ↔ l.st = .leased ∧ leaseValid l.expiry (s.leaseNow (dieOf l.core)) = false) ∧
    -- the constant counter (R242)
    (n < 4 → d.pause = false → d.constNext ≤ s.clk → d.constCnt < 4095 → exec (.constantTick n) s =
      .next (s.setDie n { d with constCnt := d.constCnt + 1, constNext := d.constNext + 1024 })) ∧
    (n < 4 → d.wrap = false → d.constNext ≤ s.clk → d.constCnt = 4095 → ∃ t, exec (.constantWrap n) s = .next t ∧
      (t.die n).pause = true ∧ (t.die n).wrap = true ∧ (t.die n).constLines = [] ∧ (t.die n).constCnt = 4095 ∧ t.threads = s.threads ∧ t.mem = s.mem) ∧
    (d.pause = true → s.dies.wf (fun _ => Die.reset) = true → ∃ t, exec (.constantPauseEnd n) s = .next t ∧ (t.die n).pause = false ∧ (t.die n).wrap = false ∧
      (t.die n).constCnt = (if d.wrap then 0 else d.constCnt) ∧ (t.die n).constNext = (if d.wrap then s.clk + 1024 else d.nextTick s.clk) ∧
      t.threads = s.threads.map fun t =>
        if t.wait = .pause ∧ (s.block? t.bid).any (fun b => dieOf b.core == n) then { t with wait := .none } else t) ∧
    -- cores (R243, R437)
    (n < 192 → c.power = .run → (s.resident n).all (fun b => b.lastIssue + 64 ≤ s.clk) = true → s.coreReady n = false →
      exec (.clockGateEntry n) s = .next (s.setCore n { c with power := .clockGate, gatedAt := s.clk })) ∧
    (n < 192 → c.power = .run ∨ c.power = .clockGate → s.coreIdle n = true → s.mayGate (dieOf n) 2 = true → s.cores.wf (fun _ => Core.reset) = true →
      s.dies.wf (fun _ => Die.reset) = true → ∃ t, exec (.coreRetentionEntry n) s = .next t ∧
      (t.core n).power = .retention ∧ (t.core n).gatedAt = s.clk ∧ (t.core n).wrapEpoch = (t.die (dieOf n)).lease.toNat / 2 ^ 19 ∧
      ∀ l ∈ t.l1, l.core = n → l.st = .leased) ∧
    (c.power = .retention → s.cores.wf (fun _ => Core.reset) = true → ∃ t, exec (.coreRetentionWake n) s = .next t ∧
      exec (.wakeRequest false n) s = .next t ∧ (t.core n).power = .run ∧
      -- its die wakes with it, and its lease clock is set forward first (R239)
      (s.dies.wf (fun _ => Die.reset) = true → (t.die (dieOf n)).power ≠ .sleep ∧
        ((s.die (dieOf n)).power = .sleep → (t.die (dieOf n)).lease = BitVec.ofNat 64 (s.clk / 64))) ∧
      (c.wrapEpoch ≠ (t.die (dieOf n)).lease.toNat / 2 ^ 19 → ∀ l ∈ t.l1, l.core = n → l.st ≠ .leased)) ∧
    (c.power = .clockGate → exec (.wakeRequest false n) s = .next (s.ungate n)) ∧
    -- dies (R243, R437)
    (n < 4 → d.power = .run → s.dieGated n = true → d.mereAt + us 10 ≤ s.clk → s.mayGate n 40 = true → s.maySleep n = false →
      exec (.mereRetentionEntry n) s = .next (s.setDie n { d with power := .mereRetention })) ∧
    (n < 4 → d.power = .run ∨ d.power = .mereRetention → s.dieGated n = true → d.mereAt + us 10 ≤ s.clk → bits (s.milv n) 11 8 = 0 →
      s.mayGate n 1500 = true → s.dies.wf (fun _ => Die.reset) = true → ∃ t, exec (.dieSleepEntry n) s = .next t ∧
      (t.die n).power = .sleep ∧ (t.die n).constLines = [] ∧ (∀ l ∈ t.l1, dieOf l.core ≠ n) ∧ (s.poisoned = [] → t.mem = s.mem)) ∧
    (n < 4 → d.power = .sleep → exec (.wakeRequest true n) s =
      .next (s.setDie n { d with power := .run, lease := BitVec.ofNat 64 (s.clk / 64), mereAt := s.clk })) ∧
    (n < 4 → d.power = .mereRetention → exec (.wakeRequest true n) s = .next (s.setDie n { d with power := .run, mereAt := s.clk }))

/-- R237, R241, R359, R365, R431 to R433: requests and evictions at the homes, walks, the host port, errors and scrubbing, and writes to the registers of these units. -/
def Obligations.HomesWalksAndErrors : Prop :=
  (∀ (s0 : State) (core pa line region : Nat) (ty : BitVec 2) (fixed : Bool),
    -- R429, R431: a correction that the read needs is logged, and changes no value
    let s := if fixed && s0.isLocal pa then s0.correctedLine pa else s0
    let still : Prop := s.poisoned = [] ∧ ∀ f, f < 8 → (s.session f).tracking = false
    s.mem = s0.mem ∧
    -- R237: a read for a core's L1; a fill leaves no other owner, and a leased copy holds the line's bytes
    (∀ l, ((s.core core).lid.bind fun x => s.launch? x) = some l → s.inPart (s.partOf l.f) pa = true → s.owner pa = 0 ∨ s.owner pa = l.tag →
      s.blocked core false (.loc pa) = false →
      (ty = 3 → exec (.homeReadRequest core pa { ty, fixed }) s0 = .next (s.downgrade none (lineOf pa))) ∧
      (ty ≠ 3 → s.l1Find core (lineOf pa) = none → exec (.homeReadRequest core pa { ty, fixed }) s0 = .next (s.fill core l.f l.tag ty pa)) ∧
      (∀ x ∈ (s.fill core l.f l.tag ty pa).l1, x.line = lineOf pa → x.core ≠ core → x.st ≠ .owned) ∧
      (ty = 2 → still → ∃ x ∈ (s.fill core l.f l.tag ty pa).l1, x.core = core ∧ x.line = lineOf pa ∧ x.st = .leased ∧
        ∀ i, i < 128 → x.data.byte i = s.mem.byte (128 * lineOf pa + i))) ∧
    -- R237: a write-back leaves its core the only tracked holder, and clean
    (∀ l, (s.l1.find? fun l => l.core == core && l.line == line && l.st == .owned) = some l → l.dirty ≠ [] →
      ∃ t, exec (.homeWriteRequest core line) s = .next t ∧ (still → t.mem = s.mem) ∧ (∀ x ∈ t.l1, x.line = line → x.st ≠ .leased → x.core = core) ∧
        ∀ x ∈ t.l1, x.core = core → x.line = line → x.dirty = []) ∧
    -- R238: a directory eviction recalls the tracked copies of 512 bytes
    (∃ t, exec (.directoryEviction region) s = .next t ∧ (still → t.mem = s.mem) ∧ ∀ x ∈ t.l1, x.line / 4 = region → x.st = .leased)) ∧
  (∀ (s : State) (w : WalkReq),
    -- R359: a walk starts, and its end fills the TLBs of its core and quad unless it faults; it waits at a closed boundary (R386)
    (w.core < 192 → s.walks.contains w = false → (s.walksOf (dieOf w.core)).any (s.sameWalk w) = true ∨ (s.walksOf (dieOf w.core)).length < 256 →
      exec (.tlbMissWalk w) s = .next { s with walks := s.walks ++ [w] }) ∧
    (s.walkCut w = true → exec (.walkComplete w) s = .next s) ∧
    (s.walks.contains w = true → s.walkCut w = false → ∃ t, exec (.walkComplete w) s = .next t ∧ t.walks = s.walks.filter (fun x => !s.sameWalk w x) ∧ t.mem = s.mem ∧
      (∀ x, s.walk w.f w.root w.va = .ok x → (s.walks.filter fun x => s.sameWalk w x) = [w] →
        s.tlbEntry w.core w x ∈ t.tlb ∧ s.tlbEntry (256 + w.core / 4) w x ∈ t.tlb) ∧ (∀ x, s.walk w.f w.root w.va = .error x → t.tlb = s.tlb))) ∧
  (∀ (s : State) (pa n : Nat) (data : List Byte),
    -- R365: the host port
    (s.ideBroken = false → s.poisoned = [] → (∀ f, f < 8 → (s.session f).tracking = false) → s.moving false pa = false →
      ∃ t, exec (.hostPortRead { pa, chk := .whole } n) s = .next t ∧ t.mem = s.mem ∧ t.outbox = s.outbox ++ [.hostRead pa (s.hostBytes pa n)]) ∧
    (∀ m, s.ideBroken = false → s.moving false pa = true → s.pageMove = some m →
      exec (.hostPortRead { pa, chk := .whole } n) s = .next { s with pageMove := some { m with reads := m.reads ++ [(pa, n)] } }) ∧
    -- R429, R431, R443: a link retry is counted; a packet whose IDE tag fails is dropped, and nothing crosses the insecure link
    (∀ i ∈ [fun chk => Instr.hostPortRead { pa, chk } n, fun chk => Instr.hostPortWrite { pa, chk } data],
      (s.ideBroken = true → ∀ c, exec (i c) s = .next s) ∧
      (s.ideBroken = false → exec (i .badTag) s = .next { s with ideSecure := false, ideBroken := true } ∧
        exec (i .retried) s = exec (i .whole) (s.rasCount 0 0))) ∧
    (s.ideBroken = false →
     let ok := (List.range data.length).all fun i => s.isLocal (pa + i) && s.owner (pa + i) == 0
     (ok = false → exec (.hostPortWrite { pa, chk := .whole } data) s = .next (s.send (.hostDropped pa))) ∧
     (∀ m, ok = true → s.moving true pa = true → s.pageMove = some m →
       exec (.hostPortWrite { pa, chk := .whole } data) s = .next { s with pageMove := some { m with held := m.held ++ [(pa, data, none)] } }) ∧
     (ok = true → s.moving true pa = false → s.freezes pa data.length = none → exec (.hostPortWrite { pa, chk := .whole } data) s = .next (s.homeWrite 8 0 none pa data)) ∧
     -- R407: a frozen function's tracked memory takes no write until the session commits, and none after
     (∀ f, ok = true → s.moving true pa = false → s.freezes pa data.length = some f →
       (s.migState f = 5 → exec (.hostPortWrite { pa, chk := .whole } data) s = .next (s.send (.hostDropped pa))) ∧
       (s.migState f ≠ 5 → exec (.hostPortWrite { pa, chk := .whole } data) s = .next (s.updSession f fun x => { x with held := x.held ++ [(pa, data)] }))) ∧
     ((∀ f, f < 8 → (s.session f).tracking = false) → s.poisoned = [] → (s.homeWrite 8 0 none pa data).mem = s.mem.store pa data))) ∧
  (∀ (s : State) (u : ScrubUnit) (cls pa core line bid : Nat) (va : VAddr), (s.sysregs.wf sysReset) = true →
    -- R430 to R433: scrubbing, and errors that cannot be corrected
    (u.corrected = false → exec (.patrolScrub u) s = .next s) ∧
    (u.corrected = true → ∃ t, exec (.patrolScrub u) s = .next t ∧ t.mem = s.mem ∧
      let lo := rasLow u.field
      bits (t.sys (0x0C00 + u.die % 4)).toNat (lo + 7) lo = min 255 (bits (s.sys (0x0C00 + u.die % 4)).toNat (lo + 7) lo + 1)) ∧
    (let t := (s.addPoison pa).logError cls (s.lineFunc (lineOf pa)) pa
     exec (.uncorrectableError (.patrol cls pa)) s = .next t ∧ t.poisoned.contains (lineOf pa) = true ∧
     (t.sys 0x0C08).toNat = pa / 4096 % 2 ^ 32 ∧ bit (t.sys 0x0C09).toNat 31 = true ∧ bits (t.sys 0x0C09).toNat 30 28 = cls % 8 ∧
     bits (t.sys 0x0C09).toNat 23 0 = min (2 ^ 24 - 1) (bits (s.sys 0x0C09).toNat 23 0 + 1)) ∧
    (∃ t, exec (.uncorrectableError (.cleanLine core line)) s = .next t ∧ t.mem = s.mem ∧ t.poisoned = s.poisoned ∧
      (∀ l ∈ t.l1, l.core = core → l.line = line → l.st = .owned ∧ l.dirty ≠ []) ∧
      bits (t.sys 0x0C09).toNat 23 0 = min (2 ^ 24 - 1) (bits (s.sys 0x0C09).toNat 23 0 + 1)) ∧
    exec (.uncorrectableError (.read bid cls pa va)) s = .next ((s.addPoison pa).errorKill bid cls pa va)) ∧
  ∀ (s : State) (num die part : Nat) (v : Word),
    -- R206, R241, R431, R432, R438: register writes
    (num < 0x100000 → sysOpen num = false → exec (.sysregWrite num v die part) s = .next s) ∧
    (0x0C10 ≤ num → num ≤ 0x0C18 → exec (.sysregWrite num v die part) s = .next (s.setSys num (BitVec.ofNat 32 (v.toNat % 65536)))) ∧
    -- log entry 17: the management core makes a launch its firmware's
    exec (.sysregWrite (0x200000 + num) v die part) s = .next (s.markFirmware num (v.getLsbD 0)) ∧
    -- R441: in recovery the host port presents the physical function alone
    (num < 8 * 64 → s.recovery = true → exec (.sysregWrite (0x101000 + 0x10000 * (num / 64) + 32 * (num % 64)) v die part) s = .next s) ∧
    (num < 9 * 64 → s.recovery = false ∨ num / 64 = 8 → exec (.sysregWrite (0x101000 + 0x10000 * (num / 64) + 32 * (num % 64)) v die part) s =
      .next (s.setBar (num / 64) (0x1000 + 32 * (num % 64)) (BitVec.ofNat 32 (v.toNat / 4096 * 4096)))) ∧
    exec (.rasceClear die) s = .next (s.setSys (0x0C00 + die % 4) 0) ∧
    exec (.rasueClear v) s = .next (if bit v.toNat 31 then s.setSys 0x0C09 (s.sys 0x0C09 &&& 0x7FFFFFFF) else s) ∧
    (s.sysregs.wf sysReset = true → die < 4 → ∃ t, exec (.leasecfgWrite die v) s = .next t ∧
      let old := (s.sys (unitKey 0x0210 die)).toNat
      let ls := if bits v.toNat 15 0 = 0 then bits old 15 0 else bits v.toNat 15 0
      let lc := if bits v.toNat 27 16 = 0 then bits old 27 16 else bits v.toNat 27 16
      (t.sys (unitKey 0x0210 die)).toNat = lc * 65536 + ls ∧
      (ls < bits old 15 0 → ∀ l ∈ t.l1, l.st = .leased → dieOf l.core ≠ die) ∧
      (lc < bits old 27 16 → (t.die die).pause = true ∧ (t.die die).constLines = []))

/-- R158, R159, R281, R284, R288, R289, R293, R316, R317: what happens at a line's home and at a pair's compare buffer between instructions. -/
def Obligations.LocksAndPairs : Prop :=
  (∀ (s : State) (bid grp line : Nat) (g : Group) (r : LockReq), s.group? bid grp = some g → g.req = some r → r.tgt.line = some line →
    r.queued = false → s.unreached (s.envOf bid).core true r.tgt = false →
    let f := (s.envOf bid).f
    let blk := (s.block? bid).elim 0 fun b => b.blk
    -- a free line with room for its entry is granted; without room the request is denied with status 4 (R281)
    (s.lockEntry? line = none → s.entryFree f line = true → ∃ t e, exec (.lockRequestAtHome bid grp) s = .next t ∧ t.lockEntry? line = some e ∧
      e.holder = some (s.own bid grp) ∧ e.waiters = [] ∧ e.f = f ∧ e.hva = r.va ∧ e.hblk = blk ∧ e.hcls = r.cls) ∧
    (s.lockEntry? line = none → s.entryFree f line = false → ∃ t h, exec (.lockRequestAtHome bid grp) s = .next t ∧ t.locks = s.locks ∧
      t.group? bid grp = some h ∧ h.req = none ∧ h.lastStat = 4 ∧ h.held = g.held) ∧
    -- a held line queues an `llock` and refuses a `ltry` with status 1 (R158, R159)
    (∀ e h, s.lockEntry? line = some e → e.holder = some h →
      (r.tri = false → ∃ t, exec (.lockRequestAtHome bid grp) s = .next t ∧
        t.lockEntry? line = some { e with waiters := e.waiters ++ [s.waiter f (s.own bid grp) none blk r.va r.cls 0
          ((s.block? bid).any fun b => b.status != .running || !b.started)] }) ∧
      (r.tri = true → ∃ t h, exec (.lockRequestAtHome bid grp) s = .next t ∧ t.locks = s.locks ∧ t.group? bid grp = some h ∧
        h.req = none ∧ h.lastStat = 1 ∧ h.held = g.held))) ∧
  (∀ (s : State) (line : Nat) (e : LockEntry), s.lockEntry? line = some e →
    -- R284: a hand-off goes to the first waiter that is there, in the order of the queue; without waiters the entry is freed
    (∀ g u, (s.groups.find? fun g => match g.unlocking with
        | some u => u.tgt.line == some line && s.unlockReady g u.before && !s.unreached (s.envOf g.bid).core false u.tgt
        | none => false) = some g → g.unlocking = some u →
      (e.heldHere (s.own g.bid g.idx) = true → e.losing = none →
        exec (.handOff line) s = .next ((s.unlocked g.bid g.idx u.va).handOffLine line false)) ∧
      (e.heldHere (s.own g.bid g.idx) = false → exec (.handOff line) s = .next (s.unlocked g.bid g.idx u.va))) ∧
    (e.waiters = [] → ∀ lost, s.handOffLine line lost = (s.updLock line fun e => { e with
      holder := none, hvdn := none, since := none, losing := none, lost := e.lost || lost, waiters := [] }).dropLock line) ∧
    (∀ w r lost, e.waiters = w :: r → w.absent = false → s.handOffLine line lost = (s.updLock line fun e => { e with
      holder := none, hvdn := none, since := none, losing := none, lost := e.lost || lost, waiters := w :: r }).grant line w) ∧
    -- R288: a waiter whose deadline has come leaves the queue, with status 2, at the end of the cycle
    (∀ idx w d, e.waiters[idx]? = some w → w.deadline = some d →
      (s.clk < d ∨ s.turn ≠ 191 → exec (.waiterTimeout line idx) s = .next s) ∧
      (d ≤ s.clk → s.turn = 191 → s.frozen e.f = false → e.holder.isSome = true → ∃ t x, exec (.waiterTimeout line idx) s = .next t ∧ t.lockEntry? line = some x ∧ x.holder = e.holder ∧
        x.waiters = e.waiters.filter fun x => !(x.who == w.who && x.vdn == w.vdn))) ∧
    -- R289, R259: a holder within its limit keeps the line; past it a local one loses it, and the line passes on after its accesses; a remote one
    -- is told, again after each TLOST (log entry 85)
    (∀ h c, e.holder = some h → e.since = some c → s.frozen e.f = false →
      let s2 := s.lockEvent e.f 4 h.grp e.hcls e.hblk e.hva
      (e.losing = none → e.held + (s.clk - c) < e.limit → exec (.holdLimitExpiry line) s = .next s) ∧
      (e.losing = none → e.limit ≤ e.held + (s.clk - c) → e.hvdn = none → exec (.holdLimitExpiry line) s =
        .next (((s2.updLock line fun e => { e with since := none, losing := some s.nextId }).expire h.bid h.grp
          fun x => x.tgt.line == some line).passLost line)) ∧
      (∀ v, e.hvdn = some v →
        (e.losing = none → e.limit ≤ e.held + (s.clk - c) → exec (.holdLimitExpiry line) s =
          .next ((s2.updLock line fun e => { e with since := some s.clk, losing := some 0 }).sendTo 0 e.f v (.holdExpiry h e.hva))) ∧
        (e.losing ≠ none → s.clk < c + s.tlost e.f → exec (.holdLimitExpiry line) s = .next s) ∧
        (e.losing ≠ none → c + s.tlost e.f ≤ s.clk → exec (.holdLimitExpiry line) s =
          .next ((s.updLock line fun e => { e with since := some s.clk }).sendTo 0 e.f v (.holdExpiry h e.hva)))))) ∧
  (∀ (s : State) (bid grp : Nat) (va : VAddr) (g : Group) (x : Held),
    -- R293, R259: the holder's device takes the line from the group's held set, and its home hears so once the group's accesses are performed
    ((s.groups ++ s.saved.flatMap fun x => x.groups).find? fun g => g.is bid grp) = some g →
    (g.held.find? fun h => h.va == va && h.tgt.isPeer) = some x →
    let t := s.expire bid grp fun h => h.va == va && h.tgt.isPeer
    let u : Unlocking := { va, tgt := x.tgt, before := s.nextId, sent := false }
    ((g.unlocking.any fun x => x.va == va) = true → exec (.holdExpiryMessage bid grp va) s = .next t) ∧
    ((g.unlocking.any fun x => x.va == va) = false →
      let add (g : Group) : Group := if g.is bid grp then { g with losing := g.losing ++ [u] } else g
      ((t.group? bid grp).isSome = true ∨ t.unlockReady g u.before = false → exec (.holdExpiryMessage bid grp va) s =
        .next { t with groups := t.groups.map add, saved := t.saved.map fun x => { x with groups := x.groups.map add } }) ∧
      ((t.group? bid grp).isSome = false → t.unlockReady g u.before = true → exec (.holdExpiryMessage bid grp va) s = .next (t.sendLost g u)))) ∧
  ∀ (s : State) (bid tid : Nat) (b : Block) (t u : Thread), s.block? bid = some b → s.thread? { bid, tid } = some t →
    -- R316, R317: entries arrive in their order; equal compare entries retire together, others are a mismatch, and so is a late one
    (∀ x, (t.lvq.find? fun e => !e.arrived) = some x → x.filled = true → exec (.lvqEntryArrival bid tid) s =
      .next (s.updThread { bid, tid } fun t => { t with lvq := updFirst (fun e => !e.arrived) (fun e => { e with arrived := true }) t.lvq })) ∧
    -- R319: while an implicit checkpoint of the group is under way, nothing is compared and nothing is rolled back
    (s.committed b t = true → exec (.compareEntryMatch bid tid) s = .next s ∧ exec (.compareTimeout bid tid) s = .next s) ∧
    (s.twinEntry b t = some u → b.role ≠ .solo → t.wait = .compare → s.committed b t = false →
      let l := if b.role = .lead then t else u
      let r := if b.role = .lead then u else t
      (t.sig ≠ u.sig → exec (.compareEntryMatch bid tid) s = .next (s.mismatch l.bid t.grp (s.entryAt l))) ∧
      (t.sig = u.sig → s.takeBoth l r = none → (t.sigImp = true ∨ t.sig = [] → s.olderEntry l = false) → (t.sigImp = true → s.level l r.bid = true) →
        exec (.compareEntryMatch bid tid) s =
          .next ((s.updThread t.key fun x => { x with wait := .matched }).updThread u.key fun x => { x with wait := .matched })) ∧
      -- R315: an `exit` is taken by both copies in one cycle, and comes after the group's older entries
      (∀ g, t.sig = u.sig → t.sigImp = false → s.fetchFor l = .ok (.exit g) → exec (.compareEntryMatch bid tid) s =
        .next (if s.olderEntry l then s else { s with threads := s.threads.filter fun x => x.key != l.key && x.key != r.key }))) ∧
    (s.twinEntry b t = none → b.role = .lead → t.wait = .compare → t.sig ≠ [] → s.committed b t = false →
      (t.sigAt + 2 ^ 16 ≤ s.clk → exec (.compareTimeout bid tid) s = .next (s.mismatch bid t.grp (s.entryAt t))) ∧
      (s.clk < t.sigAt + 2 ^ 16 → exec (.compareTimeout bid tid) s = .next s))

/-- R75 to R78, R101, R105, R109, R212, R217 to R219, R225: the choice of a core's issue sets, waits that clear, register grants, code that lands, spawn pools, the end of a group and pod frames. -/
def Obligations.CyclesAndGroups : Prop :=
  (∀ (s : State) (core : Nat) (ready : List Thread) (pc : VAddr),
    -- R76: an issue set holds one thread of each lane, the one that comes first, in ascending lane order
    ((s.setAt ready pc).Pairwise fun t u => t.lane < u.lane) ∧
    (∀ t ∈ s.setAt ready pc, t ∈ ready ∧ t.pc = pc ∧ ∀ u ∈ ready, u.lane = t.lane → u.pc = pc → s.ahead u t = false) ∧
    -- R75, R77: port A takes the PC of the oldest aged thread, else the lowest PC
    (∀ p old, portA ready = some (p, old) →
      (old = true → ∃ t ∈ ready, t.pc = p ∧ 64 ≤ t.age ∧ ∀ u ∈ ready, u.age ≤ t.age) ∧
      (old = false → (∀ u ∈ ready, u.age < 64 ∧ p.toNat ≤ u.pc.toNat) ∧ ∃ t ∈ ready, t.pc = p)) ∧
    -- R78: port B takes other lanes and another PC
    (∀ setA, ∀ t ∈ restFor ready setA pc, t ∈ ready ∧ t.pc ≠ pc ∧ ∀ u ∈ setA, u.lane ≠ t.lane) ∧
    -- the cycle of a core
    (192 ≤ core ∨ s.ports ≠ [] → exec (.issueCycle core) s = .next s) ∧
    (core < 192 → s.ports = [] →
      let s1 := (s.advance core).keepHouse core
      let s2 := if (s1.core core).power = .clockGate ∧ s1.coreReady core = true then s1.ungate core else s1
      exec (.issueCycle core) s = .next (if (s2.core core).power = .run then s2.fillPorts core else s2.settleBars core)) ∧
    (s.fillPorts core).ports = (s.choose core ((s.threadsOn core).filter s.readyNow)).1 ∧
    (s.fillPorts core).mem = s.mem) ∧
  (∀ (s : State) (bid tid core lane till n : Nat) (t : Thread) (k : ThreadKey),
    (s.thread? { bid, tid } = some t → t.wait = .yielding till → exec (.yieldExpiry bid tid) s =
      .next (if till < s.clk then s.updThread { bid, tid } fun t => { t with wait := .none } else s)) ∧
    (let c := s.core core
     (c.regq.find? fun r => r.1 == lane) = some (lane, k, n) → n ≤ s.freeRegs core lane → (s.block? k.bid).any (fun b => b.status == .running) = true →
      exec (.regacqGrant core lane) s = .next ((s.setCore core { c with regq := c.regq.filter fun r => r.2.1 != k }).updThread k
        fun t => (t.grow n).next 4))) ∧
  (∀ (s : State) (core n : Nat) (g : Seg), (s.cores.wf fun _ => Core.reset) = true → (s.core core).imem.wf = true →
    ((s.core core).segs.wf fun _ => Seg.empty) = true → ((s.core core).segs.find? fun e => e.1 == n) = some (n, g) →
    g.landed = false → n ∈ (s.core core).fetches →
    -- R315: a redundant pair's trailing copy reads none: the granule lands in its segment as it has landed in its leader's
    (∀ r m x, s.leaderSeg g = some (r, m, x) →
      (x.landed = false → exec (.codeGranuleLand core n) s = .next s) ∧
      (x.landed = true → ∃ t, exec (.codeGranuleLand core n) s = .next t ∧ t.mem = s.mem ∧ t.l1 = s.l1 ∧ t.mere = s.mere ∧
        Tab.get (fun _ => Seg.empty) (t.core core).segs n = { g with landed := true, again := false } ∧
        ∀ i, i < 4096 → (t.core core).imem.byte (4096 * n + i) = (s.core r).imem.byte (4096 * m + i))) ∧
    (s.leaderSeg g = none → s.blocked core false g.src = false → (∀ a, g.after = some a → s.storing a g.src 4096 = false) →
    s.poison g.src 4096 = false →
    -- R109, R111: of the granules fetched, one of the first four lands, after the thread's older stores to it: its bytes stand in the segment
    ∃ t, exec (.codeGranuleLand core n) s = .next t ∧ (s.poisoned = [] → (∀ f, f < 8 → (s.session f).tracking = false) → t.mem = s.mem) ∧
      Tab.get (fun _ => Seg.empty) (t.core core).segs n = { g with landed := true, again := false } ∧
      ∀ i, i < 4096 → (t.core core).imem.byte (4096 * n + i) = (t.bytesAt 0 g.src 4096).getD i 0)) ∧
  (∀ (s : State) (core pool : Nat),
    -- R218, R219: a timer that rings on a running core, and a pool that forms its group; a child starts behind its `spawn`'s release (R108)
    exec (.spawnTimerExpiry core pool) s = .next (s.setCore core { s.core core with pools := (s.core core).pools.map fun e =>
      if e.1 = pool ∧ (s.core core).power = .run ∧ (e.2.timer.any fun d => decide (d ≤ s.clk)) = true then (e.1, { e.2 with timer := none, expired := true }) else e }) ∧
    ∀ (p : Pool) (b : Block) (l : Launch) (g : Nat), ((s.core core).pools.find? fun e => e.1 == pool) = some (pool, p) → s.block? p.bid = some b →
      s.launch? b.lid = some l → s.mayLaunch p = true → b.status = .running →
      let kids (b : Block) (p : Pool) (half : Nat) : List Thread := (p.recs.zip p.before).zipIdx.map fun x =>
        { newThread b.bid g (32 * g + x.2) (32 * half + x.2) p.entry (x.1.1.1.toNat + 2 ^ 32 * x.1.1.2.toNat) l.record.regs with
          wait := .spawned x.1.2 s.clk }
      let fits (b : Block) (half : Nat) : Bool := (List.range 32).all fun k => s.laneFits b.core (32 * half + k) l.record.regs
      (b.role = .trail → exec (.spawnPoolLaunch core pool) s = .next s) ∧
      (b.role = .solo → ((List.range 16).find? fun g => (s.group? b.bid g).isNone) = some g →
        let half := if fits b 0 then 0 else 1
        fits b half = true → ∃ t, exec (.spawnPoolLaunch core pool) s = .next t ∧ t.groups = s.groups ++ [newGroup b.bid g (min p.recs.length p.before.length)] ∧
          t.threads = s.threads ++ kids b p half ∧ t.mem = s.mem) ∧
      -- R314, R315: the twins' pools form theirs together, with one group index and one half of the lanes
      (∀ m n q, b.role = .lead → s.block? b.mate = some m → ((s.core m.core).pools.find? fun e => e.2.bid == m.bid && e.2.entry == p.entry) = some (n, q) →
        m.status = .running → ((List.range 16).find? fun g => (s.group? b.bid g).isNone && (s.group? m.bid g).isNone) = some g →
        let half := if fits b 0 && fits m 0 then 0 else 1
        fits b half = true → fits m half = true → ∃ t, exec (.spawnPoolLaunch core pool) s = .next t ∧
          t.groups = s.groups ++ [newGroup b.bid g (min p.recs.length p.before.length)] ++ [newGroup m.bid g (min q.recs.length q.before.length)] ∧
          t.threads = s.threads ++ kids b p half ++ kids m q half ∧ t.mem = s.mem)) ∧
  (∀ (s : State) (bid grp : Nat) (g : Group) (b : Block), s.group? bid grp = some g → s.block? bid = some b → s.live bid grp = [] →
    g.quiet = true → s.groupBusy g = false → g.held = [] →
    -- R212: the group ends, its slots and tiles are free, and a gang that lists it waits for it no more
    let c := s.core b.core
    let claims := (c.claims.map fun e => if e.2.ofGroup bid grp then (e.1, if b.dying then SlotSt.scrub else .free) else e).filter fun e => e.2 != .free
    exec (.groupEnd bid grp) s = .next (({ s.setCore b.core { c with claims } with groups := (s.groups.filter fun x => !x.is bid grp).map fun x =>
      if x.bid = bid then { x with gang := x.gang &&& ~~~(BitVec.ofNat 16 (2 ^ grp)) } else x } : State).blockDone bid)) ∧
  ∀ (s : State) (dev tag idx phase : Nat) (mask : BitVec 64) (l : Launch),
    -- R225: a report for the phase in progress, for the next, or for every later one (log entry 86)
    let stands := s.launches.filter fun l => bits l.record.barriers.toNat 31 20 == tag && l.record.podset == mask && l.record.granted 6 != 0 &&
      !l.hbars.isEmpty && !l.failed
    -- and one that no placed launch waits for is kept (log entry 111)
    (stands = [] → exec (.podBarrierFrame dev tag mask idx phase) s = .next { s with podHeard := s.podHeard ++ [{ dev, tag, mask, idx, phase }] }) ∧
    (stands = [l] → exec (.podBarrierFrame dev tag mask idx phase) s = .next ((s.updLaunch l.lid fun l => { l with hbars := l.hbars.map fun h =>
      if h.level = 6 ∧ h.idx = idx then (if phase = 2 then { h with gone := if h.gone.contains dev then h.gone else h.gone ++ [dev] }
        else if (if h.phase then 1 else 0) = phase
        then { h with reports := if h.reports.contains dev then h.reports else h.reports ++ [dev] }
        -- a report of the phase that is complete counts no more (R381)
        else if h.reports.contains dev then { h with early := if h.early.contains dev then h.early else h.early ++ [dev] } else h) else h }).hbarSettle l.lid))

/-- R174, R176, R178, R180, R183 to R187, R192, R193, R266, R269, R271, R273, R278: elements and lines of copies that land or stop, matrix commands that complete or fault, scrubs and gang latches. That a step is one access of an engine, a line of local memory of a `cp.lane` or a multicast's line at one core is the model's grain (log entries 52 and 101). -/
def Obligations.EngineSteps : Prop :=
  (∀ (s : State) (c : CopyCmd) (k : Nat), (s.copies.find? fun x => x.id == c.id) = some c → (s.mcmds.find? fun m => m.id == c.id) = none →
    s.acqHeld c.bid c.grp c.tid c.before = false →
    let e := s.envOf c.bid
    -- R266: the engine starts the next element of a bulk copy
    (∀ w x y, c.kind = .bulk w → c.fabric = none → c.h = k → c.more = [] → c.begun = [] → k < (bulkOf w).count →
      (s.block? c.bid).any (fun b => b.status == .running) = true → s.missing e ((bulkOf w).addrs k 1) = [] → s.elemAt e (bulkOf w) k = .ok (x, y) →
      exec (.copyElementLand c.id k) s = exec (.copyElementLand c.id k) (s.updCopy { c with begun := [{ k, src := x, dst := y, id := s.nextId, got := [], put := 0 }] })) ∧
    -- R176, R258: the next access of a started element, in any order: it is read, and once it is read written
    (∀ w o, c.kind = .bulk w → c.fabric = none → (c.begun.find? fun o => o.k == k) = some o →
      let b := bulkOf w
      let r := o.src.piece (b.z - o.got.length)
      let n := o.dst.piece (b.z - o.put)
      let t := s.writeTgt e none (o.dst.offset o.put) ((o.got.drop o.put).take n)
      (o.got.length < b.z → s.blocked e.core false o.src = false → s.mayRead e b c o = true → s.poison o.src b.z = false →
        exec (.copyElementLand c.id (b.count + k)) s = .next ((s.serveRead e (o.src.offset o.got.length) r).updCopy
          (c.updBegun { o with got := o.got ++ s.bytesAt e.bid (o.src.offset o.got.length) r }))) ∧
      (b.z ≤ o.got.length → s.blocked e.core true o.dst = false → mayWrite b c o = true → s.poison o.dst b.z = false →
        (o.put + n < b.z → exec (.copyElementLand c.id (b.count + k)) s = .next (t.updCopy (c.updBegun { o with put := o.put + n }))) ∧
        (b.z ≤ o.put + n →
          let h := prefixOf (k :: c.more) c.h (c.more.length + 1)
          -- R172: the bytes of a release are owed until the command is complete
          let d := ({ c with h, more := (k :: c.more).filter (fun m => h ≤ m), begun := c.begun.filter fun o => o.k != k } : CopyCmd).owe c.bid b.z
          let u := (t.updCopy d).landBytes d b.z
          exec (.copyElementLand c.id (b.count + k)) s = .next (if h = b.count ∨ ((u.block? c.bid).any Block.dying && d.over) = true then u.dropCopy d else u)))) ∧
    -- R178: it stops at a fault, with the bytes that landed before
    (∀ w x, c.kind = .bulk w → c.fabric = none → c.h < (bulkOf w).count → (∀ o ∈ c.begun, o.k ≠ c.h) → s.mayStart c = true → s.copyMisses c = [] →
      s.elemAt e (bulkOf w) c.h = .error x →
      exec (.engineFaultStop c.id) s = .next ((s.dropCopy c).deferTrap ((s.block? c.bid).elim 0 fun b => b.lid) { bid := c.bid, tid := c.tid } c.pc
        { cause := x.cause.code, addr := x.addr, aux := BitVec.ofNat 32 (c.h * (bulkOf w).z) })) ∧
    -- R174, R265: the next access of a part of a `cp.lane`: all are read before any is written, local memory a line at a time
    (∀ n parts o, c.kind = .lane n parts → ((lanesOf c parts).begun.find? fun o => o.k == k) = some o → s.poison o.src n = false → s.poison o.dst n = false →
      (o.got.length < n → s.blocked e.core false o.src = false →
        exec (.copyElementLand c.id (parts.length + k)) s = .next (s.laneRead (lanesOf c parts) n o)) ∧
      ((∀ x ∈ (lanesOf c parts).begun, n ≤ x.got.length) → s.blocked e.core true o.dst = false →
        exec (.copyElementLand c.id (parts.length + k)) s = .next (s.laneWrite (lanesOf c parts) n o))) ∧
    -- R180, R181: a line of a multicast
    (∀ w m q off data n, c.kind = .mcast w m → (c.lines.find? fun l => l.1 == k && l.2.1 == n % 4) = some (k, q, off, data) →
      let left := c.lines.filter fun l => l.2.1 != q
      let unit := c.core / 4 * 4 + q
      (s.deliverLine c unit off data = none → exec (.mcastLineDeliver c.id k n) s = .next s) ∧
      ∀ t, s.deliverLine c unit off data = some t →
        let d := (s.writtenAt c unit).foldl (fun c b => c.owe b.bid data.length) ({ c with
          lines := left, h := if left = [] then k + data.length / (bulkOf w).z else c.h } : CopyCmd)
        (left ≠ [] → exec (.mcastLineDeliver c.id k n) s = .next (t.updCopy d)) ∧
        (left = [] → let u := (t.updCopy d).coreEvent c.core 13 data.length
          exec (.mcastLineDeliver c.id k n) s =
            .next (if d.h = (bulkOf w).count ∨ (u.block? c.bid).any Block.dying = true then u.dropCopy d else u)))) ∧
  -- R141, R251: 16 bytes of host memory move as two accesses
  (∀ x n, (Target.host x).piece n = min 8 n) ∧ (∀ t n, (∀ x, t ≠ .host x) → Target.piece t n = n) ∧
  (∀ (s : State) (e : Env) (x y n : Nat) (bs : List Byte), (∀ f, f < 8 → (s.session f).tracking = false) → s.poisoned = [] →
    (s.serveRead e (.loc x) n).mem = s.mem ∧ (s.writeTgt e none (.loc y) bs).mem = s.mem.store y bs) ∧
  (∀ (s : State) (c : CopyCmd) (n x : Nat) (o : Begun), s.mem.wf = true → (∀ f, f < 8 → (s.session f).tracking = false) → s.poisoned = [] →
    -- R265: a read of a line gives every part of the issue that lies in it its bytes; a write leaves the highest lane's byte
    (o.src = .loc x → (s.laneRead c n o).mem = s.mem ∧ ((s.copies.find? fun y => y.id == c.id).isSome = true →
      ((s.laneRead c n o).copies.find? fun y => y.id == c.id) = some { c with begun := c.begun.map fun y =>
        if (c.begun.any fun z => z.got.isEmpty && sameLine z.src o.src && z.k == y.k) = true then { y with got := s.bytesAt (s.envOf c.bid).bid y.src n } else y })) ∧
    (o.dst = .loc x → ∀ a, (s.laneWrite c n o).mem.byte a = ((((c.begun.filter fun y => sameLine y.dst o.dst).flatMap fun y => match y.dst with
      | .loc p => y.got.zipIdx.map fun z => (p + z.2, z.1)
      | _ => []).reverse.find? fun z => z.1 == a).map fun z => z.2).getD (s.mem.byte a))) ∧
  (∀ (s : State) (c : CopyCmd) (b : Block) (core off : Nat) (data : List Byte),
    let lid := (s.block? c.bid).elim 0 fun b => b.lid
    (s.blocks.filter fun b => b.core == core && b.lid == lid && b.role != .trail && !b.dying) = [b] → b.started = true → s.saved = [] →
    s.deliverLine c core off data = some (s.putLine c b.bid off data)) ∧
  (∀ (s : State) (bid grp : Nat) (m : MatCmd), s.matHead bid grp = some m → s.matTurn m = true →
    let c := s.core m.core
    -- R186, R188, R193: commands that reach no memory
    (∀ p, m.kind = .pcfg p → exec (.matrixCommandComplete bid grp) s = .next (s.dropMat m)) ∧
    (∀ t n, m.kind = .azero t n → exec (.matrixCommandComplete bid grp) s = .next ((s.setCore m.core { c with
      tiles := c.tiles.filter fun e => e.1 < 8192 * t || 8192 * (t + n) ≤ e.1 }).dropMat m)) ∧
    (∀ f n rows acc sa sb md gang, m.kind = .mma f n rows acc sa sb md gang → m.part = [] → exec (.matrixCommandComplete bid grp) s =
      .next (((m.groups.foldl (fun s g => s.updGroup m.bid g fun g => { g with mstat := g.mstat ||| (c.mma f n rows acc sa sb md m.cfg).2 })
        (((s.setCore m.core (c.mma f n rows acc sa sb md m.cfg).1).coreEvent m.core 14 1).meter (s.envOf m.bid).f (dieOf m.core) (macMeter f)
          (rows * n * mmaK f))).passSparse m).dropMat m)) ∧
    -- R189 to R192: commands that reach memory, outside a pair
    (∀ b l, s.block? m.bid = some b → b.role = .solo → m.kind.onMemory = true → s.matPieces m = (l, none) → s.matMisses m = [] → s.piecesWait m l = false →
      (∀ p ∈ l, s.poison p.2.1 p.2.2 = false) → exec (.matrixCommandComplete bid grp) s = .next ((s.runPieces m l).dropBoth m)) ∧
    -- R278: a slot fill that faults kills its block; the record of kind 2 and the launch's failure follow the block's end
    (∀ b l x, s.block? bid = some b → m.bid = bid → b.role = .solo → b.dying = false → s.launch? b.lid = some l → (s.matPieces m).2 = some x → s.matMisses m = [] →
      (∃ n w, m.kind = .fill n w ∨ m.kind = .fillDq n w) →
      (l.record.restartable = true → b.relaunch < 3 → exec (.slotFillFault bid grp) s = .next ((s.updBlock bid fun b => { b with record := none }).killBlock bid true m.id)) ∧
      (l.record.restartable = false ∨ 3 ≤ b.relaunch → exec (.slotFillFault bid grp) s = .next ((s.updBlock bid fun b => { b with
        record := some { ErrRec.empty with kind := 2, cause := x.cause.code, blk := b.blk, pc := m.pc, addr := x.addr, tid := m.tid } }).killBlock
          bid false m.id)))) ∧
  (∀ (s : State) (m : MatCmd) (k n : Nat) (va : VAddr) (t : Target) (b : Block), (s.mcmds.find? fun x => x.id == m.id) = some m → s.matTurn m = true →
    s.block? m.bid = some b → b.role = .solo → s.matMisses m = [] → (s.matPieces m).1[k]? = some (va, t, n) → s.piecesWait m [(va, t, n)] = false →
    s.poison t n = false →
    -- R258: a fill or `aload` reads a piece of its memory ahead of the rest
    let x := m.bytesOf k
    let c := t.piece (n - x.length)
    (∃ sl w ti ea, m.kind = .fill sl w ∨ m.kind = .fillDq sl w ∨ m.kind = .aload ti ea) → c ≠ 0 →
    exec (.copyElementLand m.id k) s = .next ((s.serveRead (s.envOf m.bid) (t.offset x.length) c).updMat { m with
      moved := (m.moved.filter fun y => y.1 != k) ++ [(k, x ++ s.bytesAt m.bid (t.offset x.length) c)] })) ∧
  (∀ (s : State) (core n : Nat), let c := s.core core
    -- R271: a scrub
    (c.claim n ≠ .scrub → exec (.slotScrubDone core n) s = .next s) ∧
    (c.claim n = .scrub → n < 64 → exec (.slotScrubDone core n) s =
      .next (s.setCore core { c.setClaims [n] .free with slots := c.slots.zero (8192 * n) 8192 })) ∧
    (c.claim n = .scrub → 64 ≤ n → exec (.slotScrubDone core n) s =
      .next (s.setCore core { c.setClaims [n] .free with tiles := c.tiles.filter fun e => e.1 / 8192 != n - 64 }))) ∧
  ∀ (s : State) (bid grp : Nat) (g : Group) (l : Latch), s.group? bid grp = some g → g.latch = some l →
    let gs := if g.gang = 0 then [g] else s.members bid g.gang
    -- R187, R273: the latch
    (g.gang = 0 → s.listed bid grp = false) → (∀ x ∈ gs, x.latch.isSome = true ∧ x.tl ≠ 63) → s.matQueue (s.envOf bid).core bid 16 0 < 8 →
    (s.block? bid).any (fun b => b.status == .running) = true →
    ((∀ x ∈ gs, agree g x = true) → exec (.gangLatchFire bid grp) s = .next (s.gangQueue bid gs g l)) ∧
    (¬ (∀ x ∈ gs, agree g x = true) → exec (.gangLatchFire bid grp) s = .next (s.gangTrap bid gs))

/-- R337 to R339, R344 to R347, R349 to R351, R367, R370, R371, R375, R377, R382: what the queue registers, the front end, the scheduler and the timers
do. That an abort sets QHEAD to QTAIL is the model's choice (log entry 35), and so is what a function-level reset clears beside the state its rules
name (log entry 90). -/
def Obligations.QueuesAndBlocks : Prop :=
  (∀ (s : State) (f q n : Nat) (x : Word), q < 64 →
    let c := (s.bar f (qReg q 8)).toNat
    -- R337, R338: the queue registers
    exec (.doorbellWrite f q x) s = .next { s.setBar f (qReg q 0x10) (BitVec.ofNat 32 (x.toNat % 65536)) with
      ringStops := s.ringStops.filter fun r => r != (f, q) } ∧
    (bit c 31 = false → exec (.queueEnable f q) s = .next { ((s.setBar f (qReg q 8) (BitVec.ofNat 32 (setBits c 31 31 1))).setBar f (qReg q 0xC) 0).setBar
      f (qReg q 0x14) 0 with errSeq := Tab.set (fun _ => 0) s.errSeq (64 * f + q) 0, ringStops := s.ringStops.filter fun r => r != (f, q) }) ∧
    exec (.queueDisable f q) s = .next (s.setBar f (qReg q 8) (BitVec.ofNat 32 (setBits c 31 31 0))) ∧
    (bit c 31 = false → exec (.queueSetSize f q n) s =
      .next (s.setBar f (qReg q 8) (BitVec.ofNat 32 (setBits c 28 24 (if n < 4 then 4 else if 16 < n then 16 else n))))) ∧
    (bit c 31 = true → exec (.queueSetSize f q n) s = .next s ∧ exec (.queueEnable f q) s = .next s) ∧
    -- R351: an abort of a queue with no launch drops what is parked and stalled, and empties the ring
    ((∀ l ∈ s.launches, l.f = f → l.q = q → l.failed = true) → (∀ p ∈ s.parked, ¬ (p.f = f ∧ p.q = q)) → exec (.queueAbort f q) s =
      .next ({ s with stalled := s.stalled.filter fun p => !(p.f == f && p.q == q) }.setBar f (qReg q 0xC)
        (BitVec.ofNat 32 ((s.bar f (qReg q 0x10)).toNat % s.ringSize f q)))) ∧
    -- R339, R345: a record is read where the queue is enabled, its function runs and the ring is not empty
    (let h := (s.bar f (qReg q 0xC)).toNat
     let a : VAddr := BitVec.ofNat 64 (s.bar64 f (qReg q 0) / 4096 * 4096 + 128 * h)
     let go : Bool := bit c 31 && s.reading f && h != (s.bar f (qReg q 0x10)).toNat % s.ringSize f q && !s.ringStops.contains (f, q) &&
       !(s.stalled.any fun p => p.f == f && p.q == q) && !s.ringCut f (s.queueRoot f q) a
     (go = false → exec (.recordRead f q) s = .next s) ∧
     ∀ r, go = true → s.readRecord f (s.queueRoot f q) 0 a = .ok r →
       let u := s.setBar f (qReg q 0xC) (BitVec.ofNat 32 ((h + 1) % s.ringSize f q))
       (r.preds = 0xFFFF → exec (.recordRead f q) s = .next u) ∧
       (r.preds ≠ 0 → r.preds ≠ 0xFFFF → exec (.recordRead f q) s = .next { u with parked := u.parked ++ [{ f, q, addr := a }] }) ∧
       (∀ t, r.preds = 0 → s.predsAt f (s.queueRoot f q) 0 a = .ok t → s.waitsMove true t = false → s.devThrottled f t = false →
         exec (.recordRead f q) s = .next ((u.setPreds f 0 t 0xFFFF).dispatch f q a r))) ∧
    -- R3, R299, R301, R351: a function-level reset leaves the function no window, epoch, arrival, sequence number or VDN entry, and disables its queues
    ∃ t, exec (.functionLevelReset f) s = .next t ∧ (∀ e ∈ t.windows, e.1 / 32 ≠ f) ∧ (∀ e ∈ t.epochs, e.1 / 2048 ≠ f) ∧
      (∀ a ∈ t.arrivals, a.key.f ≠ f) ∧ (∀ e ∈ t.seqs, e.1 / 64 ≠ f) ∧ (∀ e ∈ t.dups, e.1 / 64 ≠ f) ∧
      (f < 9 → ∀ v, v < 64 → t.sys (0x1000 + 0x40 * f + v) = 0)) ∧
  (∀ (s : State) (l : Launch), s.launch? l.lid = some l →
    -- R346: a finished record completes, then decrements its successors in order
    (l.stored = false → s.finished l = false → exec (.recordFinish l.lid) s = .next s) ∧
    (l.stored = false → s.finished l = true → s.doneHeld l = false → exec (.recordFinish l.lid) s = .next ((s.scrubLaunch l.lid).complete l)) ∧
    (l.record.done = 0 → s.complete l = s.finishRecord l.lid) ∧
    (∀ pa, l.record.done ≠ 0 → l.record.done.toNat % 8 = 0 → (∀ v ipa, s.resolve (l.env 192 0 0) .fst l.record.done 8 ≠ .ok (.peer v ipa)) →
      s.resolve (l.env 192 0 0) .engW l.record.done 8 = .ok (.loc pa) →
      s.complete l = (s.homeUpdate l.f l.tag pa (leBytes l.record.value.toNat 8)).finishRecord l.lid) ∧
    (∀ v ipa, l.record.done ≠ 0 → l.record.done.toNat % 8 = 0 → s.resolve (l.env 192 0 0) .fst l.record.done 8 = .ok (.peer v ipa) →
      s.complete l = (s.updLaunch l.lid fun l => { l with completing := true }).sendFree l.record.handle l.f v ipa
        (.atom .exch 8 l.record.value.toNat 0) (some l.lid)) ∧
    (l.failed = false → s.predsHeld l = false → s.finishRecord l.lid = (((l.record.succ.take l.record.nsucc).foldl
      (fun s x => s.decrement l x) s).updLaunch l.lid fun l => { l with failed := true }).sweepLaunch l.lid) ∧
    -- R347: a copy record's next byte, or its fault
    (l.record.isCopy = true → l.failed = false →
      (∀ t, s.copyBytes l.lid 1 = (t, none) → exec (.copyRecordComplete l.lid) s = .next t) ∧
      ∀ t x a, s.copyBytes l.lid 1 = (t, some (x, a)) → exec (.copyRecordComplete l.lid) s = .next (((t.errorRecord l.f l.q
        { ErrRec.empty with kind := 9, cause := x.code, rcd := l.addr, addr := a, aux := l.landed }).updLaunch l.lid
          fun l => { l with failed := true }).sweepLaunch l.lid)) ∧
    -- R349: the scheduler places the next block of a launch
    (∀ core core2, (s.hasTurn l = false → exec (.blockPlace l.lid core core2) s = .next s) ∧
      (s.hasTurn l = true → s.placeable l = false → exec (.blockPlace l.lid core core2) s = .next (s.preempt l)) ∧
      (∀ p t, s.hasTurn l = true → l.waiting = [] → l.next < l.record.grid.toNat → l.record.gang = false → cores? l core core2 = some p →
        p ∈ s.options l → s.yields l p = false → s.place l.lid l.next 0 p = some t →
        exec (.blockPlace l.lid core core2) s = .next ((t.updLaunch l.lid fun l => { l with next := l.next + 1 }).served l)))) ∧
  (∀ (s : State) (n slot : Nat) (p : Stalled), s.stalled[n]? = some p →
    let r := p.record
    let u := { s with stalled := s.stalled.eraseIdx n }
    -- R367: a stalled dispatch loads its handle's current generation into a free slot and proceeds, or is refused when its key has gone
    (s.handle? r.handle = none → exec (.keySlotLoad n slot) s = .next (u.refuse p.f p.q p.addr 7)) ∧
    (∀ h, s.handle? r.handle = some h → s.keySlots = [] → slot < 64 →
      let v : State := { u with keySlots := [(slot, { handle := r.handle, gen := h.gen, material := h.wrapped, pins := 0, used := s.clk })] }
      (s.keyOk r = true → exec (.keySlotLoad n slot) s = .next (v.start p.f p.q p.addr r (some slot))) ∧
      (s.keyOk r = false → exec (.keySlotLoad n slot) s = .next (v.refuse p.f p.q p.addr 7)))) ∧
  (∀ (s : State) (b : Block) (l : Launch), s.block? b.bid = some b → s.launch? b.lid = some l →
    -- R350, R377, R378: a slice that has ended and a halt request; R379: the save of a drained block
    exec (.timeSliceExpiry b.bid) s = .next (if s.sliceOver b then s.halt b.bid true else s) ∧
    (s.reading l.f = false → exec (.haltRequest b.bid) s = .next (s.halt b.bid false)) ∧
    (b.role = .solo → b.status = .running → (s.haltOne b.bid false) = ((s.gatePause b.core).updBlock b.bid fun b => { b with
      status := .halting false, counted := b.counted + (s.clk - b.lastIssue) }).absent b.bid) ∧
    (∀ x, b.status = .halting x → b.role = .solo → s.drained b.bid = true → exec (.drainComplete b.bid) s = .next (match s.placeAgain [b] with
      | some t => t.saveBlock b.bid
      | none => s)) ∧
    -- R375: the watchdog
    (let limit := (s.sys (unitKey 0x0501 (s.dieId (dieOf b.core)))).toNat % 65536
     (limit = 0 ∨ s.clk + b.counted < b.lastIssue + us (1000 * limit) → exec (.watchdogExpiry b.bid) s = .next s) ∧
     (limit ≠ 0 → b.status = .running → (s.core b.core).power = .run → b.lastIssue + us (1000 * limit) ≤ s.clk + b.counted → ∃ t,
       exec (.watchdogExpiry b.bid) s = .next t ∧ (t.block? b.bid).any (fun b => b.lastIssue == s.clk && b.counted == 0) = true ∧
       t.threads = s.threads.map fun t => if t.bid = b.bid ∧ t.inHandler = false then t.addDeferred { cause := 25, addr := 0, aux := 0 } else t))) ∧
  (∀ (s : State) (bid core core2 : Nat) (x : SavedBlock) (l : Launch), (s.saved.find? fun x => x.block.bid == bid) = some x →
    s.launch? x.block.lid = some l →
    -- R382, R393: a saved block comes back at its turn, at a place that the rule allows
    (s.reading l.f = false → exec (.blockResume bid core core2) s = .next s) ∧
    (∀ p w, s.hasTurn l = true → s.whole l = false → cores? l core core2 = some p → p ∈ s.options l → s.yields l p = false →
      s.nextOf l = some (some w) → s.savedOf w = some x → x.block.bid = bid →
      exec (.blockResume bid core core2) s = .next ((s.resumeAt l x p).served l))) ∧
  ∀ (s : State) (t : Thread) (b : Block) (cause : Nat) (addr : VAddr) (aux : Word), s.thread? t.key = some t → s.block? t.bid = some b →
    -- R370, R371: a deferred trap is held, at most four of them, and taken at a boundary outside the handler
    exec (.deferredTrapArrival t.bid t.tid cause addr aux) s = .next (s.updThread t.key fun t =>
      if t.deferred.length < 4 then { t with deferred := t.deferred ++ [{ cause, addr, aux }] } else { t with overflow := true }) ∧
    (t.inHandler = true → exec (.trapTake t.bid t.tid) s = .next s) ∧
    ∀ d r, t.deferred = d :: r → t.inHandler = false → t.inside = false → b.status = .running → b.started = true →
      exec (.trapTake t.bid t.tid) s = .next ((s.updThread t.key fun t => { t with deferred := r }).takeTrap t.key t.pc t.pc d)

/-- R197, R200, R298, R301, R303 to R310, R417 to R421, R424 to R427: packets at the receive port, window packets, the messages of a close, non-posted
requests and their responses, timers, fibres and key phases. Model's choices: a failed VDN leaves the pending set (log entry 34), an `llock`
that joins the queue at its home is answered so (log entries 28 and 85), the die of a LINK count (log entry 100), the answer of a poisoned line (log
entry 113), and when a fibre is tested next (log entry 120). -/
def Obligations.FabricPackets : Prop :=
  (∀ (s : State) (p : Packet), p.dstDev = s.phys → p.dstFun < 9 →
    let f := p.dstFun
    let n := ivKey (rxKey p) p.svdn p.phase
    let w := Tab.get (fun _ => { cmax := 0, marks := [] }) s.ivs n
    -- R298, R418, R421, R426: slot, flits, tag, counter and source
    (s.slotFor p = none → exec (.packetReceive p) s = .next (s.noSlot f)) ∧
    (∀ slot, s.slotFor p = some slot →
      (intact p = false → exec (.packetReceive p) s = .next ((s.badTag f).rasCount (s.portOf p) 0)) ∧
      (intact p = true → isSealed p.body = false → exec (.packetReceive p) s = .next { s with accepted := s.accepted ++ [(p, slot)] }) ∧
      (intact p = true → isSealed p.body = true → s.tagGood p = false → exec (.packetReceive p) s = .next ((s.badTag f).dropOf (rxKey p))) ∧
      (intact p = true → isSealed p.body = true → s.tagGood p = true →
        (w.accept p.ctr = none → exec (.packetReceive p) s = .next ((s.ivReject f).dropOf (rxKey p))) ∧
        ∀ x, w.accept p.ctr = some x →
          ∃ t, exec (.packetReceive p) s = .next t ∧ t.mem = s.mem ∧ Tab.get (fun _ => { cmax := 0, marks := [] }) t.ivs n = x ∧
            t.accepted = if s.staleVdn p = true ∧ s.holds f = false then s.accepted else s.accepted ++ [(p, slot)]))) ∧
  (∀ (w x : IvWindow) (n : Nat), w.accept n = some x → x.accept n = none) ∧
  (∀ (ec epoch : BitVec 8) (rel : Bool), let d := (epoch - ec).toNat
    -- R301: the judgement by epoch
    byEpoch ec epoch rel = if d = 0 then (if rel then .token else .drop) else if d ≤ 64 then .accept
      else if d ≤ 192 ∧ rel = true then .reject else .drop) ∧
  (∀ (s t u : State) (p : Packet) (win inc epoch r addr count scope : Nat) (data : List Byte) (flag : VAddr) (v : Word),
    let f := p.dstFun
    let k : EpochKey := { f, svdn := p.svdn, win, inc, epoch }
    -- R304: a window write that is accepted, or dropped
    (p.body = .write win inc epoch r addr data →
      (∀ tgt, s.judge f p.svdn win (BitVec.ofNat 8 inc) (BitVec.ofNat 8 epoch) false = (t, .accept) → t.entryFor k (t.portOf p) = some u →
        (u.arrival k).any (fun a => a.r != r) = false → u.peerTgt f addr p.handle true = some tgt → exec (.windowWritePacket p) s =
          .next ((((u.unpaced fun s => s.writeTgt (s.portEnv f p.handle) none tgt data).fabricBytes f 10 data.length).updArrival k
            fun a => { a with arrivals := a.arrivals + 1 }).settleArrival k)) ∧
      (s.judge f p.svdn win (BitVec.ofNat 8 inc) (BitVec.ofNat 8 epoch) false = (t, .drop) →
        exec (.windowWritePacket p) s = .next (t.stalePkt f))) ∧
    -- R307: a message of a close counts for the window's present incarnation and epoch alone
    (p.body = .token win inc epoch r →
      8 ≤ f ∨ ((s.session f).forwarding = false ∧ (s.session f).frozen = none ∧ s.holds f = false ∧ ¬ (s.migState f = 6 ∧ s.vfState f = 2)) →
      s.packetStep p = if (s.window f win).inc.toNat = inc ∧ (s.window f win).closing.toNat = epoch then exec (.tokenArrival f win p.svdn) s
        else .next s) ∧
    -- R304 to R306: a release
    (p.body = .release win inc epoch r count flag v scope →
      (s.judge f p.svdn win (BitVec.ofNat 8 inc) (BitVec.ofNat 8 epoch) true = (t, .accept) → t.entryFor k (t.portOf p) = some u →
        exec (.releasePacket p) s = .next ((u.updArrival k fun a => if a.expect.isSome then a else { a with
          expect := some { tag := u.tagFor p.handle, count, flag, value := v, scope }, deadline := u.clk + u.tlost f }).settleArrival k)) ∧
      (s.judge f p.svdn win (BitVec.ofNat 8 inc) (BitVec.ofNat 8 epoch) true = (t, .token) →
        exec (.releasePacket p) s = .next (t.sendTo 0 f p.svdn (.token win inc epoch r))) ∧
      (s.judge f p.svdn win (BitVec.ofNat 8 inc) (BitVec.ofNat 8 epoch) true = (t, .reject) →
        exec (.releasePacket p) s = .next ((t.stalePkt f).sendTo 0 f p.svdn (.reject win inc epoch r))))) ∧
  (∀ (s : State) (k : EpochKey) (a : Arrival) (x : Expect), k.win ≠ 32 → s.arrival k = some a → a.expect = some x →
    -- R306: TLOST at the receiver
    (s.clk < a.deadline → exec (.tLostExpiry k) s = .next s) ∧
    (a.deadline ≤ s.clk → s.frozen k.f = false → a.r ≠ 3 → exec (.tLostExpiry k) s = .next ((s.updArrival k fun a => { a with
      r := a.r + 1, arrivals := 0, denied := false, deadline := s.clk + s.tlost k.f }).sendTo 0 k.f k.svdn (.replayReq k.win k.inc k.epoch (a.r + 1)))) ∧
    (a.deadline ≤ s.clk → s.frozen k.f = false → a.r = 3 → exec (.tLostExpiry k) s = .next (((s.closeEntry k).sendTo 0 k.f k.svdn (.loss k.win k.inc k.epoch a.r)).errorRecord k.f 0
      { ErrRec.empty with kind := 5, cause := 19, addr := x.flag, extra := k.svdn + k.win * 2 ^ 8 + k.epoch * 2 ^ 16 }))) ∧
  (∀ (s : State) (f win v : Nat) (q : Pend) (c : Closer), let w := s.window f win
    w.pend v = some q → w.closer = some c →
    let rest := w.pending.filter fun p => p.vdn != v
    -- R198, R307: the messages of a close
    (rest = [] → exec (.tokenArrival f win v) s =
      .next (s.setWindow f win { w.free w.closing.toNat with st := .open, pending := [], closer := none })) ∧
    (rest ≠ [] → exec (.tokenArrival f win v) s = .next (s.setWindow f win { w with pending := rest })) ∧
    (∀ i code fault, (i, code, fault) ∈ ([(.rejectArrival f win v, 18, 2), (.lossMessageArrival f win v, 19, 1), (.flagDeniedArrival f win v, 6, 3)] :
        List (Instr × Nat × Nat)) →
      exec i s = .next ((s.setWindow f win { w.free w.closing.toNat with st := .failed, fault, pending := rest, closer := none }).deferTrap c.lid c.key
        c.pc { cause := code, addr := c.flag, aux := BitVec.ofNat 32 v })) ∧
    (∀ r, w.copies = [] → exec (.replayRequestArrival f win v w.closing.toNat r) s = .next ((w.buf.filter fun b => b.epoch == w.closing.toNat &&
      b.vdn == v).foldl (fun s b => s.sendTo b.handle f v (.write win w.inc.toNat w.closing.toNat r b.addr b.data))
        (s.setWindow f win { w with pending := w.pending.map fun p => if p.vdn = v then { p with r, deadline := s.clk + 2 * s.tlost f } else p }))) ∧
    (win ≠ 32 → s.clk < q.deadline → exec (.resendTimeout f win v) s = .next s) ∧
    (win ≠ 32 → c.sent = true → s.frozen f = false → q.deadline ≤ s.clk → q.resends ≠ 3 → exec (.resendTimeout f win v) s = .next ((s.setWindow f win { w with
      pending := w.pending.map fun p => if p.vdn = v then { p with resends := p.resends + 1, deadline := s.clk + 2 * s.tlost f } else p }).sendTo
        c.handle f v (.release win w.inc.toNat w.closing.toNat q.r q.count c.flag c.value c.scope))) ∧
    (win ≠ 32 → c.sent = true → s.frozen f = false → q.deadline ≤ s.clk → q.resends = 3 → exec (.resendTimeout f win v) s =
      .next (s.closeFails f win v .fabricTimeout 4))) ∧
  (∀ (s : State) (p : Packet) (n ipa : Nat) (op : PeerOp), p.body = .request n ipa op →
    let f := p.dstFun
    let d := s.dup f p.svdn
    -- R310: a request is performed once, and a repeated one answered again
    (d.judge n = .old → exec (.nonpostedRequestArrival p) s = .next s) ∧
    (∀ a, d.judge n = .repeated (some a) → exec (.nonpostedRequestArrival p) s = .next (s.sendTo 0 f p.svdn (.response n (s.withLine p ipa a)))) ∧
    (d.judge n = .perform →
      (∀ t a, (s.setDup f p.svdn (d.mark n)).performPeer p n ipa op = (t, some a) →
        exec (.nonpostedRequestArrival p) s = .next (t.answer f p.svdn n a)) ∧
      ∀ t, (s.setDup f p.svdn (d.mark n)).performPeer p n ipa op = (t, none) → exec (.nonpostedRequestArrival p) s = .next t) ∧
    (d.judge n = .perform → (d.mark n).judge n = .repeated none)) ∧
  (∀ (s : State) (p : Packet) (n : Nat) (a : Answer) (x : NonPosted), p.body = .response n a →
    (s.nps.find? fun x => x.f == p.dstFun && x.vdn == p.svdn && x.seq == n) = some x →
    let t := s.fabricBytes x.f 10 (payload p.body)
    -- R200, R310: responses
    (a = .refused → exec (.nonpostedResponseArrival p) s = .next (t.npFails x .accessDenied)) ∧
    (∀ st, a = .denied st → exec (.nonpostedResponseArrival p) s = .next ((t.endNp x).lockResult x.bid x.grp false st)) ∧
    (a = .queued → exec (.nonpostedResponseArrival p) s = .next (t.npQueued x)) ∧
    (∀ st line, a = .grant st line → exec (.nonpostedResponseArrival p) s = .next ((t.endNp x).lockResult x.bid x.grp true st)) ∧
    (a = .poisoned → exec (.nonpostedResponseArrival p) s = .next (t.npPoisoned x)) ∧
    (∀ k v m, a = .done k v → x.op = .ld m → x.bid ≠ 0 → x.done = none → exec (.nonpostedResponseArrival p) s =
      .next (let u := (t.endNp x).deliver { bid := x.bid, tid := x.tid } x.tok x.dst ((if x.signed = 0 then v else low 32 (sgn x.signed v)) %
          2 ^ (8 * max k 4)) (x.pred.map fun p => (p, true))
        if x.acq then u.dropLeases (u.envOf x.bid).core else u))) ∧
  (∀ (s : State) (x : NonPosted), (s.nps.find? fun y => y.id == x.id) = some x →
    (s.clk < x.deadline ∨ x.pent = true → exec (.retransmitTimeout x.id) s = .next s) ∧
    (let again (p : NonPosted) : NonPosted := { p with tries := p.tries + 1, deadline := s.clk + s.tlost p.f }
     x.deadline ≤ s.clk → x.pent = false → s.frozen x.f = false → x.tries < 3 → exec (.retransmitTimeout x.id) s =
      .next ({ s with nps := updFirst (fun p => p.id == x.id) again s.nps }.sendTo x.handle x.f x.vdn (.request x.seq x.ipa x.op))) ∧
    (x.deadline ≤ s.clk → x.pent = false → s.frozen x.f = false → 3 ≤ x.tries → (∃ n, x.op = .ld n) → exec (.retransmitTimeout x.id) s = .next (s.npFails x .fabricTimeout))) ∧
  (∀ (s : State) (x : Posted), (s.posts.find? fun y => y.id == x.id) = some x →
    -- R84, R197: a posted write leaves
    exec (.localPortAccept x.id) s = .next (({ s with posts := s.posts.filter fun y => y.id != x.id }.emit x.pkt).settleCnt x.bid x.grp .st x.tok)) ∧
  (∀ (s : State) (g : Nat) (p : Packet), let l := s.txq.filter fun p => Config.receivePort s.phys p.dstDev == g
    -- R420: a control packet goes first, then the migration packets of a session in its stop phase
    (l.find? (fun p => packetClass p.body == .control) = some p → s.transmit g = { s with txq := s.txq.erase p }.launchPacket p) ∧
    ((∀ q ∈ l, packetClass q.body ≠ .control) → l.find? (fun p => packetClass p.body == .migration && s.migState p.srcFun == 3) = some p →
      s.transmit g = { s with txq := s.txq.erase p }.launchPacket p)) ∧
  (∀ (s : State) (g fibre : Nat), (s.sysregs.wf sysReset) = true →
    let r := 0x0DA0 + g % 4
    let k := fibreKey g fibre
    let live := bit (s.sys r).toNat (fibre % 32)
    let since := Tab.get (fun _ => 0) s.fibreRuns k
    let again := Tab.get (fun _ => 0) s.fibreNext k
    -- R419: a fibre leaves with its lock, or with the 16th error within 1 ms
    (∀ lock, let es := s.clk :: (Tab.get (fun _ => []) s.fibreErrs k).filter fun c => s.clk < c + us 1000
      (lock = true ∨ 16 ≤ es.length → live = true → ∃ t, exec (.fibreLeaveStripe g { fibre, lock }) s = .next t ∧
        t.sys r = s.sys r &&& ~~~(BitVec.ofNat 32 (2 ^ (fibre % 32))) ∧ (∀ n, n ≠ r → t.sys n = s.sys n) ∧
        t.outbox = s.outbox ++ [.flitsLost (g % 4) (fibre % 32)] ∧ t.mem = s.mem) ∧
      (lock = false → es.length < 16 →
        exec (.fibreLeaveStripe g { fibre, lock }) s = .next { s with fibreErrs := Tab.set (fun _ => []) s.fibreErrs k es })) ∧
    -- R419: its test begins every 100 ms, and 1 ms without an error brings it back
    (live = true → exec (.fibreTest g fibre true) s = .next s ∧ exec (.fibreTest g fibre false) s = .next s) ∧
    (live = false →
      exec (.fibreTest g fibre false) s = .next { s with fibreRuns := Tab.set (fun _ => 0) s.fibreRuns k 0 } ∧
      (since = 0 → s.clk < again → exec (.fibreTest g fibre true) s = .next s) ∧
      (since = 0 → again ≤ s.clk → exec (.fibreTest g fibre true) s = .next { s with
        fibreRuns := Tab.set (fun _ => 0) s.fibreRuns k (s.clk + 1), fibreNext := Tab.set (fun _ => 0) s.fibreNext k (s.clk + us 100000) }) ∧
      (since ≠ 0 → s.clk + 1 < since + us 1000 → exec (.fibreTest g fibre true) s = .next s) ∧
      (since ≠ 0 → since + us 1000 ≤ s.clk + 1 → exec (.fibreTest g fibre true) s =
        .next (({ s with fibreRuns := Tab.set (fun _ => 0) s.fibreRuns k 0 }.setSys r (s.sys r ||| BitVec.ofNat 32 (2 ^ (fibre % 32)))).flushCtrl
          (s.groupDevs (g % 4)))))) ∧
  ∀ (s : State) (k : LinkKey), let l := s.link k
    -- R427: a change of phase is asked for, answered, and over 2 ms after its first packet
    (s.mayRefresh k = false → exec (.keyPhaseChange k) s = .next s) ∧
    (s.mayRefresh k = true → ∃ t, exec (.keyPhaseChange k) s = .next t ∧ (t.link k).phase = l.phase ∧ (t.link k).rxPhase = l.phase ∧
      (t.link k).both = true ∧ (t.link k).overlap = none ∧ (t.link k).asked = true ∧ (t.link k).refreshAt = some s.clk ∧ (t.link k).wanted = false ∧
      t.mem = s.mem) ∧
    (∀ p : Packet, p.body = .refresh k.handle (!l.phase) true → p.dstFun = k.f → p.srcDev = k.dev → p.srcFun = k.fun' → l.asked = true →
      s.packetStep p = .next (s.setLink k { l with phase := !l.phase, ctr := 0, asked := false })) ∧
    (∀ d, l.overlap = some d → exec (.keyPhaseOverlapEnd k) s =
      .next (if d ≤ s.clk then s.setLink k { l with rxPhase := !l.rxPhase, both := false, overlap := none } else s))

/-- R358, R361 to R366, R384, R387 to R389, R391 to R395, R399: the layout registers, the commands of a virtual function, locked registers, shoot-downs,
page owners and page migration. Model's choices: a refused VMID leaves STATUS (log entry 36), what an L1 holds from behind a boundary that closes goes
home (log entry 83), and what counts as one cycle for RESUME and QUIESCE (log entry 123). -/
def Obligations.Partitions : Prop :=
  (∀ (s : State) (v : Word) (d : Nat), (s.sysregs.wf sysReset) = true → d < 4 →
    -- R387 to R389: PLAYOUT without a merge, MILVd and NBND
    (let n := v.toNat % 256
     let o := (s.sys 0x0800).toNat
     let moved := (List.range 4).filter fun d => diesOf o (dieIdOf o d) != diesOf n (dieIdOf n d)
     (n ∉ [0x00, 0xA0, 0xE4, 0xE0, 0xA4] → exec (.playoutWrite v) s = .next (s.pstat 1)) ∧
     (n ∈ [0x00, 0xA0, 0xE4, 0xE0, 0xA4] → (∃ d ∈ moved, s.dieIdle d = false) → exec (.playoutWrite v) s = .next (s.pstat 2)) ∧
     (n ∈ [0x00, 0xA0, 0xE4, 0xE0, 0xA4] → (∀ d ∈ moved, s.dieIdle d = true) → moved.length ≠ 2 →
      (∀ d, d < 4 → bits (s.milv d) 7 4 = ((diesOf n (dieIdOf n d)).map fun k => 2 ^ k).sum) →
      (∀ i, i < 4 → bit (s.sys 0x0805).toNat i = (dieIdOf n (boundary i).1 == dieIdOf n (boundary i).2)) →
      (∀ f, f < 9 → (∃ d ∈ moved, s.partOf f = dieIdOf o d) → s.funcDisabled f = true) →
      -- R385, R388: each address then reaches the byte of HBM that the new map names
      (let t := s.setSys 0x0800 (BitVec.ofNat 32 n)
       let u := if ((List.range 4).any fun d => bits (s.milv d) 1 0 = 1) && !moved.isEmpty then t.remap s else t
       exec (.playoutWrite v) s = .next ((moved.foldl State.zeroWindow u).pstat 0)))) ∧
    (let o := s.milv d
     let w := bits v.toNat 11 8
     let legal : Bool := decide (bits v.toNat 1 0 < 2) && [0, 4, 8, 12].contains w
     let free := (s.funcsOf (s.dieId d)).all s.funcDisabled
     (legal = false → exec (.milvWrite d v) s = .next (s.pstat 1)) ∧
     (legal = true → s.dieIdle d = false → exec (.milvWrite d v) s = .next (s.pstat 2)) ∧
     (legal = true → s.dieIdle d = true → (bits v.toNat 1 0 = bits o 1 0 ∧ w = bits o 11 8) ∨ free = true →
      let t := s.setSys (0x0801 + d) (BitVec.ofNat 32 (w * 256 + bits v.toNat 7 4 * 16 + bits v.toNat 1 0))
      let u := if bits v.toNat 1 0 = bits o 1 0 then t else t.remap s
      exec (.milvWrite d v) s = .next ((if w = bits o 11 8 then u else u.zeroWindow d).pstat 0)) ∧
     (legal = true → s.dieIdle d = true → ¬ (bits v.toNat 1 0 = bits o 1 0 ∧ w = bits o 11 8) → free = false →
      exec (.milvWrite d v) s = .next (s.pstat 5))) ∧
    (let busy : Prop := ∃ i, i < 4 ∧ bit v.toNat i ≠ bit (s.sys 0x0805).toNat i ∧ ¬ (s.dieIdle (boundary i).1 = true ∧ s.dieIdle (boundary i).2 = true)
     (busy → exec (.nbndWrite v) s = .next (s.pstat 2)) ∧
     let t := (s.setSys 0x0805 (BitVec.ofNat 32 (v.toNat % 16))).pstat 0
     let reached (l : L1Line) : Bool := t.dieReaches (dieOf l.core) (t.homeDie (128 * l.line))
     (¬ busy → (∀ l ∈ s.l1, reached l = true) → exec (.nbndWrite v) s = .next t) ∧
     (¬ busy → ∃ u, exec (.nbndWrite v) s = .next u ∧ ∀ l ∈ u.l1, reached l = true))) ∧
  (∀ (s : State) (f st mv code : Nat), (s.sysregs.wf sysReset) = true → f < 8 → st < 16 → mv < 2 → code < 8 →
    (s.setVf f st mv code).vfState f = st ∧ (s.setVf f st mv code).vfMoving f = (mv == 1) ∧ (s.setVf f st mv code).mem = s.mem) ∧
  (∀ (s : State) (f : Nat), f < 8 →
    let st := s.vfState f
    -- R392, R393: each command in the states that take it, else STATUS 1
    (st = 0 → s.recovery = false → exec (.vfEnable f) s = .next (s.setVf f 1 0 0)) ∧
    (st = 1 → s.lockable f = true → exec (.vfLock f) s = .next (s.setVf f 2 0 0)) ∧
    (st = 1 → s.lockable f = false → exec (.vfLock f) s = .next (s.vfStatus f 5)) ∧
    (st = 2 → s.vfMoving f = false → exec (.vfUnlock f) s = .next (s.setVf f 1 0 0) ∧ exec (.vfStart f) s = .next (s.setVf f 2 1 0)) ∧
    (st = 2 → s.vfMoving f = true → s.disables.contains f = false → exec (.vfStartComplete f) s =
      .next (s.setVf f 3 0 (bits (s.sys (fReg 0x0900 f 1)).toNat 26 24))) ∧
    (st = 3 → Tab.get (fun _ => 0) s.resumes f ≠ s.clk + 1 → (∀ b ∈ s.blocks, (s.launch? b.lid).any (fun l => l.f == f) = false) →
      exec (.vfQuiesce f) s = .next (s.setVf f 4 0 0)) ∧
    -- R399: after a RESUME of the same cycle the function stays in RUN
    (st = 3 → Tab.get (fun _ => 0) s.resumes f = s.clk + 1 → exec (.vfQuiesce f) s = .next (s.vfStatus f 0)) ∧
    (st = 4 → s.busyQ f = 0 → exec (.vfQuiesceComplete f) s = .next (s.setVf f 5 0 (bits (s.sys (fReg 0x0900 f 1)).toNat 26 24))) ∧
    (st = 4 ∨ st = 5 → s.stale.contains f = true → exec (.vfResume f) s =
      .next ({ s with resumes := Tab.set (fun _ => 0) s.resumes f (s.clk + 1) }.vfStatus f 4)) ∧
    (st = 4 ∨ st = 5 → s.stale.contains f = false → (s.session f).held = [] → ∃ t, exec (.vfResume f) s = .next t ∧
      t.vfState f = 3 ∧ Tab.get (fun _ => 0) t.resumes f = s.clk + 1 ∧
      ((∀ p ∈ (s.session f).inbuf, vdnOk (s.vdne f p.svdn) = true) → t.sysregs = (s.setVf f 3 0 0).sysregs) ∧
      t.accepted = s.accepted ++ ((s.session f).inbuf.filter fun p => vdnOk (s.vdne f p.svdn)).map (fun p => (p, RxSlot.none)) ∧ t.mem = s.mem ∧
      -- R407: the timers of a function that thaws run on from where they stood
      t.arrivals = (match (s.session f).frozen with
        | none => s.arrivals
        | some c => s.arrivals.map fun (a : Arrival) => if a.key.f = f then { a with deadline := a.deadline + (s.clk - c) } else a)) ∧
    (s.vfMoving f = true → ∃ t, exec (.vfDisable f) s = .next t ∧ t.disables.contains f = true ∧ t.mem = s.mem) ∧
    (s.vfMoving f = false → exec (.vfDisable f) s =
      .next (let t := ((s.flr f).thaw f).setVf f 0 0 0
        t.setSession f { t.session f with forwarding := false })) ∧
    (st ≠ 1 → exec (.vfLock f) s = .next (s.vfStatus f 1)) ∧ (st ≠ 3 → exec (.vfQuiesce f) s = .next (s.vfStatus f 1)) ∧
    -- R394: a locked register
    ∀ num (v : Word), lockedFunc num = some f → let clash : Prop := num / 256 = 6 ∧ num % 16 = 2 ∧ s.vmidClash f v.toNat = true
      (st = 1 ∨ st = 5 → (clash → exec (.lockedSetWrite num v) s = .next s) ∧
        (¬ clash → exec (.lockedSetWrite num v) s = .next ((s.vfStatus f 0).setSys num (v &&& BitVec.ofNat 32 (lockedMask num))))) ∧
      (st = 3 ∨ st = 4 → exec (.lockedSetWrite num v) s = .next (s.vfStatus f 2)) ∧
      (st = 2 → exec (.lockedSetWrite num v) s = .next (s.vfStatus f (if s.vfMoving f then 3 else 2)))) ∧
  (∀ (s : State) (c : ShootCmd) (i : Instr) (kind : Nat), (s.sysregs.wf sysReset) = true → (s.bar0.wf barReset) = true → c.f ≤ 8 →
    (i, kind) ∈ ([(.shootdownVaRange c, 0), (.shootdownAsid c, 1), (.shootdownIpaRange c, 2), (.shootdownFunction c, 3)] : List (Instr × Nat)) →
    -- R361, R362: shoot-downs
    (bit (s.invb c) 31 = true → exec i s = .next s) ∧
    (kind = 2 → c.guest = true → exec i s = .next s) ∧
    (bit (s.invb c) 31 = false → (kind = 2 → c.guest = false) → ∃ t, exec i s = .next t ∧ t.tlb = s.tlb.filter (fun e => !s.shootCovers c kind e) ∧
      t.shoots = s.shoots ++ [(shootBlock c, kind, c, s.nextId)] ∧ bit (t.invb c) 31 = true ∧ t.mem = s.mem)) ∧
  (∀ (s : State) (blk kind n : Nat) (c : ShootCmd), (s.shoots.find? fun x => x.1 == blk) = some (blk, kind, c, n) → kind < 3 →
    (s.settled c.f n = false → exec (.shootdownComplete blk) s = .next s) ∧
    (s.settled c.f n = true → exec (.shootdownComplete blk) s =
      .next ({ s with shoots := s.shoots.filter fun x => x.1 != blk }.setInvb c (s.invb c % 2 ^ 31)))) ∧
  (∀ (s : State) (h : Nat) (k : KeyHandle), h < 2 ^ 24 → s.handle? h = some k → s.pageMove = none → bit (s.sys 0x06A1).toNat 31 = false →
    let pa := (s.sys 0x06A0).toNat * 4096
    let c (low : Bool) : ShootCmd := { guest := low, f := 0, addr := pa, n := 0, asid := k.tag }
    -- R366: an owner command shoots the page down first
    s.isLocal pa = true → s.owner pa = 0 ∨ s.owner pa = k.tag →
      exec (.ownerAssign h) s = .next ((s.setSys 0x06A1 (BitVec.ofNat 32 (2 ^ 31 + h))).shoot 10 4 (c false)) ∧
      exec (.ownerRelease h) s = .next ((s.setSys 0x06A1 (BitVec.ofNat 32 (2 ^ 31 + 2 ^ 24 + h))).shoot 10 4 (c true))) ∧
  (∀ (s : State) (n : Nat) (c : ShootCmd), (s.shoots.find? fun x => x.1 == 10) = some (10, 4, c, n) →
    -- R366: the page gets its owner, or is zeroed and loses it, as the command completes
    let t := { s with shoots := s.shoots.filter fun x => x.1 != 10 }
    let u := if c.guest then ((t.zeroLocal c.addr 4096).mark c.addr 4096).setOwner c.addr 0 else t.setOwner c.addr c.asid
    ((∃ f, f < 9 ∧ s.settled f n = false) → exec (.shootdownComplete 10) s = .next s) ∧
    ((∀ f, f < 9 → s.settled f n = true) → exec (.shootdownComplete 10) s = .next (u.setSys 0x06A1 (u.sys 0x06A1 &&& 0x7FFFFFFF)))) ∧
  (∀ (s : State) (v : Word), bit (s.sys 0x0693).toNat 31 = false →
    let x := 2 ^ 31 + v.toNat % 2 ^ 31
    let src := (s.sys 0x0690).toNat * 4096
    let dst := (s.sys 0x0691).toNat * 4096
    let ipa := (s.sys 0x0692).toNat * 4096 + bits x 19 18 * 2 ^ 44
    let f := bits x 23 20
    let k := moveSize (bits x 17 16)
    -- R363, R364: a migration of a page of a function whose stage 2 maps it there begins
    ∀ e p, bits x 17 16 ≠ 3 → f ≤ 8 → bit (s.sys (fReg 0x0600 f 2)).toNat 31 = true →
      walkLevels true (fun p => some (s.mem.read p 8)) ipa [0, 1, 2, 3] (s.s2root f) = some (e, k, p) → bits e 6 5 = 0 →
      leafOut e k (ipa / 2 ^ k * 2 ^ k) = src → dst % 2 ^ k = 0 → ¬ (dst < src + 2 ^ k ∧ src < dst + 2 ^ k) → s.isLocal dst = true →
      (∀ i, i < 2 ^ (k - 12) → s.owner (dst + 4096 * i) = 0) → (∀ x ∈ s.shoots, x.1 = 10 → ¬ (dst ≤ x.2.2.1.addr ∧ x.2.2.1.addr < dst + 2 ^ k)) → s.tracked src (2 ^ k) = false →
      exec (.pageMigration v) s = .next { s.setSys 0x0693 (BitVec.ofNat 32 (2 ^ 31 + 2 ^ 28 + bits x 23 16 * 2 ^ 16)) with
        pageMove := some { src, dst, leaf := p, size := 2 ^ k, f, ipa := ipa / 2 ^ k * 2 ^ k, held := [], reads := [] } }) ∧
  ∀ (s : State) (m : PageMove), s.mem.wf = true → s.pageMove = some m → m.held = [] → m.reads = [] → m.size ≠ 2 ^ 16 →
    m.dst + m.size ≤ m.src ∨ m.src + m.size ≤ m.dst → m.leaf + 8 ≤ m.dst ∨ m.dst + m.size ≤ m.leaf →
    -- R364: it ends with the page's bytes at their new place
    ∃ t, exec .pageMigrationComplete s = .next t ∧ t.pageMove = none ∧ ∀ i, i < m.size → t.mem.byte (m.dst + i) = s.mem.byte (m.src + i)

/-- R400 to R413, R421, R434, R435: the migration registers and commands, Seep, the image, the VDN switch and Oxbow. Model's choices: RESTORE without CKEN
is BADCMD (log entry 41), SWDONE comes with the 64th acknowledgement (log entry 75), what an image that does not fit its area does (log entry 118), and what
ABORT and the switch do in FINAL (log entry 124). -/
def Obligations.Migration : Prop :=
  (∀ (s : State) (f st code : Nat) (sw : Bool), (s.sysregs.wf sysReset) = true → f < 8 → st < 16 → code < 16 →
    let t := s.setMig f st code sw
    -- R400: STATE, STATUS and SWDONE of MCTL
    t.migState f = st ∧ bits (t.mreg f 4) 23 20 = code ∧ t.swDone f = sw ∧ t.mem = s.mem ∧ ∀ k, k ≠ 0x0A04 + 16 * f → t.sys k = s.sys k) ∧
  (∀ (s : State) (f : Nat), f < 8 → (s.sysregs.wf sysReset) = true → (s.sessions.wf fun _ => Session.reset) = true →
    let m := s.migState f
    let bad (i : Instr) : Prop := exec i s = .next (s.setMig f m 1 (s.swDone f))
    -- R401: a command outside its states only sets STATUS 1
    (m ≠ 0 ∨ s.vfState f ≠ 3 → bad (.migTrack f)) ∧ (m ≠ 1 → bad (.migCopy f)) ∧ (m ≠ 0 ∨ s.vfState f ≠ 2 → bad (.migAccept f)) ∧
    (m ≠ 0 ∨ s.vfState f ≠ 2 ∨ s.ckEn f = false → bad (.migRestore f)) ∧ (m ≠ 9 → bad (.migLoad f)) ∧ (m ≠ 9 → m ≠ 10 → bad (.migSwitch f)) ∧
    (m ∈ [0, 5, 6, 7, 10] ∨ (m = 9 ∧ (s.session f).switched = true) → bad (.migAbort f)) ∧
    (m ∈ [1, 2, 3, 4, 8, 9] ∨ (m = 10 ∧ s.swDone f = false) → bad (.migEnd f)) ∧
    -- R400: as it does for a PFUNC of 8 to 15
    (s.badPeer f = true → bad (.migTrack f) ∧ bad (.migCopy f) ∧ bad (.migAccept f) ∧ (m = 0 → bad (.migEnd f))) ∧
    -- R402: TRACK fills the bitmaps with ones; R401, R409, R435: COPY, ACCEPT, RESTORE
    (m = 0 → s.vfState f = 3 → s.badPeer f = false → s.trackOk f = true →
      ∃ t, exec (.migTrack f) s = .next t ∧ t.migState f = 1 ∧ (t.session f).tracking = true ∧
        t.mem = (s.trackDescs f).foldl (fun m d => m.store d.bitmap (List.replicate (512 * d.units) 0xFF)) s.mem) ∧
    (m = 1 → s.badPeer f = false → ∃ t, exec (.migCopy f) s = .next t ∧ t.migState f = 2 ∧ (t.session f).desc = 0 ∧ (t.session f).word = 0 ∧
      t.mem = s.mem) ∧
    (m = 0 → s.vfState f = 2 → s.badPeer f = false → ∃ t, exec (.migAccept f) s = .next t ∧ t.migState f = 8 ∧ t.session f = { Session.reset with epoch := 255 } ∧
      t.mem = s.mem) ∧
    (m = 0 → s.vfState f = 2 → s.ckEn f = true → ∃ t, exec (.migRestore f) s = .next t ∧ t.migState f = 9 ∧
      t.mem = s.mem.store (s.saveArea f).1 (s.host.bytes (s.hostBase f + 2 ^ 46) (s.saveArea f).2)) ∧
    -- R413: ABORT, at this end at once where the image has not yet left; END
    (m ∈ [1, 2, 3] → s.ckEn f = true → exec (.migAbort f) s = .next ((s.updSession f Session.rest).setMig f 6 7 (s.swDone f))) ∧
    (m ∈ [1, 2] ∨ (m = 3 ∧ (s.session f).image ≠ none) → s.ckEn f = false → ∃ t, exec (.migAbort f) s = .next t ∧ t.migState f = 6 ∧ t.mem = s.mem) ∧
    (m = 8 ∨ (m = 9 ∧ (s.session f).switched = false) → ∃ t, exec (.migAbort f) s = .next t ∧ t.migState f = 6 ∧ (t.session f).inbuf = [] ∧ t.mem = s.mem) ∧
    (m = 4 ∨ (m = 3 ∧ (s.session f).image = none ∧ s.ckEn f = false) → ∃ t, exec (.migAbort f) s = .next t ∧ t.sysregs = s.sysregs ∧ t.mem = s.mem) ∧
    ((m = 0 ∧ s.badPeer f = false) ∨ m = 5 ∨ (m = 10 ∧ s.swDone f = true) → ∃ t, exec (.migEnd f) s = .next t ∧ t.migState f = 0 ∧ t.vfState f = s.vfState f ∧
      (t.session f).tracking = false ∧ t.mem = s.mem) ∧
    (m = 6 → s.vfState f = 6 → (s.session f).held = [] → ∃ t, exec (.migEnd f) s = .next t ∧ t.migState f = 0 ∧ t.vfState f = 5 ∧
      (t.session f).tracking = false ∧ (t.session f).frozen = none ∧ (t.session f).forwarding = false ∧ t.mem = s.mem) ∧
    -- R413: an abort of the other end
    (∀ d, d ≠ s.pdev f ∨ m = 0 ∨ s.ckEn f = true → exec (.migAbortArrival f d) s = .next s) ∧
    (m ∈ [1, 2, 3, 4] → s.ckEn f = false → exec (.migAbortArrival f (s.pdev f)) s = .next ((s.updSession f Session.rest).setMig f 6 7 (s.swDone f))) ∧
    (m = 8 ∨ (m = 9 ∧ (s.session f).switched = false) → s.ckEn f = false →
      ∃ t, exec (.migAbortArrival f (s.pdev f)) s = .next t ∧ t.migState f = 6 ∧ (t.session f).inbuf = [] ∧ t.mem = s.mem) ∧
    (m = 10 ∨ (m = 9 ∧ (s.session f).switched = true) → s.ckEn f = false →
      ∃ t, exec (.migAbortArrival f (s.pdev f)) s = .next t ∧ t.sysregs = s.sysregs ∧ t.mem = s.mem) ∧
    -- R411: SWITCH waits for acknowledgements
    (m = 9 ∨ m = 10 → ∃ t, exec (.migSwitch f) s = .next t ∧ (t.session f).switched = true ∧ (t.session f).acks = [] ∧ t.migState f = m ∧
      t.mem = s.mem) ∧
    (∀ d, let x := s.session f
      (x.switched = false ∨ x.acks.contains d = true → exec (.vdnSwitchAck f d) s = .next s) ∧
      (x.switched = true → x.acks.contains d = false → ∃ t, exec (.vdnSwitchAck f d) s = .next t ∧ (t.session f).acks = d :: x.acks ∧
        t.migState f = m ∧ (x.acks.length = 63 → t.swDone f = true) ∧ (x.acks.length ≠ 63 → t.swDone f = s.swDone f))) ∧
    -- R407: SAVE in QUIESCED alone, with room for the image
    (s.vfState f ≠ 5 → exec (.vfSave f) s = .next (s.vfStatus f 1)) ∧
    (let bs := layoutBytes (s.capture f)
     let u := { s with mem := s.mem.store (s.saveArea f).1 bs, images := s.capture f :: s.images }.mark (s.saveArea f).1 bs.length
     s.vfState f = 5 → m ≠ 2 → bs.length ≤ (s.saveArea f).2 → exec (.vfSave f) s = .next (u.setVf f 6 0 0)) ∧
    (let bs := layoutBytes (s.capture f)
     let u := { s with mem := s.mem.store (s.saveArea f).1 bs, images := s.capture f :: s.images }.mark (s.saveArea f).1 bs.length
     s.vfState f = 5 → m = 2 → bs.length ≤ (s.saveArea f).2 → ∃ t, exec (.vfSave f) s = .next t ∧ t.migState f = 3 ∧ t.vfState f = 5 ∧
      (t.session f).frozen = some s.clk ∧ (t.session f).forwarding = !s.ckEn f ∧ (t.session f).image = some (s.capture f) ∧ t.mem = u.mem) ∧
    (s.vfState f = 5 → (s.saveArea f).2 < (layoutBytes (s.capture f)).length →
      ∃ t, exec (.vfSave f) s = .next t ∧ t.migState f = 6 ∧ bits (t.mreg f 4) 23 20 = 2 ∧ t.mem = s.mem) ∧
    -- R405, R407, R435: the image goes out between two passes, under a release of its own or to host memory
    (let x := s.session f
     ∀ img, m = 3 → x.image = some img → x.desc = 0 → x.word = 0 →
      (s.ckEn f = false → x.expect = none → exec (.seepPass f) s =
        .next (((s.updSession f fun x => { x with image := none }).imagePost f img).seepRelease f (((layoutBytes img).length + 127) / 128) (some img))) ∧
      (s.ckEn f = true → s.ideSecure = true → exec (.seepPass f) s =
        .next { (s.updSession f fun x => { x with image := none }) with host := s.host.store (s.hostBase f + 2 ^ 46) (layoutBytes img) })) ∧
    -- R407, R435: the last pass
    (m ≠ 3 ∨ (s.session f).image ≠ none ∨ s.backlog f ≠ 0 → exec (.finalPassComplete f) s = .next s) ∧
    (let x := s.session f
     m = 3 → x.image = none → s.backlog f = 0 → x.desc = 0 → x.word = 0 → x.expect = none →
      (s.ckEn f = false → exec (.finalPassComplete f) s = .next ((s.setVf f 6 0 0).setMig f 4 0 false)) ∧
      (s.ckEn f = true → exec (.finalPassComplete f) s = .next ((s.setVf f 5 0 0).setMig f 1 0 false))) ∧
    -- R410: LOAD checks the digest, the version and the keys, in that order
    (m = 9 → s.imageIn f = none → exec (.migLoad f) s = .next (s.setMig f 9 4 (s.swDone f))) ∧
    (∀ img, m = 9 → s.imageIn f = some img →
      (img.major ≠ 1 → exec (.migLoad f) s = .next (s.setMig f 9 3 (s.swDone f))) ∧
      (img.major = 1 → (∃ l ∈ img.launches, s.keyStands l.record = false) → exec (.migLoad f) s = .next (s.setMig f 9 5 (s.swDone f))) ∧
      (img.major = 1 → (∀ l ∈ img.launches, s.keyStands l.record = true) →
        (∃ l ∈ img.launches, l.record.isCopy = false ∧ s.tooLarge f l.record = true) → exec (.migLoad f) s = .next (s.setMig f 9 2 (s.swDone f))) ∧
      (img.major = 1 → (∀ l ∈ img.launches, s.keyStands l.record = true ∧ (l.record.isCopy = true ∨ s.tooLarge f l.record = false)) →
        ∃ t, exec (.migLoad f) s = .next t ∧ t.migState f = 10 ∧ t.vfState f = 5 ∧ (t.session f).inbuf = [] ∧ t.mem = s.mem ∧
          t.accepted = s.accepted ++ ((s.session f).inbuf.filter fun p => vdnOk (t.vdne f p.svdn)).map (fun p => (p, RxSlot.none)))) ∧
    -- R404: one bitmap word, exchanged with 0, and its granules in order
    (m ≠ 2 → m ≠ 3 → m ≠ 5 ∨ (s.session f).finishing = false → exec (.seepPass f) s = .next s) ∧
    (∀ d, m = 2 ∨ m = 3 ∨ (m = 5 ∧ (s.session f).finishing = true) → s.ckEn f = false → (s.session f).expect = none → (s.trackDescs f)[(s.session f).desc]? = some d →
      let x := s.session f
      let w := s.mem.read (d.bitmap + 8 * x.word) 8
      let s0 := { s with seepTurn := f + 1, mem := s.mem.store (d.bitmap + 8 * x.word) (leBytes 0 8) }
      let gs := ((List.range 64).filter fun i => bit w i).map fun i => (d.ipa + 512 * (64 * x.word + i), d.pa + 512 * (64 * x.word + i))
      x.word + 1 ≠ 64 * d.units → x.image = none ∨ x.desc ≠ 0 ∨ x.word ≠ 0 →
        ((∀ g ∈ gs, ∀ k, k < 4 → (g.2 / 128 + k) ∉ s.poisoned) → exec (.seepPass f) s =
          .next ((gs.foldl (fun s g => s.seepPost f g.1 g.2) s0).updSession f fun y => { y with pass := y.pass ++ gs, word := y.word + 1 })) ∧
        -- R433: a line whose check bits fail is logged and ends the session
        (let bad := gs.flatMap fun g => ([0, 1, 2, 3].map fun k => g.2 / 128 + k).filter fun l => s.poisoned.contains l
         bad ≠ [] → exec (.seepPass f) s = .next ((bad.foldl (fun s l =>
           s.logError (if s.mere.any fun m => m.line == l then 1 else 0) f (128 * l)) s0).migFailBoth f 7))) ∧
    -- R412, R435: forwarding, holding at a checkpoint, the end of the window
    (∀ p : Packet, p.dstFun = f →
      ((s.session f).forwarding = true → exec (.oxbowForward p) s = .next (s.emit { p with dstDev := s.pdev f, dstFun := s.pfunc f, srcFun := f })) ∧
      ((s.session f).forwarding = false → (s.session f).frozen.isSome = true → s.ckEn f = true → s.inbufRoom = true →
        exec (.oxbowForward p) s = .next (s.setSession f { s.session f with inbuf := (s.session f).inbuf ++ [p] })) ∧
      ((s.session f).forwarding = false → (s.session f).frozen = none ∨ s.ckEn f = false → exec (.oxbowForward p) s = .next s)) ∧
    (∀ c, (s.session f).oxEnd = some c →
      (s.clk < c → exec (.oxbowWindowExpiry f) s = .next s) ∧
      (c ≤ s.clk → ∃ t, exec (.oxbowWindowExpiry f) s = .next t ∧ (t.session f).forwarding = false ∧ (t.session f).oxEnd = none ∧ t.mem = s.mem))) ∧
  (∀ (s : State) (p : Packet) (mtag epoch r ipa owner pa : Nat) (data : List Byte) (l : Trans), p.dstFun < 8 →
    p.body = .seep mtag epoch r ipa owner data →
    let f := p.dstFun
    let x := s.session f
    let mine : Prop := s.seepOpen f = true ∧ s.fromPeer p mtag = true ∧ epoch = (x.epoch + 1).toNat ∧ r = x.r
    -- R404, R405, R409: only from the session's other end with its tag, in the pass under way, through stage 2
    (¬ mine → exec (.seepWriteArrival p) s = .next (s.stalePkt f)) ∧
    (mine → s.stage2 f ipa = none → exec (.seepWriteArrival p) s = .next (s.migFailBoth f 8)) ∧
    (mine → s.stage2 f ipa = some l → l.tgt = .loc pa → l.w = true →
      (owner = 0 → s.owner pa = 0 →
        exec (.seepWriteArrival p) s = .next (((s.setOwner pa 0).homeWrite f 0 none pa data).seepLanded f data.length)) ∧
      (∀ k, owner ≠ 0 → s.handle? owner = some k → s.owner pa = 0 →
        exec (.seepWriteArrival p) s = .next (((s.setOwner pa k.tag).homeWrite f 0 none pa data).seepLanded f data.length)) ∧
      (owner ≠ 0 → s.handle? owner = none → exec (.seepWriteArrival p) s = .next (s.migFailBoth f 5)))) ∧
  (∀ (s : State) (p : Packet) (mtag epoch r off : Nat) (data : List Byte), p.dstFun < 8 → p.body = .seepImage mtag epoch r off data →
    let f := p.dstFun
    -- R407, R409: a part of the image goes into the save area
    s.seepAccepts p mtag epoch r = true →
      (off + data.length ≤ (s.saveArea f).2 →
        exec (.seepWriteArrival p) s = .next ((s.homeWrite f 0 none ((s.saveArea f).1 + off) data).seepLanded f data.length)) ∧
      ((s.saveArea f).2 < off + data.length → exec (.seepWriteArrival p) s = .next (s.migFailBoth f 2))) ∧
  (∀ (s : State) (p : Packet) (mtag epoch r n : Nat) (image : Option Image), p.dstFun < 8 → p.body = .seepRelease mtag epoch r n image →
    let f := p.dstFun
    let x := s.session f
    -- R301, R405, R409: the release of a pass or of the image; the last pass's is answered again
    (s.seepOpen f = false ∨ s.fromPeer p mtag = false → exec (.imageReleaseArrival p) s = .next s) ∧
    (s.seepOpen f = true → s.fromPeer p mtag = true →
      (epoch = x.epoch.toNat → exec (.imageReleaseArrival p) s = .next (s.toPeer f (.seepToken mtag epoch r))) ∧
      (epoch ≠ x.epoch.toNat → epoch ≠ (x.epoch + 1).toNat → exec (.imageReleaseArrival p) s = .next (s.stalePkt f)) ∧
      (epoch = (x.epoch + 1).toNat → x.expect ≠ none → exec (.imageReleaseArrival p) s = .next s) ∧
      (epoch = (x.epoch + 1).toNat → x.expect = none → exec (.imageReleaseArrival p) s =
        .next ((s.updSession f fun x => { x with expect := some (n, image), deadline := some (s.clk + us 20) }).seepClose f)))) ∧
  (∀ (s : State) (f : Nat) (img : Image), f < 8 → (s.sysregs.wf sysReset) = true → (s.sessions.wf fun _ => Session.reset) = true →
    let x := s.session f
    x.expect = some (x.arrived, some img) →
    -- R409: LOADABLE once the image's release has been performed
    (s.seepClose f).migState f = (if s.migState f = 8 then 9 else s.migState f) ∧ (s.seepClose f).images = img :: s.images ∧
      ((s.seepClose f).session f).epoch = x.epoch + 1 ∧ (s.seepClose f).mem = s.mem) ∧
  (∀ (s : State) (f g dst dfun mtag v : Nat), (s.sysregs.wf sysReset) = true → (s.sessions.wf fun _ => Session.reset) = true → f < 8 → g < 9 → v < 64 → dst < 64 →
    dfun < 9 → mtag < 256 →
    let e := s.vdne g v
    -- R411: a redirecting entry that matches is retargeted; the source commits and its window runs
    ∃ t, exec (.vdnSwitchFrame s.phys f dst dfun mtag) s = .next t ∧
      (e % 4 = 2 → vdnPhys e = s.phys → vdnFunc e = f → bits e 31 24 = mtag →
        vdnPhys (t.vdne g v) = dst ∧ vdnFunc (t.vdne g v) = dfun ∧ t.vdne g v % 4 = 1) ∧
      (e % 4 ≠ 2 → t.vdne g v = e) ∧
      (let mine : Prop := (s.migState f = 4 ∨ (s.migState f = 3 ∧ (s.session f).image = none)) ∧ s.ckEn f = false ∧ mtag = s.mtag f ∧
         dst = s.pdev f ∧ dfun = s.pfunc f
       (mine → t.migState f = 5 ∧ (t.session f).oxEnd = some (s.clk + us (bits (s.mreg f 2) 9 0)) ∧ (t.session f).held = [] ∧
         (s.migState f = 3 → t.vfState f = 6 ∧ (t.session f).finishing = true)) ∧
       (¬ mine → t.migState f = s.migState f)) ∧ t.mem = s.mem) ∧
  (∀ (s : State) (f v : Nat) (x : Word), (s.sysregs.wf sysReset) = true → f < 9 → v < 64 →
    -- R411: VDNE by swr
    (8 < bits x.toNat 5 2 → exec (.vdneWrite f v x) s = .next s) ∧
    (bits x.toNat 5 2 ≤ 8 → ∃ t, exec (.vdneWrite f v x) s = .next t ∧
      t.vdne f v = ((if x.toNat % 4 = 3 then x &&& 0xFFFFFFFC else x) &&& 0xFF3FFF3F).toNat ∧ t.mem = s.mem ∧
      ∀ k, k ≠ 0x1000 + 0x40 * f + v → t.sys k = s.sys k)) ∧
  ∀ (s : State) (d : Nat), (s.credits.wf fun _ => 0) = true →
    -- R421: a credit comes back; a held packet leaves
    (s.ctrlWait = [] → ∃ t, exec (.controlCreditReturn d) s = .next t ∧ Tab.get (fun _ => 0) t.credits d = Tab.get (fun _ => 0) s.credits d - 1 ∧
      t.mem = s.mem ∧ t.outbox = s.outbox)

/-- R3, R8, R366, R367, R416, R424, R427, R441 to R443: power-on with measured boot, SPDM, key handles, link secrets and IDE keys. -/
def Obligations.BootAndTrust : Prop :=
  (∀ (s : State) (img : BootImages),
    let ok (i : Nat) (x : BootStage) : Prop := Config.ecdsaOk (Config.sha384 x.image) x.sig = true ∧ Config.rollbackCount (i + 1) ≤ x.version
    ∃ t, exec (.powerOn img) s = .next t ∧ t.mem = [] ∧ t.threads = [] ∧ t.host = s.host ∧ t.outbox = s.outbox ∧ t.inputs = s.inputs ∧
      t.spdm.powerOns = s.spdm.powerOns + 1 ∧ t.spdm.secured = false ∧
      -- R441: register 0 measures the ROM, each verified stage its own; a stage that fails leaves recovery
      t.measurement 0 = Config.sha384 (digestBytes 0 ++ digestBytes (Config.sha384 img.rom)) ∧
      ((∀ i x, (img.stages.take 3)[i]? = some x → ok i x) → t.recovery = false ∧ t.phys = img.position % 64 ∧
        ∀ i x, (img.stages.take 3)[i]? = some x →
          t.measurement (i + 1) = Config.sha384 (digestBytes 0 ++ digestBytes (Config.sha384 x.image))) ∧
      ((∃ i x, (img.stages.take 3)[i]? = some x ∧ ¬ ok i x) → t.recovery = true ∧ t.sysregs = State.reset.sysregs)) ∧
  (∀ (s : State) (r : Nat) (h : BitVec 384), (s.measure.wf fun _ => 0) = true →
    (4 ≤ r → r < 16 → ∃ t, exec (.measurementExtend r h) s = .next t ∧
      t.measurement r = Config.sha384 (digestBytes (s.measurement r) ++ digestBytes h) ∧ (∀ k, k ≠ r → t.measurement k = s.measurement k) ∧ t.mem = s.mem) ∧
    (r < 4 ∨ 16 ≤ r → exec (.measurementExtend r h) s = .next s)) ∧
  (∀ (s : State) (nonce : BitVec 256) (idx : Nat),
    let all := (List.range 16).map fun i => (s.measurement i).toNat
    let say (s : State) (o : Out) : State := { s with outbox := s.outbox ++ [o] }
    let err : State := say s (.spdmBlob 0 (Config.spdmBlob 0))
    -- R442: the requests and what their responses cover
    exec .getVersion s = .next (say { s with spdm := { s.spdm with negotiated := false, exchanged := false, secured := false } } (.spdmBlob 1 (Config.spdmBlob 1))) ∧
    exec .getCapabilities s = .next (say s (.spdmBlob 2 (Config.spdmBlob 2))) ∧
    exec .negotiateAlgorithms s = .next (say { s with spdm := { s.spdm with negotiated := true } } (.spdmBlob 3 (Config.spdmBlob 3))) ∧
    (s.spdm.negotiated = true →
      exec .getDigests s = .next (say s (.spdmBlob 4 (Config.spdmBlob 4))) ∧
      exec .getCertificate s = .next (say s (.spdmBlob 5 (Config.spdmBlob 5))) ∧
      exec (.challenge nonce) s = .next (say s (.spdm 6 all (Config.spdmSign nonce all))) ∧
      (∀ m, m < 16 → exec (.getMeasurements (m + 1) nonce) s =
        .next (say s (.spdm 7 [(s.measurement m).toNat] (Config.spdmSign nonce [(s.measurement m).toNat])))) ∧
      (∀ o, o ≤ 8 → let d := { s with spdm := { s.spdm with snapshots := s.spdm.snapshots + 1 } }.meterSnapshot o
        exec (.getMeasurements (0x40 + o) nonce) s =
          .next (say { s with spdm := { s.spdm with snapshots := s.spdm.snapshots + 1 } } (.spdm 7 d (Config.spdmSign nonce d)))) ∧
      (idx = 0 ∨ (16 < idx ∧ idx < 0x40) ∨ 0x48 < idx → exec (.getMeasurements idx nonce) s = .next err) ∧
      exec (.keyExchange nonce) s =
        .next (say { s with spdm := { s.spdm with exchanged := true, secured := false } } (.spdm 8 all (Config.spdmSign nonce all)))) ∧
    (s.spdm.exchanged = true →
      exec .finish s = .next (say { s with spdm := { s.spdm with exchanged := false, secured := true } } (.spdmBlob 9 (Config.spdmBlob 9)))) ∧
    (s.spdm.secured = true → exec .endSession s = .next (say { s with spdm := { s.spdm with secured := false } } (.spdmBlob 10 (Config.spdmBlob 10)))) ∧
    -- log entry 23: the model's error response out of order
    (s.spdm.negotiated = false → ∀ i ∈ [Instr.getDigests, .getCertificate, .challenge nonce, .getMeasurements idx nonce, .keyExchange nonce], exec i s = .next err) ∧
    (s.spdm.exchanged = false → exec .finish s = .next err) ∧ (s.spdm.secured = false → exec .endSession s = .next err)) ∧
  (∀ (s : State) (h gen f : Nat) (secret : BitVec 256), (s.linkSecrets.wf fun _ => 0) = true →
    -- R442: keys and secrets are accepted in a secured session alone
    (s.spdm.secured = false → ∀ i ∈ [Instr.keyInstall h gen, .keyRemove h, .keyRotate h, .linkSecretInstall f secret, .ideKeyProgram true], exec i s = .next s) ∧
    (s.spdm.secured = true →
      -- R366: a tag that no handle has (log entry 24); an installed handle keeps its tag
      (∀ tag, 0 < h → h < 2 ^ 24 → s.handle? h = none → s.freeTag = some tag →
        exec (.keyInstall h gen) s = .next { s with handles := s.handles ++ [(h, { gen := BitVec.ofNat 8 gen, tag, wrapped := Config.keyMaterial h (BitVec.ofNat 8 gen) })] }) ∧
      (∀ k, s.handle? h = some k → exec (.keyInstall h gen) s = .next s) ∧
      (∀ k, s.handle? h = some k → (∃ e ∈ s.owners, e.2 = k.tag) → exec (.keyRemove h) s = .next s) ∧
      (∀ k, s.handle? h = some k → (∃ x ∈ s.shoots, x.1 = 10 ∧ x.2.2.1.guest = false ∧ x.2.2.1.asid = k.tag) → exec (.keyRemove h) s = .next s) ∧
      (∀ k, s.handle? h = some k → (∀ e ∈ s.owners, e.2 ≠ k.tag) →
        (∀ x ∈ s.shoots, ¬ (x.1 = 10 ∧ x.2.2.1.guest = false ∧ x.2.2.1.asid = k.tag)) → ∃ t, exec (.keyRemove h) s = .next t ∧ t.handle? h = none ∧
        (∀ j, j ≠ h → t.handle? j = s.handle? j) ∧ t.mem = s.mem) ∧
      -- R367: the generation advances by 1 modulo 256
      (∀ k, s.handle? h = some k → ∃ t, exec (.keyRotate h) s = .next t ∧ t.handle? h = some { k with gen := k.gen + 1, wrapped := Config.keyMaterial h (k.gen + 1) } ∧
        (∀ j, j ≠ h → t.handle? j = s.handle? j) ∧ t.mem = s.mem) ∧
      -- R424, R443
      (f < 9 → ∃ t, exec (.linkSecretInstall f secret) s = .next t ∧ Tab.get (fun _ => 0) t.linkSecrets f = secret.toNat ∧
        (∀ j, j ≠ f → Tab.get (fun _ => 0) t.linkSecrets j = Tab.get (fun _ => 0) s.linkSecrets j) ∧ t.mem = s.mem) ∧
      exec (.ideKeyProgram true) s = .next { s with ideSecure := true, ideBroken := false }) ∧
    exec (.ideKeyProgram false) s = .next { s with ideSecure := false, ideBroken := s.ideBroken || s.ideSecure }) ∧
  ∀ (s : State) (t : Nat), s.freeTag = some t → 0 < t ∧ t < 4096 ∧ ∀ e ∈ s.handles, e.2.tag ≠ t

/-- The state after reset: the register values of R241, R286, R287, R308, R309, R350, R358, R361, R363, R375, R378, R387, R391, R400, R411, R419, R422, R423, R431, R434 and R438, empty units, and the invariant. That an unlisted byte of memory reads 0 is the model's choice (log entry 3). -/
def Obligations.ResetState : Prop :=
  State.reset.Inv ∧
  (∀ f, f < 9 → ∀ v, v < 64 →
    let r (base n : Nat) : Nat := (State.reset.sys (fReg base f n)).toNat
    -- LKTMOA and LKTMOB: T1 100, T0 10, T3 0, T2 1000; LKLIM: QUOTA 4096, HOLD 1024; FWCFG: ARSV 4, TLOST 20; LNKCFG: RSLOT 4, TXW 1
    r 0x0400 0 = 100 * 2 ^ 16 + 10 ∧ r 0x0400 1 = 1000 ∧ r 0x0400 2 = 4096 * 2 ^ 16 + 1024 ∧ r 0x0400 3 = 4 * 2 ^ 16 + 20 ∧ r 0x0400 4 = 0 ∧
    r 0x0D00 0 = 1025 ∧ r 0x0D00 1 = 0 ∧ (State.reset.sys (0x0C10 + f)).toNat = 0 ∧ State.reset.vdne f v = 0 ∧
    ∀ n, n < 3 → r 0x0600 n = 0 ∧ r 0x0700 n = 0) ∧
  (∀ f, f < 8 →
    let m (n : Nat) : Nat := (State.reset.sys (fReg 0x0A00 f n)).toNat
    State.reset.vfState f = 0 ∧ State.reset.migState f = 0 ∧
    m 0 = 0 ∧ m 1 = 0 ∧ m 2 = 256 ∧ m 3 = 3072 * 2 ^ 20 + 1000 ∧ m 4 = 0 ∧ m 5 = 0 ∧ m 6 = 0 ∧ m 7 = 0) ∧
  (∀ d, d < 4 → State.reset.sys (unitKey 0x0210 d) = 0x01000040 ∧ State.reset.sys (unitKey 0x0500 d) = 100 ∧ State.reset.sys (unitKey 0x0501 d) = 1000 ∧
    bits (State.reset.milv d) 7 4 = 15 ∧ State.reset.sys (0x0C00 + d) = 0 ∧ State.reset.sys (0x0DA0 + d) = 0) ∧
  State.reset.clk = 0 ∧
  State.reset.sys 0x0800 = 0 ∧ State.reset.sys 0x0805 = 15 ∧ State.reset.sys 0x0806 = 0 ∧ State.reset.sys 0x0693 = 0 ∧ State.reset.sys 0x06A0 = 0 ∧
  State.reset.sys 0x06A1 = 0 ∧ State.reset.sys 0x06B0 = 0 ∧ State.reset.sys 0x06B1 = 0 ∧ State.reset.sys 0x06B2 = 0 ∧
  (∀ f q, f < 9 → q < 64 → ∀ w, w < 32 → State.reset.bar f (0x1008 + 32 * q) = 0x04000000 ∧ State.reset.window f w = Window.reset) ∧
  (∀ i, State.reset.measurement i = 0) ∧ (∀ a, State.reset.mem.byte a = 0) ∧ State.reset.threads = [] ∧ State.reset.blocks = [] ∧
  State.reset.launches = [] ∧ State.reset.locks = [] ∧ State.reset.outbox = []

/-- A step keeps the canonical form of the memories and of the register tables, from every state that has it (log entry 3). -/
def Obligations.FormsKept : Prop :=
  ∀ s t : State, s.Inv → step s = .next t → t.Inv

/-- The machine has no state in which it stops: every step answers a next state, so no instruction or event ends a run (R36: what an instruction may not do is a trap). -/
def Obligations.StepsGoOn : Prop :=
  ∀ s : State, ∃ t, step s = .next t
end

