-- ==== Sys2Proof/Laws/Memory.lean ====
section
/-! SUPPORT. The laws of the sparse tables and of memory: every operation keeps the canonical form, and what is read after a write. -/

namespace Sys2Proof.Machine

/-- The first key of a table is above `n`. -/
theorem above_mono {t : Tab α} {m n : Nat} (h : Tab.above n t = true) (hm : m ≤ n) : Tab.above m t = true := by
  cases t with
  | nil => rfl
  | cons e r =>
    simp only [Tab.above, Bool.and_eq_true, decide_eq_true_eq] at h ⊢
    exact ⟨by omega, h.2⟩

/-- The canonical form of a table with a first entry. -/
theorem wf_cons [DecidableEq α] (d : Nat → α) (k : Nat) (v : α) (r : Tab α) :
    Tab.wf d ((k, v) :: r) = true ↔ Tab.above k r = true ∧ v ≠ d k ∧ Tab.wf d r = true := by
  cases r with
  | nil => simp [Tab.wf, Tab.above]
  | cons e r => simp [Tab.wf, Tab.above]; tauto

theorem above_set [DecidableEq α] (d : Nat → α) {t : Tab α} {n k : Nat} (v : α) (h : Tab.above n t = true) (hk : n < k) :
    Tab.above n (Tab.set d t k v) = true := by
  induction t generalizing n with
  | nil => unfold Tab.set; split <;> simp [Tab.above, hk]
  | cons e r ih =>
    obtain ⟨j, w⟩ := e
    simp only [Tab.above, Bool.and_eq_true, decide_eq_true_eq] at h
    have hr := ih (n := j) h.2
    unfold Tab.set
    split
    · subst_vars
      split
      · exact above_mono h.2 (by omega)
      · simp [Tab.above, h.2, hk]
    · split
      · split <;> simp [Tab.above, *]
      · simp only [Tab.above, Bool.and_eq_true, decide_eq_true_eq]
        exact ⟨h.1, hr (by omega)⟩

/-- Setting a key keeps the canonical form. -/
theorem wf_set [DecidableEq α] (d : Nat → α) {t : Tab α} (k : Nat) (v : α) (h : Tab.wf d t = true) : Tab.wf d (Tab.set d t k v) = true := by
  induction t with
  | nil =>
    unfold Tab.set
    split
    · rfl
    · simp [Tab.wf, Tab.above, *]
  | cons e r ih =>
    obtain ⟨j, w⟩ := e
    have h0 := h
    rw [wf_cons] at h
    unfold Tab.set
    split
    · subst_vars
      split
      · exact h.2.2
      · rw [wf_cons]; exact ⟨h.1, by assumption, h.2.2⟩
    · split
      · split
        · exact h0
        · rw [wf_cons]
          refine ⟨?_, by assumption, h0⟩
          simp [Tab.above, h.1, *]
      · rw [wf_cons]
        exact ⟨above_set d v h.1 (by omega), h.2.1, ih h.2.2⟩

theorem get_above [DecidableEq α] (d : Nat → α) {t : Tab α} {n k : Nat} (h : Tab.above n t = true) (hk : k ≤ n) : Tab.get d t k = d k := by
  cases t with
  | nil => rfl
  | cons e r =>
    obtain ⟨j, w⟩ := e
    simp only [Tab.above, Bool.and_eq_true, decide_eq_true_eq] at h
    unfold Tab.get
    rw [if_neg (by omega), if_pos (by omega)]

/-- What reads after a write: the value at its key, what was there at every other. -/
theorem get_set [DecidableEq α] (d : Nat → α) {t : Tab α} (k j : Nat) (v : α) (h : Tab.wf d t = true) :
    Tab.get d (Tab.set d t k v) j = if j = k then v else Tab.get d t j := by
  induction t with
  | nil =>
    by_cases hv : v = d k <;> by_cases hj : j = k <;> simp [Tab.set, Tab.get, hv, hj]
    exact fun hk => absurd hk.symm hj
  | cons e r ih =>
    obtain ⟨i, w⟩ := e
    rw [wf_cons] at h
    have ih := ih h.2.2
    unfold Tab.set
    by_cases hik : i = k
    · subst hik
      rw [if_pos rfl]
      by_cases hj : j = i
      · subst hj
        split
        · rw [get_above d h.1 (Nat.le_refl _), if_pos rfl]; exact Eq.symm ‹_›
        · simp [Tab.get]
      · rw [if_neg hj]
        have hg : Tab.get d ((i, w) :: r) j = if j < i then d j else Tab.get d r j := by
          simp [Tab.get, Ne.symm hj]
        have hb : (if j < i then d j else Tab.get d r j) = Tab.get d r j := by
          split
          · exact (get_above d h.1 (by omega)).symm
          · rfl
        rw [hg, hb]
        split
        · rfl
        · have : Tab.get d ((i, v) :: r) j = if j < i then d j else Tab.get d r j := by simp [Tab.get, Ne.symm hj]
          rw [this, hb]
    · rw [if_neg hik]
      by_cases hki : k < i
      · rw [if_pos hki]
        by_cases hj : j = k
        · subst hj
          rw [if_pos rfl]
          split
          · rw [Tab.get, if_neg hik, if_pos hki]; exact Eq.symm ‹_›
          · simp [Tab.get]
        · rw [if_neg hj]
          split
          · rfl
          · rw [Tab.get, if_neg (Ne.symm hj)]
            split
            · rw [Tab.get, if_neg (by omega), if_pos (by omega)]
            · rfl
      · rw [if_neg hki]
        rw [Tab.get]
        by_cases hj : j = k
        · subst hj
          rw [if_neg hik, if_neg hki, ih, if_pos rfl, if_pos rfl]
        · rw [if_neg hj, Tab.get, ih, if_neg hj]

theorem above_filter {t : Tab α} {n : Nat} (p : Nat × α → Bool) (h : Tab.above n t = true) : Tab.above n (t.filter p) = true := by
  induction t generalizing n with
  | nil => rfl
  | cons e r ih =>
    obtain ⟨j, w⟩ := e
    simp only [Tab.above, Bool.and_eq_true, decide_eq_true_eq] at h
    rw [List.filter_cons]
    split
    · simp only [Tab.above, Bool.and_eq_true, decide_eq_true_eq]; exact ⟨h.1, ih h.2⟩
    · exact ih (above_mono h.2 (by omega))

/-- Dropping entries keeps the canonical form. -/
theorem wf_filter [DecidableEq α] (d : Nat → α) {t : Tab α} (p : Nat × α → Bool) (h : Tab.wf d t = true) : Tab.wf d (t.filter p) = true := by
  induction t with
  | nil => rfl
  | cons e r ih =>
    obtain ⟨j, w⟩ := e
    rw [wf_cons] at h
    rw [List.filter_cons]
    split
    · rw [wf_cons]; exact ⟨above_filter p h.1, h.2.1, ih h.2.2⟩
    · exact ih h.2.2

theorem above_map {t : Tab α} {n : Nat} (f : α → α) (h : Tab.above n t = true) : Tab.above n (t.map fun e => (e.1, f e.2)) = true := by
  induction t generalizing n with
  | nil => rfl
  | cons e r ih =>
    obtain ⟨j, w⟩ := e
    simp only [Tab.above, Bool.and_eq_true, decide_eq_true_eq] at h
    simp only [List.map_cons, Tab.above, Bool.and_eq_true, decide_eq_true_eq]
    exact ⟨h.1, ih h.2⟩

/-- Changing every entry keeps the canonical form. -/
theorem wf_mapVals [DecidableEq α] (d : Nat → α) (f : α → α) {t : Tab α} (h : Tab.wf d t = true) : Tab.wf d (t.mapVals d f) = true := by
  induction t with
  | nil => rfl
  | cons e r ih =>
    obtain ⟨j, w⟩ := e
    rw [wf_cons] at h
    have ih := ih h.2.2
    unfold Tab.mapVals at ih ⊢
    rw [List.map_cons, List.filter_cons]
    split
    · rename_i hne
      rw [wf_cons]
      exact ⟨above_filter _ (above_map f h.1), by simpa using hne, ih⟩
    · exact ih

theorem Memory.setByte_wf {m : Memory} (a : Nat) (b : Byte) (h : m.wf = true) : (m.setByte a b).wf = true := wf_set _ a b h

/-- Storing bytes keeps the canonical form of memory. -/
theorem Memory.store_wf {m : Memory} (a : Nat) (bs : List Byte) (h : m.wf = true) : (m.store a bs).wf = true := by
  induction bs generalizing m a with
  | nil => exact h
  | cons b r ih => exact ih (a + 1) (m.setByte_wf a b h)

/-- Clearing bytes keeps the canonical form of memory. -/
theorem Memory.zero_wf {m : Memory} (a n : Nat) (h : m.wf = true) : (m.zero a n).wf = true := wf_filter _ _ h

/-- Storing single bytes in turn keeps the canonical form of memory. -/
theorem Memory.foldl_setByte_wf {m : Memory} (l : List (Nat × Byte)) (h : m.wf = true) :
    (l.foldl (fun (x : Memory) e => x.setByte e.1 e.2) m).wf = true := by
  induction l generalizing m with
  | nil => exact h
  | cons e r ih => exact ih (m.setByte_wf e.1 e.2 h)

theorem Memory.byte_setByte {m : Memory} (a x : Nat) (b : Byte) (h : m.wf = true) : (m.setByte a b).byte x = if x = a then b else m.byte x :=
  get_set _ a x b h

/-- Storing bytes leaves every byte below them and above them alone. -/
theorem Memory.byte_store_other {m : Memory} (a x : Nat) (bs : List Byte) (h : m.wf = true) (hx : x < a ∨ a + bs.length ≤ x) :
    (m.store a bs).byte x = m.byte x := by
  induction bs generalizing m a with
  | nil => rfl
  | cons b r ih =>
    simp only [List.length_cons] at hx
    rw [Memory.store, ih (a + 1) (m.setByte_wf a b h) (by omega), m.byte_setByte a x b h, if_neg (by omega)]

end Sys2Proof.Machine
end

