-- ==== Sys2Proof/Laws/State.lean ====
section
/-! SUPPORT. One lemma per field for each plain update of the state and of a thread: what the field is after it. -/

namespace Sys2Proof.Machine

@[simp] theorem State.setSys_clk (s : State) (k : Nat) (v : Word) : (s.setSys k v).clk = s.clk := rfl
@[simp] theorem State.setSys_turn (s : State) (k : Nat) (v : Word) : (s.setSys k v).turn = s.turn := rfl
@[simp] theorem State.setSys_ports (s : State) (k : Nat) (v : Word) : (s.setSys k v).ports = s.ports := rfl
@[simp] theorem State.setSys_inputs (s : State) (k : Nat) (v : Word) : (s.setSys k v).inputs = s.inputs := rfl
@[simp] theorem State.setSys_arriving (s : State) (k : Nat) (v : Word) : (s.setSys k v).arriving = s.arriving := rfl
@[simp] theorem State.setSys_accepted (s : State) (k : Nat) (v : Word) : (s.setSys k v).accepted = s.accepted := rfl
@[simp] theorem State.setSys_nextId (s : State) (k : Nat) (v : Word) : (s.setSys k v).nextId = s.nextId := rfl
@[simp] theorem State.setSys_outbox (s : State) (k : Nat) (v : Word) : (s.setSys k v).outbox = s.outbox := rfl
@[simp] theorem State.setSys_threads (s : State) (k : Nat) (v : Word) : (s.setSys k v).threads = s.threads := rfl
@[simp] theorem State.setSys_groups (s : State) (k : Nat) (v : Word) : (s.setSys k v).groups = s.groups := rfl
@[simp] theorem State.setSys_blocks (s : State) (k : Nat) (v : Word) : (s.setSys k v).blocks = s.blocks := rfl
@[simp] theorem State.setSys_cores (s : State) (k : Nat) (v : Word) : (s.setSys k v).cores = s.cores := rfl
@[simp] theorem State.setSys_dies (s : State) (k : Nat) (v : Word) : (s.setSys k v).dies = s.dies := rfl
@[simp] theorem State.setSys_quads (s : State) (k : Nat) (v : Word) : (s.setSys k v).quads = s.quads := rfl
@[simp] theorem State.setSys_loads (s : State) (k : Nat) (v : Word) : (s.setSys k v).loads = s.loads := rfl
@[simp] theorem State.setSys_nps (s : State) (k : Nat) (v : Word) : (s.setSys k v).nps = s.nps := rfl
@[simp] theorem State.setSys_wants (s : State) (k : Nat) (v : Word) : (s.setSys k v).wants = s.wants := rfl
@[simp] theorem State.setSys_posts (s : State) (k : Nat) (v : Word) : (s.setSys k v).posts = s.posts := rfl
@[simp] theorem State.setSys_copies (s : State) (k : Nat) (v : Word) : (s.setSys k v).copies = s.copies := rfl
@[simp] theorem State.setSys_mcmds (s : State) (k : Nat) (v : Word) : (s.setSys k v).mcmds = s.mcmds := rfl
@[simp] theorem State.setSys_mem (s : State) (k : Nat) (v : Word) : (s.setSys k v).mem = s.mem := rfl
@[simp] theorem State.setSys_hbm (s : State) (k : Nat) (v : Word) : (s.setSys k v).hbm = s.hbm := rfl
@[simp] theorem State.setSys_host (s : State) (k : Nat) (v : Word) : (s.setSys k v).host = s.host := rfl
@[simp] theorem State.setSys_owners (s : State) (k : Nat) (v : Word) : (s.setSys k v).owners = s.owners := rfl
@[simp] theorem State.setSys_l1 (s : State) (k : Nat) (v : Word) : (s.setSys k v).l1 = s.l1 := rfl
@[simp] theorem State.setSys_mere (s : State) (k : Nat) (v : Word) : (s.setSys k v).mere = s.mere := rfl
@[simp] theorem State.setSys_poisoned (s : State) (k : Nat) (v : Word) : (s.setSys k v).poisoned = s.poisoned := rfl
@[simp] theorem State.setSys_locks (s : State) (k : Nat) (v : Word) : (s.setSys k v).locks = s.locks := rfl
@[simp] theorem State.setSys_lockLog (s : State) (k : Nat) (v : Word) : (s.setSys k v).lockLog = s.lockLog := rfl
@[simp] theorem State.setSys_windows (s : State) (k : Nat) (v : Word) : (s.setSys k v).windows = s.windows := rfl
@[simp] theorem State.setSys_epochs (s : State) (k : Nat) (v : Word) : (s.setSys k v).epochs = s.epochs := rfl
@[simp] theorem State.setSys_arrivals (s : State) (k : Nat) (v : Word) : (s.setSys k v).arrivals = s.arrivals := rfl
@[simp] theorem State.setSys_seqs (s : State) (k : Nat) (v : Word) : (s.setSys k v).seqs = s.seqs := rfl
@[simp] theorem State.setSys_dups (s : State) (k : Nat) (v : Word) : (s.setSys k v).dups = s.dups := rfl
@[simp] theorem State.setSys_links (s : State) (k : Nat) (v : Word) : (s.setSys k v).links = s.links := rfl
@[simp] theorem State.setSys_ivs (s : State) (k : Nat) (v : Word) : (s.setSys k v).ivs = s.ivs := rfl
@[simp] theorem State.setSys_drops (s : State) (k : Nat) (v : Word) : (s.setSys k v).drops = s.drops := rfl
@[simp] theorem State.setSys_linkSecrets (s : State) (k : Nat) (v : Word) : (s.setSys k v).linkSecrets = s.linkSecrets := rfl
@[simp] theorem State.setSys_credits (s : State) (k : Nat) (v : Word) : (s.setSys k v).credits = s.credits := rfl
@[simp] theorem State.setSys_ctrlWait (s : State) (k : Nat) (v : Word) : (s.setSys k v).ctrlWait = s.ctrlWait := rfl
@[simp] theorem State.setSys_txq (s : State) (k : Nat) (v : Word) : (s.setSys k v).txq = s.txq := rfl
@[simp] theorem State.setSys_txFibre (s : State) (k : Nat) (v : Word) : (s.setSys k v).txFibre = s.txFibre := rfl
@[simp] theorem State.setSys_txTurn (s : State) (k : Nat) (v : Word) : (s.setSys k v).txTurn = s.txTurn := rfl
@[simp] theorem State.setSys_txDeficit (s : State) (k : Nat) (v : Word) : (s.setSys k v).txDeficit = s.txDeficit := rfl
@[simp] theorem State.setSys_fibreErrs (s : State) (k : Nat) (v : Word) : (s.setSys k v).fibreErrs = s.fibreErrs := rfl
@[simp] theorem State.setSys_fibreRuns (s : State) (k : Nat) (v : Word) : (s.setSys k v).fibreRuns = s.fibreRuns := rfl
@[simp] theorem State.setSys_fibreNext (s : State) (k : Nat) (v : Word) : (s.setSys k v).fibreNext = s.fibreNext := rfl
@[simp] theorem State.setSys_sysregs (s : State) (k : Nat) (v : Word) : (s.setSys k v).sysregs = Tab.set sysReset s.sysregs k v := rfl
@[simp] theorem State.setSys_bar0 (s : State) (k : Nat) (v : Word) : (s.setSys k v).bar0 = s.bar0 := rfl
@[simp] theorem State.setSys_errSeq (s : State) (k : Nat) (v : Word) : (s.setSys k v).errSeq = s.errSeq := rfl
@[simp] theorem State.setSys_launches (s : State) (k : Nat) (v : Word) : (s.setSys k v).launches = s.launches := rfl
@[simp] theorem State.setSys_podHeard (s : State) (k : Nat) (v : Word) : (s.setSys k v).podHeard = s.podHeard := rfl
@[simp] theorem State.setSys_parked (s : State) (k : Nat) (v : Word) : (s.setSys k v).parked = s.parked := rfl
@[simp] theorem State.setSys_stalled (s : State) (k : Nat) (v : Word) : (s.setSys k v).stalled = s.stalled := rfl
@[simp] theorem State.setSys_ringStops (s : State) (k : Nat) (v : Word) : (s.setSys k v).ringStops = s.ringStops := rfl
@[simp] theorem State.setSys_saved (s : State) (k : Nat) (v : Word) : (s.setSys k v).saved = s.saved := rfl
@[simp] theorem State.setSys_resuming (s : State) (k : Nat) (v : Word) : (s.setSys k v).resuming = s.resuming := rfl
@[simp] theorem State.setSys_turns (s : State) (k : Nat) (v : Word) : (s.setSys k v).turns = s.turns := rfl
@[simp] theorem State.setSys_paces (s : State) (k : Nat) (v : Word) : (s.setSys k v).paces = s.paces := rfl
@[simp] theorem State.setSys_devHeld (s : State) (k : Nat) (v : Word) : (s.setSys k v).devHeld = s.devHeld := rfl
@[simp] theorem State.setSys_seepTurn (s : State) (k : Nat) (v : Word) : (s.setSys k v).seepTurn = s.seepTurn := rfl
@[simp] theorem State.setSys_images (s : State) (k : Nat) (v : Word) : (s.setSys k v).images = s.images := rfl
@[simp] theorem State.setSys_meters (s : State) (k : Nat) (v : Word) : (s.setSys k v).meters = s.meters := rfl
@[simp] theorem State.setSys_tlb (s : State) (k : Nat) (v : Word) : (s.setSys k v).tlb = s.tlb := rfl
@[simp] theorem State.setSys_walks (s : State) (k : Nat) (v : Word) : (s.setSys k v).walks = s.walks := rfl
@[simp] theorem State.setSys_shoots (s : State) (k : Nat) (v : Word) : (s.setSys k v).shoots = s.shoots := rfl
@[simp] theorem State.setSys_stale (s : State) (k : Nat) (v : Word) : (s.setSys k v).stale = s.stale := rfl
@[simp] theorem State.setSys_disables (s : State) (k : Nat) (v : Word) : (s.setSys k v).disables = s.disables := rfl
@[simp] theorem State.setSys_resumes (s : State) (k : Nat) (v : Word) : (s.setSys k v).resumes = s.resumes := rfl
@[simp] theorem State.setSys_pageMove (s : State) (k : Nat) (v : Word) : (s.setSys k v).pageMove = s.pageMove := rfl
@[simp] theorem State.setSys_keySlots (s : State) (k : Nat) (v : Word) : (s.setSys k v).keySlots = s.keySlots := rfl
@[simp] theorem State.setSys_handles (s : State) (k : Nat) (v : Word) : (s.setSys k v).handles = s.handles := rfl
@[simp] theorem State.setSys_sessions (s : State) (k : Nat) (v : Word) : (s.setSys k v).sessions = s.sessions := rfl
@[simp] theorem State.setSys_spdm (s : State) (k : Nat) (v : Word) : (s.setSys k v).spdm = s.spdm := rfl
@[simp] theorem State.setSys_ideSecure (s : State) (k : Nat) (v : Word) : (s.setSys k v).ideSecure = s.ideSecure := rfl
@[simp] theorem State.setSys_ideBroken (s : State) (k : Nat) (v : Word) : (s.setSys k v).ideBroken = s.ideBroken := rfl
@[simp] theorem State.setSys_ltrSent (s : State) (k : Nat) (v : Word) : (s.setSys k v).ltrSent = s.ltrSent := rfl
@[simp] theorem State.setSys_measure (s : State) (k : Nat) (v : Word) : (s.setSys k v).measure = s.measure := rfl
@[simp] theorem State.setSys_recovery (s : State) (k : Nat) (v : Word) : (s.setSys k v).recovery = s.recovery := rfl

@[simp] theorem State.setBar_clk (s : State) (f o : Nat) (v : Word) : (s.setBar f o v).clk = s.clk := rfl
@[simp] theorem State.setBar_turn (s : State) (f o : Nat) (v : Word) : (s.setBar f o v).turn = s.turn := rfl
@[simp] theorem State.setBar_ports (s : State) (f o : Nat) (v : Word) : (s.setBar f o v).ports = s.ports := rfl
@[simp] theorem State.setBar_inputs (s : State) (f o : Nat) (v : Word) : (s.setBar f o v).inputs = s.inputs := rfl
@[simp] theorem State.setBar_arriving (s : State) (f o : Nat) (v : Word) : (s.setBar f o v).arriving = s.arriving := rfl
@[simp] theorem State.setBar_accepted (s : State) (f o : Nat) (v : Word) : (s.setBar f o v).accepted = s.accepted := rfl
@[simp] theorem State.setBar_nextId (s : State) (f o : Nat) (v : Word) : (s.setBar f o v).nextId = s.nextId := rfl
@[simp] theorem State.setBar_outbox (s : State) (f o : Nat) (v : Word) : (s.setBar f o v).outbox = s.outbox := rfl
@[simp] theorem State.setBar_threads (s : State) (f o : Nat) (v : Word) : (s.setBar f o v).threads = s.threads := rfl
@[simp] theorem State.setBar_groups (s : State) (f o : Nat) (v : Word) : (s.setBar f o v).groups = s.groups := rfl
@[simp] theorem State.setBar_blocks (s : State) (f o : Nat) (v : Word) : (s.setBar f o v).blocks = s.blocks := rfl
@[simp] theorem State.setBar_cores (s : State) (f o : Nat) (v : Word) : (s.setBar f o v).cores = s.cores := rfl
@[simp] theorem State.setBar_dies (s : State) (f o : Nat) (v : Word) : (s.setBar f o v).dies = s.dies := rfl
@[simp] theorem State.setBar_quads (s : State) (f o : Nat) (v : Word) : (s.setBar f o v).quads = s.quads := rfl
@[simp] theorem State.setBar_loads (s : State) (f o : Nat) (v : Word) : (s.setBar f o v).loads = s.loads := rfl
@[simp] theorem State.setBar_nps (s : State) (f o : Nat) (v : Word) : (s.setBar f o v).nps = s.nps := rfl
@[simp] theorem State.setBar_wants (s : State) (f o : Nat) (v : Word) : (s.setBar f o v).wants = s.wants := rfl
@[simp] theorem State.setBar_posts (s : State) (f o : Nat) (v : Word) : (s.setBar f o v).posts = s.posts := rfl
@[simp] theorem State.setBar_copies (s : State) (f o : Nat) (v : Word) : (s.setBar f o v).copies = s.copies := rfl
@[simp] theorem State.setBar_mcmds (s : State) (f o : Nat) (v : Word) : (s.setBar f o v).mcmds = s.mcmds := rfl
@[simp] theorem State.setBar_mem (s : State) (f o : Nat) (v : Word) : (s.setBar f o v).mem = s.mem := rfl
@[simp] theorem State.setBar_hbm (s : State) (f o : Nat) (v : Word) : (s.setBar f o v).hbm = s.hbm := rfl
@[simp] theorem State.setBar_host (s : State) (f o : Nat) (v : Word) : (s.setBar f o v).host = s.host := rfl
@[simp] theorem State.setBar_owners (s : State) (f o : Nat) (v : Word) : (s.setBar f o v).owners = s.owners := rfl
@[simp] theorem State.setBar_l1 (s : State) (f o : Nat) (v : Word) : (s.setBar f o v).l1 = s.l1 := rfl
@[simp] theorem State.setBar_mere (s : State) (f o : Nat) (v : Word) : (s.setBar f o v).mere = s.mere := rfl
@[simp] theorem State.setBar_poisoned (s : State) (f o : Nat) (v : Word) : (s.setBar f o v).poisoned = s.poisoned := rfl
@[simp] theorem State.setBar_locks (s : State) (f o : Nat) (v : Word) : (s.setBar f o v).locks = s.locks := rfl
@[simp] theorem State.setBar_lockLog (s : State) (f o : Nat) (v : Word) : (s.setBar f o v).lockLog = s.lockLog := rfl
@[simp] theorem State.setBar_windows (s : State) (f o : Nat) (v : Word) : (s.setBar f o v).windows = s.windows := rfl
@[simp] theorem State.setBar_epochs (s : State) (f o : Nat) (v : Word) : (s.setBar f o v).epochs = s.epochs := rfl
@[simp] theorem State.setBar_arrivals (s : State) (f o : Nat) (v : Word) : (s.setBar f o v).arrivals = s.arrivals := rfl
@[simp] theorem State.setBar_seqs (s : State) (f o : Nat) (v : Word) : (s.setBar f o v).seqs = s.seqs := rfl
@[simp] theorem State.setBar_dups (s : State) (f o : Nat) (v : Word) : (s.setBar f o v).dups = s.dups := rfl
@[simp] theorem State.setBar_links (s : State) (f o : Nat) (v : Word) : (s.setBar f o v).links = s.links := rfl
@[simp] theorem State.setBar_ivs (s : State) (f o : Nat) (v : Word) : (s.setBar f o v).ivs = s.ivs := rfl
@[simp] theorem State.setBar_drops (s : State) (f o : Nat) (v : Word) : (s.setBar f o v).drops = s.drops := rfl
@[simp] theorem State.setBar_linkSecrets (s : State) (f o : Nat) (v : Word) : (s.setBar f o v).linkSecrets = s.linkSecrets := rfl
@[simp] theorem State.setBar_credits (s : State) (f o : Nat) (v : Word) : (s.setBar f o v).credits = s.credits := rfl
@[simp] theorem State.setBar_ctrlWait (s : State) (f o : Nat) (v : Word) : (s.setBar f o v).ctrlWait = s.ctrlWait := rfl
@[simp] theorem State.setBar_txq (s : State) (f o : Nat) (v : Word) : (s.setBar f o v).txq = s.txq := rfl
@[simp] theorem State.setBar_txFibre (s : State) (f o : Nat) (v : Word) : (s.setBar f o v).txFibre = s.txFibre := rfl
@[simp] theorem State.setBar_txTurn (s : State) (f o : Nat) (v : Word) : (s.setBar f o v).txTurn = s.txTurn := rfl
@[simp] theorem State.setBar_txDeficit (s : State) (f o : Nat) (v : Word) : (s.setBar f o v).txDeficit = s.txDeficit := rfl
@[simp] theorem State.setBar_fibreErrs (s : State) (f o : Nat) (v : Word) : (s.setBar f o v).fibreErrs = s.fibreErrs := rfl
@[simp] theorem State.setBar_fibreRuns (s : State) (f o : Nat) (v : Word) : (s.setBar f o v).fibreRuns = s.fibreRuns := rfl
@[simp] theorem State.setBar_fibreNext (s : State) (f o : Nat) (v : Word) : (s.setBar f o v).fibreNext = s.fibreNext := rfl
@[simp] theorem State.setBar_sysregs (s : State) (f o : Nat) (v : Word) : (s.setBar f o v).sysregs = s.sysregs := rfl
@[simp] theorem State.setBar_bar0 (s : State) (f o : Nat) (v : Word) : (s.setBar f o v).bar0 = Tab.set barReset s.bar0 (0x10000 * f + o) v := rfl
@[simp] theorem State.setBar_errSeq (s : State) (f o : Nat) (v : Word) : (s.setBar f o v).errSeq = s.errSeq := rfl
@[simp] theorem State.setBar_launches (s : State) (f o : Nat) (v : Word) : (s.setBar f o v).launches = s.launches := rfl
@[simp] theorem State.setBar_podHeard (s : State) (f o : Nat) (v : Word) : (s.setBar f o v).podHeard = s.podHeard := rfl
@[simp] theorem State.setBar_parked (s : State) (f o : Nat) (v : Word) : (s.setBar f o v).parked = s.parked := rfl
@[simp] theorem State.setBar_stalled (s : State) (f o : Nat) (v : Word) : (s.setBar f o v).stalled = s.stalled := rfl
@[simp] theorem State.setBar_ringStops (s : State) (f o : Nat) (v : Word) : (s.setBar f o v).ringStops = s.ringStops := rfl
@[simp] theorem State.setBar_saved (s : State) (f o : Nat) (v : Word) : (s.setBar f o v).saved = s.saved := rfl
@[simp] theorem State.setBar_resuming (s : State) (f o : Nat) (v : Word) : (s.setBar f o v).resuming = s.resuming := rfl
@[simp] theorem State.setBar_turns (s : State) (f o : Nat) (v : Word) : (s.setBar f o v).turns = s.turns := rfl
@[simp] theorem State.setBar_paces (s : State) (f o : Nat) (v : Word) : (s.setBar f o v).paces = s.paces := rfl
@[simp] theorem State.setBar_devHeld (s : State) (f o : Nat) (v : Word) : (s.setBar f o v).devHeld = s.devHeld := rfl
@[simp] theorem State.setBar_seepTurn (s : State) (f o : Nat) (v : Word) : (s.setBar f o v).seepTurn = s.seepTurn := rfl
@[simp] theorem State.setBar_images (s : State) (f o : Nat) (v : Word) : (s.setBar f o v).images = s.images := rfl
@[simp] theorem State.setBar_meters (s : State) (f o : Nat) (v : Word) : (s.setBar f o v).meters = s.meters := rfl
@[simp] theorem State.setBar_tlb (s : State) (f o : Nat) (v : Word) : (s.setBar f o v).tlb = s.tlb := rfl
@[simp] theorem State.setBar_walks (s : State) (f o : Nat) (v : Word) : (s.setBar f o v).walks = s.walks := rfl
@[simp] theorem State.setBar_shoots (s : State) (f o : Nat) (v : Word) : (s.setBar f o v).shoots = s.shoots := rfl
@[simp] theorem State.setBar_stale (s : State) (f o : Nat) (v : Word) : (s.setBar f o v).stale = s.stale := rfl
@[simp] theorem State.setBar_disables (s : State) (f o : Nat) (v : Word) : (s.setBar f o v).disables = s.disables := rfl
@[simp] theorem State.setBar_resumes (s : State) (f o : Nat) (v : Word) : (s.setBar f o v).resumes = s.resumes := rfl
@[simp] theorem State.setBar_pageMove (s : State) (f o : Nat) (v : Word) : (s.setBar f o v).pageMove = s.pageMove := rfl
@[simp] theorem State.setBar_keySlots (s : State) (f o : Nat) (v : Word) : (s.setBar f o v).keySlots = s.keySlots := rfl
@[simp] theorem State.setBar_handles (s : State) (f o : Nat) (v : Word) : (s.setBar f o v).handles = s.handles := rfl
@[simp] theorem State.setBar_sessions (s : State) (f o : Nat) (v : Word) : (s.setBar f o v).sessions = s.sessions := rfl
@[simp] theorem State.setBar_spdm (s : State) (f o : Nat) (v : Word) : (s.setBar f o v).spdm = s.spdm := rfl
@[simp] theorem State.setBar_ideSecure (s : State) (f o : Nat) (v : Word) : (s.setBar f o v).ideSecure = s.ideSecure := rfl
@[simp] theorem State.setBar_ideBroken (s : State) (f o : Nat) (v : Word) : (s.setBar f o v).ideBroken = s.ideBroken := rfl
@[simp] theorem State.setBar_ltrSent (s : State) (f o : Nat) (v : Word) : (s.setBar f o v).ltrSent = s.ltrSent := rfl
@[simp] theorem State.setBar_measure (s : State) (f o : Nat) (v : Word) : (s.setBar f o v).measure = s.measure := rfl
@[simp] theorem State.setBar_recovery (s : State) (f o : Nat) (v : Word) : (s.setBar f o v).recovery = s.recovery := rfl

@[simp] theorem State.setCore_clk (s : State) (c : Nat) (x : Core) : (s.setCore c x).clk = s.clk := rfl
@[simp] theorem State.setCore_turn (s : State) (c : Nat) (x : Core) : (s.setCore c x).turn = s.turn := rfl
@[simp] theorem State.setCore_ports (s : State) (c : Nat) (x : Core) : (s.setCore c x).ports = s.ports := rfl
@[simp] theorem State.setCore_inputs (s : State) (c : Nat) (x : Core) : (s.setCore c x).inputs = s.inputs := rfl
@[simp] theorem State.setCore_arriving (s : State) (c : Nat) (x : Core) : (s.setCore c x).arriving = s.arriving := rfl
@[simp] theorem State.setCore_accepted (s : State) (c : Nat) (x : Core) : (s.setCore c x).accepted = s.accepted := rfl
@[simp] theorem State.setCore_nextId (s : State) (c : Nat) (x : Core) : (s.setCore c x).nextId = s.nextId := rfl
@[simp] theorem State.setCore_outbox (s : State) (c : Nat) (x : Core) : (s.setCore c x).outbox = s.outbox := rfl
@[simp] theorem State.setCore_threads (s : State) (c : Nat) (x : Core) : (s.setCore c x).threads = s.threads := rfl
@[simp] theorem State.setCore_groups (s : State) (c : Nat) (x : Core) : (s.setCore c x).groups = s.groups := rfl
@[simp] theorem State.setCore_blocks (s : State) (c : Nat) (x : Core) : (s.setCore c x).blocks = s.blocks := rfl
@[simp] theorem State.setCore_cores (s : State) (c : Nat) (x : Core) : (s.setCore c x).cores = Tab.set (fun _ => Core.reset) s.cores c x := rfl
@[simp] theorem State.setCore_dies (s : State) (c : Nat) (x : Core) : (s.setCore c x).dies = s.dies := rfl
@[simp] theorem State.setCore_quads (s : State) (c : Nat) (x : Core) : (s.setCore c x).quads = s.quads := rfl
@[simp] theorem State.setCore_loads (s : State) (c : Nat) (x : Core) : (s.setCore c x).loads = s.loads := rfl
@[simp] theorem State.setCore_nps (s : State) (c : Nat) (x : Core) : (s.setCore c x).nps = s.nps := rfl
@[simp] theorem State.setCore_wants (s : State) (c : Nat) (x : Core) : (s.setCore c x).wants = s.wants := rfl
@[simp] theorem State.setCore_posts (s : State) (c : Nat) (x : Core) : (s.setCore c x).posts = s.posts := rfl
@[simp] theorem State.setCore_copies (s : State) (c : Nat) (x : Core) : (s.setCore c x).copies = s.copies := rfl
@[simp] theorem State.setCore_mcmds (s : State) (c : Nat) (x : Core) : (s.setCore c x).mcmds = s.mcmds := rfl
@[simp] theorem State.setCore_mem (s : State) (c : Nat) (x : Core) : (s.setCore c x).mem = s.mem := rfl
@[simp] theorem State.setCore_hbm (s : State) (c : Nat) (x : Core) : (s.setCore c x).hbm = s.hbm := rfl
@[simp] theorem State.setCore_host (s : State) (c : Nat) (x : Core) : (s.setCore c x).host = s.host := rfl
@[simp] theorem State.setCore_owners (s : State) (c : Nat) (x : Core) : (s.setCore c x).owners = s.owners := rfl
@[simp] theorem State.setCore_l1 (s : State) (c : Nat) (x : Core) : (s.setCore c x).l1 = s.l1 := rfl
@[simp] theorem State.setCore_mere (s : State) (c : Nat) (x : Core) : (s.setCore c x).mere = s.mere := rfl
@[simp] theorem State.setCore_poisoned (s : State) (c : Nat) (x : Core) : (s.setCore c x).poisoned = s.poisoned := rfl
@[simp] theorem State.setCore_locks (s : State) (c : Nat) (x : Core) : (s.setCore c x).locks = s.locks := rfl
@[simp] theorem State.setCore_lockLog (s : State) (c : Nat) (x : Core) : (s.setCore c x).lockLog = s.lockLog := rfl
@[simp] theorem State.setCore_windows (s : State) (c : Nat) (x : Core) : (s.setCore c x).windows = s.windows := rfl
@[simp] theorem State.setCore_epochs (s : State) (c : Nat) (x : Core) : (s.setCore c x).epochs = s.epochs := rfl
@[simp] theorem State.setCore_arrivals (s : State) (c : Nat) (x : Core) : (s.setCore c x).arrivals = s.arrivals := rfl
@[simp] theorem State.setCore_seqs (s : State) (c : Nat) (x : Core) : (s.setCore c x).seqs = s.seqs := rfl
@[simp] theorem State.setCore_dups (s : State) (c : Nat) (x : Core) : (s.setCore c x).dups = s.dups := rfl
@[simp] theorem State.setCore_links (s : State) (c : Nat) (x : Core) : (s.setCore c x).links = s.links := rfl
@[simp] theorem State.setCore_ivs (s : State) (c : Nat) (x : Core) : (s.setCore c x).ivs = s.ivs := rfl
@[simp] theorem State.setCore_drops (s : State) (c : Nat) (x : Core) : (s.setCore c x).drops = s.drops := rfl
@[simp] theorem State.setCore_linkSecrets (s : State) (c : Nat) (x : Core) : (s.setCore c x).linkSecrets = s.linkSecrets := rfl
@[simp] theorem State.setCore_credits (s : State) (c : Nat) (x : Core) : (s.setCore c x).credits = s.credits := rfl
@[simp] theorem State.setCore_ctrlWait (s : State) (c : Nat) (x : Core) : (s.setCore c x).ctrlWait = s.ctrlWait := rfl
@[simp] theorem State.setCore_txq (s : State) (c : Nat) (x : Core) : (s.setCore c x).txq = s.txq := rfl
@[simp] theorem State.setCore_txFibre (s : State) (c : Nat) (x : Core) : (s.setCore c x).txFibre = s.txFibre := rfl
@[simp] theorem State.setCore_txTurn (s : State) (c : Nat) (x : Core) : (s.setCore c x).txTurn = s.txTurn := rfl
@[simp] theorem State.setCore_txDeficit (s : State) (c : Nat) (x : Core) : (s.setCore c x).txDeficit = s.txDeficit := rfl
@[simp] theorem State.setCore_fibreErrs (s : State) (c : Nat) (x : Core) : (s.setCore c x).fibreErrs = s.fibreErrs := rfl
@[simp] theorem State.setCore_fibreRuns (s : State) (c : Nat) (x : Core) : (s.setCore c x).fibreRuns = s.fibreRuns := rfl
@[simp] theorem State.setCore_fibreNext (s : State) (c : Nat) (x : Core) : (s.setCore c x).fibreNext = s.fibreNext := rfl
@[simp] theorem State.setCore_sysregs (s : State) (c : Nat) (x : Core) : (s.setCore c x).sysregs = s.sysregs := rfl
@[simp] theorem State.setCore_bar0 (s : State) (c : Nat) (x : Core) : (s.setCore c x).bar0 = s.bar0 := rfl
@[simp] theorem State.setCore_errSeq (s : State) (c : Nat) (x : Core) : (s.setCore c x).errSeq = s.errSeq := rfl
@[simp] theorem State.setCore_launches (s : State) (c : Nat) (x : Core) : (s.setCore c x).launches = s.launches := rfl
@[simp] theorem State.setCore_podHeard (s : State) (c : Nat) (x : Core) : (s.setCore c x).podHeard = s.podHeard := rfl
@[simp] theorem State.setCore_parked (s : State) (c : Nat) (x : Core) : (s.setCore c x).parked = s.parked := rfl
@[simp] theorem State.setCore_stalled (s : State) (c : Nat) (x : Core) : (s.setCore c x).stalled = s.stalled := rfl
@[simp] theorem State.setCore_ringStops (s : State) (c : Nat) (x : Core) : (s.setCore c x).ringStops = s.ringStops := rfl
@[simp] theorem State.setCore_saved (s : State) (c : Nat) (x : Core) : (s.setCore c x).saved = s.saved := rfl
@[simp] theorem State.setCore_resuming (s : State) (c : Nat) (x : Core) : (s.setCore c x).resuming = s.resuming := rfl
@[simp] theorem State.setCore_turns (s : State) (c : Nat) (x : Core) : (s.setCore c x).turns = s.turns := rfl
@[simp] theorem State.setCore_paces (s : State) (c : Nat) (x : Core) : (s.setCore c x).paces = s.paces := rfl
@[simp] theorem State.setCore_devHeld (s : State) (c : Nat) (x : Core) : (s.setCore c x).devHeld = s.devHeld := rfl
@[simp] theorem State.setCore_seepTurn (s : State) (c : Nat) (x : Core) : (s.setCore c x).seepTurn = s.seepTurn := rfl
@[simp] theorem State.setCore_images (s : State) (c : Nat) (x : Core) : (s.setCore c x).images = s.images := rfl
@[simp] theorem State.setCore_meters (s : State) (c : Nat) (x : Core) : (s.setCore c x).meters = s.meters := rfl
@[simp] theorem State.setCore_tlb (s : State) (c : Nat) (x : Core) : (s.setCore c x).tlb = s.tlb := rfl
@[simp] theorem State.setCore_walks (s : State) (c : Nat) (x : Core) : (s.setCore c x).walks = s.walks := rfl
@[simp] theorem State.setCore_shoots (s : State) (c : Nat) (x : Core) : (s.setCore c x).shoots = s.shoots := rfl
@[simp] theorem State.setCore_stale (s : State) (c : Nat) (x : Core) : (s.setCore c x).stale = s.stale := rfl
@[simp] theorem State.setCore_disables (s : State) (c : Nat) (x : Core) : (s.setCore c x).disables = s.disables := rfl
@[simp] theorem State.setCore_resumes (s : State) (c : Nat) (x : Core) : (s.setCore c x).resumes = s.resumes := rfl
@[simp] theorem State.setCore_pageMove (s : State) (c : Nat) (x : Core) : (s.setCore c x).pageMove = s.pageMove := rfl
@[simp] theorem State.setCore_keySlots (s : State) (c : Nat) (x : Core) : (s.setCore c x).keySlots = s.keySlots := rfl
@[simp] theorem State.setCore_handles (s : State) (c : Nat) (x : Core) : (s.setCore c x).handles = s.handles := rfl
@[simp] theorem State.setCore_sessions (s : State) (c : Nat) (x : Core) : (s.setCore c x).sessions = s.sessions := rfl
@[simp] theorem State.setCore_spdm (s : State) (c : Nat) (x : Core) : (s.setCore c x).spdm = s.spdm := rfl
@[simp] theorem State.setCore_ideSecure (s : State) (c : Nat) (x : Core) : (s.setCore c x).ideSecure = s.ideSecure := rfl
@[simp] theorem State.setCore_ideBroken (s : State) (c : Nat) (x : Core) : (s.setCore c x).ideBroken = s.ideBroken := rfl
@[simp] theorem State.setCore_ltrSent (s : State) (c : Nat) (x : Core) : (s.setCore c x).ltrSent = s.ltrSent := rfl
@[simp] theorem State.setCore_measure (s : State) (c : Nat) (x : Core) : (s.setCore c x).measure = s.measure := rfl
@[simp] theorem State.setCore_recovery (s : State) (c : Nat) (x : Core) : (s.setCore c x).recovery = s.recovery := rfl

@[simp] theorem State.setDie_clk (s : State) (d : Nat) (x : Die) : (s.setDie d x).clk = s.clk := rfl
@[simp] theorem State.setDie_turn (s : State) (d : Nat) (x : Die) : (s.setDie d x).turn = s.turn := rfl
@[simp] theorem State.setDie_ports (s : State) (d : Nat) (x : Die) : (s.setDie d x).ports = s.ports := rfl
@[simp] theorem State.setDie_inputs (s : State) (d : Nat) (x : Die) : (s.setDie d x).inputs = s.inputs := rfl
@[simp] theorem State.setDie_arriving (s : State) (d : Nat) (x : Die) : (s.setDie d x).arriving = s.arriving := rfl
@[simp] theorem State.setDie_accepted (s : State) (d : Nat) (x : Die) : (s.setDie d x).accepted = s.accepted := rfl
@[simp] theorem State.setDie_nextId (s : State) (d : Nat) (x : Die) : (s.setDie d x).nextId = s.nextId := rfl
@[simp] theorem State.setDie_outbox (s : State) (d : Nat) (x : Die) : (s.setDie d x).outbox = s.outbox := rfl
@[simp] theorem State.setDie_threads (s : State) (d : Nat) (x : Die) : (s.setDie d x).threads = s.threads := rfl
@[simp] theorem State.setDie_groups (s : State) (d : Nat) (x : Die) : (s.setDie d x).groups = s.groups := rfl
@[simp] theorem State.setDie_blocks (s : State) (d : Nat) (x : Die) : (s.setDie d x).blocks = s.blocks := rfl
@[simp] theorem State.setDie_cores (s : State) (d : Nat) (x : Die) : (s.setDie d x).cores = s.cores := rfl
@[simp] theorem State.setDie_dies (s : State) (d : Nat) (x : Die) : (s.setDie d x).dies = Tab.set (fun _ => Die.reset) s.dies d x := rfl
@[simp] theorem State.setDie_quads (s : State) (d : Nat) (x : Die) : (s.setDie d x).quads = s.quads := rfl
@[simp] theorem State.setDie_loads (s : State) (d : Nat) (x : Die) : (s.setDie d x).loads = s.loads := rfl
@[simp] theorem State.setDie_nps (s : State) (d : Nat) (x : Die) : (s.setDie d x).nps = s.nps := rfl
@[simp] theorem State.setDie_wants (s : State) (d : Nat) (x : Die) : (s.setDie d x).wants = s.wants := rfl
@[simp] theorem State.setDie_posts (s : State) (d : Nat) (x : Die) : (s.setDie d x).posts = s.posts := rfl
@[simp] theorem State.setDie_copies (s : State) (d : Nat) (x : Die) : (s.setDie d x).copies = s.copies := rfl
@[simp] theorem State.setDie_mcmds (s : State) (d : Nat) (x : Die) : (s.setDie d x).mcmds = s.mcmds := rfl
@[simp] theorem State.setDie_mem (s : State) (d : Nat) (x : Die) : (s.setDie d x).mem = s.mem := rfl
@[simp] theorem State.setDie_hbm (s : State) (d : Nat) (x : Die) : (s.setDie d x).hbm = s.hbm := rfl
@[simp] theorem State.setDie_host (s : State) (d : Nat) (x : Die) : (s.setDie d x).host = s.host := rfl
@[simp] theorem State.setDie_owners (s : State) (d : Nat) (x : Die) : (s.setDie d x).owners = s.owners := rfl
@[simp] theorem State.setDie_l1 (s : State) (d : Nat) (x : Die) : (s.setDie d x).l1 = s.l1 := rfl
@[simp] theorem State.setDie_mere (s : State) (d : Nat) (x : Die) : (s.setDie d x).mere = s.mere := rfl
@[simp] theorem State.setDie_poisoned (s : State) (d : Nat) (x : Die) : (s.setDie d x).poisoned = s.poisoned := rfl
@[simp] theorem State.setDie_locks (s : State) (d : Nat) (x : Die) : (s.setDie d x).locks = s.locks := rfl
@[simp] theorem State.setDie_lockLog (s : State) (d : Nat) (x : Die) : (s.setDie d x).lockLog = s.lockLog := rfl
@[simp] theorem State.setDie_windows (s : State) (d : Nat) (x : Die) : (s.setDie d x).windows = s.windows := rfl
@[simp] theorem State.setDie_epochs (s : State) (d : Nat) (x : Die) : (s.setDie d x).epochs = s.epochs := rfl
@[simp] theorem State.setDie_arrivals (s : State) (d : Nat) (x : Die) : (s.setDie d x).arrivals = s.arrivals := rfl
@[simp] theorem State.setDie_seqs (s : State) (d : Nat) (x : Die) : (s.setDie d x).seqs = s.seqs := rfl
@[simp] theorem State.setDie_dups (s : State) (d : Nat) (x : Die) : (s.setDie d x).dups = s.dups := rfl
@[simp] theorem State.setDie_links (s : State) (d : Nat) (x : Die) : (s.setDie d x).links = s.links := rfl
@[simp] theorem State.setDie_ivs (s : State) (d : Nat) (x : Die) : (s.setDie d x).ivs = s.ivs := rfl
@[simp] theorem State.setDie_drops (s : State) (d : Nat) (x : Die) : (s.setDie d x).drops = s.drops := rfl
@[simp] theorem State.setDie_linkSecrets (s : State) (d : Nat) (x : Die) : (s.setDie d x).linkSecrets = s.linkSecrets := rfl
@[simp] theorem State.setDie_credits (s : State) (d : Nat) (x : Die) : (s.setDie d x).credits = s.credits := rfl
@[simp] theorem State.setDie_ctrlWait (s : State) (d : Nat) (x : Die) : (s.setDie d x).ctrlWait = s.ctrlWait := rfl
@[simp] theorem State.setDie_txq (s : State) (d : Nat) (x : Die) : (s.setDie d x).txq = s.txq := rfl
@[simp] theorem State.setDie_txFibre (s : State) (d : Nat) (x : Die) : (s.setDie d x).txFibre = s.txFibre := rfl
@[simp] theorem State.setDie_txTurn (s : State) (d : Nat) (x : Die) : (s.setDie d x).txTurn = s.txTurn := rfl
@[simp] theorem State.setDie_txDeficit (s : State) (d : Nat) (x : Die) : (s.setDie d x).txDeficit = s.txDeficit := rfl
@[simp] theorem State.setDie_fibreErrs (s : State) (d : Nat) (x : Die) : (s.setDie d x).fibreErrs = s.fibreErrs := rfl
@[simp] theorem State.setDie_fibreRuns (s : State) (d : Nat) (x : Die) : (s.setDie d x).fibreRuns = s.fibreRuns := rfl
@[simp] theorem State.setDie_fibreNext (s : State) (d : Nat) (x : Die) : (s.setDie d x).fibreNext = s.fibreNext := rfl
@[simp] theorem State.setDie_sysregs (s : State) (d : Nat) (x : Die) : (s.setDie d x).sysregs = s.sysregs := rfl
@[simp] theorem State.setDie_bar0 (s : State) (d : Nat) (x : Die) : (s.setDie d x).bar0 = s.bar0 := rfl
@[simp] theorem State.setDie_errSeq (s : State) (d : Nat) (x : Die) : (s.setDie d x).errSeq = s.errSeq := rfl
@[simp] theorem State.setDie_launches (s : State) (d : Nat) (x : Die) : (s.setDie d x).launches = s.launches := rfl
@[simp] theorem State.setDie_podHeard (s : State) (d : Nat) (x : Die) : (s.setDie d x).podHeard = s.podHeard := rfl
@[simp] theorem State.setDie_parked (s : State) (d : Nat) (x : Die) : (s.setDie d x).parked = s.parked := rfl
@[simp] theorem State.setDie_stalled (s : State) (d : Nat) (x : Die) : (s.setDie d x).stalled = s.stalled := rfl
@[simp] theorem State.setDie_ringStops (s : State) (d : Nat) (x : Die) : (s.setDie d x).ringStops = s.ringStops := rfl
@[simp] theorem State.setDie_saved (s : State) (d : Nat) (x : Die) : (s.setDie d x).saved = s.saved := rfl
@[simp] theorem State.setDie_resuming (s : State) (d : Nat) (x : Die) : (s.setDie d x).resuming = s.resuming := rfl
@[simp] theorem State.setDie_turns (s : State) (d : Nat) (x : Die) : (s.setDie d x).turns = s.turns := rfl
@[simp] theorem State.setDie_paces (s : State) (d : Nat) (x : Die) : (s.setDie d x).paces = s.paces := rfl
@[simp] theorem State.setDie_devHeld (s : State) (d : Nat) (x : Die) : (s.setDie d x).devHeld = s.devHeld := rfl
@[simp] theorem State.setDie_seepTurn (s : State) (d : Nat) (x : Die) : (s.setDie d x).seepTurn = s.seepTurn := rfl
@[simp] theorem State.setDie_images (s : State) (d : Nat) (x : Die) : (s.setDie d x).images = s.images := rfl
@[simp] theorem State.setDie_meters (s : State) (d : Nat) (x : Die) : (s.setDie d x).meters = s.meters := rfl
@[simp] theorem State.setDie_tlb (s : State) (d : Nat) (x : Die) : (s.setDie d x).tlb = s.tlb := rfl
@[simp] theorem State.setDie_walks (s : State) (d : Nat) (x : Die) : (s.setDie d x).walks = s.walks := rfl
@[simp] theorem State.setDie_shoots (s : State) (d : Nat) (x : Die) : (s.setDie d x).shoots = s.shoots := rfl
@[simp] theorem State.setDie_stale (s : State) (d : Nat) (x : Die) : (s.setDie d x).stale = s.stale := rfl
@[simp] theorem State.setDie_disables (s : State) (d : Nat) (x : Die) : (s.setDie d x).disables = s.disables := rfl
@[simp] theorem State.setDie_resumes (s : State) (d : Nat) (x : Die) : (s.setDie d x).resumes = s.resumes := rfl
@[simp] theorem State.setDie_pageMove (s : State) (d : Nat) (x : Die) : (s.setDie d x).pageMove = s.pageMove := rfl
@[simp] theorem State.setDie_keySlots (s : State) (d : Nat) (x : Die) : (s.setDie d x).keySlots = s.keySlots := rfl
@[simp] theorem State.setDie_handles (s : State) (d : Nat) (x : Die) : (s.setDie d x).handles = s.handles := rfl
@[simp] theorem State.setDie_sessions (s : State) (d : Nat) (x : Die) : (s.setDie d x).sessions = s.sessions := rfl
@[simp] theorem State.setDie_spdm (s : State) (d : Nat) (x : Die) : (s.setDie d x).spdm = s.spdm := rfl
@[simp] theorem State.setDie_ideSecure (s : State) (d : Nat) (x : Die) : (s.setDie d x).ideSecure = s.ideSecure := rfl
@[simp] theorem State.setDie_ideBroken (s : State) (d : Nat) (x : Die) : (s.setDie d x).ideBroken = s.ideBroken := rfl
@[simp] theorem State.setDie_ltrSent (s : State) (d : Nat) (x : Die) : (s.setDie d x).ltrSent = s.ltrSent := rfl
@[simp] theorem State.setDie_measure (s : State) (d : Nat) (x : Die) : (s.setDie d x).measure = s.measure := rfl
@[simp] theorem State.setDie_recovery (s : State) (d : Nat) (x : Die) : (s.setDie d x).recovery = s.recovery := rfl

@[simp] theorem State.setQuad_clk (s : State) (q : Nat) (x : Quad) : (s.setQuad q x).clk = s.clk := rfl
@[simp] theorem State.setQuad_turn (s : State) (q : Nat) (x : Quad) : (s.setQuad q x).turn = s.turn := rfl
@[simp] theorem State.setQuad_ports (s : State) (q : Nat) (x : Quad) : (s.setQuad q x).ports = s.ports := rfl
@[simp] theorem State.setQuad_inputs (s : State) (q : Nat) (x : Quad) : (s.setQuad q x).inputs = s.inputs := rfl
@[simp] theorem State.setQuad_arriving (s : State) (q : Nat) (x : Quad) : (s.setQuad q x).arriving = s.arriving := rfl
@[simp] theorem State.setQuad_accepted (s : State) (q : Nat) (x : Quad) : (s.setQuad q x).accepted = s.accepted := rfl
@[simp] theorem State.setQuad_nextId (s : State) (q : Nat) (x : Quad) : (s.setQuad q x).nextId = s.nextId := rfl
@[simp] theorem State.setQuad_outbox (s : State) (q : Nat) (x : Quad) : (s.setQuad q x).outbox = s.outbox := rfl
@[simp] theorem State.setQuad_threads (s : State) (q : Nat) (x : Quad) : (s.setQuad q x).threads = s.threads := rfl
@[simp] theorem State.setQuad_groups (s : State) (q : Nat) (x : Quad) : (s.setQuad q x).groups = s.groups := rfl
@[simp] theorem State.setQuad_blocks (s : State) (q : Nat) (x : Quad) : (s.setQuad q x).blocks = s.blocks := rfl
@[simp] theorem State.setQuad_cores (s : State) (q : Nat) (x : Quad) : (s.setQuad q x).cores = s.cores := rfl
@[simp] theorem State.setQuad_dies (s : State) (q : Nat) (x : Quad) : (s.setQuad q x).dies = s.dies := rfl
@[simp] theorem State.setQuad_quads (s : State) (q : Nat) (x : Quad) : (s.setQuad q x).quads = Tab.set (fun _ => Quad.reset) s.quads q x := rfl
@[simp] theorem State.setQuad_loads (s : State) (q : Nat) (x : Quad) : (s.setQuad q x).loads = s.loads := rfl
@[simp] theorem State.setQuad_nps (s : State) (q : Nat) (x : Quad) : (s.setQuad q x).nps = s.nps := rfl
@[simp] theorem State.setQuad_wants (s : State) (q : Nat) (x : Quad) : (s.setQuad q x).wants = s.wants := rfl
@[simp] theorem State.setQuad_posts (s : State) (q : Nat) (x : Quad) : (s.setQuad q x).posts = s.posts := rfl
@[simp] theorem State.setQuad_copies (s : State) (q : Nat) (x : Quad) : (s.setQuad q x).copies = s.copies := rfl
@[simp] theorem State.setQuad_mcmds (s : State) (q : Nat) (x : Quad) : (s.setQuad q x).mcmds = s.mcmds := rfl
@[simp] theorem State.setQuad_mem (s : State) (q : Nat) (x : Quad) : (s.setQuad q x).mem = s.mem := rfl
@[simp] theorem State.setQuad_hbm (s : State) (q : Nat) (x : Quad) : (s.setQuad q x).hbm = s.hbm := rfl
@[simp] theorem State.setQuad_host (s : State) (q : Nat) (x : Quad) : (s.setQuad q x).host = s.host := rfl
@[simp] theorem State.setQuad_owners (s : State) (q : Nat) (x : Quad) : (s.setQuad q x).owners = s.owners := rfl
@[simp] theorem State.setQuad_l1 (s : State) (q : Nat) (x : Quad) : (s.setQuad q x).l1 = s.l1 := rfl
@[simp] theorem State.setQuad_mere (s : State) (q : Nat) (x : Quad) : (s.setQuad q x).mere = s.mere := rfl
@[simp] theorem State.setQuad_poisoned (s : State) (q : Nat) (x : Quad) : (s.setQuad q x).poisoned = s.poisoned := rfl
@[simp] theorem State.setQuad_locks (s : State) (q : Nat) (x : Quad) : (s.setQuad q x).locks = s.locks := rfl
@[simp] theorem State.setQuad_lockLog (s : State) (q : Nat) (x : Quad) : (s.setQuad q x).lockLog = s.lockLog := rfl
@[simp] theorem State.setQuad_windows (s : State) (q : Nat) (x : Quad) : (s.setQuad q x).windows = s.windows := rfl
@[simp] theorem State.setQuad_epochs (s : State) (q : Nat) (x : Quad) : (s.setQuad q x).epochs = s.epochs := rfl
@[simp] theorem State.setQuad_arrivals (s : State) (q : Nat) (x : Quad) : (s.setQuad q x).arrivals = s.arrivals := rfl
@[simp] theorem State.setQuad_seqs (s : State) (q : Nat) (x : Quad) : (s.setQuad q x).seqs = s.seqs := rfl
@[simp] theorem State.setQuad_dups (s : State) (q : Nat) (x : Quad) : (s.setQuad q x).dups = s.dups := rfl
@[simp] theorem State.setQuad_links (s : State) (q : Nat) (x : Quad) : (s.setQuad q x).links = s.links := rfl
@[simp] theorem State.setQuad_ivs (s : State) (q : Nat) (x : Quad) : (s.setQuad q x).ivs = s.ivs := rfl
@[simp] theorem State.setQuad_drops (s : State) (q : Nat) (x : Quad) : (s.setQuad q x).drops = s.drops := rfl
@[simp] theorem State.setQuad_linkSecrets (s : State) (q : Nat) (x : Quad) : (s.setQuad q x).linkSecrets = s.linkSecrets := rfl
@[simp] theorem State.setQuad_credits (s : State) (q : Nat) (x : Quad) : (s.setQuad q x).credits = s.credits := rfl
@[simp] theorem State.setQuad_ctrlWait (s : State) (q : Nat) (x : Quad) : (s.setQuad q x).ctrlWait = s.ctrlWait := rfl
@[simp] theorem State.setQuad_txq (s : State) (q : Nat) (x : Quad) : (s.setQuad q x).txq = s.txq := rfl
@[simp] theorem State.setQuad_txFibre (s : State) (q : Nat) (x : Quad) : (s.setQuad q x).txFibre = s.txFibre := rfl
@[simp] theorem State.setQuad_txTurn (s : State) (q : Nat) (x : Quad) : (s.setQuad q x).txTurn = s.txTurn := rfl
@[simp] theorem State.setQuad_txDeficit (s : State) (q : Nat) (x : Quad) : (s.setQuad q x).txDeficit = s.txDeficit := rfl
@[simp] theorem State.setQuad_fibreErrs (s : State) (q : Nat) (x : Quad) : (s.setQuad q x).fibreErrs = s.fibreErrs := rfl
@[simp] theorem State.setQuad_fibreRuns (s : State) (q : Nat) (x : Quad) : (s.setQuad q x).fibreRuns = s.fibreRuns := rfl
@[simp] theorem State.setQuad_fibreNext (s : State) (q : Nat) (x : Quad) : (s.setQuad q x).fibreNext = s.fibreNext := rfl
@[simp] theorem State.setQuad_sysregs (s : State) (q : Nat) (x : Quad) : (s.setQuad q x).sysregs = s.sysregs := rfl
@[simp] theorem State.setQuad_bar0 (s : State) (q : Nat) (x : Quad) : (s.setQuad q x).bar0 = s.bar0 := rfl
@[simp] theorem State.setQuad_errSeq (s : State) (q : Nat) (x : Quad) : (s.setQuad q x).errSeq = s.errSeq := rfl
@[simp] theorem State.setQuad_launches (s : State) (q : Nat) (x : Quad) : (s.setQuad q x).launches = s.launches := rfl
@[simp] theorem State.setQuad_podHeard (s : State) (q : Nat) (x : Quad) : (s.setQuad q x).podHeard = s.podHeard := rfl
@[simp] theorem State.setQuad_parked (s : State) (q : Nat) (x : Quad) : (s.setQuad q x).parked = s.parked := rfl
@[simp] theorem State.setQuad_stalled (s : State) (q : Nat) (x : Quad) : (s.setQuad q x).stalled = s.stalled := rfl
@[simp] theorem State.setQuad_ringStops (s : State) (q : Nat) (x : Quad) : (s.setQuad q x).ringStops = s.ringStops := rfl
@[simp] theorem State.setQuad_saved (s : State) (q : Nat) (x : Quad) : (s.setQuad q x).saved = s.saved := rfl
@[simp] theorem State.setQuad_resuming (s : State) (q : Nat) (x : Quad) : (s.setQuad q x).resuming = s.resuming := rfl
@[simp] theorem State.setQuad_turns (s : State) (q : Nat) (x : Quad) : (s.setQuad q x).turns = s.turns := rfl
@[simp] theorem State.setQuad_paces (s : State) (q : Nat) (x : Quad) : (s.setQuad q x).paces = s.paces := rfl
@[simp] theorem State.setQuad_devHeld (s : State) (q : Nat) (x : Quad) : (s.setQuad q x).devHeld = s.devHeld := rfl
@[simp] theorem State.setQuad_seepTurn (s : State) (q : Nat) (x : Quad) : (s.setQuad q x).seepTurn = s.seepTurn := rfl
@[simp] theorem State.setQuad_images (s : State) (q : Nat) (x : Quad) : (s.setQuad q x).images = s.images := rfl
@[simp] theorem State.setQuad_meters (s : State) (q : Nat) (x : Quad) : (s.setQuad q x).meters = s.meters := rfl
@[simp] theorem State.setQuad_tlb (s : State) (q : Nat) (x : Quad) : (s.setQuad q x).tlb = s.tlb := rfl
@[simp] theorem State.setQuad_walks (s : State) (q : Nat) (x : Quad) : (s.setQuad q x).walks = s.walks := rfl
@[simp] theorem State.setQuad_shoots (s : State) (q : Nat) (x : Quad) : (s.setQuad q x).shoots = s.shoots := rfl
@[simp] theorem State.setQuad_stale (s : State) (q : Nat) (x : Quad) : (s.setQuad q x).stale = s.stale := rfl
@[simp] theorem State.setQuad_disables (s : State) (q : Nat) (x : Quad) : (s.setQuad q x).disables = s.disables := rfl
@[simp] theorem State.setQuad_resumes (s : State) (q : Nat) (x : Quad) : (s.setQuad q x).resumes = s.resumes := rfl
@[simp] theorem State.setQuad_pageMove (s : State) (q : Nat) (x : Quad) : (s.setQuad q x).pageMove = s.pageMove := rfl
@[simp] theorem State.setQuad_keySlots (s : State) (q : Nat) (x : Quad) : (s.setQuad q x).keySlots = s.keySlots := rfl
@[simp] theorem State.setQuad_handles (s : State) (q : Nat) (x : Quad) : (s.setQuad q x).handles = s.handles := rfl
@[simp] theorem State.setQuad_sessions (s : State) (q : Nat) (x : Quad) : (s.setQuad q x).sessions = s.sessions := rfl
@[simp] theorem State.setQuad_spdm (s : State) (q : Nat) (x : Quad) : (s.setQuad q x).spdm = s.spdm := rfl
@[simp] theorem State.setQuad_ideSecure (s : State) (q : Nat) (x : Quad) : (s.setQuad q x).ideSecure = s.ideSecure := rfl
@[simp] theorem State.setQuad_ideBroken (s : State) (q : Nat) (x : Quad) : (s.setQuad q x).ideBroken = s.ideBroken := rfl
@[simp] theorem State.setQuad_ltrSent (s : State) (q : Nat) (x : Quad) : (s.setQuad q x).ltrSent = s.ltrSent := rfl
@[simp] theorem State.setQuad_measure (s : State) (q : Nat) (x : Quad) : (s.setQuad q x).measure = s.measure := rfl
@[simp] theorem State.setQuad_recovery (s : State) (q : Nat) (x : Quad) : (s.setQuad q x).recovery = s.recovery := rfl

@[simp] theorem State.setWindow_clk (s : State) (f w : Nat) (x : Window) : (s.setWindow f w x).clk = s.clk := rfl
@[simp] theorem State.setWindow_turn (s : State) (f w : Nat) (x : Window) : (s.setWindow f w x).turn = s.turn := rfl
@[simp] theorem State.setWindow_ports (s : State) (f w : Nat) (x : Window) : (s.setWindow f w x).ports = s.ports := rfl
@[simp] theorem State.setWindow_inputs (s : State) (f w : Nat) (x : Window) : (s.setWindow f w x).inputs = s.inputs := rfl
@[simp] theorem State.setWindow_arriving (s : State) (f w : Nat) (x : Window) : (s.setWindow f w x).arriving = s.arriving := rfl
@[simp] theorem State.setWindow_accepted (s : State) (f w : Nat) (x : Window) : (s.setWindow f w x).accepted = s.accepted := rfl
@[simp] theorem State.setWindow_nextId (s : State) (f w : Nat) (x : Window) : (s.setWindow f w x).nextId = s.nextId := rfl
@[simp] theorem State.setWindow_outbox (s : State) (f w : Nat) (x : Window) : (s.setWindow f w x).outbox = s.outbox := rfl
@[simp] theorem State.setWindow_threads (s : State) (f w : Nat) (x : Window) : (s.setWindow f w x).threads = s.threads := rfl
@[simp] theorem State.setWindow_groups (s : State) (f w : Nat) (x : Window) : (s.setWindow f w x).groups = s.groups := rfl
@[simp] theorem State.setWindow_blocks (s : State) (f w : Nat) (x : Window) : (s.setWindow f w x).blocks = s.blocks := rfl
@[simp] theorem State.setWindow_cores (s : State) (f w : Nat) (x : Window) : (s.setWindow f w x).cores = s.cores := rfl
@[simp] theorem State.setWindow_dies (s : State) (f w : Nat) (x : Window) : (s.setWindow f w x).dies = s.dies := rfl
@[simp] theorem State.setWindow_quads (s : State) (f w : Nat) (x : Window) : (s.setWindow f w x).quads = s.quads := rfl
@[simp] theorem State.setWindow_loads (s : State) (f w : Nat) (x : Window) : (s.setWindow f w x).loads = s.loads := rfl
@[simp] theorem State.setWindow_nps (s : State) (f w : Nat) (x : Window) : (s.setWindow f w x).nps = s.nps := rfl
@[simp] theorem State.setWindow_wants (s : State) (f w : Nat) (x : Window) : (s.setWindow f w x).wants = s.wants := rfl
@[simp] theorem State.setWindow_posts (s : State) (f w : Nat) (x : Window) : (s.setWindow f w x).posts = s.posts := rfl
@[simp] theorem State.setWindow_copies (s : State) (f w : Nat) (x : Window) : (s.setWindow f w x).copies = s.copies := rfl
@[simp] theorem State.setWindow_mcmds (s : State) (f w : Nat) (x : Window) : (s.setWindow f w x).mcmds = s.mcmds := rfl
@[simp] theorem State.setWindow_mem (s : State) (f w : Nat) (x : Window) : (s.setWindow f w x).mem = s.mem := rfl
@[simp] theorem State.setWindow_hbm (s : State) (f w : Nat) (x : Window) : (s.setWindow f w x).hbm = s.hbm := rfl
@[simp] theorem State.setWindow_host (s : State) (f w : Nat) (x : Window) : (s.setWindow f w x).host = s.host := rfl
@[simp] theorem State.setWindow_owners (s : State) (f w : Nat) (x : Window) : (s.setWindow f w x).owners = s.owners := rfl
@[simp] theorem State.setWindow_l1 (s : State) (f w : Nat) (x : Window) : (s.setWindow f w x).l1 = s.l1 := rfl
@[simp] theorem State.setWindow_mere (s : State) (f w : Nat) (x : Window) : (s.setWindow f w x).mere = s.mere := rfl
@[simp] theorem State.setWindow_poisoned (s : State) (f w : Nat) (x : Window) : (s.setWindow f w x).poisoned = s.poisoned := rfl
@[simp] theorem State.setWindow_locks (s : State) (f w : Nat) (x : Window) : (s.setWindow f w x).locks = s.locks := rfl
@[simp] theorem State.setWindow_lockLog (s : State) (f w : Nat) (x : Window) : (s.setWindow f w x).lockLog = s.lockLog := rfl
@[simp] theorem State.setWindow_windows (s : State) (f w : Nat) (x : Window) : (s.setWindow f w x).windows = Tab.set (fun _ => Window.reset) s.windows (32 * f + w) x := rfl
@[simp] theorem State.setWindow_epochs (s : State) (f w : Nat) (x : Window) : (s.setWindow f w x).epochs = s.epochs := rfl
@[simp] theorem State.setWindow_arrivals (s : State) (f w : Nat) (x : Window) : (s.setWindow f w x).arrivals = s.arrivals := rfl
@[simp] theorem State.setWindow_seqs (s : State) (f w : Nat) (x : Window) : (s.setWindow f w x).seqs = s.seqs := rfl
@[simp] theorem State.setWindow_dups (s : State) (f w : Nat) (x : Window) : (s.setWindow f w x).dups = s.dups := rfl
@[simp] theorem State.setWindow_links (s : State) (f w : Nat) (x : Window) : (s.setWindow f w x).links = s.links := rfl
@[simp] theorem State.setWindow_ivs (s : State) (f w : Nat) (x : Window) : (s.setWindow f w x).ivs = s.ivs := rfl
@[simp] theorem State.setWindow_drops (s : State) (f w : Nat) (x : Window) : (s.setWindow f w x).drops = s.drops := rfl
@[simp] theorem State.setWindow_linkSecrets (s : State) (f w : Nat) (x : Window) : (s.setWindow f w x).linkSecrets = s.linkSecrets := rfl
@[simp] theorem State.setWindow_credits (s : State) (f w : Nat) (x : Window) : (s.setWindow f w x).credits = s.credits := rfl
@[simp] theorem State.setWindow_ctrlWait (s : State) (f w : Nat) (x : Window) : (s.setWindow f w x).ctrlWait = s.ctrlWait := rfl
@[simp] theorem State.setWindow_txq (s : State) (f w : Nat) (x : Window) : (s.setWindow f w x).txq = s.txq := rfl
@[simp] theorem State.setWindow_txFibre (s : State) (f w : Nat) (x : Window) : (s.setWindow f w x).txFibre = s.txFibre := rfl
@[simp] theorem State.setWindow_txTurn (s : State) (f w : Nat) (x : Window) : (s.setWindow f w x).txTurn = s.txTurn := rfl
@[simp] theorem State.setWindow_txDeficit (s : State) (f w : Nat) (x : Window) : (s.setWindow f w x).txDeficit = s.txDeficit := rfl
@[simp] theorem State.setWindow_fibreErrs (s : State) (f w : Nat) (x : Window) : (s.setWindow f w x).fibreErrs = s.fibreErrs := rfl
@[simp] theorem State.setWindow_fibreRuns (s : State) (f w : Nat) (x : Window) : (s.setWindow f w x).fibreRuns = s.fibreRuns := rfl
@[simp] theorem State.setWindow_fibreNext (s : State) (f w : Nat) (x : Window) : (s.setWindow f w x).fibreNext = s.fibreNext := rfl
@[simp] theorem State.setWindow_sysregs (s : State) (f w : Nat) (x : Window) : (s.setWindow f w x).sysregs = s.sysregs := rfl
@[simp] theorem State.setWindow_bar0 (s : State) (f w : Nat) (x : Window) : (s.setWindow f w x).bar0 = s.bar0 := rfl
@[simp] theorem State.setWindow_errSeq (s : State) (f w : Nat) (x : Window) : (s.setWindow f w x).errSeq = s.errSeq := rfl
@[simp] theorem State.setWindow_launches (s : State) (f w : Nat) (x : Window) : (s.setWindow f w x).launches = s.launches := rfl
@[simp] theorem State.setWindow_podHeard (s : State) (f w : Nat) (x : Window) : (s.setWindow f w x).podHeard = s.podHeard := rfl
@[simp] theorem State.setWindow_parked (s : State) (f w : Nat) (x : Window) : (s.setWindow f w x).parked = s.parked := rfl
@[simp] theorem State.setWindow_stalled (s : State) (f w : Nat) (x : Window) : (s.setWindow f w x).stalled = s.stalled := rfl
@[simp] theorem State.setWindow_ringStops (s : State) (f w : Nat) (x : Window) : (s.setWindow f w x).ringStops = s.ringStops := rfl
@[simp] theorem State.setWindow_saved (s : State) (f w : Nat) (x : Window) : (s.setWindow f w x).saved = s.saved := rfl
@[simp] theorem State.setWindow_resuming (s : State) (f w : Nat) (x : Window) : (s.setWindow f w x).resuming = s.resuming := rfl
@[simp] theorem State.setWindow_turns (s : State) (f w : Nat) (x : Window) : (s.setWindow f w x).turns = s.turns := rfl
@[simp] theorem State.setWindow_paces (s : State) (f w : Nat) (x : Window) : (s.setWindow f w x).paces = s.paces := rfl
@[simp] theorem State.setWindow_devHeld (s : State) (f w : Nat) (x : Window) : (s.setWindow f w x).devHeld = s.devHeld := rfl
@[simp] theorem State.setWindow_seepTurn (s : State) (f w : Nat) (x : Window) : (s.setWindow f w x).seepTurn = s.seepTurn := rfl
@[simp] theorem State.setWindow_images (s : State) (f w : Nat) (x : Window) : (s.setWindow f w x).images = s.images := rfl
@[simp] theorem State.setWindow_meters (s : State) (f w : Nat) (x : Window) : (s.setWindow f w x).meters = s.meters := rfl
@[simp] theorem State.setWindow_tlb (s : State) (f w : Nat) (x : Window) : (s.setWindow f w x).tlb = s.tlb := rfl
@[simp] theorem State.setWindow_walks (s : State) (f w : Nat) (x : Window) : (s.setWindow f w x).walks = s.walks := rfl
@[simp] theorem State.setWindow_shoots (s : State) (f w : Nat) (x : Window) : (s.setWindow f w x).shoots = s.shoots := rfl
@[simp] theorem State.setWindow_stale (s : State) (f w : Nat) (x : Window) : (s.setWindow f w x).stale = s.stale := rfl
@[simp] theorem State.setWindow_disables (s : State) (f w : Nat) (x : Window) : (s.setWindow f w x).disables = s.disables := rfl
@[simp] theorem State.setWindow_resumes (s : State) (f w : Nat) (x : Window) : (s.setWindow f w x).resumes = s.resumes := rfl
@[simp] theorem State.setWindow_pageMove (s : State) (f w : Nat) (x : Window) : (s.setWindow f w x).pageMove = s.pageMove := rfl
@[simp] theorem State.setWindow_keySlots (s : State) (f w : Nat) (x : Window) : (s.setWindow f w x).keySlots = s.keySlots := rfl
@[simp] theorem State.setWindow_handles (s : State) (f w : Nat) (x : Window) : (s.setWindow f w x).handles = s.handles := rfl
@[simp] theorem State.setWindow_sessions (s : State) (f w : Nat) (x : Window) : (s.setWindow f w x).sessions = s.sessions := rfl
@[simp] theorem State.setWindow_spdm (s : State) (f w : Nat) (x : Window) : (s.setWindow f w x).spdm = s.spdm := rfl
@[simp] theorem State.setWindow_ideSecure (s : State) (f w : Nat) (x : Window) : (s.setWindow f w x).ideSecure = s.ideSecure := rfl
@[simp] theorem State.setWindow_ideBroken (s : State) (f w : Nat) (x : Window) : (s.setWindow f w x).ideBroken = s.ideBroken := rfl
@[simp] theorem State.setWindow_ltrSent (s : State) (f w : Nat) (x : Window) : (s.setWindow f w x).ltrSent = s.ltrSent := rfl
@[simp] theorem State.setWindow_measure (s : State) (f w : Nat) (x : Window) : (s.setWindow f w x).measure = s.measure := rfl
@[simp] theorem State.setWindow_recovery (s : State) (f w : Nat) (x : Window) : (s.setWindow f w x).recovery = s.recovery := rfl

@[simp] theorem State.setSession_clk (s : State) (f : Nat) (x : Session) : (s.setSession f x).clk = s.clk := rfl
@[simp] theorem State.setSession_turn (s : State) (f : Nat) (x : Session) : (s.setSession f x).turn = s.turn := rfl
@[simp] theorem State.setSession_ports (s : State) (f : Nat) (x : Session) : (s.setSession f x).ports = s.ports := rfl
@[simp] theorem State.setSession_inputs (s : State) (f : Nat) (x : Session) : (s.setSession f x).inputs = s.inputs := rfl
@[simp] theorem State.setSession_arriving (s : State) (f : Nat) (x : Session) : (s.setSession f x).arriving = s.arriving := rfl
@[simp] theorem State.setSession_accepted (s : State) (f : Nat) (x : Session) : (s.setSession f x).accepted = s.accepted := rfl
@[simp] theorem State.setSession_nextId (s : State) (f : Nat) (x : Session) : (s.setSession f x).nextId = s.nextId := rfl
@[simp] theorem State.setSession_outbox (s : State) (f : Nat) (x : Session) : (s.setSession f x).outbox = s.outbox := rfl
@[simp] theorem State.setSession_threads (s : State) (f : Nat) (x : Session) : (s.setSession f x).threads = s.threads := rfl
@[simp] theorem State.setSession_groups (s : State) (f : Nat) (x : Session) : (s.setSession f x).groups = s.groups := rfl
@[simp] theorem State.setSession_blocks (s : State) (f : Nat) (x : Session) : (s.setSession f x).blocks = s.blocks := rfl
@[simp] theorem State.setSession_cores (s : State) (f : Nat) (x : Session) : (s.setSession f x).cores = s.cores := rfl
@[simp] theorem State.setSession_dies (s : State) (f : Nat) (x : Session) : (s.setSession f x).dies = s.dies := rfl
@[simp] theorem State.setSession_quads (s : State) (f : Nat) (x : Session) : (s.setSession f x).quads = s.quads := rfl
@[simp] theorem State.setSession_loads (s : State) (f : Nat) (x : Session) : (s.setSession f x).loads = s.loads := rfl
@[simp] theorem State.setSession_nps (s : State) (f : Nat) (x : Session) : (s.setSession f x).nps = s.nps := rfl
@[simp] theorem State.setSession_wants (s : State) (f : Nat) (x : Session) : (s.setSession f x).wants = s.wants := rfl
@[simp] theorem State.setSession_posts (s : State) (f : Nat) (x : Session) : (s.setSession f x).posts = s.posts := rfl
@[simp] theorem State.setSession_copies (s : State) (f : Nat) (x : Session) : (s.setSession f x).copies = s.copies := rfl
@[simp] theorem State.setSession_mcmds (s : State) (f : Nat) (x : Session) : (s.setSession f x).mcmds = s.mcmds := rfl
@[simp] theorem State.setSession_mem (s : State) (f : Nat) (x : Session) : (s.setSession f x).mem = s.mem := rfl
@[simp] theorem State.setSession_hbm (s : State) (f : Nat) (x : Session) : (s.setSession f x).hbm = s.hbm := rfl
@[simp] theorem State.setSession_host (s : State) (f : Nat) (x : Session) : (s.setSession f x).host = s.host := rfl
@[simp] theorem State.setSession_owners (s : State) (f : Nat) (x : Session) : (s.setSession f x).owners = s.owners := rfl
@[simp] theorem State.setSession_l1 (s : State) (f : Nat) (x : Session) : (s.setSession f x).l1 = s.l1 := rfl
@[simp] theorem State.setSession_mere (s : State) (f : Nat) (x : Session) : (s.setSession f x).mere = s.mere := rfl
@[simp] theorem State.setSession_poisoned (s : State) (f : Nat) (x : Session) : (s.setSession f x).poisoned = s.poisoned := rfl
@[simp] theorem State.setSession_locks (s : State) (f : Nat) (x : Session) : (s.setSession f x).locks = s.locks := rfl
@[simp] theorem State.setSession_lockLog (s : State) (f : Nat) (x : Session) : (s.setSession f x).lockLog = s.lockLog := rfl
@[simp] theorem State.setSession_windows (s : State) (f : Nat) (x : Session) : (s.setSession f x).windows = s.windows := rfl
@[simp] theorem State.setSession_epochs (s : State) (f : Nat) (x : Session) : (s.setSession f x).epochs = s.epochs := rfl
@[simp] theorem State.setSession_arrivals (s : State) (f : Nat) (x : Session) : (s.setSession f x).arrivals = s.arrivals := rfl
@[simp] theorem State.setSession_seqs (s : State) (f : Nat) (x : Session) : (s.setSession f x).seqs = s.seqs := rfl
@[simp] theorem State.setSession_dups (s : State) (f : Nat) (x : Session) : (s.setSession f x).dups = s.dups := rfl
@[simp] theorem State.setSession_links (s : State) (f : Nat) (x : Session) : (s.setSession f x).links = s.links := rfl
@[simp] theorem State.setSession_ivs (s : State) (f : Nat) (x : Session) : (s.setSession f x).ivs = s.ivs := rfl
@[simp] theorem State.setSession_drops (s : State) (f : Nat) (x : Session) : (s.setSession f x).drops = s.drops := rfl
@[simp] theorem State.setSession_linkSecrets (s : State) (f : Nat) (x : Session) : (s.setSession f x).linkSecrets = s.linkSecrets := rfl
@[simp] theorem State.setSession_credits (s : State) (f : Nat) (x : Session) : (s.setSession f x).credits = s.credits := rfl
@[simp] theorem State.setSession_ctrlWait (s : State) (f : Nat) (x : Session) : (s.setSession f x).ctrlWait = s.ctrlWait := rfl
@[simp] theorem State.setSession_txq (s : State) (f : Nat) (x : Session) : (s.setSession f x).txq = s.txq := rfl
@[simp] theorem State.setSession_txFibre (s : State) (f : Nat) (x : Session) : (s.setSession f x).txFibre = s.txFibre := rfl
@[simp] theorem State.setSession_txTurn (s : State) (f : Nat) (x : Session) : (s.setSession f x).txTurn = s.txTurn := rfl
@[simp] theorem State.setSession_txDeficit (s : State) (f : Nat) (x : Session) : (s.setSession f x).txDeficit = s.txDeficit := rfl
@[simp] theorem State.setSession_fibreErrs (s : State) (f : Nat) (x : Session) : (s.setSession f x).fibreErrs = s.fibreErrs := rfl
@[simp] theorem State.setSession_fibreRuns (s : State) (f : Nat) (x : Session) : (s.setSession f x).fibreRuns = s.fibreRuns := rfl
@[simp] theorem State.setSession_fibreNext (s : State) (f : Nat) (x : Session) : (s.setSession f x).fibreNext = s.fibreNext := rfl
@[simp] theorem State.setSession_sysregs (s : State) (f : Nat) (x : Session) : (s.setSession f x).sysregs = s.sysregs := rfl
@[simp] theorem State.setSession_bar0 (s : State) (f : Nat) (x : Session) : (s.setSession f x).bar0 = s.bar0 := rfl
@[simp] theorem State.setSession_errSeq (s : State) (f : Nat) (x : Session) : (s.setSession f x).errSeq = s.errSeq := rfl
@[simp] theorem State.setSession_launches (s : State) (f : Nat) (x : Session) : (s.setSession f x).launches = s.launches := rfl
@[simp] theorem State.setSession_podHeard (s : State) (f : Nat) (x : Session) : (s.setSession f x).podHeard = s.podHeard := rfl
@[simp] theorem State.setSession_parked (s : State) (f : Nat) (x : Session) : (s.setSession f x).parked = s.parked := rfl
@[simp] theorem State.setSession_stalled (s : State) (f : Nat) (x : Session) : (s.setSession f x).stalled = s.stalled := rfl
@[simp] theorem State.setSession_ringStops (s : State) (f : Nat) (x : Session) : (s.setSession f x).ringStops = s.ringStops := rfl
@[simp] theorem State.setSession_saved (s : State) (f : Nat) (x : Session) : (s.setSession f x).saved = s.saved := rfl
@[simp] theorem State.setSession_resuming (s : State) (f : Nat) (x : Session) : (s.setSession f x).resuming = s.resuming := rfl
@[simp] theorem State.setSession_turns (s : State) (f : Nat) (x : Session) : (s.setSession f x).turns = s.turns := rfl
@[simp] theorem State.setSession_paces (s : State) (f : Nat) (x : Session) : (s.setSession f x).paces = s.paces := rfl
@[simp] theorem State.setSession_devHeld (s : State) (f : Nat) (x : Session) : (s.setSession f x).devHeld = s.devHeld := rfl
@[simp] theorem State.setSession_seepTurn (s : State) (f : Nat) (x : Session) : (s.setSession f x).seepTurn = s.seepTurn := rfl
@[simp] theorem State.setSession_images (s : State) (f : Nat) (x : Session) : (s.setSession f x).images = s.images := rfl
@[simp] theorem State.setSession_meters (s : State) (f : Nat) (x : Session) : (s.setSession f x).meters = s.meters := rfl
@[simp] theorem State.setSession_tlb (s : State) (f : Nat) (x : Session) : (s.setSession f x).tlb = s.tlb := rfl
@[simp] theorem State.setSession_walks (s : State) (f : Nat) (x : Session) : (s.setSession f x).walks = s.walks := rfl
@[simp] theorem State.setSession_shoots (s : State) (f : Nat) (x : Session) : (s.setSession f x).shoots = s.shoots := rfl
@[simp] theorem State.setSession_stale (s : State) (f : Nat) (x : Session) : (s.setSession f x).stale = s.stale := rfl
@[simp] theorem State.setSession_disables (s : State) (f : Nat) (x : Session) : (s.setSession f x).disables = s.disables := rfl
@[simp] theorem State.setSession_resumes (s : State) (f : Nat) (x : Session) : (s.setSession f x).resumes = s.resumes := rfl
@[simp] theorem State.setSession_pageMove (s : State) (f : Nat) (x : Session) : (s.setSession f x).pageMove = s.pageMove := rfl
@[simp] theorem State.setSession_keySlots (s : State) (f : Nat) (x : Session) : (s.setSession f x).keySlots = s.keySlots := rfl
@[simp] theorem State.setSession_handles (s : State) (f : Nat) (x : Session) : (s.setSession f x).handles = s.handles := rfl
@[simp] theorem State.setSession_sessions (s : State) (f : Nat) (x : Session) : (s.setSession f x).sessions = Tab.set (fun _ => Session.reset) s.sessions f x := rfl
@[simp] theorem State.setSession_spdm (s : State) (f : Nat) (x : Session) : (s.setSession f x).spdm = s.spdm := rfl
@[simp] theorem State.setSession_ideSecure (s : State) (f : Nat) (x : Session) : (s.setSession f x).ideSecure = s.ideSecure := rfl
@[simp] theorem State.setSession_ideBroken (s : State) (f : Nat) (x : Session) : (s.setSession f x).ideBroken = s.ideBroken := rfl
@[simp] theorem State.setSession_ltrSent (s : State) (f : Nat) (x : Session) : (s.setSession f x).ltrSent = s.ltrSent := rfl
@[simp] theorem State.setSession_measure (s : State) (f : Nat) (x : Session) : (s.setSession f x).measure = s.measure := rfl
@[simp] theorem State.setSession_recovery (s : State) (f : Nat) (x : Session) : (s.setSession f x).recovery = s.recovery := rfl

@[simp] theorem State.addMeter_clk (s : State) (o m n : Nat) : (s.addMeter o m n).clk = s.clk := rfl
@[simp] theorem State.addMeter_turn (s : State) (o m n : Nat) : (s.addMeter o m n).turn = s.turn := rfl
@[simp] theorem State.addMeter_ports (s : State) (o m n : Nat) : (s.addMeter o m n).ports = s.ports := rfl
@[simp] theorem State.addMeter_inputs (s : State) (o m n : Nat) : (s.addMeter o m n).inputs = s.inputs := rfl
@[simp] theorem State.addMeter_arriving (s : State) (o m n : Nat) : (s.addMeter o m n).arriving = s.arriving := rfl
@[simp] theorem State.addMeter_accepted (s : State) (o m n : Nat) : (s.addMeter o m n).accepted = s.accepted := rfl
@[simp] theorem State.addMeter_nextId (s : State) (o m n : Nat) : (s.addMeter o m n).nextId = s.nextId := rfl
@[simp] theorem State.addMeter_outbox (s : State) (o m n : Nat) : (s.addMeter o m n).outbox = s.outbox := rfl
@[simp] theorem State.addMeter_threads (s : State) (o m n : Nat) : (s.addMeter o m n).threads = s.threads := rfl
@[simp] theorem State.addMeter_groups (s : State) (o m n : Nat) : (s.addMeter o m n).groups = s.groups := rfl
@[simp] theorem State.addMeter_blocks (s : State) (o m n : Nat) : (s.addMeter o m n).blocks = s.blocks := rfl
@[simp] theorem State.addMeter_cores (s : State) (o m n : Nat) : (s.addMeter o m n).cores = s.cores := rfl
@[simp] theorem State.addMeter_dies (s : State) (o m n : Nat) : (s.addMeter o m n).dies = s.dies := rfl
@[simp] theorem State.addMeter_quads (s : State) (o m n : Nat) : (s.addMeter o m n).quads = s.quads := rfl
@[simp] theorem State.addMeter_loads (s : State) (o m n : Nat) : (s.addMeter o m n).loads = s.loads := rfl
@[simp] theorem State.addMeter_nps (s : State) (o m n : Nat) : (s.addMeter o m n).nps = s.nps := rfl
@[simp] theorem State.addMeter_wants (s : State) (o m n : Nat) : (s.addMeter o m n).wants = s.wants := rfl
@[simp] theorem State.addMeter_posts (s : State) (o m n : Nat) : (s.addMeter o m n).posts = s.posts := rfl
@[simp] theorem State.addMeter_copies (s : State) (o m n : Nat) : (s.addMeter o m n).copies = s.copies := rfl
@[simp] theorem State.addMeter_mcmds (s : State) (o m n : Nat) : (s.addMeter o m n).mcmds = s.mcmds := rfl
@[simp] theorem State.addMeter_mem (s : State) (o m n : Nat) : (s.addMeter o m n).mem = s.mem := rfl
@[simp] theorem State.addMeter_hbm (s : State) (o m n : Nat) : (s.addMeter o m n).hbm = s.hbm := rfl
@[simp] theorem State.addMeter_host (s : State) (o m n : Nat) : (s.addMeter o m n).host = s.host := rfl
@[simp] theorem State.addMeter_owners (s : State) (o m n : Nat) : (s.addMeter o m n).owners = s.owners := rfl
@[simp] theorem State.addMeter_l1 (s : State) (o m n : Nat) : (s.addMeter o m n).l1 = s.l1 := rfl
@[simp] theorem State.addMeter_mere (s : State) (o m n : Nat) : (s.addMeter o m n).mere = s.mere := rfl
@[simp] theorem State.addMeter_poisoned (s : State) (o m n : Nat) : (s.addMeter o m n).poisoned = s.poisoned := rfl
@[simp] theorem State.addMeter_locks (s : State) (o m n : Nat) : (s.addMeter o m n).locks = s.locks := rfl
@[simp] theorem State.addMeter_lockLog (s : State) (o m n : Nat) : (s.addMeter o m n).lockLog = s.lockLog := rfl
@[simp] theorem State.addMeter_windows (s : State) (o m n : Nat) : (s.addMeter o m n).windows = s.windows := rfl
@[simp] theorem State.addMeter_epochs (s : State) (o m n : Nat) : (s.addMeter o m n).epochs = s.epochs := rfl
@[simp] theorem State.addMeter_arrivals (s : State) (o m n : Nat) : (s.addMeter o m n).arrivals = s.arrivals := rfl
@[simp] theorem State.addMeter_seqs (s : State) (o m n : Nat) : (s.addMeter o m n).seqs = s.seqs := rfl
@[simp] theorem State.addMeter_dups (s : State) (o m n : Nat) : (s.addMeter o m n).dups = s.dups := rfl
@[simp] theorem State.addMeter_links (s : State) (o m n : Nat) : (s.addMeter o m n).links = s.links := rfl
@[simp] theorem State.addMeter_ivs (s : State) (o m n : Nat) : (s.addMeter o m n).ivs = s.ivs := rfl
@[simp] theorem State.addMeter_drops (s : State) (o m n : Nat) : (s.addMeter o m n).drops = s.drops := rfl
@[simp] theorem State.addMeter_linkSecrets (s : State) (o m n : Nat) : (s.addMeter o m n).linkSecrets = s.linkSecrets := rfl
@[simp] theorem State.addMeter_credits (s : State) (o m n : Nat) : (s.addMeter o m n).credits = s.credits := rfl
@[simp] theorem State.addMeter_ctrlWait (s : State) (o m n : Nat) : (s.addMeter o m n).ctrlWait = s.ctrlWait := rfl
@[simp] theorem State.addMeter_txq (s : State) (o m n : Nat) : (s.addMeter o m n).txq = s.txq := rfl
@[simp] theorem State.addMeter_txFibre (s : State) (o m n : Nat) : (s.addMeter o m n).txFibre = s.txFibre := rfl
@[simp] theorem State.addMeter_txTurn (s : State) (o m n : Nat) : (s.addMeter o m n).txTurn = s.txTurn := rfl
@[simp] theorem State.addMeter_txDeficit (s : State) (o m n : Nat) : (s.addMeter o m n).txDeficit = s.txDeficit := rfl
@[simp] theorem State.addMeter_fibreErrs (s : State) (o m n : Nat) : (s.addMeter o m n).fibreErrs = s.fibreErrs := rfl
@[simp] theorem State.addMeter_fibreRuns (s : State) (o m n : Nat) : (s.addMeter o m n).fibreRuns = s.fibreRuns := rfl
@[simp] theorem State.addMeter_fibreNext (s : State) (o m n : Nat) : (s.addMeter o m n).fibreNext = s.fibreNext := rfl
@[simp] theorem State.addMeter_sysregs (s : State) (o m n : Nat) : (s.addMeter o m n).sysregs = s.sysregs := rfl
@[simp] theorem State.addMeter_bar0 (s : State) (o m n : Nat) : (s.addMeter o m n).bar0 = s.bar0 := rfl
@[simp] theorem State.addMeter_errSeq (s : State) (o m n : Nat) : (s.addMeter o m n).errSeq = s.errSeq := rfl
@[simp] theorem State.addMeter_launches (s : State) (o m n : Nat) : (s.addMeter o m n).launches = s.launches := rfl
@[simp] theorem State.addMeter_podHeard (s : State) (o m n : Nat) : (s.addMeter o m n).podHeard = s.podHeard := rfl
@[simp] theorem State.addMeter_parked (s : State) (o m n : Nat) : (s.addMeter o m n).parked = s.parked := rfl
@[simp] theorem State.addMeter_stalled (s : State) (o m n : Nat) : (s.addMeter o m n).stalled = s.stalled := rfl
@[simp] theorem State.addMeter_ringStops (s : State) (o m n : Nat) : (s.addMeter o m n).ringStops = s.ringStops := rfl
@[simp] theorem State.addMeter_saved (s : State) (o m n : Nat) : (s.addMeter o m n).saved = s.saved := rfl
@[simp] theorem State.addMeter_resuming (s : State) (o m n : Nat) : (s.addMeter o m n).resuming = s.resuming := rfl
@[simp] theorem State.addMeter_turns (s : State) (o m n : Nat) : (s.addMeter o m n).turns = s.turns := rfl
@[simp] theorem State.addMeter_paces (s : State) (o m n : Nat) : (s.addMeter o m n).paces = s.paces := rfl
@[simp] theorem State.addMeter_devHeld (s : State) (o m n : Nat) : (s.addMeter o m n).devHeld = s.devHeld := rfl
@[simp] theorem State.addMeter_seepTurn (s : State) (o m n : Nat) : (s.addMeter o m n).seepTurn = s.seepTurn := rfl
@[simp] theorem State.addMeter_images (s : State) (o m n : Nat) : (s.addMeter o m n).images = s.images := rfl
@[simp] theorem State.addMeter_tlb (s : State) (o m n : Nat) : (s.addMeter o m n).tlb = s.tlb := rfl
@[simp] theorem State.addMeter_walks (s : State) (o m n : Nat) : (s.addMeter o m n).walks = s.walks := rfl
@[simp] theorem State.addMeter_shoots (s : State) (o m n : Nat) : (s.addMeter o m n).shoots = s.shoots := rfl
@[simp] theorem State.addMeter_stale (s : State) (o m n : Nat) : (s.addMeter o m n).stale = s.stale := rfl
@[simp] theorem State.addMeter_disables (s : State) (o m n : Nat) : (s.addMeter o m n).disables = s.disables := rfl
@[simp] theorem State.addMeter_resumes (s : State) (o m n : Nat) : (s.addMeter o m n).resumes = s.resumes := rfl
@[simp] theorem State.addMeter_pageMove (s : State) (o m n : Nat) : (s.addMeter o m n).pageMove = s.pageMove := rfl
@[simp] theorem State.addMeter_keySlots (s : State) (o m n : Nat) : (s.addMeter o m n).keySlots = s.keySlots := rfl
@[simp] theorem State.addMeter_handles (s : State) (o m n : Nat) : (s.addMeter o m n).handles = s.handles := rfl
@[simp] theorem State.addMeter_sessions (s : State) (o m n : Nat) : (s.addMeter o m n).sessions = s.sessions := rfl
@[simp] theorem State.addMeter_spdm (s : State) (o m n : Nat) : (s.addMeter o m n).spdm = s.spdm := rfl
@[simp] theorem State.addMeter_ideSecure (s : State) (o m n : Nat) : (s.addMeter o m n).ideSecure = s.ideSecure := rfl
@[simp] theorem State.addMeter_ideBroken (s : State) (o m n : Nat) : (s.addMeter o m n).ideBroken = s.ideBroken := rfl
@[simp] theorem State.addMeter_ltrSent (s : State) (o m n : Nat) : (s.addMeter o m n).ltrSent = s.ltrSent := rfl
@[simp] theorem State.addMeter_measure (s : State) (o m n : Nat) : (s.addMeter o m n).measure = s.measure := rfl
@[simp] theorem State.addMeter_recovery (s : State) (o m n : Nat) : (s.addMeter o m n).recovery = s.recovery := rfl

@[simp] theorem State.send_clk (s : State) (o : Out) : (s.send o).clk = s.clk := rfl
@[simp] theorem State.send_turn (s : State) (o : Out) : (s.send o).turn = s.turn := rfl
@[simp] theorem State.send_ports (s : State) (o : Out) : (s.send o).ports = s.ports := rfl
@[simp] theorem State.send_inputs (s : State) (o : Out) : (s.send o).inputs = s.inputs := rfl
@[simp] theorem State.send_arriving (s : State) (o : Out) : (s.send o).arriving = s.arriving := rfl
@[simp] theorem State.send_accepted (s : State) (o : Out) : (s.send o).accepted = s.accepted := rfl
@[simp] theorem State.send_nextId (s : State) (o : Out) : (s.send o).nextId = s.nextId := rfl
@[simp] theorem State.send_outbox (s : State) (o : Out) : (s.send o).outbox = s.outbox ++ [o] := rfl
@[simp] theorem State.send_threads (s : State) (o : Out) : (s.send o).threads = s.threads := rfl
@[simp] theorem State.send_groups (s : State) (o : Out) : (s.send o).groups = s.groups := rfl
@[simp] theorem State.send_blocks (s : State) (o : Out) : (s.send o).blocks = s.blocks := rfl
@[simp] theorem State.send_cores (s : State) (o : Out) : (s.send o).cores = s.cores := rfl
@[simp] theorem State.send_dies (s : State) (o : Out) : (s.send o).dies = s.dies := rfl
@[simp] theorem State.send_quads (s : State) (o : Out) : (s.send o).quads = s.quads := rfl
@[simp] theorem State.send_loads (s : State) (o : Out) : (s.send o).loads = s.loads := rfl
@[simp] theorem State.send_nps (s : State) (o : Out) : (s.send o).nps = s.nps := rfl
@[simp] theorem State.send_wants (s : State) (o : Out) : (s.send o).wants = s.wants := rfl
@[simp] theorem State.send_posts (s : State) (o : Out) : (s.send o).posts = s.posts := rfl
@[simp] theorem State.send_copies (s : State) (o : Out) : (s.send o).copies = s.copies := rfl
@[simp] theorem State.send_mcmds (s : State) (o : Out) : (s.send o).mcmds = s.mcmds := rfl
@[simp] theorem State.send_mem (s : State) (o : Out) : (s.send o).mem = s.mem := rfl
@[simp] theorem State.send_hbm (s : State) (o : Out) : (s.send o).hbm = s.hbm := rfl
@[simp] theorem State.send_host (s : State) (o : Out) : (s.send o).host = s.host := rfl
@[simp] theorem State.send_owners (s : State) (o : Out) : (s.send o).owners = s.owners := rfl
@[simp] theorem State.send_l1 (s : State) (o : Out) : (s.send o).l1 = s.l1 := rfl
@[simp] theorem State.send_mere (s : State) (o : Out) : (s.send o).mere = s.mere := rfl
@[simp] theorem State.send_poisoned (s : State) (o : Out) : (s.send o).poisoned = s.poisoned := rfl
@[simp] theorem State.send_locks (s : State) (o : Out) : (s.send o).locks = s.locks := rfl
@[simp] theorem State.send_lockLog (s : State) (o : Out) : (s.send o).lockLog = s.lockLog := rfl
@[simp] theorem State.send_windows (s : State) (o : Out) : (s.send o).windows = s.windows := rfl
@[simp] theorem State.send_epochs (s : State) (o : Out) : (s.send o).epochs = s.epochs := rfl
@[simp] theorem State.send_arrivals (s : State) (o : Out) : (s.send o).arrivals = s.arrivals := rfl
@[simp] theorem State.send_seqs (s : State) (o : Out) : (s.send o).seqs = s.seqs := rfl
@[simp] theorem State.send_dups (s : State) (o : Out) : (s.send o).dups = s.dups := rfl
@[simp] theorem State.send_links (s : State) (o : Out) : (s.send o).links = s.links := rfl
@[simp] theorem State.send_ivs (s : State) (o : Out) : (s.send o).ivs = s.ivs := rfl
@[simp] theorem State.send_drops (s : State) (o : Out) : (s.send o).drops = s.drops := rfl
@[simp] theorem State.send_linkSecrets (s : State) (o : Out) : (s.send o).linkSecrets = s.linkSecrets := rfl
@[simp] theorem State.send_credits (s : State) (o : Out) : (s.send o).credits = s.credits := rfl
@[simp] theorem State.send_ctrlWait (s : State) (o : Out) : (s.send o).ctrlWait = s.ctrlWait := rfl
@[simp] theorem State.send_txq (s : State) (o : Out) : (s.send o).txq = s.txq := rfl
@[simp] theorem State.send_txFibre (s : State) (o : Out) : (s.send o).txFibre = s.txFibre := rfl
@[simp] theorem State.send_txTurn (s : State) (o : Out) : (s.send o).txTurn = s.txTurn := rfl
@[simp] theorem State.send_txDeficit (s : State) (o : Out) : (s.send o).txDeficit = s.txDeficit := rfl
@[simp] theorem State.send_fibreErrs (s : State) (o : Out) : (s.send o).fibreErrs = s.fibreErrs := rfl
@[simp] theorem State.send_fibreRuns (s : State) (o : Out) : (s.send o).fibreRuns = s.fibreRuns := rfl
@[simp] theorem State.send_fibreNext (s : State) (o : Out) : (s.send o).fibreNext = s.fibreNext := rfl
@[simp] theorem State.send_sysregs (s : State) (o : Out) : (s.send o).sysregs = s.sysregs := rfl
@[simp] theorem State.send_bar0 (s : State) (o : Out) : (s.send o).bar0 = s.bar0 := rfl
@[simp] theorem State.send_errSeq (s : State) (o : Out) : (s.send o).errSeq = s.errSeq := rfl
@[simp] theorem State.send_launches (s : State) (o : Out) : (s.send o).launches = s.launches := rfl
@[simp] theorem State.send_podHeard (s : State) (o : Out) : (s.send o).podHeard = s.podHeard := rfl
@[simp] theorem State.send_parked (s : State) (o : Out) : (s.send o).parked = s.parked := rfl
@[simp] theorem State.send_stalled (s : State) (o : Out) : (s.send o).stalled = s.stalled := rfl
@[simp] theorem State.send_ringStops (s : State) (o : Out) : (s.send o).ringStops = s.ringStops := rfl
@[simp] theorem State.send_saved (s : State) (o : Out) : (s.send o).saved = s.saved := rfl
@[simp] theorem State.send_resuming (s : State) (o : Out) : (s.send o).resuming = s.resuming := rfl
@[simp] theorem State.send_turns (s : State) (o : Out) : (s.send o).turns = s.turns := rfl
@[simp] theorem State.send_paces (s : State) (o : Out) : (s.send o).paces = s.paces := rfl
@[simp] theorem State.send_devHeld (s : State) (o : Out) : (s.send o).devHeld = s.devHeld := rfl
@[simp] theorem State.send_seepTurn (s : State) (o : Out) : (s.send o).seepTurn = s.seepTurn := rfl
@[simp] theorem State.send_images (s : State) (o : Out) : (s.send o).images = s.images := rfl
@[simp] theorem State.send_meters (s : State) (o : Out) : (s.send o).meters = s.meters := rfl
@[simp] theorem State.send_tlb (s : State) (o : Out) : (s.send o).tlb = s.tlb := rfl
@[simp] theorem State.send_walks (s : State) (o : Out) : (s.send o).walks = s.walks := rfl
@[simp] theorem State.send_shoots (s : State) (o : Out) : (s.send o).shoots = s.shoots := rfl
@[simp] theorem State.send_stale (s : State) (o : Out) : (s.send o).stale = s.stale := rfl
@[simp] theorem State.send_disables (s : State) (o : Out) : (s.send o).disables = s.disables := rfl
@[simp] theorem State.send_resumes (s : State) (o : Out) : (s.send o).resumes = s.resumes := rfl
@[simp] theorem State.send_pageMove (s : State) (o : Out) : (s.send o).pageMove = s.pageMove := rfl
@[simp] theorem State.send_keySlots (s : State) (o : Out) : (s.send o).keySlots = s.keySlots := rfl
@[simp] theorem State.send_handles (s : State) (o : Out) : (s.send o).handles = s.handles := rfl
@[simp] theorem State.send_sessions (s : State) (o : Out) : (s.send o).sessions = s.sessions := rfl
@[simp] theorem State.send_spdm (s : State) (o : Out) : (s.send o).spdm = s.spdm := rfl
@[simp] theorem State.send_ideSecure (s : State) (o : Out) : (s.send o).ideSecure = s.ideSecure := rfl
@[simp] theorem State.send_ideBroken (s : State) (o : Out) : (s.send o).ideBroken = s.ideBroken := rfl
@[simp] theorem State.send_ltrSent (s : State) (o : Out) : (s.send o).ltrSent = s.ltrSent := rfl
@[simp] theorem State.send_measure (s : State) (o : Out) : (s.send o).measure = s.measure := rfl
@[simp] theorem State.send_recovery (s : State) (o : Out) : (s.send o).recovery = s.recovery := rfl

@[simp] theorem State.updThread_clk (s : State) (k : ThreadKey) (f : Thread → Thread) : (s.updThread k f).clk = s.clk := rfl
@[simp] theorem State.updThread_turn (s : State) (k : ThreadKey) (f : Thread → Thread) : (s.updThread k f).turn = s.turn := rfl
@[simp] theorem State.updThread_ports (s : State) (k : ThreadKey) (f : Thread → Thread) : (s.updThread k f).ports = s.ports := rfl
@[simp] theorem State.updThread_inputs (s : State) (k : ThreadKey) (f : Thread → Thread) : (s.updThread k f).inputs = s.inputs := rfl
@[simp] theorem State.updThread_arriving (s : State) (k : ThreadKey) (f : Thread → Thread) : (s.updThread k f).arriving = s.arriving := rfl
@[simp] theorem State.updThread_accepted (s : State) (k : ThreadKey) (f : Thread → Thread) : (s.updThread k f).accepted = s.accepted := rfl
@[simp] theorem State.updThread_nextId (s : State) (k : ThreadKey) (f : Thread → Thread) : (s.updThread k f).nextId = s.nextId := rfl
@[simp] theorem State.updThread_outbox (s : State) (k : ThreadKey) (f : Thread → Thread) : (s.updThread k f).outbox = s.outbox := rfl
@[simp] theorem State.updThread_threads (s : State) (k : ThreadKey) (f : Thread → Thread) : (s.updThread k f).threads = updFirst (fun t => t.key == k) f s.threads := rfl
@[simp] theorem State.updThread_groups (s : State) (k : ThreadKey) (f : Thread → Thread) : (s.updThread k f).groups = s.groups := rfl
@[simp] theorem State.updThread_blocks (s : State) (k : ThreadKey) (f : Thread → Thread) : (s.updThread k f).blocks = s.blocks := rfl
@[simp] theorem State.updThread_cores (s : State) (k : ThreadKey) (f : Thread → Thread) : (s.updThread k f).cores = s.cores := rfl
@[simp] theorem State.updThread_dies (s : State) (k : ThreadKey) (f : Thread → Thread) : (s.updThread k f).dies = s.dies := rfl
@[simp] theorem State.updThread_quads (s : State) (k : ThreadKey) (f : Thread → Thread) : (s.updThread k f).quads = s.quads := rfl
@[simp] theorem State.updThread_loads (s : State) (k : ThreadKey) (f : Thread → Thread) : (s.updThread k f).loads = s.loads := rfl
@[simp] theorem State.updThread_nps (s : State) (k : ThreadKey) (f : Thread → Thread) : (s.updThread k f).nps = s.nps := rfl
@[simp] theorem State.updThread_wants (s : State) (k : ThreadKey) (f : Thread → Thread) : (s.updThread k f).wants = s.wants := rfl
@[simp] theorem State.updThread_posts (s : State) (k : ThreadKey) (f : Thread → Thread) : (s.updThread k f).posts = s.posts := rfl
@[simp] theorem State.updThread_copies (s : State) (k : ThreadKey) (f : Thread → Thread) : (s.updThread k f).copies = s.copies := rfl
@[simp] theorem State.updThread_mcmds (s : State) (k : ThreadKey) (f : Thread → Thread) : (s.updThread k f).mcmds = s.mcmds := rfl
@[simp] theorem State.updThread_mem (s : State) (k : ThreadKey) (f : Thread → Thread) : (s.updThread k f).mem = s.mem := rfl
@[simp] theorem State.updThread_hbm (s : State) (k : ThreadKey) (f : Thread → Thread) : (s.updThread k f).hbm = s.hbm := rfl
@[simp] theorem State.updThread_host (s : State) (k : ThreadKey) (f : Thread → Thread) : (s.updThread k f).host = s.host := rfl
@[simp] theorem State.updThread_owners (s : State) (k : ThreadKey) (f : Thread → Thread) : (s.updThread k f).owners = s.owners := rfl
@[simp] theorem State.updThread_l1 (s : State) (k : ThreadKey) (f : Thread → Thread) : (s.updThread k f).l1 = s.l1 := rfl
@[simp] theorem State.updThread_mere (s : State) (k : ThreadKey) (f : Thread → Thread) : (s.updThread k f).mere = s.mere := rfl
@[simp] theorem State.updThread_poisoned (s : State) (k : ThreadKey) (f : Thread → Thread) : (s.updThread k f).poisoned = s.poisoned := rfl
@[simp] theorem State.updThread_locks (s : State) (k : ThreadKey) (f : Thread → Thread) : (s.updThread k f).locks = s.locks := rfl
@[simp] theorem State.updThread_lockLog (s : State) (k : ThreadKey) (f : Thread → Thread) : (s.updThread k f).lockLog = s.lockLog := rfl
@[simp] theorem State.updThread_windows (s : State) (k : ThreadKey) (f : Thread → Thread) : (s.updThread k f).windows = s.windows := rfl
@[simp] theorem State.updThread_epochs (s : State) (k : ThreadKey) (f : Thread → Thread) : (s.updThread k f).epochs = s.epochs := rfl
@[simp] theorem State.updThread_arrivals (s : State) (k : ThreadKey) (f : Thread → Thread) : (s.updThread k f).arrivals = s.arrivals := rfl
@[simp] theorem State.updThread_seqs (s : State) (k : ThreadKey) (f : Thread → Thread) : (s.updThread k f).seqs = s.seqs := rfl
@[simp] theorem State.updThread_dups (s : State) (k : ThreadKey) (f : Thread → Thread) : (s.updThread k f).dups = s.dups := rfl
@[simp] theorem State.updThread_links (s : State) (k : ThreadKey) (f : Thread → Thread) : (s.updThread k f).links = s.links := rfl
@[simp] theorem State.updThread_ivs (s : State) (k : ThreadKey) (f : Thread → Thread) : (s.updThread k f).ivs = s.ivs := rfl
@[simp] theorem State.updThread_drops (s : State) (k : ThreadKey) (f : Thread → Thread) : (s.updThread k f).drops = s.drops := rfl
@[simp] theorem State.updThread_linkSecrets (s : State) (k : ThreadKey) (f : Thread → Thread) : (s.updThread k f).linkSecrets = s.linkSecrets := rfl
@[simp] theorem State.updThread_credits (s : State) (k : ThreadKey) (f : Thread → Thread) : (s.updThread k f).credits = s.credits := rfl
@[simp] theorem State.updThread_ctrlWait (s : State) (k : ThreadKey) (f : Thread → Thread) : (s.updThread k f).ctrlWait = s.ctrlWait := rfl
@[simp] theorem State.updThread_txq (s : State) (k : ThreadKey) (f : Thread → Thread) : (s.updThread k f).txq = s.txq := rfl
@[simp] theorem State.updThread_txFibre (s : State) (k : ThreadKey) (f : Thread → Thread) : (s.updThread k f).txFibre = s.txFibre := rfl
@[simp] theorem State.updThread_txTurn (s : State) (k : ThreadKey) (f : Thread → Thread) : (s.updThread k f).txTurn = s.txTurn := rfl
@[simp] theorem State.updThread_txDeficit (s : State) (k : ThreadKey) (f : Thread → Thread) : (s.updThread k f).txDeficit = s.txDeficit := rfl
@[simp] theorem State.updThread_fibreErrs (s : State) (k : ThreadKey) (f : Thread → Thread) : (s.updThread k f).fibreErrs = s.fibreErrs := rfl
@[simp] theorem State.updThread_fibreRuns (s : State) (k : ThreadKey) (f : Thread → Thread) : (s.updThread k f).fibreRuns = s.fibreRuns := rfl
@[simp] theorem State.updThread_fibreNext (s : State) (k : ThreadKey) (f : Thread → Thread) : (s.updThread k f).fibreNext = s.fibreNext := rfl
@[simp] theorem State.updThread_sysregs (s : State) (k : ThreadKey) (f : Thread → Thread) : (s.updThread k f).sysregs = s.sysregs := rfl
@[simp] theorem State.updThread_bar0 (s : State) (k : ThreadKey) (f : Thread → Thread) : (s.updThread k f).bar0 = s.bar0 := rfl
@[simp] theorem State.updThread_errSeq (s : State) (k : ThreadKey) (f : Thread → Thread) : (s.updThread k f).errSeq = s.errSeq := rfl
@[simp] theorem State.updThread_launches (s : State) (k : ThreadKey) (f : Thread → Thread) : (s.updThread k f).launches = s.launches := rfl
@[simp] theorem State.updThread_podHeard (s : State) (k : ThreadKey) (f : Thread → Thread) : (s.updThread k f).podHeard = s.podHeard := rfl
@[simp] theorem State.updThread_parked (s : State) (k : ThreadKey) (f : Thread → Thread) : (s.updThread k f).parked = s.parked := rfl
@[simp] theorem State.updThread_stalled (s : State) (k : ThreadKey) (f : Thread → Thread) : (s.updThread k f).stalled = s.stalled := rfl
@[simp] theorem State.updThread_ringStops (s : State) (k : ThreadKey) (f : Thread → Thread) : (s.updThread k f).ringStops = s.ringStops := rfl
@[simp] theorem State.updThread_saved (s : State) (k : ThreadKey) (f : Thread → Thread) : (s.updThread k f).saved = s.saved := rfl
@[simp] theorem State.updThread_resuming (s : State) (k : ThreadKey) (f : Thread → Thread) : (s.updThread k f).resuming = s.resuming := rfl
@[simp] theorem State.updThread_turns (s : State) (k : ThreadKey) (f : Thread → Thread) : (s.updThread k f).turns = s.turns := rfl
@[simp] theorem State.updThread_paces (s : State) (k : ThreadKey) (f : Thread → Thread) : (s.updThread k f).paces = s.paces := rfl
@[simp] theorem State.updThread_devHeld (s : State) (k : ThreadKey) (f : Thread → Thread) : (s.updThread k f).devHeld = s.devHeld := rfl
@[simp] theorem State.updThread_seepTurn (s : State) (k : ThreadKey) (f : Thread → Thread) : (s.updThread k f).seepTurn = s.seepTurn := rfl
@[simp] theorem State.updThread_images (s : State) (k : ThreadKey) (f : Thread → Thread) : (s.updThread k f).images = s.images := rfl
@[simp] theorem State.updThread_meters (s : State) (k : ThreadKey) (f : Thread → Thread) : (s.updThread k f).meters = s.meters := rfl
@[simp] theorem State.updThread_tlb (s : State) (k : ThreadKey) (f : Thread → Thread) : (s.updThread k f).tlb = s.tlb := rfl
@[simp] theorem State.updThread_walks (s : State) (k : ThreadKey) (f : Thread → Thread) : (s.updThread k f).walks = s.walks := rfl
@[simp] theorem State.updThread_shoots (s : State) (k : ThreadKey) (f : Thread → Thread) : (s.updThread k f).shoots = s.shoots := rfl
@[simp] theorem State.updThread_stale (s : State) (k : ThreadKey) (f : Thread → Thread) : (s.updThread k f).stale = s.stale := rfl
@[simp] theorem State.updThread_disables (s : State) (k : ThreadKey) (f : Thread → Thread) : (s.updThread k f).disables = s.disables := rfl
@[simp] theorem State.updThread_resumes (s : State) (k : ThreadKey) (f : Thread → Thread) : (s.updThread k f).resumes = s.resumes := rfl
@[simp] theorem State.updThread_pageMove (s : State) (k : ThreadKey) (f : Thread → Thread) : (s.updThread k f).pageMove = s.pageMove := rfl
@[simp] theorem State.updThread_keySlots (s : State) (k : ThreadKey) (f : Thread → Thread) : (s.updThread k f).keySlots = s.keySlots := rfl
@[simp] theorem State.updThread_handles (s : State) (k : ThreadKey) (f : Thread → Thread) : (s.updThread k f).handles = s.handles := rfl
@[simp] theorem State.updThread_sessions (s : State) (k : ThreadKey) (f : Thread → Thread) : (s.updThread k f).sessions = s.sessions := rfl
@[simp] theorem State.updThread_spdm (s : State) (k : ThreadKey) (f : Thread → Thread) : (s.updThread k f).spdm = s.spdm := rfl
@[simp] theorem State.updThread_ideSecure (s : State) (k : ThreadKey) (f : Thread → Thread) : (s.updThread k f).ideSecure = s.ideSecure := rfl
@[simp] theorem State.updThread_ideBroken (s : State) (k : ThreadKey) (f : Thread → Thread) : (s.updThread k f).ideBroken = s.ideBroken := rfl
@[simp] theorem State.updThread_ltrSent (s : State) (k : ThreadKey) (f : Thread → Thread) : (s.updThread k f).ltrSent = s.ltrSent := rfl
@[simp] theorem State.updThread_measure (s : State) (k : ThreadKey) (f : Thread → Thread) : (s.updThread k f).measure = s.measure := rfl
@[simp] theorem State.updThread_recovery (s : State) (k : ThreadKey) (f : Thread → Thread) : (s.updThread k f).recovery = s.recovery := rfl

@[simp] theorem State.updGroup_clk (s : State) (b i : Nat) (f : Group → Group) : (s.updGroup b i f).clk = s.clk := rfl
@[simp] theorem State.updGroup_turn (s : State) (b i : Nat) (f : Group → Group) : (s.updGroup b i f).turn = s.turn := rfl
@[simp] theorem State.updGroup_ports (s : State) (b i : Nat) (f : Group → Group) : (s.updGroup b i f).ports = s.ports := rfl
@[simp] theorem State.updGroup_inputs (s : State) (b i : Nat) (f : Group → Group) : (s.updGroup b i f).inputs = s.inputs := rfl
@[simp] theorem State.updGroup_arriving (s : State) (b i : Nat) (f : Group → Group) : (s.updGroup b i f).arriving = s.arriving := rfl
@[simp] theorem State.updGroup_accepted (s : State) (b i : Nat) (f : Group → Group) : (s.updGroup b i f).accepted = s.accepted := rfl
@[simp] theorem State.updGroup_nextId (s : State) (b i : Nat) (f : Group → Group) : (s.updGroup b i f).nextId = s.nextId := rfl
@[simp] theorem State.updGroup_outbox (s : State) (b i : Nat) (f : Group → Group) : (s.updGroup b i f).outbox = s.outbox := rfl
@[simp] theorem State.updGroup_threads (s : State) (b i : Nat) (f : Group → Group) : (s.updGroup b i f).threads = s.threads := rfl
@[simp] theorem State.updGroup_blocks (s : State) (b i : Nat) (f : Group → Group) : (s.updGroup b i f).blocks = s.blocks := rfl
@[simp] theorem State.updGroup_cores (s : State) (b i : Nat) (f : Group → Group) : (s.updGroup b i f).cores = s.cores := rfl
@[simp] theorem State.updGroup_dies (s : State) (b i : Nat) (f : Group → Group) : (s.updGroup b i f).dies = s.dies := rfl
@[simp] theorem State.updGroup_quads (s : State) (b i : Nat) (f : Group → Group) : (s.updGroup b i f).quads = s.quads := rfl
@[simp] theorem State.updGroup_loads (s : State) (b i : Nat) (f : Group → Group) : (s.updGroup b i f).loads = s.loads := rfl
@[simp] theorem State.updGroup_nps (s : State) (b i : Nat) (f : Group → Group) : (s.updGroup b i f).nps = s.nps := rfl
@[simp] theorem State.updGroup_wants (s : State) (b i : Nat) (f : Group → Group) : (s.updGroup b i f).wants = s.wants := rfl
@[simp] theorem State.updGroup_posts (s : State) (b i : Nat) (f : Group → Group) : (s.updGroup b i f).posts = s.posts := rfl
@[simp] theorem State.updGroup_copies (s : State) (b i : Nat) (f : Group → Group) : (s.updGroup b i f).copies = s.copies := rfl
@[simp] theorem State.updGroup_mcmds (s : State) (b i : Nat) (f : Group → Group) : (s.updGroup b i f).mcmds = s.mcmds := rfl
@[simp] theorem State.updGroup_mem (s : State) (b i : Nat) (f : Group → Group) : (s.updGroup b i f).mem = s.mem := rfl
@[simp] theorem State.updGroup_hbm (s : State) (b i : Nat) (f : Group → Group) : (s.updGroup b i f).hbm = s.hbm := rfl
@[simp] theorem State.updGroup_host (s : State) (b i : Nat) (f : Group → Group) : (s.updGroup b i f).host = s.host := rfl
@[simp] theorem State.updGroup_owners (s : State) (b i : Nat) (f : Group → Group) : (s.updGroup b i f).owners = s.owners := rfl
@[simp] theorem State.updGroup_l1 (s : State) (b i : Nat) (f : Group → Group) : (s.updGroup b i f).l1 = s.l1 := rfl
@[simp] theorem State.updGroup_mere (s : State) (b i : Nat) (f : Group → Group) : (s.updGroup b i f).mere = s.mere := rfl
@[simp] theorem State.updGroup_poisoned (s : State) (b i : Nat) (f : Group → Group) : (s.updGroup b i f).poisoned = s.poisoned := rfl
@[simp] theorem State.updGroup_locks (s : State) (b i : Nat) (f : Group → Group) : (s.updGroup b i f).locks = s.locks := rfl
@[simp] theorem State.updGroup_lockLog (s : State) (b i : Nat) (f : Group → Group) : (s.updGroup b i f).lockLog = s.lockLog := rfl
@[simp] theorem State.updGroup_windows (s : State) (b i : Nat) (f : Group → Group) : (s.updGroup b i f).windows = s.windows := rfl
@[simp] theorem State.updGroup_epochs (s : State) (b i : Nat) (f : Group → Group) : (s.updGroup b i f).epochs = s.epochs := rfl
@[simp] theorem State.updGroup_arrivals (s : State) (b i : Nat) (f : Group → Group) : (s.updGroup b i f).arrivals = s.arrivals := rfl
@[simp] theorem State.updGroup_seqs (s : State) (b i : Nat) (f : Group → Group) : (s.updGroup b i f).seqs = s.seqs := rfl
@[simp] theorem State.updGroup_dups (s : State) (b i : Nat) (f : Group → Group) : (s.updGroup b i f).dups = s.dups := rfl
@[simp] theorem State.updGroup_links (s : State) (b i : Nat) (f : Group → Group) : (s.updGroup b i f).links = s.links := rfl
@[simp] theorem State.updGroup_ivs (s : State) (b i : Nat) (f : Group → Group) : (s.updGroup b i f).ivs = s.ivs := rfl
@[simp] theorem State.updGroup_drops (s : State) (b i : Nat) (f : Group → Group) : (s.updGroup b i f).drops = s.drops := rfl
@[simp] theorem State.updGroup_linkSecrets (s : State) (b i : Nat) (f : Group → Group) : (s.updGroup b i f).linkSecrets = s.linkSecrets := rfl
@[simp] theorem State.updGroup_credits (s : State) (b i : Nat) (f : Group → Group) : (s.updGroup b i f).credits = s.credits := rfl
@[simp] theorem State.updGroup_ctrlWait (s : State) (b i : Nat) (f : Group → Group) : (s.updGroup b i f).ctrlWait = s.ctrlWait := rfl
@[simp] theorem State.updGroup_txq (s : State) (b i : Nat) (f : Group → Group) : (s.updGroup b i f).txq = s.txq := rfl
@[simp] theorem State.updGroup_txFibre (s : State) (b i : Nat) (f : Group → Group) : (s.updGroup b i f).txFibre = s.txFibre := rfl
@[simp] theorem State.updGroup_txTurn (s : State) (b i : Nat) (f : Group → Group) : (s.updGroup b i f).txTurn = s.txTurn := rfl
@[simp] theorem State.updGroup_txDeficit (s : State) (b i : Nat) (f : Group → Group) : (s.updGroup b i f).txDeficit = s.txDeficit := rfl
@[simp] theorem State.updGroup_fibreErrs (s : State) (b i : Nat) (f : Group → Group) : (s.updGroup b i f).fibreErrs = s.fibreErrs := rfl
@[simp] theorem State.updGroup_fibreRuns (s : State) (b i : Nat) (f : Group → Group) : (s.updGroup b i f).fibreRuns = s.fibreRuns := rfl
@[simp] theorem State.updGroup_fibreNext (s : State) (b i : Nat) (f : Group → Group) : (s.updGroup b i f).fibreNext = s.fibreNext := rfl
@[simp] theorem State.updGroup_sysregs (s : State) (b i : Nat) (f : Group → Group) : (s.updGroup b i f).sysregs = s.sysregs := rfl
@[simp] theorem State.updGroup_bar0 (s : State) (b i : Nat) (f : Group → Group) : (s.updGroup b i f).bar0 = s.bar0 := rfl
@[simp] theorem State.updGroup_errSeq (s : State) (b i : Nat) (f : Group → Group) : (s.updGroup b i f).errSeq = s.errSeq := rfl
@[simp] theorem State.updGroup_launches (s : State) (b i : Nat) (f : Group → Group) : (s.updGroup b i f).launches = s.launches := rfl
@[simp] theorem State.updGroup_podHeard (s : State) (b i : Nat) (f : Group → Group) : (s.updGroup b i f).podHeard = s.podHeard := rfl
@[simp] theorem State.updGroup_parked (s : State) (b i : Nat) (f : Group → Group) : (s.updGroup b i f).parked = s.parked := rfl
@[simp] theorem State.updGroup_stalled (s : State) (b i : Nat) (f : Group → Group) : (s.updGroup b i f).stalled = s.stalled := rfl
@[simp] theorem State.updGroup_ringStops (s : State) (b i : Nat) (f : Group → Group) : (s.updGroup b i f).ringStops = s.ringStops := rfl
@[simp] theorem State.updGroup_saved (s : State) (b i : Nat) (f : Group → Group) : (s.updGroup b i f).saved = s.saved := rfl
@[simp] theorem State.updGroup_resuming (s : State) (b i : Nat) (f : Group → Group) : (s.updGroup b i f).resuming = s.resuming := rfl
@[simp] theorem State.updGroup_turns (s : State) (b i : Nat) (f : Group → Group) : (s.updGroup b i f).turns = s.turns := rfl
@[simp] theorem State.updGroup_paces (s : State) (b i : Nat) (f : Group → Group) : (s.updGroup b i f).paces = s.paces := rfl
@[simp] theorem State.updGroup_devHeld (s : State) (b i : Nat) (f : Group → Group) : (s.updGroup b i f).devHeld = s.devHeld := rfl
@[simp] theorem State.updGroup_seepTurn (s : State) (b i : Nat) (f : Group → Group) : (s.updGroup b i f).seepTurn = s.seepTurn := rfl
@[simp] theorem State.updGroup_images (s : State) (b i : Nat) (f : Group → Group) : (s.updGroup b i f).images = s.images := rfl
@[simp] theorem State.updGroup_meters (s : State) (b i : Nat) (f : Group → Group) : (s.updGroup b i f).meters = s.meters := rfl
@[simp] theorem State.updGroup_tlb (s : State) (b i : Nat) (f : Group → Group) : (s.updGroup b i f).tlb = s.tlb := rfl
@[simp] theorem State.updGroup_walks (s : State) (b i : Nat) (f : Group → Group) : (s.updGroup b i f).walks = s.walks := rfl
@[simp] theorem State.updGroup_shoots (s : State) (b i : Nat) (f : Group → Group) : (s.updGroup b i f).shoots = s.shoots := rfl
@[simp] theorem State.updGroup_stale (s : State) (b i : Nat) (f : Group → Group) : (s.updGroup b i f).stale = s.stale := rfl
@[simp] theorem State.updGroup_disables (s : State) (b i : Nat) (f : Group → Group) : (s.updGroup b i f).disables = s.disables := rfl
@[simp] theorem State.updGroup_resumes (s : State) (b i : Nat) (f : Group → Group) : (s.updGroup b i f).resumes = s.resumes := rfl
@[simp] theorem State.updGroup_pageMove (s : State) (b i : Nat) (f : Group → Group) : (s.updGroup b i f).pageMove = s.pageMove := rfl
@[simp] theorem State.updGroup_keySlots (s : State) (b i : Nat) (f : Group → Group) : (s.updGroup b i f).keySlots = s.keySlots := rfl
@[simp] theorem State.updGroup_handles (s : State) (b i : Nat) (f : Group → Group) : (s.updGroup b i f).handles = s.handles := rfl
@[simp] theorem State.updGroup_sessions (s : State) (b i : Nat) (f : Group → Group) : (s.updGroup b i f).sessions = s.sessions := rfl
@[simp] theorem State.updGroup_spdm (s : State) (b i : Nat) (f : Group → Group) : (s.updGroup b i f).spdm = s.spdm := rfl
@[simp] theorem State.updGroup_ideSecure (s : State) (b i : Nat) (f : Group → Group) : (s.updGroup b i f).ideSecure = s.ideSecure := rfl
@[simp] theorem State.updGroup_ideBroken (s : State) (b i : Nat) (f : Group → Group) : (s.updGroup b i f).ideBroken = s.ideBroken := rfl
@[simp] theorem State.updGroup_ltrSent (s : State) (b i : Nat) (f : Group → Group) : (s.updGroup b i f).ltrSent = s.ltrSent := rfl
@[simp] theorem State.updGroup_measure (s : State) (b i : Nat) (f : Group → Group) : (s.updGroup b i f).measure = s.measure := rfl
@[simp] theorem State.updGroup_recovery (s : State) (b i : Nat) (f : Group → Group) : (s.updGroup b i f).recovery = s.recovery := rfl

@[simp] theorem State.updLaunch_clk (s : State) (l : Nat) (f : Launch → Launch) : (s.updLaunch l f).clk = s.clk := rfl
@[simp] theorem State.updLaunch_turn (s : State) (l : Nat) (f : Launch → Launch) : (s.updLaunch l f).turn = s.turn := rfl
@[simp] theorem State.updLaunch_ports (s : State) (l : Nat) (f : Launch → Launch) : (s.updLaunch l f).ports = s.ports := rfl
@[simp] theorem State.updLaunch_inputs (s : State) (l : Nat) (f : Launch → Launch) : (s.updLaunch l f).inputs = s.inputs := rfl
@[simp] theorem State.updLaunch_arriving (s : State) (l : Nat) (f : Launch → Launch) : (s.updLaunch l f).arriving = s.arriving := rfl
@[simp] theorem State.updLaunch_accepted (s : State) (l : Nat) (f : Launch → Launch) : (s.updLaunch l f).accepted = s.accepted := rfl
@[simp] theorem State.updLaunch_nextId (s : State) (l : Nat) (f : Launch → Launch) : (s.updLaunch l f).nextId = s.nextId := rfl
@[simp] theorem State.updLaunch_outbox (s : State) (l : Nat) (f : Launch → Launch) : (s.updLaunch l f).outbox = s.outbox := rfl
@[simp] theorem State.updLaunch_threads (s : State) (l : Nat) (f : Launch → Launch) : (s.updLaunch l f).threads = s.threads := rfl
@[simp] theorem State.updLaunch_groups (s : State) (l : Nat) (f : Launch → Launch) : (s.updLaunch l f).groups = s.groups := rfl
@[simp] theorem State.updLaunch_blocks (s : State) (l : Nat) (f : Launch → Launch) : (s.updLaunch l f).blocks = s.blocks := rfl
@[simp] theorem State.updLaunch_cores (s : State) (l : Nat) (f : Launch → Launch) : (s.updLaunch l f).cores = s.cores := rfl
@[simp] theorem State.updLaunch_dies (s : State) (l : Nat) (f : Launch → Launch) : (s.updLaunch l f).dies = s.dies := rfl
@[simp] theorem State.updLaunch_quads (s : State) (l : Nat) (f : Launch → Launch) : (s.updLaunch l f).quads = s.quads := rfl
@[simp] theorem State.updLaunch_loads (s : State) (l : Nat) (f : Launch → Launch) : (s.updLaunch l f).loads = s.loads := rfl
@[simp] theorem State.updLaunch_nps (s : State) (l : Nat) (f : Launch → Launch) : (s.updLaunch l f).nps = s.nps := rfl
@[simp] theorem State.updLaunch_wants (s : State) (l : Nat) (f : Launch → Launch) : (s.updLaunch l f).wants = s.wants := rfl
@[simp] theorem State.updLaunch_posts (s : State) (l : Nat) (f : Launch → Launch) : (s.updLaunch l f).posts = s.posts := rfl
@[simp] theorem State.updLaunch_copies (s : State) (l : Nat) (f : Launch → Launch) : (s.updLaunch l f).copies = s.copies := rfl
@[simp] theorem State.updLaunch_mcmds (s : State) (l : Nat) (f : Launch → Launch) : (s.updLaunch l f).mcmds = s.mcmds := rfl
@[simp] theorem State.updLaunch_mem (s : State) (l : Nat) (f : Launch → Launch) : (s.updLaunch l f).mem = s.mem := rfl
@[simp] theorem State.updLaunch_hbm (s : State) (l : Nat) (f : Launch → Launch) : (s.updLaunch l f).hbm = s.hbm := rfl
@[simp] theorem State.updLaunch_host (s : State) (l : Nat) (f : Launch → Launch) : (s.updLaunch l f).host = s.host := rfl
@[simp] theorem State.updLaunch_owners (s : State) (l : Nat) (f : Launch → Launch) : (s.updLaunch l f).owners = s.owners := rfl
@[simp] theorem State.updLaunch_l1 (s : State) (l : Nat) (f : Launch → Launch) : (s.updLaunch l f).l1 = s.l1 := rfl
@[simp] theorem State.updLaunch_mere (s : State) (l : Nat) (f : Launch → Launch) : (s.updLaunch l f).mere = s.mere := rfl
@[simp] theorem State.updLaunch_poisoned (s : State) (l : Nat) (f : Launch → Launch) : (s.updLaunch l f).poisoned = s.poisoned := rfl
@[simp] theorem State.updLaunch_locks (s : State) (l : Nat) (f : Launch → Launch) : (s.updLaunch l f).locks = s.locks := rfl
@[simp] theorem State.updLaunch_lockLog (s : State) (l : Nat) (f : Launch → Launch) : (s.updLaunch l f).lockLog = s.lockLog := rfl
@[simp] theorem State.updLaunch_windows (s : State) (l : Nat) (f : Launch → Launch) : (s.updLaunch l f).windows = s.windows := rfl
@[simp] theorem State.updLaunch_epochs (s : State) (l : Nat) (f : Launch → Launch) : (s.updLaunch l f).epochs = s.epochs := rfl
@[simp] theorem State.updLaunch_arrivals (s : State) (l : Nat) (f : Launch → Launch) : (s.updLaunch l f).arrivals = s.arrivals := rfl
@[simp] theorem State.updLaunch_seqs (s : State) (l : Nat) (f : Launch → Launch) : (s.updLaunch l f).seqs = s.seqs := rfl
@[simp] theorem State.updLaunch_dups (s : State) (l : Nat) (f : Launch → Launch) : (s.updLaunch l f).dups = s.dups := rfl
@[simp] theorem State.updLaunch_links (s : State) (l : Nat) (f : Launch → Launch) : (s.updLaunch l f).links = s.links := rfl
@[simp] theorem State.updLaunch_ivs (s : State) (l : Nat) (f : Launch → Launch) : (s.updLaunch l f).ivs = s.ivs := rfl
@[simp] theorem State.updLaunch_drops (s : State) (l : Nat) (f : Launch → Launch) : (s.updLaunch l f).drops = s.drops := rfl
@[simp] theorem State.updLaunch_linkSecrets (s : State) (l : Nat) (f : Launch → Launch) : (s.updLaunch l f).linkSecrets = s.linkSecrets := rfl
@[simp] theorem State.updLaunch_credits (s : State) (l : Nat) (f : Launch → Launch) : (s.updLaunch l f).credits = s.credits := rfl
@[simp] theorem State.updLaunch_ctrlWait (s : State) (l : Nat) (f : Launch → Launch) : (s.updLaunch l f).ctrlWait = s.ctrlWait := rfl
@[simp] theorem State.updLaunch_txq (s : State) (l : Nat) (f : Launch → Launch) : (s.updLaunch l f).txq = s.txq := rfl
@[simp] theorem State.updLaunch_txFibre (s : State) (l : Nat) (f : Launch → Launch) : (s.updLaunch l f).txFibre = s.txFibre := rfl
@[simp] theorem State.updLaunch_txTurn (s : State) (l : Nat) (f : Launch → Launch) : (s.updLaunch l f).txTurn = s.txTurn := rfl
@[simp] theorem State.updLaunch_txDeficit (s : State) (l : Nat) (f : Launch → Launch) : (s.updLaunch l f).txDeficit = s.txDeficit := rfl
@[simp] theorem State.updLaunch_fibreErrs (s : State) (l : Nat) (f : Launch → Launch) : (s.updLaunch l f).fibreErrs = s.fibreErrs := rfl
@[simp] theorem State.updLaunch_fibreRuns (s : State) (l : Nat) (f : Launch → Launch) : (s.updLaunch l f).fibreRuns = s.fibreRuns := rfl
@[simp] theorem State.updLaunch_fibreNext (s : State) (l : Nat) (f : Launch → Launch) : (s.updLaunch l f).fibreNext = s.fibreNext := rfl
@[simp] theorem State.updLaunch_sysregs (s : State) (l : Nat) (f : Launch → Launch) : (s.updLaunch l f).sysregs = s.sysregs := rfl
@[simp] theorem State.updLaunch_bar0 (s : State) (l : Nat) (f : Launch → Launch) : (s.updLaunch l f).bar0 = s.bar0 := rfl
@[simp] theorem State.updLaunch_errSeq (s : State) (l : Nat) (f : Launch → Launch) : (s.updLaunch l f).errSeq = s.errSeq := rfl
@[simp] theorem State.updLaunch_podHeard (s : State) (l : Nat) (f : Launch → Launch) : (s.updLaunch l f).podHeard = s.podHeard := rfl
@[simp] theorem State.updLaunch_parked (s : State) (l : Nat) (f : Launch → Launch) : (s.updLaunch l f).parked = s.parked := rfl
@[simp] theorem State.updLaunch_stalled (s : State) (l : Nat) (f : Launch → Launch) : (s.updLaunch l f).stalled = s.stalled := rfl
@[simp] theorem State.updLaunch_ringStops (s : State) (l : Nat) (f : Launch → Launch) : (s.updLaunch l f).ringStops = s.ringStops := rfl
@[simp] theorem State.updLaunch_saved (s : State) (l : Nat) (f : Launch → Launch) : (s.updLaunch l f).saved = s.saved := rfl
@[simp] theorem State.updLaunch_resuming (s : State) (l : Nat) (f : Launch → Launch) : (s.updLaunch l f).resuming = s.resuming := rfl
@[simp] theorem State.updLaunch_turns (s : State) (l : Nat) (f : Launch → Launch) : (s.updLaunch l f).turns = s.turns := rfl
@[simp] theorem State.updLaunch_paces (s : State) (l : Nat) (f : Launch → Launch) : (s.updLaunch l f).paces = s.paces := rfl
@[simp] theorem State.updLaunch_devHeld (s : State) (l : Nat) (f : Launch → Launch) : (s.updLaunch l f).devHeld = s.devHeld := rfl
@[simp] theorem State.updLaunch_seepTurn (s : State) (l : Nat) (f : Launch → Launch) : (s.updLaunch l f).seepTurn = s.seepTurn := rfl
@[simp] theorem State.updLaunch_images (s : State) (l : Nat) (f : Launch → Launch) : (s.updLaunch l f).images = s.images := rfl
@[simp] theorem State.updLaunch_meters (s : State) (l : Nat) (f : Launch → Launch) : (s.updLaunch l f).meters = s.meters := rfl
@[simp] theorem State.updLaunch_tlb (s : State) (l : Nat) (f : Launch → Launch) : (s.updLaunch l f).tlb = s.tlb := rfl
@[simp] theorem State.updLaunch_walks (s : State) (l : Nat) (f : Launch → Launch) : (s.updLaunch l f).walks = s.walks := rfl
@[simp] theorem State.updLaunch_shoots (s : State) (l : Nat) (f : Launch → Launch) : (s.updLaunch l f).shoots = s.shoots := rfl
@[simp] theorem State.updLaunch_stale (s : State) (l : Nat) (f : Launch → Launch) : (s.updLaunch l f).stale = s.stale := rfl
@[simp] theorem State.updLaunch_disables (s : State) (l : Nat) (f : Launch → Launch) : (s.updLaunch l f).disables = s.disables := rfl
@[simp] theorem State.updLaunch_resumes (s : State) (l : Nat) (f : Launch → Launch) : (s.updLaunch l f).resumes = s.resumes := rfl
@[simp] theorem State.updLaunch_pageMove (s : State) (l : Nat) (f : Launch → Launch) : (s.updLaunch l f).pageMove = s.pageMove := rfl
@[simp] theorem State.updLaunch_keySlots (s : State) (l : Nat) (f : Launch → Launch) : (s.updLaunch l f).keySlots = s.keySlots := rfl
@[simp] theorem State.updLaunch_handles (s : State) (l : Nat) (f : Launch → Launch) : (s.updLaunch l f).handles = s.handles := rfl
@[simp] theorem State.updLaunch_sessions (s : State) (l : Nat) (f : Launch → Launch) : (s.updLaunch l f).sessions = s.sessions := rfl
@[simp] theorem State.updLaunch_spdm (s : State) (l : Nat) (f : Launch → Launch) : (s.updLaunch l f).spdm = s.spdm := rfl
@[simp] theorem State.updLaunch_ideSecure (s : State) (l : Nat) (f : Launch → Launch) : (s.updLaunch l f).ideSecure = s.ideSecure := rfl
@[simp] theorem State.updLaunch_ideBroken (s : State) (l : Nat) (f : Launch → Launch) : (s.updLaunch l f).ideBroken = s.ideBroken := rfl
@[simp] theorem State.updLaunch_ltrSent (s : State) (l : Nat) (f : Launch → Launch) : (s.updLaunch l f).ltrSent = s.ltrSent := rfl
@[simp] theorem State.updLaunch_measure (s : State) (l : Nat) (f : Launch → Launch) : (s.updLaunch l f).measure = s.measure := rfl
@[simp] theorem State.updLaunch_recovery (s : State) (l : Nat) (f : Launch → Launch) : (s.updLaunch l f).recovery = s.recovery := rfl

@[simp] theorem State.setOwner_clk (s : State) (pa n : Nat) : (s.setOwner pa n).clk = s.clk := rfl
@[simp] theorem State.setOwner_turn (s : State) (pa n : Nat) : (s.setOwner pa n).turn = s.turn := rfl
@[simp] theorem State.setOwner_ports (s : State) (pa n : Nat) : (s.setOwner pa n).ports = s.ports := rfl
@[simp] theorem State.setOwner_inputs (s : State) (pa n : Nat) : (s.setOwner pa n).inputs = s.inputs := rfl
@[simp] theorem State.setOwner_arriving (s : State) (pa n : Nat) : (s.setOwner pa n).arriving = s.arriving := rfl
@[simp] theorem State.setOwner_accepted (s : State) (pa n : Nat) : (s.setOwner pa n).accepted = s.accepted := rfl
@[simp] theorem State.setOwner_nextId (s : State) (pa n : Nat) : (s.setOwner pa n).nextId = s.nextId := rfl
@[simp] theorem State.setOwner_outbox (s : State) (pa n : Nat) : (s.setOwner pa n).outbox = s.outbox := rfl
@[simp] theorem State.setOwner_threads (s : State) (pa n : Nat) : (s.setOwner pa n).threads = s.threads := rfl
@[simp] theorem State.setOwner_groups (s : State) (pa n : Nat) : (s.setOwner pa n).groups = s.groups := rfl
@[simp] theorem State.setOwner_blocks (s : State) (pa n : Nat) : (s.setOwner pa n).blocks = s.blocks := rfl
@[simp] theorem State.setOwner_cores (s : State) (pa n : Nat) : (s.setOwner pa n).cores = s.cores := rfl
@[simp] theorem State.setOwner_dies (s : State) (pa n : Nat) : (s.setOwner pa n).dies = s.dies := rfl
@[simp] theorem State.setOwner_quads (s : State) (pa n : Nat) : (s.setOwner pa n).quads = s.quads := rfl
@[simp] theorem State.setOwner_loads (s : State) (pa n : Nat) : (s.setOwner pa n).loads = s.loads := rfl
@[simp] theorem State.setOwner_nps (s : State) (pa n : Nat) : (s.setOwner pa n).nps = s.nps := rfl
@[simp] theorem State.setOwner_wants (s : State) (pa n : Nat) : (s.setOwner pa n).wants = s.wants := rfl
@[simp] theorem State.setOwner_posts (s : State) (pa n : Nat) : (s.setOwner pa n).posts = s.posts := rfl
@[simp] theorem State.setOwner_copies (s : State) (pa n : Nat) : (s.setOwner pa n).copies = s.copies := rfl
@[simp] theorem State.setOwner_mcmds (s : State) (pa n : Nat) : (s.setOwner pa n).mcmds = s.mcmds := rfl
@[simp] theorem State.setOwner_mem (s : State) (pa n : Nat) : (s.setOwner pa n).mem = s.mem := rfl
@[simp] theorem State.setOwner_hbm (s : State) (pa n : Nat) : (s.setOwner pa n).hbm = s.hbm := rfl
@[simp] theorem State.setOwner_host (s : State) (pa n : Nat) : (s.setOwner pa n).host = s.host := rfl
@[simp] theorem State.setOwner_owners (s : State) (pa n : Nat) : (s.setOwner pa n).owners = Tab.set (fun _ => 0) s.owners (pa / 4096) n := rfl
@[simp] theorem State.setOwner_l1 (s : State) (pa n : Nat) : (s.setOwner pa n).l1 = s.l1 := rfl
@[simp] theorem State.setOwner_mere (s : State) (pa n : Nat) : (s.setOwner pa n).mere = s.mere := rfl
@[simp] theorem State.setOwner_poisoned (s : State) (pa n : Nat) : (s.setOwner pa n).poisoned = s.poisoned := rfl
@[simp] theorem State.setOwner_locks (s : State) (pa n : Nat) : (s.setOwner pa n).locks = s.locks := rfl
@[simp] theorem State.setOwner_lockLog (s : State) (pa n : Nat) : (s.setOwner pa n).lockLog = s.lockLog := rfl
@[simp] theorem State.setOwner_windows (s : State) (pa n : Nat) : (s.setOwner pa n).windows = s.windows := rfl
@[simp] theorem State.setOwner_epochs (s : State) (pa n : Nat) : (s.setOwner pa n).epochs = s.epochs := rfl
@[simp] theorem State.setOwner_arrivals (s : State) (pa n : Nat) : (s.setOwner pa n).arrivals = s.arrivals := rfl
@[simp] theorem State.setOwner_seqs (s : State) (pa n : Nat) : (s.setOwner pa n).seqs = s.seqs := rfl
@[simp] theorem State.setOwner_dups (s : State) (pa n : Nat) : (s.setOwner pa n).dups = s.dups := rfl
@[simp] theorem State.setOwner_links (s : State) (pa n : Nat) : (s.setOwner pa n).links = s.links := rfl
@[simp] theorem State.setOwner_ivs (s : State) (pa n : Nat) : (s.setOwner pa n).ivs = s.ivs := rfl
@[simp] theorem State.setOwner_drops (s : State) (pa n : Nat) : (s.setOwner pa n).drops = s.drops := rfl
@[simp] theorem State.setOwner_linkSecrets (s : State) (pa n : Nat) : (s.setOwner pa n).linkSecrets = s.linkSecrets := rfl
@[simp] theorem State.setOwner_credits (s : State) (pa n : Nat) : (s.setOwner pa n).credits = s.credits := rfl
@[simp] theorem State.setOwner_ctrlWait (s : State) (pa n : Nat) : (s.setOwner pa n).ctrlWait = s.ctrlWait := rfl
@[simp] theorem State.setOwner_txq (s : State) (pa n : Nat) : (s.setOwner pa n).txq = s.txq := rfl
@[simp] theorem State.setOwner_txFibre (s : State) (pa n : Nat) : (s.setOwner pa n).txFibre = s.txFibre := rfl
@[simp] theorem State.setOwner_txTurn (s : State) (pa n : Nat) : (s.setOwner pa n).txTurn = s.txTurn := rfl
@[simp] theorem State.setOwner_txDeficit (s : State) (pa n : Nat) : (s.setOwner pa n).txDeficit = s.txDeficit := rfl
@[simp] theorem State.setOwner_fibreErrs (s : State) (pa n : Nat) : (s.setOwner pa n).fibreErrs = s.fibreErrs := rfl
@[simp] theorem State.setOwner_fibreRuns (s : State) (pa n : Nat) : (s.setOwner pa n).fibreRuns = s.fibreRuns := rfl
@[simp] theorem State.setOwner_fibreNext (s : State) (pa n : Nat) : (s.setOwner pa n).fibreNext = s.fibreNext := rfl
@[simp] theorem State.setOwner_sysregs (s : State) (pa n : Nat) : (s.setOwner pa n).sysregs = s.sysregs := rfl
@[simp] theorem State.setOwner_bar0 (s : State) (pa n : Nat) : (s.setOwner pa n).bar0 = s.bar0 := rfl
@[simp] theorem State.setOwner_errSeq (s : State) (pa n : Nat) : (s.setOwner pa n).errSeq = s.errSeq := rfl
@[simp] theorem State.setOwner_launches (s : State) (pa n : Nat) : (s.setOwner pa n).launches = s.launches := rfl
@[simp] theorem State.setOwner_podHeard (s : State) (pa n : Nat) : (s.setOwner pa n).podHeard = s.podHeard := rfl
@[simp] theorem State.setOwner_parked (s : State) (pa n : Nat) : (s.setOwner pa n).parked = s.parked := rfl
@[simp] theorem State.setOwner_stalled (s : State) (pa n : Nat) : (s.setOwner pa n).stalled = s.stalled := rfl
@[simp] theorem State.setOwner_ringStops (s : State) (pa n : Nat) : (s.setOwner pa n).ringStops = s.ringStops := rfl
@[simp] theorem State.setOwner_saved (s : State) (pa n : Nat) : (s.setOwner pa n).saved = s.saved := rfl
@[simp] theorem State.setOwner_resuming (s : State) (pa n : Nat) : (s.setOwner pa n).resuming = s.resuming := rfl
@[simp] theorem State.setOwner_turns (s : State) (pa n : Nat) : (s.setOwner pa n).turns = s.turns := rfl
@[simp] theorem State.setOwner_paces (s : State) (pa n : Nat) : (s.setOwner pa n).paces = s.paces := rfl
@[simp] theorem State.setOwner_devHeld (s : State) (pa n : Nat) : (s.setOwner pa n).devHeld = s.devHeld := rfl
@[simp] theorem State.setOwner_seepTurn (s : State) (pa n : Nat) : (s.setOwner pa n).seepTurn = s.seepTurn := rfl
@[simp] theorem State.setOwner_images (s : State) (pa n : Nat) : (s.setOwner pa n).images = s.images := rfl
@[simp] theorem State.setOwner_meters (s : State) (pa n : Nat) : (s.setOwner pa n).meters = s.meters := rfl
@[simp] theorem State.setOwner_tlb (s : State) (pa n : Nat) : (s.setOwner pa n).tlb = s.tlb := rfl
@[simp] theorem State.setOwner_walks (s : State) (pa n : Nat) : (s.setOwner pa n).walks = s.walks := rfl
@[simp] theorem State.setOwner_shoots (s : State) (pa n : Nat) : (s.setOwner pa n).shoots = s.shoots := rfl
@[simp] theorem State.setOwner_stale (s : State) (pa n : Nat) : (s.setOwner pa n).stale = s.stale := rfl
@[simp] theorem State.setOwner_disables (s : State) (pa n : Nat) : (s.setOwner pa n).disables = s.disables := rfl
@[simp] theorem State.setOwner_resumes (s : State) (pa n : Nat) : (s.setOwner pa n).resumes = s.resumes := rfl
@[simp] theorem State.setOwner_pageMove (s : State) (pa n : Nat) : (s.setOwner pa n).pageMove = s.pageMove := rfl
@[simp] theorem State.setOwner_keySlots (s : State) (pa n : Nat) : (s.setOwner pa n).keySlots = s.keySlots := rfl
@[simp] theorem State.setOwner_handles (s : State) (pa n : Nat) : (s.setOwner pa n).handles = s.handles := rfl
@[simp] theorem State.setOwner_sessions (s : State) (pa n : Nat) : (s.setOwner pa n).sessions = s.sessions := rfl
@[simp] theorem State.setOwner_spdm (s : State) (pa n : Nat) : (s.setOwner pa n).spdm = s.spdm := rfl
@[simp] theorem State.setOwner_ideSecure (s : State) (pa n : Nat) : (s.setOwner pa n).ideSecure = s.ideSecure := rfl
@[simp] theorem State.setOwner_ideBroken (s : State) (pa n : Nat) : (s.setOwner pa n).ideBroken = s.ideBroken := rfl
@[simp] theorem State.setOwner_ltrSent (s : State) (pa n : Nat) : (s.setOwner pa n).ltrSent = s.ltrSent := rfl
@[simp] theorem State.setOwner_measure (s : State) (pa n : Nat) : (s.setOwner pa n).measure = s.measure := rfl
@[simp] theorem State.setOwner_recovery (s : State) (pa n : Nat) : (s.setOwner pa n).recovery = s.recovery := rfl

@[simp] theorem Thread.setAbs_bid (t : Thread) (i v : Nat) : (t.setAbs i v).bid = t.bid := rfl
@[simp] theorem Thread.setAbs_grp (t : Thread) (i v : Nat) : (t.setAbs i v).grp = t.grp := rfl
@[simp] theorem Thread.setAbs_tid (t : Thread) (i v : Nat) : (t.setAbs i v).tid = t.tid := rfl
@[simp] theorem Thread.setAbs_lane (t : Thread) (i v : Nat) : (t.setAbs i v).lane = t.lane := rfl
@[simp] theorem Thread.setAbs_pc (t : Thread) (i v : Nat) : (t.setAbs i v).pc = t.pc := rfl
@[simp] theorem Thread.setAbs_regs (t : Thread) (i v : Nat) : (t.setAbs i v).regs = Tab.set (fun _ => (0 : Word)) t.regs i (BitVec.ofNat 32 v) := rfl
@[simp] theorem Thread.setAbs_nb (t : Thread) (i v : Nat) : (t.setAbs i v).nb = t.nb := rfl
@[simp] theorem Thread.setAbs_wb (t : Thread) (i v : Nat) : (t.setAbs i v).wb = t.wb := rfl
@[simp] theorem Thread.setAbs_preds (t : Thread) (i v : Nat) : (t.setAbs i v).preds = t.preds := rfl
@[simp] theorem Thread.setAbs_flags (t : Thread) (i v : Nat) : (t.setAbs i v).flags = t.flags := rfl
@[simp] theorem Thread.setAbs_age (t : Thread) (i v : Nat) : (t.setAbs i v).age = t.age := rfl
@[simp] theorem Thread.setAbs_busy (t : Thread) (i v : Nat) : (t.setAbs i v).busy = t.busy := rfl
@[simp] theorem Thread.setAbs_busyP (t : Thread) (i v : Nat) : (t.setAbs i v).busyP = t.busyP := rfl
@[simp] theorem Thread.setAbs_wait (t : Thread) (i v : Nat) : (t.setAbs i v).wait = t.wait := rfl
@[simp] theorem Thread.setAbs_gate (t : Thread) (i v : Nat) : (t.setAbs i v).gate = t.gate := rfl
@[simp] theorem Thread.setAbs_syncTok (t : Thread) (i v : Nat) : (t.setAbs i v).syncTok = t.syncTok := rfl
@[simp] theorem Thread.setAbs_stalled (t : Thread) (i v : Nat) : (t.setAbs i v).stalled = t.stalled := rfl
@[simp] theorem Thread.setAbs_frame (t : Thread) (i v : Nat) : (t.setAbs i v).frame = t.frame := rfl
@[simp] theorem Thread.setAbs_inHandler (t : Thread) (i v : Nat) : (t.setAbs i v).inHandler = t.inHandler := rfl
@[simp] theorem Thread.setAbs_deferred (t : Thread) (i v : Nat) : (t.setAbs i v).deferred = t.deferred := rfl
@[simp] theorem Thread.setAbs_overflow (t : Thread) (i v : Nat) : (t.setAbs i v).overflow = t.overflow := rfl
@[simp] theorem Thread.setAbs_icount (t : Thread) (i v : Nat) : (t.setAbs i v).icount = t.icount := rfl
@[simp] theorem Thread.setAbs_born (t : Thread) (i v : Nat) : (t.setAbs i v).born = t.born := rfl
@[simp] theorem Thread.setAbs_snapshot (t : Thread) (i v : Nat) : (t.setAbs i v).snapshot = t.snapshot := rfl
@[simp] theorem Thread.setAbs_lvq (t : Thread) (i v : Nat) : (t.setAbs i v).lvq = t.lvq := rfl
@[simp] theorem Thread.setAbs_sig (t : Thread) (i v : Nat) : (t.setAbs i v).sig = t.sig := rfl
@[simp] theorem Thread.setAbs_sigAt (t : Thread) (i v : Nat) : (t.setAbs i v).sigAt = t.sigAt := rfl
@[simp] theorem Thread.setAbs_sigId (t : Thread) (i v : Nat) : (t.setAbs i v).sigId = t.sigId := rfl
@[simp] theorem Thread.setAbs_sigImp (t : Thread) (i v : Nat) : (t.setAbs i v).sigImp = t.sigImp := rfl
@[simp] theorem Thread.setAbs_sigPos (t : Thread) (i v : Nat) : (t.setAbs i v).sigPos = t.sigPos := rfl
@[simp] theorem Thread.setAbs_outcome (t : Thread) (i v : Nat) : (t.setAbs i v).outcome = t.outcome := rfl

@[simp] theorem Thread.setReg_bid (t : Thread) (n v : Nat) : (t.setReg n v).bid = t.bid := rfl
@[simp] theorem Thread.setReg_grp (t : Thread) (n v : Nat) : (t.setReg n v).grp = t.grp := rfl
@[simp] theorem Thread.setReg_tid (t : Thread) (n v : Nat) : (t.setReg n v).tid = t.tid := rfl
@[simp] theorem Thread.setReg_lane (t : Thread) (n v : Nat) : (t.setReg n v).lane = t.lane := rfl
@[simp] theorem Thread.setReg_pc (t : Thread) (n v : Nat) : (t.setReg n v).pc = t.pc := rfl
@[simp] theorem Thread.setReg_regs (t : Thread) (n v : Nat) : (t.setReg n v).regs = Tab.set (fun _ => (0 : Word)) t.regs (t.idx n) (BitVec.ofNat 32 v) := rfl
@[simp] theorem Thread.setReg_nb (t : Thread) (n v : Nat) : (t.setReg n v).nb = t.nb := rfl
@[simp] theorem Thread.setReg_wb (t : Thread) (n v : Nat) : (t.setReg n v).wb = t.wb := rfl
@[simp] theorem Thread.setReg_preds (t : Thread) (n v : Nat) : (t.setReg n v).preds = t.preds := rfl
@[simp] theorem Thread.setReg_flags (t : Thread) (n v : Nat) : (t.setReg n v).flags = t.flags := rfl
@[simp] theorem Thread.setReg_age (t : Thread) (n v : Nat) : (t.setReg n v).age = t.age := rfl
@[simp] theorem Thread.setReg_busy (t : Thread) (n v : Nat) : (t.setReg n v).busy = t.busy := rfl
@[simp] theorem Thread.setReg_busyP (t : Thread) (n v : Nat) : (t.setReg n v).busyP = t.busyP := rfl
@[simp] theorem Thread.setReg_wait (t : Thread) (n v : Nat) : (t.setReg n v).wait = t.wait := rfl
@[simp] theorem Thread.setReg_gate (t : Thread) (n v : Nat) : (t.setReg n v).gate = t.gate := rfl
@[simp] theorem Thread.setReg_syncTok (t : Thread) (n v : Nat) : (t.setReg n v).syncTok = t.syncTok := rfl
@[simp] theorem Thread.setReg_stalled (t : Thread) (n v : Nat) : (t.setReg n v).stalled = t.stalled := rfl
@[simp] theorem Thread.setReg_frame (t : Thread) (n v : Nat) : (t.setReg n v).frame = t.frame := rfl
@[simp] theorem Thread.setReg_inHandler (t : Thread) (n v : Nat) : (t.setReg n v).inHandler = t.inHandler := rfl
@[simp] theorem Thread.setReg_deferred (t : Thread) (n v : Nat) : (t.setReg n v).deferred = t.deferred := rfl
@[simp] theorem Thread.setReg_overflow (t : Thread) (n v : Nat) : (t.setReg n v).overflow = t.overflow := rfl
@[simp] theorem Thread.setReg_icount (t : Thread) (n v : Nat) : (t.setReg n v).icount = t.icount := rfl
@[simp] theorem Thread.setReg_born (t : Thread) (n v : Nat) : (t.setReg n v).born = t.born := rfl
@[simp] theorem Thread.setReg_snapshot (t : Thread) (n v : Nat) : (t.setReg n v).snapshot = t.snapshot := rfl
@[simp] theorem Thread.setReg_lvq (t : Thread) (n v : Nat) : (t.setReg n v).lvq = t.lvq := rfl
@[simp] theorem Thread.setReg_sig (t : Thread) (n v : Nat) : (t.setReg n v).sig = t.sig := rfl
@[simp] theorem Thread.setReg_sigAt (t : Thread) (n v : Nat) : (t.setReg n v).sigAt = t.sigAt := rfl
@[simp] theorem Thread.setReg_sigId (t : Thread) (n v : Nat) : (t.setReg n v).sigId = t.sigId := rfl
@[simp] theorem Thread.setReg_sigImp (t : Thread) (n v : Nat) : (t.setReg n v).sigImp = t.sigImp := rfl
@[simp] theorem Thread.setReg_sigPos (t : Thread) (n v : Nat) : (t.setReg n v).sigPos = t.sigPos := rfl
@[simp] theorem Thread.setReg_outcome (t : Thread) (n v : Nat) : (t.setReg n v).outcome = t.outcome := rfl

@[simp] theorem Thread.raise_bid (t : Thread) (c : BitVec 5) : (t.raise c).bid = t.bid := rfl
@[simp] theorem Thread.raise_grp (t : Thread) (c : BitVec 5) : (t.raise c).grp = t.grp := rfl
@[simp] theorem Thread.raise_tid (t : Thread) (c : BitVec 5) : (t.raise c).tid = t.tid := rfl
@[simp] theorem Thread.raise_lane (t : Thread) (c : BitVec 5) : (t.raise c).lane = t.lane := rfl
@[simp] theorem Thread.raise_pc (t : Thread) (c : BitVec 5) : (t.raise c).pc = t.pc := rfl
@[simp] theorem Thread.raise_regs (t : Thread) (c : BitVec 5) : (t.raise c).regs = t.regs := rfl
@[simp] theorem Thread.raise_nb (t : Thread) (c : BitVec 5) : (t.raise c).nb = t.nb := rfl
@[simp] theorem Thread.raise_wb (t : Thread) (c : BitVec 5) : (t.raise c).wb = t.wb := rfl
@[simp] theorem Thread.raise_preds (t : Thread) (c : BitVec 5) : (t.raise c).preds = t.preds := rfl
@[simp] theorem Thread.raise_flags (t : Thread) (c : BitVec 5) : (t.raise c).flags = t.flags ||| c := rfl
@[simp] theorem Thread.raise_age (t : Thread) (c : BitVec 5) : (t.raise c).age = t.age := rfl
@[simp] theorem Thread.raise_busy (t : Thread) (c : BitVec 5) : (t.raise c).busy = t.busy := rfl
@[simp] theorem Thread.raise_busyP (t : Thread) (c : BitVec 5) : (t.raise c).busyP = t.busyP := rfl
@[simp] theorem Thread.raise_wait (t : Thread) (c : BitVec 5) : (t.raise c).wait = t.wait := rfl
@[simp] theorem Thread.raise_gate (t : Thread) (c : BitVec 5) : (t.raise c).gate = t.gate := rfl
@[simp] theorem Thread.raise_syncTok (t : Thread) (c : BitVec 5) : (t.raise c).syncTok = t.syncTok := rfl
@[simp] theorem Thread.raise_stalled (t : Thread) (c : BitVec 5) : (t.raise c).stalled = t.stalled := rfl
@[simp] theorem Thread.raise_frame (t : Thread) (c : BitVec 5) : (t.raise c).frame = t.frame := rfl
@[simp] theorem Thread.raise_inHandler (t : Thread) (c : BitVec 5) : (t.raise c).inHandler = t.inHandler := rfl
@[simp] theorem Thread.raise_deferred (t : Thread) (c : BitVec 5) : (t.raise c).deferred = t.deferred := rfl
@[simp] theorem Thread.raise_overflow (t : Thread) (c : BitVec 5) : (t.raise c).overflow = t.overflow := rfl
@[simp] theorem Thread.raise_icount (t : Thread) (c : BitVec 5) : (t.raise c).icount = t.icount := rfl
@[simp] theorem Thread.raise_born (t : Thread) (c : BitVec 5) : (t.raise c).born = t.born := rfl
@[simp] theorem Thread.raise_snapshot (t : Thread) (c : BitVec 5) : (t.raise c).snapshot = t.snapshot := rfl
@[simp] theorem Thread.raise_lvq (t : Thread) (c : BitVec 5) : (t.raise c).lvq = t.lvq := rfl
@[simp] theorem Thread.raise_sig (t : Thread) (c : BitVec 5) : (t.raise c).sig = t.sig := rfl
@[simp] theorem Thread.raise_sigAt (t : Thread) (c : BitVec 5) : (t.raise c).sigAt = t.sigAt := rfl
@[simp] theorem Thread.raise_sigId (t : Thread) (c : BitVec 5) : (t.raise c).sigId = t.sigId := rfl
@[simp] theorem Thread.raise_sigImp (t : Thread) (c : BitVec 5) : (t.raise c).sigImp = t.sigImp := rfl
@[simp] theorem Thread.raise_sigPos (t : Thread) (c : BitVec 5) : (t.raise c).sigPos = t.sigPos := rfl
@[simp] theorem Thread.raise_outcome (t : Thread) (c : BitVec 5) : (t.raise c).outcome = t.outcome := rfl

@[simp] theorem Thread.goto_bid (t : Thread) (a : VAddr) : (t.goto a).bid = t.bid := rfl
@[simp] theorem Thread.goto_grp (t : Thread) (a : VAddr) : (t.goto a).grp = t.grp := rfl
@[simp] theorem Thread.goto_tid (t : Thread) (a : VAddr) : (t.goto a).tid = t.tid := rfl
@[simp] theorem Thread.goto_lane (t : Thread) (a : VAddr) : (t.goto a).lane = t.lane := rfl
@[simp] theorem Thread.goto_pc (t : Thread) (a : VAddr) : (t.goto a).pc = a := rfl
@[simp] theorem Thread.goto_regs (t : Thread) (a : VAddr) : (t.goto a).regs = t.regs := rfl
@[simp] theorem Thread.goto_nb (t : Thread) (a : VAddr) : (t.goto a).nb = t.nb := rfl
@[simp] theorem Thread.goto_wb (t : Thread) (a : VAddr) : (t.goto a).wb = t.wb := rfl
@[simp] theorem Thread.goto_preds (t : Thread) (a : VAddr) : (t.goto a).preds = t.preds := rfl
@[simp] theorem Thread.goto_flags (t : Thread) (a : VAddr) : (t.goto a).flags = t.flags := rfl
@[simp] theorem Thread.goto_age (t : Thread) (a : VAddr) : (t.goto a).age = 0 := rfl
@[simp] theorem Thread.goto_busy (t : Thread) (a : VAddr) : (t.goto a).busy = t.busy := rfl
@[simp] theorem Thread.goto_busyP (t : Thread) (a : VAddr) : (t.goto a).busyP = t.busyP := rfl
@[simp] theorem Thread.goto_wait (t : Thread) (a : VAddr) : (t.goto a).wait = .none := rfl
@[simp] theorem Thread.goto_gate (t : Thread) (a : VAddr) : (t.goto a).gate = t.gate := rfl
@[simp] theorem Thread.goto_syncTok (t : Thread) (a : VAddr) : (t.goto a).syncTok = t.syncTok := rfl
@[simp] theorem Thread.goto_stalled (t : Thread) (a : VAddr) : (t.goto a).stalled = t.stalled := rfl
@[simp] theorem Thread.goto_frame (t : Thread) (a : VAddr) : (t.goto a).frame = t.frame := rfl
@[simp] theorem Thread.goto_inHandler (t : Thread) (a : VAddr) : (t.goto a).inHandler = t.inHandler := rfl
@[simp] theorem Thread.goto_deferred (t : Thread) (a : VAddr) : (t.goto a).deferred = t.deferred := rfl
@[simp] theorem Thread.goto_overflow (t : Thread) (a : VAddr) : (t.goto a).overflow = t.overflow := rfl
@[simp] theorem Thread.goto_icount (t : Thread) (a : VAddr) : (t.goto a).icount = t.icount + 1 := rfl
@[simp] theorem Thread.goto_born (t : Thread) (a : VAddr) : (t.goto a).born = t.born := rfl
@[simp] theorem Thread.goto_snapshot (t : Thread) (a : VAddr) : (t.goto a).snapshot = t.snapshot := rfl
@[simp] theorem Thread.goto_lvq (t : Thread) (a : VAddr) : (t.goto a).lvq = t.lvq := rfl
@[simp] theorem Thread.goto_sig (t : Thread) (a : VAddr) : (t.goto a).sig = t.sig := rfl
@[simp] theorem Thread.goto_sigAt (t : Thread) (a : VAddr) : (t.goto a).sigAt = t.sigAt := rfl
@[simp] theorem Thread.goto_sigId (t : Thread) (a : VAddr) : (t.goto a).sigId = t.sigId := rfl
@[simp] theorem Thread.goto_sigImp (t : Thread) (a : VAddr) : (t.goto a).sigImp = t.sigImp := rfl
@[simp] theorem Thread.goto_sigPos (t : Thread) (a : VAddr) : (t.goto a).sigPos = t.sigPos := rfl
@[simp] theorem Thread.goto_outcome (t : Thread) (a : VAddr) : (t.goto a).outcome = t.outcome := rfl

@[simp] theorem Thread.next_bid (t : Thread) (n : Nat) : (t.next n).bid = t.bid := rfl
@[simp] theorem Thread.next_grp (t : Thread) (n : Nat) : (t.next n).grp = t.grp := rfl
@[simp] theorem Thread.next_tid (t : Thread) (n : Nat) : (t.next n).tid = t.tid := rfl
@[simp] theorem Thread.next_lane (t : Thread) (n : Nat) : (t.next n).lane = t.lane := rfl
@[simp] theorem Thread.next_pc (t : Thread) (n : Nat) : (t.next n).pc = t.pc + BitVec.ofNat 64 n := rfl
@[simp] theorem Thread.next_regs (t : Thread) (n : Nat) : (t.next n).regs = t.regs := rfl
@[simp] theorem Thread.next_nb (t : Thread) (n : Nat) : (t.next n).nb = t.nb := rfl
@[simp] theorem Thread.next_wb (t : Thread) (n : Nat) : (t.next n).wb = t.wb := rfl
@[simp] theorem Thread.next_preds (t : Thread) (n : Nat) : (t.next n).preds = t.preds := rfl
@[simp] theorem Thread.next_flags (t : Thread) (n : Nat) : (t.next n).flags = t.flags := rfl
@[simp] theorem Thread.next_age (t : Thread) (n : Nat) : (t.next n).age = 0 := rfl
@[simp] theorem Thread.next_busy (t : Thread) (n : Nat) : (t.next n).busy = t.busy := rfl
@[simp] theorem Thread.next_busyP (t : Thread) (n : Nat) : (t.next n).busyP = t.busyP := rfl
@[simp] theorem Thread.next_wait (t : Thread) (n : Nat) : (t.next n).wait = .none := rfl
@[simp] theorem Thread.next_gate (t : Thread) (n : Nat) : (t.next n).gate = t.gate := rfl
@[simp] theorem Thread.next_syncTok (t : Thread) (n : Nat) : (t.next n).syncTok = t.syncTok := rfl
@[simp] theorem Thread.next_stalled (t : Thread) (n : Nat) : (t.next n).stalled = t.stalled := rfl
@[simp] theorem Thread.next_frame (t : Thread) (n : Nat) : (t.next n).frame = t.frame := rfl
@[simp] theorem Thread.next_inHandler (t : Thread) (n : Nat) : (t.next n).inHandler = t.inHandler := rfl
@[simp] theorem Thread.next_deferred (t : Thread) (n : Nat) : (t.next n).deferred = t.deferred := rfl
@[simp] theorem Thread.next_overflow (t : Thread) (n : Nat) : (t.next n).overflow = t.overflow := rfl
@[simp] theorem Thread.next_icount (t : Thread) (n : Nat) : (t.next n).icount = t.icount + 1 := rfl
@[simp] theorem Thread.next_born (t : Thread) (n : Nat) : (t.next n).born = t.born := rfl
@[simp] theorem Thread.next_snapshot (t : Thread) (n : Nat) : (t.next n).snapshot = t.snapshot := rfl
@[simp] theorem Thread.next_lvq (t : Thread) (n : Nat) : (t.next n).lvq = t.lvq := rfl
@[simp] theorem Thread.next_sig (t : Thread) (n : Nat) : (t.next n).sig = t.sig := rfl
@[simp] theorem Thread.next_sigAt (t : Thread) (n : Nat) : (t.next n).sigAt = t.sigAt := rfl
@[simp] theorem Thread.next_sigId (t : Thread) (n : Nat) : (t.next n).sigId = t.sigId := rfl
@[simp] theorem Thread.next_sigImp (t : Thread) (n : Nat) : (t.next n).sigImp = t.sigImp := rfl
@[simp] theorem Thread.next_sigPos (t : Thread) (n : Nat) : (t.next n).sigPos = t.sigPos := rfl
@[simp] theorem Thread.next_outcome (t : Thread) (n : Nat) : (t.next n).outcome = t.outcome := rfl

theorem Thread.setPred_eq (t : Thread) (n : Nat) (b : Bool) : t.setPred n b = { t with preds := (t.setPred n b).preds } := by
  unfold Thread.setPred
  split <;> rfl

end Sys2Proof.Machine
end

