-- ==== Sys2Proof/Laws/Forms.lean ====
section
/-! SUPPORT. The basic updates of a state keep its canonical forms (`State.Inv`), and what a register reads as after them. -/

namespace Sys2Proof.Machine

theorem reset_inv : State.reset.Inv := by unfold State.Inv; decide

theorem setSys_inv {s : State} (k : Nat) (v : Word) (h : s.Inv) : (s.setSys k v).Inv := by
  obtain ⟨h1, h2, h3, h4, h5, h6, h7, h8, h9, h10⟩ := h
  exact ⟨h1, h2, wf_set _ k v h3, h4, h5, h6, h7, h8, h9, h10⟩

theorem setBar_inv {s : State} (f o : Nat) (v : Word) (h : s.Inv) : (s.setBar f o v).Inv := by
  obtain ⟨h1, h2, h3, h4, h5, h6, h7, h8, h9, h10⟩ := h
  exact ⟨h1, h2, h3, wf_set _ _ v h4, h5, h6, h7, h8, h9, h10⟩

theorem setCore_inv {s : State} (c : Nat) (x : Core) (h : s.Inv) : (s.setCore c x).Inv := by
  obtain ⟨h1, h2, h3, h4, h5, h6, h7, h8, h9, h10⟩ := h
  exact ⟨h1, h2, h3, h4, wf_set _ c x h5, h6, h7, h8, h9, h10⟩

theorem setDie_inv {s : State} (d : Nat) (x : Die) (h : s.Inv) : (s.setDie d x).Inv := by
  obtain ⟨h1, h2, h3, h4, h5, h6, h7, h8, h9, h10⟩ := h
  exact ⟨h1, h2, h3, h4, h5, wf_set _ d x h6, h7, h8, h9, h10⟩

theorem setSession_inv {s : State} (f : Nat) (x : Session) (h : s.Inv) : (s.setSession f x).Inv := by
  obtain ⟨h1, h2, h3, h4, h5, h6, h7, h8, h9, h10⟩ := h
  exact ⟨h1, h2, h3, h4, h5, h6, wf_set _ f x h7, h8, h9, h10⟩

/-- A state with stored bytes. -/
theorem store_inv {s : State} (a : Nat) (bs : List Byte) (h : s.Inv) : State.Inv { s with mem := s.mem.store a bs } := by
  obtain ⟨h1, hr⟩ := h
  exact ⟨Memory.store_wf a bs h1, hr⟩

/-- A state with bytes stored to host memory. -/
theorem hostStore_inv {s : State} (a : Nat) (bs : List Byte) (h : s.Inv) : State.Inv { s with host := s.host.store a bs } := by
  obtain ⟨h1, h2, hr⟩ := h
  exact ⟨h1, Memory.store_wf a bs h2, hr⟩

/-- A register reads as written; every other one is as before. -/
theorem sys_setSys {s : State} (k j : Nat) (v : Word) (h : s.Inv) : (s.setSys k v).sys j = if j = k then v else s.sys j :=
  get_set _ k j v h.2.2.1

theorem session_setSession {s : State} (f g : Nat) (x : Session) (h : s.Inv) :
    (s.setSession f x).session g = if g = f then x else s.session g := by
  obtain ⟨-, -, -, -, -, -, h7, -⟩ := h
  exact get_set _ f g x h7

theorem core_setCore {s : State} (c d : Nat) (x : Core) (h : s.Inv) : (s.setCore c x).core d = if d = c then x else s.core d := by
  obtain ⟨-, -, -, -, h5, -⟩ := h
  exact get_set _ c d x h5

end Sys2Proof.Machine
end

