-- ==== Sys2Proof/Laws/Issue.lean ====
section
/-! SUPPORT. What the issue operations do, once for all instructions that use them (R36, R37, R84). -/

namespace Sys2Proof.Machine

theorem verdictAt_of_runs {s : State} {i : Instr} {t : Thread} (h : s.Runs i t) :
    s.verdictAt s.nextId i t = if t.pred i.guard then .go else .skip := by
  obtain ⟨h1, h2, h3, h4, h5, h6⟩ := h
  unfold State.verdictAt
  have a : (i.level == Level.handler && !t.inHandler) = false := by
    cases hl : (i.level == Level.handler)
    · rfl
    · simp [h2 (by simpa using hl)]
  have b : (i.collective && t.inHandler) = false := by
    cases hc : i.collective
    · rfl
    · simp [h3 hc]
  rw [a, b, h1, h4, h5]
  cases hp : t.pred i.guard
  · rfl
  · simp [h6 hp]

theorem verdict_of_runs {s : State} {i : Instr} {t : Thread} (h : s.Runs i t) :
    s.verdict i t = if t.pred i.guard then .go else .skip := verdictAt_of_runs h

theorem mem_of_thread? {s : State} {k : ThreadKey} {t : Thread} (h : s.thread? k = some t) : t ∈ s.threads ∧ t.key = k := by
  unfold State.thread? at h
  exact ⟨List.mem_of_find?_eq_some h, by simpa using List.find?_some h⟩

theorem mem_of_membersOf {s : State} {p : IssueSet} {t : Thread} (h : t ∈ s.membersOf p) :
    t ∈ s.threads ∧ p.members.contains t.key = true := by
  unfold State.membersOf at h
  obtain ⟨k, hk, he⟩ := List.mem_filterMap.1 h
  obtain ⟨a, b⟩ := mem_of_thread? he
  exact ⟨a, by simpa [b] using hk⟩

theorem countVec_meters (s : State) (core bid n : Nat) : s.countVec core bid n = { s with meters := (s.countVec core bid n).meters } := by
  unfold State.countVec
  split
  · rfl
  · split
    · unfold State.meter
      split <;> rfl
    · rfl

theorem countVec_threads (s : State) (m : List Thread) (core bid n : Nat) :
    ({ s with threads := m } : State).countVec core bid n = { s.countVec core bid n with threads := m } := by
  unfold State.countVec State.launchOf State.block? State.launch?
  split
  · rfl
  · dsimp only
    split
    · unfold State.meter
      split <;> rfl
    · rfl

theorem foldl_countVec_meters (l : List Thread) (core n : Nat) (s : State) :
    l.foldl (fun s t => s.countVec core t.bid n) s =
      { s with meters := (l.foldl (fun s t => s.countVec core t.bid n) s).meters } := by
  induction l generalizing s with
  | nil => rfl
  | cons t r ih =>
    rw [List.foldl_cons, ih, countVec_meters]

theorem foldl_countVec_threads (l : List Thread) (m : List Thread) (core n : Nat) (s : State) :
    l.foldl (fun s t => s.countVec core t.bid n) { s with threads := m } =
      { l.foldl (fun s t => s.countVec core t.bid n) s with threads := m } := by
  induction l generalizing s with
  | nil => rfl
  | cons t r ih => rw [List.foldl_cons, countVec_threads, ih, List.foldl_cons]

theorem foldl_countVec_zero (l : List Thread) (core : Nat) (s : State) : l.foldl (fun s t => s.countVec core t.bid 0) s = s := by
  induction l generalizing s with
  | nil => rfl
  | cons t r ih => exact ih s

/-- What an issue on threads alone does, where no thread of the set traps. -/
theorem eachTrap_runs {i : Instr} {f : State → Thread → Except (TrapInfo × Nat) Thread} {g : State → Thread → Thread}
    {ok : State → Thread → Prop} (he : ∀ s, exec i s = s.eachTrap i (f s)) (hf : ∀ s t, ok s t → f s t = .ok (g s t)) :
    PerformsWhere i ok g := by
  intro s p rest hp hr hok
  rw [he]
  have hv : ∀ t ∈ s.membersOf p, s.verdict i t = if t.pred i.guard then .go else .skip := fun t ht =>
    verdict_of_runs (hr t (mem_of_membersOf ht).1 (mem_of_membersOf ht).2)
  have ht : s.threads.map (s.actOn i (f s) p) =
      s.threads.map fun t => if p.members.contains t.key then (if t.pred i.guard then g s t else t.next i.len) else t := by
    apply List.map_congr_left
    intro t hm
    unfold State.actOn
    cases hc : p.members.contains t.key
    · rfl
    · rw [if_pos rfl, if_pos rfl, verdict_of_runs (hr t hm hc)]
      cases hg : t.pred i.guard
      · rfl
      · simp only [if_true, hf s t (hok t hm hc hg)]
  have hm : (s.membersOf p).filterMap (s.raisedBy i (f s)) = [] := by
    rw [List.filterMap_eq_nil_iff]
    intro t hm
    unfold State.raisedBy
    rw [hv t hm]
    cases hg : t.pred i.guard
    · rfl
    · simp only [if_true, hf s t (hok t (mem_of_membersOf hm).1 (mem_of_membersOf hm).2 hg)]
  have hg : ((s.membersOf p).filter fun t => s.verdict i t == .go) = (s.membersOf p).filter fun t => t.pred i.guard := by
    apply List.filter_congr
    intro t hm
    rw [hv t hm]
    cases t.pred i.guard <;> rfl
  unfold State.eachTrap
  split
  · rename_i h
    rw [hp] at h
    cases h
  · rename_i q r h
    rw [hp] at h
    cases h
    rw [ht, hm, hg]
    refine congrArg (fun x : State => (Host.Outcome.next (x.endIssue rest) : Res)) ?_
    show (if i.vecOps = 0 then _ else _) = s.stepped p i (g s)
    unfold State.stepped State.vecMeters
    split
    · rename_i h0
      rw [h0, foldl_countVec_zero]
    · rw [foldl_countVec_threads, foldl_countVec_meters]

/-- The same for an instruction that never traps. -/
theorem each_runs {i : Instr} {f : Thread → Thread} {g : Thread → Thread} (he : ∀ s, exec i s = s.each i f)
    (hf : ∀ t, (f t).next i.len = g t) : Performs i g :=
  eachTrap_runs (ok := fun _ _ => True) (f := fun _ t => .ok ((f t).next i.len)) he fun _ t _ => by rw [hf t]

theorem ready_numbered (s : State) (tok : Nat) (t : Thread) (i : Instr) : s.numbered.ready tok t i = s.ready tok t i := rfl

theorem levelOf_numbered (s : State) (bid : Nat) : s.numbered.levelOf bid = s.levelOf bid := rfl

theorem verdictAt_numbered (s : State) (tok : Nat) (i : Instr) (t : Thread) : s.numbered.verdictAt tok i t = s.verdictAt tok i t := rfl

theorem pairAct_solo {s : State} {i : Instr} {t : Thread} (h : s.Solo t.bid) : s.pairAct i t = .perform := by
  unfold State.pairAct
  split
  · rfl
  · rename_i b hb
    rw [h b hb]

theorem reserve_solo {s : State} {t : Thread} {e : LvqEntry} (h : s.Solo t.bid) : s.reserve t e = s := by
  unfold State.reserve
  split
  · rename_i b hb
    rw [h b hb]
    rfl
  · rfl

theorem forward_solo {s : State} {k : ThreadKey} {id : Nat} {v : List Word} {q c : Bool} {d : Option DefTrap} (h : s.Solo k.bid) :
    s.forward k id v q c d = s := by
  unfold State.forward
  split
  · rename_i b hb
    rw [h b hb]
    rfl
  · rfl

theorem tellTwin_solo {s : State} {t : Thread} {tok : Nat} {d : Option DefTrap} (h : s.Solo t.bid) : s.tellTwin t tok d = s := by
  unfold State.tellTwin
  split
  · rename_i b hb
    rw [h b hb]
    rfl
  · rfl

theorem forwardIssue_solo {s : State} {i : Instr} {t : Thread} {tok : Nat} (h : s.Solo t.bid) : s.forwardIssue i t tok = s := by
  unfold State.forwardIssue
  have h' : s.Solo t.key.bid := h
  split
  · rfl
  · rfl
  · exact tellTwin_solo h
  · simp only [reserve_solo h, forward_solo h']
    split
    · rfl
    · split <;> rfl

theorem forwardTrap_solo {s : State} {i : Instr} {t : Thread} {tok : Nat} {x : DefTrap} (h : s.Solo t.bid) : s.forwardTrap i t tok x = s := by
  unfold State.forwardTrap
  have h' : s.Solo t.key.bid := h
  split
  · rfl
  · rfl
  · exact tellTwin_solo h
  · rw [reserve_solo h, forward_solo h']

theorem startCkpt_solo {s : State} {i : Instr} {t : Thread} (h : s.Solo t.bid) : s.startCkpt i t = s := by
  unfold State.startCkpt
  split
  · rename_i b _ hb
    rw [if_pos (by rw [h b hb]; rfl)]
  · rfl

/-- One thread's issue of an instruction with effects beyond it, where the meaning answers a state. -/
theorem inTurn_ok {s s2 : State} {i : Instr} {f : Nat → State → Thread → TRes} {k : ThreadKey} {t : Thread} {rest : List IssueSet}
    (h : s.Alone i k t rest) (hf : f s.nextId s.numbered t = .ok s2) (h2 : s2.Solo t.bid) :
    s.inTurn i f = .next ((s2.counted i t.bid t.grp s.nextId).endIssue rest) := by
  obtain ⟨⟨⟨p, hp, hm⟩, ht, hr, hg, hs⟩, -⟩ := h
  have hv : s.numbered.verdictAt s.nextId i t = .go := by
    rw [verdictAt_numbered, verdictAt_of_runs hr, hg]
    rfl
  have ht' : s.numbered.thread? k = some t := ht
  have hs' : s.numbered.Solo t.bid := hs
  have ho : Run.one i s.nextId (f s.nextId) { s := s.numbered, raised := [], went := [], mirrored := [] } k =
      { s := s2, raised := [], went := [(t.bid, t.grp)], mirrored := [] } := by
    unfold Run.one
    simp only [ht', hv, pairAct_solo hs', hf, forwardIssue_solo h2, startCkpt_solo h2]
    rfl
  unfold State.inTurn
  split
  · rename_i e
    rw [hp] at e
    cases e
  · rename_i q r e
    rw [hp] at e
    cases e
    rw [hm]
    show Host.Outcome.next (((Run.count i s.nextId (Run.one i s.nextId (f s.nextId)
      { s := s.numbered, raised := [], went := [], mirrored := [] } k)).raiseAll (Run.one i s.nextId (f s.nextId)
      { s := s.numbered, raised := [], went := [], mirrored := [] } k).raised).endIssue rest) = _
    rw [ho]
    refine congrArg (fun x : State => (Host.Outcome.next (x.endIssue rest) : Res)) ?_
    show Run.count i s.nextId { s := s2, raised := [], went := [(t.bid, t.grp)], mirrored := [] } = _
    unfold Run.count State.counted
    cases i.counter <;> rfl

/-- The same where the thread traps: the trap is all that happens. -/
theorem inTurn_trap {s : State} {i : Instr} {f : Nat → State → Thread → TRes} {k : ThreadKey} {t : Thread} {rest : List IssueSet}
    {x : TrapInfo} {n : Nat} (h : s.Alone i k t rest) (hf : f s.nextId s.numbered t = .trap x n) :
    s.inTurn i f = .next ((s.numbered.takeTrap k t.pc (t.pc + BitVec.ofNat 64 n) x.word).endIssue rest) := by
  obtain ⟨⟨⟨p, hp, hm⟩, ht, hr, hg, hs⟩, -⟩ := h
  have hv : s.numbered.verdictAt s.nextId i t = .go := by
    rw [verdictAt_numbered, verdictAt_of_runs hr, hg]
    rfl
  have ht' : s.numbered.thread? k = some t := ht
  have hs' : s.numbered.Solo t.bid := hs
  have ho : Run.one i s.nextId (f s.nextId) { s := s.numbered, raised := [], went := [], mirrored := [] } k =
      { s := s.numbered, raised := [{ key := k, pc := t.pc, resume := t.pc + BitVec.ofNat 64 n, info := x.word }], went := [],
        mirrored := [] } := by
    unfold Run.one
    simp only [ht', hv, pairAct_solo hs', hf, forwardTrap_solo hs', List.nil_append]
  unfold State.inTurn
  split
  · rename_i e
    rw [hp] at e
    cases e
  · rename_i q r e
    rw [hp] at e
    cases e
    rw [hm]
    show Host.Outcome.next (((Run.count i s.nextId (Run.one i s.nextId (f s.nextId)
      { s := s.numbered, raised := [], went := [], mirrored := [] } k)).raiseAll (Run.one i s.nextId (f s.nextId)
      { s := s.numbered, raised := [], went := [], mirrored := [] } k).raised).endIssue rest) = _
    rw [ho]
    refine congrArg (fun x : State => (Host.Outcome.next (x.endIssue rest) : Res)) ?_
    unfold Run.count
    cases i.counter <;> rfl

/-- One thread's issue of an instruction on threads alone, where it traps: the trap is all that happens. -/
theorem eachTrap_trap {s : State} {i : Instr} {f : Thread → Except (TrapInfo × Nat) Thread} {k : ThreadKey} {t : Thread}
    {rest : List IssueSet} {x : TrapInfo} {n : Nat} (h : s.Alone i k t rest) (hf : f t = .error (x, n)) (hv : i.vecOps = 0) :
    s.eachTrap i f = .next ((s.takeTrap k t.pc (t.pc + BitVec.ofNat 64 n) x.word).endIssue rest) := by
  obtain ⟨⟨⟨p, hp, hm⟩, ht, hr, hg, -⟩, hu⟩ := h
  have hgo : s.verdict i t = .go := by
    rw [verdict_of_runs hr, hg]
    rfl
  have hmap : s.threads.map (s.actOn i f p) = s.threads := by
    conv => rhs; rw [← List.map_id s.threads]
    apply List.map_congr_left
    intro u hu'
    unfold State.actOn
    rw [hm]
    cases hc : [k].contains u.key
    · rfl
    · have e : u = t := hu u hu' (by simpa using hc)
      rw [e, hgo]
      simp only [hf, if_true, id]
  have hk : t.key = k := (mem_of_thread? ht).2
  have hmem : s.membersOf p = [t] := by
    unfold State.membersOf
    rw [hm]
    simp only [List.filterMap_cons, ht, List.filterMap_nil]
  unfold State.eachTrap
  split
  · rename_i e
    rw [hp] at e
    cases e
  · rename_i q r e
    rw [hp] at e
    cases e
    rw [hmap, hmem]
    refine congrArg (fun x : State => (Host.Outcome.next (x.endIssue rest) : Res)) ?_
    show (if i.vecOps = 0 then _ else _ : State).raiseAll _ = _
    rw [if_pos hv]
    have hr' : [t].filterMap (s.raisedBy i f) = [{ key := k, pc := t.pc, resume := t.pc + BitVec.ofNat 64 n, info := x.word }] := by
      simp only [List.filterMap_cons, List.filterMap_nil, State.raisedBy, hgo, hf, hk]
    rw [hr']
    rfl

theorem bid_of_standers {s : State} {p : IssueSet} {bid grp : Nat} {t : Thread} (h : t ∈ s.standers bid grp p) : t.bid = bid := by
  have := (List.mem_filter.1 h).2
  simp only [Bool.and_eq_true, beq_iff_eq] at this
  exact this.1

theorem foldl_forward_each_solo {i : Instr} {tok bid : Nat} {s : State} (h : s.Solo bid) (l : List Thread) (hl : ∀ t ∈ l, t.bid = bid) :
    l.foldl (fun s t => (s.forwardIssue i t tok).startCkpt i t) s = s := by
  induction l with
  | nil => rfl
  | cons t r ih =>
    have e : s.Solo t.bid := by rw [hl t (List.mem_cons_self ..)]; exact h
    rw [List.foldl_cons, forwardIssue_solo e, startCkpt_solo e]
    exact ih fun u hu => hl u (List.mem_cons_of_mem _ hu)

theorem standers_live {s : State} {p : IssueSet} {bid grp : Nat} {t : Thread} (h : t ∈ s.standers bid grp p) : t ∈ s.live bid grp := by
  obtain ⟨a, b⟩ := List.mem_filter.1 h
  exact List.mem_filter.2 ⟨(mem_of_membersOf a).1, b⟩

theorem standers_outside {s : State} {p : IssueSet} {bid grp : Nat} (hf : s.fires bid grp p = true) :
    (s.standers bid grp p).any (fun t => t.inHandler) = false := by
  rw [List.any_eq_false]
  intro t ht
  have h := List.all_eq_true.1 hf t (standers_live ht)
  simp only [Bool.and_eq_true] at h
  have hc := h.1.1
  unfold State.atCollective at hc
  split at hc
  · simp only [Bool.and_eq_true, Bool.not_eq_true'] at hc
    rw [hc.2]
    exact Bool.false_ne_true
  · cases hc

/-- The checks of a collective's group. -/
theorem gathers_facts {s : State} {i : Instr} {p : IssueSet} {rest : List IssueSet} {bid grp : Nat} (h : s.Gathers i p rest bid grp) :
    (!i.wf || ((s.standers bid grp p).any fun t => t.inHandler)) = false ∧
    s.checkTraps s.nextId i (s.standers bid grp p) = [] ∧
    ((s.standers bid grp p).any fun t => s.verdictAt s.nextId i t == .held) = false ∧
    ((s.standers bid grp p).filter fun t => s.verdictAt s.nextId i t == .go) = s.parts i p bid grp ∧
    (∃ t0 r, s.parts i p bid grp = t0 :: r ∧ t0.bid = bid) ∧ ∀ t ∈ s.parts i p bid grp, t.bid = bid := by
  obtain ⟨_, _, hf, hr, hs, ha⟩ := h
  obtain ⟨t1, h1, hg1⟩ := List.any_eq_true.1 ha
  have hv : ∀ t ∈ s.standers bid grp p, s.verdictAt s.nextId i t = if t.pred i.guard then .go else .skip := fun t ht =>
    verdictAt_of_runs (hr t ht)
  have hb : ∀ t ∈ s.parts i p bid grp, t.bid = bid := fun t ht => bid_of_standers (List.mem_filter.1 ht).1
  refine ⟨?_, ?_, ?_, ?_, ?_, hb⟩
  · rw [(hr t1 h1).1, standers_outside hf]
    rfl
  · unfold State.checkTraps
    rw [List.filterMap_eq_nil_iff]
    intro t ht
    rw [hv t ht]
    cases t.pred i.guard <;> rfl
  · rw [List.any_eq_false]
    intro t ht
    rw [hv t ht]
    cases t.pred i.guard <;> decide
  · apply List.filter_congr
    intro t ht
    rw [hv t ht]
    cases t.pred i.guard <;> rfl
  · have hm : t1 ∈ s.parts i p bid grp := List.mem_filter.2 ⟨h1, hg1⟩
    cases hp : s.parts i p bid grp with
    | nil => rw [hp] at hm; cases hm
    | cons t0 r => exact ⟨t0, r, rfl, hb t0 (by rw [hp]; exact List.mem_cons_self ..)⟩

/-- A collective's issue by one group, where the meaning answers a state. -/
theorem together_ok {s s2 : State} {i : Instr} {f : Nat → State → Nat → Nat → List Thread → GRes} {p : IssueSet} {rest : List IssueSet}
    {bid grp : Nat} (h : s.Gathers i p rest bid grp) (hf : f s.nextId s.numbered bid grp (s.parts i p bid grp) = .ok s2) (h2 : s2.Solo bid) :
    s.together i f = .next (((s2.advanceGroup i p.pc bid grp (s.standers bid grp p)).counted i bid grp s.nextId).endIssue rest) := by
  obtain ⟨f1, f2, f3, f4, ⟨t0, r0, f5, f6⟩, f7⟩ := gathers_facts h
  obtain ⟨hp, hg, hfi, -, hs, -⟩ := h
  have hs0 : s.numbered.Solo t0.bid := by rw [f6]; exact hs
  have ho : Run.group i s.nextId p (f s.nextId) { s := s.numbered, raised := [], went := [], mirrored := [] } (bid, grp) =
      { s := s2.advanceGroup i p.pc bid grp (s.standers bid grp p), raised := [], went := [(bid, grp)], mirrored := [] } := by
    unfold Run.group
    simp only [show s.numbered.standers bid grp p = s.standers bid grp p from rfl, verdictAt_numbered,
      show s.numbered.fires bid grp p = s.fires bid grp p from rfl,
      show s.numbered.checkTraps s.nextId i (s.standers bid grp p) = s.checkTraps s.nextId i (s.standers bid grp p) from rfl, f1, f2, f3, f4, hfi]
    rw [f5] at hf f7
    simp only [f5, pairAct_solo hs0, hf, foldl_forward_each_solo h2 (t0 :: r0) f7]
    rfl
  unfold State.together
  split
  · rename_i e
    rw [hp] at e
    cases e
  · rename_i q r e
    rw [hp] at e
    cases e
    rw [hg]
    show Host.Outcome.next (((Run.count i s.nextId (Run.group i s.nextId p (f s.nextId)
      { s := s.numbered, raised := [], went := [], mirrored := [] } (bid, grp))).raiseAll (Run.group i s.nextId p (f s.nextId)
      { s := s.numbered, raised := [], went := [], mirrored := [] } (bid, grp)).raised).endIssue rest) = _
    rw [ho]
    refine congrArg (fun x : State => (Host.Outcome.next (x.endIssue rest) : Res)) ?_
    show Run.count i s.nextId { s := _, raised := [], went := [(bid, grp)], mirrored := [] } = _
    unfold Run.count State.counted
    cases i.counter <;> rfl

/-- The same where the group waits in the instruction. -/
theorem together_park {s s2 : State} {i : Instr} {f : Nat → State → Nat → Nat → List Thread → GRes} {p : IssueSet} {rest : List IssueSet}
    {bid grp : Nat} (h : s.Gathers i p rest bid grp) (hf : f s.nextId s.numbered bid grp (s.parts i p bid grp) = .park s2) :
    s.together i f = .next (s2.endIssue rest) := by
  obtain ⟨f1, f2, f3, f4, ⟨t0, r0, f5, f6⟩, f7⟩ := gathers_facts h
  obtain ⟨hp, hg, hfi, -, hs, -⟩ := h
  have hs0 : s.numbered.Solo t0.bid := by rw [f6]; exact hs
  have ho : Run.group i s.nextId p (f s.nextId) { s := s.numbered, raised := [], went := [], mirrored := [] } (bid, grp) =
      { s := s2, raised := [], went := [], mirrored := [] } := by
    unfold Run.group
    simp only [show s.numbered.standers bid grp p = s.standers bid grp p from rfl, verdictAt_numbered,
      show s.numbered.fires bid grp p = s.fires bid grp p from rfl,
      show s.numbered.checkTraps s.nextId i (s.standers bid grp p) = s.checkTraps s.nextId i (s.standers bid grp p) from rfl, f1, f2, f3, f4, hfi]
    rw [f5] at hf
    simp only [f5, pairAct_solo hs0, hf]
    rfl
  unfold State.together
  split
  · rename_i e
    rw [hp] at e
    cases e
  · rename_i q r e
    rw [hp] at e
    cases e
    rw [hg]
    show Host.Outcome.next (((Run.count i s.nextId (Run.group i s.nextId p (f s.nextId)
      { s := s.numbered, raised := [], went := [], mirrored := [] } (bid, grp))).raiseAll (Run.group i s.nextId p (f s.nextId)
      { s := s.numbered, raised := [], went := [], mirrored := [] } (bid, grp)).raised).endIssue rest) = _
    rw [ho]
    refine congrArg (fun x : State => (Host.Outcome.next (x.endIssue rest) : Res)) ?_
    unfold Run.count
    cases i.counter <;> rfl

/-- A collective's own check that fails: its traps reach their participants, and nothing else happens. -/
theorem together_trap {s : State} {i : Instr} {f : Nat → State → Nat → Nat → List Thread → GRes} {p : IssueSet} {rest : List IssueSet}
    {bid grp : Nat} {l : List (ThreadKey × TrapInfo)} (h : s.Gathers i p rest bid grp) (hf : f s.nextId s.numbered bid grp (s.parts i p bid grp) = .trap l)
    (hm : ∀ t r, s.parts i p bid grp = t :: r → t.wait ≠ .matched) : s.together i f = .next (((s.numbered.logLockTrap i bid grp l).raiseAll
      (l.map fun x => { key := x.1, pc := p.pc, resume := p.pc, info := x.2.word })).endIssue rest) := by
  obtain ⟨f1, f2, f3, f4, ⟨t0, r0, f5, f6⟩, f7⟩ := gathers_facts h
  obtain ⟨hp, hg, hfi, -, hs, -⟩ := h
  have hs0 : s.numbered.Solo t0.bid := by rw [f6]; exact hs
  have ho : Run.group i s.nextId p (f s.nextId) { s := s.numbered, raised := [], went := [], mirrored := [] } (bid, grp) =
      { s := s.numbered.logLockTrap i bid grp l, raised := l.map fun x => { key := x.1, pc := p.pc, resume := p.pc, info := x.2.word },
        went := [], mirrored := [] } := by
    unfold Run.group
    simp only [show s.numbered.standers bid grp p = s.standers bid grp p from rfl, verdictAt_numbered,
      show s.numbered.fires bid grp p = s.fires bid grp p from rfl,
      show s.numbered.checkTraps s.nextId i (s.standers bid grp p) = s.checkTraps s.nextId i (s.standers bid grp p) from rfl, f1, f2, f3, f4, hfi]
    have hw : (t0.wait == .matched) = false := by
      have := hm t0 r0 f5
      simp [this]
    rw [f5] at hf
    simp only [f5, pairAct_solo hs0, hf]
    simp [hw]
  unfold State.together
  split
  · rename_i e
    rw [hp] at e
    cases e
  · rename_i q r e
    rw [hp] at e
    cases e
    rw [hg]
    show Host.Outcome.next (((Run.count i s.nextId (Run.group i s.nextId p (f s.nextId)
      { s := s.numbered, raised := [], went := [], mirrored := [] } (bid, grp))).raiseAll (Run.group i s.nextId p (f s.nextId)
      { s := s.numbered, raised := [], went := [], mirrored := [] } (bid, grp)).raised).endIssue rest) = _
    rw [ho]
    refine congrArg (fun x : State => (Host.Outcome.next (State.endIssue x rest) : Res)) ?_
    unfold Run.count
    cases i.counter <;> rfl

end Sys2Proof.Machine
end

