-- ==== Sys2Proof/Tests/Slice0.lean ====
section
/-! SUPPORT. Tests of the model, with expected values from the manual: words written out from its encodings, one step of an
instruction, what is not well-formed, and states that meet the hypotheses of the statements. -/

namespace Sys2Proof.Tests

open Sys2Proof.Machine

/-- Words of arithmetic with their instructions, written out from the encodings (R88, R89, R90). -/
def wordsArithmetic : List (Nat × Instr) := [
  (0x0782020C, .addB32 7 8 4 12), (0x07A2020C, .subB32 7 8 4 12), (0x07C2020C, .addB64 7 8 4 12), (0x07E2020C, .subB64 7 8 4 12),
  (0x0B82020C, .addcB32 7 8 4 12), (0x0BA2020C, .subcB32 7 8 4 12), (0x0BC2020C, .mulLoB32 7 8 4 12),
  (0x0BE2020C, .mulWideZ 7 8 4 12), (0x0F82020C, .mulHiSB32 7 8 4 12), (0x0FA2020C, .mulHiZB32 7 8 4 12),
  (0x0FC2020C, .madLoB32 7 8 4 12), (0x0FE2020C, .mulWideS 7 8 4 12), (0x1382020C, .minSB32 7 8 4 12),
  (0x13A2020C, .maxSB32 7 8 4 12), (0x13C2020C, .minZB32 7 8 4 12), (0x13E2020C, .maxZB32 7 8 4 12),
  (0x1782020C, .shlB32 7 8 4 12), (0x17A2020C, .shrZB32 7 8 4 12), (0x17C2020C, .shrSB32 7 8 4 12),
  (0x17E2020C, .rotB32 7 8 4 12), (0x1B82020C, .shlB64 7 8 4 12), (0x1BA2020C, .shrZB64 7 8 4 12),
  (0x1BC2020C, .shrSB64 7 8 4 12), (0x1BE2020C, .bselB32 7 8 4 12), (0x1F82020C, .andB32 7 8 4 12),
  (0x1FA2020C, .orB32 7 8 4 12), (0x1FC2020C, .xorB32 7 8 4 12), (0x1FE2020C, .andnB32 7 8 4 12), (0x23820200, .popcB32 7 8 4),
  (0x23A20200, .clzB32 7 8 4), (0x23C2020C, .bfxB32 7 8 4 12), (0x23E2020C, .bfiB32 7 8 4 12)]

theorem test_decode_arithmetic : (wordsArithmetic.all fun x => decodeWord x.1 == some x.2) = true := by decide

/-- Words of moves with their instructions, written out from the encodings (R91, R92, R93, R94). -/
def wordsMoves : List (Nat × Instr) := [
  (0x2781020C, .cmpEqB32 7 4 4 12), (0x27A1020C, .cmpNeB32 7 4 4 12), (0x27C1020C, .cmpLtSB32 7 4 4 12),
  (0x27E1020C, .cmpLtZB32 7 4 4 12), (0x2B81020C, .cmpLeSB32 7 4 4 12), (0x2BA1020C, .cmpLeZB32 7 4 4 12),
  (0x2BC1020C, .cmpEqB64 7 4 4 12), (0x2BE1020C, .cmpLtSB64 7 4 4 12), (0x2F81020C, .cmpLtZB64 7 4 4 12),
  (0x2FA2020C, .selB32 7 8 4 12), (0x2FC20200, .movB32 7 8 4), (0x2FE20280, .movSv 7 8 5), (0x67810102, .pand 7 4 2 2),
  (0x67A10102, .por 7 4 2 2), (0x67C10102, .pxor 7 4 2 2), (0x67E10100, .pnot 7 4 2), (0x6B820100, .p2v 7 8 2),
  (0x6BA10200, .v2p 7 4 4), (0x438809F0, .addi 7 8 4 496), (0x478809F0, .addiB64 7 8 4 496), (0x4B88FFFE, .movi 7 8 65534)]

theorem test_decode_moves : (wordsMoves.all fun x => decodeWord x.1 == some x.2) = true := by decide

/-- Words of float with their instructions, written out from the encodings (R114, R115, R116, R117, R118, R121, R127). -/
def wordsFloat : List (Nat × Instr) := [
  (0x3382020C, .fadd 7 8 4 12), (0x33A2020C, .fsub 7 8 4 12), (0x33C2020C, .fmul 7 8 4 12), (0x33E2020C, .ffma 7 8 4 12),
  (0x3782020C, .fmin 7 8 4 12), (0x37A2020C, .fmax 7 8 4 12), (0x37C1020C, .fcmpEq 7 4 4 12), (0x37E1020C, .fcmpLt 7 4 4 12),
  (0x3B81020C, .fcmpLe 7 4 4 12), (0x3BA1020C, .fcmpUn 7 4 4 12), (0x3BC20200, .fabs 7 8 4), (0x3BE20200, .fneg 7 8 4),
  (0x5BE20200, .frnd 7 8 4), (0x63820000, .rdflg 7 8), (0x63A00200, .clrflg 7 4), (0x5F880910, .cvt 7 8 4 1 1 0)]

theorem test_decode_float : (wordsFloat.all fun x => decodeWord x.1 == some x.2) = true := by decide

/-- Words of packed with their instructions, written out from the encodings (R119, R120, R122). -/
def wordsPacked : List (Nat × Instr) := [
  (0x3F82020C, .faddF16x2 7 8 4 12), (0x3FA2020C, .fsubF16x2 7 8 4 12), (0x3FC2020C, .fmulF16x2 7 8 4 12),
  (0x3FE2020C, .ffmaF16x2 7 8 4 12), (0x4F82020C, .faddBf16x2 7 8 4 12), (0x4FA2020C, .fsubBf16x2 7 8 4 12),
  (0x4FC2020C, .fmulBf16x2 7 8 4 12), (0x4FE2020C, .ffmaBf16x2 7 8 4 12), (0x5382020C, .fminF16x2 7 8 4 12),
  (0x53A2020C, .fmaxF16x2 7 8 4 12), (0x53C2020C, .fminBf16x2 7 8 4 12), (0x53E2020C, .fmaxBf16x2 7 8 4 12),
  (0x57820200, .rcp 7 8 4), (0x57A20200, .rsq 7 8 4), (0x57C20200, .sqrt 7 8 4), (0x57E20200, .exp2 7 8 4),
  (0x5B820200, .log2 7 8 4), (0x5BA20200, .sin 7 8 4), (0x5BC20200, .cos 7 8 4), (0x63C2020C, .fdot2F16 7 8 4 12),
  (0x63E2020C, .fdot2Bf16 7 8 4 12)]

theorem test_decode_packed : (wordsPacked.all fun x => decodeWord x.1 == some x.2) = true := by decide

/-- Words of memory with their instructions, written out from the encodings (R141, R144, R145, R146, R150, R151, R71). -/
def wordsMemory : List (Nat × Instr) := [
  (0x7382020C, .atomMinS 7 8 4 12), (0x73A2020C, .atomMinZ 7 8 4 12), (0x73C2020C, .atomMaxS 7 8 4 12),
  (0x73E2020C, .atomMaxZ 7 8 4 12), (0x7780020C, .redAdd 7 4 12), (0x77A0020C, .redAddB64 7 4 12), (0x77C0020C, .redFadd 7 4 12),
  (0x77E0020C, .redFadd2c 7 4 12), (0x7B80020C, .redMinS 7 4 12), (0x7BA0020C, .redMaxS 7 4 12), (0x7BC0020C, .redAnd 7 4 12),
  (0x7BE0020C, .redOr 7 4 12), (0xBB82020C, .atomAdd 7 8 4 12), (0xBBA2020C, .atomAddB64 7 8 4 12),
  (0xBBC2020C, .atomExch 7 8 4 12), (0xBBE2020C, .atomExchB64 7 8 4 12), (0xBF82020C, .atomCas 7 8 4 12),
  (0xBFA2020C, .atomCasB64 7 8 4 12), (0xBFC2020C, .atomFadd 7 8 4 12), (0xBFE2020C, .atomFadd2c 7 8 4 12),
  (0xA38808A5, .ld 7 8 4 2 2 5), (0xA78808A5, .st 7 8 4 2 2 5), (0xAB8808E5, .ldAcq 7 8 4 1 2 5),
  (0xAF8808E5, .stRel 7 8 4 1 2 5), (0xB3880885, .ldC 7 8 4 2 5), (0xB7800825, .pref 7 4 2 5)]

theorem test_decode_memory : (wordsMemory.all fun x => decodeWord x.1 == some x.2) = true := by decide

/-- Words of collective with their instructions, written out from the encodings (R133, R134, R135, R136, R158, R159, R160, R156). -/
def wordsCollective : List (Nat × Instr) := [
  (0x9382020C, .xlaneAt 7 8 4 12), (0x93A2020C, .xlaneBack 7 8 4 12), (0x93C2020C, .xlaneFwd 7 8 4 12),
  (0x93E2020C, .xlaneFlip 7 8 4 12), (0x97810100, .voteAll 7 4 2), (0x97A10100, .voteAny 7 4 2), (0x97C20100, .ballot 7 8 2),
  (0x97E20200, .matchV 7 8 4), (0x9B820200, .gredAdd 7 8 4), (0x9BA20200, .gredMinS 7 8 4), (0x9BC20200, .gredMinZ 7 8 4),
  (0x9BE20200, .gredMaxS 7 8 4), (0x9F820200, .gredMaxZ 7 8 4), (0x9FA20200, .gredFadd 7 8 4), (0x9FC20200, .gscanAdd 7 8 4),
  (0x9FE10000, .elect 7 4), (0xE3810201, .llock 7 4 4 1), (0xE3A00200, .lunlock 7 4), (0xE3C10200, .ltry 7 4 4),
  (0xE3E20200, .lstat 7 8 4)]

theorem test_decode_collective : (wordsCollective.all fun x => decodeWord x.1 == some x.2) = true := by decide

/-- Words of copy with their instructions, written out from the encodings (R174, R176, R179, R180, R182). -/
def wordsCopy : List (Nat × Instr) := [
  (0x7F820216, .cpLaneB32 7 8 4 5 1 0), (0x7FA20216, .cpLaneB64 7 8 4 5 1 0), (0x7FC20216, .cpLaneB128 7 8 4 5 1 0),
  (0x7FE2020C, .cpBin 7 8 4 12), (0xEF800040, .cpBulk 7 4), (0xEF811040, .cpMcast 7 8 4), (0xEF820404, .cpBind 7 2),
  (0xEF820000, .cpBindNone 7)]

theorem test_decode_copy : (wordsCopy.all fun x => decodeWord x.1 == some x.2) = true := by decide

/-- Words of fabric with their instructions, written out from the encodings (R196, R197, R198, R199, R200, R201). -/
def wordsFabric : List (Nat × Instr) := [
  (0xF788C20C, .fst 7 1 3 4 12), (0xF7A2020B, .fld 7 8 4 1 3), (0xF7C20223, .fatom 7 8 4 4 3), (0xF7E8C20C, .fwclose 7 1 3 4 12),
  (0xEF90100C, .fwopen 7 8 3), (0xEF901020, .fwopenFree 7 8), (0xEF91100C, .fwstat 7 8 3), (0xEF921010, .vdnq 7 8 4)]

theorem test_decode_fabric : (wordsFabric.all fun x => decodeWord x.1 == some x.2) = true := by decide

/-- Words of control with their instructions, written out from the encodings (R96, R99, R100, R101, R102, R103, R104, R105, R106, R107, R109, R170). -/
def wordsControl : List (Nat × Instr) := [
  (0x83800005, .bra 7 5), (0x87800005, .call 7 5), (0x8F800005, .jfence 7 5), (0xEB862862, .wait 7 3 5 3 2),
  (0x8B800000, .nop 7), (0x8B810010, .jmp 7 4), (0x8B821010, .calli 7 8 4), (0x8B830010, .ret 7 4), (0x8B840000, .exit 7),
  (0x8B850000, .yield 7), (0x8B861000, .brk 7 8), (0x8B882600, .wbase 7 1 3), (0x8B890008, .regacq 7 2),
  (0x8B8A0808, .regacqTry 7 4 2), (0x8B8B0008, .regrel 7 2), (0x8B901010, .spawn 7 8 4), (0x8B980A10, .cfetch 7 5 4)]

theorem test_decode_control : (wordsControl.all fun x => decodeWord x.1 == some x.2) = true := by decide

/-- Words of barrier with their instructions, written out from the encodings (R154, R165, R167, R169). -/
def wordsBarrier : List (Nat × Instr) := [
  (0xE7801400, .fence 7 1 2), (0xE7810410, .barInit 7 2 4), (0xE7820410, .barExpect 7 2 4), (0xE7831008, .barArrive 7 8 2),
  (0xE7840410, .barWait 7 2 4), (0xE7850400, .barSync 7 2), (0xE7860608, .barTest 7 3 2), (0xE78810D4, .hbarArrive 7 8 3 5),
  (0xE78910D4, .hbarWait 7 8 3 5)]

theorem test_decode_barrier : (wordsBarrier.all fun x => decodeWord x.1 == some x.2) = true := by decide

/-- Words of matrix with their instructions, written out from the encodings (R183, R186, R68, R69, R187, R188, R189, R190, R191, R192, R194). -/
def wordsMatrix : List (Nat × Instr) := [
  (0xC382A255, .mmaF16 7 1 1 2 9 21), (0xC782A255, .mmaBf16 7 1 1 2 9 21), (0xCB82A255, .mmaE4m3 7 1 1 2 9 21),
  (0xCF82A255, .mmaE4m3e5m2 7 1 1 2 9 21), (0xD382A255, .mmaE5m2 7 1 1 2 9 21), (0xD782A255, .mmaS8 7 1 1 2 9 21),
  (0xDB82A255, .mmaE2m1 7 1 1 2 9 21), (0xDF82A255, .mmaBf16s4 7 1 1 2 9 21), (0xF3800810, .tclaim 7 4 4),
  (0xF3810010, .trel 7 4), (0xF3820A40, .tfill 7 5 4), (0xF3830A40, .tfillDq 7 5 4), (0xF3880A08, .azero 7 5 2),
  (0xF3890A10, .aload 7 5 4), (0xF38A0A40, .tdrain 7 5 4), (0xF38B0A40, .tdrainAdd 7 5 4), (0xF3900010, .gang 7 4),
  (0xF3910040, .pcfg 7 4), (0xF392100C, .mstat 7 8 1 1)]

theorem test_decode_matrix : (wordsMatrix.all fun x => decodeWord x.1 == some x.2) = true := by decide

/-- Words of system with their instructions, written out from the encodings (R202, R203, R204, R205, R206, R207, R208). -/
def wordsSystem : List (Nat × Instr) := [
  (0xEFA00000, .ckpt 7), (0xEFA11000, .ckstat 7 8), (0xEFA20800, .ckrole 7 4), (0xFB800000, .tret 7),
  (0xFB800210, .tretAddr 7 4), (0xFB811008, .trd 7 8 2), (0xFB881010, .srd 7 8 4), (0xFB891010, .swr 7 8 4),
  (0xFB900000, .cinvL1 7), (0xFB910000, .cinvC 7), (0xFB921010, .cwbMere 7 8 4), (0xFB981010, .mtrd 7 8 4),
  (0xFB991010, .evcfg 7 8 4), (0xFB9A1010, .evrd 7 8 4), (0xFBA01010, .lklog 7 8 4), (0xFBB00010, .kinj 7 4)]

theorem test_decode_system : (wordsSystem.all fun x => decodeWord x.1 == some x.2) = true := by decide

/-! The state of a test: one thread stands at a word. -/

/-- The machine after reset with one word placed for the first step. -/
def probe (w : Nat) : State := State.reset.withFetchWord 32 w

/-- The same with the two words of a `lim` pair. -/
def probePair (h w : Nat) : State := State.reset.withFetchWord 64 (h + 2 ^ 32 * w)

def key0 : ThreadKey := { bid := 1, tid := 0 }

/-- The first thread. -/
def thr (s : State) : Thread := s.threads.headD (newThread 0 0 0 0 0 0 0)

/-- The first issue set. -/
def set0 (s : State) : IssueSet := s.ports.headD { core := 0, port := .a, pc := 0, members := [] }

/-- The state after a step, the same state where there is none. -/
def after (s : State) : State :=
  match step s with
  | .next t => t
  | _ => s

/-- With values in registers. -/
def withRegs (l : List (Nat × Nat)) (s : State) : State := s.updThread key0 fun t => l.foldl (fun t x => t.setReg x.1 x.2) t

/-- With a change to the thread. -/
def withThread (f : Thread → Thread) (s : State) : State := s.updThread key0 f

/-- With a change to the group. -/
def withGroup (f : Group → Group) (s : State) : State := s.updGroup 1 0 f

/-- With a scratchpad and barrier registers. -/
def withShare (s : State) : State :=
  { s.updBlock 1 fun b => { b with share := 4096 } with launches := s.launches.map fun l => { l with record := { l.record with barriers := 0x0010 } } }

/-- With two VDNs, 0 of this device and 1 of device 2, a fibre to it, and the page at 0x100000 a page of the peer. -/
def withPeer (s : State) : State :=
  { (((s.setSys 0x1200 0x21).setSys 0x1201 0x00020021).setSys 0x0DA0 0xFFFFFFFF) with
    tlb := [{ unit := 0, vmid := 0, asid := 0, vpage := 256, size := 12, ipage := 0x40000, w := true, x := false, k := false,
              tgt := .peer 1 0x40000 }] }

/-- With the page at 0x100000 a page of the host window. -/
def withHost (s : State) : State :=
  { s with tlb := [{ unit := 0, vmid := 0, asid := 0, vpage := 256, size := 12, ipage := 0x50000, w := true, x := false, k := false,
                     tgt := .host 0x50000 }] }

/-! Checks of the hypotheses that many statements share. -/

def runsB (s : State) (i : Instr) (t : Thread) : Bool :=
  i.wf && (i.level != .handler || t.inHandler) && (!i.collective || !t.inHandler) && levelAllows (s.levelOf t.bid) i.level &&
  s.ready s.nextId t i && (!t.pred i.guard || t.covers i)

theorem runs_of {s : State} {i : Instr} {t : Thread} (h : runsB s i t = true) : s.Runs i t := by
  simp only [runsB, Bool.and_eq_true, Bool.or_eq_true, Bool.not_eq_true', bne_iff_ne] at h
  obtain ⟨⟨⟨⟨⟨h1, h2⟩, h3⟩, h4⟩, h5⟩, h6⟩ := h
  exact ⟨h1, fun e => h2.resolve_left fun k => k e, fun e => h3.resolve_left (by simp [e]), h4, h5, fun e => h6.resolve_left (by simp [e])⟩

/-- A thread comes to a wait at which it stands. -/
def comesB (s : State) (i : Instr) (t : Thread) : Bool :=
  (match s.fetchFor t with
    | .ok j => j == i
    | _ => false) && t.wait == .none && !s.trapsFirst t i && s.awake t && !t.busyP.contains i.guard && t.pred i.guard && !t.interlocked i && t.covers i

theorem comes_of {s : State} {i : Instr} {t : Thread} (h : comesB s i t = true) : s.Comes i t := by
  simp only [comesB, Bool.and_eq_true, beq_iff_eq, Bool.not_eq_true'] at h
  obtain ⟨⟨⟨⟨⟨⟨⟨h1, h2⟩, h3⟩, h4⟩, h5⟩, h6⟩, h7⟩, h8⟩ := h
  refine ⟨?_, h2, h3, h4, h5, h6, h7, h8⟩
  cases hf : s.fetchFor t <;> simp_all

/-- Every thread of the first set runs the instruction. -/
def setRunsB (s : State) (i : Instr) : Bool :=
  s.ports.length == 1 && s.threads.all fun t => !(set0 s).members.contains t.key || runsB s i t

theorem setRuns_of {s : State} {i : Instr} (h : setRunsB s i = true) : s.ports = [set0 s] ∧ s.SetRuns (set0 s) i := by
  simp only [setRunsB, Bool.and_eq_true, beq_iff_eq, List.all_eq_true, Bool.or_eq_true, Bool.not_eq_true'] at h
  obtain ⟨h1, h2⟩ := h
  refine ⟨?_, fun t ht hm => runs_of ((h2 t ht).resolve_left (by rw [hm]; decide))⟩
  obtain ⟨p, hp⟩ := List.length_eq_one_iff.mp h1
  simp [set0, hp]

def aloneB (s : State) (i : Instr) : Bool :=
  let t := thr s
  s.ports.length == 1 && (set0 s).members == [key0] && s.threads == [t] && t.key == key0 && runsB s i t && t.pred i.guard &&
  (s.block? 1).all fun b => b.role == .solo

theorem alone_of {s : State} {i : Instr} (h : aloneB s i = true) : s.Alone i key0 (thr s) [] := by
  simp only [aloneB, Bool.and_eq_true, beq_iff_eq, Option.all_eq_true] at h
  obtain ⟨⟨⟨⟨⟨⟨h1, h2⟩, h3⟩, h4⟩, h5⟩, h6⟩, h7⟩ := h
  obtain ⟨p, hp⟩ := List.length_eq_one_iff.mp h1
  have hm : p.members = [key0] := by simpa [set0, hp] using h2
  have hb : (thr s).bid = 1 := congrArg ThreadKey.bid h4
  have hone : ∀ u ∈ s.threads, u = thr s := by intro u hu; rw [h3] at hu; simpa using hu
  refine ⟨⟨⟨p, hp, hm⟩, ?_, runs_of h5, h6, fun b hb2 => h7 b (by rw [← hb]; exact hb2)⟩, fun u hu _ => hone u hu⟩
  rw [State.thread?, h3]
  simp [h4]

def gathersB (s : State) (i : Instr) : Bool :=
  let p := set0 s
  s.ports.length == 1 && s.groupsOf p == [(1, 0)] && s.fires 1 0 p && (s.standers 1 0 p).all (fun t => runsB s i t) &&
  ((s.block? 1).all fun b => b.role == .solo) && (s.standers 1 0 p).any fun t => t.pred i.guard

theorem gathers_of {s : State} {i : Instr} (h : gathersB s i = true) : s.Gathers i (set0 s) [] 1 0 := by
  simp only [gathersB, Bool.and_eq_true, beq_iff_eq, List.all_eq_true, Option.all_eq_true] at h
  obtain ⟨⟨⟨⟨⟨h1, h2⟩, h3⟩, h4⟩, h5⟩, h6⟩ := h
  obtain ⟨p, hp⟩ := List.length_eq_one_iff.mp h1
  exact ⟨by simp [set0, hp], h2, h3, fun t ht => runs_of (h4 t ht), fun b hb => h5 b hb, h6⟩

/-- With the launch of management firmware. -/
def withMgmt (s : State) : State := { s with launches := s.launches.map fun l => { l with mgmt := true } }

/-! States for `Performs` and `GathersTo`: every word above stands ready to issue, but those of a trap handler. -/

def placed (x : Nat × Instr) : State :=
  let s := withThread (fun t => { t with inHandler := x.2.level == .handler }) (probe x.1)
  if x.2.level == .management then withMgmt s else s

def ready (x : Nat × Instr) : Bool := setRunsB (placed x) x.2 && aloneB (placed x) x.2

theorem witness_set_arithmetic : (wordsArithmetic.all ready) = true := by decide

theorem witness_set_moves : (wordsMoves.all ready) = true := by decide

theorem witness_set_float : (wordsFloat.all ready) = true := by decide

theorem witness_set_packed : (wordsPacked.all ready) = true := by decide

theorem witness_set_memory : (wordsMemory.all ready) = true := by decide

theorem witness_set_copy : (wordsCopy.all ready) = true := by decide

theorem witness_set_fabric : (wordsFabric.all ready) = true := by decide

theorem witness_set_control : (wordsControl.all ready) = true := by decide

theorem witness_set_barrier : (wordsBarrier.all ready) = true := by decide

theorem witness_set_matrix : (wordsMatrix.all ready) = true := by decide

theorem witness_set_system : (wordsSystem.all ready) = true := by decide

theorem witness_set_collective : (wordsCollective.all fun x => setRunsB (probe x.1) x.2 && (!x.2.collective || gathersB (probe x.1) x.2)) = true := by decide

/-- What the checks say: the hypotheses of `Performs`, and those of a statement about one thread. -/
theorem set_of_ready {l : List (Nat × Instr)} (h : l.all ready = true) (x : Nat × Instr) (hx : x ∈ l) :
    ((placed x).ports = [set0 (placed x)] ∧ (placed x).SetRuns (set0 (placed x)) x.2) ∧ (placed x).Alone x.2 key0 (thr (placed x)) [] := by
  have k := List.all_eq_true.mp h x hx
  simp only [ready, Bool.and_eq_true] at k
  exact ⟨setRuns_of k.1, alone_of k.2⟩

/-- One thread alone at an instruction, with a condition on the state and the thread. -/
def caseB (s : State) (i : Instr) (ok : State → Thread → Bool) : Bool := aloneB s i && ok s (thr s)

theorem case_of {s : State} {i : Instr} {ok : State → Thread → Bool} (h : caseB s i ok = true) :
    s.Alone i key0 (thr s) [] ∧ ok s (thr s) = true := by
  simp only [caseB, Bool.and_eq_true] at h
  exact ⟨alone_of h.1, h.2⟩

/-- A thread at a `nop`, its block and its launch. -/
def at0 : State := probe 0x8B800000

/-! A state and operands for the hypotheses of each clause, at the boundary where a clause has one. -/

theorem witness_BitFields : (3 : Nat) < 4 ∧ (1 = min (bits 0x11F01 7 0) 32 ∧ 31 = min (bits 0x11F01 15 8) (32 - 1)) ∧
    (32 = min (bits 0xFFFF 7 0) 32 ∧ 0 = min (bits 0xFFFF 15 8) (32 - 32)) ∧ (31 : Nat) < 32 := by decide

theorem witness_FloatMinMaxCompareSign :
    let v := Fmt.fp32.decode
    (v 0x3F800000).isNan = false ∧ (v 0x40000000).isNan = false ∧ (v 0x3F800000).lt (v 0x40000000) = true ∧ (v 0x7FC00000).isNan = true ∧
    0x7FC00000 < 2 ^ 32 := by decide

theorem witness_ConversionAndRounding : (0 : Nat) < 1 := by decide

/-- Landed and absent targets of `bra`, `call` and `jfence`: 20 bytes and 4 MiB ahead. -/
theorem witness_DirectTransfers :
    ([Instr.bra 7 5, .call 7 5, .jfence 7 5].all fun i => caseB at0 i fun s t => s.landed t (t.pc + BitVec.ofInt 64 (4 * sgn 23 5))) = true ∧
    ([Instr.bra 7 0x100000, .call 7 0x100000, .jfence 7 0x100000].all fun i =>
      caseB at0 i fun s t => !s.landed t (t.pc + BitVec.ofInt 64 (4 * sgn 23 0x100000))) = true := by decide

/-- An aligned landed address, a misaligned one and an absent one. -/
theorem witness_IndirectTransfers :
    ([Instr.jmp 7 4, .ret 7 4, .calli 7 8 4].all fun i =>
      caseB (withRegs [(4, 4092)] at0) i (fun s t => (t.addr 4).toNat % 4 = 0 && s.landed t (t.addr 4)) &&
      caseB (withRegs [(4, 4094)] at0) i (fun _ t => (t.addr 4).toNat % 4 ≠ 0) &&
      caseB (withRegs [(4, 4096)] at0) i (fun s t => (t.addr 4).toNat % 4 = 0 && !s.landed t (t.addr 4))) = true := by decide

/-- `wbase` at the edges of the allocation, which has 8 blocks, with `brk` and `exit`. -/
theorem witness_ThreadControl :
    caseB at0 (.wbase 7 0 7) (fun _ t => decide (0 ≤ (7 : Int) ∧ (7 : Int) < t.nb)) = true ∧
    caseB at0 (.wbase 7 0 8) (fun _ t => decide (¬ (0 ≤ (8 : Int) ∧ (8 : Int) < t.nb))) = true ∧
    caseB at0 (.wbase 7 1 15) (fun _ t => decide (t.wb + sgn 4 15 < 0)) = true ∧
    aloneB at0 (.brk 7 100) = true ∧ aloneB at0 (.exit 7) = true := by decide

/-- 16 blocks and 17, free blocks of the lane and a request that queues on it, releases that keep a block and the window and not. -/
theorem witness_RegisterBlocks :
    let queued : State := at0.setCore 0 { at0.core 0 with regq := [(0, { bid := 9, tid := 9 }, 1)] }
    let free (s : State) (t : Thread) (n : Nat) : Bool := (s.core 0).regq.all (fun r => r.1 != t.lane) && decide (n ≤ s.freeRegs 0 t.lane)
    (at0.block? 1).isSome = true ∧
    ([Instr.regacq 7 8, .regacqTry 7 3 8].all fun i => caseB at0 i (fun s t => decide (t.nb + 8 ≤ 16) && free s t 8) &&
      caseB queued i (fun s t => decide (t.nb + 8 ≤ 16) && !free s t 8)) = true ∧
    ([Instr.regacq 7 9, .regacqTry 7 3 9].all fun i => caseB at0 i fun _ t => decide (16 < t.nb + 9)) = true ∧
    caseB at0 (.regrel 7 7) (fun _ t => decide (7 + 1 ≤ t.nb ∧ t.wb < t.nb - 7)) = true ∧
    caseB at0 (.regrel 7 8) (fun _ t => decide (¬ (8 + 1 ≤ t.nb ∧ t.wb < t.nb - 8))) = true := by decide

/-- Entries aligned and not, a granule that the core has and one that it lacks, segment 63 with a handler, and every special value. -/
theorem witness_SpawnFetchSpecial :
    let hand : State := { at0 with launches := at0.launches.map fun l => { l with record := { l.record with handler := 64 } } }
    let fetches (s : State) (t : Thread) : Bool := (match s.resolve (s.envOf t.bid) .cfetch (t.addr 4) 4096 with
      | .ok _ => true
      | .error _ => false)
    (at0.block? 1).any (fun b => (at0.launch? b.lid).isSome) = true ∧
    caseB (withRegs [(4, 64)] at0) (.spawn 7 8 4) (fun s t => (t.addr 4).toNat % 4 = 0 && (s.core 0).poolTakes 1 (t.addr 4)) = true ∧
    caseB (withRegs [(4, 65)] at0) (.spawn 7 8 4) (fun _ t => (t.addr 4).toNat % 4 ≠ 0) = true ∧
    caseB (withRegs [(4, 4095)] at0) (.cfetch 7 5 4) (fun _ t => (t.addr 4).toNat % 4096 ≠ 0) = true ∧
    caseB (withRegs [(4, 4096)] hand) (.cfetch 7 63 4) (fun s t => (t.addr 4).toNat % 4096 = 0 && s.launches.all fun l => l.record.handler != 0) = true ∧
    caseB (withRegs [(4, 4096)] at0) (.cfetch 7 63 4) (fun s t => fetches s t && s.launches.all fun l => ((s.core 0).segFor l 1).isNone) = true ∧
    caseB at0 (.cfetch 7 5 4) (fun s t => fetches s t && s.launches.all fun l => ((s.core 0).segFor l 0).any fun x => x.2.reader.isNone) = true ∧
    caseB { at0 with cores := at0.cores.map fun c => (c.1, { c.2 with segs := c.2.segs.map fun x => (x.1, { x.2 with reader := some 9 }) }) } (.cfetch 7 5 4)
      (fun s t => fetches s t && s.launches.all fun l => ((s.core 0).segFor l 0).any fun x => x.2.reader.isSome) = true ∧
    ((List.range 9).all fun n => aloneB at0 (.movSv 7 8 (BitVec.ofNat 7 n))) = true := by decide

theorem witness_VotesAndReductions : [thr at0] ≠ [] := by decide

/-- Where a check leads, or the cause of its trap. -/
def leads (x : Except TrapInfo Target) : Option Target × Nat :=
  match x with
  | .ok t => (some t, 0)
  | .error e => (none, e.cause.code)

/-- Local memory at 0x8000; the page of a peer; 16 bytes of the host window; a misaligned address. -/
theorem witness_LoadsIssue :
    let i : List Instr := [.ld 7 8 4 2 1 0, .ldAcq 7 8 4 0 1 0, .lstat 7 8 4]
    let s := withRegs [(4, 0x8000)] at0
    let peer := withPeer (withRegs [(4, 0x100000)] at0)
    (i.all fun x => caseB s x fun s t => leads (s.check (s.envOf t.bid) .ld (t.addr 4) 4 4) == (some (.loc 0x8000), 0)) = true ∧
    (i.all fun x => caseB peer x fun s t => leads (s.check (s.envOf t.bid) .ld (t.addr 4) 4 4) == (some (.peer 1 0x40000), 0) &&
      ((s.numbered.requestFor t s.nextId 1 0x40000 (t.addr 4) (.ld 4) [8] 0 none false).any fun u => (u.block? 1).all fun b => b.role == .solo)) = true ∧
    (i.all fun x => caseB (withRegs [(4, 0x8002)] at0) x fun s t => leads (s.check (s.envOf t.bid) .ld (t.addr 4) 4 4) == (none, 3)) = true ∧
    caseB (withHost (withRegs [(4, 0x100000)] at0)) (.ld 7 8 4 4 1 0)
      (fun s t => leads (s.check (s.envOf t.bid) .ld (t.addr 4) 16 16) == (some (.host 0x50000), 0)) = true ∧
    -- a constant page
    caseB { s with tlb := [{ unit := 0, vmid := 0, asid := 0, vpage := 8, size := 12, ipage := 0x8000, w := false, x := false, k := true,
                             tgt := .loc 0x8000 }] } (.ldC 7 8 4 2 0)
      (fun s t => leads (s.check (s.envOf t.bid) .ldc (t.addr 4) 4 4) == (some (.loc 0x8000), 0)) = true := by decide

theorem witness_StoresIssue :
    ([Instr.st 7 8 4 2 1 0, .stRel 7 8 4 0 1 0].all fun x =>
      caseB (withRegs [(4, 0x8000)] at0) x (fun s t => leads (s.check (s.envOf t.bid) .st (t.addr 4) 4 4) == (some (.loc 0x8000), 0)) &&
      caseB (withRegs [(4, 0x8001)] at0) x (fun s t => leads (s.check (s.envOf t.bid) .st (t.addr 4) 4 4) == (none, 3))) = true ∧
    caseB (withHost (withRegs [(4, 0x100000)] at0)) (.st 7 8 4 4 1 0)
      (fun s t => leads (s.check (s.envOf t.bid) .st (t.addr 4) 16 16) == (some (.host 0x50000), 0)) = true ∧
    caseB (withRegs [(4, 0x8040)] at0) (.pref 7 4 1 0) (fun _ t => (t.addr 4).toNat % 128 == 64) = true ∧
    caseB (withRegs [(5, 0x00100000)] at0) (.pref 7 4 1 0) (fun s t => leads (s.resolve (s.envOf t.bid) .ld (t.addr 4) 1) == (none, 4)) = true ∧
    caseB (withRegs [(4, 0x8000)] at0) (.pref 7 4 1 0) (fun s t => (t.addr 4).toNat % 128 == 0 &&
      leads (s.resolve (s.envOf t.bid) .ld (t.addr 4) 1) == (some (.loc 0x8000), 0)) = true := by
  decide

theorem witness_AtomicsIssue :
    ([(Instr.atomAdd 7 8 4 12, Acc.atom, 4), (.redAdd 7 4 12, .red, 4), (.atomCasB64 7 8 4 12, .atom, 8), (.redFadd2c 7 4 12, .red, 16)].all fun x =>
      caseB (withRegs [(4, 0x8000)] at0) x.1 (fun s t => leads (s.check (s.envOf t.bid) x.2.1 (t.addr 4) x.2.2 x.2.2) == (some (.loc 0x8000), 0)) &&
      caseB (withRegs [(4, 0x8002)] at0) x.1 (fun s t => leads (s.check (s.envOf t.bid) x.2.1 (t.addr 4) x.2.2 x.2.2) == (none, 3))) = true := by decide

theorem witness_AtomicValues : (2 ^ 32 - 1 < 2 ^ 32) ∧ ((7 : Nat) = 7) ∧ ((7 : Nat) ≠ 8) := by decide

/-- One step after a word's issue, and the number of what it leaves. -/
def issued (w : Nat) (l : List (Nat × Nat)) : State := after (withRegs l (probe w))

/-- A load in flight; a store and an update at the head of a queue. -/
theorem witness_LoadsReturn :
    let ld := issued 0xA3880880 [(4, 0x8000)]
    let st := issued 0xA7880880 [(4, 0x8000)]
    let at_ := issued 0xBB82020C [(4, 0x8000)]
    (!State.reset.poisoned.any (fun _ => true) && (List.range 8).all fun f => !(State.reset.session f).tracking) = true ∧
    -- nothing queued and nothing leased
    ((ld.loads.all fun l => l.kind == .ld && l.tgt == .loc 0x8000 && ld.l1 == [] && (ld.group? l.bid l.grp).any fun g => g.queue == [])) = true ∧
    (ld.loads.length == 1 && ld.loads.all fun l => (ld.loads.find? fun x => x.id == l.id) == some l && (ld.group? l.bid l.grp).isSome &&
      ld.loadReady l && !ld.poison l.tgt l.n) = true ∧
    ((st.group? 1 0).any fun g => g.queue.length == 1 && g.queue.all fun q => st.headReady g q && !st.poison q.tgt 4 && (match q.kind with
      | .store d => d.length == 4
      | _ => false)) = true ∧
    ((at_.group? 1 0).any fun g => g.queue.length == 1 && g.queue.all fun q => at_.headReady g q && q.tgt == .loc 0x8000 && !at_.poison q.tgt 4 && (match q.kind with
      | .update _ n _ _ _ => n == 4
      | _ => false)) = true := by decide

/-- A group without accesses under way and with one, barrier registers 15 and 16 of 16, each phase. -/
theorem witness_FencesAndBarriers :
    let s := withShare at0
    let busy := withRegs [] { issued 0xA7880880 [(4, 0x8000)] with ports := at0.ports }
    let rel := withThread (fun t => { t with wait := .released [{ bid := 1, grp := 0, tid := 0, before := 5 }] }) s
    caseB at0 (.fence 7 0 3) (fun s t => s.fenceMet t (s.nextId + 1) true) = true ∧ aloneB at0 (.fence 7 2 1) = true ∧
    caseB busy (.fence 7 0 3) (fun s t => !s.fenceMet t (s.nextId + 1) true) = true ∧
    ([Instr.barInit 7 15 4, .barExpect 7 15 4, .barArrive 7 8 15, .barTest 7 3 15, .barSync 7 15].all fun i =>
      caseB s i fun s t => decide (15 < s.nbar t.bid) && !t.isReleased && t.syncTok.isNone && (s.block? 1).any fun b => !(b.bar 15).ph) = true ∧
    caseB (withRegs [(4, 1)] s) (.barWait 7 15 4) (fun s _ => (s.block? 1).any fun b => (s.numbered.arrivedAt b 15).isEmpty) = true ∧
    ([0, 1].all fun x => let s := withRegs [(4, x)] (withShare (probe 0xE7840410))
      comesB s (.barWait 7 2 4) (thr s) && bit ((thr s).reg 4) 0 == (x == 1) && decide (2 < s.nbar 1)) = true ∧
    ([Instr.barWait 7 15 4, .barSync 7 15].all fun i => caseB rel i fun _ t => t.isReleased) = true ∧
    ([Instr.barInit 7 16 4, .barExpect 7 16 4, .barArrive 7 8 16, .barTest 7 3 16, .barWait 7 16 4, .barSync 7 16].all fun i =>
      caseB (withRegs [(4, 1)] s) i fun s t => decide (s.nbar t.bid ≤ 16)) = true := by decide

/-- A register that completes at one arrival, and one that does not. -/
theorem witness_BarrierPhases :
    let s := withShare at0
    let x (evs : List BarEv) : Option Bar := (s.block? 1).map fun b => (sortEvs evs).foldl Bar.apply (b.bar 3)
    (x [.init 0 1, .arrive]).any Bar.completes = true ∧ (x [.init 0 2, .arrive]).any Bar.completes = false ∧ (s.block? 1).isSome = true := by decide

/-- A `.die` barrier 0 of one, with this block its member, before and after its arrival, in both phases. -/
theorem witness_HierarchyBarriers :
    let grantOf (x : State) (ph : Bool) (a : List Nat) : State := { x with launches := x.launches.map fun l => { l with
      record := { l.record with barriers := 0x40 },
      hbars := [{ level := 3, inst := 0, idx := 0, phase := ph, members := [0], arrived := a, reports := [], early := [], told := false, toldGone := false, gone := [], before := [] }] } }
    let grant := grantOf at0
    let has (s : State) (ph : Bool) (a : Bool) : Bool := s.launches.all fun l => l.granted 3 == 1 && (l.hbarOf 3 0 0).any fun h =>
      h.phase == ph && h.arrived.contains 0 == a
    ([Instr.hbarArrive 7 8 3 1, .hbarWait 7 8 3 1].all fun i => caseB (withRegs [(8, 1)] (grant false [])) i fun s _ => s.launches.all fun l => decide (l.granted 3 ≤ 1)) = true ∧
    caseB { at0 with launches := at0.launches.map fun l => { l with record := { l.record with barriers := 0x040000 }, hbars := [
        { level := 6, inst := 0, idx := 0, phase := false, members := [0], arrived := [], reports := [], early := [], told := false, toldGone := false, gone := [], before := [] }] } }
      (.hbarArrive 7 8 6 0) (fun s _ => s.launches.all fun l => decide (0 < l.granted 6) && (l.hbarOf 6 0 0).isSome && (s.ownVdn l.f).isNone) = true ∧
    caseB (grant false []) (.hbarArrive 7 8 3 0) (fun s _ => has s false false) = true ∧
    caseB (withRegs [(8, 1)] (grant false [0])) (.hbarWait 7 8 3 0) (fun s _ => has s false true && s.launches.all fun l => (l.hbarOf 3 0 0).any fun h =>
      (s.numbered.still h.before).isEmpty) = true ∧
    ([0, 1].all fun x => let s := withRegs [(8, x)] (grantOf (probe 0xE78910C0) false [])
      comesB s (.hbarWait 7 8 3 0) (thr s) && bit ((thr s).reg 8) 0 == (x == 1) && has s false false) = true := by decide

/-- A thread alone at a collective that its group fires, with a condition. -/
def groupB (s : State) (i : Instr) (ok : State → Thread → Group → Bool) : Bool :=
  gathersB s i && s.parts i (set0 s) 1 0 == [thr s] && (s.group? 1 0).any fun g => ok s (thr s) g

/-- A line at 0x8000: nothing held, four held, one held below it, one held at it; no line and a line of another for `lunlock`. -/
theorem witness_LineLocks :
    let line (a : Nat) : State := withRegs [(4, a)] (probe 0xE3808201)
    let unl (a : Nat) : State := withRegs [(4, a)] (probe 0xE3A00200)
    let held (n : Nat) : Held := { va := BitVec.ofNat 64 n, tgt := .loc n }
    let toLine (s : State) (t : Thread) : Bool := leads (s.resolve (s.envOf 1) .lock (t.addr 4) 128) == (some (.loc 0x8000), 0)
    ([Instr.llock 7 2 4 1, .ltry 7 2 4].all fun i => groupB (line 0x8000) i fun s t g => toLine s t && (t.addr 4).toNat % 128 == 0 && g.held.isEmpty) = true ∧
    groupB (withGroup (fun g => { g with held := [held 0x7F80] }) (line 0x8000)) (.llock 7 2 4 1) (fun s t g => toLine s t &&
      g.held.all fun h => decide (h.va.toNat < (t.addr 4).toNat)) = true ∧
    groupB (withGroup (fun g => { g with held := [held 0x8000] }) (unl 0x8000)) (.lunlock 7 4) (fun s t g =>
      toLine s t && (g.held.find? fun h => h.va == t.addr 4).isSome && (t.addr 4).toNat % 128 == 0) = true ∧
    groupB (unl 0x8000) (.lunlock 7 4) (fun s t g => toLine s t && (g.held.find? fun h => h.va == t.addr 4).isNone && t.wait != .matched &&
      (t.addr 4).toNat % 128 == 0) = true ∧
    lockTraps [thr (line 0x8001)] 4 ≠ [] ∧
    (let s := withRegs [(5, 0x00100000)] (line 0)
     lockTraps [thr s] 4 = [] ∧ (s.resolve (s.envOf 1) .lock ((thr s).addr 4) 128).toBool = false) ∧
    (let s := withGroup (fun g => { g with held := [0, 128, 256, 384].map held }) (line 0x8000)
     lockTraps [thr s] 4 = [] ∧ toLine s (thr s) = true ∧ (s.group? 1 0).any (fun g => decide (4 ≤ g.held.length)) = true) ∧
    (let s := withGroup (fun g => { g with held := [held 0x8000] }) (line 0x8000)
     lockTraps [thr s] 4 = [] ∧ (s.group? 1 0).any (fun g => g.held.any fun h => decide (((thr s).addr 4).toNat ≤ h.va.toNat)) = true) := by decide

/-- A bulk descriptor in v16 to v31: four elements of 4 bytes from 0x8000 to 0x9000, with its flags. -/
def bulkRegs (src dst flags : Nat) : List (Nat × Nat) := [(16, src), (18, dst), (20, 3), (22, flags + 2), (23, 4), (26, 4)]

theorem witness_CopiesIssue :
    let w (s : State) : List Word := (thr s).words 16 16
    let ln := withRegs [(4, 0x8000), (8, 0x9000)] at0
    let to_ (s : State) (a : Acc) (r n : Nat) : Option Target × Nat := leads (s.resolve (s.envOf 1) a ((thr s).addr r) n)
    let fab := (withPeer (withRegs (bulkRegs 0x8000 0x100000 (2048 + 4096)) at0)).setWindow 8 1 { Window.reset with st := .open }
    ([(Instr.cpLaneB32 7 8 4 0 0 0, 4), (.cpLaneB64 7 8 4 0 0 0, 8), (.cpLaneB128 7 8 4 5 1 1, 16)].all fun x =>
      caseB ln x.1 (fun s _ => to_ s .engR 4 x.2 == (some (.loc 0x8000), 0) && to_ s .engW 8 x.2 == (some (.loc 0x9000), 0) && s.copies.isEmpty) &&
      caseB (withRegs [(4, 0x8001), (8, 0x9000)] at0) x.1 (fun _ t => (t.addr 4).toNat % x.2 ≠ 0) &&
      caseB (withRegs [(4, 0x8000), (8, 0x9001)] at0) x.1 (fun _ t => (t.addr 4).toNat % x.2 = 0 && (t.addr 8).toNat % x.2 ≠ 0)) = true ∧
    caseB (withRegs [(4, 0x8000), (12, 0x9000)] at0) (.cpBin 7 8 4 12) (fun s _ =>
      to_ s .bin 4 32 == (some (.loc 0x8000), 0) && to_ s .engR 12 4 == (some (.loc 0x9000), 0)) = true ∧
    caseB (withRegs (bulkRegs 0x8000 0x9000 0) at0) (.cpBulk 7 4) (fun s _ =>
      bulkOk (w s) false && (bulkOf (w s)).misaligned.isNone && !(bulkOf (w s)).fabric) = true ∧
    caseB fab (.cpBulk 7 4) (fun s t => bulkOk (w s) false && (bulkOf (w s)).misaligned.isNone && (bulkOf (w s)).fabric &&
      (match s.fabricCheck t (bulkOf (w s)) with
        | .ok v => v == 1
        | .error _ => false)) = true ∧
    caseB (withRegs (bulkRegs 0x8000 0x9000 (2 ^ 17)) at0) (.cpBulk 7 4) (fun s _ => !bulkOk (w s) false) = true ∧
    caseB (withRegs (bulkRegs 0x8001 0x9000 0) at0) (.cpBulk 7 4) (fun s _ => bulkOk (w s) false && (bulkOf (w s)).misaligned.isSome) = true ∧
    caseB (withRegs ((19, 0xFFFFFFFF) :: (8, 3) :: bulkRegs 0x8000 0xF00 0) (withShare at0)) (.cpMcast 7 8 4) (fun s t =>
      bulkOk (w s) true && (bulkOf (w s)).misaligned.isNone && inScratch ((bulkOf (w s)).dstAt 0) &&
      decide (((bulkOf (w s)).dstAt 0).toNat % 2 ^ 32 < (s.envOf t.bid).share)) = true ∧
    caseB (withShare at0) (.cpBind 7 15) (fun s t => decide (15 < s.nbar t.bid)) = true ∧
    caseB (withShare at0) (.cpBind 7 16) (fun s t => decide (s.nbar t.bid ≤ 16)) = true ∧ aloneB at0 (.cpBindNone 7) = true := by decide

/-- Slots 60 to 63 with tile 7, free, of this group, of another; five slots from 60; bit 6 set. Gangs of two and of the group alone. -/
theorem witness_ClaimsAndStatus :
    let x := 0x0080033C
    let s := withRegs [(4, x)] at0
    let mine (b : Nat) : State := s.setCore 0 ((s.core 0).setClaims (claimNames x) (.claimed b 0))
    (claimWordOk x = true ∧ bits x 5 0 + bits x 13 8 + 1 = 64) ∧
    caseB s (.tclaim 7 3 4) (fun s _ => (claimNames x).all fun n => (s.core 0).claim n == .free) = true ∧
    caseB (mine 9) (.tclaim 7 3 4) (fun s _ => (claimNames x).any fun n => (s.core 0).claim n == .claimed 9 0) = true ∧
    caseB (mine 1) (.trel 7 4) (fun s _ => (claimNames x).all fun n => (s.core 0).claim n == .claimed 1 0) = true ∧
    caseB s (.trel 7 4) (fun s _ => (claimNames x).any fun n => (s.core 0).claim n == .free) = true ∧
    ([Instr.tclaim 7 3 4, .trel 7 4].all fun i => caseB (withRegs [(4, 0x40)] at0) i (fun _ t => !claimWordOk (t.reg 4)) &&
      caseB (withRegs [(4, 0x043C)] at0) i (fun _ t => claimWordOk (t.reg 4) && decide (64 < bits (t.reg 4) 5 0 + bits (t.reg 4) 13 8 + 1))) = true ∧
    caseB (withRegs [(4, 3)] at0) (.gang 7 4) (fun _ t => decide (t.reg 4 < 2 ^ 16) && ((List.range 16).filter fun j => bit (t.reg 4) j).length == 2 && bit (t.reg 4) t.grp) = true ∧
    caseB (withRegs [(4, 1)] at0) (.gang 7 4) (fun _ t => ((List.range 16).filter fun j => bit (t.reg 4) j).length == 1) = true ∧
    caseB (withRegs [(4, 2 ^ 16)] at0) (.gang 7 4) (fun _ t => decide (2 ^ 16 ≤ t.reg 4)) = true ∧
    ([0, 1].all fun w : BitVec 1 => caseB at0 (.mstat 7 8 1 w) fun s _ => (s.group? 1 0).isSome) = true := by decide

/-- Commands within the core's slots and tiles, claimed and not, and past the last one. -/
theorem witness_MatrixIssue :
    let all (s : State) : State := s.setCore 0 ((s.core 0).setClaims (List.range 72) (.claimed 1 0))
    let s := withRegs [(16, 0x8000), (18, 16)] at0
    let w := (thr s).words 16 4
    let kinds : List (Instr × MatKind) := [(.tfill 7 5 4, .fill 5 w), (.tfillDq 7 5 4, .fillDq 5 ((thr s).words 16 8)), (.azero 7 7 0, .azero 7 1),
      (.aload 7 5 16, .aload 5 0x8000), (.tdrain 7 5 4, .drain 5 w), (.tdrainAdd 7 5 4, .drainAdd 5 w)]
    fillOk w = true ∧ drainOk w false = true ∧ drainOk w true = true ∧ (dMisaligned w).isNone = true ∧
    (kinds.all fun x => let ns := x.2.names (s.cfgOf 1 0)
      caseB (all s) x.1 (fun s _ => ns.all (fun n => decide (n < 72)) && s.mayName 1 0 ns) && caseB s x.1 fun s _ => !s.mayName 1 0 ns) = true ∧
    caseB (all s) (.azero 7 7 1) (fun s _ => ((MatKind.azero 7 2).names (s.cfgOf 1 0)).any fun n => decide (72 ≤ n)) = true ∧
    caseB s (.pcfg 7 4) (fun _ t => bits (dw (t.words 16 8) 4) 31 9 == 0 && dw (t.words 16 8) 7 == 0) = true ∧
    caseB (withRegs [(23, 1)] s) (.pcfg 7 4) (fun _ t => dw (t.words 16 8) 7 == 1) = true := by decide

/-- Every format, with all slots and tiles claimed, without a gang and with one. -/
theorem witness_MatrixMultiplyIssue :
    let p := probe 0xC79EA004
    let s := p.setCore 0 ((p.core 0).setClaims (List.range 72) (.claimed 1 0))
    let kind (f : Nat) : MatKind := .mma f 256 64 2 0 4 none []
    ([(Instr.mmaF16 7 15 2 2 0 4, 0), (.mmaBf16 7 15 2 2 0 4, 1), (.mmaE4m3 7 15 2 2 0 4, 2), (.mmaE4m3e5m2 7 15 2 2 0 4, 3), (.mmaE5m2 7 15 2 2 0 4, 4),
      (.mmaS8 7 15 2 2 0 4, 5), (.mmaE2m1 7 15 2 2 0 4, 6), (.mmaBf16s4 7 15 2 2 0 4, 7)].all fun x =>
        groupB s x.1 (fun s _ g => g.gang == 0 && !s.listed 1 0 && s.mayName 1 0 ((kind x.2).names g.pcfg)) &&
        groupB (withGroup (fun g => { g with gang := 3 }) s) x.1 (fun s _ g => g.gang == 3 && s.mayName 1 0 ((kind x.2).names g.pcfg))) = true := by decide

/-- Windows that are free, open, closing and failed, and one that is full. -/
theorem witness_FabricWrites :
    let win (w : Window) : State := (withPeer (withRegs [(4, 0x100000)] at0)).setWindow 8 3 w
    let peer (s : State) (t : Thread) (a : Acc) (n : Nat) : Bool := leads (s.check (s.envOf t.bid) a (t.addr 4) n n) == (some (.peer 1 0x40000), 0)
    ([WinSt.open, .closing].all fun st => caseB (win { Window.reset with st }) (.fst 7 0 3 4 8) fun s t => peer s t .fst 4 &&
      (s.window 8 3).sent 1 == 0) = true ∧
    ([WinSt.free, .failed].all fun st => caseB (win { Window.reset with st }) (.fst 7 0 3 4 8) fun s t => peer s t .fst 4) = true ∧
    caseB (win { Window.reset with st := .open, counts := [(1, 2 ^ 24 - 1)] }) (.fst 7 0 3 4 8) (fun s t => peer s t .fst 4 &&
      (s.window 8 3).sent 1 == 2 ^ 24 - 1) = true ∧
    ([(Instr.fld 7 8 4 0 7, Acc.fld, PeerOp.ld 4), (.fatom 7 8 4 0 3, .fatom, .atom .add 4 0 0)].all fun x =>
      caseB (win Window.reset) x.1 fun s t => peer s t x.2.1 4 &&
        ((s.numbered.requestFor t s.nextId 1 0x40000 (t.addr 4) x.2.2 [8] 0 none false).any fun u => (u.block? 1).all fun b => b.role == .solo)) = true := by decide

theorem witness_FabricWindows :
    let win (w : Window) : State := (withRegs [(4, 0x100000)] at0).setWindow 8 3 w
    caseB at0 (.fwopen 7 3 1) (fun s _ => (s.window 8 3).st == .free) = true ∧
    caseB (win { Window.reset with st := .failed }) (.fwopen 7 3 1) (fun s _ => (s.window 8 3).st != .free) = true ∧
    ([WinSt.open, .failed].all fun st => caseB (win { Window.reset with st }) (.fwopenFree 7 3) fun _ _ => true) = true ∧
    ([WinSt.free, .closing].all fun st => caseB (win { Window.reset with st }) (.fwopenFree 7 3) fun _ _ => true) = true ∧
    ([false, true].all fun own => let x := win { Window.reset with st := .open, counts := [(1, 2)] }
      caseB (if own then withPeer x else x) (.fwclose 7 1 3 4 8) fun s t => (t.addr 4).toNat % 4 == 0 &&
        !(s.window 8 3).targets.isEmpty && (s.block? 1).isSome && (s.ownVdn 8).isSome == own) = true ∧
    caseB (win { Window.reset with st := .open }) (.fwclose 7 1 3 4 8) (fun s t => (t.addr 4).toNat % 4 == 0 && (s.window 8 3).targets.isEmpty) = true ∧
    ([WinSt.free, .closing, .failed].all fun st => caseB (win { Window.reset with st }) (.fwclose 7 1 3 4 8) fun s _ => (s.window 8 3).st != .open) = true ∧
    caseB (withRegs [(4, 2)] (win { Window.reset with st := .open })) (.fwclose 7 1 3 4 8) (fun _ t => (t.addr 4).toNat % 4 ≠ 0) = true ∧
    aloneB at0 (.fwstat 7 8 3) = true ∧ aloneB at0 (.vdnq 7 8 4) = true := by decide

/-- Open and closed register numbers, selectors at the ends of their ranges. -/
theorem witness_SystemRegisters :
    let r (d a : Nat) : State := withRegs [(8, d), (4, a)] at0
    caseB (r 0 0x0500) (.srd 7 8 4) (fun s t => (s.sread (t.reg 4) 0 0).isSome) = true ∧
    caseB (r 0 0xFFFF) (.srd 7 8 4) (fun s t => (s.sread (t.reg 4) 0 0).isNone) = true ∧
    caseB (r 0xFFFF 0) (.swr 7 8 4) (fun _ t => !sysOpen (t.reg 8)) = true ∧
    caseB (r 0x0500 7) (.swr 7 8 4) (fun s t => sysOpen (t.reg 8) && (((s.numbered.updThread key0 fun t => t.next 4).swrite (t.reg 8) 7 0 0).block? 1).all fun b => b.role == .solo) = true ∧
    caseB (r 0x0C10 7) (.swr 7 8 4) (fun _ t => decide (0x0C10 ≤ t.reg 8) && decide (t.reg 8 ≤ 0x0C18)) = true ∧
    caseB (r 0 0x8A) (.mtrd 7 8 4) (fun _ t => decide (t.reg 4 < 256 ∧ t.reg 4 % 16 < 11 ∧ t.reg 4 / 16 < 9)) = true ∧
    ([0x0B, 0x90, 0x100].all fun x => caseB (r 0 x) (.mtrd 7 8 4) fun _ t => decide (¬ (t.reg 4 < 256 ∧ t.reg 4 % 16 < 11 ∧ t.reg 4 / 16 < 9))) = true ∧
    caseB (r 15 15) (.evcfg 7 8 4) (fun _ t => decide (t.reg 8 < 16 ∧ t.reg 4 ≤ 15)) = true ∧
    caseB (r 47 40) (.evcfg 7 8 4) (fun _ t => decide (16 ≤ t.reg 8 ∧ t.reg 8 < 48 ∧ 32 ≤ t.reg 4 ∧ t.reg 4 ≤ 40)) = true ∧
    ([(48, 0), (15, 16), (16, 31), (47, 41)].all fun x => caseB (r x.1 x.2) (.evcfg 7 8 4) fun _ t =>
      decide (48 ≤ t.reg 8 ∨ (t.reg 8 < 16 ∧ 15 < t.reg 4) ∨ (16 ≤ t.reg 8 ∧ t.reg 4 ≠ 0 ∧ ¬ (32 ≤ t.reg 4 ∧ t.reg 4 ≤ 40)))) = true ∧
    ([15, 16, 47, 48].all fun x => caseB (r 0 x) (.evrd 7 8 4) fun _ t => t.reg 4 == x) = true ∧
    ([63, 64].all fun x => caseB (r 0 x) (.lklog 7 8 4) fun _ t => t.reg 4 == x) = true := by decide

/-- An empty and a local range of `cwb.mere`, quads 47 and 48 of `kinj`, a block without failures. -/
theorem witness_CacheControlAndRedundancy :
    let r (d a : Nat) : State := withRegs [(8, d), (4, a)] at0
    (at0.block? 1).isSome = true ∧ aloneB at0 (.cinvL1 7) = true ∧ aloneB at0 (.cinvC 7) = true ∧
    caseB (r 128 0x8000) (.cwbMere 7 8 4) (fun s t => (pagesOf (t.addr 4) (t.reg 8)).all fun page =>
      leads (s.resolve (s.envOf 1) .ld page 1) == (some (.loc page.toNat), 0)) = true ∧
    caseB (withMgmt (r 0 0x82F)) (.kinj 7 4) (fun _ t => decide (t.reg 4 < 4096 ∧ t.reg 4 % 64 < 48)) = true ∧
    caseB (withMgmt (r 0 0x830)) (.kinj 7 4) (fun _ t => decide (¬ (t.reg 4 < 4096 ∧ t.reg 4 % 64 < 48))) = true ∧
    caseB at0 (.ckstat 7 8) (fun s _ => s.groups.all fun g => g.fails == 0) = true ∧ aloneB at0 (.ckrole 7 2) = true ∧
    gathersB (probe 0xEFA00000) (.ckpt 7) = true := by decide

/-- A thread in a handler, each selector, and a return to an aligned landed address, a misaligned and an absent one. -/
theorem witness_TrapReturnAndRead :
    let h (l : List (Nat × Nat)) : State := withThread (fun t => { t with inHandler := true }) (withRegs l at0)
    ((List.range 6).all fun n => aloneB (h []) (.trd 7 8 (BitVec.ofNat 3 n))) = true ∧ setRunsB (h []) (.tret 7) = true ∧
    caseB (h [(4, 4092)]) (.tretAddr 7 4) (fun s t => (t.addr 4).toNat % 4 == 0 && s.landed t (t.addr 4)) = true ∧
    caseB (h [(4, 4093)]) (.tretAddr 7 4) (fun _ t => (t.addr 4).toNat % 4 != 0) = true ∧
    caseB (h [(4, 4096)]) (.tretAddr 7 4) (fun s t => !s.landed t (t.addr 4)) = true := by decide

/-- Each word that a payload may extend here, with a rounding mode or an immediate. -/
theorem witness_LimArithmetic :
    ((wordsMoves ++ wordsFloat ++ wordsPacked).all fun x => let i : Instr := .lim 1 (BitVec.ofNat 32 x.1)
      !(match x.2 with
        | .addi .. | .addiB64 .. | .movi .. | .fadd .. | .fsub .. | .fmul .. | .ffma .. | .frnd .. => true
        | .fdot2F16 .. | .fdot2Bf16 .. | .faddF16x2 .. | .fsubF16x2 .. | .fmulF16x2 .. | .ffmaF16x2 .. => true
        | .faddBf16x2 .. | .fsubBf16x2 .. | .fmulBf16x2 .. | .ffmaBf16x2 .. => true
        | _ => false) || setRunsB (probePair 0xFC000001 x.1) i) = true := by decide

/-- Landed and absent targets under a payload, a `cvt` with a seed, and a second word that no payload may extend. -/
theorem witness_LimTransfersAndConversion :
    ([0x83800005, 0x87800005, 0x8F800005].all fun w => caseB (probePair 0xFC000000 w) (.lim 0 (BitVec.ofNat 32 w)) fun s t => s.landed t (t.pc + 20)) = true ∧
    ([0x83800005, 0x87800005, 0x8F800005].all fun w => caseB (probePair 0xFC000001 w) (.lim 1 (BitVec.ofNat 32 w)) fun s t => !s.landed t (t.pc + 0x2000014)) = true ∧
    ([0x83800005, 0x87800005, 0x8F800005].all fun w => match decodeWord w with
      | some (.bra _ o) | some (.call _ o) | some (.jfence _ o) => o == 5
      | _ => false) = true ∧
    setRunsB (probePair 0xFC000004 0x5F820740) (.lim 4 0x5F820740) = true ∧
    (decodeWord 0x8B800000).all (fun i => !limOk 1 i) = true ∧ (probePair 0xFC000001 0x8B800000).ports.length = 1 := by decide

/-- Memory accesses at a negative offset, and a sparse multiply. -/
theorem witness_LimMemoryAndMatrix :
    let s (w : Nat) : State := withRegs [(4, 0x8040)] (probePair 0xFFFFFFFF w)
    let i (w : Nat) : Instr := .lim 0x3FFFFFF (BitVec.ofNat 32 w)
    ([(0xA3880880, Acc.ld), (0xAB880880, .ld), (0xA7880880, .st)].all fun x => caseB (s x.1) (i x.1) fun s t =>
      leads (s.check (s.envOf 1) x.2 (t.addr 4 + BitVec.ofInt 64 (-64)) 4 4) == (some (.loc 0x8000), 0)) = true ∧
    -- two accesses of 8 bytes at the host window, and a misaligned `pref`
    ([(0xA3880910, Acc.ld), (0xA7880910, .st)].all fun x => caseB (withHost (withRegs [(4, 0x100100)] (probePair 0xFFFFFFFF x.1))) (i x.1) fun s t =>
      leads (s.check (s.envOf 1) x.2 (t.addr 4 + BitVec.ofInt 64 (-256)) 16 16) == (some (.host 0x50000), 0)) = true ∧
    ([0xA3880910, 0xA7880910].all fun w => match decodeWord w with
      | some (.ld _ d a z y o) => (d, a, z, y, o) == (8, 4, 4, 1, 0)
      | some (.st _ d a z y o) => (d, a, z, y, o) == (8, 4, 4, 1, 0)
      | _ => false) = true ∧
    caseB (s 0xB7800810) (i 0xB7800810) (fun _ t => (t.addr 4).toNat % 128 == 64) = true ∧ (decodeWord 0xB7800810).isSome = true ∧
    (let p := probePair 0xFC000013 0xC79EA004
     groupB (p.setCore 0 ((p.core 0).setClaims (List.range 72) (.claimed 1 0))) (.lim 0x13 0xC79EA004) fun s _ g => g.gang == 0 && !s.listed 1 0 && !g.pcfg.sparseTrap &&
      s.mayName 1 0 ((MatKind.mma 1 256 64 2 0 4 (some 9) []).names g.pcfg)) = true := by decide

theorem witness_DecodeEncode : (Instr.nop 7).encoded = true ∧ (Instr.lim 1 0x43850CA0).encoded = true := by decide

theorem witness_EncodeDecode : 0x05004103 < 2 ^ 32 ∧ decodeWord 0x05004103 = some (.addB32 2 1 2 3) := by decide

/-- What a step finds at a port: an instruction, a pair, no instruction, no code, and no thread any more. -/
theorem witness_StepRunsDecoded :
    let ok (s : State) (i : Instr) : Bool := s.ports.length == 1 && s.membersOf (s.standing (set0 s)) == [thr s] && (s.block? 1).isSome && (s.launch? 2).isSome &&
      ((s.core 0).segOf 0 0).any (fun x => x.1 == 0 && x.2.landed) && (decode ((s.core 0).imem.bytes 0 8)).any fun r => r.1 == i
    ok at0 (.nop 7) = true ∧ ok (probePair 0xFC0000C3 0x43850CA0) (.lim 0xC3 0x43850CA0) = true := by decide

theorem witness_FetchTraps :
    let far := withThread (fun t => { t with pc := 4096 }) { at0 with ports := [{ set0 at0 with pc := 4096 }] }
    (at0.standing { set0 at0 with pc := 4 }).members = [] ∧
    (far.standing (set0 far)).members = [key0] ∧ (far.core 0).segOf 0 1 = none ∧
    decodePair (((probe 0).core 0).imem.read 0 4) 0 = none ∧ decodePair (((probe 0x8BFF0000).core 0).imem.read 0 4) 0 = none := by decide

/-- Ill-formed, handler's, privileged, guarded off, and past the allocation. -/
theorem witness_IssueChecks :
    let one (s : State) (i : Instr) : Bool := i.encoded && s.ports.length == 1 && (set0 s).members == [key0] && (set0 s).pc == (thr s).pc && (s.threads.filter fun u => u.key == key0) == [thr s]
    let user : State := { at0 with launches := at0.launches.map fun l => { l with record := { l.record with ctrl := 0 } } }
    let small : State := withThread (fun t => { t with nb := 1 }) at0
    (one at0 (.addB64 7 9 4 4) && !(Instr.addB64 7 9 4 4).wf) = true ∧
    (one at0 (.tret 7) && (Instr.tret 7).wf && !(thr at0).inHandler) = true ∧
    (let h := withThread (fun t => { t with inHandler := true }) at0
     one h (.ballot 7 8 2) && (Instr.ballot 7 8 2).collective && (thr h).inHandler) = true ∧
    (one user (.srd 7 8 4) && !levelAllows (user.levelOf 1) (Instr.srd 7 8 4).level) = true ∧
    (one at0 (.addB32 0 8 4 4) && !(thr at0).pred 0 && at0.ready at0.nextId (thr at0) (.addB32 0 8 4 4)) = true ∧
    ([Instr.addB32 7 20 4 4, .pref 7 20 1 0].all fun i => one small i && !(thr small).covers i && small.ready small.nextId (thr small) i) = true := by decide

theorem witness_RegistersAndMemory : ((thr at0).regs.wf fun _ => (0 : Word)) = true ∧ Memory.wf [(3, 1), (7, 2)] = true := by decide

/-- A trap with a handler, from an instruction and from a wait. -/
theorem witness_TrapEntry :
    let s : State := { at0 with launches := at0.launches.map fun l => { l with record := { l.record with handler := 64 } } }
    s.thread? key0 = some (thr s) ∧ (s.launchOf 1).any (fun l => l.record.handler != 0) = true ∧ (thr s).inHandler = false ∧
    (thr s).wait ≠ .lock ∧ (thr s).wait ≠ .gang ∧ (thr s).wait ≠ .regacq := by decide

/-- Reset, and dies and cores in each power state; a lease that is valid and one that has expired. -/
theorem witness_LeasesConstantsAndPower :
    let r := State.reset
    let die (d : Die) : State := r.setDie 3 d
    let pw (p : Power) : State := (List.range 48).foldl (fun s c => s.setCore (144 + c) { Core.reset with power := .retention }) (r.setDie 3 { Die.reset with power := p })
    let line (x : BitVec 20) : L1Line := { core := 0, line := 0, st := .leased, expiry := x, dirty := [], data := [] }
    ((r.die 3).power ≠ .sleep ∧ (r.die 3).lease.toNat < { r with clk := 64 }.clk / 64) ∧
    ({ r with clk := 0 }.expired (line 1) = false ∧ { r.setDie 0 { Die.reset with lease := 1 } with clk := 64 }.expired (line 1) = true) ∧
    ((r.die 3).pause = false ∧ (r.die 3).constNext ≤ 1024 ∧ (r.die 3).nextTick 5000 = 5120 ∧ (r.die 3).constCnt < 4095) ∧
    (((die { Die.reset with constCnt := 4095 }).die 3).constCnt = 4095 ∧ ((die { Die.reset with constCnt := 4095 }).die 3).wrap = false) ∧
    (((die { Die.reset with pause := true, wrap := true }).die 3).pause = true ∧ (die { Die.reset with pause := true }).dies.wf (fun _ => Die.reset) = true) ∧
    ((r.core 191).power = .run ∧ (r.resident 191).all (fun b => b.lastIssue + 64 ≤ r.clk) = true ∧ r.coreReady 191 = false ∧ r.coreIdle 191 = true ∧
      r.mayGate 3 2 = true ∧ r.cores.wf (fun _ => Core.reset) = true) ∧
    (((pw .run).core 191).power = .retention ∧ (pw .run).cores.wf (fun _ => Core.reset) = true ∧ ((pw .run).core 191).wrapEpoch ≠ 1) ∧
    ((r.setCore 191 { Core.reset with power := .clockGate }).core 191).power = .clockGate ∧
    (((pw .run).die 3).power = .run ∧ (pw .run).dieGated 3 = true ∧ ((pw .run).die 3).mereAt + us 10 ≤ { pw .run with clk := us 10 }.clk ∧ (pw .run).mayGate 3 40 = true ∧
      bits ((pw .run).milv 3) 11 8 = 0 ∧ (pw .run).mayGate 3 1500 = true ∧ ((pw .run).setSys 0x0804 0x400).maySleep 3 = false ∧ (pw .run).poisoned = []) ∧
    ((pw .sleep).die 3).power = .sleep ∧ ((pw .mereRetention).die 3).power = .mereRetention := by decide

/-- A core with a launch, its lines and its walks; a page that moves; each register number. -/
theorem witness_HomesWalksAndErrors :
    let own : L1Line := { core := 0, line := 5, st := .owned, expiry := 0, dirty := [3], data := [] }
    let w : WalkReq := { core := 191, f := 8, root := 0, asid := 0, va := 0x8000 }
    let mv (p : Nat) : State := { at0 with pageMove := some { src := 0x8000, dst := 0x10000, leaf := 0, size := 4096, f := 8, ipa := p, held := [], reads := [] } }
    (((at0.core 0).lid.bind fun x => at0.launch? x).any fun l => at0.inPart (at0.partOf l.f) 0x8000 && at0.owner 0x8000 == 0) = true ∧
    (at0.blocked 0 false (.loc 0x8000) = false ∧ at0.poisoned = [] ∧ at0.l1Find 0 (lineOf 0x8000) = none) ∧
    ((({ at0 with l1 := [own] } : State).l1.find? fun (l : L1Line) => l.core == 0 && l.line == 5 && l.st == L1St.owned) = some own ∧ own.dirty ≠ []) ∧
    (w.core < 192 ∧ at0.walks.contains w = false ∧ (at0.walksOf (dieOf w.core)).length < 256 ∧ (({ at0 with walks := [w] } : State).walks.contains w) = true ∧
      (({ at0 with walks := [w] } : State).walks.filter fun x => at0.sameWalk w x) = [w] ∧ (at0.walk 8 0 0x8000).toBool = true) ∧
    ((mv 0).moving false 0x10000 = true ∧ (mv 0).pageMove.isSome = true) ∧
    (((List.range 4).all fun i => at0.isLocal (0x8000 + i) && at0.owner (0x8000 + i) == 0) = true ∧ at0.moving true 0x8000 = false ∧ at0.freezes 0x8000 4 = none ∧
      ((List.range 8).all fun f => !(at0.session f).tracking) = true ∧
      -- a frozen function tracks 1 unit of 2 MiB at 0x200000, before its session commits and after
      ([2, 5].all fun st =>
        let d := leBytes 0x200000 8 ++ leBytes 0x200000 8 ++ leBytes 1 8 ++ leBytes 0x1000000 8
        let s : State := { ((State.reset.setVf 7 5 0 0).setMig 7 st 0 false).setSys 0x0A70 0x4000 with mem := Memory.store [] 0x4000 d }
        let s := s.setSession 7 { Session.reset with tracking := true, frozen := some 0 }
        s.freezes 0x200000 4 == some 7 && s.migState 7 == st && !s.moving true 0x200000 && s.isLocal 0x200000 && s.owner 0x200000 == 0) = true ∧ at0.isLocal (2 ^ 43) = false) ∧
    (at0.sysregs.wf sysReset = true ∧ sysOpen 0xFFFF = false ∧ sysOpen 0x0C18 = true ∧ (9 * 64 - 1 < 9 * 64)) := by decide

/-- The host port's link secure and broken, a page that moves under its write, recovery, an error that is corrected, a walk whose way is closed. -/
theorem witness_HomesWalksAndErrors_port :
    let w : WalkReq := { core := 191, f := 8, root := 0, asid := 0, va := 0x8000 }
    let mv : State := { at0 with pageMove := some { src := 0x8000, dst := 0x10000, leaf := 0, size := 4096, f := 8, ipa := 0, held := [], reads := [] } }
    (at0.ideBroken = false ∧ ({ at0 with ideBroken := true } : State).ideBroken = true ∧ at0.recovery = false ∧ ({ at0 with recovery := true } : State).recovery = true) ∧
    (mv.moving true 0x8000 = true ∧ mv.isLocal 0x8000 = true ∧ at0.isLocal 0x8000 = true ∧ at0.walkCut w = false) ∧
    ({ (at0.setSys 0x0805 0).setSys 0x0600 0x4000 with walks := [w] } : State).walks.contains w = true ∧
    ((((at0.setSys 0x0805 0).setSys 0x0680 0x4000).setSys 0x0682 0x80000000).walkCut w = true) := by decide

/-- A lock request at its home, for a free line and a held one; waiters, holders and deadlines; compare entries of a pair. -/
theorem witness_LocksAndPairs :
    let req : LockReq := { id := 1, va := 0x8000, tgt := .loc 0x8000, tri := false, cls := 1, pred := 0, queued := false, members := [0] }
    let s0 := withGroup (fun g => { g with req := some req }) at0
    let who : GroupRef := { dev := 0, bid := 7, grp := 0 }
    let wt : Waiter := { who, vdn := none, blk := 0, va := 0x8000, told := 0, cls := 1, deadline := some 100, absent := false, seq := 0 }
    let e : LockEntry := {
      line := 256, f := 8, va := 0x8000, holder := some who, hvdn := none, hblk := 0, hva := 0x8000, hcls := 0, told := 0,
      waiters := [wt], held := 0, since := some 0, limit := 50, lost := false, losing := none }
    let s1 : State := { s0 with locks := [e] }
    let full := s0.setSys 0x0482 0
    ((s0.group? 1 0).any fun g => g.req == some req) = true ∧ req.tgt.line = some 256 ∧ s0.unreached 0 true req.tgt = false ∧
    (s0.lockEntry? 256 = none ∧ s0.entryFree 8 256 = true) ∧ (full.lockEntry? 256 = none ∧ full.entryFree 8 256 = false) ∧
    (s1.lockEntry? 256 = some e ∧ e.holder = some who ∧ e.waiters[0]? = some wt ∧ s1.clk < 100 ∧ 100 ≤ ({ s1 with clk := 100, turn := 191 } : State).clk ∧ s1.turn ≠ 191 ∧
      s1.frozen 8 = false ∧ wt.absent = false) ∧
    (let u : State := { withGroup (fun g => { g with unlocking := some { va := 0x8000, tgt := .loc 0x8000, before := 9, sent := false } }) s1 with
        locks := [{ e with holder := some (s1.own 1 0), waiters := [] }] }
     (u.groups.find? fun g => match g.unlocking with
        | some x => x.tgt.line == some 256 && u.unlockReady g x.before && !u.unreached (u.envOf g.bid).core false x.tgt
        | none => false).isSome = true ∧ (u.lockEntry? 256).any (fun e => e.heldHere (u.own 1 0) && e.losing.isNone) = true ∧
     (({ u with locks := [{ e with waiters := [] }] } : State).lockEntry? 256).any (fun e => !e.heldHere (u.own 1 0)) = true) ∧
    (0 + (s1.clk - 0) < e.limit ∧ e.limit ≤ 0 + (({ s1 with clk := 50 } : State).clk - 0)) ∧
    -- a peer's holder, which is to be told, is told, and has not answered
    (let r (told : Option Nat) : State := { s1 with locks := [{ e with hvdn := some 1, losing := told }], clk := s1.tlost 8 }
     ((r none).lockEntry? 256).any (fun e => e.losing.isNone) = true ∧ 50 ≤ 0 + ((r none).clk - 0) ∧
     ((r (some 0)).lockEntry? 256).any (fun e => e.losing.isSome) = true ∧
     (r (some 0)).frozen 8 = false ∧ 0 + s1.tlost 8 ≤ (r (some 0)).clk ∧ s1.clk < 0 + s1.tlost 8) ∧
    ([none, some { va := 0x100000, tgt := .peer 1 0x40000, before := 9, sent := false }].all fun (u : Option Unlocking) =>
      let s := withGroup (fun g => { g with held := [{ va := 0x100000, tgt := .peer 1 0x40000 }], unlocking := u }) at0
      ((s.groups ++ s.saved.flatMap fun x => x.groups).find? fun g => g.is 1 0).any fun g =>
        (g.held.find? fun h => h.va == 0x100000 && h.tgt.isPeer).isSome && (g.unlocking.any fun x => x.va == 0x100000) == u.isSome &&
        ((s.expire 1 0 fun h => h.va == 0x100000 && h.tgt.isPeer).group? 1 0).isSome) = true ∧
    (let s : State := { at0 with groups := [], saved := at0.blocks.map fun block => {
        block := block, threads := [], claims := [], slots := [], tiles := [], pools := [], segs := [], copies := [], nps := [],
        groups := [{ newGroup 1 0 1 with held := [{ va := 0x100000, tgt := .peer 1 0x40000 }] }] } }
     ((s.groups ++ s.saved.flatMap fun x => x.groups).find? fun g => g.is 1 0).any (fun g => g.unlocking.isNone &&
       (g.held.find? fun h => h.va == 0x100000 && h.tgt.isPeer).isSome) = true ∧
     ((s.expire 1 0 fun h => h.va == 0x100000 && h.tgt.isPeer).group? 1 0).isNone = true ∧
     (s.saved.flatMap fun x => x.groups).all (fun g => s.unlockReady g s.nextId && 
       !({ s with loads := [{ id := 0, tok := 0, bid := 1, grp := 0, tid := 0, ea := 0, tgt := .loc 0, n := 4, signed := false, dst := [], ty := 0, acq := false, kind := .ld, home := false }] } : State).unlockReady g 1) = true) ∧
    (let lv : List LvqEntry := [{ id := 1, kind := (0, 0), filled := true, vals := [], pred := false, trap := none, arrived := false }]
     let q (at0 : State) (imp : Bool) (w : Wait) (g : List Nat) : State := { at0 with
        blocks := (at0.blocks.map fun b => { b with role := .lead, mate := 9 }) ++ at0.blocks.map fun b => { b with bid := 9, role := .trail, mate := 1 },
        threads := [{ thr at0 with wait := .compare, sig := [1], sigImp := imp, lvq := lv }, { thr at0 with bid := 9, wait := w, sig := g }] }
     let p := q at0 false
     ([((p .compare [1]), true), ((p .compare [2]), true), ((p .none []), false)].all fun x => (x.1.block? 1).any fun b =>
        (x.1.twinEntry b (thr x.1)).isSome == x.2 && !x.1.committed b (thr x.1) && (thr x.1).sig != []) = true ∧
      (let s : State := { q at0 true .matched [1] with threads := [{ thr at0 with wait := .matched, sig := [1], sigImp := true }] }
       (s.block? 1).any fun b => s.committed b (thr s)) = true ∧ ((p .compare [1]).block? 1).any (fun b => b.role == .lead && b.mate == 9) = true ∧
      ([false, true].all fun imp => let s := q at0 imp .compare [1]
        (s.takeBoth (thr s) (s.threads.getD 1 (thr s))).isNone && !s.olderEntry (thr s) && s.level (thr s) 9) = true ∧
      ((q (probe 0x8B840000) false .compare [1]).fetchFor (thr (q (probe 0x8B840000) false .compare [1])) == .ok (.exit 7)) = true ∧
      ((p .compare [2]).thread? { bid := 9, tid := 0 }).any (fun u => u.wait == .compare && u.sig != [1]) = true ∧
      ((p .none []).thread? { bid := 9, tid := 0 }).any (fun u => u.wait != .compare) = true ∧ (0 + 2 ^ 16 ≤ ({ at0 with clk := 65536 } : State).clk)) := by decide

/-- A core's cycle, a thread that yields, a queued request with free blocks, code in flight, a pool that is full, an empty group, a pod frame. -/
theorem witness_CyclesAndGroups :
    let key9 : ThreadKey := { bid := 1, tid := 0 }
    let q := at0.setCore 0 { at0.core 0 with regq := [(0, key9, 8)] }
    let seg : Seg := { granule := 1, tag := 0, landed := false, again := false, lid := 2, src := .loc 0x8000, id := 1, after := none, reader := none }
    let cs := at0.setCore 0 { at0.core 0 with segs := [(0, seg)] }
    let pool : Pool := { bid := 1, entry := 0, recs := List.replicate 32 (0, 0), timer := none, expired := false, first := 0, before := List.replicate 32 { bid := 1, grp := 0, tid := 0, before := 0 } }
    -- of a redundant pair: segments 0 of core 0 and of core 4, which reads none
    let two (landed : Bool) : State := (at0.setCore 0 { at0.core 0 with segs := [(0, { seg with landed })] }).setCore 4 { Core.reset with segs := [(0, { seg with reader := some 0 })] }
    let ps := at0.setCore 0 { at0.core 0 with pools := [(2, pool)] }
    let pair : State :=
      let role (b : Block) : Block := { b with role := .lead, mate := 9 }
      let mate (b : Block) : Block := { b with bid := 9, role := .trail, mate := 1, core := 4 }
      ({ ps with blocks := ps.blocks.map role ++ ps.blocks.map mate } : State).setCore 4 { Core.reset with pools := [(3, { pool with bid := 9 })] }
    let bar : HBar := {
      level := 6, inst := 0, idx := 0, phase := false, members := [0], arrived := [], reports := [], early := [], told := false, toldGone := false, gone := [], before := [] }
    let pod : State := { at0 with launches := at0.launches.map fun (l : Launch) => { l with record := { l.record with barriers := 0x00540000, podset := 3 }, hbars := [bar] } }
    (State.reset.ports = [] ∧ (191 < 192)) ∧
    ((withThread (fun t => { t with wait := .yielding 5 }) at0).thread? key0).any (fun t => t.wait == .yielding 5) = true ∧
    ((q.core 0).regq.find? (fun r => r.1 == 0) = some (0, key9, 8) ∧ 8 ≤ q.freeRegs 0 0 ∧ (q.block? 1).any (fun b => b.status == .running) = true) ∧
    (cs.cores.wf (fun _ => Core.reset) = true ∧ (cs.core 0).imem.wf = true ∧ ((cs.core 0).segs.wf fun _ => Seg.empty) = true ∧
      ((cs.core 0).segs.find? fun e => e.1 == 0) = some (0, seg) ∧ (cs.core 0).fetches.contains 0 = true ∧
      cs.blocked 0 false seg.src = false ∧ seg.after = none ∧ cs.poison seg.src 4096 = false) ∧
    (((ps.core 0).pools.find? fun e => e.1 == 2) = some (2, pool) ∧ ((List.range 16).find? fun g => (ps.group? 1 g).isNone) = some 1 ∧ (ps.block? 1).any (fun b => b.role == .solo) = true ∧
      ps.mayLaunch pool = true ∧ (ps.block? 1).any (fun b => b.status == .running) = true ∧ (at0.launches.all fun l => (List.range 32).all fun k => ps.laneFits 0 k l.record.regs) = true) ∧
    ((cs.core 0).segs.all (fun x => (cs.leaderSeg x.2).isNone) = true ∧ ([true, false].all fun x =>
      (two x).leaderSeg { seg with reader := some 0 } == some (0, 0, { seg with landed := x }) && ((two x).core 4).fetches.contains 0) = true) ∧
    ((pair.block? 1).any (fun b => b.role == .lead && b.mate == 9) = true ∧ (pair.block? 9).any (fun b => b.role == .trail && b.status == .running && b.core == 4) = true ∧
      ((pair.core 4).pools.find? fun e => e.2.bid == 9 && e.2.entry == pool.entry).isSome = true ∧
      ((List.range 16).find? fun g => (pair.group? 1 g).isNone && (pair.group? 9 g).isNone) = some 1 ∧
      (pair.launches.all fun l => (List.range 32).all fun k => pair.laneFits 0 (32 + k) l.record.regs && pair.laneFits 4 (32 + k) l.record.regs) = true) ∧
    (let e : State := { at0 with threads := [] }
     e.live 1 0 = [] ∧ (e.group? 1 0).any (fun g => g.quiet && !e.groupBusy g && g.held.isEmpty) = true ∧ (e.block? 1).isSome = true) ∧
    ([(pod, 1), (at0, 0)].all fun x => (x.1.launches.filter fun l => bits l.record.barriers.toNat 31 20 == 5 && l.record.podset == 3 && l.record.granted 6 != 0 &&
      !l.hbars.isEmpty && !l.failed).length == x.2) = true := by decide

set_option maxRecDepth 4000 in
/-- A bulk copy at its first and last element and at a fault, a lane copy, a multicast line; commands at the head of their queue; scrubs; a latch. -/
theorem witness_EngineSteps :
    let bulk := issued 0xEF800040 (bulkRegs 0x8000 0x9000 0)
    let bad := issued 0xEF800040 ((17, 0x00100000) :: bulkRegs 0 0x9000 0)
    let lane := issued 0x7FA18200 [(4, 0x8000), (6, 0x9000)]
    let cmd (s : State) : CopyCmd := s.copies.headD { id := 0, tok := 0, core := 0, bid := 0, grp := 0, tid := 0, pc := 0, kind := .lane 0 [], h := 0, more := [], begun := [], bind := none, before := none, rel := false, fabric := none, lines := [], base := 0, owed := [] }
    let elem (s : State) (k : Nat) : Bool := match (cmd s).kind with
      | .bulk w => (match s.elemAt (s.envOf 1) (bulkOf w) k with
        | .ok (x, y) => (s.missing (s.envOf 1) ((bulkOf w).addrs k 1)).isEmpty && !s.blocked 0 false x && !s.blocked 0 true y && !s.poison x (bulkOf w).z
        | .error _ => false) && decide (k < (bulkOf w).count) && (bulkOf w).count == 4
      | _ => false
    let mc : CopyCmd := { cmd bulk with kind := .mcast [] 1, lines := [(0, 0, 0, List.replicate 128 7)] }
    (bulk.copies = [cmd bulk] ∧ bulk.mcmds = [] ∧ bulk.acqHeld 1 0 0 (cmd bulk).before = false ∧ (cmd bulk).fabric = none ∧ (cmd bulk).more = [] ∧ (cmd bulk).begun = [] ∧ elem bulk 0 = true ∧ elem bulk 3 = true ∧
      (bulk.block? 1).any (fun b => b.status == .running) = true) ∧
    -- not read, and read; one that a later access completes, and one that it does not
    ([([], Target.loc 0x900C), ([1, 2, 3, 4], .loc 0x900C), (List.replicate 16 1, .host 0)].all fun x =>
     let o : Begun := { k := 3, src := .loc 0x800C, dst := x.2, id := 5, got := x.1, put := 0 }
     let c : CopyCmd := { cmd bulk with begun := [o] }
     let s := bulk.updCopy c
     s.copies == [c] && (c.begun.find? fun o => o.k == 3) == some o && !s.blocked 0 false o.src && !s.blocked 0 true o.dst &&
     !s.poison o.src 4 && !s.poison o.dst 4 && (match c.kind with
      | .bulk w => s.mayRead (s.envOf 1) (bulkOf w) c o && mayWrite (bulkOf w) c o && o.dst.piece 16 == (if o.got.length == 16 then 8 else 16)
      | _ => false)) = true ∧
    (bad.copies = [cmd bad] ∧ (cmd bad).begun = [] ∧ elem bad 0 = false ∧ bad.mayStart (cmd bad) = true ∧ bad.copyMisses (cmd bad) = []) ∧
    (match (cmd lane).kind with
      | .lane n parts =>
        let c := lanesOf (cmd lane) parts
        -- every part is read at last
        let d : CopyCmd := { c with begun := c.begun.map fun o => { o with got := List.replicate 8 0 } }
        n == 8 && !parts.isEmpty && [c, d].all fun c => lanesOf c parts == c && (c.begun.find? fun o => o.k == 0).any fun o =>
          !lane.blocked 0 false o.src && !lane.blocked 0 true o.dst && !lane.poison o.src n && !lane.poison o.dst n && o.src == .loc 0x8000 && o.dst == .loc 0x9000
      | _ => false) = true ∧
    ((mc.lines.find? fun l => l.1 == 0 && l.2.1 == 0).isSome = true ∧ (bulk.deliverLine mc 0 0 (List.replicate 128 7)).isSome = true ∧
      (bulk.blocks.filter fun b => b.core == 0 && b.lid == 2 && b.role != .trail && !b.dying).length = 1 ∧ bulk.saved = [] ∧ bulk.poisoned = [] ∧
      (bulk.blocks.all fun b => b.started) = true ∧ bulk.mem.wf = true ∧ ((List.range 8).all fun f => !(bulk.session f).tracking) = true) ∧
    (let x : Staged := { bid := 1, grp := 0, off := 0, data := [], bind := none, cmd := 5 }
     ((bulk.updBlock 1 fun b => { b with started := false }).setQuad 0 { Quad.reset with staging := List.replicate 512 (2, 0, x) }).deliverLine mc 0 0
       (List.replicate 128 7) = none) ∧
    (let m (k : MatKind) : MatCmd := { id := 5, tok := 5, core := 0, bid := 1, grp := 0, tid := 0, pc := 0, kind := k, before := none, cfg := (newGroup 1 0 1).pcfg, part := [], moved := [] }
     let st (k : MatKind) : State := { at0 with mcmds := [m k] }
     let fill (a : Nat) : MatKind := .fill 5 [BitVec.ofNat 32 a, BitVec.ofNat 32 (a / 2 ^ 32), 16, 0]
     ([MatKind.pcfg (newGroup 1 0 1).pcfg, .azero 7 1, .mma 1 256 64 2 0 4 none [], fill 0x8000].all fun k => (st k).matHead 1 0 == some (m k) && (st k).matTurn (m k)) = true ∧
     (let r := (st (fill 0x8000)).matPieces (m (fill 0x8000))
      r.2.isNone && ((st (fill 0x8000)).matMisses (m (fill 0x8000))).isEmpty && r.1[0]? == some (0x8000, .loc 0x8000, 16) && !(st (fill 0x8000)).piecesWait (m (fill 0x8000)) r.1 && r.1.all fun p => !(st (fill 0x8000)).poison p.2.1 p.2.2) = true ∧
     ((at0.blocks.all fun b => b.role == .solo && !b.dying && decide (b.relaunch < 3)) && (fill 0).onMemory &&
       (at0.launches.all fun l => !l.record.restartable)) = true ∧ Record.restartable { probeRecord with ctrl := 0x01000000 } = true ∧
     ((st (fill (2 ^ 52))).matPieces (m (fill (2 ^ 52)))).2.isSome = true ∧ (st (fill (2 ^ 52))).matMisses (m (fill (2 ^ 52))) = []) ∧
    (let s := at0.setCore 0 ((at0.core 0).setClaims [63, 64] .scrub)
     (s.core 0).claim 63 = .scrub ∧ (s.core 0).claim 64 = .scrub ∧ (s.core 0).claim 62 ≠ .scrub) ∧
    (let l : Latch := { kind := .mma 1 256 64 2 0 4 none [], guard := 7, len := 4, tok := 5, part := [0], pc := 0 }
     let s (l2 : Latch) : State := { withGroup (fun g => { g with gang := 3, latch := some l }) at0 with
      groups := [{ newGroup 1 0 1 with gang := 3, latch := some l }, { newGroup 1 1 1 with gang := 3, latch := some l2 }] }
     let gs (l2 : Latch) : List Group := (s l2).members 1 3
     ((gs l).length == 2 && (s l).blocks.all (fun b => b.status == .running) && !at0.listed 1 0 && (gs l).all (fun x => x.latch.isSome && x.tl != 63 && (gs l).all fun g => agree g x)) = true ∧ (s l).matQueue 0 1 16 0 < 8 ∧
     ((gs { l with guard := 6 }).any fun x => (gs { l with guard := 6 }).any fun g => !agree g x) = true) := by decide

/-- With a change to the launch. -/
def withLaunch (f : Launch → Launch) (s : State) : State := { s with launches := s.launches.map f }

/-- Queues enabled and not, with a record to read, ready, parked and invalid. -/
theorem witness_QueuesAndBlocks_read :
    let on := State.reset.setBar 8 (qReg 63 8) 0x84000000
    let bell (x : Nat) : State := { on.setBar 8 (qReg 63 0x10) 1 with mem := Memory.store [] 0x30 (leBytes x 2) }
    (bit (State.reset.bar 8 (qReg 63 8)).toNat 31 = false ∧ bit (on.bar 8 (qReg 63 8)).toNat 31 = true ∧ (63 < 64)) ∧
    ((bell 0).reading 8 = true ∧ ((bell 0).bar 8 (qReg 63 0xC)).toNat ≠ ((bell 0).bar 8 (qReg 63 0x10)).toNat % (bell 0).ringSize 8 63 ∧
      (bell 0).ringStops = [] ∧ (bell 0).stalled = [] ∧ (bell 0).bar64 8 (qReg 63 0) = 0) ∧
    ([0, 1, 0xFFFF].all fun x => match (bell x).readRecord 8 ((bell x).queueRoot 8 63) 0 0 with
      | .ok r => r.preds.toNat == x
      | .error _ => false) = true ∧
    (match (bell 0).predsAt 8 ((bell 0).queueRoot 8 63) 0 0 with
      | .ok t => !(bell 0).waitsMove false t && !(bell 0).waitsMove true t && !(bell 0).devThrottled 8 t && !(bell 0).ringCut 8 ((bell 0).queueRoot 8 63) 0
      | .error _ => false) = true ∧ (State.reset.launches = [] ∧ State.reset.parked = []) := by decide

/-- A launch that runs and one that has finished, without a completion address, with one here and at a peer; a copy record that lands and that faults. -/
theorem witness_QueuesAndBlocks_finish :
    let done (a : VAddr) : State := { withLaunch (fun l => { l with ended := [0], record := { l.record with done := a } }) at0 with blocks := [] }
    let peer : State := { withPeer (done 0x100000) with tlb := (withPeer (done 0)).tlb.map fun e => { e with unit := 192 } }
    let copy (a : VAddr) : State := withLaunch (fun l => { l with record := { l.record with ctrl := 0x20000000, grid := 1, entry := a, handler := 0x9000 } }) at0
    (at0.launches.all fun l => !at0.finished l && !l.stored && !l.failed && at0.launch? l.lid == some l && at0.launchOf 1 == some l) = true ∧
    ([0, 0x8000].all fun a => (done a).launches.all fun l => (done a).finished l && !(done a).doneHeld l && !(done a).predsHeld l && !l.stored && !l.failed &&
      l.record.done == a) = true ∧
    ((done 0x8000).launches.all fun l => leads ((done 0x8000).resolve (l.env 192 0 0) .fst l.record.done 8) == (none, 6) &&
      leads ((done 0x8000).resolve (l.env 192 0 0) .engW l.record.done 8) == (some (.loc 0x8000), 0)) = true ∧
    (peer.launches.all fun l => leads (peer.resolve (l.env 192 0 0) .fst l.record.done 8) == (some (.peer 1 0x40000), 0)) = true ∧
    ([(0x8000, false), (2 ^ 52, true)].all fun x => (copy x.1).launches.all fun l => l.record.isCopy && !l.failed &&
      ((copy x.1).copyBytes l.lid 1).2.isSome == x.2) = true := by decide

set_option maxRecDepth 4000 in
/-- A launch that has nothing to place, that no core takes, that has a place; a stalled dispatch without its key and with it. -/
theorem witness_QueuesAndBlocks_place :
    let fresh := withLaunch (fun l => { l with next := 0 }) at0
    let wide := withLaunch (fun l => { l with next := 0, record := { l.record with shape := 0xFFFFFFFF } }) at0
    let hand (k : List (Nat × KeyHandle)) : State := { at0 with handles := k, stalled := [{ f := 8, q := 0, addr := 0x8000, record := { probeRecord with key := 0x00000003 } }] }
    (at0.launches.all fun l => !at0.hasTurn l) = true ∧ (wide.launches.all fun l => wide.hasTurn l && !wide.placeable l) = true ∧
    (fresh.launches.all fun l => fresh.hasTurn l && l.waiting.isEmpty && decide (l.next < l.record.grid.toNat) && !l.record.gang &&
      cores? l 0 0 == some [0] && (fresh.options l).contains [0] && !fresh.yields l [0] && (fresh.place l.lid 0 0 [0]).isSome) = true ∧
    ((hand []).stalled[0]?.isSome = true ∧ (hand []).keySlots = [] ∧ (hand []).handle? (Record.handle { probeRecord with key := 3 }) = none) ∧
    -- a handle that has rotated
    (hand [(3, { gen := 1, tag := 1, wrapped := 0 })]).keyOk { probeRecord with key := 3 } = false ∧
    (hand [(3, { gen := 0, tag := 1, wrapped := 0 })]).keyOk { probeRecord with key := 3 } = true ∧
    ((hand [(3, { gen := 0, tag := 1, wrapped := 0 })]).handle? (Record.handle { probeRecord with key := 3 })).isSome = true := by decide

/-- A block that runs, halts, has drained and is saved; the watchdog off, not yet due and due; deferred traps. -/
theorem witness_QueuesAndBlocks_blocks :
    let halted := at0.updBlock 1 fun b => { b with status := .halting false }
    let sv := halted.saveBlock 1
    let off := withLaunch (fun l => { l with f := 7 }) sv
    let late : State := { at0 with clk := us 1000000 }
    ((at0.blocks.all fun b => at0.block? b.bid == some b && (at0.launch? b.lid).isSome && b.role == .solo && b.status == .running && !at0.sliceOver b) = true ∧
      (withLaunch (fun l => { l with f := 7 }) at0).reading 7 = false) ∧
    ((halted.blocks.all fun b => (halted.placeAgain [b]).isNone && ((halted.updBlock 1 fun b => { b with saveAt := some (0, 2 ^ 30) }).placeAgain
        [{ b with saveAt := some (0, 2 ^ 30) }]).isSome) = true ∧ halted.drained 1 = true ∧ (halted.blocks.all fun b => b.role == .solo) = true) ∧
    ((late.sys (unitKey 0x0501 (late.dieId 0))).toNat % 65536 = 1000 ∧ (late.core 0).power = .run ∧
      (late.blocks.all fun b => decide (b.lastIssue + us (1000 * 1000) ≤ late.clk + b.counted)) = true ∧
      (at0.blocks.all fun b => decide (at0.clk + b.counted < b.lastIssue + us (1000 * 1000))) = true) ∧
    ((off.saved.find? fun x => x.block.bid == 1).isSome = true ∧ (off.launches.all fun l => !off.reading l.f) = true) ∧
    (sv.launches.all fun l => sv.hasTurn l && !sv.whole l && cores? l 0 0 == some [0] && !sv.yields l [0] && (match sv.nextOf l with
      | some (some w) => (sv.savedOf w).any fun x => x.block.bid == 1 && (sv.saved.find? fun x => x.block.bid == 1) == some x && x.block.lid == l.lid
      | _ => false)) = true ∧
    (let t (n : Nat) : Thread := { thr at0 with deferred := List.replicate n { cause := 25, addr := 0, aux := 0 } }
     (t 3).deferred.length < 4 ∧ ¬ (t 4).deferred.length < 4 ∧ (t 1).inside = false ∧ (t 1).inHandler = false ∧ (at0.thread? key0).isSome = true ∧
     (at0.blocks.all fun b => b.started) = true) := by decide

set_option maxRecDepth 4000 in
/-- The saved block's old core is among the places of its launch. -/
theorem witness_QueuesAndBlocks_resume :
    let sv := (at0.updBlock 1 fun b => { b with status := .halting false }).saveBlock 1
    (sv.launches.all fun l => (sv.options l).contains [0]) = true := by decide


/-- A packet of a peer with each verdict; windows that close; arrivals before and after their deadline; requests and answers. -/
theorem witness_FabricPackets :
    let s := withPeer at0
    let p (b : Body) : Packet := {
      srcDev := 2, dstDev := 0, srcFun := 8, dstFun := 8, svdn := 1, dvdn := 0, handle := 0, phase := false, ctr := 0,
      flits := (List.range (flitsOf b)).map fun i => (i, true), good := true, body := b }
    let w : Packet := p (.write 3 1 0 0 0x8000 [1, 2, 3, 4])
    let k : EpochKey := { f := 8, svdn := 1, win := 3, inc := 1, epoch := 0 }
    let a : Arrival := { key := k, port := 0, reserved := true, r := 0, arrivals := 0, expect := some { tag := 0, count := 1, flag := 0, value := 0, scope := 5 }, deadline := 10, denied := false }
    let full := ((s.setSys 0x0D80 0).setSys 0x0D00 0x3F00).setSys 0x0D10 0x3F00 |>.setSys 0x0D20 0x3F00
    let verdict (x : State × Judged) : Judged := x.2
    (w.dstDev = s.phys ∧ w.dstFun < 9 ∧ (s.slotFor w).isSome = true ∧ s.phaseOk (rxKey w) false = true ∧ s.phaseOk (rxKey w) true = false ∧
      vdnOk (s.vdne 8 1) = true ∧ ({ cmax := 0, marks := [] } : IvWindow).accept 0 ≠ none ∧ ({ cmax := 1, marks := [0] } : IvWindow).accept 0 = none) ∧
    full.slotFor w = none ∧
    (verdict (s.judge 8 1 3 1 0 false) = .accept ∧ verdict (s.judge 8 1 3 1 255 true) = .token ∧ verdict (s.judge 8 1 3 1 255 false) = .drop ∧
      verdict (s.judge 8 1 3 1 191 true) = .reject ∧ verdict (s.judge 8 1 3 1 63 true) = .accept) ∧
    (((s.judge 8 1 3 1 0 false).1.entryFor k 0).any (fun u => (u.peerTgt 8 0x8000 0 true) == some (.loc 0x8000) && (u.arrival k).any fun x => x.r == 0) = true) ∧
    (k.win ≠ 32 ∧ ({ s with arrivals := [a] } : State).arrival k = some a ∧ ({ s with arrivals := [a] } : State).clk < a.deadline ∧ s.frozen 8 = false ∧
      ({ s with arrivals := [{ a with r := 3 }], clk := 10 } : State).arrival k = some { a with r := 3 }) ∧
    (let c : Closer := { handle := 0, key := key0, lid := 2, pc := 0, flag := 0x8000, value := 1, scope := 5, before := 9, grp := 0, sent := true }
     let q : Pend := { vdn := 1, count := 2, r := 0, resends := 3, deadline := 10 }
     let x := s.setWindow 8 3 { Window.reset with st := .closing, pending := [q], closer := some c }
     (x.window 8 3).pend 1 = some q ∧ (x.window 8 3).closer = some c ∧ (x.window 8 3).copies = [] ∧ (x.window 8 3).inc.toNat = 0 ∧ (x.window 8 3).closing.toNat = 0 ∧
     (let y := s.setWindow 8 3 { Window.reset with st := .closing, pending := [{ q with resends := 0 }, { q with vdn := 2 }], closer := some c }
      (y.window 8 3).pend 1 = some { q with resends := 0 } ∧ (y.window 8 3).pending.filter (fun p => p.vdn != 1) ≠ []) ∧ (x.window 8 3).pending.filter (fun p => p.vdn != 1) = [] ∧ x.clk < q.deadline) ∧
    ((s.dup 8 1).judge 0 = .perform ∧ ((s.dup 8 1).mark 0).judge 0 = .repeated none ∧ ((s.dup 8 1).mark 4097).judge 1 = .old ∧
      ({ high := 1, marks := [(0, some .queued)] } : DupFilter).judge 0 = .repeated (some .queued) ∧
      (s.performPeer (p (.seepToken 0 0 0)) 0 0x8000 (.ld 4)).2 = some (.done 4 0) ∧
      (s.performPeer (p (.request 0 0x8000 (.llock { dev := 2, bid := 7, grp := 0 } 0 0 0))) 0 0x8000 (.llock { dev := 2, bid := 7, grp := 0 } 0 0 0)).2 = none) ∧
    (let np : NonPosted := { id := 5, tok := 5, f := 8, vdn := 1, seq := 0, bid := 1, grp := 0, tid := 0, va := 0x100000, ipa := 0x40000, op := .ld 4, dst := [8], signed := 0, pred := none, acq := false, handle := 0, done := none, deadline := 10, tries := 3, pent := false }
     let x : State := { s with nps := [np] }
     x.nps.find? (fun y => y.f == 8 && y.vdn == 1 && y.seq == 0) = some np ∧ x.clk < np.deadline ∧ np.deadline ≤ ({ x with clk := 10 } : State).clk ∧ x.frozen 8 = false ∧ 3 ≤ np.tries ∧ np.pent = false ∧ ({ np with pent := true } : NonPosted).pent = true ∧ ([{ np with tries := 2 }].find? fun y => y.id == 5) = some { np with tries := 2 }) ∧
    (let po : Posted := { id := 5, tok := 5, bid := 1, grp := 0, pkt := w }
     ({ s with posts := [po] } : State).posts.find? (fun y => y.id == 5) = some po) ∧
    (s.mayRefresh (rxKey w) = true ∧ (s.setLink (rxKey w) { LinkState.reset with refreshAt := some 0 }).mayRefresh (rxKey w) = false ∧
      ((s.setLink (rxKey w) { LinkState.reset with overlap := some 5 }).link (rxKey w)).overlap = some 5) := by decide

/-- A control packet and one of a session in its stop phase that wait for their fibres. -/
theorem witness_FabricPackets_transmit :
    let p (b : Body) (f : Nat) : Packet := {
      srcDev := 0, dstDev := 2, srcFun := f, dstFun := 0, svdn := 0, dvdn := 0, handle := 0, phase := false, ctr := 0, flits := [], good := true, body := b }
    let s : State := { State.reset.setMig 7 3 0 false with txq := [p (.seepToken 1 0 0) 7] }
    ∃ g, let l (s : State) := s.txq.filter fun p => Config.receivePort s.phys p.dstDev == g
      (l s).find? (fun p => packetClass p.body == .migration && s.migState p.srcFun == 3) = some (p (.seepToken 1 0 0) 7) ∧
      (∀ q ∈ l s, packetClass q.body ≠ .control) ∧
      (l { s with txq := [p (.switchAck 1) 7] }).find? (fun p => packetClass p.body == .control) = some (p (.switchAck 1) 7) := by
  refine ⟨Config.receivePort (State.reset.setMig 7 3 0 false).phys 2, ?_, ?_, ?_⟩ <;> simp [packetClass] <;> decide

/-- Packets whole and not; fibres; a change of key phase that its other end answers. -/
theorem witness_FabricPackets_link :
    let s := withPeer at0
    let p (b : Body) : Packet := {
      srcDev := 2, dstDev := 0, srcFun := 8, dstFun := 8, svdn := 1, dvdn := 0, handle := 0, phase := false, ctr := 0,
      flits := (List.range (flitsOf b)).map fun i => (i, true), good := true, body := b }
    let w : Packet := p (.write 3 1 0 0 0x8000 [1, 2, 3, 4])
    (intact w = true ∧ flitsOf w.body = 2 ∧ [([(0, true)], false), ([(0, true), (1, false)], false), ([(1, true), (0, true)], true)].all (fun x =>
      intact { w with flits := x.1 } == x.2) = true ∧ isSealed w.body = true ∧ isSealed (Body.spdm 0 0 0 0) = false ∧ s.tagGood w = true ∧
      s.tagGood { w with good := false } = false ∧ s.staleVdn w = false ∧ s.staleVdn { w with svdn := 5 } = true ∧ s.holds 8 = false) ∧
    -- a fibre in service and one out of it, that has never been tested, is to be, is under test and has passed it
    (bit (s.sys 0x0DA0).toNat 31 = true ∧ bit ((s.setSys 0x0DA0 0x7FFFFFFF).sys 0x0DA0).toNat 31 = false ∧ s.sysregs.wf sysReset = true ∧
      Tab.get (fun _ => 0) s.fibreRuns (fibreKey 0 31) = 0 ∧ Tab.get (fun _ => 0) s.fibreNext (fibreKey 0 31) ≤ s.clk ∧
      s.clk < Tab.get (fun _ => 0) ({ s with fibreNext := [(31, 9)] } : State).fibreNext (fibreKey 0 31) ∧
      (let x : State := { s with fibreRuns := [(31, 1)], fibreErrs := [(31, List.replicate 15 1)] }
       Tab.get (fun _ => 0) x.fibreRuns (fibreKey 0 31) ≠ 0 ∧ x.clk + 1 < 1 + us 1000 ∧ 1 + us 1000 ≤ ({ x with clk := us 1000 } : State).clk + 1 ∧
       16 ≤ (x.clk :: (Tab.get (fun _ => []) x.fibreErrs (fibreKey 0 31)).filter fun c => x.clk < c + us 1000).length)) ∧
    (let t : State := s.setLink (rxKey w) { LinkState.reset with asked := true }
     (t.link (rxKey w)).asked = true ∧ (p (.refresh 0 true true)).srcFun = (rxKey w).fun' ∧ (rxKey w).dev = 2) := by decide

/-- Layout registers with a refused, a busy and an accepted value; each function state; shoot-downs; a page and its owner; a page that moves. -/
theorem witness_Partitions :
    let r := State.reset
    let vf (st mv : Nat) : State := r.setVf 7 st mv 0
    let c : ShootCmd := { guest := false, f := 7, addr := 0x8000, n := 0, asid := 0 }
    let move : PageMove := { src := 0x8000, dst := 0x10000, leaf := 0x4000, size := 4096, f := 8, ipa := 0x8000, held := [], reads := [] }
    (r.sysregs.wf sysReset = true ∧ r.bar0.wf barReset = true ∧ (3 < 4) ∧ (0x01 ∉ [0x00, 0xA0, 0xE4, 0xE0, 0xA4]) ∧ (0xE4 ∈ [0x00, 0xA0, 0xE4, 0xE0, 0xA4])) ∧
    (((List.range 4).filter fun d => diesOf 0 (dieIdOf 0 d) != diesOf 0xE4 (dieIdOf 0xE4 d)).length ≠ 2 ∧ ((List.range 4).all fun d => r.dieIdle d) = true ∧
      (at0.dieIdle 0 = false)) ∧
    (((List.range 8).all fun f => r.funcDisabled f) = true ∧ bits (r.milv 3) 1 0 = 0) ∧
    ((r.vfState 7 = 0 ∧ r.recovery = false) ∧ ((List.range 6).all fun st => (vf st 0).vfState 7 == st && !(vf st 0).vfMoving 7) = true ∧
      (vf 2 1).vfMoving 7 = true ∧ r.disables = [] ∧ r.stale = [] ∧ ({ r with stale := [7] } : State).stale.contains 7 = true ∧ (vf 4 0).busyQ 7 = 0) ∧
    (lockedFunc 0x0670 = some 7 ∧ r.vmidClash 7 0 = false) ∧
    (bit (r.invb c) 31 = false ∧ bit ((r.setInvb c (2 ^ 31)).invb c) 31 = true ∧ c.f ≤ 8) ∧
    (let s : State := { r with shoots := [(0, 1, c, 5)] }
     (s.shoots.find? fun x => x.1 == 0) = some (0, 1, c, 5) ∧ s.settled 7 5 = true ∧ (issued 0xA3880880 [(4, 0x8000)]).settled 8 100 = false) ∧
    (let s : State := { (r.setSys 0x06A0 8) with handles := [(3, { gen := 0, tag := 1, wrapped := 0 })] }
     s.handle? 3 = some { gen := 0, tag := 1, wrapped := 0 } ∧ s.pageMove = none ∧ bit (s.sys 0x06A1).toNat 31 = false ∧ s.isLocal 0x8000 = true ∧ s.owner 0x8000 = 0) ∧
    (({ r with pageMove := some move } : State).pageMove = some move ∧ move.dst + move.size ≤ 2 ^ 44 ∧ (move.src + move.size ≤ move.dst) ∧ (move.leaf + 8 ≤ move.dst) ∧
      move.size ≠ 2 ^ 16) := by decide

/-- The layout of four partitions; MILV values; boundaries; ways; a function that is frozen. -/
theorem witness_Partitions_layout :
    let r := State.reset
    let vf (st mv : Nat) : State := r.setVf 7 st mv 0
    -- the layout of four partitions, with the masks and boundaries that go with it
    (let q := (List.range 4).foldl (fun s d => s.setSys (0x0801 + d) (BitVec.ofNat 32 (16 * 2 ^ d))) r |>.setSys 0x0805 0
     let n := 0xE4
     let moved := (List.range 4).filter fun d => diesOf (q.sys 0x0800).toNat (dieIdOf (q.sys 0x0800).toNat d) != diesOf n (dieIdOf n d)
     moved.length = 4 ∧ (moved.all q.dieIdle) = true ∧
     ((List.range 4).all fun d => bits (q.milv d) 7 4 == ((diesOf n (dieIdOf n d)).map fun k => 2 ^ k).sum) = true ∧
     ((List.range 4).all fun i => bit (q.sys 0x0805).toNat i == (dieIdOf n (boundary i).1 == dieIdOf n (boundary i).2)) = true ∧
     ((List.range 9).all fun f => q.funcDisabled f) = true) ∧
    -- a mode and ways that are not legal, a function that is not disabled, boundaries of a busy die
    (let o := r.milv 3
     bits 2 1 0 ≥ 2 ∧ bits (o + 0x400) 11 8 = 4 ∧ (r.funcsOf (r.dieId 3)).all r.funcDisabled = true ∧
     ((vf 1 0).funcsOf ((vf 1 0).dieId 3)).all (vf 1 0).funcDisabled = false ∧ (vf 1 0).dieIdle 3 = true) ∧
    ((boundary 0).1 = 0 ∧ at0.dieIdle (boundary 0).1 = false ∧ r.dieIdle (boundary 0).1 = true) ∧
    -- ways that may be locked, and none
    (((vf 1 0).setSys (fReg 0x0900 7 3) 1).lockable 7 = true ∧ ((vf 1 0).setSys (fReg 0x0900 7 3) 0).lockable 7 = false) ∧
    (((vf 4 0).session 7).held = [] ∧ ((vf 4 0).session 7).frozen = none ∧
      ((vf 4 0).setSession 7 { Session.reset with frozen := some 0 } |>.session 7).frozen = some 0) := by decide

/-- A RESUME of the same cycle, a clashing VMID; an owner command with accesses outstanding and with none; boundaries. -/
theorem witness_Partitions_commands :
    let r := State.reset
    let vf (st : Nat) : State := r.setVf 7 st 0 0
    let c : ShootCmd := { guest := false, f := 0, addr := 0x8000, n := 0, asid := 1 }
    let own (s : State) : State := { s with shoots := [(10, 4, c, 100)] }
    (Tab.get (fun _ => 0) (vf 3).resumes 7 ≠ (vf 3).clk + 1 ∧ Tab.get (fun _ => 0) ({ vf 3 with resumes := [(7, 1)] } : State).resumes 7 = (vf 3).clk + 1) ∧
    (lockedFunc 0x0672 = some 7 ∧ (0x0672 / 256 = 6 ∧ 0x0672 % 16 = 2) ∧ ((vf 1).setSys 0x0602 0x80000005).vmidClash 7 0x80000005 = true ∧
      ((vf 1).setSys 0x0602 0x80000005).vmidClash 7 0x80000006 = false) ∧
    (((own r).shoots.find? fun x => x.1 == 10) = some (10, 4, c, 100) ∧ ((List.range 9).all fun f => (own r).settled f 100) = true ∧
      (own (issued 0xA3880880 [(4, 0x8000)])).settled 8 100 = false) ∧
    (r.l1 = [] ∧ r.shoots = []) := by decide

/-- A page of a function whose stage 2 maps it, with a destination of its size. -/
theorem witness_PageMigration :
    let leaf (oa fl : Nat) : List Byte := leBytes (oa + fl) 8
    let s : State := { (((State.reset.setSys 0x0600 0x4000).setSys 0x0602 0x80000000).setSys 0x0690 8).setSys 0x0691 16 with
      mem := ((((Memory.store [] 0x4000 (leaf 0x5000 1)).store 0x5000 (leaf 0x6000 1)).store 0x6000 (leaf 0x7000 1)).store 0x7040 (leaf 0x8000 0x87)) }
    bit (s.sys (fReg 0x0600 0 2)).toNat 31 = true ∧
    walkLevels true (fun p => some (s.mem.read p 8)) 0x8000 [0, 1, 2, 3] (s.s2root 0) = some (0x8087, 12, 0x7040) ∧
    leafOut 0x8087 12 0x8000 = (s.sys 0x0690).toNat * 4096 ∧ s.isLocal 0x10000 = true ∧ s.owner 0x10000 = 0 ∧ bit (s.sys 0x0693).toNat 31 = false ∧
    s.shoots = [] ∧ s.tracked 0x8000 4096 = false := by decide

/-- A session in each state, a descriptor with granules marked, packets of the other end, redirecting entries. -/
theorem witness_Migration :
    let r := (State.reset.setVf 7 3 0 0).setSys 0x0A72 0x05021100
    let m (st : Nat) : State := r.setMig 7 st 0 false
    let x : Session := { Session.reset with tracking := true }
    let d := (leBytes 0x200000 8) ++ (leBytes 0x200000 8) ++ (leBytes 1 8) ++ (leBytes 0x1000000 8)
    (r.sysregs.wf sysReset = true ∧ (r.sessions.wf fun _ => Session.reset) = true ∧ (15 < 16)) ∧
    (([0, 1, 2, 3, 4, 5, 6, 8, 9, 10].all fun st => (m st).migState 7 == st) = true ∧ r.vfState 7 = 3 ∧ (r.setVf 7 2 0 0).vfState 7 = 2 ∧ r.badPeer 7 = false ∧
      (r.setSys 0x0A72 0x0002F100).badPeer 7 = true ∧ r.ckEn 7 = false ∧ (r.setSys 0x0A76 1).ckEn 7 = true ∧ r.pdev 7 = 2 ∧ r.pdev 7 ≠ 3) ∧
    ((r.setMig 7 10 0 true).swDone 7 = true ∧ ((m 6).setVf 7 6 0 0).vfState 7 = 6 ∧ ((m 6).session 7).held = []) ∧
    ((m 9).session 7).switched = false ∧ (((m 9).setSession 7 { x with switched := true, acks := List.range 63 }).session 7).acks.contains 63 = false ∧
    ((r.setVf 7 5 0 0).vfState 7 = 5 ∧ (r.saveArea 7).2 = 0 ∧ (((r.setSys 0x0772 1).saveArea 7).2 = 2 ^ 20)) ∧
    (let img := State.reset.capture 7
     let s := (m 3).setSession 7 { x with image := some img }
     (s.session 7).image = some img ∧ (s.session 7).desc = 0 ∧ (s.session 7).word = 0 ∧ (s.session 7).expect = none ∧
     img.launches = [] ∧ img.major = 1) ∧
    (let s := (m 3).setSession 7 { x with tracking := false }
     (s.session 7).image = none ∧ s.backlog 7 = 0 ∧ (s.session 7).desc = 0 ∧ (s.session 7).word = 0 ∧ (s.session 7).expect = none ∧ r.ideSecure = false) ∧
    (let s : State := { (m 2).setSys 0x0A70 0x4000 with mem := (Memory.store [] 0x4000 d).store 0x1000000 (leBytes 5 8) }
     (s.trackDescs 7).length = 1 ∧ (s.trackDescs 7)[0]?.any (fun d => s.mem.read d.bitmap 8 == 5 && decide (0 + 1 ≠ 64 * d.units)) = true ∧ s.poisoned = [] ∧
     s.ckEn 7 = false ∧ (s.session 7).expect = none ∧ (s.session 7).image = none ∧ (0x200000 / 128 + 0) ∈ ({ s with poisoned := [0x4000] } : State).poisoned ∧
     (((m 5).setSession 7 { x with finishing := true }).session 7).finishing = true) ∧
    (let s : State := (List.range 9).foldl (fun s f => s.setSys (fReg 0x0600 f 2) 0x80000000) { r.setSys 0x0A70 0x4000 with mem := Memory.store [] 0x4000 d }
     s.trackOk 7 = true) := by decide

/-- Packets for a function that has moved, a granule that arrives, a release, redirecting entries, credits. -/
theorem witness_Migration_packets :
    let r := (State.reset.setVf 7 3 0 0).setSys 0x0A72 0x05021100
    let m (st : Nat) : State := r.setMig 7 st 0 false
    let x : Session := { Session.reset with tracking := true }
    let p (b : Body) : Packet := { srcDev := 2, dstDev := 0, srcFun := 1, dstFun := 7, svdn := 0, dvdn := 0, handle := 0, phase := false, ctr := 0, flits := [], good := true, body := b }
    ((((m 1).setSession 7 { x with forwarding := true }).session 7).forwarding = true ∧ (m 1).inbufRoom = true ∧
      (((m 1).setSession 7 { x with oxEnd := some 0 }).session 7).oxEnd = some 0 ∧ (m 1).clk < 5 ∧
      (((m 1).setSession 7 { x with frozen := some 0 }).session 7).frozen.isSome = true ∧ (((m 1).setSession 7 { x with frozen := some 0 }).session 7).forwarding = false) ∧
    ((m 8).fromPeer (p (.seep 5 0 0 0x8000 0 [])) 5 = true ∧ (m 8).fromPeer (p (.seep 6 0 0 0x8000 0 [])) 6 = false ∧
      ((m 8).stage2 7 0x8000).any (fun t => t.tgt == .loc 0x8000 && t.w) = true ∧ ((m 8).stage2 7 (2 ^ 45)).isNone = true ∧ (m 8).owner 0x8000 = 0) ∧
    -- the pass under way, the one closed, an older one; a page of the image that fits the save area and one that does not
    ((m 8).seepOpen 7 = true ∧ (m 10).seepOpen 7 = true ∧ (m 1).seepOpen 7 = false ∧ (let s := (m 8).setSession 7 { Session.reset with epoch := 255 }
      (s.session 7).epoch + 1 = 0 ∧ (s.session 7).r = 0 ∧ (s.session 7).expect = none ∧ s.seepAccepts (p (.seepImage 5 0 0 0 [1])) 5 0 0 = true ∧
      s.seepAccepts (p (.seepImage 5 255 0 0 [1])) 5 255 0 = false ∧ (s.saveArea 7).2 < 0 + 1 ∧ 0 + 1 ≤ ((s.setSys 0x0772 1).saveArea 7).2)) ∧
    ((((m 8).setSession 7 { x with expect := some (0, some (r.capture 7)) }).session 7).expect = some (0, some (r.capture 7))) ∧
    (let e := (m 4).setSys 0x1205 0x0500011E
     e.vdne 8 5 % 4 = 2 ∧ vdnPhys (e.vdne 8 5) = e.phys ∧ vdnFunc (e.vdne 8 5) = 7 ∧ bits (e.vdne 8 5) 31 24 = 5) ∧
    (8 < bits 0x24 5 2 ∧ bits 0x20 5 2 ≤ 8) ∧ ((r.credits.wf fun _ => 0) = true ∧ r.ctrlWait = []) := by decide

/-- SAVE finds room for its image or none; LOAD finds an image or none: how a record of one lies in its bytes is free (log entry 20). -/
theorem witness_Migration_image (s : State) (f : Nat) :
    ((s.saveArea f).2 < (layoutBytes (s.capture f)).length ∨ (layoutBytes (s.capture f)).length ≤ (s.saveArea f).2) ∧
    (s.imageIn f = none ∨ ∃ img, s.imageIn f = some img) :=
  ⟨Nat.lt_or_ge _ _, by cases s.imageIn f <;> simp⟩

set_option maxRecDepth 8000 in
/-- Launches of an image whose keys stand here and do not, that fit and do not; a switch that names this session, and others. -/
theorem witness_Migration_load :
    let r := (State.reset.setVf 7 3 0 0).setSys 0x0A72 0x05021100
    let s (st : Nat) : State := r.setMig 7 st 0 false
    let big : Record := { probeRecord with shape := 0xFFFFFFFF }
    (r.keyStands probeRecord = true ∧ r.keyStands { probeRecord with key := 3 } = false ∧ probeRecord.isCopy = false ∧ r.tooLarge 7 big = true ∧
      r.tooLarge 7 probeRecord = false) ∧
    ((s 4).migState 7 = 4 ∧ (s 3).migState 7 = 3 ∧ ((s 3).session 7).image = none ∧ r.ckEn 7 = false ∧ r.mtag 7 = 5 ∧ r.pdev 7 = 2 ∧ r.pfunc 7 = 1 ∧ r.mtag 7 ≠ 6) := by decide

/-- No stage has failed where there is none; a connection with and without algorithms, an exchange and a session; a handle with and without pages. -/
theorem witness_BootAndTrust :
    let r := State.reset
    let sp (a b c : Bool) : State := { r with spdm := { r.spdm with negotiated := a, exchanged := b, secured := c } }
    let s : State := { sp true true true with handles := [(3, { gen := 255, tag := 1, wrapped := 0 })] }
    (([] : List BootStage).take 3)[0]? = none ∧ (r.measure.wf fun _ => 0) = true ∧ (r.linkSecrets.wf fun _ => 0) = true ∧
    ((sp true false false).spdm.negotiated = true ∧ (sp false true false).spdm.exchanged = true ∧ (sp false false true).spdm.secured = true) ∧
    (r.spdm.negotiated = false ∧ r.spdm.exchanged = false ∧ r.spdm.secured = false) ∧
    (r.handle? 3 = none ∧ (2 ^ 24 - 1 < 2 ^ 24)) ∧ s.handle? 3 = some { gen := 255, tag := 1, wrapped := 0 } ∧
    -- an owner command of its tag, that its removal waits for
    (s.shoots = [] ∧ ({ s with shoots := [(10, 4, { guest := false, f := 0, addr := 0, n := 0, asid := 1 }, 0)] } : State).shoots.any (fun x => x.1 == 10 && !x.2.2.1.guest && x.2.2.1.asid == 1) = true) ∧
    (s.owners = [] ∧ ({ s with owners := [(8, 1)] } : State).owners.any (fun e => e.2 == 1) = true) := by decide

theorem witness_freeTag : State.reset.freeTag = some 1 := by
  rw [State.freeTag, show (4095 : Nat) = 4094 + 1 from rfl, List.range_succ_eq_map]
  rfl

/-- The state after reset is one to which `FormsKept` applies. -/
theorem witness_FormsKept : State.reset.Inv := reset_inv

theorem witness_FormsKept_next : ∃ t, step State.reset = .next t := ⟨_, rfl⟩

/-! Which instructions are legal: one for each check that it refuses, with the rule; and the nearest value that it takes. -/

theorem test_illegal_fields :
    ([Instr.movSv 7 8 9,                                                                   -- R93: codes 0 to 8
      .cvt 7 8 4 0 1 1, .cvt 7 8 4 0 7 0, .cvt 7 8 4 0 0 7, .cvt 7 8 4 0 6 1, .cvt 7 8 4 0 1 6,  -- R126
      .ld 7 8 4 7 1 0, .ldC 7 8 4 7 0, .st 7 8 4 5 1 0,                                    -- R141, R144, R145
      .mmaF16 7 1 3 2 9 21, .mmaBf16 7 1 3 2 9 21, .mmaE4m3 7 1 3 2 9 21, .mmaE4m3e5m2 7 1 3 2 9 21,  -- R186
      .mmaE5m2 7 1 3 2 9 21, .mmaS8 7 1 3 2 9 21, .mmaE2m1 7 1 3 2 9 21, .mmaBf16s4 7 1 3 2 9 21,
      .fence 7 3 1, .fence 7 0 0,                                                          -- R154
      .hbarArrive 7 8 2 0, .hbarArrive 7 8 4 8, .hbarArrive 7 8 5 4, .hbarArrive 7 8 6 2,  -- R169
      .hbarWait 7 8 7 0, .hbarWait 7 8 6 2,
      .regacq 7 0, .regacqTry 7 3 0, .regrel 7 0,                                          -- R105, R106
      .cpLaneB32 7 8 4 5 0 0, .cpLaneB64 7 8 4 1 1 0, .cpLaneB128 7 8 4 0 0 1,             -- R176
      .fst 7 3 3 4 12, .fld 7 8 4 3 7, .fatom 7 8 4 9 3, .fwclose 7 3 3 4 12,              -- R197 to R200
      .fwopen 7 32 1, .fwopenFree 7 32, .trd 7 8 6].all fun i => !i.wf) = true := by decide

theorem test_legal_fields :
    ([Instr.movSv 7 8 8, .cvt 7 8 4 0 6 0, .cvt 7 8 4 0 0 6, .ld 7 8 4 6 1 0, .ldC 7 8 4 6 0, .st 7 8 4 4 1 0, .mmaF16 7 1 2 2 9 21,
      .fence 7 2 1, .hbarArrive 7 8 3 15, .hbarWait 7 8 6 1, .regacq 7 1, .cpLaneB32 7 8 4 0 0 0, .cpLaneB64 7 8 4 2 1 0,
      .fst 7 2 3 4 12, .fld 7 8 4 2 7, .fatom 7 8 4 8 3, .fwopen 7 31 1, .trd 7 8 5].all Instr.wf) = true := by decide

/-- Pairs and quads that are not aligned (R26), a payload that nothing takes, and a pair whose second word is illegal (R28, R35). -/
theorem test_illegal_operands :
    ([Instr.addB64 7 9 4 4, .addB64 7 8 5 4, .addB64 7 8 4 13, .mulWideZ 7 9 4 12, .jmp 7 5, .atomCasB64 7 8 4 13, .lklog 7 10 4,
      .lim 1 0x8B800000, .lim 1 0x8BFF0000, .lim 0 0xFC000000].all fun i => !i.wf) = true ∧
    ([Instr.addB64 7 8 4 12, .lklog 7 12 4, .lim 0xC3 0x43850CA0].all Instr.wf) = true := by decide

/-- The worked pair of R28. -/
theorem test_decode_lim : decodePair 0xFC0000C3 0x43850CA0 = some (.lim 0xC3 0x43850CA0) := by decide

/-! One step of an instruction. Its fields are d = 8, a = 4, b = 12, as in the words above. -/

/-- A register after a word's issue. -/
def res (w : Nat) (l : List (Nat × Nat)) (d : Nat) : Nat := (thr (issued w l)).reg d

/-- A predicate after a word's issue. -/
def resP (w : Nat) (l : List (Nat × Nat)) (p : Nat) : Bool := (thr (issued w l)).pred p

/-- `v8` and `v9` after a word whose `v4` and `v12` hold A and B. -/
def ab (w a b : Nat) : Nat := res w [(4, a), (12, b)] 8

def ab64 (w a b : Nat) : Nat :=
  let t := thr (issued w [(4, a % 2 ^ 32), (5, a / 2 ^ 32), (12, b % 2 ^ 32), (13, b / 2 ^ 32)])
  t.reg 8 + 2 ^ 32 * t.reg 9

def m1 : Nat := 0xFFFFFFFF

/-- R88. -/
theorem test_arithmetic :
    ab 0x0782020C m1 2 = 1 ∧ ab 0x07A2020C 1 2 = m1 ∧ ab64 0x07C2020C m1 1 = 0x100000000 ∧ ab64 0x07E2020C 0x100000000 1 = m1 ∧
    ab 0x0B82020C m1 1 = 1 ∧ ab 0x0B82020C m1 0 = 0 ∧ ab 0x0BA2020C 1 2 = 1 ∧ ab 0x0BA2020C 2 2 = 0 ∧ ab 0x0BC2020C m1 3 = 0xFFFFFFFD ∧
    ab64 0x0BE2020C m1 2 = 0x1FFFFFFFE ∧ ab64 0x0FE2020C m1 2 = 0xFFFFFFFFFFFFFFFE ∧ ab 0x0F82020C m1 2 = m1 ∧ ab 0x0FA2020C m1 2 = 1 ∧
    res 0x0FC2020C [(4, 3), (12, 5), (8, 7)] 8 = 22 ∧ ab 0x1382020C m1 1 = m1 ∧ ab 0x13A2020C m1 1 = 1 ∧ ab 0x13C2020C m1 1 = 1 ∧
    ab 0x13E2020C m1 1 = m1 := by decide

/-- R89. -/
theorem test_shifts :
    ab 0x1782020C m1 32 = 0 ∧ ab 0x1782020C 1 31 = 0x80000000 ∧ ab 0x17A2020C m1 0x80000000 = 0 ∧ ab 0x17C2020C 0x80000000 40 = m1 ∧
    ab 0x17C2020C 0x7FFFFFFF 40 = 0 ∧ ab 0x17E2020C 0x80000001 33 = 3 ∧ ab64 0x1B82020C 1 63 = 2 ^ 63 ∧ ab64 0x1BA2020C (2 ^ 63) 63 = 1 ∧
    ab64 0x1BC2020C (2 ^ 63) 64 = 2 ^ 64 - 1 ∧ ab 0x1F82020C 12 10 = 8 ∧ ab 0x1FA2020C 12 10 = 14 ∧ ab 0x1FC2020C 12 10 = 6 ∧ ab 0x1FE2020C 12 10 = 4 ∧
    ab 0x23820200 m1 0 = 32 ∧ ab 0x23A20200 0 0 = 32 ∧ ab 0x23A20200 1 0 = 31 := by decide

/-- R90, with its examples. -/
theorem test_bit_fields :
    res 0x1BE2020C [(4, 0x11223380), (5, 0), (12, 0x53)] 8 = 0x80332211 ∧ res 0x1BE2020C [(4, 0x11223380), (5, 0), (12, 0x8053)] 8 = 0xFF332211 ∧
    ab 0x23C2020C 0xF0 0x10404 = m1 ∧ ab 0x23C2020C 0xF0 0x0404 = 15 ∧ ab 0x23C2020C 0x80000000 0xFF1F = 1 ∧ ab 0x23C2020C m1 0x40 = 0 ∧
    res 0x23E2020C [(4, m1), (12, 0x0404), (8, 0x12345678)] 8 = 0x123456F8 := by decide

/-- R91 to R94. -/
theorem test_moves :
    resP 0x2781020C [(4, 1), (12, 1)] 4 = true ∧ resP 0x27A1020C [(4, 1), (12, 1)] 4 = false ∧ resP 0x27C1020C [(4, m1), (12, 1)] 4 = true ∧
    resP 0x27E1020C [(4, m1), (12, 1)] 4 = false ∧ resP 0x2B81020C [(4, 1), (12, 1)] 4 = true ∧ resP 0x2BA1020C [(4, 2), (12, 1)] 4 = false ∧
    resP 0x2BC1020C [(5, 1)] 4 = false ∧ resP 0x2BE1020C [(5, 0x80000000)] 4 = true ∧ resP 0x2F81020C [(5, 0x80000000)] 4 = false ∧
    res 0x2FA2020C [(4, 3), (12, 5), (8, 1)] 8 = 3 ∧ res 0x2FA2020C [(4, 3), (12, 5), (8, 0)] 8 = 5 ∧ res 0x2FC20200 [(4, 3)] 8 = 3 ∧
    res 0x438809F0 [(4, 5)] 8 = m1 - 10 ∧ res 0x4B88FFFE [] 8 = m1 - 1 ∧ res 0x478809F0 [(4, 5)] 9 = m1 ∧
    resP 0x6BA10200 [(4, 9)] 4 = true ∧ resP 0x67E10100 [] 4 = true ∧ resP 0x67A10102 [] 4 = false := by decide

/-- R114 with its example, R115, R116, R117, R118; the flag word NV, DZ, OF, UF, NX. -/
theorem test_float :
    res 0x33E2020C [(4, 0x3F800800), (12, 0x3F800800), (8, 0xBF800000)] 8 = 0x3A000400 ∧
    (thr (issued 0x33E2020C [(4, 0x3F800800), (12, 0x3F800800), (8, 0xBF800000)])).flags = 0 ∧
    ab 0x33C2020C 0x3F800800 0x3F800800 = 0x3F801000 ∧ (thr (issued 0x33C2020C [(4, 0x3F800800), (12, 0x3F800800)])).flags = 1 ∧
    ab 0x3382020C 0x3F800000 0x40000000 = 0x40400000 ∧ ab 0x33A2020C 0x7F800000 0x7F800000 = 0x7FC00000 ∧
    (thr (issued 0x33A2020C [(4, 0x7F800000), (12, 0x7F800000)])).flags = 16 ∧
    ab 0x3782020C 0x80000000 0 = 0x80000000 ∧ ab 0x37A2020C 0x80000000 0 = 0 ∧ ab 0x37A2020C 0x7FC00000 1 = 1 ∧
    resP 0x37C1020C [(4, 0x80000000), (12, 0)] 4 = true ∧ resP 0x37E1020C [(4, 0x80000000), (12, 0)] 4 = false ∧
    resP 0x3BA1020C [(4, 0x7FC00000), (12, 0)] 4 = true ∧ ab 0x3BC20200 0xFFA00001 0 = 0x7FA00001 ∧ ab 0x3BE20200 0x7FA00001 0 = 0xFFA00001 ∧
    ab 0x5BE20200 0xBE99999A 0 = 0x80000000 ∧ ab 0x5BE20200 0x40200000 0 = 0x40000000 := by decide

/-- R119 with its example, R120, R121, R123. -/
theorem test_packed :
    res 0x4FE2020C [(4, 0x40003F80), (12, 0x7F803F80), (8, 0xFF80BF80)] 8 = 0x7FC00000 ∧
    (thr (issued 0x4FE2020C [(4, 0x40003F80), (12, 0x7F803F80), (8, 0xFF80BF80)])).flags = 16 ∧
    ab 0x3F82020C 0x3C004000 0x3C003C00 = 0x40004200 ∧ res 0x63C2020C [(4, 0x3C004000), (12, 0x3C003C00), (8, 0x3F800000)] 8 = 0x40800000 ∧
    ab 0x57820200 0x40000000 0 = 0x3F000000 ∧ ab 0x57820200 0 0 = 0x7F800000 ∧ (thr (issued 0x57820200 [])).flags = 8 ∧
    ab 0x57C20200 0x40800000 0 = 0x40000000 ∧ ab 0x57E20200 0x40400000 0 = 0x41000000 ∧ ab 0x5B820200 0x41000000 0 = 0x40400000 := by decide

/-- A cause of trap after a step, with its resume address and auxiliary. -/
def trapOf (s : State) : Nat × Nat × Nat × Nat :=
  let f := (thr s).frame
  (f.cause, f.pc.toNat, f.resume.toNat, f.aux.toNat)

/-- A launch with a handler at 64. -/
def withHandler (s : State) : State := { s with launches := s.launches.map fun l => { l with record := { l.record with handler := 64 } } }

/-- R96, R99, R101, R102, R103, R35: where the next instruction stands, and what a trap leaves. -/
theorem test_control :
    ((thr (issued 0x83800005 [])).pc = 20 ∧ (thr (issued 0x8B810010 [(4, 400)])).pc = 400 ∧
      (let t := thr (issued 0x8B821010 [(4, 400)]); t.pc = 400 ∧ t.reg 8 = 4) ∧ (thr (issued 0x8B882600 [])).wb = 3) ∧
    (let s := after (withHandler (probe 0x8B861000)); (thr s).pc = 64 ∧ (thr s).inHandler = true ∧ trapOf s = (23, 0, 4, 8)) ∧
    (let s := after (withHandler (withRegs [(4, 402)] (probe 0x8B810010))); (thr s).pc = 64 ∧ (trapOf s).1 = 3 ∧ (trapOf s).2.2.1 = 0) ∧
    (let s := after (withHandler (probe 0x8BFF0000)); (thr s).pc = 64 ∧ (trapOf s).1 = 1) := by decide

/-- R205, R206: a return, a selector, a register. -/
theorem test_system :
    (let s := after (withThread (fun t => { t with inHandler := true, frame := { cause := 23, pc := 8, resume := 12, addr := 0, aux := 5 } }) (probe 0xFB800000))
     (thr s).pc = 12 ∧ (thr s).inHandler = false) ∧
    (thr (after (withThread (fun t => { t with inHandler := true, frame := { cause := 23, pc := 8, resume := 12, addr := 0, aux := 5 } }) (probe 0xFB811008)))).reg 8 = 0 ∧
    res 0xEFA20800 [] 8 = 0 ∧ resP 0xEFA20800 [] 4 = true ∧ (trapOf (after (withHandler (withRegs [(4, 48)] (probe 0xFB9A1010))))).1 = 1 := by decide

/-- R141, R145: a load stands in flight with its address and its size; a store waits in the queue with its bytes, the least first. -/
theorem test_memory :
    (let s := issued 0xA38808A5 [(4, 0x8000)]; s.loads.map (fun l => (l.tgt, l.n, l.dst)) = [(.loc 0x8014, 4, [8])]) ∧
    (let s := issued 0xA78808A5 [(4, 0x8000), (8, 0x11223344)]
     s.groups.map (fun g => g.queue.map fun q => (q.tgt, match q.kind with
      | .store d => d
      | _ => [])) = [[(.loc 0x8014, [0x44, 0x33, 0x22, 0x11])]]) := by decide

/-- R100, R101, R105, R106, R197. -/
theorem test_threads_and_windows :
    (issued 0x8B840000 []).threads.length = 0 ∧ (thr (issued 0x8B8A0808 [])).nb = 10 ∧ resP 0x8B8A0808 [] 4 = true ∧ (thr (issued 0x8B8B0008 [])).nb = 6 ∧
    (match (thr (issued 0x8B850000 [])).wait with
      | .yielding _ => true
      | _ => false) = true ∧
    ((issued 0xEF90100C []).window 8 8).st = .open ∧ resP 0xEF90100C [] 3 = true := by decide

end Sys2Proof.Tests
end

/-! # Instruction words

The decoder and the encoder agree in both directions (R17 to R22, R28, R31 to R35). One direction is the law of each instruction
(`Statement`). The other goes over the majors of the opcode map: a word is the sum of its fields, and an instruction of a major writes
exactly the fields that were read, the unused ones being zero. -/

section

namespace Sys2Proof.Laws.Encoding

/-- The words of every instruction decode to it: the law of each instruction, and for a step without an encoding nothing to show. -/
theorem statement_all (i : Instr) : Statement i := by
  cases i with
  | addB32 g d a b => exact Encoding.addB32 g d a b
  | subB32 g d a b => exact Encoding.subB32 g d a b
  | addB64 g d a b => exact Encoding.addB64 g d a b
  | subB64 g d a b => exact Encoding.subB64 g d a b
  | addcB32 g d a b => exact Encoding.addcB32 g d a b
  | subcB32 g d a b => exact Encoding.subcB32 g d a b
  | mulLoB32 g d a b => exact Encoding.mulLoB32 g d a b
  | mulWideZ g d a b => exact Encoding.mulWideZ g d a b
  | mulHiSB32 g d a b => exact Encoding.mulHiSB32 g d a b
  | mulHiZB32 g d a b => exact Encoding.mulHiZB32 g d a b
  | madLoB32 g d a b => exact Encoding.madLoB32 g d a b
  | mulWideS g d a b => exact Encoding.mulWideS g d a b
  | minSB32 g d a b => exact Encoding.minSB32 g d a b
  | maxSB32 g d a b => exact Encoding.maxSB32 g d a b
  | minZB32 g d a b => exact Encoding.minZB32 g d a b
  | maxZB32 g d a b => exact Encoding.maxZB32 g d a b
  | shlB32 g d a b => exact Encoding.shlB32 g d a b
  | shrZB32 g d a b => exact Encoding.shrZB32 g d a b
  | shrSB32 g d a b => exact Encoding.shrSB32 g d a b
  | rotB32 g d a b => exact Encoding.rotB32 g d a b
  | shlB64 g d a b => exact Encoding.shlB64 g d a b
  | shrZB64 g d a b => exact Encoding.shrZB64 g d a b
  | shrSB64 g d a b => exact Encoding.shrSB64 g d a b
  | bselB32 g d a b => exact Encoding.bselB32 g d a b
  | andB32 g d a b => exact Encoding.andB32 g d a b
  | orB32 g d a b => exact Encoding.orB32 g d a b
  | xorB32 g d a b => exact Encoding.xorB32 g d a b
  | andnB32 g d a b => exact Encoding.andnB32 g d a b
  | popcB32 g d a => exact Encoding.popcB32 g d a
  | clzB32 g d a => exact Encoding.clzB32 g d a
  | bfxB32 g d a b => exact Encoding.bfxB32 g d a b
  | bfiB32 g d a b => exact Encoding.bfiB32 g d a b
  | cmpEqB32 g d a b => exact Encoding.cmpEqB32 g d a b
  | cmpNeB32 g d a b => exact Encoding.cmpNeB32 g d a b
  | cmpLtSB32 g d a b => exact Encoding.cmpLtSB32 g d a b
  | cmpLtZB32 g d a b => exact Encoding.cmpLtZB32 g d a b
  | cmpLeSB32 g d a b => exact Encoding.cmpLeSB32 g d a b
  | cmpLeZB32 g d a b => exact Encoding.cmpLeZB32 g d a b
  | cmpEqB64 g d a b => exact Encoding.cmpEqB64 g d a b
  | cmpLtSB64 g d a b => exact Encoding.cmpLtSB64 g d a b
  | cmpLtZB64 g d a b => exact Encoding.cmpLtZB64 g d a b
  | selB32 g d a b => exact Encoding.selB32 g d a b
  | movB32 g d a => exact Encoding.movB32 g d a
  | movSv g d a => exact Encoding.movSv g d a
  | fadd g d a b => exact Encoding.fadd g d a b
  | fsub g d a b => exact Encoding.fsub g d a b
  | fmul g d a b => exact Encoding.fmul g d a b
  | ffma g d a b => exact Encoding.ffma g d a b
  | fmin g d a b => exact Encoding.fmin g d a b
  | fmax g d a b => exact Encoding.fmax g d a b
  | fcmpEq g d a b => exact Encoding.fcmpEq g d a b
  | fcmpLt g d a b => exact Encoding.fcmpLt g d a b
  | fcmpLe g d a b => exact Encoding.fcmpLe g d a b
  | fcmpUn g d a b => exact Encoding.fcmpUn g d a b
  | fabs g d a => exact Encoding.fabs g d a
  | fneg g d a => exact Encoding.fneg g d a
  | faddF16x2 g d a b => exact Encoding.faddF16x2 g d a b
  | fsubF16x2 g d a b => exact Encoding.fsubF16x2 g d a b
  | fmulF16x2 g d a b => exact Encoding.fmulF16x2 g d a b
  | ffmaF16x2 g d a b => exact Encoding.ffmaF16x2 g d a b
  | faddBf16x2 g d a b => exact Encoding.faddBf16x2 g d a b
  | fsubBf16x2 g d a b => exact Encoding.fsubBf16x2 g d a b
  | fmulBf16x2 g d a b => exact Encoding.fmulBf16x2 g d a b
  | ffmaBf16x2 g d a b => exact Encoding.ffmaBf16x2 g d a b
  | fminF16x2 g d a b => exact Encoding.fminF16x2 g d a b
  | fmaxF16x2 g d a b => exact Encoding.fmaxF16x2 g d a b
  | fminBf16x2 g d a b => exact Encoding.fminBf16x2 g d a b
  | fmaxBf16x2 g d a b => exact Encoding.fmaxBf16x2 g d a b
  | rcp g d a => exact Encoding.rcp g d a
  | rsq g d a => exact Encoding.rsq g d a
  | sqrt g d a => exact Encoding.sqrt g d a
  | exp2 g d a => exact Encoding.exp2 g d a
  | log2 g d a => exact Encoding.log2 g d a
  | sin g d a => exact Encoding.sin g d a
  | cos g d a => exact Encoding.cos g d a
  | frnd g d a => exact Encoding.frnd g d a
  | rdflg g d => exact Encoding.rdflg g d
  | clrflg g a => exact Encoding.clrflg g a
  | fdot2F16 g d a b => exact Encoding.fdot2F16 g d a b
  | fdot2Bf16 g d a b => exact Encoding.fdot2Bf16 g d a b
  | pand g d a b => exact Encoding.pand g d a b
  | por g d a b => exact Encoding.por g d a b
  | pxor g d a b => exact Encoding.pxor g d a b
  | pnot g d a => exact Encoding.pnot g d a
  | p2v g d a => exact Encoding.p2v g d a
  | v2p g d a => exact Encoding.v2p g d a
  | atomMinS g d a b => exact Encoding.atomMinS g d a b
  | atomMinZ g d a b => exact Encoding.atomMinZ g d a b
  | atomMaxS g d a b => exact Encoding.atomMaxS g d a b
  | atomMaxZ g d a b => exact Encoding.atomMaxZ g d a b
  | redAdd g a b => exact Encoding.redAdd g a b
  | redAddB64 g a b => exact Encoding.redAddB64 g a b
  | redFadd g a b => exact Encoding.redFadd g a b
  | redFadd2c g a b => exact Encoding.redFadd2c g a b
  | redMinS g a b => exact Encoding.redMinS g a b
  | redMaxS g a b => exact Encoding.redMaxS g a b
  | redAnd g a b => exact Encoding.redAnd g a b
  | redOr g a b => exact Encoding.redOr g a b
  | cpLaneB32 g d a s r q => exact Encoding.cpLaneB32 g d a s r q
  | cpLaneB64 g d a s r q => exact Encoding.cpLaneB64 g d a s r q
  | cpLaneB128 g d a s r q => exact Encoding.cpLaneB128 g d a s r q
  | cpBin g d a b => exact Encoding.cpBin g d a b
  | xlaneAt g d a b => exact Encoding.xlaneAt g d a b
  | xlaneBack g d a b => exact Encoding.xlaneBack g d a b
  | xlaneFwd g d a b => exact Encoding.xlaneFwd g d a b
  | xlaneFlip g d a b => exact Encoding.xlaneFlip g d a b
  | voteAll g d a => exact Encoding.voteAll g d a
  | voteAny g d a => exact Encoding.voteAny g d a
  | ballot g d a => exact Encoding.ballot g d a
  | matchV g d a => exact Encoding.matchV g d a
  | gredAdd g d a => exact Encoding.gredAdd g d a
  | gredMinS g d a => exact Encoding.gredMinS g d a
  | gredMinZ g d a => exact Encoding.gredMinZ g d a
  | gredMaxS g d a => exact Encoding.gredMaxS g d a
  | gredMaxZ g d a => exact Encoding.gredMaxZ g d a
  | gredFadd g d a => exact Encoding.gredFadd g d a
  | gscanAdd g d a => exact Encoding.gscanAdd g d a
  | elect g d => exact Encoding.elect g d
  | atomAdd g d a b => exact Encoding.atomAdd g d a b
  | atomAddB64 g d a b => exact Encoding.atomAddB64 g d a b
  | atomExch g d a b => exact Encoding.atomExch g d a b
  | atomExchB64 g d a b => exact Encoding.atomExchB64 g d a b
  | atomCas g d a b => exact Encoding.atomCas g d a b
  | atomCasB64 g d a b => exact Encoding.atomCasB64 g d a b
  | atomFadd g d a b => exact Encoding.atomFadd g d a b
  | atomFadd2c g d a b => exact Encoding.atomFadd2c g d a b
  | llock g d a c => exact Encoding.llock g d a c
  | lunlock g a => exact Encoding.lunlock g a
  | ltry g d a => exact Encoding.ltry g d a
  | lstat g d a => exact Encoding.lstat g d a
  | fst g s w a b => exact Encoding.fst g s w a b
  | fld g d a s p => exact Encoding.fld g d a s p
  | fatom g d a x p => exact Encoding.fatom g d a x p
  | fwclose g s w a b => exact Encoding.fwclose g s w a b
  | addi g d a i => exact Encoding.addi g d a i
  | addiB64 g d a i => exact Encoding.addiB64 g d a i
  | movi g d i => exact Encoding.movi g d i
  | cvt g d a x y z => exact Encoding.cvt g d a x y z
  | bra g o => exact Encoding.bra g o
  | call g o => exact Encoding.call g o
  | jfence g o => exact Encoding.jfence g o
  | wait g l s c t => exact Encoding.wait g l s c t
  | ld g d a z y o => exact Encoding.ld g d a z y o
  | st g d a z y o => exact Encoding.st g d a z y o
  | ldAcq g d a z y o => exact Encoding.ldAcq g d a z y o
  | stRel g d a z y o => exact Encoding.stRel g d a z y o
  | ldC g d a z o => exact Encoding.ldC g d a z o
  | pref g a y o => exact Encoding.pref g a y o
  | mmaF16 g n m c a b => exact Encoding.mmaF16 g n m c a b
  | mmaBf16 g n m c a b => exact Encoding.mmaBf16 g n m c a b
  | mmaE4m3 g n m c a b => exact Encoding.mmaE4m3 g n m c a b
  | mmaE4m3e5m2 g n m c a b => exact Encoding.mmaE4m3e5m2 g n m c a b
  | mmaE5m2 g n m c a b => exact Encoding.mmaE5m2 g n m c a b
  | mmaS8 g n m c a b => exact Encoding.mmaS8 g n m c a b
  | mmaE2m1 g n m c a b => exact Encoding.mmaE2m1 g n m c a b
  | mmaBf16s4 g n m c a b => exact Encoding.mmaBf16s4 g n m c a b
  | nop g => exact Encoding.nop g
  | jmp g a => exact Encoding.jmp g a
  | calli g d a => exact Encoding.calli g d a
  | ret g a => exact Encoding.ret g a
  | exit g => exact Encoding.exit g
  | yield g => exact Encoding.yield g
  | brk g d => exact Encoding.brk g d
  | wbase g m v => exact Encoding.wbase g m v
  | regacq g n => exact Encoding.regacq g n
  | regacqTry g d n => exact Encoding.regacqTry g d n
  | regrel g n => exact Encoding.regrel g n
  | spawn g d a => exact Encoding.spawn g d a
  | cfetch g s a => exact Encoding.cfetch g s a
  | fence g k s => exact Encoding.fence g k s
  | barInit g b a => exact Encoding.barInit g b a
  | barExpect g b a => exact Encoding.barExpect g b a
  | barArrive g d b => exact Encoding.barArrive g d b
  | barWait g b a => exact Encoding.barWait g b a
  | barSync g b => exact Encoding.barSync g b
  | barTest g p b => exact Encoding.barTest g p b
  | hbarArrive g d s i => exact Encoding.hbarArrive g d s i
  | hbarWait g d s i => exact Encoding.hbarWait g d s i
  | cpBulk g a => exact Encoding.cpBulk g a
  | cpMcast g d a => exact Encoding.cpMcast g d a
  | cpBind g b => exact Encoding.cpBind g b
  | cpBindNone g => exact Encoding.cpBindNone g
  | fwopen g d p => exact Encoding.fwopen g d p
  | fwopenFree g d => exact Encoding.fwopenFree g d
  | fwstat g d w => exact Encoding.fwstat g d w
  | vdnq g d a => exact Encoding.vdnq g d a
  | ckpt g => exact Encoding.ckpt g
  | ckstat g d => exact Encoding.ckstat g d
  | ckrole g d => exact Encoding.ckrole g d
  | tclaim g d a => exact Encoding.tclaim g d a
  | trel g a => exact Encoding.trel g a
  | tfill g s a => exact Encoding.tfill g s a
  | tfillDq g s a => exact Encoding.tfillDq g s a
  | azero g t n => exact Encoding.azero g t n
  | aload g t a => exact Encoding.aload g t a
  | tdrain g t a => exact Encoding.tdrain g t a
  | tdrainAdd g t a => exact Encoding.tdrainAdd g t a
  | gang g a => exact Encoding.gang g a
  | pcfg g a => exact Encoding.pcfg g a
  | mstat g d x s => exact Encoding.mstat g d x s
  | tret g => exact Encoding.tret g
  | tretAddr g a => exact Encoding.tretAddr g a
  | trd g d s => exact Encoding.trd g d s
  | srd g d a => exact Encoding.srd g d a
  | swr g d a => exact Encoding.swr g d a
  | cinvL1 g => exact Encoding.cinvL1 g
  | cinvC g => exact Encoding.cinvC g
  | cwbMere g d a => exact Encoding.cwbMere g d a
  | mtrd g d a => exact Encoding.mtrd g d a
  | evcfg g d a => exact Encoding.evcfg g d a
  | evrd g d a => exact Encoding.evrd g d a
  | lklog g d a => exact Encoding.lklog g d a
  | kinj g a => exact Encoding.kinj g a
  | lim h w => exact Encoding.lim h w
  | _ => exact fun h => absurd h Bool.false_ne_true

/-- A word answers nothing, or an instruction whose first word is the word's 32 bits. -/
def Faithful (w : Nat) (o : Option Instr) : Prop := ∀ i, o = some i → encodeWord i = w % 2 ^ 32

theorem faithful_none {w : Nat} : Faithful w none := by simp [Faithful]

theorem faithful_some {w : Nat} {i : Instr} : Faithful w (some i) ↔ encodeWord i = w % 2 ^ 32 := by simp [Faithful]

theorem faithful_onlyIf {w : Nat} {c : Bool} {i : Instr} : Faithful w (onlyIf c i) ↔ (c = true → encodeWord i = w % 2 ^ 32) := by
  cases c <;> simp [Faithful, onlyIf]

theorem faithful_onlyIf_orElse {w : Nat} {c : Bool} {i : Instr} {o : Option Instr} :
    Faithful w ((onlyIf c i).orElse fun _ => o) ↔ (c = true → encodeWord i = w % 2 ^ 32) ∧ (c = false → Faithful w o) := by
  cases c <;> simp [Faithful, onlyIf]

@[simp] theorem toNat_fieldOf (w lo n : Nat) : (fieldOf w lo n).toNat = w / 2 ^ lo % 2 ^ n := by simp [fieldOf]

/-! A field whose upper part must be zero is its lower part. -/

theorem field_narrow {w lo n m : Nat} (h : w / (lo * n) % m = 0) : w / lo % (n * m) = w / lo % n := by
  rw [Nat.mod_mul, Nat.div_div_eq_div_mul, h, Nat.mul_zero, Nat.add_zero]

@[simp] theorem narrow3_at0 {w : Nat} (h : w / 8 % 16 = 0) : w % 128 = w % 8 := by omega
@[simp] theorem narrow3_at2 {w : Nat} (h : w / 32 % 16 = 0) : w / 4 % 128 = w / 4 % 8 := field_narrow (n := 8) (m := 16) h
@[simp] theorem narrow4_at2 {w : Nat} (h : w / 64 % 8 = 0) : w / 4 % 128 = w / 4 % 16 := field_narrow (n := 16) (m := 8) h
@[simp] theorem narrow5_at2 {w : Nat} (h : w / 128 % 4 = 0) : w / 4 % 128 = w / 4 % 32 := field_narrow (n := 32) (m := 4) h
@[simp] theorem narrow3_at7 {w : Nat} (h : w / 1024 % 16 = 0) : w / 128 % 128 = w / 128 % 8 := field_narrow (n := 8) (m := 16) h
@[simp] theorem narrow3_at9 {w : Nat} (h : w / 4096 % 16 = 0) : w / 512 % 128 = w / 512 % 8 := field_narrow (n := 8) (m := 16) h
@[simp] theorem narrow5_at9 {w : Nat} (h : w / 16384 % 4 = 0) : w / 512 % 128 = w / 512 % 32 := field_narrow (n := 32) (m := 4) h
@[simp] theorem narrow6_at9 {w : Nat} (h : w / 32768 % 2 = 0) : w / 512 % 128 = w / 512 % 64 := field_narrow (n := 64) (m := 2) h
@[simp] theorem narrow3_at14 {w : Nat} (h : w / 131072 % 16 = 0) : w / 16384 % 128 = w / 16384 % 8 := field_narrow (n := 8) (m := 16) h
@[simp] theorem shift7_at2 {w : Nat} (h : w % 4 = 0) : w % 512 = w / 4 % 128 * 4 := by omega
@[simp] theorem shift5_at4 {w : Nat} (h : w % 16 = 0) : w % 512 = w / 16 % 32 * 16 := by omega

/-! The 32 bits of a word as the sum of its fields, for the formats of R19 to R22 with the major `m` and the function `f`. -/

theorem word_r {w m f : Nat} (hm : w / 67108864 % 64 = m) (hf : w / 2097152 % 4 = f) :
    w % 2 ^ 32 = (m * 67108864 + f * 2097152) + w / 8388608 % 8 * 8388608 + w / 16384 % 128 * 16384 + w / 128 % 128 * 128 + w % 128 := by
  omega

theorem word_n {w m f : Nat} (hm : w / 67108864 % 64 = m) (hf : w / 65536 % 128 = f) :
    w % 2 ^ 32 = (m * 67108864 + f * 65536) + w / 8388608 % 8 * 8388608 + w / 512 % 128 * 512 + w % 512 := by
  omega

theorem word_memory {w m : Nat} (hm : w / 67108864 % 64 = m) :
    w % 2 ^ 32 = m * 67108864 + w / 8388608 % 8 * 8388608 + w / 65536 % 128 * 65536 + w / 512 % 128 * 512 + w / 64 % 8 * 64 +
      w / 16 % 4 * 16 + w % 16 := by
  omega

theorem word_mma {w m : Nat} (hm : w / 67108864 % 64 = m) :
    w % 2 ^ 32 = m * 67108864 + w / 8388608 % 8 * 8388608 + w / 131072 % 64 * 131072 + w / 32768 % 4 * 32768 + w / 4096 % 8 * 4096 +
      w / 64 % 64 * 64 + w % 64 := by
  omega

/-! The majors of the opcode map (R31 to R33): the function of a major selects the instruction, whose word is read off the encoder as the
sum of its opcode and its fields (`show _ + _ = _`) and met with the word's own sum. -/

theorem faithful_dec01 {w : Nat} (hm : w / 67108864 % 64 = 1) : Faithful w (dec01 w) := by
  unfold dec01
  split <;> simp only [faithful_some, faithful_none] <;> rw [word_r hm ‹_›] <;> show _ + _ = _ <;> simp [*]

theorem faithful_dec02 {w : Nat} (hm : w / 67108864 % 64 = 2) : Faithful w (dec02 w) := by
  unfold dec02
  split <;> simp only [faithful_some, faithful_none] <;> rw [word_r hm ‹_›] <;> show _ + _ = _ <;> simp [*]

theorem faithful_dec03 {w : Nat} (hm : w / 67108864 % 64 = 3) : Faithful w (dec03 w) := by
  unfold dec03
  split <;> simp only [faithful_some, faithful_none] <;> rw [word_r hm ‹_›] <;> show _ + _ = _ <;> simp [*]

theorem faithful_dec04 {w : Nat} (hm : w / 67108864 % 64 = 4) : Faithful w (dec04 w) := by
  unfold dec04
  split <;> simp only [faithful_some, faithful_none] <;> rw [word_r hm ‹_›] <;> show _ + _ = _ <;> simp [*]

theorem faithful_dec05 {w : Nat} (hm : w / 67108864 % 64 = 5) : Faithful w (dec05 w) := by
  unfold dec05
  split <;> simp only [faithful_some, faithful_none] <;> rw [word_r hm ‹_›] <;> show _ + _ = _ <;> simp [*]

theorem faithful_dec06 {w : Nat} (hm : w / 67108864 % 64 = 6) : Faithful w (dec06 w) := by
  unfold dec06
  split <;> simp only [faithful_some, faithful_none] <;> rw [word_r hm ‹_›] <;> show _ + _ = _ <;> simp [*]

theorem faithful_dec07 {w : Nat} (hm : w / 67108864 % 64 = 7) : Faithful w (dec07 w) := by
  unfold dec07
  split <;> simp only [faithful_some, faithful_none] <;> rw [word_r hm ‹_›] <;> show _ + _ = _ <;> simp [*]

theorem faithful_dec08 {w : Nat} (hm : w / 67108864 % 64 = 8) : Faithful w (dec08 w) := by
  unfold dec08
  split <;> simp only [faithful_some, faithful_onlyIf, beq_iff_eq, faithful_none] <;> intros <;> rw [word_r hm ‹_›] <;> show _ + _ = _ <;> simp [*]

theorem faithful_dec09 {w : Nat} (hm : w / 67108864 % 64 = 9) : Faithful w (dec09 w) := by
  unfold dec09
  split <;> simp only [faithful_onlyIf, beq_iff_eq, faithful_none] <;> intros <;> rw [word_r hm ‹_›] <;> show _ + _ = _ <;> simp [*]

theorem faithful_dec0A {w : Nat} (hm : w / 67108864 % 64 = 10) : Faithful w (dec0A w) := by
  unfold dec0A
  split <;> simp only [faithful_onlyIf, beq_iff_eq, faithful_none] <;> intros <;> rw [word_r hm ‹_›] <;> show _ + _ = _ <;> simp [*]

theorem faithful_dec0B {w : Nat} (hm : w / 67108864 % 64 = 11) : Faithful w (dec0B w) := by
  unfold dec0B
  split <;> simp only [faithful_some, faithful_onlyIf, beq_iff_eq, faithful_none] <;> intros <;> rw [word_r hm ‹_›] <;> show _ + _ = _ <;> simp [*]

theorem faithful_dec0C {w : Nat} (hm : w / 67108864 % 64 = 12) : Faithful w (dec0C w) := by
  unfold dec0C
  split <;> simp only [faithful_some, faithful_none] <;> rw [word_r hm ‹_›] <;> show _ + _ = _ <;> simp [*]

theorem faithful_dec0D {w : Nat} (hm : w / 67108864 % 64 = 13) : Faithful w (dec0D w) := by
  unfold dec0D
  split <;> simp only [faithful_some, faithful_onlyIf, beq_iff_eq, faithful_none] <;> intros <;> rw [word_r hm ‹_›] <;> show _ + _ = _ <;> simp [*]

theorem faithful_dec0E {w : Nat} (hm : w / 67108864 % 64 = 14) : Faithful w (dec0E w) := by
  unfold dec0E
  split <;> simp only [faithful_onlyIf, beq_iff_eq, faithful_none] <;> intros <;> rw [word_r hm ‹_›] <;> show _ + _ = _ <;> simp [*]

theorem faithful_dec0F {w : Nat} (hm : w / 67108864 % 64 = 15) : Faithful w (dec0F w) := by
  unfold dec0F
  split <;> simp only [faithful_some, faithful_none] <;> rw [word_r hm ‹_›] <;> show _ + _ = _ <;> simp [*]

theorem faithful_dec10 {w : Nat} (hm : w / 67108864 % 64 = 16) : Faithful w (dec10 w) := by
  unfold dec10
  simp only [faithful_some]
  show _ + _ = _
  simp only [toNat_fieldOf]
  omega

theorem faithful_dec11 {w : Nat} (hm : w / 67108864 % 64 = 17) : Faithful w (dec11 w) := by
  unfold dec11
  simp only [faithful_some]
  show _ + _ = _
  simp only [toNat_fieldOf]
  omega

theorem faithful_dec12 {w : Nat} (hm : w / 67108864 % 64 = 18) : Faithful w (dec12 w) := by
  unfold dec12
  simp only [faithful_some]
  show _ + _ = _
  simp only [toNat_fieldOf]
  omega

theorem faithful_dec13 {w : Nat} (hm : w / 67108864 % 64 = 19) : Faithful w (dec13 w) := by
  unfold dec13
  split <;> simp only [faithful_some, faithful_none] <;> rw [word_r hm ‹_›] <;> show _ + _ = _ <;> simp [*]

theorem faithful_dec14 {w : Nat} (hm : w / 67108864 % 64 = 20) : Faithful w (dec14 w) := by
  unfold dec14
  split <;> simp only [faithful_some, faithful_none] <;> rw [word_r hm ‹_›] <;> show _ + _ = _ <;> simp [*]

theorem faithful_dec15 {w : Nat} (hm : w / 67108864 % 64 = 21) : Faithful w (dec15 w) := by
  unfold dec15
  split <;> simp only [faithful_onlyIf, beq_iff_eq, faithful_none] <;> intros <;> rw [word_r hm ‹_›] <;> show _ + _ = _ <;> simp [*]

theorem faithful_dec16 {w : Nat} (hm : w / 67108864 % 64 = 22) : Faithful w (dec16 w) := by
  unfold dec16
  split <;> simp only [faithful_onlyIf, beq_iff_eq, faithful_none] <;> intros <;> rw [word_r hm ‹_›] <;> show _ + _ = _ <;> simp [*]

theorem faithful_dec17 {w : Nat} (hm : w / 67108864 % 64 = 23) : Faithful w (dec17 w) := by
  unfold dec17
  simp only [faithful_some]
  show _ + _ = _
  simp only [toNat_fieldOf]
  omega

theorem faithful_dec18 {w : Nat} (hm : w / 67108864 % 64 = 24) : Faithful w (dec18 w) := by
  unfold dec18
  split <;> simp only [faithful_some, faithful_onlyIf, beq_iff_eq, Bool.and_eq_true, faithful_none] <;> intros <;> rw [word_r hm ‹_›] <;> show _ + _ = _ <;> simp [*]
  all_goals omega

theorem faithful_dec19 {w : Nat} (hm : w / 67108864 % 64 = 25) : Faithful w (dec19 w) := by
  unfold dec19
  split <;> simp only [faithful_onlyIf, beq_iff_eq, Bool.and_eq_true, faithful_none] <;> intros <;> rw [word_r hm ‹_›] <;> show _ + _ = _ <;> simp [*]

theorem faithful_dec1A {w : Nat} (hm : w / 67108864 % 64 = 26) : Faithful w (dec1A w) := by
  unfold dec1A
  split <;> simp only [faithful_onlyIf, beq_iff_eq, Bool.and_eq_true, faithful_none] <;> intros <;> rw [word_r hm ‹_›] <;> show _ + _ = _ <;> simp [*]

theorem faithful_dec1C {w : Nat} (hm : w / 67108864 % 64 = 28) : Faithful w (dec1C w) := by
  unfold dec1C
  split <;> simp only [faithful_some, faithful_none] <;> rw [word_r hm ‹_›] <;> show _ + _ = _ <;> simp [*]

theorem faithful_dec1D {w : Nat} (hm : w / 67108864 % 64 = 29) : Faithful w (dec1D w) := by
  unfold dec1D
  split <;> simp only [faithful_onlyIf, beq_iff_eq, faithful_none] <;> intros <;> rw [word_r hm ‹_›] <;> show _ + _ = _ <;> simp [*]

theorem faithful_dec1E {w : Nat} (hm : w / 67108864 % 64 = 30) : Faithful w (dec1E w) := by
  unfold dec1E
  split <;> simp only [faithful_onlyIf, beq_iff_eq, faithful_none] <;> intros <;> rw [word_r hm ‹_›] <;> show _ + _ = _ <;> simp [*]

theorem faithful_dec1F {w : Nat} (hm : w / 67108864 % 64 = 31) : Faithful w (dec1F w) := by
  unfold dec1F
  split <;> simp only [faithful_some, faithful_onlyIf, beq_iff_eq, faithful_none] <;> intros <;> rw [word_r hm ‹_›] <;> show _ + _ = _ <;> simp [*]
  all_goals omega

theorem faithful_dec20 {w : Nat} (hm : w / 67108864 % 64 = 32) : Faithful w (dec20 w) := by
  unfold dec20
  simp only [faithful_some]
  show _ + _ = _
  simp only [toNat_fieldOf]
  omega

theorem faithful_dec21 {w : Nat} (hm : w / 67108864 % 64 = 33) : Faithful w (dec21 w) := by
  unfold dec21
  simp only [faithful_some]
  show _ + _ = _
  simp only [toNat_fieldOf]
  omega

theorem faithful_dec22 {w : Nat} (hm : w / 67108864 % 64 = 34) : Faithful w (dec22 w) := by
  unfold dec22
  split <;> simp only [faithful_onlyIf, beq_iff_eq, Bool.and_eq_true, faithful_none] <;> intros <;> rw [word_n hm ‹_›] <;> show _ + _ = _ <;> simp [*]
  all_goals omega

theorem faithful_dec23 {w : Nat} (hm : w / 67108864 % 64 = 35) : Faithful w (dec23 w) := by
  unfold dec23
  simp only [faithful_some]
  show _ + _ = _
  simp only [toNat_fieldOf]
  omega

theorem faithful_dec24 {w : Nat} (hm : w / 67108864 % 64 = 36) : Faithful w (dec24 w) := by
  unfold dec24
  split <;> simp only [faithful_some, faithful_none] <;> rw [word_r hm ‹_›] <;> show _ + _ = _ <;> simp [*]

theorem faithful_dec25 {w : Nat} (hm : w / 67108864 % 64 = 37) : Faithful w (dec25 w) := by
  unfold dec25
  split <;> simp only [faithful_onlyIf, beq_iff_eq, Bool.and_eq_true, faithful_none] <;> intros <;> rw [word_r hm ‹_›] <;> show _ + _ = _ <;> simp [*]

theorem faithful_dec26 {w : Nat} (hm : w / 67108864 % 64 = 38) : Faithful w (dec26 w) := by
  unfold dec26
  split <;> simp only [faithful_onlyIf, beq_iff_eq, faithful_none] <;> intros <;> rw [word_r hm ‹_›] <;> show _ + _ = _ <;> simp [*]

theorem faithful_dec27 {w : Nat} (hm : w / 67108864 % 64 = 39) : Faithful w (dec27 w) := by
  unfold dec27
  split <;> simp only [faithful_onlyIf, beq_iff_eq, Bool.and_eq_true, faithful_none] <;> intros <;> rw [word_r hm ‹_›] <;> show _ + _ = _ <;> simp [*]
  all_goals omega

theorem faithful_dec28 {w : Nat} (hm : w / 67108864 % 64 = 40) : Faithful w (dec28 w) := by
  unfold dec28
  rw [faithful_some, word_memory hm]
  show _ + _ = _
  simp

theorem faithful_dec29 {w : Nat} (hm : w / 67108864 % 64 = 41) : Faithful w (dec29 w) := by
  unfold dec29
  rw [faithful_some, word_memory hm]
  show _ + _ = _
  simp

theorem faithful_dec2A {w : Nat} (hm : w / 67108864 % 64 = 42) : Faithful w (dec2A w) := by
  unfold dec2A
  simp only [faithful_onlyIf, beq_iff_eq]
  intros
  show _ + _ = _
  simp only [toNat_fieldOf]
  omega

theorem faithful_dec2B {w : Nat} (hm : w / 67108864 % 64 = 43) : Faithful w (dec2B w) := by
  unfold dec2B
  simp only [faithful_onlyIf, beq_iff_eq]
  intros
  show _ + _ = _
  simp only [toNat_fieldOf]
  omega

theorem faithful_dec2C {w : Nat} (hm : w / 67108864 % 64 = 44) : Faithful w (dec2C w) := by
  unfold dec2C
  simp only [faithful_onlyIf, beq_iff_eq]
  intros
  rw [word_memory hm]
  show _ + _ = _
  simp [*]

theorem faithful_dec2D {w : Nat} (hm : w / 67108864 % 64 = 45) : Faithful w (dec2D w) := by
  unfold dec2D
  simp only [faithful_onlyIf, beq_iff_eq, Bool.and_eq_true]
  intros
  rw [word_memory hm]
  show _ + _ = _
  simp [*]

theorem faithful_dec2E {w : Nat} (hm : w / 67108864 % 64 = 46) : Faithful w (dec2E w) := by
  unfold dec2E
  split <;> simp only [faithful_some, faithful_none] <;> rw [word_r hm ‹_›] <;> show _ + _ = _ <;> simp [*]

theorem faithful_dec2F {w : Nat} (hm : w / 67108864 % 64 = 47) : Faithful w (dec2F w) := by
  unfold dec2F
  split <;> simp only [faithful_some, faithful_none] <;> rw [word_r hm ‹_›] <;> show _ + _ = _ <;> simp [*]

theorem faithful_dec30 {w : Nat} (hm : w / 67108864 % 64 = 48) : Faithful w (dec30 w) := by
  unfold dec30
  rw [faithful_some, word_mma hm]
  show _ + _ = _
  simp

theorem faithful_dec31 {w : Nat} (hm : w / 67108864 % 64 = 49) : Faithful w (dec31 w) := by
  unfold dec31
  rw [faithful_some, word_mma hm]
  show _ + _ = _
  simp

theorem faithful_dec32 {w : Nat} (hm : w / 67108864 % 64 = 50) : Faithful w (dec32 w) := by
  unfold dec32
  rw [faithful_some, word_mma hm]
  show _ + _ = _
  simp

theorem faithful_dec33 {w : Nat} (hm : w / 67108864 % 64 = 51) : Faithful w (dec33 w) := by
  unfold dec33
  rw [faithful_some, word_mma hm]
  show _ + _ = _
  simp

theorem faithful_dec34 {w : Nat} (hm : w / 67108864 % 64 = 52) : Faithful w (dec34 w) := by
  unfold dec34
  rw [faithful_some, word_mma hm]
  show _ + _ = _
  simp

theorem faithful_dec35 {w : Nat} (hm : w / 67108864 % 64 = 53) : Faithful w (dec35 w) := by
  unfold dec35
  rw [faithful_some, word_mma hm]
  show _ + _ = _
  simp

theorem faithful_dec36 {w : Nat} (hm : w / 67108864 % 64 = 54) : Faithful w (dec36 w) := by
  unfold dec36
  rw [faithful_some, word_mma hm]
  show _ + _ = _
  simp

theorem faithful_dec37 {w : Nat} (hm : w / 67108864 % 64 = 55) : Faithful w (dec37 w) := by
  unfold dec37
  rw [faithful_some, word_mma hm]
  show _ + _ = _
  simp

theorem faithful_dec38 {w : Nat} (hm : w / 67108864 % 64 = 56) : Faithful w (dec38 w) := by
  unfold dec38
  split <;> simp only [faithful_onlyIf, beq_iff_eq, Bool.and_eq_true, faithful_none] <;> intros <;> rw [word_r hm ‹_›] <;> show _ + _ = _ <;> simp [*]
  all_goals omega

theorem faithful_dec39 {w : Nat} (hm : w / 67108864 % 64 = 57) : Faithful w (dec39 w) := by
  unfold dec39
  split <;> simp only [faithful_onlyIf, beq_iff_eq, Bool.and_eq_true, faithful_none] <;> intros <;> rw [word_n hm ‹_›] <;> show _ + _ = _ <;> simp [*]
  all_goals omega

theorem faithful_dec3A {w : Nat} (hm : w / 67108864 % 64 = 58) : Faithful w (dec3A w) := by
  unfold dec3A
  simp only [faithful_some]
  show _ + _ = _
  simp only [toNat_fieldOf]
  omega

theorem faithful_dec3B {w : Nat} (hm : w / 67108864 % 64 = 59) : Faithful w (dec3B w) := by
  unfold dec3B
  split <;> simp only [faithful_onlyIf, faithful_onlyIf_orElse, beq_iff_eq, Bool.and_eq_true, faithful_none] <;> and_intros <;> intros <;> rw [word_n hm ‹_›] <;> show _ + _ = _ <;> simp [*]
  all_goals omega

theorem faithful_dec3C {w : Nat} (hm : w / 67108864 % 64 = 60) : Faithful w (dec3C w) := by
  unfold dec3C
  split <;> simp only [faithful_onlyIf, beq_iff_eq, Bool.and_eq_true, faithful_none] <;> intros <;> rw [word_n hm ‹_›] <;> show _ + _ = _ <;> simp [*]
  all_goals omega

theorem faithful_dec3D {w : Nat} (hm : w / 67108864 % 64 = 61) : Faithful w (dec3D w) := by
  unfold dec3D
  split <;> simp only [faithful_some, faithful_onlyIf, beq_iff_eq, faithful_none] <;> intros <;> rw [word_r hm ‹_›] <;> show _ + _ = _ <;> simp [*]
  all_goals omega

theorem faithful_dec3E {w : Nat} (hm : w / 67108864 % 64 = 62) : Faithful w (dec3E w) := by
  unfold dec3E
  split <;> simp only [faithful_onlyIf, faithful_onlyIf_orElse, beq_iff_eq, Bool.and_eq_true, faithful_none] <;> and_intros <;> intros <;> rw [word_n hm ‹_›] <;> show _ + _ = _ <;> simp [*]
  all_goals omega

/-- What a word decodes to has the word's 32 bits as its first word (R35). -/
theorem faithful_decodeWord (w : Nat) : Faithful w (decodeWord w) := by
  unfold decodeWord
  split
  · exact faithful_dec01 ‹_›
  · exact faithful_dec02 ‹_›
  · exact faithful_dec03 ‹_›
  · exact faithful_dec04 ‹_›
  · exact faithful_dec05 ‹_›
  · exact faithful_dec06 ‹_›
  · exact faithful_dec07 ‹_›
  · exact faithful_dec08 ‹_›
  · exact faithful_dec09 ‹_›
  · exact faithful_dec0A ‹_›
  · exact faithful_dec0B ‹_›
  · exact faithful_dec0C ‹_›
  · exact faithful_dec0D ‹_›
  · exact faithful_dec0E ‹_›
  · exact faithful_dec0F ‹_›
  · exact faithful_dec10 ‹_›
  · exact faithful_dec11 ‹_›
  · exact faithful_dec12 ‹_›
  · exact faithful_dec13 ‹_›
  · exact faithful_dec14 ‹_›
  · exact faithful_dec15 ‹_›
  · exact faithful_dec16 ‹_›
  · exact faithful_dec17 ‹_›
  · exact faithful_dec18 ‹_›
  · exact faithful_dec19 ‹_›
  · exact faithful_dec1A ‹_›
  · exact faithful_dec1C ‹_›
  · exact faithful_dec1D ‹_›
  · exact faithful_dec1E ‹_›
  · exact faithful_dec1F ‹_›
  · exact faithful_dec20 ‹_›
  · exact faithful_dec21 ‹_›
  · exact faithful_dec22 ‹_›
  · exact faithful_dec23 ‹_›
  · exact faithful_dec24 ‹_›
  · exact faithful_dec25 ‹_›
  · exact faithful_dec26 ‹_›
  · exact faithful_dec27 ‹_›
  · exact faithful_dec28 ‹_›
  · exact faithful_dec29 ‹_›
  · exact faithful_dec2A ‹_›
  · exact faithful_dec2B ‹_›
  · exact faithful_dec2C ‹_›
  · exact faithful_dec2D ‹_›
  · exact faithful_dec2E ‹_›
  · exact faithful_dec2F ‹_›
  · exact faithful_dec30 ‹_›
  · exact faithful_dec31 ‹_›
  · exact faithful_dec32 ‹_›
  · exact faithful_dec33 ‹_›
  · exact faithful_dec34 ‹_›
  · exact faithful_dec35 ‹_›
  · exact faithful_dec36 ‹_›
  · exact faithful_dec37 ‹_›
  · exact faithful_dec38 ‹_›
  · exact faithful_dec39 ‹_›
  · exact faithful_dec3A ‹_›
  · exact faithful_dec3B ‹_›
  · exact faithful_dec3C ‹_›
  · exact faithful_dec3D ‹_›
  · exact faithful_dec3E ‹_›
  · exact faithful_none

theorem encodeWord_of_decodeWord {w : Nat} {i : Instr} (h : decodeWord w = some i) : encodeWord i = w % 2 ^ 32 :=
  faithful_decodeWord w i h

/-- The bytes of a word are its 32 bits, whatever follows (R17). -/
theorem wordOf_bytesOfWord (w : Nat) (rest : List Byte) : wordOf (bytesOfWord w ++ rest) = w % 2 ^ 32 := by
  simp only [bytesOfWord, wordOf, List.cons_append, BitVec.toNat_ofNat]
  omega

theorem length_bytesOfWord (w : Nat) : (bytesOfWord w).length = 4 := rfl

/-- An instruction of one word: its bytes decode to it. -/
theorem decode_word {w : Nat} {i : Instr} (hw : w < 2 ^ 32) (hl : isLim w = false) (h : decodeWord w = some i) (rest : List Byte) :
    decode (bytesOfWord w ++ rest) = some (i, rest) := by
  unfold decode
  rw [wordOf_bytesOfWord, Nat.mod_eq_of_lt hw, hl, h, if_neg (by simp [length_bytesOfWord])]
  rfl

/-- A `lim` pair: the bytes of its two words decode to it (R28). -/
theorem decode_pair {w v : Nat} {i : Instr} (hw : w < 2 ^ 32) (hv : v < 2 ^ 32) (hl : isLim w = true) (h : decodePair w v = some i)
    (rest : List Byte) : decode (bytesOfWord w ++ bytesOfWord v ++ rest) = some (i, rest) := by
  unfold decode
  rw [List.append_assoc, wordOf_bytesOfWord, Nat.mod_eq_of_lt hw, hl, if_neg (by simp [length_bytesOfWord]), if_pos rfl,
    if_neg (by simp [length_bytesOfWord]; omega),
    show (bytesOfWord w ++ (bytesOfWord v ++ rest)).drop 4 = bytesOfWord v ++ rest from rfl, wordOf_bytesOfWord, Nat.mod_eq_of_lt hv, h]
  rfl

/-- An encoded instruction other than `lim`: its first word is no `lim` word and decodes to it. -/
theorem decodeWord_encodeWord {i : Instr} (he : i.encoded = true) (hi : ∀ h w, i ≠ .lim h w) :
    isLim (encodeWord i) = false ∧ decodeWord (encodeWord i) = some i := by
  have hs : decodePair (encodeWord i) 0 = some i := by
    have h := statement_all i
    unfold Statement at h
    split at h
    · exact absurd rfl (hi _ _)
    · exact h he 0
  unfold decodePair at hs
  split at hs
  · exact absurd (Option.some.inj hs).symm (hi _ _)
  · exact ⟨Bool.eq_false_iff.2 ‹_›, hs⟩

theorem encode_eq_bytesOfWord {i : Instr} (he : i.encoded = true) (hi : ∀ h w, i ≠ .lim h w) : encode i = bytesOfWord (encodeWord i) := by
  unfold encode
  split
  · exact absurd rfl (hi _ _)
  · exact if_neg (by simpa [Instr.encoded] using he)

theorem decode_encode {i : Instr} (he : i.encoded = true) (rest : List Byte) : decode (encode i ++ rest) = some (i, rest) := by
  by_cases hi : ∃ h w, i = .lim h w
  · obtain ⟨h, w, rfl⟩ := hi
    have k : encodeWord (.lim h w) = 4227858432 + h.toNat := rfl
    have hh := h.isLt
    exact decode_pair (by omega) w.isLt (by simp only [isLim, beq_iff_eq]; omega) (statement_all (.lim h w)) rest
  · simp only [not_exists] at hi
    obtain ⟨hl, hd⟩ := decodeWord_encodeWord he hi
    have hw : encodeWord i < 2 ^ 32 := by rw [encodeWord_of_decodeWord hd]; exact Nat.mod_lt _ (by decide)
    rw [encode_eq_bytesOfWord he hi, decode_word hw hl hd]

end Sys2Proof.Laws.Encoding

/-- Settles O39, by the law of each instruction's words, lifted to bytes. -/
theorem decodeEncode : Obligations.DecodeEncode := by
  unfold Obligations.DecodeEncode
  exact fun _ he rest => Sys2Proof.Laws.Encoding.decode_encode he rest

/-- Settles O40, by the majors of the opcode map: an instruction writes the fields that were read of its word, and the others are zero. -/
theorem encodeDecode : Obligations.EncodeDecode := by
  unfold Obligations.EncodeDecode
  intro w i hw h
  rw [Sys2Proof.Laws.Encoding.encodeWord_of_decodeWord h, Nat.mod_eq_of_lt hw]

/-- Settles O41, by evaluation of the decoder on each word. -/
theorem specWords : Obligations.SpecWords := by
  unfold Obligations.SpecWords
  decide

end

/-! # Every step answers a next state (R36)

The shared issue operations answer one in every state, the steps without an encoding answer one in every branch, and what the machine owes is
chosen among the steps that do. -/

section

namespace Sys2Proof.Machine

/-- An answer that is a next state. -/
def Goes (r : Res) : Prop := ∃ t, r = .next t

theorem trapSet_goes (s : State) (x : TrapInfo) : Goes (s.trapSet x) := by
  unfold State.trapSet
  split <;> exact ⟨_, rfl⟩

theorem eachTrap_goes (s : State) (i : Instr) (f : Thread → Except (TrapInfo × Nat) Thread) : Goes (s.eachTrap i f) := by
  unfold State.eachTrap
  split <;> exact ⟨_, rfl⟩

theorem inTurn_goes (s : State) (i : Instr) (f : Nat → State → Thread → TRes) : Goes (s.inTurn i f) := by
  unfold State.inTurn
  split <;> exact ⟨_, rfl⟩

theorem together_goes (s : State) (i : Instr) (f : Nat → State → Nat → Nat → List Thread → GRes) : Goes (s.together i f) := by
  unfold State.together
  split <;> exact ⟨_, rfl⟩

theorem ite_goes {c : Prop} [Decidable c] {a b : Res} (ha : Goes a) (hb : Goes b) : Goes (if c then a else b) := by
  split
  · exact ha
  · exact hb

/-! The steps without an encoding that branch before they answer. -/

theorem execPodBarrierFrame_goes (dev tag : Nat) (mask : BitVec 64) (idx phase : Nat) (s : State) :
    Goes (execPodBarrierFrame dev tag mask idx phase s) := by
  unfold execPodBarrierFrame
  dsimp only
  split <;> exact ⟨_, rfl⟩

theorem execConstantPauseEnd_goes (die : Nat) (s : State) : Goes (execConstantPauseEnd die s) :=
  ite_goes ⟨_, rfl⟩ ⟨_, rfl⟩

theorem execCoreRetentionEntry_goes (core : Nat) (s : State) : Goes (execCoreRetentionEntry core s) :=
  ite_goes ⟨_, rfl⟩ ⟨_, rfl⟩

theorem execDieSleepEntry_goes (die : Nat) (s : State) : Goes (execDieSleepEntry die s) :=
  ite_goes ⟨_, rfl⟩ ⟨_, rfl⟩

theorem execWaiterTimeout_goes (line idx : Nat) (s : State) : Goes (execWaiterTimeout line idx s) := by
  unfold execWaiterTimeout
  split
  · exact ⟨_, rfl⟩
  · split
    · exact ⟨_, rfl⟩
    · exact ite_goes ⟨_, rfl⟩ ⟨_, rfl⟩

theorem execHoldLimitExpiry_goes (line : Nat) (s : State) : Goes (execHoldLimitExpiry line s) := by
  unfold execHoldLimitExpiry
  split
  · exact ⟨_, rfl⟩
  · split
    · refine ite_goes ⟨_, rfl⟩ (ite_goes ⟨_, rfl⟩ (ite_goes ⟨_, rfl⟩ ?_))
      dsimp only
      split <;> exact ⟨_, rfl⟩
    · exact ⟨_, rfl⟩

theorem execHoldExpiryMessage_goes (bid grp : Nat) (va : VAddr) (s : State) : Goes (execHoldExpiryMessage bid grp va s) := by
  unfold execHoldExpiryMessage
  dsimp only
  split
  · exact ⟨_, rfl⟩
  · split <;> exact ⟨_, rfl⟩

theorem execKeySlotLoad_goes (lid slot : Nat) (s : State) : Goes (execKeySlotLoad lid slot s) := by
  unfold execKeySlotLoad
  split
  · exact ⟨_, rfl⟩
  · dsimp only
    split
    · exact ite_goes ⟨_, rfl⟩ ⟨_, rfl⟩
    · exact ⟨_, rfl⟩

theorem execTimeSliceExpiry_goes (bid : Nat) (s : State) : Goes (execTimeSliceExpiry bid s) := by
  unfold execTimeSliceExpiry
  split <;> exact ⟨_, rfl⟩

theorem execTrapTake_goes (bid tid : Nat) (s : State) : Goes (execTrapTake bid tid s) := by
  unfold execTrapTake
  split
  · exact ⟨_, rfl⟩
  · split
    · exact ite_goes ⟨_, rfl⟩ ⟨_, rfl⟩
    · exact ⟨_, rfl⟩

theorem execWatchdogExpiry_goes (bid : Nat) (s : State) : Goes (execWatchdogExpiry bid s) := by
  unfold execWatchdogExpiry
  split
  · exact ⟨_, rfl⟩
  · exact ite_goes ⟨_, rfl⟩ ⟨_, rfl⟩

theorem execHaltRequest_goes (bid : Nat) (s : State) : Goes (execHaltRequest bid s) := by
  unfold execHaltRequest
  split
  · exact ⟨_, rfl⟩
  · split <;> exact ⟨_, rfl⟩

theorem execDrainComplete_goes (bid : Nat) (s : State) : Goes (execDrainComplete bid s) := by
  unfold execDrainComplete
  split <;> exact ⟨_, rfl⟩

/-- How a constructor gets its meaning. An instruction runs through one of the shared issue operations, under its own checks, or is an illegal
`lim` pair; a step without an encoding answers a state. -/
inductive Meaning (i : Instr) (s : State) (r : Res) : Prop
  | each (hc : i.collective = false) (f : Thread → Except (TrapInfo × Nat) Thread) (e : r = s.eachTrap i f)
  | inTurn (hc : i.collective = false) (f : Nat → State → Thread → TRes) (e : r = s.inTurn i f)
  | together (hc : i.collective = true) (hl : i.level = .user) (f : Nat → State → Nat → Nat → List Thread → GRes) (e : r = s.together i f)
  | illegal (hw : i.wf = false) (e : r = s.trapSet (plainTrap .illegalOp))
  | event (he : i.encoded = false) (g : Goes r)

theorem Meaning.goes {i : Instr} {s : State} {r : Res} (h : Meaning i s r) : Goes r := by
  cases h with
  | each _ f e => rw [e]; exact eachTrap_goes ..
  | inTurn _ f e => rw [e]; exact inTurn_goes ..
  | together _ _ f e => rw [e]; exact together_goes ..
  | illegal _ e => rw [e]; exact trapSet_goes ..
  | event _ g => exact g

theorem gather_meaning {s : State} {i : Instr} (hc : i.collective = true) (hl : i.level = .user) (f : List Thread → Thread → Thread) :
    Meaning i s (s.gather i f) := .together hc hl _ rfl

theorem onBar_meaning {s : State} {i : Instr} (hc : i.collective = false) (n : Nat) (f : Nat → State → Thread → Block → TRes) :
    Meaning i s (s.onBar i n f) := .inTurn hc _ rfl

theorem onHbar_meaning {s : State} {i : Instr} (hc : i.collective = false) (level idx : Nat)
    (f : State → Thread → Block → Launch → HBar → TRes) : Meaning i s (s.onHbar i level idx f) := .inTurn hc _ rfl

theorem collective_lim {h : BitVec 26} {w : BitVec 32} {j : Instr} (hd : decodeWord w.toNat = some j) :
    (Instr.lim h w).collective = j.collective1 := by
  simp only [Instr.collective, Instr.inner, hd, Option.map_some, Option.getD_some]

/-- A pair's instruction issues as that of its second word does, and a pair that does not compose is illegal (R28). -/
theorem execLim_meaning (h : BitVec 26) (w : BitVec 32) (s : State) : Meaning (.lim h w) s (execLim h w s) := by
  unfold execLim
  split
  case h_4 hd | h_5 hd | h_6 hd => exact .each (collective_lim hd) _ rfl
  case h_7 hd | h_8 hd | h_9 hd | h_10 hd | h_11 hd | h_12 hd => exact .inTurn (collective_lim hd) _ rfl
  case h_29 hd | h_30 hd | h_31 hd | h_32 hd | h_33 hd | h_34 hd | h_35 hd | h_36 hd => exact .together (collective_lim hd) rfl _ rfl
  case h_37 hd =>
    refine .illegal ?_ rfl
    unfold Instr.wf
    dsimp only
    cases hj : decodeWord w.toNat with
    | none => rfl
    | some j =>
      have hl : limOk h.toNat j = false := by
        unfold limOk
        split
        case h_37 => rfl
        all_goals exfalso; solve_by_elim
      show (j.wf1 && limOk h.toNat j) = false
      rw [hl, Bool.and_false]
  all_goals exact .each (collective_lim ‹_›) _ rfl

theorem exec_meaning (i : Instr) (s : State) : Meaning i s (exec i s) := by
  cases i with
  | addB32 | subB32 | addB64 | subB64 | addcB32 | subcB32 | mulLoB32 | mulWideZ | mulHiSB32 | mulHiZB32 | madLoB32 | mulWideS
    | minSB32 | maxSB32 | minZB32 | maxZB32 | shlB32 | shrZB32 | shrSB32 | rotB32 | shlB64 | shrZB64 | shrSB64 | bselB32 | andB32
    | orB32 | xorB32 | andnB32 | popcB32 | clzB32 | bfxB32 | bfiB32 | cmpEqB32 | cmpNeB32 | cmpLtSB32 | cmpLtZB32 | cmpLeSB32
    | cmpLeZB32 | cmpEqB64 | cmpLtSB64 | cmpLtZB64 | selB32 | movB32 | fadd | fsub | fmul | ffma | fmin | fmax | fcmpEq | fcmpLt
    | fcmpLe | fcmpUn | fabs | fneg | faddF16x2 | fsubF16x2 | fmulF16x2 | ffmaF16x2 | faddBf16x2 | fsubBf16x2 | fmulBf16x2
    | ffmaBf16x2 | fminF16x2 | fmaxF16x2 | fminBf16x2 | fmaxBf16x2 | rcp | rsq | sqrt | exp2 | log2 | sin | cos | frnd | rdflg
    | clrflg | fdot2F16 | fdot2Bf16 | pand | por | pxor | pnot | p2v | v2p | addi | addiB64 | movi | cvt | wait | nop | jmp | calli
    | ret | yield | brk | wbase | regrel | tret | tretAddr =>
    unfold exec; exact .each rfl _ rfl
  | movSv | atomMinS | atomMinZ | atomMaxS | atomMaxZ | redAdd | redAddB64 | redFadd | redFadd2c | redMinS | redMaxS | redAnd
    | redOr | cpLaneB32 | cpLaneB64 | cpLaneB128 | cpBin | atomAdd | atomAddB64 | atomExch | atomExchB64 | atomCas | atomCasB64
    | atomFadd | atomFadd2c | lstat | fst | fld | fatom | fwclose | ld | st | ldAcq | stRel | ldC | pref | exit | regacq | regacqTry
    | spawn | cfetch | fence | cpBulk | cpMcast | cpBind | cpBindNone | fwopen | fwopenFree | fwstat | vdnq | ckstat | ckrole | tclaim
    | trel | tfill | tfillDq | azero | aload | tdrain | tdrainAdd | gang | pcfg | mstat | trd | srd | swr | cinvL1 | cinvC | cwbMere
    | mtrd | evcfg | evrd | lklog | kinj =>
    unfold exec; exact .inTurn rfl _ rfl
  | xlaneAt | xlaneBack | xlaneFwd | xlaneFlip | voteAll | voteAny | ballot | matchV | gredAdd | gredMinS | gredMinZ | gredMaxS
    | gredMaxZ | gredFadd | gscanAdd | elect =>
    unfold exec; exact gather_meaning rfl rfl ..
  | llock | lunlock | ltry | mmaF16 | mmaBf16 | mmaE4m3 | mmaE4m3e5m2 | mmaE5m2 | mmaS8 | mmaE2m1 | mmaBf16s4 | ckpt =>
    unfold exec; exact .together rfl rfl _ rfl
  | bra | jfence => unfold exec; exact .each rfl _ rfl
  | call => unfold exec; exact .each rfl _ rfl
  | barInit | barExpect | barArrive | barWait | barSync | barTest => unfold exec; exact onBar_meaning rfl ..
  | hbarArrive | hbarWait => unfold exec; exact onHbar_meaning rfl ..
  | lim h w => exact execLim_meaning h w s
  | podBarrierFrame dev tag mask idx phase => exact .event rfl (execPodBarrierFrame_goes ..)
  | constantPauseEnd die => exact .event rfl (execConstantPauseEnd_goes ..)
  | coreRetentionEntry core => exact .event rfl (execCoreRetentionEntry_goes ..)
  | dieSleepEntry die => exact .event rfl (execDieSleepEntry_goes ..)
  | waiterTimeout line idx => exact .event rfl (execWaiterTimeout_goes ..)
  | holdLimitExpiry line => exact .event rfl (execHoldLimitExpiry_goes ..)
  | holdExpiryMessage bid grp va => exact .event rfl (execHoldExpiryMessage_goes ..)
  | keySlotLoad lid slot => exact .event rfl (execKeySlotLoad_goes ..)
  | timeSliceExpiry bid => exact .event rfl (execTimeSliceExpiry_goes ..)
  | trapTake bid tid => exact .event rfl (execTrapTake_goes ..)
  | watchdogExpiry bid => exact .event rfl (execWatchdogExpiry_goes ..)
  | haltRequest bid => exact .event rfl (execHaltRequest_goes ..)
  | drainComplete bid => exact .event rfl (execDrainComplete_goes ..)
  | _ => exact .event rfl ⟨_, rfl⟩

/-- Every instruction and every step of the table answers a next state. -/
theorem exec_goes (i : Instr) (s : State) : Goes (exec i s) := (exec_meaning i s).goes

/-! Packets, and the work that the machine owes. -/

theorem spdmRequest_goes (code a b : Nat) (value : BitVec 256) (s : State) : Goes (spdmRequest code a b value s) := by
  unfold spdmRequest
  split <;> exact ⟨_, rfl⟩

theorem spdmFrame_goes (s : State) (p : Packet) (code a b : Nat) (value : BitVec 256) : Goes (s.spdmFrame p code a b value) := by
  obtain ⟨t, ht⟩ := spdmRequest_goes code a b value { s with outbox := [] }
  unfold State.spdmFrame
  rw [ht]
  exact ⟨_, rfl⟩

theorem packetStep_goes (s : State) (p : Packet) : Goes (s.packetStep p) := by
  unfold State.packetStep
  refine ite_goes ⟨_, rfl⟩ (ite_goes ⟨_, rfl⟩ (ite_goes ⟨_, rfl⟩ ?_))
  split
  case h_10 => exact execHoldExpiryMessage_goes ..
  case h_17 => exact execPodBarrierFrame_goes ..
  case h_21 => exact spdmFrame_goes ..
  case h_3 | h_4 | h_5 | h_6 | h_7 => exact ite_goes ⟨_, rfl⟩ ⟨_, rfl⟩
  all_goals exact ⟨_, rfl⟩

/-- The step that is owed is one that changes the state. -/
theorem due?_goes {s : State} {d : Due} (h : s.due? = some d) : Goes (d.run s) := by
  have hc : s.changes d = true := List.find?_some h
  unfold State.changes at hc
  split at hc
  · exact ⟨_, ‹_›⟩
  · cases hc

theorem agentStep_goes (s : State) : Goes s.agentStep := by
  unfold State.agentStep
  split
  · exact exec_goes ..
  · split
    · exact packetStep_goes ..
    · split
      · exact ⟨_, rfl⟩
      · split
        · exact due?_goes ‹_›
        · exact ⟨_, rfl⟩

theorem issueAt_goes (s : State) (p : IssueSet) (rest : List IssueSet) : Goes (s.issueAt p rest) := by
  unfold State.issueAt
  dsimp only
  split
  · exact ⟨_, rfl⟩
  · split
    · exact trapSet_goes ..
    · exact trapSet_goes ..
    · exact exec_goes ..

theorem step_goes (s : State) : Goes (step s) := by
  unfold step
  split
  · exact issueAt_goes ..
  · exact agentStep_goes s

end Sys2Proof.Machine

/-- Settles O60, by the answer of every instruction, packet and owed step. -/
theorem stepsGoOn : Obligations.StepsGoOn := by
  unfold Obligations.StepsGoOn
  exact Sys2Proof.Machine.step_goes

end

/-! # Registers, predicates and memory (R24 to R26, R64, R65, R231)

What is read after a write, and that the canonical form of a sparse table is one per content. -/

section

namespace Sys2Proof.Machine

/-! Tables. -/

/-- Dropping the entries of some keys leaves the others, and those read as unlisted. -/
theorem get_filter_key [DecidableEq α] (d : Nat → α) (q : Nat → Bool) {t : Tab α} (k : Nat) (h : Tab.wf d t = true) :
    Tab.get d (t.filter fun e => q e.1) k = if q k then Tab.get d t k else d k := by
  induction t with
  | nil => simp [Tab.get]
  | cons e r ih =>
    obtain ⟨j, v⟩ := e
    obtain ⟨ha, -, hr⟩ := (wf_cons d j v r).1 h
    have ih := ih hr
    have hlow : k ≤ j → Tab.get d r k = d k := get_above d ha
    rcases Nat.lt_trichotomy k j with hlt | rfl | hgt
    · cases hq : q j <;> simp [Tab.get, hq, ih, hlt, hlt.ne', hlow hlt.le]
    · cases hq : q k <;> simp [Tab.get, hq, ih]
    · cases hq : q j <;> simp [Tab.get, hq, ih, hgt.ne, hgt.not_gt]

/-- Two tables in canonical form that read alike are one. -/
theorem tab_ext [DecidableEq α] (d : Nat → α) {t u : Tab α} (ht : Tab.wf d t = true) (hu : Tab.wf d u = true)
    (h : ∀ k, Tab.get d t k = Tab.get d u k) : t = u := by
  induction t generalizing u with
  | nil =>
    cases u with
    | nil => rfl
    | cons e r =>
      obtain ⟨-, hv, -⟩ := (wf_cons d e.1 e.2 r).1 hu
      exact absurd (by simpa [Tab.get] using (h e.1).symm) hv
  | cons e r ih =>
    obtain ⟨i, v⟩ := e
    obtain ⟨ha, hv, hr⟩ := (wf_cons d i v r).1 ht
    cases u with
    | nil => exact absurd (by simpa [Tab.get] using h i) hv
    | cons e' r' =>
      obtain ⟨j, w⟩ := e'
      obtain ⟨ha', hw, hr'⟩ := (wf_cons d j w r').1 hu
      have hij : i = j := by
        rcases Nat.lt_trichotomy i j with hlt | heq | hlt
        · exact absurd (by simpa [Tab.get, hlt, hlt.ne'] using h i) hv
        · exact heq
        · exact absurd (by simpa [Tab.get, hlt, hlt.ne'] using (h j).symm) hw
      subst hij
      have hvw : v = w := by simpa [Tab.get] using h i
      have htail : r = r' := ih hr hr' fun k => by
        rcases Nat.lt_or_ge i k with hlt | hge
        · simpa [Tab.get, hlt.ne, hlt.not_gt] using h k
        · rw [get_above d ha hge, get_above d ha' hge]
      rw [hvw, htail]

/-! Memory. -/

/-- Stored bytes read back, and the others are as before. -/
theorem Memory.byte_store {m : Memory} (a : Nat) (bs : List Byte) (x : Nat) (h : m.wf = true) :
    (m.store a bs).byte x = if a ≤ x ∧ x < a + bs.length then bs.getD (x - a) 0 else m.byte x := by
  induction bs generalizing m a with
  | nil => rw [if_neg (by simp only [List.length_nil]; omega)]; rfl
  | cons b r ih =>
    rw [Memory.store, ih (a + 1) (m.setByte_wf a b h), m.byte_setByte a x b h]
    simp only [List.length_cons]
    rcases Nat.lt_trichotomy x a with hlt | rfl | hgt
    · rw [if_neg (by omega), if_neg (by omega), if_neg (by omega)]
    · rw [if_neg (by omega), if_pos rfl, if_pos (by omega), Nat.sub_self, List.getD_cons_zero]
    · rw [if_neg (by omega : ¬ x = a), show x - a = x - (a + 1) + 1 by omega, List.getD_cons_succ]
      exact if_congr (by omega) rfl rfl

theorem Memory.byte_zero {m : Memory} (a n x : Nat) (h : m.wf = true) : (m.zero a n).byte x = if a ≤ x ∧ x < a + n then 0 else m.byte x := by
  unfold Memory.byte Memory.zero
  rw [get_filter_key _ (fun k => k < a || a + n ≤ k) x h]
  by_cases hx : a ≤ x ∧ x < a + n
  · rw [if_pos hx, if_neg (by simp; omega)]
  · rw [if_neg hx, if_pos (by simp; omega)]

/-- A value is stored little-endian and reads back modulo its width. -/
theorem Memory.read_store {m : Memory} (a n v : Nat) (h : m.wf = true) : (m.store a (leBytes v n)).read a n = v % 256 ^ n := by
  induction n generalizing m a v with
  | zero => simp [Memory.read, Memory.bytes, leNat, Nat.mod_one]
  | succ n ih =>
    have hw := m.setByte_wf a (BitVec.ofNat 8 v) h
    have hb : (m.store a (leBytes v (n + 1))).byte a = BitVec.ofNat 8 v := by
      rw [leBytes, Memory.store, Memory.byte_store_other (a + 1) a _ hw (by omega), m.byte_setByte a a _ h, if_pos rfl]
    calc (m.store a (leBytes v (n + 1))).read a (n + 1)
        = v % 256 + 256 * ((m.setByte a (BitVec.ofNat 8 v)).store (a + 1) (leBytes (v / 256) n)).read (a + 1) n := by
          simp only [Memory.read, Memory.bytes, leNat, hb, BitVec.toNat_ofNat]
          rfl
      _ = v % 256 ^ (n + 1) := by rw [ih (a + 1) (v / 256) hw, Nat.pow_succ', Nat.mod_mul]

/-! Registers. -/

theorem Thread.setReg_wf {t : Thread} (n v : Nat) (h : (t.regs.wf fun _ => (0 : Word)) = true) :
    ((t.setReg n v).regs.wf fun _ => (0 : Word)) = true := wf_set _ _ _ h

/-- A register keeps 32 bits, and the others are as before. -/
theorem Thread.reg_setReg {t : Thread} (n m v : Nat) (h : (t.regs.wf fun _ => (0 : Word)) = true) :
    (t.setReg n v).reg m = if m = n then v % 2 ^ 32 else t.reg m := by
  have hi : t.idx m = t.idx n ↔ m = n := by unfold Thread.idx; omega
  have hg := get_set (fun _ => (0 : Word)) (t.idx n) (t.idx m) (BitVec.ofNat 32 v) h
  simp only [hi] at hg
  show (Tab.get _ (Tab.set _ t.regs (t.idx n) (BitVec.ofNat 32 v)) (t.idx m)).toNat = _
  rw [hg]
  split
  · exact BitVec.toNat_ofNat v 32
  · rfl

theorem Thread.reg_lt (t : Thread) (n : Nat) : t.reg n < 2 ^ 32 := BitVec.isLt _

/-- A pair holds 64 bits, the low word in its first register (R5, R26). -/
theorem Thread.pair_setPair {t : Thread} (n v : Nat) (h : (t.regs.wf fun _ => (0 : Word)) = true) : (t.setPair n v).pair n = v % 2 ^ 64 := by
  have h1 := t.setReg_wf n v h
  unfold Thread.pair Thread.setPair
  rw [reg_setReg _ _ _ h1, reg_setReg _ _ _ h1, if_pos rfl, if_neg (by omega), reg_setReg _ _ _ h, if_pos rfl]
  omega

theorem Thread.reg_setPair_other {t : Thread} (n m v : Nat) (h : (t.regs.wf fun _ => (0 : Word)) = true) (h0 : m ≠ n) (h1 : m ≠ n + 1) :
    (t.setPair n v).reg m = t.reg m := by
  unfold Thread.setPair
  rw [reg_setReg _ _ _ (t.setReg_wf n v h), if_neg h1, reg_setReg _ _ _ h, if_neg h0]

/-- The window base moves the visible registers (R24). -/
theorem Thread.reg_wb (t : Thread) (n w : Nat) : ({ t with wb := w } : Thread).reg n = ({ t with wb := 0 } : Thread).reg (16 * w + n) := by
  simp only [Thread.reg, Thread.idx, Nat.mul_zero, Nat.zero_add]

/-! Predicates (R25). -/

theorem Thread.setPred_seven (t : Thread) (b : Bool) : t.setPred 7 b = t := rfl

theorem Thread.pred_seven (t : Thread) : t.pred 7 = true := rfl

/-- The bit of a predicate, written into the register of all. -/
theorem Thread.getLsbD_setPred {t : Thread} {n : Nat} (m : Nat) (b : Bool) (hn : n < 7) :
    (t.setPred n b).preds.getLsbD m = if m = n then b else t.preds.getLsbD m := by
  have hbit : (BitVec.ofNat 7 (2 ^ n)).getLsbD m = decide (m = n) := by
    rw [BitVec.getLsbD_ofNat, Nat.testBit_two_pow]
    by_cases h : m = n
    · simp [h, hn]
    · simp [h, Ne.symm h]
  unfold Thread.setPred
  rw [if_neg (by omega)]
  cases b
  · have hout : t.preds.getLsbD m = true → m < 7 := BitVec.lt_of_getLsbD
    simp only [Bool.false_eq_true, if_false, BitVec.getLsbD_and, BitVec.getLsbD_not, hbit]
    by_cases h : m = n
    · simp [h]
    · cases hp : t.preds.getLsbD m
      · simp [h]
      · simp [h, hout hp]
  · simp only [if_true, BitVec.getLsbD_or, hbit]
    by_cases h : m = n <;> simp [h]

theorem Thread.pred_setPred {t : Thread} {n : Nat} (m : Nat) (b : Bool) (hn : n < 7) :
    (t.setPred n b).pred m = if m = n then b else t.pred m := by
  unfold Thread.pred
  rw [getLsbD_setPred m b hn]
  by_cases h : m = n
  · subst h
    simp [hn.ne]
  · simp [h]

end Sys2Proof.Machine

open Sys2Proof.Machine in
/-- Settles O46, from what tables, memory, registers and predicates read as after each write. -/
theorem registersAndMemory : Obligations.RegistersAndMemory := by
  unfold Obligations.RegistersAndMemory
  refine ⟨fun t h => ⟨fun n v => ⟨?_, t.setReg_wf n v h, fun m hm => ?_⟩, fun n v => ⟨t.pair_setPair n v h, fun m h0 h1 => ?_⟩,
    t.reg_lt, t.reg_wb, t.setPred_seven, t.pred_seven, fun n b hn => ⟨?_, fun m hm => ?_⟩⟩, fun m h => ⟨fun a bs x => m.byte_store a bs x h,
    fun a bs => m.store_wf a bs h, fun a n v => m.read_store a n v h, fun a n x => ⟨m.zero_wf a n h, m.byte_zero a n x h⟩,
    fun m2 h2 hb => tab_ext _ h h2 hb⟩⟩
  · rw [Thread.reg_setReg n n v h, if_pos rfl]
  · rw [Thread.reg_setReg n m v h, if_neg hm]
  · exact t.reg_setPair_other n m v h h0 h1
  · rw [Thread.pred_setPred n b hn, if_pos rfl]
  · rw [Thread.pred_setPred m b hn, if_neg hm]

end

/-! # What an issue leaves unchanged (R24, R25, R61, R166) -/

section

namespace Sys2Proof.Machine

/-! Ending an issue. The barrier events of a cycle reach the barrier registers of blocks and the waits of threads alone. -/

theorem map_updFirst {p : α → Bool} {f : α → α} {g : α → β} (h : ∀ x, g (f x) = g x) (l : List α) : (updFirst p f l).map g = l.map g := by
  induction l with
  | nil => rfl
  | cons x r ih =>
    unfold updFirst
    split
    · rw [List.map_cons, h, List.map_cons]
    · rw [List.map_cons, ih, List.map_cons]

/-- A block without what its barrier registers hold. -/
def Block.bare (b : Block) : Block := { b with bars := [], barEvs := [], arrivers := [] }

/-- A thread that waits for nothing. -/
def Thread.unwaiting (t : Thread) : Thread := { t with wait := .none }

/-- `u` is `s` but for the barrier registers of blocks and the waits of threads. -/
def BarFrame (s u : State) : Prop :=
  u = { s with blocks := u.blocks, threads := u.threads } ∧ u.blocks.map Block.bare = s.blocks.map Block.bare ∧
  u.threads.map Thread.unwaiting = s.threads.map Thread.unwaiting

theorem BarFrame.refl (s : State) : BarFrame s s := ⟨rfl, rfl, rfl⟩

theorem BarFrame.trans {s u v : State} (h : BarFrame s u) (k : BarFrame u v) : BarFrame s v := by
  obtain ⟨hu, hb, ht⟩ := h
  obtain ⟨kv, kb, kt⟩ := k
  refine ⟨?_, kb.trans hb, kt.trans ht⟩
  rw [kv, hu]

theorem BarFrame.foldl {f : State → α → State} (h : ∀ s x, BarFrame s (f s x)) (l : List α) (s : State) : BarFrame s (l.foldl f s) := by
  induction l generalizing s with
  | nil => exact .refl s
  | cons x r ih => exact (h s x).trans (ih (f s x))

theorem updBlock_barFrame (s : State) (bid : Nat) {f : Block → Block} (h : ∀ b, (f b).bare = b.bare) : BarFrame s (s.updBlock bid f) :=
  ⟨rfl, map_updFirst h _, rfl⟩

theorem mapThreads_barFrame (s : State) {f : Thread → Thread} (h : ∀ t, (f t).unwaiting = t.unwaiting) :
    BarFrame s { s with threads := s.threads.map f } :=
  ⟨rfl, rfl, by rw [List.map_map]; exact List.map_congr_left fun t _ => h t⟩

theorem barCycle_barFrame (s : State) (bid n : Nat) (evs : List BarEv) : BarFrame s (s.barCycle bid n evs) := by
  unfold State.barCycle
  split
  · exact .refl s
  · dsimp only
    split
    · refine .trans ?_ (mapThreads_barFrame (s.updBlock bid _) fun t => ?_)
      · exact updBlock_barFrame s bid fun _ => rfl
      · split <;> rfl
    · exact updBlock_barFrame s bid fun _ => rfl

theorem settleBars_barFrame (s : State) (core : Nat) : BarFrame s (s.settleBars core) := by
  unfold State.settleBars
  refine .foldl (fun s b => ?_) _ s
  split
  · exact .refl s
  · refine .trans ?_ (.foldl (fun s n => ?_) _ (s.updBlock b.bid _))
    · exact updBlock_barFrame s b.bid fun _ => rfl
    · dsimp only
      split
      · exact .refl s
      · exact barCycle_barFrame ..

theorem settleBars_of_no_events {s : State} (core : Nat) (h : ∀ b ∈ s.blocks, b.barEvs = []) : s.settleBars core = s := by
  unfold State.settleBars
  rw [List.foldl_ext _ (fun s _ => s) s fun s b hb => by rw [h b hb]; rfl]
  exact List.foldl_fixed _

theorem endIssue_of_more (s : State) {rest : List IssueSet} (h : rest ≠ []) : s.endIssue rest = { s with ports := rest } := by
  unfold State.endIssue
  rw [if_neg (by simpa using h)]

theorem endIssue_of_no_events {s : State} (rest : List IssueSet) (h : ∀ b ∈ s.blocks, b.barEvs = []) :
    s.endIssue rest = { s with ports := rest } := by
  unfold State.endIssue
  dsimp only
  split
  · exact settleBars_of_no_events _ h
  · rfl

theorem endIssue_barFrame (s : State) (rest : List IssueSet) : BarFrame { s with ports := rest } (s.endIssue rest) := by
  unfold State.endIssue
  dsimp only
  split
  · exact settleBars_barFrame ..
  · exact .refl _

/-! An issue on threads alone. -/

theorem stepped_frame (s : State) (p : IssueSet) (i : Instr) (f : Thread → Thread) :
    s.stepped p i f = { s with threads := (s.stepped p i f).threads, meters := (s.stepped p i f).meters } := rfl

theorem stepped_mem (s : State) (p : IssueSet) (i : Instr) (f : Thread → Thread) : (s.stepped p i f).mem = s.mem := rfl

theorem stepped_meters {s : State} {p : IssueSet} {i : Instr} {f : Thread → Thread} (h : i.vecOps = 0) :
    (s.stepped p i f).meters = s.meters := by
  show s.vecMeters p i = s.meters
  unfold State.vecMeters
  rw [h, foldl_countVec_zero]

theorem mem_stepped {s : State} {p : IssueSet} (i : Instr) (f : Thread → Thread) {t : Thread} (ht : t ∈ s.threads)
    (hp : p.members.contains t.key = false) : t ∈ (s.stepped p i f).threads :=
  List.mem_map.2 ⟨t, ht, by rw [hp]; rfl⟩

theorem Thread.setPred_frame (t : Thread) (n : Nat) (b : Bool) : t.setPred n b = { t with preds := (t.setPred n b).preds } := by
  unfold Thread.setPred
  split <;> rfl

end Sys2Proof.Machine

open Sys2Proof.Machine in
/-- Settles O45, from the frames of `endIssue`, of an issue on threads alone, and of each thread operation. -/
theorem framesOfIssues : Obligations.FramesOfIssues := by
  unfold Obligations.FramesOfIssues
  exact ⟨fun s rest => ⟨endIssue_of_more s, endIssue_of_no_events rest, endIssue_barFrame s rest⟩,
    fun s p i f => ⟨stepped_frame s p i f, fun a => by rw [stepped_mem], stepped_meters, fun t ht hp => mem_stepped i f ht hp⟩,
    fun t n v => ⟨rfl, rfl⟩, fun t n b => t.setPred_frame n b, fun t c => rfl, fun t n => rfl⟩

end

/-! # The checks before an instruction (R29, R33, R35, R36, R95, R372) -/

section

namespace Sys2Proof.Machine

/-! What each issue operation does with the set at the first port. -/

theorem eachTrap_of_ports {s : State} {p : IssueSet} {rest : List IssueSet} (hp : s.ports = p :: rest) (i : Instr)
    (f : Thread → Except (TrapInfo × Nat) Thread) : s.eachTrap i f =
      .next (((if i.vecOps = 0 then { s with threads := s.threads.map (s.actOn i f p) }
        else ((s.membersOf p).filter fun t => s.verdict i t == Verdict.go).foldl (fun (s : State) (t : Thread) => s.countVec p.core t.bid i.vecOps)
          { s with threads := s.threads.map (s.actOn i f p) }).raiseAll ((s.membersOf p).filterMap (s.raisedBy i f))).endIssue rest) := by
  unfold State.eachTrap
  split
  · rename_i h
    cases hp.symm.trans h
  · rename_i h
    cases hp.symm.trans h
    rfl

theorem inTurn_of_ports {s : State} {p : IssueSet} {rest : List IssueSet} (hp : s.ports = p :: rest) (i : Instr)
    (f : Nat → State → Thread → TRes) {r : Run}
    (hr : p.members.foldl (Run.one i s.nextId (f s.nextId)) { s := s.numbered, raised := [], went := [], mirrored := [] } = r) :
    s.inTurn i f = .next (((r.count i s.nextId).raiseAll r.raised).endIssue rest) := by
  unfold State.inTurn
  split
  · rename_i h
    cases hp.symm.trans h
  · rename_i h
    cases hp.symm.trans h
    rw [← hr]
    rfl

theorem together_of_ports {s : State} {p : IssueSet} {rest : List IssueSet} (hp : s.ports = p :: rest) (i : Instr)
    (f : Nat → State → Nat → Nat → List Thread → GRes) {r : Run}
    (hr : (s.groupsOf p).foldl (Run.group i s.nextId p (f s.nextId)) { s := s.numbered, raised := [], went := [], mirrored := [] } = r) :
    s.together i f = .next (((r.count i s.nextId).raiseAll r.raised).endIssue rest) := by
  unfold State.together
  split
  · rename_i h
    cases hp.symm.trans h
  · rename_i h
    cases hp.symm.trans h
    rw [← hr]
    rfl

/-- Where no thread issued, nothing counts (R84). -/
theorem count_none (i : Instr) (tok : Nat) (s : State) (l : List Raised) :
    Run.count i tok { s, raised := l, went := [], mirrored := [] } = s := by
  unfold Run.count
  cases i.counter <;> rfl

/-! Sets of one thread. -/

/-- A set of one thread, `t`, the only one of its key, waits at the first port. -/
structure State.Sole (s : State) (k : ThreadKey) (t : Thread) (p : IssueSet) (rest : List IssueSet) : Prop where
  ports : s.ports = p :: rest
  members : p.members = [k]
  pc : p.pc = t.pc
  thread : s.thread? k = some t
  only : ∀ u ∈ s.threads, u.key = k → u = t

section

variable {s : State} {k : ThreadKey} {t : Thread} {p : IssueSet} {rest : List IssueSet} {i : Instr} {c : Cause}

theorem State.Sole.key (h : s.Sole k t p rest) : t.key = k := (mem_of_thread? h.thread).2

theorem State.Sole.membersOf (h : s.Sole k t p rest) : s.membersOf p = [t] := by
  unfold State.membersOf
  rw [h.members]
  simp only [List.filterMap_cons, h.thread, List.filterMap_nil]

/-- What an issue makes of every thread: `t` becomes `g t`, and no other thread changes. -/
theorem State.Sole.map_actOn (h : s.Sole k t p rest) {f : Thread → Except (TrapInfo × Nat) Thread} {g : Thread → Thread}
    (ht : s.actOn i f p t = g t) : s.threads.map (s.actOn i f p) = s.threads.map fun u => if u.key == k then g u else u := by
  refine List.map_congr_left fun u hu => ?_
  cases hk : u.key == k
  · unfold State.actOn
    rw [h.members, if_neg (by simpa using hk)]
    rfl
  · rw [h.only u hu (by simpa using hk), ht]
    rfl

theorem trapSet_one (hp : s.ports = p :: rest) (hm : p.members = [k]) (x : TrapInfo) :
    s.trapSet x = .next ((s.takeTrap k p.pc p.pc x.word).endIssue rest) := by
  unfold State.trapSet
  rw [hp]
  dsimp only
  rw [hm]
  rfl

/-- An instruction on threads alone: a check that fails is all that happens. -/
theorem eachTrap_check (h : s.Sole k t p rest) (hv : s.verdict i t = .trap c) (f : Thread → Except (TrapInfo × Nat) Thread) :
    s.eachTrap i f = .next ((s.takeTrap k t.pc t.pc (plainTrap c).word).endIssue rest) := by
  have hact : s.actOn i f p t = t := by
    unfold State.actOn
    rw [hv]
    exact ite_self t
  have hraised : s.raisedBy i f t = some { key := k, pc := t.pc, resume := t.pc, info := (plainTrap c).word } := by
    unfold State.raisedBy
    rw [hv, h.key]
  rw [eachTrap_of_ports h.ports, h.map_actOn (g := id) hact, h.membersOf]
  simp only [id, ite_self, List.map_id', List.filterMap_cons, List.filterMap_nil, hraised, List.filter_cons, List.filter_nil, hv, ite_self,
    List.foldl_nil, show (Verdict.trap c == Verdict.go) = false from rfl, Bool.false_eq_true, if_false]
  rfl

/-- An instruction with effects beyond its threads: the same. -/
theorem inTurn_check (h : s.Sole k t p rest) (hv : s.verdictAt s.nextId i t = .trap c) (f : Nat → State → Thread → TRes) :
    s.inTurn i f = .next ((s.numbered.takeTrap k t.pc t.pc (plainTrap c).word).endIssue rest) := by
  have hrun : p.members.foldl (Run.one i s.nextId (f s.nextId)) { s := s.numbered, raised := [], went := [], mirrored := [] } =
      { s := s.numbered, raised := [{ key := k, pc := t.pc, resume := t.pc, info := (plainTrap c).word }], went := [], mirrored := [] } := by
    rw [h.members, List.foldl_cons, List.foldl_nil]
    unfold Run.one
    simp only [show s.numbered.thread? k = some t from h.thread, verdictAt_numbered, hv, List.nil_append, BitVec.add_zero]
  rw [inTurn_of_ports h.ports i f hrun, count_none]
  rfl

/-- A collective: the same, where the check is one that keeps the group from firing. -/
theorem together_check (h : s.Sole k t p rest) (hv : s.verdictAt s.nextId i t = .trap c) (hi : i.wf = false ∨ t.inHandler = true)
    (f : Nat → State → Nat → Nat → List Thread → GRes) :
    s.together i f = .next ((s.numbered.takeTrap k t.pc t.pc (plainTrap c).word).endIssue rest) := by
  have hgroups : s.groupsOf p = [(t.bid, t.grp)] := by
    unfold State.groupsOf
    rw [h.membersOf]
    rfl
  have hstanders : s.numbered.standers t.bid t.grp p = [t] := by
    unfold State.standers
    rw [show s.numbered.membersOf p = [t] from h.membersOf]
    simp
  have hbad : (!i.wf || [t].any fun u => u.inHandler) = true := by
    rcases hi with hi | hi <;> simp [hi]
  have hrun : (s.groupsOf p).foldl (Run.group i s.nextId p (f s.nextId)) { s := s.numbered, raised := [], went := [], mirrored := [] } =
      { s := s.numbered, raised := [{ key := k, pc := t.pc, resume := t.pc, info := (plainTrap c).word }], went := [], mirrored := [] } := by
    rw [hgroups, List.foldl_cons, List.foldl_nil]
    unfold Run.group
    dsimp only
    rw [hstanders, if_pos hbad]
    simp only [State.checkTraps, List.filterMap_cons, List.filterMap_nil, verdictAt_numbered, hv, h.key, h.pc, List.map_cons, List.map_nil,
      List.nil_append]
  rw [together_of_ports h.ports i f hrun, count_none]
  rfl

theorem updFirst_eq_map {q : α → Bool} {f : α → α} {x : α} {l : List α} (h : l.filter q = [x]) :
    updFirst q f l = l.map fun u => if q u then f u else u := by
  induction l with
  | nil => cases h
  | cons y r ih =>
    rw [List.filter_cons] at h
    unfold updFirst
    split at h
    · rename_i hy
      have hr : ∀ u ∈ r, ¬ q u = true := List.filter_eq_nil_iff.1 (List.tail_eq_of_cons_eq h)
      rw [if_pos hy, List.map_cons, if_pos hy]
      exact congrArg _ ((List.map_id r).symm.trans (List.map_congr_left fun u hu => (if_neg (hr u hu)).symm))
    · rename_i hy
      rw [if_neg hy, List.map_cons, if_neg hy, ih h]

/-- A false guard leaves only the PC moved: an instruction on threads alone. -/
theorem eachTrap_skip (h : s.Sole k t p rest) (hone : s.threads.filter (fun u => u.key == k) = [t]) (hv : s.verdict i t = .skip)
    (f : Thread → Except (TrapInfo × Nat) Thread) : s.eachTrap i f = .next ((s.updThread k fun t => t.next i.len).endIssue rest) := by
  have hact : s.actOn i f p t = t.next i.len := by
    unfold State.actOn
    rw [h.members, if_pos (by simp [h.key]), hv]
  have hraised : s.raisedBy i f t = none := by
    unfold State.raisedBy
    rw [hv]
  rw [eachTrap_of_ports h.ports, h.map_actOn (g := fun t => t.next i.len) hact, h.membersOf, ← updFirst_eq_map hone]
  simp only [List.filterMap_cons, List.filterMap_nil, hraised, List.filter_cons, List.filter_nil, hv, ite_self, List.foldl_nil,
    show (Verdict.skip == Verdict.go) = false from rfl, Bool.false_eq_true, if_false]
  rfl

/-- The same: an instruction with effects beyond its threads. -/
theorem inTurn_skip (h : s.Sole k t p rest) (hv : s.verdictAt s.nextId i t = .skip) (f : Nat → State → Thread → TRes) :
    s.inTurn i f = .next ((s.numbered.updThread k fun t => t.next i.len).endIssue rest) := by
  have hrun : p.members.foldl (Run.one i s.nextId (f s.nextId)) { s := s.numbered, raised := [], went := [], mirrored := [] } =
      { s := s.numbered.updThread k fun t => t.next i.len, raised := [], went := [], mirrored := [] } := by
    rw [h.members, List.foldl_cons, List.foldl_nil]
    unfold Run.one
    simp only [show s.numbered.thread? k = some t from h.thread, verdictAt_numbered, hv]
  rw [inTurn_of_ports h.ports i f hrun, count_none]
  rfl

end

/-! The verdicts of R36, in the order of the checks. -/

section

variable {s : State} {tok : Nat} {i : Instr} {t : Thread}

theorem verdictAt_of_not_wf (hw : i.wf = false) : s.verdictAt tok i t = .trap .illegalOp := by
  unfold State.verdictAt
  rw [hw]
  rfl

/-- A handler's instruction stands inside a handler and a collective outside (R35, R372). -/
def Placed (i : Instr) (t : Thread) : Prop := (i.level = .handler → t.inHandler = true) ∧ (i.collective = true → t.inHandler = false)

theorem placed_iff : Placed i t ↔ (i.level == .handler && !t.inHandler) = false ∧ (i.collective && t.inHandler) = false := by
  unfold Placed
  cases t.inHandler <;> cases i.collective <;> simp

theorem verdictAt_of_not_placed (hp : ¬ Placed i t) : s.verdictAt tok i t = .trap .illegalOp := by
  rw [placed_iff] at hp
  unfold State.verdictAt
  split
  · rfl
  · split
    · rfl
    · rw [if_pos]
      simp_all

theorem verdictAt_of_placed (hw : i.wf = true) (hp : Placed i t) : s.verdictAt tok i t =
    if !levelAllows (s.levelOf t.bid) i.level then .trap .sysPriv
    else if !s.ready tok t i then .held
    else if !t.pred i.guard then .skip
    else if !t.covers i then (if neverTraps i then .skip else .trap .regRange)
    else .go := by
  obtain ⟨h1, h2⟩ := placed_iff.1 hp
  unfold State.verdictAt
  rw [hw, h1, h2]
  rfl

end

/-! Every encoded instruction takes its checks in one of the shared operations. -/

section

variable {s : State} {k : ThreadKey} {t : Thread} {p : IssueSet} {rest : List IssueSet} {i : Instr} {c : Cause}

/-- A check that fails is all that happens. A collective fires only where its group stands outside handlers, so for one the check is of
those that come before. -/
theorem exec_check (he : i.encoded = true) (h : s.Sole k t p rest) (hv : s.verdictAt s.nextId i t = .trap c)
    (hc : i.collective = true → i.level = .user → i.wf = false ∨ t.inHandler = true) : ∃ s2, (s2 = s ∨ s2 = s.numbered) ∧
      exec i s = .next ((s2.takeTrap k t.pc t.pc (plainTrap c).word).endIssue rest) := by
  cases exec_meaning i s with
  | each _ f e => exact ⟨s, .inl rfl, e.trans (eachTrap_check h hv f)⟩
  | inTurn _ f e => exact ⟨s.numbered, .inr rfl, e.trans (inTurn_check h hv f)⟩
  | together hcol hl f e => exact ⟨s.numbered, .inr rfl, e.trans (together_check h hv (hc hcol hl) f)⟩
  | illegal hw e =>
    cases (verdictAt_of_not_wf hw).symm.trans hv
    exact ⟨s, .inl rfl, by rw [e, trapSet_one h.ports h.members, h.pc]⟩
  | event hn => exact absurd he (by rw [hn]; exact Bool.false_ne_true)

/-- A thread that skips an instruction moves past it. -/
theorem exec_skip (he : i.encoded = true) (h : s.Sole k t p rest) (hone : s.threads.filter (fun u => u.key == k) = [t])
    (hv : s.verdictAt s.nextId i t = .skip) (hc : i.collective = false) : ∃ s2, (s2 = s ∨ s2 = s.numbered) ∧
      exec i s = .next ((s2.updThread k fun t => t.next i.len).endIssue rest) := by
  cases exec_meaning i s with
  | each _ f e => exact ⟨s, .inl rfl, e.trans (eachTrap_skip h hone hv f)⟩
  | inTurn _ f e => exact ⟨s.numbered, .inr rfl, e.trans (inTurn_skip h hv f)⟩
  | together hcol => exact absurd hcol (by rw [hc]; exact Bool.false_ne_true)
  | illegal hw => cases (verdictAt_of_not_wf hw).symm.trans hv
  | event hn => exact absurd he (by rw [hn]; exact Bool.false_ne_true)

theorem sole_of_filter (hp : s.ports = p :: rest) (hm : p.members = [k]) (hpc : p.pc = t.pc)
    (hone : s.threads.filter (fun u => u.key == k) = [t]) : s.Sole k t p rest where
  ports := hp
  members := hm
  pc := hpc
  thread := by
    unfold State.thread?
    rw [← List.head?_filter, hone]
    rfl
  only := fun u hu hk => List.mem_singleton.1 (hone ▸ List.mem_filter.2 ⟨hu, by simpa using hk⟩)

end

/-! Fetching (R29, R35, R95). -/

theorem Core.fetch_absent {c : Core} {tag : Nat} {pc : VAddr}
    (h : ∀ n g, c.segOf tag (pc.toNat / 4096) = some (n, g) → g.landed = false) : c.fetch tag pc = .absent := by
  unfold Core.fetch
  split
  · rfl
  · rename_i n g hs
    rw [h n g hs]
    rfl

theorem Core.fetch_illegal {c : Core} {tag : Nat} {pc : VAddr} {n : Nat} {g : Seg} (hs : c.segOf tag (pc.toNat / 4096) = some (n, g))
    (hg : g.landed = true) (h : decodePair (c.imem.read (4096 * n + pc.toNat % 4096) 4) (c.imem.read (4096 * n + pc.toNat % 4096 + 4) 4) = none ∨
      (isLim (c.imem.read (4096 * n + pc.toNat % 4096) 4) = true ∧ pc.toNat % 4096 = 4092)) : c.fetch tag pc = .illegal := by
  unfold Core.fetch
  rw [hs]
  dsimp only
  rw [hg, if_neg (by decide)]
  split
  · rfl
  · rename_i hl
    rcases h with hd | ⟨h1, h2⟩
    · rw [hd]
    · exact absurd (by rw [h1, h2]; rfl) hl

theorem fetchFor_eq {s : State} {t : Thread} {b : Block} {l : Launch} (hb : s.block? t.bid = some b) (hl : s.launch? b.lid = some l) :
    s.fetchFor t = (s.core b.core).fetch l.tag t.pc := by
  unfold State.fetchFor
  rw [hb]
  dsimp only
  rw [hl]

section

variable {s : State} {p : IssueSet} {rest : List IssueSet}

/-- The state in which the set at the first port fetches: it holds the threads that still stand there. -/
def State.atPort (s : State) (p : IssueSet) (rest : List IssueSet) : State := { s with ports := s.standing p :: rest }

theorem step_of_nobody (hp : s.ports = p :: rest) (hm : (s.standing p).members = []) :
    step s = .next ((s.atPort p rest).endIssue rest) := by
  unfold step
  rw [hp]
  dsimp only
  unfold State.issueAt State.membersOf
  dsimp only
  rw [hm]
  rfl

/-- A fetch without an instruction is the trap of its thread (R35, R95). -/
theorem step_of_fetch {k : ThreadKey} {t : Thread} {x : TrapInfo} (hp : s.ports = p :: rest) (hm : (s.standing p).members = [k])
    (ht : s.thread? k = some t) (hf : s.fetchFor t = .absent ∧ x = { cause := .codeAbsent, addr := p.pc, aux := 0 } ∨
      s.fetchFor t = .illegal ∧ x = plainTrap .illegalOp) :
    step s = .next (((s.atPort p rest).takeTrap k p.pc p.pc x.word).endIssue rest) := by
  have hone : (s.atPort p rest).membersOf (s.standing p) = [t] := by
    unfold State.membersOf
    rw [hm]
    simp only [List.filterMap_cons, show (s.atPort p rest).thread? k = some t from ht, List.filterMap_nil]
  have htrap : step s = (s.atPort p rest).trapSet x := by
    unfold step
    rw [hp]
    dsimp only
    unfold State.issueAt
    dsimp only
    split
    · rename_i h
      cases hone.symm.trans h
    · rename_i h
      cases hone.symm.trans h
      split
      · rename_i h
        rcases hf with ⟨-, rfl⟩ | ⟨hf, -⟩
        · rfl
        · cases hf.symm.trans h
      · rename_i h
        rcases hf with ⟨hf, -⟩ | ⟨-, rfl⟩
        · cases hf.symm.trans h
        · rfl
      · rename_i h
        rcases hf with ⟨hf, -⟩ | ⟨hf, -⟩ <;> cases hf.symm.trans h
  rw [htrap]
  exact trapSet_one rfl hm x

end

end Sys2Proof.Machine

open Sys2Proof.Machine in
/-- Settles O44, by the verdict of R36 and the shared operation that each encoded instruction issues through. -/
theorem issueChecks : Obligations.IssueChecks := by
  unfold Obligations.IssueChecks
  intro i s k t p rest he hp hm hpc hone
  have h := sole_of_filter hp hm hpc hone
  refine ⟨fun hw => exec_check (c := .illegalOp) he h (verdictAt_of_not_wf hw) fun _ _ => .inl hw, fun _ hn => ?_, fun hw hpl hc hl => ?_,
    fun hw hpl hc hl hr => ⟨fun hg => ?_, fun hg hcov => ?_⟩⟩
  · refine exec_check (c := .illegalOp) he h (verdictAt_of_not_placed hn) fun _ hu => .inr ?_
    by_contra hh
    exact hn ⟨fun hlev => absurd (hlev.symm.trans hu) (by decide), fun _ => by simpa using hh⟩
  · refine exec_check (c := .sysPriv) he h ?_ fun hcol => absurd hcol (by rw [hc]; exact Bool.false_ne_true)
    rw [verdictAt_of_placed hw hpl, hl]
    rfl
  · refine exec_skip he h hone ?_ hc
    rw [verdictAt_of_placed hw hpl, hl, hr, hg]
    rfl
  · have hv : s.verdictAt s.nextId i t = if neverTraps i then .skip else .trap .regRange := by
      rw [verdictAt_of_placed hw hpl, hl, hr, hg, hcov]
      rfl
    split
    · rename_i hn
      exact exec_skip he h hone (by rw [hv, if_pos hn]) hc
    · rename_i hn
      exact exec_check (c := .regRange) he h (by rw [hv, if_neg hn]) fun hcol => absurd hcol (by rw [hc]; exact Bool.false_ne_true)

open Sys2Proof.Machine in
/-- Settles O43, by what the fetch at the thread's PC finds. -/
theorem fetchTraps : Obligations.FetchTraps := by
  unfold Obligations.FetchTraps
  refine fun s p rest hp => ⟨step_of_nobody hp, fun k t b l hm ht hb hl => ⟨fun ha => ?_, fun n g hs hg hd => ?_⟩⟩
  · exact step_of_fetch (x := { cause := .codeAbsent, addr := p.pc, aux := 0 }) hp hm ht (.inl ⟨(fetchFor_eq hb hl).trans (Core.fetch_absent ha), rfl⟩)
  · exact step_of_fetch (x := plainTrap .illegalOp) hp hm ht (.inr ⟨(fetchFor_eq hb hl).trans (Core.fetch_illegal hs hg hd), rfl⟩)

end

/-! # `lim` pairs (R28) -/

section

namespace Sys2Proof.Machine

variable {h : BitVec 26} {w : BitVec 32} {i : Instr}

theorem exec_lim (h : BitVec 26) (w : BitVec 32) (s : State) : exec (.lim h w) s = execLim h w s := by
  unfold exec
  rfl

/-- A pair whose meaning is one function on each thread performs that function. -/
theorem limEach_performs {f : Option Nat → Thread → Thread} {g : Thread → Thread}
    (he : ∀ s, execLim h w s = s.limEach (.lim h w) f) (hg : ∀ t, (f (some h.toNat) t).next 8 = g t) : Performs (.lim h w) g :=
  each_runs (i := .lim h w) (f := f (some h.toNat)) (fun s => (exec_lim h w s).trans (he s)) hg

/-- A pair counts the vector operations of its second word (R440). -/
theorem vecOps_lim (hd : decodeWord w.toNat = some i) : (Instr.lim h w).vecOps = i.vecOps1 := by
  show ((decodeWord w.toNat).map Instr.vecOps1).getD 0 = _
  rw [hd]
  rfl

/-! Transfers. -/

/-- A transfer performs where its target has landed. -/
theorem transfer_performs {a : Thread → VAddr} {f : Thread → Thread}
    (he : ∀ s, exec i s = s.eachTrap i fun t => s.transfer t (f t) (a t)) :
    PerformsWhere i (fun s t => s.landed t (a t) = true) fun _ t => (f t).goto (a t) :=
  eachTrap_runs he fun s t ht => by
    unfold State.transfer
    rw [if_pos ht]

/-- A transfer whose target has not landed traps with the target as its address. -/
theorem transfer_absent {a : Thread → VAddr} {f : Thread → Thread} {s : State} {k : ThreadKey} {t : Thread} {rest : List IssueSet}
    (he : exec i s = s.eachTrap i fun t => s.transfer t (f t) (a t)) (hv : i.vecOps = 0) (hl : s.landed t (a t) = false)
    (ha : s.Alone i k t rest) :
    exec i s = .next ((s.takeTrap k t.pc t.pc { cause := 7, addr := a t, aux := 0 }).endIssue rest) := by
  have ht : s.transfer t (f t) (a t) = .error (addrTrap .codeAbsent (a t), 0) := by
    unfold State.transfer
    rw [hl]
    rfl
  rw [he, eachTrap_trap ha ht hv, BitVec.ofNat_eq_ofNat, BitVec.add_zero]
  rfl

/-- The target of a pair's branch (R28). -/
def limTarget (h : BitVec 26) (o : BitVec 23) (t : Thread) : VAddr := t.pc + BitVec.ofInt 64 (4 * sgn 49 (h.toNat * 2 ^ 23 + o.toNat))

theorem exec_lim_bra {g : BitVec 3} {o : BitVec 23} (hd : decodeWord w.toNat = some (.bra g o) ∨ decodeWord w.toNat = some (.jfence g o))
    (s : State) : exec (.lim h w) s = s.eachTrap (.lim h w) fun t => s.transfer t t (limTarget h o t) := by
  rw [exec_lim]
  rcases hd with hd | hd
  all_goals
    simp only [execLim, hd]
    rfl

theorem exec_lim_call {g : BitVec 3} {o : BitVec 23} (hd : decodeWord w.toNat = some (.call g o)) (s : State) :
    exec (.lim h w) s = s.eachTrap (.lim h w) fun t => s.transfer t (t.setPair 0 (t.pc + 8).toNat) (limTarget h o t) := by
  rw [exec_lim]
  simp only [execLim, hd]
  rfl

/-! Conversions. -/

theorem isPair_iff (z : BitVec 4) : (z.toNat = 10 || z.toNat = 11) = true ↔ z = 10 ∨ z = 11 := by
  revert z
  decide

theorem toNat_beq_one (x : BitVec 1) : (x.toNat == 1) = (x == 1) := by
  revert x
  decide

/-! Pairs that do not compose. -/

theorem encoded_lim : (Instr.lim h w).encoded = true := by
  have hw : encodeWord (.lim h w) = 4227858432 + h.toNat := rfl
  unfold Instr.encoded
  rw [hw]
  simp

theorem wf_lim_eq_false (hd : ∀ i, decodeWord w.toNat = some i → i.wf1 = false ∨ limOk h.toNat i = false) : (Instr.lim h w).wf = false := by
  unfold Instr.wf
  dsimp only
  split
  · rename_i j hj
    rcases hd j hj with e | e <;> simp [e]
  · rfl

end Sys2Proof.Machine

open Sys2Proof.Machine in
/-- Settles O36: each pair has the meaning of its second word under the payload, which `execLim` gives by that word's constructor. -/
theorem limArithmetic : Obligations.LimArithmetic := by
  intro h w g d a b x y m
  refine ⟨?_, ?_, ?_, ?_, ?_, ?_, ?_, ?_, ?_, ?_, ?_, ?_, ?_, ?_, ?_, ?_, ?_, ?_⟩
  all_goals exact fun hd => limEach_performs (fun s => by simp only [execLim, hd]; rfl) fun t => rfl

open Sys2Proof.Machine in
/-- Settles O37: transfers by whether the target has landed, `cvt` by whether the payload names a seed register, the other pairs by R36's
first check. -/
theorem limTransfersAndConversion : Obligations.LimTransfersAndConversion := by
  refine ⟨fun h w g o => ⟨fun hd => ?_, fun hd => ?_, fun s k t rest hl ha hd => ?_⟩, fun h w g d a x y z hd => ?_,
    fun h w s k t p rest hd hp hm hpc ht hu => ?_⟩
  · exact transfer_performs (a := limTarget h o) (f := id) (exec_lim_bra hd)
  · exact transfer_performs (a := limTarget h o) (exec_lim_call hd)
  · rcases hd with hd | hd | hd
    · exact transfer_absent (a := limTarget h o) (f := id) (exec_lim_bra (.inl hd) s) (vecOps_lim hd) hl ha
    · exact transfer_absent (a := limTarget h o) (f := id) (exec_lim_bra (.inr hd) s) (vecOps_lim hd) hl ha
    · exact transfer_absent (a := limTarget h o) (exec_lim_call hd s) (vecOps_lim hd) hl ha
  · refine limEach_performs (f := fun h => cvtOp h d.toNat a.toNat x.toNat y.toNat z.toNat) (fun s => by simp only [execLim, hd]) fun t => ?_
    simp only [cvtOp, cvtTo, isPair_iff, toNat_beq_one, limSeedReg]
    cases Sys2Proof.bit h.toNat 2 <;> rfl
  · exact exec_check (c := .illegalOp) encoded_lim ⟨hp, hm, hpc, ht, hu⟩ (verdictAt_of_not_wf (wf_lim_eq_false hd))
      fun _ _ => .inl (wf_lim_eq_false hd)

end

/-! # `lim` pairs of memory accesses and matrix multiplications (R28, R137, R186) -/

section

namespace Sys2Proof.Machine

section

variable {s : State} {t : Thread} {tok len : Nat} {tgt : Target}

/-! Where an access splits (R141). -/

theorem halves16_whole {n : Nat} (hh : ∀ x, tgt = .host x → n ≠ 16) : halves16 tgt n = [(0, n)] := by
  cases tgt with
  | host x => exact if_neg (hh x rfl)
  | _ => rfl

theorem Target.offset_zero (tgt : Target) : tgt.offset 0 = tgt := by
  cases tgt <;> rfl

/-- A load that its check lets pass to a target other than a peer is in flight, in one access or two. -/
theorem issueLoad_ok {r : LoadReq} (hc : s.check (s.envOf t.bid) r.acc r.ea r.al r.n = .ok tgt) (hp : ∀ v x, tgt ≠ .peer v x) :
    s.issueLoad t tok len r = .ok (((halves16 tgt r.n).foldl (fun s p => s.addLoad t tok r tgt p.1 p.2) s).updThread t.key
      fun t => (t.await r.dst none).next len) := by
  unfold State.issueLoad
  rw [hc]
  cases tgt with
  | peer v x => exact absurd rfl (hp v x)
  | _ => rfl

theorem issueStore_ok {ea : VAddr} {n : Nat} (hc : s.check (s.envOf t.bid) .st ea n n = .ok tgt) (ty : BitVec 2) (rel : Bool) (x : Nat) :
    s.issueStore t tok len ea n ty rel x = .ok (((halves16 tgt n).foldl (fun s p => s.enqueue t tok rel (ea + BitVec.ofNat 64 p.1)
      (tgt.offset p.1) ty (.store (leBytes (x / 2 ^ (8 * p.1)) p.2))) s).updThread t.key fun t => t.next len) := by
  unfold State.issueStore
  rw [hc]

/-- Where the address is unaligned or not local global memory, a prefetch does nothing (R146). -/
theorem prefOp_silent {h : Option Nat} {a : Nat} {y : BitVec 2} {o : BitVec 4}
    (hn : (mAddr t a h o 128).toNat % 128 ≠ 0 ∨ ∀ pa, s.resolve (s.envOf t.bid) .ld (mAddr t a h o 128) 1 ≠ .ok (.loc pa)) :
    prefOp h len a y o s t = .ok (s.updThread t.key fun t => t.next len) := by
  unfold prefOp
  dsimp only
  split
  · rename_i pa hr
    rcases hn with hn | hn
    · simp [hn]
    · exact absurd hr (hn pa)
  · rfl

end

section

variable {h : BitVec 26} {w : BitVec 32} {i : Instr} {s s2 : State} {k : ThreadKey} {t : Thread} {rest : List IssueSet}

theorem State.Alone.key (ha : s.Alone i k t rest) : t.key = k := by
  obtain ⟨⟨-, ht, -⟩, -⟩ := ha
  exact (mem_of_thread? ht).2

theorem State.Alone.solo (ha : s.Alone i k t rest) : s.Solo t.bid := by
  obtain ⟨⟨-, -, -, -, hs⟩, -⟩ := ha
  exact hs

/-- A pair counts where its second word does (R84). -/
theorem counted_lim (hd : decodeWord w.toNat = some i) (hi : i.inner = some i) (bid grp tok : Nat) :
    s.counted (.lim h w) bid grp tok = s.counted i bid grp tok := by
  have hc : (Instr.lim h w).counter = i.counter := by
    unfold Instr.counter
    rw [hi]
    exact congrArg (·.bind Instr.counter1) hd
  unfold State.counted
  rw [hc]

theorem counted_of_none (hc : i.counter = none) (bid grp tok : Nat) : s.counted i bid grp tok = s := by
  unfold State.counted
  rw [hc]

/-- One thread's issue of a pair whose meaning answers a state. -/
theorem exec_lim_ok {f : Nat → State → Thread → TRes} (hd : decodeWord w.toNat = some i) (hi : i.inner = some i)
    (he : execLim h w s = s.inTurn (.lim h w) f) (ha : s.Alone (.lim h w) k t rest) (hf : f s.nextId s.numbered t = .ok s2)
    (hs : s2.blocks = s.blocks) : exec (.lim h w) s = .next ((s2.counted i t.bid t.grp s.nextId).endIssue rest) := by
  have hsolo : s2.Solo t.bid := by
    unfold State.Solo State.block?
    rw [hs]
    exact ha.solo
  rw [exec_lim, he, inTurn_ok ha hf hsolo, counted_lim hd hi]

theorem foldl_blocks {f : State → Nat × Nat → State} (hf : ∀ s p, (f s p).blocks = s.blocks) (l : List (Nat × Nat)) (s : State) :
    (l.foldl f s).blocks = s.blocks := by
  induction l generalizing s with
  | nil => rfl
  | cons p l ih => exact (ih _).trans (hf s p)

/-- A pair that loads, where its check lets it pass. -/
theorem exec_lim_load {r : Thread → LoadReq} {tgt : Target} (hd : decodeWord w.toNat = some i) (hi : i.inner = some i)
    (he : execLim h w s = s.inTurn (.lim h w) fun tok s t => s.issueLoad t tok 8 (r t)) (ha : s.Alone (.lim h w) k t rest)
    (hc : s.check (s.envOf t.bid) (r t).acc (r t).ea (r t).al (r t).n = .ok tgt) (hp : ∀ v x, tgt ≠ .peer v x) :
    exec (.lim h w) s = .next (((((halves16 tgt (r t).n).foldl (fun s' p => s'.addLoad t s.nextId (r t) tgt p.1 p.2) s.numbered).updThread k
      fun u => (u.await (r t).dst none).next 8).counted i t.bid t.grp s.nextId).endIssue rest) := by
  refine exec_lim_ok hd hi he ha ((issueLoad_ok (s := s.numbered) (tok := s.nextId) (len := 8) hc hp).trans ?_) ?_
  · rw [ha.key]
  · show State.blocks (List.foldl _ _ _) = _
    exact foldl_blocks (by exact fun _ _ => rfl) _ _

/-- A pair that stores, where its check lets it pass. -/
theorem exec_lim_store {ea : Thread → VAddr} {n : Nat} {ty : BitVec 2} {rel : Bool} {x : Thread → Nat} {tgt : Target}
    (hd : decodeWord w.toNat = some i) (hi : i.inner = some i)
    (he : execLim h w s = s.inTurn (.lim h w) fun tok s t => s.issueStore t tok 8 (ea t) n ty rel (x t)) (ha : s.Alone (.lim h w) k t rest)
    (hc : s.check (s.envOf t.bid) .st (ea t) n n = .ok tgt) :
    exec (.lim h w) s = .next (((((halves16 tgt n).foldl (fun s' p => s'.enqueue t s.nextId rel (ea t + BitVec.ofNat 64 p.1) (tgt.offset p.1) ty
      (.store (leBytes (x t / 2 ^ (8 * p.1)) p.2))) s.numbered).updThread k fun u => u.next 8).counted i t.bid t.grp s.nextId).endIssue rest) := by
  refine exec_lim_ok hd hi he ha ((issueStore_ok (s := s.numbered) (tok := s.nextId) (len := 8) hc ty rel (x t)).trans ?_) ?_
  · rw [ha.key]
  · show State.blocks (List.foldl _ _ _) = _
    exact foldl_blocks (by exact fun _ _ => rfl) _ _

/-- A pair that prefetches nothing. -/
theorem exec_lim_pref {g : BitVec 3} {a : BitVec 7} {y : BitVec 2} {o : BitVec 4} (hd : decodeWord w.toNat = some (.pref g a y o))
    (ha : s.Alone (.lim h w) k t rest) (hn : (mAddr t a.toNat (some h.toNat) o 128).toNat % 128 ≠ 0 ∨
      ∀ pa, s.resolve (s.envOf t.bid) .ld (mAddr t a.toNat (some h.toNat) o 128) 1 ≠ .ok (.loc pa)) :
    exec (.lim h w) s = .next ((s.numbered.updThread k fun u => u.next 8).endIssue rest) := by
  have he : execLim h w s = s.inTurn (.lim h w) fun _ => prefOp (some h.toNat) 8 a.toNat y o := by
    simp only [execLim, hd]
    rfl
  have hf : prefOp (some h.toNat) 8 a.toNat y o s.numbered t = .ok (s.numbered.updThread k fun u => u.next 8) := by
    rw [← ha.key]
    exact prefOp_silent (s := s.numbered) hn
  rw [exec_lim_ok hd rfl he ha hf rfl, counted_of_none rfl]

end

/-! Matrix multiplications. -/

theorem mmaChecks_eq_false {k : MatKind} {cfg : Pcfg} (h : cfg.sparseTrap = false) : mmaChecks k cfg = false := by
  unfold mmaChecks
  split
  · exact h
  · rfl

/-- A multiplication within its tiles, claimed, outside a gang and unchecked enters the queue (R185 to R187). -/
theorem mmaOp_ok {s : State} {bid grp tok guard len : Nat} {kind : MatKind} {gr : Group} {t0 : Thread} {part : List Thread}
    (hgr : s.group? bid grp = some gr) (ho : mmaOver kind = false) (hn : s.mayName bid grp (kind.names gr.pcfg) = true) (hgang : gr.gang = 0)
    (hl : s.listed bid grp = false) (hsp : gr.pcfg.sparseTrap = false) :
    mmaOp guard len kind tok s bid grp (t0 :: part) = .ok (s.addMat t0 tok kind false []) := by
  unfold mmaOp
  simp only [hgr, ho, hn, hgang, hl, mmaChecks_eq_false hsp, ne_eq, not_true_eq_false, decide_false, Bool.or_self, Bool.not_true,
    Bool.false_eq_true, if_false]

/-- A pair that multiplies so. -/
theorem exec_lim_mma {h : BitVec 26} {w : BitVec 32} {i : Instr} {s : State} {q : IssueSet} {rest : List IssueSet} {bid grp : Nat}
    {gr : Group} {t0 : Thread} {part : List Thread} {f : Option Nat → MatKind} {kind : MatKind} (hd : decodeWord w.toNat = some i)
    (hi : i.inner = some i) (he : execLim h w s = s.limMma (.lim h w) f) (hk : f (limMeta (some h.toNat)) = kind)
    (hg : s.Gathers (.lim h w) q rest bid grp)
    (hp : s.parts (.lim h w) q bid grp = t0 :: part) (hgr : s.group? bid grp = some gr) (ho : mmaOver kind = false)
    (hn : s.mayName bid grp (kind.names gr.pcfg) = true) (hgang : gr.gang = 0) (hl : s.listed bid grp = false)
    (hsp : gr.pcfg.sparseTrap = false) :
    exec (.lim h w) s = .next ((((s.numbered.addMat t0 s.nextId kind false []).advanceGroup (.lim h w) q.pc bid grp
      (s.standers bid grp q)).counted i bid grp s.nextId).endIssue rest) := by
  subst hk
  rw [exec_lim, he, ← counted_lim hd hi]
  obtain ⟨-, -, -, -, hs, -⟩ := id hg
  refine together_ok hg ?_ hs
  rw [hp]
  exact mmaOp_ok (s := s.numbered) hgr ho hn hgang hl hsp

end Sys2Proof.Machine

open Sys2Proof Sys2Proof.Machine in
/-- Settles O38: a pair issues the load, the store or the command of its second word, in one access or, for 16 bytes of host memory, in two. -/
theorem limMemoryAndMatrix : Obligations.LimMemoryAndMatrix := by
  refine ⟨fun h w g d a z z1 y o s k t rest ha => ⟨?_, ?_, ?_, ?_⟩, ?_⟩
  · intro i acc c ty acq kind tgt hm hd hc hp hh
    simp only [List.mem_cons, List.not_mem_nil, or_false, Prod.mk.injEq] at hm
    obtain ⟨rfl, rfl, rfl, rfl, rfl, rfl⟩ | ⟨rfl, rfl, rfl, rfl, rfl, rfl⟩ | ⟨rfl, rfl, rfl, rfl, rfl, rfl⟩ := hm
    all_goals
      refine (exec_lim_load hd rfl (by simp only [execLim, hd]; rfl) ha hc hp).trans ?_
      dsimp only
      rw [halves16_whole hh]
      simp only [List.foldl_cons, List.foldl_nil, State.addLoad, if_pos, Target.offset_zero, BitVec.ofNat_eq_ofNat, BitVec.add_zero]
      rfl
  · intro i c rel tgt hm hd hc hh
    simp only [List.mem_cons, List.not_mem_nil, or_false, Prod.mk.injEq] at hm
    obtain ⟨rfl, rfl, rfl⟩ | ⟨rfl, rfl, rfl⟩ := hm
    all_goals
      refine (exec_lim_store hd rfl (by simp only [execLim, hd]; rfl) ha hc).trans ?_
      rw [halves16_whole hh]
      simp only [List.foldl_cons, List.foldl_nil, State.enqueue, Target.offset_zero, BitVec.add_zero, Nat.mul_zero, pow_zero, Nat.div_one]
      rfl
  · intro x hz dst
    obtain rfl : z = 4 := BitVec.eq_of_toNat_eq hz
    refine ⟨fun hd hc => ?_, fun hd hc => ?_⟩
    · intro half
      refine (exec_lim_load (r := fun t => {
        acc := .ld, ea := mAddr t a.toNat (some h.toNat) o 16, al := 16, n := 16, sign := 0, dst := t.absRegs (dataOpd 4 d.toNat), ty := y,
        acq := false, kind := .ld }) hd rfl (by simp only [execLim, hd]; rfl) ha hc nofun).trans ?_
      simp only [halves16, if_true, List.foldl_cons, List.foldl_nil, State.addLoad, List.append_assoc, List.cons_append, List.nil_append]
      rfl
    · intro half v
      refine (exec_lim_store (n := 16) (ea := fun t => mAddr t a.toNat (some h.toNat) o 16) (x := fun t => t.opdVal (dataOpd 4 d.toNat)) hd
        rfl (by simp only [execLim, hd]; rfl) ha hc).trans ?_
      simp only [halves16, if_true, List.foldl_cons, List.foldl_nil, Nat.mul_zero, pow_zero, Nat.div_one]
      rfl
  · exact fun hd hn => exec_lim_pref hd ha hn
  · intro h w g n m c a b s q rest bid grp gr t0 part i f hm hd hg hp hgr md kind ho hn hgang hl hsp
    simp only [List.mem_cons, List.not_mem_nil, or_false, Prod.mk.injEq] at hm
    obtain ⟨rfl, rfl⟩ | ⟨rfl, rfl⟩ | ⟨rfl, rfl⟩ | ⟨rfl, rfl⟩ | ⟨rfl, rfl⟩ | ⟨rfl, rfl⟩ | ⟨rfl, rfl⟩ | ⟨rfl, rfl⟩ := hm
    all_goals exact exec_lim_mma hd rfl (by simp only [execLim, hd]; rfl) rfl hg hp hgr ho hn hgang hl hsp

end

/-! # Rounding and conversions (R53, R118, R121, R127, R128)

Where a unit of 2^sh is dropped, `roundAt` divides by it and adds one or not, by the mode. -/

section

namespace Sys2Proof.Machine

section

variable {exp : Int} {sh : Nat} (hsh : 0 < sh) (m : Mode) (neg : Bool) (mag : Nat)
include hsh

theorem not_shift_le : ¬ exp + sh ≤ exp := by omega

/-! The multiple that each mode delivers (R53). -/

/-- A magnitude is rounded toward zero by `.rz`, and by the mode that is directed against its sign. -/
theorem roundAt_toward (h : m = .rz ∨ m = .rp ∧ neg = true ∨ m = .rm ∧ neg = false) :
    roundAt m neg mag exp (exp + sh) = (mag / 2 ^ sh, mag % 2 ^ sh != 0) := by
  obtain rfl | ⟨rfl, rfl⟩ | ⟨rfl, rfl⟩ := h
  all_goals simp [roundAt, not_shift_le hsh]

/-- A magnitude is rounded away from zero by the mode directed along its sign. -/
theorem roundAt_away (h : m = .rp ∧ neg = false ∨ m = .rm ∧ neg = true) :
    roundAt m neg mag exp (exp + sh) = (if mag % 2 ^ sh = 0 then mag / 2 ^ sh else mag / 2 ^ sh + 1, mag % 2 ^ sh != 0) := by
  obtain ⟨rfl, rfl⟩ | ⟨rfl, rfl⟩ := h
  all_goals simp [roundAt, not_shift_le hsh]

/-- `.rn` adds one above the middle, and at the middle of an odd and an even multiple. -/
theorem roundAt_nearest : roundAt .rn neg mag exp (exp + sh) =
    (if 2 ^ sh < 2 * (mag % 2 ^ sh) ∨ 2 * (mag % 2 ^ sh) = 2 ^ sh ∧ mag / 2 ^ sh % 2 = 1 then mag / 2 ^ sh + 1 else mag / 2 ^ sh,
      mag % 2 ^ sh != 0) := by
  simp [roundAt, not_shift_le hsh]

/-- Every mode tells whether something was dropped. -/
theorem roundAt_inexact : (roundAt m neg mag exp (exp + sh)).2 = true ↔ ¬ 2 ^ sh ∣ mag := by
  have hr : (roundAt m neg mag exp (exp + sh)).2 = (mag % 2 ^ sh != 0) := by
    unfold roundAt
    rw [if_neg (not_shift_le hsh), add_sub_cancel_left, Int.toNat_natCast]
  rw [hr, Nat.dvd_iff_mod_eq_zero, bne_iff_ne]

/-! How far the multiple lies from the magnitude. -/

theorem roundAt_toward_bounds (h : m = .rz ∨ m = .rp ∧ neg = true ∨ m = .rm ∧ neg = false) :
    (roundAt m neg mag exp (exp + sh)).1 * 2 ^ sh ≤ mag ∧ mag < ((roundAt m neg mag exp (exp + sh)).1 + 1) * 2 ^ sh := by
  rw [roundAt_toward hsh m neg mag h]
  exact ⟨Nat.div_mul_le_self mag _, Nat.lt_mul_of_div_lt (Nat.lt_succ_self _) (Nat.two_pow_pos sh)⟩

theorem roundAt_away_bounds (h : m = .rp ∧ neg = false ∨ m = .rm ∧ neg = true) :
    mag ≤ (roundAt m neg mag exp (exp + sh)).1 * 2 ^ sh ∧ (roundAt m neg mag exp (exp + sh)).1 * 2 ^ sh < mag + 2 ^ sh := by
  have hmag := Nat.div_add_mod' mag (2 ^ sh)
  have hlt := Nat.mod_lt mag (Nat.two_pow_pos sh)
  rw [roundAt_away hsh m neg mag h]
  dsimp only
  split
  · omega
  · rw [Nat.succ_mul]
    omega

/-- The nearest multiple is at most half a unit away, and even where it is half a unit away. -/
theorem roundAt_nearest_bounds (n : Nat) (hn : (roundAt .rn neg mag exp (exp + sh)).1 = n) :
    2 * (n * 2 ^ sh) ≤ 2 * mag + 2 ^ sh ∧ 2 * mag ≤ 2 * (n * 2 ^ sh) + 2 ^ sh ∧
      (2 * (n * 2 ^ sh) = 2 * mag + 2 ^ sh ∨ 2 * mag = 2 * (n * 2 ^ sh) + 2 ^ sh → n % 2 = 0) := by
  have hmag := Nat.div_add_mod' mag (2 ^ sh)
  have hlt := Nat.mod_lt mag (Nat.two_pow_pos sh)
  rw [roundAt_nearest hsh neg mag] at hn
  dsimp only at hn
  split at hn
  · rw [← hn, Nat.succ_mul (mag / 2 ^ sh)]
    omega
  · rw [← hn]
    omega

end

/-! The instructions. -/

variable (g : BitVec 3) (d a : BitVec 7)

theorem frnd_performs : Performs (.frnd g d a) fun t => (t.setFp d.toNat (frndC .rn (t.reg a.toNat))).next 4 :=
  each_runs (f := frndOp none d.toNat a.toNat) (fun _ => rfl) fun _ => rfl

theorem rdflg_performs : Performs (.rdflg g d) fun t => (t.setReg d.toNat t.flags.toNat).next 4 :=
  each_runs (f := fun t => t.setReg d.toNat t.flags.toNat) (fun _ => rfl) fun _ => rfl

theorem clrflg_performs :
    Performs (.clrflg g a) fun t => ({ t with flags := t.flags &&& ~~~(BitVec.ofNat 5 (t.reg a.toNat)) } : Thread).next 4 :=
  each_runs (f := fun t => { t with flags := t.flags &&& ~~~(BitVec.ofNat 5 (t.reg a.toNat)) }) (fun _ => rfl) fun _ => rfl

/-- A `cvt` without a `lim` rounds to nearest and has no seed. -/
theorem cvt_performs (x : BitVec 1) (y z : BitVec 4) : Performs (.cvt g d a x y z) fun t =>
    let r := cvtC y.toNat z.toNat (x == 1) .rn none (if z = 10 ∨ z = 11 then t.pair a.toNat else t.reg a.toNat)
    ((if y = 10 ∨ y = 11 then t.setPair d.toNat r.1 else t.setReg d.toNat r.1).raise r.2).next 4 :=
  each_runs (f := cvtOp none d.toNat a.toNat x.toNat y.toNat z.toNat) (fun _ => rfl) fun t => by
    simp only [cvtOp, cvtTo, isPair_iff, toNat_beq_one, limSeedReg]
    rfl

end Sys2Proof.Machine

open Sys2Proof.Machine in
/-- Settles O10: the instructions by their one function on each thread, the manual's examples by evaluation, and the modes of R53 by the
quotient and the remainder of the magnitude. -/
theorem conversionAndRounding : Obligations.ConversionAndRounding := by
  unfold Obligations.ConversionAndRounding
  refine ⟨⟨fun g d a x y z => ⟨frnd_performs g d a, rdflg_performs g d, clrflg_performs g a, cvt_performs g d a x y z⟩, by decide⟩,
    fun neg mag sh exp hsh => ⟨?_, ?_, ?_, ?_, ?_, ?_, fun m => roundAt_inexact hsh m neg mag⟩⟩
  · exact roundAt_nearest_bounds hsh neg mag _ rfl
  · exact roundAt_toward_bounds hsh .rz neg mag (.inl rfl)
  · rw [roundAt_toward hsh .rp true mag (.inr (.inl ⟨rfl, rfl⟩)), roundAt_toward hsh .rz true mag (.inl rfl)]
  · rw [roundAt_toward hsh .rm false mag (.inr (.inr ⟨rfl, rfl⟩)), roundAt_toward hsh .rz false mag (.inl rfl)]
  · exact roundAt_away_bounds hsh .rp false mag (.inl ⟨rfl, rfl⟩)
  · rw [roundAt_away hsh .rm true mag (.inr ⟨rfl, rfl⟩), roundAt_away hsh .rp false mag (.inl ⟨rfl, rfl⟩)]

end

/-! # A step runs the instruction at its program counter (R29, R73, R95) -/

section

namespace Sys2Proof.Machine

/-! Decoding from memory (R17, R28). -/

theorem wordOf_bytes (m : Memory) (a n : Nat) : wordOf (m.bytes a (n + 4)) = m.read a 4 := by
  simp only [Memory.bytes, wordOf, Memory.read, leNat]
  omega

/-- Eight bytes of memory decode as their two little-endian words do. -/
theorem decode_bytes (m : Memory) (a : Nat) : (decode (m.bytes a 8)).map Prod.fst = decodePair (m.read a 4) (m.read (a + 4) 4) := by
  have hlow : wordOf (m.bytes a 8) = m.read a 4 := wordOf_bytes m a 4
  have hhigh : wordOf ((m.bytes a 8).drop 4) = m.read (a + 4) 4 := wordOf_bytes m (a + 4) 0
  have hlen : (m.bytes a 8).length = 8 := rfl
  unfold decode
  rw [hlow, hhigh, hlen, if_neg (by decide)]
  split
  · rw [if_neg (by decide), Option.map_map]
    exact Option.map_id_apply
  · rename_i hl
    rw [Option.map_map, decodePair, if_neg hl]
    exact Option.map_id_apply

theorem len_of_decodePair_lim {w v : Nat} {i : Instr} (hl : isLim w = true) (h : decodePair w v = some i) : i.len = 8 := by
  rw [decodePair, if_pos hl] at h
  cases h
  rfl

/-! Fetching and issue. -/

theorem Core.fetch_ok {c : Core} {tag : Nat} {pc : VAddr} {n : Nat} {g : Seg} {i : Instr} (hs : c.segOf tag (pc.toNat / 4096) = some (n, g))
    (hg : g.landed = true)
    (hd : decodePair (c.imem.read (4096 * n + pc.toNat % 4096) 4) (c.imem.read (4096 * n + pc.toNat % 4096 + 4) 4) = some i)
    (hlast : i.len = 8 → pc.toNat % 4096 ≠ 4092) : c.fetch tag pc = .ok i := by
  unfold Core.fetch
  rw [hs]
  dsimp only
  rw [hg, if_neg (by decide), hd, if_neg]
  intro hl
  obtain ⟨hlim, hend⟩ := Bool.and_eq_true_iff.1 hl
  exact hlast (len_of_decodePair_lim hlim hd) (beq_iff_eq.1 hend)

/-- The first thread that still stands at the set's PC fetches for the set. -/
theorem step_of_instr {s : State} {p : IssueSet} {rest : List IssueSet} {t : Thread} {ts : List Thread} {i : Instr} (hp : s.ports = p :: rest)
    (hm : s.membersOf (s.standing p) = t :: ts) (hf : s.fetchFor t = .ok i) : step s = exec i (s.atPort p rest) := by
  have hm' : (s.atPort p rest).membersOf (s.standing p) = t :: ts := hm
  have hf' : (s.atPort p rest).fetchFor t = .ok i := hf
  unfold step
  rw [hp]
  dsimp only
  unfold State.issueAt
  unfold State.atPort at hm' hf' ⊢
  dsimp only
  rw [hm']
  dsimp only
  rw [hf']

end Sys2Proof.Machine

open Sys2Proof.Machine in
/-- Settles O42, by what the first thread of the set fetches. -/
theorem stepRunsDecoded : Obligations.StepRunsDecoded := by
  unfold Obligations.StepRunsDecoded
  intro s p rest t ts b l n g i r hp hm hb hl hs hg hd hlast
  have hpair := (decode_bytes (s.core b.core).imem (4096 * n + t.pc.toNat % 4096)).symm.trans (congrArg (Option.map Prod.fst) hd)
  exact step_of_instr hp hm ((fetchFor_eq hb hl).trans (Core.fetch_ok hs hg hpair hlast))

end

/-! # Integer, bit, move, compare and predicate instructions (R87 to R94)

Each of them is one function on each thread (`State.each`). A register keeps 32 bits of what is written to it and a pair 64, so that a result
is shown up to a multiple of 2^32 or 2^64. -/

section

namespace Sys2Proof.Machine

/-! Results. -/

theorem Thread.setReg_congr (t : Thread) (n : Nat) {u v : Nat} (h : u % 2 ^ 32 = v % 2 ^ 32) : t.setReg n u = t.setReg n v := by
  have hw : BitVec.ofNat 32 u = BitVec.ofNat 32 v := BitVec.eq_of_toNat_eq (by simpa only [BitVec.toNat_ofNat] using h)
  unfold Thread.setReg Thread.setAbs
  rw [hw]

theorem Thread.setPair_congr (t : Thread) (n : Nat) {u v : Nat} (h : u % 2 ^ 64 = v % 2 ^ 64) : t.setPair n u = t.setPair n v := by
  unfold Thread.setPair
  rw [t.setReg_congr n (show u % 2 ^ 32 = v % 2 ^ 32 by omega)]
  exact Thread.setReg_congr _ _ (by omega)

theorem Thread.pair_lt (t : Thread) (n : Nat) : t.pair n < 2 ^ 64 := by
  have h0 := t.reg_lt n
  have h1 := t.reg_lt (n + 1)
  unfold Thread.pair
  omega

theorem setReg_performs {i : Instr} {d : Nat} {u v : Thread → Nat} (he : ∀ s, exec i s = s.each i fun t => t.setReg d (u t))
    (hl : i.len = 4) (h : ∀ t, u t % 2 ^ 32 = v t % 2 ^ 32) : Performs i fun t => (t.setReg d (v t)).next 4 :=
  each_runs he fun t => by rw [hl, t.setReg_congr d (h t)]

theorem setPair_performs {i : Instr} {d : Nat} {u v : Thread → Nat} (he : ∀ s, exec i s = s.each i fun t => t.setPair d (u t))
    (hl : i.len = 4) (h : ∀ t, u t % 2 ^ 64 = v t % 2 ^ 64) : Performs i fun t => (t.setPair d (v t)).next 4 :=
  each_runs he fun t => by rw [hl, t.setPair_congr d (h t)]

theorem setPred_performs {i : Instr} {d : Nat} {u : Thread → Bool} (he : ∀ s, exec i s = s.each i fun t => t.setPred d (u t))
    (hl : i.len = 4) : Performs i fun t => (t.setPred d (u t)).next 4 :=
  each_runs he fun t => by rw [hl]

/-! Arithmetic (R88). -/

theorem div_eq_carry {x y : Nat} (hx : x < 2 ^ 32) (hy : y < 2 ^ 32) : (x + y) / 2 ^ 32 = if 2 ^ 32 ≤ x + y then 1 else 0 := by
  split <;> omega

/-- The upper word of a product's low 64 bits is the low word of its quotient by 2^32. -/
theorem bits_low_upper (p : Int) : bits (low 64 p) 63 32 = low 32 (p / (2 ^ 32 : Nat)) := by
  unfold bits low
  omega

end Sys2Proof.Machine

open Sys2Proof.Machine in
/-- Settles O1: each function writes its exact result, of which the register or the pair keeps the slice. -/
theorem integerArithmetic : Obligations.IntegerArithmetic := by
  intro g d a b
  refine ⟨?add, ?sub, ?add64, ?sub64, ?addc, ?subc, ?mulLo, ?mulHiZ, ?mulHiS, ?wideZ, ?wideS, ?mad, ?minS, ?maxS, ?minZ, ?maxZ⟩
  case addc => exact setReg_performs (fun _ => rfl) rfl fun t => by rw [div_eq_carry (t.reg_lt _) (t.reg_lt _)]
  case subc => exact setReg_performs (fun _ => rfl) rfl fun t => by simp only [Sys2Proof.ofBool, decide_eq_true_eq]
  case mulHiS => exact setReg_performs (fun _ => rfl) rfl fun t => by rw [bits_low_upper]
  case add | mulLo | mulHiZ | mad => exact setReg_performs (fun _ => rfl) rfl fun t => (Nat.mod_mod _ _).symm
  case add64 => exact setPair_performs (fun _ => rfl) rfl fun t => (Nat.mod_mod _ _).symm
  case sub64 | wideZ | wideS => exact setPair_performs (fun _ => rfl) rfl fun t => rfl
  case sub | minS | maxS | minZ | maxZ => exact setReg_performs (fun _ => rfl) rfl fun t => rfl

namespace Sys2Proof.Machine

/-! Shifts and counts (R89). -/

theorem shl_eq (n x k : Nat) : shl n x k = x * 2 ^ k % 2 ^ n := by
  unfold shl
  split
  · rename_i h
    exact (Nat.mod_eq_zero_of_dvd ((pow_dvd_pow 2 h).mul_left x)).symm
  · rfl

theorem shrZ_eq {n x : Nat} (k : Nat) (hx : x < 2 ^ n) : shrZ n x k = x / 2 ^ k := by
  unfold shrZ
  split
  · rename_i h
    exact (Nat.div_eq_of_lt (hx.trans_le (Nat.pow_le_pow_right (by decide) h))).symm
  · rfl

theorem sgn_bounds (n x : Nat) : -((2 ^ n : Nat) : Int) ≤ sgn n x ∧ sgn n x < (2 ^ n : Nat) := by
  have h : x % 2 ^ n < 2 ^ n := Nat.mod_lt _ (Nat.two_pow_pos n)
  unfold sgn
  split <;> omega

theorem low_neg_one (n : Nat) : low n (-1) = 2 ^ n - 1 := by
  have h : (0 : Int) < (2 ^ n : Nat) := Int.natCast_pos.2 (Nat.two_pow_pos n)
  unfold low
  rw [← Int.add_emod_right, Int.emod_eq_of_lt (by omega) (by omega)]
  omega

theorem shrS_eq (n x k : Nat) : shrS n x k = low n (sgn n x / (2 ^ k : Nat)) := by
  unfold shrS
  split
  · rename_i h
    obtain ⟨hlo, hhi⟩ := sgn_bounds n x
    have hk : ((2 ^ n : Nat) : Int) ≤ (2 ^ k : Nat) := Int.ofNat_le.2 (Nat.pow_le_pow_right (by decide) h)
    split
    · rename_i hneg
      rw [Int.ediv_eq_neg_one_of_neg_of_le hneg (by omega), low_neg_one]
    · rename_i hpos
      rw [Int.ediv_eq_zero_of_lt (by omega) (by omega)]
      simp [low]
  · rfl

/-- The two parts of a rotated word do not meet. -/
theorem rot_eq {x : Nat} (k : Nat) (hx : x < 2 ^ 32) : rot x k = (x * 2 ^ (k % 32) ||| x / 2 ^ (32 - k % 32)) % 2 ^ 32 := by
  have hsplit : 2 ^ (32 - k % 32) * 2 ^ (k % 32) = 2 ^ 32 := by
    rw [← pow_add, Nat.sub_add_cancel (by omega)]
  have hlow : x / 2 ^ (32 - k % 32) < 2 ^ (k % 32) := Nat.div_lt_of_lt_mul (by rw [hsplit]; exact hx)
  unfold rot
  rw [Nat.mul_comm x, Nat.two_pow_add_eq_or_of_lt hlow]

theorem popc_eq (x n : Nat) : popc x n = ((List.range n).filter fun k => bit x k).length := by
  induction n with
  | zero => rfl
  | succ n ih =>
    rw [popc, ih, List.range_succ, List.filter_append, List.length_append, Nat.add_comm]
    cases h : bit x n <;> simp [h, ofBool]

theorem bit_top {x n : Nat} (hx : x < 2 ^ (n + 1)) : bit x n = decide (2 ^ n ≤ x) := by
  have hq : x / 2 ^ n < 2 := Nat.div_lt_of_lt_mul (by rwa [← pow_succ])
  have hone : x / 2 ^ n = 1 ↔ 2 ^ n ≤ x := by
    rw [Nat.div_eq_iff (Nat.two_pow_pos n)]
    omega
  unfold bit
  rw [Nat.mod_eq_of_lt hq, ← decide_eq_decide.2 hone]
  rfl

theorem clz_eq {n x : Nat} (hx : x < 2 ^ n) : clz x n = if x = 0 then n else n - 1 - x.log2 := by
  induction n with
  | zero =>
    obtain rfl : x = 0 := by omega
    rfl
  | succ n ih =>
    rw [clz, bit_top hx]
    by_cases hn : 2 ^ n ≤ x
    · have h0 : x ≠ 0 := ((Nat.two_pow_pos n).trans_le hn).ne'
      have hlog : x.log2 = n := (Nat.log2_eq_iff h0).2 ⟨hn, hx⟩
      simp [hn, h0, hlog]
    · rw [ih (by omega)]
      by_cases h0 : x = 0
      · simp [h0, Nat.add_comm]
      · have hlog : x.log2 < n := (Nat.log2_lt h0).2 (by omega)
        simp only [hn, h0, decide_false, Bool.false_eq_true, if_false]
        omega

end Sys2Proof.Machine

open Sys2Proof.Machine in
/-- Settles O2: shifts by at least the width, where the model answers at once, agree with the powers of the table. -/
theorem shiftsAndBits : Obligations.ShiftsAndBits := by
  intro g d a b
  refine ⟨?shl, ?shl64, ?shrZ, ?shrZ64, ?shrS, ?shrS64, ?rot, ?and, ?or, ?xor, ?andn, ?popc, ?clz⟩
  case shl => exact setReg_performs (fun _ => rfl) rfl fun t => by rw [shl_eq]
  case shl64 => exact setPair_performs (fun _ => rfl) rfl fun t => by rw [shl_eq]
  case shrZ => exact setReg_performs (fun _ => rfl) rfl fun t => by rw [shrZ_eq _ (t.reg_lt _)]
  case shrZ64 => exact setPair_performs (fun _ => rfl) rfl fun t => by rw [shrZ_eq _ (t.pair_lt _)]
  case shrS => exact setReg_performs (fun _ => rfl) rfl fun t => by rw [shrS_eq]
  case shrS64 => exact setPair_performs (fun _ => rfl) rfl fun t => by rw [shrS_eq]
  case rot => exact setReg_performs (fun _ => rfl) rfl fun t => by rw [rot_eq _ (t.reg_lt _)]
  case popc => exact setReg_performs (fun _ => rfl) rfl fun t => by rw [popc_eq]
  case clz => exact setReg_performs (fun _ => rfl) rfl fun t => by rw [clz_eq (t.reg_lt _)]
  case and | or | xor | andn => exact setReg_performs (fun _ => rfl) rfl fun t => rfl

namespace Sys2Proof.Machine

/-! Bit fields (R90). -/

theorem bit_eq_testBit (x n : Nat) : bit x n = x.testBit n := by
  rw [Nat.testBit_eq_decide_div_mod_eq]
  rfl

theorem bselByte_lt (x b i : Nat) : bselByte x b i < 256 := by
  unfold bselByte
  dsimp only
  split
  · split <;> decide
  · exact Nat.mod_lt _ (by decide)

/-- Each result byte is selected by itself. -/
theorem bsel_byte (x b : Nat) {i : Nat} (hi : i < 4) : bsel x b / 2 ^ (8 * i) % 256 = bselByte x b i := by
  have h0 := bselByte_lt x b 0
  have h1 := bselByte_lt x b 1
  have h2 := bselByte_lt x b 2
  have h3 := bselByte_lt x b 3
  unfold bsel
  interval_cases i <;> omega

theorem fieldAt_eq (b : Nat) : fieldAt b = (min (bits b 7 0) 32, min (bits b 15 8) (32 - min (bits b 7 0) 32)) := by
  unfold fieldAt
  refine Prod.ext rfl ?_
  dsimp only
  split <;> omega

/-- A field of fewer than 2^n, less 2^n, in 32 bits. -/
theorem low_sub_two_pow {y n : Nat} (hn : n ≤ 32) (hy : y < 2 ^ n) : low 32 ((y : Int) - (2 ^ n : Nat)) = y + 2 ^ 32 - 2 ^ n := by
  have h : 2 ^ n ≤ 2 ^ 32 := Nat.pow_le_pow_right (by decide) hn
  unfold low
  omega

theorem bfx_eq {x b q n : Nat} (hf : fieldAt b = (q, n)) (hn : n ≤ 32) : bfx x b =
    if bit b 16 ∧ 0 < n ∧ bit x (q + n - 1) then low 32 (x / 2 ^ q % 2 ^ n - (2 ^ n : Nat)) else x / 2 ^ q % 2 ^ n := by
  have hlow := low_sub_two_pow hn (Nat.mod_lt (x / 2 ^ q) (Nat.two_pow_pos n))
  have hsign : 0 < n → bit (x / 2 ^ q % 2 ^ n) (n - 1) = bit x (q + n - 1) := fun h => by
    rw [bit_eq_testBit, bit_eq_testBit, Nat.testBit_mod_two_pow, Nat.testBit_div_two_pow, decide_eq_true (by omega), Bool.true_and]
    congr 1
    omega
  push_cast at hlow ⊢
  unfold bfx
  rw [hf]
  dsimp only
  rw [hlow]
  by_cases h : 0 < n
  · simp only [hsign h, Bool.and_eq_true, decide_eq_true_eq, and_assoc, Nat.reducePow]
  · simp [h]

/-- The bits of A stand between two parts of D. -/
theorem bit_bfi {b q n : Nat} (hf : fieldAt b = (q, n)) (x old k : Nat) :
    bit (bfi x old b) k = if q ≤ k ∧ k < q + n then bit x (k - q) else bit old k := by
  have hold : old % 2 ^ q < 2 ^ q := Nat.mod_lt _ (Nat.two_pow_pos q)
  have hx : x % 2 ^ n < 2 ^ n := Nat.mod_lt _ (Nat.two_pow_pos n)
  have hparts : bfi x old b = 2 ^ q * (2 ^ n * (old / 2 ^ (q + n)) + x % 2 ^ n) + old % 2 ^ q := by
    unfold bfi
    rw [hf]
    dsimp only
    rw [pow_add]
    ring
  rw [hparts, bit_eq_testBit, bit_eq_testBit, bit_eq_testBit, Nat.testBit_two_pow_mul_add _ hold, Nat.testBit_two_pow_mul_add _ hx,
    Nat.testBit_mod_two_pow, Nat.testBit_mod_two_pow, Nat.testBit_div_two_pow]
  by_cases h1 : k < q
  · simp [h1, Nat.not_le.2 h1]
  · by_cases h2 : k < q + n
    · simp [h1, h2, Nat.not_lt.1 h1, show k - q < n by omega]
    · simp [h1, h2, show ¬ k - q < n by omega, show k - q - n + (q + n) = k by omega]

end Sys2Proof.Machine

open Sys2Proof Sys2Proof.Machine in
/-- Settles O3: the field lies where `fieldAt` says, and `bsel.b32` selects byte by byte. -/
theorem bitFields : Obligations.BitFields := by
  refine ⟨fun g d a b => ⟨?_, ?_, ?_⟩, fun x b i hi => bsel_byte x b hi, ?_⟩
  · exact setReg_performs (fun _ => rfl) rfl fun t => rfl
  · exact setReg_performs (fun _ => rfl) rfl fun t => rfl
  · exact setReg_performs (fun _ => rfl) rfl fun t => rfl
  · intro x b q n hq hn
    have hf : fieldAt b = (q, n) := by rw [fieldAt_eq, hn, hq]
    exact ⟨bfx_eq hf (by omega), fun old k _ => bit_bfi hf x old k⟩

open Sys2Proof.Machine in
/-- Settles O4: each instruction writes the value of its rule; `sel.b32` asks whether d is not 0. -/
theorem immediatesMovesAndCompares : Obligations.ImmediatesMovesAndCompares := by
  refine ⟨fun g d a b i m => ⟨?addi, ?addi64, ?movi, ?sel, ?mov⟩,
    fun g p a b => ⟨?eq, ?ne, ?ltS, ?ltZ, ?leS, ?leZ, ?eq64, ?ltS64, ?ltZ64⟩⟩
  case addi | movi | mov => exact setReg_performs (fun _ => rfl) rfl fun t => rfl
  case addi64 => exact setPair_performs (fun _ => rfl) rfl fun t => rfl
  case sel => exact setReg_performs (fun _ => rfl) rfl fun t => by rw [ite_not]
  case eq | ne | ltS | ltZ | leS | leZ | eq64 | ltS64 | ltZ64 => exact setPred_performs (fun _ => rfl) rfl

open Sys2Proof.Machine in
/-- Settles O5: each function writes its truth value to a predicate, and `p2v` as 1 or 0 to a register. -/
theorem predicateFunctions : Obligations.PredicateFunctions := by
  refine ⟨Thread.pred_seven, fun g p q r d a => ⟨?pand, ?por, ?pxor, ?pnot, ?p2v, ?v2p⟩⟩
  case p2v => exact setReg_performs (fun _ => rfl) rfl fun t => rfl
  case pand | por | pxor | pnot | v2p => exact setPred_performs (fun _ => rfl) rfl

end

/-! # Transfers of control, thread control and register blocks (R95 to R107, R109, R170)

What acts on each thread's own record (`State.eachTrap`) either performs or traps; what reaches beyond it (`State.inTurn`) takes a number first. -/

section

namespace Sys2Proof.Machine

section

variable {i : Instr} {s s2 : State} {k : ThreadKey} {t : Thread} {rest : List IssueSet} {x : TrapInfo}

/-! One thread's issue of an instruction without a counter (R84). -/

theorem inTurn_done {f : Nat → State → Thread → TRes} (hc : i.counter = none) (ha : s.Alone i k t rest)
    (hf : f s.nextId s.numbered t = .ok s2) (hs : s2.blocks = s.blocks) : s.inTurn i f = .next (s2.endIssue rest) := by
  have hsolo : s2.Solo t.bid := by
    unfold State.Solo State.block?
    rw [hs]
    exact ha.solo
  rw [inTurn_ok ha hf hsolo, counted_of_none hc]

theorem inTurn_raises {f : Nat → State → Thread → TRes} (ha : s.Alone i k t rest) (hf : f s.nextId s.numbered t = .trap x 0) :
    s.inTurn i f = .next ((s.numbered.takeTrap k t.pc t.pc x.word).endIssue rest) := by
  rw [inTurn_trap ha hf, BitVec.add_zero]

theorem eachTrap_raises {f : Thread → Except (TrapInfo × Nat) Thread} (hv : i.vecOps = 0) (ha : s.Alone i k t rest)
    (hf : f t = .error (x, 0)) : s.eachTrap i f = .next ((s.takeTrap k t.pc t.pc x.word).endIssue rest) := by
  rw [eachTrap_trap ha hf hv, BitVec.add_zero]

/-! Indirect transfers (R99). -/

theorem indirect_ok {t' : Thread} {a : VAddr} (ha : a.toNat % 4 = 0) (hl : s.landed t a = true) : s.indirect t t' a = .ok (t'.goto a) := by
  unfold State.indirect State.transfer
  rw [if_neg (not_not.2 ha), if_pos hl]

theorem indirect_error {t' : Thread} {a : VAddr} (h : ¬ (a.toNat % 4 = 0 ∧ s.landed t a = true)) :
    s.indirect t t' a = .error (addrTrap (if a.toNat % 4 = 0 then .codeAbsent else .misaligned) a, 0) := by
  unfold State.indirect State.transfer
  by_cases ha : a.toNat % 4 = 0
  · rw [if_neg (not_not.2 ha), if_neg fun hl => h ⟨ha, hl⟩, if_pos ha]
  · rw [if_pos ha, if_neg ha]

theorem indirect_performs {a : Thread → VAddr} {f : Thread → Thread} (he : ∀ s, exec i s = s.eachTrap i fun t => s.indirect t (f t) (a t)) :
    PerformsWhere i (fun s t => (a t).toNat % 4 = 0 ∧ s.landed t (a t) = true) fun _ t => (f t).goto (a t) :=
  eachTrap_runs he fun _ _ ⟨ha, hl⟩ => indirect_ok ha hl

theorem indirect_traps {a : Thread → VAddr} {f : Thread → Thread} (he : exec i s = s.eachTrap i fun t => s.indirect t (f t) (a t))
    (hv : i.vecOps = 0) (h : ¬ ((a t).toNat % 4 = 0 ∧ s.landed t (a t) = true)) (ha : s.Alone i k t rest) : exec i s =
      .next ((s.takeTrap k t.pc t.pc { cause := if (a t).toNat % 4 = 0 then 7 else 3, addr := a t, aux := 0 }).endIssue rest) := by
  rw [he, eachTrap_raises hv ha (indirect_error h)]
  unfold addrTrap TrapInfo.word
  split <;> rfl

end

end Sys2Proof.Machine

open Sys2Proof.Machine in
/-- Settles O11, by whether the target has landed. -/
theorem directTransfers : Obligations.DirectTransfers := by
  intro g o to_
  refine ⟨?_, ?_, ?_, fun s k t rest hl i hi ha => ?_⟩
  · exact transfer_performs (a := to_) (f := id) fun _ => rfl
  · exact transfer_performs (a := to_) (f := id) fun _ => rfl
  · exact transfer_performs (a := to_) (f := fun t => t.setPair 0 (t.pc + 4).toNat) fun _ => rfl
  · simp only [List.mem_cons, List.not_mem_nil, or_false] at hi
    obtain rfl | rfl | rfl := hi
    · exact transfer_absent (a := to_) (f := id) rfl rfl hl ha
    · exact transfer_absent (a := to_) (f := fun t => t.setPair 0 (t.pc + 4).toNat) rfl rfl hl ha
    · exact transfer_absent (a := to_) (f := id) rfl rfl hl ha

open Sys2Proof.Machine in
/-- Settles O12, by whether the target is aligned and has landed. -/
theorem indirectTransfers : Obligations.IndirectTransfers := by
  intro g d a ok
  refine ⟨?_, ?_, ?_, fun s k t rest hok i hi ha => ?_⟩
  · exact indirect_performs (a := fun t => t.addr a.toNat) (f := id) fun _ => rfl
  · exact indirect_performs (a := fun t => t.addr a.toNat) (f := id) fun _ => rfl
  · exact indirect_performs (a := fun t => t.addr a.toNat) (f := fun t => t.setPair d.toNat (t.pc + 4).toNat) fun _ => rfl
  · simp only [List.mem_cons, List.not_mem_nil, or_false] at hi
    obtain rfl | rfl | rfl := hi
    · exact indirect_traps (a := fun t => t.addr a.toNat) (f := id) rfl rfl hok ha
    · exact indirect_traps (a := fun t => t.addr a.toNat) (f := id) rfl rfl hok ha
    · exact indirect_traps (a := fun t => t.addr a.toNat) (f := fun t => t.setPair d.toNat (t.pc + 4).toNat) rfl rfl hok ha

namespace Sys2Proof.Machine

/-! Threads (R100 to R104). -/

/-- The base that `wbase` asks for (R104). -/
def wbaseTo (m : BitVec 1) (v : BitVec 4) (t : Thread) : Int := if m = 0 then v.toNat else t.wb + sgn 4 v.toNat

theorem newBase_eq (m : BitVec 1) (v : BitVec 4) (t : Thread) :
    newBase m v t = if 0 ≤ wbaseTo m v t ∧ wbaseTo m v t < t.nb then some (wbaseTo m v t).toNat else none := rfl

theorem wbase_performs (g : BitVec 3) (m : BitVec 1) (v : BitVec 4) :
    PerformsWhere (.wbase g m v) (fun _ t => 0 ≤ wbaseTo m v t ∧ wbaseTo m v t < t.nb)
      fun _ t => ({ t with wb := (wbaseTo m v t).toNat } : Thread).next 4 :=
  eachTrap_runs (fun _ => rfl) fun _ t h => by rw [newBase_eq, if_pos h]

theorem wbase_traps {g : BitVec 3} {m : BitVec 1} {v : BitVec 4} {s : State} {k : ThreadKey} {t : Thread} {rest : List IssueSet}
    (ha : s.Alone (.wbase g m v) k t rest) (h : ¬ (0 ≤ wbaseTo m v t ∧ wbaseTo m v t < t.nb)) :
    exec (.wbase g m v) s = .next ((s.takeTrap k t.pc t.pc { cause := 2, addr := 0, aux := 0 }).endIssue rest) := by
  show execWbase g m v s = _
  exact eachTrap_raises (x := plainTrap .regRange) rfl ha (by rw [newBase_eq, if_neg h])

/-- A breakpoint resumes behind itself (R102). -/
theorem brk_traps {g : BitVec 3} {d : BitVec 7} {s : State} {k : ThreadKey} {t : Thread} {rest : List IssueSet}
    (ha : s.Alone (.brk g d) k t rest) : exec (.brk g d) s =
      .next ((s.takeTrap k t.pc (t.pc + 4) { cause := 23, addr := 0, aux := BitVec.ofNat 32 d.toNat }).endIssue rest) := by
  let code : TrapInfo := { cause := .breakpoint, addr := 0, aux := BitVec.ofNat 32 d.toNat }
  have he : exec (.brk g d) s = s.eachTrap (.brk g d) fun _ => .error (code, 4) := rfl
  rw [he, eachTrap_trap (x := code) (n := 4) ha rfl rfl]
  rfl

end Sys2Proof.Machine

open Sys2Proof.Machine in
/-- Settles O13: `wbase` by whether its base lies in the allocation, the others by their one effect. -/
theorem threadControl : Obligations.ThreadControl := by
  refine ⟨fun g => ?nop, fun g l st c tl => ?wait, fun g => ?yield, fun g m v => ?wbase, fun g d s k t rest ha => ?brk,
    fun g s k t rest ha => ?exit⟩
  case nop | wait => exact each_runs (f := id) (fun _ => rfl) fun _ => rfl
  case yield =>
    exact eachTrap_runs (f := fun s t => .ok { t.next 4 with wait := .yielding (s.clk + 64) }) (fun _ => rfl) fun _ _ _ => rfl
  case wbase => exact ⟨wbase_performs g m v, fun s k t rest ha h => wbase_traps ha h⟩
  case brk => exact brk_traps ha
  case exit =>
    have hk := ha.key
    subst hk
    show execExit g s = _
    exact inTurn_done rfl ha rfl rfl

namespace Sys2Proof.Machine

/-! Register blocks (R105, R106). -/

/-- Blocks are granted at once: no request queues on the lane, and they are free (R105). -/
def State.Grants (s : State) (b : Block) (t : Thread) (n : Nat) : Prop :=
  (∀ r ∈ (s.core b.core).regq, r.1 ≠ t.lane) ∧ n ≤ s.freeRegs b.core t.lane

theorem grants_iff (s : State) (b : Block) (t : Thread) (n : Nat) :
    (!((s.core b.core).regq.any fun r => r.1 == t.lane) && decide (n ≤ s.freeRegs b.core t.lane)) = true ↔ s.Grants b t n := by
  simp [State.Grants]

section

variable {g : BitVec 3} {n : BitVec 4} {d : BitVec 3} {s : State} {k : ThreadKey} {t : Thread} {b : Block} {rest : List IssueSet}
variable (hb : s.block? t.bid = some b)
include hb

theorem regacq_granted (ha : s.Alone (.regacq g n) k t rest) (h16 : t.nb + n.toNat ≤ 16) (hf : s.Grants b t n.toNat) :
    exec (.regacq g n) s = .next ((s.numbered.updThread k fun t => (t.grow n.toNat).next 4).endIssue rest) := by
  have hb' : s.numbered.block? t.bid = some b := hb
  show execRegacq g n s = _
  refine inTurn_done rfl ha ?_ rfl
  rw [hb']
  dsimp only
  rw [if_neg (by omega), if_pos ((grants_iff s.numbered b t n.toNat).2 hf), ha.key]

theorem regacq_queued (ha : s.Alone (.regacq g n) k t rest) (h16 : t.nb + n.toNat ≤ 16) (hf : ¬ s.Grants b t n.toNat) :
    exec (.regacq g n) s = .next (((s.numbered.setCore b.core { s.core b.core with
      regq := (s.core b.core).regq ++ [(t.lane, k, n.toNat)] }).updThread k fun t => { t with wait := .regacq, age := 0 }).endIssue rest) := by
  have hb' : s.numbered.block? t.bid = some b := hb
  show execRegacq g n s = _
  refine inTurn_done rfl ha ?_ rfl
  rw [hb']
  dsimp only
  rw [if_neg (by omega), if_neg fun h => hf ((grants_iff s.numbered b t n.toNat).1 h), ha.key]
  rfl

theorem regacqTry_granted (ha : s.Alone (.regacqTry g d n) k t rest) (h16 : t.nb + n.toNat ≤ 16) (hf : s.Grants b t n.toNat) :
    exec (.regacqTry g d n) s =
      .next ((s.numbered.updThread k fun t => ((t.grow n.toNat).setPred d.toNat true).next 4).endIssue rest) := by
  have hb' : s.numbered.block? t.bid = some b := hb
  show execRegacqTry g d n s = _
  refine inTurn_done rfl ha ?_ rfl
  rw [hb']
  dsimp only
  rw [if_neg (by omega), if_pos ((grants_iff s.numbered b t n.toNat).2 hf), ha.key]

theorem regacqTry_refused (ha : s.Alone (.regacqTry g d n) k t rest) (h16 : t.nb + n.toNat ≤ 16) (hf : ¬ s.Grants b t n.toNat) :
    exec (.regacqTry g d n) s = .next ((s.numbered.updThread k fun t => (t.setPred d.toNat false).next 4).endIssue rest) := by
  have hb' : s.numbered.block? t.bid = some b := hb
  show execRegacqTry g d n s = _
  refine inTurn_done rfl ha ?_ rfl
  rw [hb']
  dsimp only
  rw [if_neg (by omega), if_neg fun h => hf ((grants_iff s.numbered b t n.toNat).1 h), ha.key]

/-- Beyond 16 blocks each form traps. -/
theorem regacq_range {i : Instr} (hi : i ∈ [Instr.regacq g n, Instr.regacqTry g d n]) (ha : s.Alone i k t rest) (h16 : 16 < t.nb + n.toNat) :
    exec i s = .next ((s.numbered.takeTrap k t.pc t.pc { cause := 2, addr := 0, aux := 0 }).endIssue rest) := by
  have hb' : s.numbered.block? t.bid = some b := hb
  simp only [List.mem_cons, List.not_mem_nil, or_false] at hi
  obtain rfl | rfl := hi
  · show execRegacq g n s = _
    refine inTurn_raises (x := plainTrap .regRange) ha ?_
    rw [hb']
    exact if_pos h16
  · show execRegacqTry g d n s = _
    refine inTurn_raises (x := plainTrap .regRange) ha ?_
    rw [hb']
    exact if_pos h16

end

theorem regrel_performs (g : BitVec 3) (n : BitVec 4) : PerformsWhere (.regrel g n)
    (fun _ t => n.toNat + 1 ≤ t.nb ∧ t.wb < t.nb - n.toNat)
    fun _ t => ({ t with nb := t.nb - n.toNat, regs := t.regs.filter fun e => e.1 < 16 * (t.nb - n.toNat) } : Thread).next 4 :=
  eachTrap_runs (fun _ => rfl) fun _ _ ⟨hnb, hwb⟩ => if_neg (by
    simp only [Bool.or_eq_true, decide_eq_true_eq]
    omega)

theorem regrel_traps {g : BitVec 3} {n : BitVec 4} {s : State} {k : ThreadKey} {t : Thread} {rest : List IssueSet}
    (ha : s.Alone (.regrel g n) k t rest) (h : ¬ (n.toNat + 1 ≤ t.nb ∧ t.wb < t.nb - n.toNat)) :
    exec (.regrel g n) s = .next ((s.takeTrap k t.pc t.pc { cause := 2, addr := 0, aux := 0 }).endIssue rest) := by
  show execRegrel g n s = _
  exact eachTrap_raises (x := plainTrap .regRange) rfl ha (if_pos (by
    simp only [Bool.or_eq_true, decide_eq_true_eq]
    omega))

/-- A key that a table does not list reads as unlisted, whatever the order of its keys. -/
theorem get_of_not_listed (d : Nat → α) {u : Tab α} {k : Nat} (h : ∀ e ∈ u, e.1 ≠ k) : Tab.get d u k = d k := by
  induction u with
  | nil => rfl
  | cons e r ih =>
    rw [Tab.get, if_neg (h e (List.mem_cons_self ..)), ih fun e' he' => h e' (List.mem_cons_of_mem _ he'), ite_self]

/-- New registers read 0. -/
theorem Thread.grow_reads_zero (t : Thread) (n j : Nat) : Tab.get (fun _ => (0 : Word)) (t.grow n).regs (16 * t.nb + j) = 0 :=
  get_of_not_listed _ fun e he => by
    have hlt : e.1 < 16 * t.nb := of_decide_eq_true (List.mem_filter.1 he).2
    omega

end Sys2Proof.Machine

open Sys2Proof.Machine in
/-- Settles O14: a grant where no request queues on the lane and the blocks are free, REG_RANGE before it. -/
theorem registerBlocks : Obligations.RegisterBlocks := by
  refine ⟨fun g n d s k t b rest hb => ⟨?_, ?_, ?_, ?_, ?_⟩, fun g n => ⟨regrel_performs g n, ?_⟩,
    fun t n j => ⟨rfl, rfl, t.grow_reads_zero n j⟩⟩
  · exact fun ha h16 hf => regacq_granted hb ha h16 hf
  · exact fun ha h16 hf => regacq_queued hb ha h16 hf
  · exact fun ha h16 hf => regacqTry_granted hb ha h16 hf
  · exact fun ha h16 hf => regacqTry_refused hb ha h16 hf
  · exact fun i hi ha h16 => regacq_range hb hi ha h16
  · exact fun s k t rest ha h => regrel_traps ha h

namespace Sys2Proof.Machine

/-! `spawn` (R107, R217). -/

theorem Pool.recs_add (p : Pool) (now spawntime : Nat) (a : Arriver) (r : Word × Word) : (p.add now spawntime a r).recs = p.recs ++ [r] := by
  unfold Pool.add
  split
  · rename_i h
    rw [List.isEmpty_iff.1 h]
    rfl
  · rfl

/-- A core with a pool (R107). -/
def Core.putPool (c : Core) (n : Nat) (p : Pool) : Core := { c with pools := Tab.set (fun _ => Pool.reset) c.pools n p }

/-- The pool that takes a thread's record, with it. -/
def State.poolWith (s : State) (b : Block) (t : Thread) (l : Launch) (d a : Nat) : Pool :=
  ((s.core b.core).poolFor t.bid (t.addr a)).2.add s.clk l.record.spawntime.toNat (s.arriver t)
    (BitVec.ofNat 32 (t.reg d), BitVec.ofNat 32 (t.reg (d + 1)))

section

variable {s : State} {k : ThreadKey} {t : Thread} {b : Block} {l : Launch} {rest : List IssueSet}
variable (hb : s.block? t.bid = some b) (hl : s.launch? b.lid = some l)
include hb hl

theorem offer_eq (d a : Nat) (hp : (s.core b.core).poolTakes t.bid (t.addr a) = true) : s.offer t d a =
    some ((s.setCore b.core ((s.core b.core).putPool ((s.core b.core).poolFor t.bid (t.addr a)).1 (s.poolWith b t l d a))).updThread t.key
      fun t => ({ t with stalled := none } : Thread).next 4) := by
  have hlo : s.launchOf t.bid = some l := by
    unfold State.launchOf
    rw [hb]
    exact hl
  unfold State.offer
  dsimp only
  rw [hb, hlo]
  dsimp only
  rw [hp]
  rfl

theorem spawn_offers {g : BitVec 3} {d a : BitVec 7} (ha : s.Alone (.spawn g d a) k t rest) (h4 : (t.addr a.toNat).toNat % 4 = 0)
    (hp : (s.core b.core).poolTakes t.bid (t.addr a.toNat) = true) : exec (.spawn g d a) s =
    .next (((s.numbered.setCore b.core ((s.core b.core).putPool ((s.core b.core).poolFor t.bid (t.addr a.toNat)).1
      (s.numbered.poolWith b t l d.toNat a.toNat))).updThread k fun t => ({ t with stalled := none } : Thread).next 4).endIssue rest) := by
  show execSpawn g d a s = _
  refine inTurn_done rfl ha ?_ rfl
  rw [if_neg (not_not.2 h4), offer_eq (s := s.numbered) hb hl d.toNat a.toNat hp, ha.key]
  rfl

end

theorem spawn_misaligned {g : BitVec 3} {d a : BitVec 7} {s : State} {k : ThreadKey} {t : Thread} {rest : List IssueSet}
    (ha : s.Alone (.spawn g d a) k t rest) (h4 : (t.addr a.toNat).toNat % 4 ≠ 0) : exec (.spawn g d a) s =
      .next ((s.numbered.takeTrap k t.pc t.pc { cause := 3, addr := t.addr a.toNat, aux := 0 }).endIssue rest) := by
  show execSpawn g d a s = _
  exact inTurn_raises (x := addrTrap .misaligned (t.addr a.toNat)) ha (if_pos h4)

/-! `cfetch` (R109). -/

theorem mayName_eq_false_iff (l : Launch) (n : Nat) : l.mayName n = false ↔ n = 63 ∧ l.record.handler ≠ 0 := by
  simp [Launch.mayName]

theorem mayName_iff (l : Launch) (n : Nat) : l.mayName n = true ↔ ¬ (n = 63 ∧ l.record.handler ≠ 0) := by
  rw [← mayName_eq_false_iff, Bool.not_eq_false]

/-- The segment that a fetch starts for a block without a twin. -/
def State.fetchSeg (s : State) (t : Thread) (l : Launch) (granule : Nat) (src : Target) : Seg :=
  { granule, tag := l.tag, landed := false, again := false, lid := l.lid, src, id := s.nextId, after := some (s.arriver t), reader := none }

/-- A core with a segment (R109). -/
def Core.putSeg (c : Core) (n : Nat) (x : Seg) : Core := { c with segs := Tab.set (fun _ => Seg.empty) c.segs n x }

/-- What a fetch makes of its core: it takes over the granule's segment, or starts one. -/
def State.fetched (s : State) (b : Block) (t : Thread) (l : Launch) (n granule : Nat) (src : Target) : State :=
  let c := s.core b.core
  match c.segFor l granule with
  | some (k, x) => if x.reader.isNone then s else s.setCore b.core (c.putSeg k { x with reader := none })
  | none => s.setCore b.core (c.putSeg n (s.fetchSeg t l granule src))

section

variable {s : State} {b : Block} {t : Thread} {l : Launch} {n granule k : Nat} {src : Target} {x : Seg}

theorem fetched_present (hx : (s.core b.core).segFor l granule = some (k, x)) (hr : x.reader = none) : s.fetched b t l n granule src = s := by
  unfold State.fetched
  dsimp only
  rw [hx]
  dsimp only
  rw [hr]
  rfl

theorem fetched_awaited (hx : (s.core b.core).segFor l granule = some (k, x)) (hr : x.reader ≠ none) :
    s.fetched b t l n granule src = s.setCore b.core ((s.core b.core).putSeg k { x with reader := none }) := by
  unfold State.fetched
  dsimp only
  rw [hx]
  dsimp only
  rw [if_neg fun hn => hr (Option.isNone_iff_eq_none.1 hn)]

theorem fetched_absent (hx : (s.core b.core).segFor l granule = none) :
    s.fetched b t l n granule src = s.setCore b.core ((s.core b.core).putSeg n (s.fetchSeg t l granule src)) := by
  unfold State.fetched
  dsimp only
  rw [hx]

end

theorem fetched_blocks (s : State) (b : Block) (t : Thread) (l : Launch) (n granule : Nat) (src : Target) :
    (s.fetched b t l n granule src).blocks = s.blocks := by
  unfold State.fetched
  dsimp only
  split
  · split <;> rfl
  · rfl

section

variable {g : BitVec 3} {n : BitVec 6} {a : BitVec 7} {s : State} {k : ThreadKey} {t : Thread} {b : Block} {l : Launch}
  {rest : List IssueSet} (ha : s.Alone (.cfetch g n a) k t rest)
include ha

theorem cfetch_misaligned (h : (t.addr a.toNat).toNat % 4096 ≠ 0) : exec (.cfetch g n a) s =
    .next ((s.numbered.takeTrap k t.pc t.pc { cause := 3, addr := t.addr a.toNat, aux := 0 }).endIssue rest) := by
  show execCfetch g n a s = _
  exact inTurn_raises (x := addrTrap .misaligned (t.addr a.toNat)) ha (if_pos h)

variable (hb : s.block? t.bid = some b) (hl : s.launch? b.lid = some l) (h : (t.addr a.toNat).toNat % 4096 = 0)
include hb hl h

theorem cfetch_denied (hn : n.toNat = 63 ∧ l.record.handler ≠ 0) : exec (.cfetch g n a) s =
    .next ((s.numbered.takeTrap k t.pc t.pc { cause := 6, addr := t.addr a.toNat, aux := 0 }).endIssue rest) := by
  have hb' : s.numbered.block? t.bid = some b := hb
  have hl' : s.numbered.launch? b.lid = some l := hl
  show execCfetch g n a s = _
  refine inTurn_raises (x := addrTrap .accessDenied (t.addr a.toNat)) ha ?_
  dsimp only
  rw [if_neg (not_not.2 h), hb']
  dsimp only
  rw [hl']
  dsimp only
  rw [(mayName_eq_false_iff l n.toNat).2 hn]
  rfl

theorem cfetch_ok {src : Target} (hn : ¬ (n.toNat = 63 ∧ l.record.handler ≠ 0))
    (hr : s.resolve (s.envOf t.bid) .cfetch (t.addr a.toNat) 4096 = .ok src) : exec (.cfetch g n a) s =
    .next (((s.numbered.fetched b t l n.toNat ((t.addr a.toNat).toNat / 4096) src).updThread k fun t => t.next 4).endIssue rest) := by
  have hb' : s.numbered.block? t.bid = some b := hb
  have hl' : s.numbered.launch? b.lid = some l := hl
  have hr' : s.numbered.resolve (s.numbered.envOf t.bid) .cfetch (t.addr a.toNat) 4096 = .ok src := hr
  have hsolo : (b.role == Role.trail) = false := by
    rw [ha.solo b hb]
    rfl
  show execCfetch g n a s = _
  refine inTurn_done rfl ha ?_ (fetched_blocks s.numbered ..)
  dsimp only
  rw [if_neg (not_not.2 h), hb']
  dsimp only
  rw [hl']
  dsimp only
  rw [(mayName_iff l n.toNat).2 hn, hr', hsolo, ha.key]
  simp only [Bool.or_false]
  rfl

end

/-! Special values (R27). -/

theorem updFirst_congr {p : α → Bool} {f g : α → α} (h : ∀ x, p x = true → f x = g x) (u : List α) : updFirst p f u = updFirst p g u := by
  induction u with
  | nil => rfl
  | cons x r ih =>
    unfold updFirst
    split
    · rename_i hp
      rw [h x hp]
    · rw [ih]

/-- An update concerns threads of its key alone. -/
theorem updThread_congr {s : State} {k : ThreadKey} {f g : Thread → Thread} (h : ∀ u, u.key = k → f u = g u) :
    s.updThread k f = s.updThread k g := by
  unfold State.updThread
  rw [updFirst_congr fun u hu => h u (beq_iff_eq.1 hu)]

theorem bid_of_key {t u : Thread} (h : u.key = t.key) : u.bid = t.bid := congrArg ThreadKey.bid h

section

variable {s : State} {k : ThreadKey} {t : Thread} {b : Block} {rest : List IssueSet}

theorem movSv_writes {g : BitVec 3} {d a : BitVec 7} (ha : s.Alone (.movSv g d a) k t rest) : exec (.movSv g d a) s =
    .next ((s.numbered.updThread k fun u =>
      (if a.toNat = 8 then u.setPair d.toNat (s.special t a.toNat) else u.setReg d.toNat (s.special t a.toNat)).next 4).endIssue rest) := by
  show execMovSv g d a s = _
  refine inTurn_done rfl ha ?_ rfl
  rw [ha.key]
  rfl

theorem special_vdn (s : State) (t : Thread) : s.special t 7 = (s.ownVdn (s.envOf t.bid).f).getD 0xFFFFFFFF := rfl

/-- The special values that a thread and its block hold. -/
theorem special_of_block (hb : s.block? t.bid = some b) {c v : Nat}
    (h : (c, v) ∈ [(0, t.tid), (1, t.lane), (2, t.grp), (3, b.blk), (4, b.core), (5, b.core / 4), (6, b.core / 48)]) :
    s.special t c = v ∧ c ≠ 8 := by
  simp only [List.mem_cons, List.not_mem_nil, or_false, Prod.mk.injEq] at h
  unfold State.special
  rw [hb]
  obtain ⟨rfl, rfl⟩ | ⟨rfl, rfl⟩ | ⟨rfl, rfl⟩ | ⟨rfl, rfl⟩ | ⟨rfl, rfl⟩ | ⟨rfl, rfl⟩ | ⟨rfl, rfl⟩ := h
  all_goals exact ⟨rfl, by decide⟩

end

end Sys2Proof.Machine

open Sys2Proof.Machine in
/-- Settles O15: `spawn` by alignment, `cfetch` in the order of its checks and then by the granule's segment, `mov.sv` by the code. -/
theorem spawnFetchSpecial : Obligations.SpawnFetchSpecial := by
  refine ⟨fun g d a s k t b l rest ha hb hl => ⟨fun h4 hp => ⟨spawn_offers hb hl ha h4 hp, Pool.recs_add ..⟩, spawn_misaligned ha⟩,
    fun g n a s k t b l rest ha hb hl => ⟨cfetch_misaligned ha, cfetch_denied ha hb hl, fun src h hn hr => ⟨fun k' x hx => ⟨?_, ?_⟩, ?_⟩⟩,
    fun g d a s k t b rest ha hb => ⟨fun c v hm hc => ?_, fun h7 => ?_, fun h8 => ?_⟩⟩
  · exact fun hnone => (cfetch_ok ha hb hl h hn hr).trans (by rw [fetched_present (s := s.numbered) hx hnone])
  · exact fun hwait => (cfetch_ok ha hb hl h hn hr).trans (by rw [fetched_awaited (s := s.numbered) hx hwait]; rfl)
  · intro hno
    have hx := Option.isNone_iff_eq_none.1 (Option.isSome_eq_false_iff.1 hno)
    exact (cfetch_ok ha hb hl h hn hr).trans (by rw [fetched_absent (s := s.numbered) hx]; rfl)
  · obtain ⟨hv, h8⟩ := special_of_block hb hm
    subst hc
    rw [movSv_writes ha, hv]
    simp only [if_neg h8]
  · rw [movSv_writes ha, h7, special_vdn, updThread_congr fun u hu => ?_]
    rw [if_neg (by decide), bid_of_key (hu.trans ha.key.symm)]
  · rw [movSv_writes ha, h8]
    simp only [if_true]
    rfl

end

/-! # Floating-point arithmetic and group collectives (R114 to R123, R133 to R136)

A floating-point instruction is one function on each thread that writes a code and records its conditions (`Thread.setFp`). A collective gives
each participant a function of the participants and the thread itself (`State.gather`). -/

section

namespace Sys2Proof.Machine

/-! Writing a result with its conditions (R61). -/

section

variable {i : Instr} {d : Nat}

theorem setFp_performs {r : Thread → Nat × Conds} (he : ∀ s, exec i s = s.each i fun t => t.setFp d (r t)) (hl : i.len = 4) :
    Performs i fun t => (t.setFp d (r t)).next 4 :=
  each_runs he fun t => by rw [hl]

theorem setFpPred_performs {b : Thread → Bool} {c : Thread → Conds} (he : ∀ s, exec i s = s.each i fun t => t.setFpPred d (b t) (c t))
    (hl : i.len = 4) : Performs i fun t => ((t.setPred d (b t)).raise (c t)).next 4 :=
  each_runs he fun t => by rw [hl]; rfl

/-- A rounded result records its conditions without NX where NV is raised. -/
theorem fpTo_performs {r : Thread → Nat × Conds} (he : ∀ s, exec i s = s.each i fun t => t.setFp d ((r t).1, settle (r t).2))
    (hl : i.len = 4) : Performs i fun t => (fpTo d (r t) t).next 4 :=
  setFp_performs he hl

end

end Sys2Proof.Machine

open Sys2Proof.Machine in
/-- Settles O6: each function rounds its exact result once, and the manual's examples evaluate. -/
theorem floatArithmetic : Obligations.FloatArithmetic := by
  refine ⟨fun g d a b => ⟨?add, ?sub, ?mul, ?fma⟩, by decide⟩
  case add | sub | mul | fma => exact fpTo_performs (fun _ => rfl) rfl

namespace Sys2Proof.Machine

/-! The order of exact values (R115, R116). -/

/-- Of two values, at most one of `<`, `=` and `>` holds. -/
theorem Val.lt_excludes {u v : Val} (h : u.lt v = true) : u.eq v = false ∧ v.lt u = false := by
  cases u with
  | nan i => cases h
  | inf a => cases v with
    | nan i => cases h
    | inf b =>
      obtain ⟨rfl, hb⟩ := Bool.and_eq_true_iff.1 h
      obtain rfl := Bool.eq_false_of_not_eq_true' hb
      exact ⟨rfl, rfl⟩
    | num nb mb eb =>
      obtain rfl : a = true := h
      exact ⟨rfl, rfl⟩
  | num na ma ea => cases v with
    | nan i => cases h
    | inf b => exact ⟨rfl, Bool.eq_false_of_not_eq_true' h⟩
    | num nb mb eb =>
      simp only [Val.lt, Val.eq, min_comm eb ea, decide_eq_true_eq, decide_eq_false_iff_not, beq_eq_false_iff_ne] at h ⊢
      omega

/-! Minimum and maximum numbers (R115). -/

section

variable {f : Fmt} {x y : Nat} (m : Bool)

theorem fminmaxC_of_lt (hx : (f.decode x).isNan = false) (hy : (f.decode y).isNan = false) (h : (f.decode x).lt (f.decode y) = true) :
    (fminmaxC m f x y).1 = if m then y else x := by
  obtain ⟨heq, hgt⟩ := Val.lt_excludes h
  unfold fminmaxC
  cases m <;> simp [hx, hy, h, heq, hgt]

/-- One NaN gives way to the other operand. -/
theorem fminmaxC_of_nan_left (hx : (f.decode x).isNan = true) (hy : (f.decode y).isNan = false) : (fminmaxC m f x y).1 = y := by
  simp [fminmaxC, hx, hy]

theorem fminmaxC_of_nan_right (hx : (f.decode x).isNan = false) (hy : (f.decode y).isNan = true) : (fminmaxC m f x y).1 = x := by
  simp [fminmaxC, hx, hy]

theorem fminmaxC_of_nans (hx : (f.decode x).isNan = true) (hy : (f.decode y).isNan = true) : (fminmaxC m f x y).1 = f.nan := by
  simp [fminmaxC, hx, hy]

end

end Sys2Proof.Machine

open Sys2Proof.Machine in
/-- Settles O7: the order of exact values is asymmetric, and one NaN gives way to the other operand. -/
theorem floatMinMaxCompareSign : Obligations.FloatMinMaxCompareSign := by
  refine ⟨fun g p d a b => ⟨?min, ?max, ?eq, ?lt, ?le, ?un, ?abs, ?neg⟩, fun x y _ _ => ⟨?_, ?_, ?_, ?_, rfl, rfl⟩, by decide⟩
  case min | max => exact setFp_performs (fun _ => rfl) rfl
  case eq | lt | le | un => exact setFpPred_performs (fun _ => rfl) rfl
  case abs | neg => exact setReg_performs (fun _ => rfl) rfl fun t => rfl
  · exact fun hx hy h => ⟨fminmaxC_of_lt false hx hy h, fminmaxC_of_lt true hx hy h⟩
  · exact fun hx hy => ⟨fminmaxC_of_nan_left false hx hy, fminmaxC_of_nan_left true hx hy⟩
  · exact fun hx hy => ⟨fminmaxC_of_nan_right false hx hy, fminmaxC_of_nan_right true hx hy⟩
  · exact fun hx hy => ⟨fminmaxC_of_nans false hx hy, fminmaxC_of_nans true hx hy⟩

open Sys2Proof.Machine in
/-- Settles O8: both elements follow the scalar rule, and `fdot2` rounds the exact sum of its three terms once. -/
theorem packedArithmetic : Obligations.PackedArithmetic := by
  refine ⟨fun g d a b => ⟨?_, ?_, ?_, ?_, ?_, ?_, ?_, ?_, ?_, ?_, ?_, ?_, ?dotF16, ?dotBf16⟩, fun f op x y => rfl, fun x => ?elements⟩
  case dotF16 | dotBf16 => exact fpTo_performs (fun _ => rfl) rfl
  case elements => simp [elem, Sys2Proof.bits, Fmt.sign, Fmt.e, Fmt.m]
  all_goals exact setFp_performs (fun _ => rfl) rfl

open Sys2Proof.Machine in
/-- Settles O9: each function writes its code and conditions, and the table of R123 and the exact results evaluate. -/
theorem specialFunctions : Obligations.SpecialFunctions := by
  refine ⟨fun g d a => ⟨?_, ?_, ?_, ?_, ?_, ?_, ?_⟩, by decide, by decide, by decide, by decide, by decide, by decide⟩
  all_goals exact setFp_performs (fun _ => rfl) rfl

namespace Sys2Proof.Machine

/-! Collectives that compute over the participants (R129). -/

/-- A computing collective that gives each participant its result does nothing else. -/
theorem gather_gathers {i : Instr} {f f' : List Thread → Thread → Thread} (he : ∀ s, exec i s = s.gather i f) (hc : i.counter = none)
    (hf : ∀ part t, f part t = f' part t) : GathersTo i f' := by
  intro s p rest bid grp h
  have hsolo : s.Solo bid := by
    obtain ⟨-, -, -, -, hs, -⟩ := h
    exact hs
  rw [he, State.gather, together_ok (s2 := s.numbered.collect (s.parts i p bid grp) (f (s.parts i p bid grp))) h rfl hsolo,
    counted_of_none hc, funext (hf _)]

/-- A participant reads its source's A, or its own where no participant stands at the index (R133). -/
theorem xlane_eq (part : List Thread) (d a : Nat) (src : Int) (t : Thread) : xlane part d a src t =
    t.setReg d (((part.find? fun u => decide (((u.lane % 32 : Nat) : Int) = src)).getD t).reg a) := by
  unfold xlane atGl Thread.gl
  split
  · rename_i u hu
    rw [hu, Option.getD_some]
  · rename_i hu
    rw [hu, Option.getD_none]

/-! The best value of a reduction (R135). -/

/-- The one of two values that is less under a measure, the first where they are equal. -/
def lesser (f : Nat → Int) (x y : Nat) : Nat := if decide (f x ≤ f y) then x else y

theorem lesser_eq_or (f : Nat → Int) (x y : Nat) : lesser f x y = x ∨ lesser f x y = y := by
  unfold lesser
  split <;> simp

theorem lesser_le (f : Nat → Int) (x y : Nat) : f (lesser f x y) ≤ f x ∧ f (lesser f x y) ≤ f y := by
  unfold lesser
  split
  · rename_i h
    exact ⟨le_refl _, of_decide_eq_true h⟩
  · rename_i h
    have hlt : f y < f x := by simpa using h
    exact ⟨hlt.le, le_refl _⟩

theorem best_cons (u : Thread) (part : List Thread) (a : Nat) (f : Nat → Int) :
    best (u :: part) a (fun x y => decide (f x ≤ f y)) = (part.map fun u => u.reg a).foldl (lesser f) (u.reg a) := rfl

/-- The least of the values met is one of them. -/
theorem foldl_lesser_mem (f : Nat → Int) (l : List Nat) (x : Nat) : l.foldl (lesser f) x ∈ x :: l := by
  induction l generalizing x with
  | nil => exact List.mem_singleton_self x
  | cons y l ih =>
    rw [List.foldl_cons]
    rcases List.mem_cons.1 (ih (lesser f x y)) with h | h
    · rw [h]
      rcases lesser_eq_or f x y with h | h <;> simp [h]
    · exact List.mem_cons_of_mem _ (List.mem_cons_of_mem _ h)

/-- None of the values met is less. -/
theorem foldl_lesser_le (f : Nat → Int) (l : List Nat) (x : Nat) : ∀ y ∈ x :: l, f (l.foldl (lesser f) x) ≤ f y := by
  induction l generalizing x with
  | nil => simp
  | cons z l ih =>
    obtain ⟨hx, hz⟩ := lesser_le f x z
    have hfold := ih (lesser f x z)
    have hhead := hfold _ (List.mem_cons_self ..)
    intro y hy
    rw [List.foldl_cons]
    rcases List.mem_cons.1 hy with rfl | hy
    · exact hhead.trans hx
    · rcases List.mem_cons.1 hy with rfl | hy
      · exact hhead.trans hz
      · exact hfold y (List.mem_cons_of_mem _ hy)

/-- A participant holds the best value, and none beats it. -/
theorem best_spec {part : List Thread} (hp : part ≠ []) (a : Nat) (f : Nat → Int) :
    (∃ u ∈ part, u.reg a = best part a fun x y => decide (f x ≤ f y)) ∧
    ∀ u ∈ part, f (best part a fun x y => decide (f x ≤ f y)) ≤ f (u.reg a) := by
  obtain ⟨t, r, rfl⟩ := List.exists_cons_of_ne_nil hp
  rw [best_cons]
  exact ⟨List.mem_map.1 (foldl_lesser_mem f (r.map fun u => u.reg a) (t.reg a)), fun u hu =>
    foldl_lesser_le f _ _ _ (List.mem_map_of_mem (f := fun u => u.reg a) hu)⟩

end Sys2Proof.Machine

open Sys2Proof.Machine in
/-- Settles O16: each form reads at its own index. -/
theorem crossLane : Obligations.CrossLane := by
  intro g d a b from_
  refine ⟨?_, ?_, ?_, ?_⟩
  all_goals exact gather_gathers (fun _ => rfl) rfl fun part t => xlane_eq part d.toNat a.toNat _ t

open Sys2Proof.Machine in
/-- Settles O17: each collective writes its function of the participants, sums modulo 2^32, and a reduction keeps the lesser of two values at
each step. -/
theorem votesAndReductions : Obligations.VotesAndReductions := by
  refine ⟨fun g p q d a => ⟨?voteAll, ?voteAny, ?ballot, ?matchV, ?elect, ?add, ?scan, ?minS, ?minZ, ?maxS, ?maxZ, ?fadd⟩,
    fun part a f hp => best_spec hp a f⟩
  case add | scan => exact gather_gathers (fun _ => rfl) rfl fun part t => t.setReg_congr d.toNat (Nat.mod_mod _ _).symm
  all_goals exact gather_gathers (fun _ => rfl) rfl fun part t => rfl

end

/-! # What the homes change (R235 to R246, R251, R403)

Caches and homes serve an access without touching anything but memory, its copies and their counters; memory itself changes only by tracking
bits, by a poisoned line that leaves Mere, and by the bytes of a write. -/

section

namespace Sys2Proof.Machine

/-- No session tracks a function's writes, and no line's check bits fail (R403, R433). -/
def State.Quiet (s : State) : Prop := (∀ f, f < 8 → (s.session f).tracking = false) ∧ s.poisoned = []

/-- `u` is `s` but for memory, its copies and their counters; where nothing is tracked or poisoned memory is the same. -/
structure Serves (s u : State) : Prop where
  frame : u = { s with mem := u.mem, hbm := u.hbm, l1 := u.l1, mere := u.mere, dies := u.dies, cores := u.cores, meters := u.meters,
                       paces := u.paces }
  mem : s.Quiet → u.mem = s.mem

namespace Serves

variable {s u v : State}

theorem refl (s : State) : Serves s s := ⟨rfl, fun _ => rfl⟩

theorem quiet (h : Serves s u) (q : s.Quiet) : u.Quiet := by
  rw [h.frame]
  exact q

theorem trans (h : Serves s u) (k : Serves u v) : Serves s v where
  frame := by
    rw [k.frame, h.frame]
  mem := fun q => (k.mem (h.quiet q)).trans (h.mem q)

theorem foldl {f : State → α → State} (h : ∀ s x, Serves s (f s x)) (l : List α) (s : State) : Serves s (l.foldl f s) := by
  induction l generalizing s with
  | nil => exact refl s
  | cons x r ih => exact (h s x).trans (ih (f s x))

theorem ite {c : Prop} [Decidable c] (h : Serves s u) (k : Serves s v) : Serves s (if c then u else v) := by
  split
  · exact h
  · exact k

theorem blocks (h : Serves s u) : u.blocks = s.blocks := by
  rw [h.frame]

theorem locks (h : Serves s u) : u.locks = s.locks := by
  rw [h.frame]

end Serves

/-! Counters. -/

theorem addMeter_serves (s : State) (owner m n : Nat) : Serves s (s.addMeter owner m n) := ⟨rfl, fun _ => rfl⟩

theorem meter_serves (s : State) (f die m n : Nat) : Serves s (s.meter f die m n) := by
  unfold State.meter
  exact .trans (.ite (addMeter_serves ..) (.refl s)) (addMeter_serves ..)

theorem setDie_serves (s : State) (d : Nat) (x : Die) : Serves s (s.setDie d x) := ⟨rfl, fun _ => rfl⟩

theorem setCore_serves (s : State) (c : Nat) (x : Core) : Serves s (s.setCore c x) := ⟨rfl, fun _ => rfl⟩

theorem dieEvent_serves (s : State) (d src n : Nat) : Serves s (s.dieEvent d src n) := by
  unfold State.dieEvent
  exact .ite (.refl s) (setDie_serves ..)

theorem coreEvent_serves (s : State) (c src n : Nat) : Serves s (s.coreEvent c src n) := by
  unfold State.coreEvent
  exact .ite (.refl s) (setCore_serves ..)

theorem carried_serves (s : State) (toHome : Bool) (core pa n : Nat) : Serves s (s.carried toHome core pa n) := by
  unfold State.carried
  exact .ite (.refl s) (dieEvent_serves ..)

theorem pace_serves (s : State) (f pa n : Nat) : Serves s (s.pace f pa n) := by
  unfold State.pace
  exact .ite ⟨rfl, fun _ => rfl⟩ (.refl s)

/-! Mere and HBM. -/

theorem hbmDone_serves (s : State) (line : Nat) : Serves s (s.hbmDone line) := ⟨rfl, fun _ => rfl⟩

theorem keepHbm_serves (s : State) (line : Nat) : Serves s (s.keepHbm line) := by
  unfold State.keepHbm
  exact .ite (.refl s) ⟨rfl, fun _ => rfl⟩

theorem dropMere_serves (s : State) (l : List MereLine) : Serves s { s with mere := l } := ⟨rfl, fun _ => rfl⟩

theorem writeBack_serves (s : State) (die f line : Nat) : Serves s (((s.dieEvent die 35 128).meter f die 7 128).hbmDone line) :=
  ((dieEvent_serves ..).trans (meter_serves ..)).trans (hbmDone_serves ..)

theorem mereOut_serves (s : State) (m : MereLine) : Serves s (s.mereOut m) := by
  unfold State.mereOut
  refine .trans ?_ (dropMere_serves _ _)
  refine .ite (.refl s) ?_
  split
  · rename_i hp
    refine ⟨rfl, fun ⟨_, hq⟩ => ?_⟩
    rw [hq] at hp
    cases hp
  · exact writeBack_serves ..

theorem mereFill_serves (s : State) (f tag line : Nat) (write : Bool) : Serves s (s.mereFill f tag line write) := by
  unfold State.mereFill
  dsimp only
  split
  · exact .trans (.ite (keepHbm_serves ..) (.refl s)) (dropMere_serves _ _)
  · exact .trans (.ite ((mereOut_serves ..).trans (keepHbm_serves ..)) (mereOut_serves ..)) (dropMere_serves _ _)
  · exact .ite (writeBack_serves ..) (.refl s)

theorem askDie_serves (s : State) (die : Nat) : Serves s (s.askDie die) := setDie_serves ..

theorem mereTouch_serves (s : State) (f tag line n : Nat) (write : Bool) : Serves s (s.mereTouch f tag line n write) := by
  have hcount (s : State) (die : Nat) (c : Bool) : Serves s (if c then s.dieEvent die 32 1 else
      ((s.dieEvent die 33 1).meter f die 6 128).dieEvent die 34 128) :=
    .ite (dieEvent_serves ..) (((dieEvent_serves ..).trans (meter_serves ..)).trans (dieEvent_serves ..))
  unfold State.mereTouch
  dsimp only
  refine .trans (((askDie_serves ..).trans (meter_serves ..)).trans (hcount ..)) (.ite (.refl _) ?_)
  cases s.mere.find? fun m => m.line == line with
  | none => exact mereFill_serves ..
  | some m => exact .ite ((mereOut_serves ..).trans (mereFill_serves ..)) (.trans (.ite (keepHbm_serves ..) (.refl _)) (dropMere_serves _ _))

/-! Tracking bits. -/

theorem foldl_of_fixed {f : β → α → β} {b : β} {l : List α} (h : ∀ x ∈ l, f b x = b) : l.foldl f b = b := by
  induction l with
  | nil => rfl
  | cons x r ih =>
    rw [List.foldl_cons, h x (List.mem_cons_self ..)]
    exact ih fun y hy => h y (List.mem_cons_of_mem _ hy)

theorem mark_of_quiet {s : State} (q : s.Quiet) (pa n : Nat) : s.mark pa n = s := by
  unfold State.mark
  refine foldl_of_fixed fun f hf => ?_
  rw [if_neg]
  rw [q.1 f (List.mem_range.1 hf)]
  exact Bool.false_ne_true

theorem foldl_mem {f : State → α → State} (h : ∀ s x, f s x = { s with mem := (f s x).mem }) (l : List α) (s : State) :
    l.foldl f s = { s with mem := (l.foldl f s).mem } := by
  induction l generalizing s with
  | nil => rfl
  | cons x r ih => rw [List.foldl_cons, ih, h]

theorem mark_frame (s : State) (pa n : Nat) : s.mark pa n = { s with mem := (s.mark pa n).mem } := by
  unfold State.mark
  refine foldl_mem (fun s f => ?_) _ s
  split
  · refine foldl_mem (fun s d => ?_) _ s
    refine foldl_mem (fun s g => ?_) _ s
    split <;> rfl
  · rfl

theorem mark_serves (s : State) (pa n : Nat) : Serves s (s.mark pa n) :=
  ⟨by rw [mark_frame], fun q => by rw [mark_of_quiet q]⟩

/-! Copies of a line. -/

theorem setL1_serves (s : State) (l : List L1Line) : Serves s { s with l1 := l } := ⟨rfl, fun _ => rfl⟩

theorem takeDirty_serves (s : State) (l : L1Line) : Serves s (s.takeDirty l) := by
  unfold State.takeDirty
  exact .ite (.refl s) (((mereTouch_serves ..).trans (carried_serves ..)).trans (mark_serves ..))

theorem probe_serves (s : State) (writer : Option Nat) (line : Nat) : Serves s (s.probe writer line) := by
  unfold State.probe
  exact .trans (.foldl takeDirty_serves _ s) (setL1_serves _ _)

theorem recall_serves (s : State) (line : Nat) : Serves s (s.recall line) := probe_serves ..

theorem downgrade_serves (s : State) (reader : Option Nat) (line : Nat) : Serves s (s.downgrade reader line) := by
  unfold State.downgrade
  exact .trans (.foldl takeDirty_serves _ s) (setL1_serves _ _)

theorem evictRegion_serves (s : State) (die region : Nat) : Serves s (s.evictRegion die region) := by
  unfold State.evictRegion
  exact ((Serves.foldl (fun s k => recall_serves s (4 * region + k)) _ s).trans (setDie_serves ..)).trans (dieEvent_serves ..)

theorem track_serves (s : State) (core line : Nat) : Serves s (s.track core line) := by
  unfold State.track
  refine .trans ?_ (setDie_serves ..)
  split
  · exact .ite (evictRegion_serves ..) (.refl s)
  · exact .refl s

theorem l1Drop_serves (s : State) (core line : Nat) : Serves s (s.l1Drop core line) := setL1_serves _ _

theorem l1Put_serves (s : State) (x : L1Line) : Serves s (s.l1Put x) := by
  have hmake (s : State) (o : Option L1Line) (n : Nat) : Serves s (match o with
      | some l => if 8 * (s.core x.core).l1k ≤ n then (s.takeDirty l).l1Drop l.core l.line else s
      | none => s) := by
    split
    · exact .ite ((takeDirty_serves ..).trans (l1Drop_serves ..)) (.refl s)
    · exact .refl s
  unfold State.l1Put
  exact (((l1Drop_serves s x.core x.line).trans (.ite (.refl _) (track_serves ..))).trans (hmake ..)).trans (setL1_serves _ _)

theorem fill_serves (s : State) (core f tag : Nat) (ty : BitVec 2) (pa : Nat) : Serves s (s.fill core f tag ty pa) := by
  have hread : Serves s (((s.downgrade (some core) (lineOf pa)).mereTouch f tag (lineOf pa) 128 false).carried false core pa 128) :=
    ((downgrade_serves ..).trans (mereTouch_serves ..)).trans (carried_serves ..)
  unfold State.fill
  refine hread.trans ?_
  dsimp only
  split
  · exact .trans (l1Put_serves ..) (.ite (.refl _) (mark_serves ..))
  · exact l1Put_serves ..
  · exact l1Put_serves ..
  · exact .refl _

theorem l1Store_serves (s : State) (core : Nat) (ty : BitVec 2) (pa n : Nat) : Serves s (s.l1Store core ty pa n) := by
  unfold State.l1Store
  dsimp only
  split
  · exact (probe_serves ..).trans (l1Put_serves ..)
  · split
    · exact (takeDirty_serves ..).trans (l1Drop_serves ..)
    · exact l1Drop_serves ..
  · exact .refl s

end Sys2Proof.Machine

end

/-! # Loads, stores and prefetches at their issue (R137 to R148) -/

section

namespace Sys2Proof.Machine

/-! One thread's issue of an instruction that counts (R84). -/

theorem State.Solo.of_blocks {s u : State} {bid : Nat} (h : s.Solo bid) (hb : u.blocks = s.blocks) : u.Solo bid := by
  unfold State.Solo State.block?
  rw [hb]
  exact h

section

variable {i : Instr} {s s2 : State} {k : ThreadKey} {t : Thread} {rest : List IssueSet} {f : Nat → State → Thread → TRes}

theorem inTurn_counts (ha : s.Alone i k t rest) (hf : f s.nextId s.numbered t = .ok s2) (hs : s2.blocks = s.blocks) :
    s.inTurn i f = .next ((s2.counted i t.bid t.grp s.nextId).endIssue rest) :=
  inTurn_ok ha hf (ha.solo.of_blocks hs)

end

/-! Addresses and traps of an access (R137, R139). -/

theorem mAddr_none (t : Thread) (a : Nat) (o : BitVec 4) (n : Nat) :
    mAddr t a none o n = t.addr a + BitVec.ofNat 64 (o.toNat * n) := by
  unfold mAddr mOff
  rw [← Int.natCast_mul, BitVec.ofInt_natCast]

theorem szSign_acq (z : BitVec 1) : szSign (2 + z.toNat) = 0 := by
  have h := z.isLt
  rcases (by omega : z.toNat = 0 ∨ z.toNat = 1) with h | h <;> rw [h] <;> rfl

/-! Loads (R141). -/

section

variable (d a z : Nat) (y : BitVec 2) (o : BitVec 4) (tok : Nat) (s : State) (t : Thread)

theorem ldOp_plain : ldOp none 4 d a z y o false tok s t = s.issueLoad t tok 4 {
    acc := .ld, ea := t.addr a + BitVec.ofNat 64 (o.toNat * szBytes z), al := szBytes z, n := szBytes z, sign := szSign z,
    dst := t.absRegs (dataOpd z d), ty := y, acq := false, kind := .ld } := by
  unfold ldOp
  dsimp only
  rw [mAddr_none]

/-- An acquire load has a word or a pair, which no sign extends (R144). -/
theorem ldOp_acquire (z : BitVec 1) : ldOp none 4 d a (2 + z.toNat) y o true tok s t = s.issueLoad t tok 4 {
    acc := .ld, ea := t.addr a + BitVec.ofNat 64 (o.toNat * szBytes (2 + z.toNat)), al := szBytes (2 + z.toNat), n := szBytes (2 + z.toNat),
    sign := 0, dst := t.absRegs (dataOpd (2 + z.toNat) d), ty := y, acq := true, kind := .ld } := by
  unfold ldOp
  dsimp only
  rw [mAddr_none, szSign_acq]

theorem ldCOp_eq : ldCOp none 4 d a z o tok s t = s.issueLoad t tok 4 {
    acc := .ldc, ea := t.addr a + BitVec.ofNat 64 (o.toNat * szBytes z), al := szBytes z, n := szBytes z, sign := szSign z,
    dst := t.absRegs (dataOpd z d), ty := 0, acq := false, kind := .ldc } := by
  unfold ldCOp
  dsimp only
  rw [mAddr_none]

end

/-- An access of a load in flight: `m` bytes from an offset. -/
def State.flight (s : State) (t : Thread) (r : LoadReq) (id off : Nat) (tgt : Target) (m : Nat) (dst : List Nat) : Load :=
  let l : Load := { id, tok := s.nextId, bid := t.bid, grp := t.grp, tid := t.tid, ea := r.ea + BitVec.ofNat 64 off, tgt, n := m,
                    signed := r.sign != 0, dst, ty := r.ty, acq := r.acq, kind := r.kind, home := false }
  { l with home := (s.group? t.bid t.grp).any fun g => g.updateAhead l }

section

variable {i : Instr} {s : State} {k : ThreadKey} {t : Thread} {rest : List IssueSet} {r : LoadReq} {f : Nat → State → Thread → TRes}
variable (ha : s.Alone i k t rest) (hf : f s.nextId s.numbered t = s.numbered.issueLoad t s.nextId 4 r)
include ha hf

theorem load_issues {tgt : Target} (hc : s.check (s.envOf t.bid) r.acc r.ea r.al r.n = .ok tgt) (hp : ∀ v x, tgt ≠ .peer v x) :
    s.inTurn i f = .next (((((halves16 tgt r.n).foldl (fun s' p => s'.addLoad t s.nextId r tgt p.1 p.2) s.numbered).updThread k
      fun u => (u.await r.dst none).next 4).counted i t.bid t.grp s.nextId).endIssue rest) := by
  refine inTurn_counts ha (hf.trans ((issueLoad_ok (s := s.numbered) hc hp).trans ?_)) ?_
  · rw [ha.key]
  · show State.blocks (List.foldl _ _ _) = _
    exact foldl_blocks (by exact fun _ _ => rfl) _ _

/-- One access of all its bytes. -/
theorem load_issues_whole {tgt : Target} (hc : s.check (s.envOf t.bid) r.acc r.ea r.al r.n = .ok tgt) (hp : ∀ v x, tgt ≠ .peer v x)
    (hh : ∀ x, tgt = .host x → r.n ≠ 16) : s.inTurn i f =
      .next (((({ s with nextId := s.nextId + 2, loads := s.loads ++ [s.flight t r (s.nextId + 1) 0 tgt r.n r.dst] } : State).updThread
        k fun t => (t.await r.dst none).next 4).counted i t.bid t.grp s.nextId).endIssue rest) := by
  rw [load_issues ha hf hc hp, halves16_whole hh]
  simp only [List.foldl_cons, List.foldl_nil, State.addLoad, if_pos, Target.offset_zero]
  rfl

/-- Two accesses of 8 bytes of host memory. -/
theorem load_issues_halves {x : Nat} (hc : s.check (s.envOf t.bid) r.acc r.ea r.al r.n = .ok (.host x)) (hn : r.n = 16) :
    s.inTurn i f =
      .next (((({ s with nextId := s.nextId + 3, loads := s.loads ++ [s.flight t r (s.nextId + 1) 0 (.host x) 8 (r.dst.take 2),
        s.flight t r (s.nextId + 2) 8 (.host (x + 8)) 8 ((r.dst.drop 2).take 2)] } : State).updThread
        k fun t => (t.await r.dst none).next 4).counted i t.bid t.grp s.nextId).endIssue rest) := by
  rw [load_issues ha hf hc nofun]
  simp only [halves16, hn, if_true, List.foldl_cons, List.foldl_nil, State.addLoad, List.append_assoc, List.cons_append, List.nil_append]
  rfl

/-- A load of a peer's memory sends its request. -/
theorem load_issues_peer {v ipa : Nat} {s2 : State} (hc : s.check (s.envOf t.bid) r.acc r.ea r.al r.n = .ok (.peer v ipa))
    (hr : s.numbered.requestFor t s.nextId v ipa r.ea r.peerOp r.dst r.sign none r.acq = some s2) (hs : s2.Solo t.bid) :
    s.inTurn i f = .next (((s2.updThread k fun t => (t.await r.dst none).next 4).counted i t.bid t.grp s.nextId).endIssue rest) := by
  have hc' : s.numbered.check (s.numbered.envOf t.bid) r.acc r.ea r.al r.n = .ok (.peer v ipa) := hc
  refine inTurn_ok ha (hf.trans ?_) hs
  unfold State.issueLoad
  rw [hc']
  dsimp only
  rw [hr, ha.key]

theorem load_traps {x : TrapInfo} (hc : s.check (s.envOf t.bid) r.acc r.ea r.al r.n = .error x) :
    s.inTurn i f = .next ((s.numbered.takeTrap k t.pc t.pc x.word).endIssue rest) := by
  have hc' : s.numbered.check (s.numbered.envOf t.bid) r.acc r.ea r.al r.n = .error x := hc
  refine inTurn_raises ha (hf.trans ?_)
  unfold State.issueLoad
  rw [hc']

end

end Sys2Proof.Machine

open Sys2Proof.Machine in
/-- Settles O18, by the target to which the check leads. -/
theorem loadsIssue : Obligations.LoadsIssue := by
  intro g d a z z1 y o s k t rest i r n ea hm ha flight
  obtain ⟨f, he, hf⟩ : ∃ f : Nat → State → Thread → TRes, exec i s = s.inTurn i f ∧
      f s.nextId s.numbered t = s.numbered.issueLoad t s.nextId 4 r := by
    simp only [List.mem_cons, List.not_mem_nil, or_false, Prod.mk.injEq] at hm
    obtain ⟨rfl, rfl⟩ | ⟨rfl, rfl⟩ | ⟨rfl, rfl⟩ | ⟨rfl, rfl⟩ := hm
    case inl => exact ⟨_, rfl, ldOp_plain ..⟩
    case inr.inl => exact ⟨_, rfl, ldOp_acquire ..⟩
    case inr.inr.inl => exact ⟨_, rfl, ldCOp_eq ..⟩
    case inr.inr.inr =>
      refine ⟨_, (rfl : execLstat g d a s = _), ?_⟩
      rfl
  rw [he]
  exact ⟨fun tgt hc hp hh => load_issues_whole ha hf hc hp hh, fun x hc hn => load_issues_halves ha hf hc hn,
    fun v ipa s2 hc hr hs => load_issues_peer ha hf hc hr hs, fun x hc => load_traps ha hf hc⟩

namespace Sys2Proof.Machine

/-! Stores (R141, R148). -/

section

variable {i : Instr} {s : State} {k : ThreadKey} {t : Thread} {rest : List IssueSet} {f : Nat → State → Thread → TRes} {ea : VAddr} {n x : Nat}
  {ty : BitVec 2} {rel : Bool}
variable (ha : s.Alone i k t rest) (hf : f s.nextId s.numbered t = s.numbered.issueStore t s.nextId 4 ea n ty rel x)
include ha hf

theorem store_issues {tgt : Target} (hc : s.check (s.envOf t.bid) .st ea n n = .ok tgt) :
    s.inTurn i f = .next (((((halves16 tgt n).foldl (fun s' p => s'.enqueue t s.nextId rel (ea + BitVec.ofNat 64 p.1) (tgt.offset p.1) ty
      (.store (leBytes (x / 2 ^ (8 * p.1)) p.2))) s.numbered).updThread k fun u => u.next 4).counted i t.bid t.grp s.nextId).endIssue rest) := by
  refine inTurn_counts ha (hf.trans ((issueStore_ok (s := s.numbered) hc ty rel x).trans ?_)) ?_
  · rw [ha.key]
  · show State.blocks (List.foldl _ _ _) = _
    exact foldl_blocks (by exact fun _ _ => rfl) _ _

theorem store_traps {e : TrapInfo} (hc : s.check (s.envOf t.bid) .st ea n n = .error e) :
    s.inTurn i f = .next ((s.numbered.takeTrap k t.pc t.pc e.word).endIssue rest) := by
  have hc' : s.numbered.check (s.numbered.envOf t.bid) .st ea n n = .error e := hc
  refine inTurn_raises ha (hf.trans ?_)
  unfold State.issueStore
  rw [hc']

end

/-- Where it fills, a prefetch of an aligned local line fills as the L1 needs (R146). -/
theorem prefOp_local {s : State} {t : Thread} {a : Nat} {y : BitVec 2} {o : BitVec 4} {pa : Nat} (hs : s.Solo t.bid)
    (hal : (mAddr t a none o 128).toNat % 128 = 0) (hr : s.resolve (s.envOf t.bid) .ld (mAddr t a none o 128) 1 = .ok (.loc pa)) :
    let e := s.envOf t.bid
    prefOp none 4 a y o s t = .ok ((if y = 3 ∨ (s.l1Find e.core (lineOf pa)).isSome ∨ s.blocked e.core false (.loc pa) then s
      else s.fill e.core e.f e.tag y pa).updThread t.key fun t => t.next 4) := by
  have hsolo : ((s.block? t.bid).any fun b => b.role == Role.trail) = false := by
    cases hb : s.block? t.bid with
    | none => rfl
    | some b => rw [Option.any_some, hs b hb]; rfl
  intro e
  unfold prefOp
  dsimp only
  rw [hr]
  dsimp only
  simp only [hsolo, hal, Bool.false_or, ne_eq, not_true_eq_false, decide_false, Bool.or_false, Bool.or_eq_true, decide_eq_true_eq, or_assoc]
  rfl

end Sys2Proof.Machine

open Sys2Proof.Machine in
/-- Settles O19: a store by the target to which its check leads, a prefetch by whether its line is local and aligned. -/
theorem storesIssue : Obligations.StoresIssue := by
  refine ⟨fun g d a z z1 y o s k t rest i c rel hm ha => ?_, fun g a y o s k t rest => ?_, fun g a y o s k t rest pa => ?_⟩
  · intro n ea x entry
    obtain ⟨f, he, hf⟩ : ∃ f : Nat → State → Thread → TRes, exec i s = s.inTurn i f ∧
        f s.nextId s.numbered t = s.numbered.issueStore t s.nextId 4 ea n y rel x := by
      have hop : stOp none 4 d.toNat a.toNat c y o rel s.nextId s.numbered t = s.numbered.issueStore t s.nextId 4 ea n y rel x := by
        rw [stOp, mAddr_none]
      simp only [List.mem_cons, List.not_mem_nil, or_false, Prod.mk.injEq] at hm
      obtain ⟨rfl, rfl, rfl⟩ | ⟨rfl, rfl, rfl⟩ := hm
      · exact ⟨_, rfl, hop⟩
      · exact ⟨_, rfl, hop⟩
    rw [he]
    refine ⟨fun tgt hc hh => ?_, fun h hc hn => ?_, fun e hc => store_traps ha hf hc⟩
    · rw [store_issues ha hf hc, halves16_whole hh]
      simp only [List.foldl_cons, List.foldl_nil, State.enqueue, Target.offset_zero, BitVec.add_zero, Nat.mul_zero, pow_zero, Nat.div_one]
      rfl
    · rw [store_issues ha hf hc]
      simp only [halves16, hn, if_true, List.foldl_cons, List.foldl_nil, BitVec.add_zero, Nat.mul_zero, pow_zero, Nat.div_one]
      rfl
  · intro ea ha hn
    have hf : prefOp none 4 a.toNat y o s.numbered t = .ok (s.numbered.updThread k fun u => u.next 4) := by
      rw [← ha.key]
      refine prefOp_silent (s := s.numbered) ?_
      rw [mAddr_none]
      exact hn
    exact inTurn_done (f := fun _ => prefOp none 4 a.toNat y o) rfl ha hf rfl
  · intro ea ha hal hr e
    have hf := prefOp_local (s := s.numbered) (y := y) ha.solo ((congrArg (fun x => BitVec.toNat x % 128) (mAddr_none t a.toNat o 128)).trans hal)
      ((congrArg (fun x => s.resolve (s.envOf t.bid) .ld x 1) (mAddr_none t a.toNat o 128)).trans hr)
    rw [ha.key] at hf
    refine inTurn_done (f := fun _ => prefOp none 4 a.toNat y o) rfl ha hf ?_
    exact (Serves.ite (.refl s.numbered) (fill_serves s.numbered ..)).blocks

end

/-! # Atomics and reductions (R149, R150) -/

section

namespace Sys2Proof.Machine

section

variable {i : Instr} {s : State} {k : ThreadKey} {t : Thread} {rest : List IssueSet} {f : Nat → State → Thread → TRes} {a : Nat}
  {op : AtomOp} {n x c : Nat} {dst : List Nat}
variable (he : exec i s = s.inTurn i f) (hf : f s.nextId s.numbered t = s.numbered.issueUpdate t s.nextId a op n x c dst)
  (ha : s.Alone i k t rest)
include he hf ha

theorem update_issues {tgt : Target} (hc : s.check (s.envOf t.bid) (if dst.isEmpty then .red else .atom) (t.addr a) n n = .ok tgt) :
    exec i s = .next (((((s.numbered.enqueue t s.nextId false (t.addr a) tgt 3 (.update op n x c dst)).updThread k
      fun t => (t.await dst none).next 4).counted i t.bid t.grp s.nextId).endIssue rest)) := by
  have hc' : s.numbered.check (s.numbered.envOf t.bid) (if dst.isEmpty then .red else .atom) (t.addr a) n n = .ok tgt := hc
  rw [he]
  refine inTurn_counts ha (hf.trans ?_) rfl
  unfold State.issueUpdate
  rw [hc', ha.key]

theorem update_traps {e : TrapInfo} (hc : s.check (s.envOf t.bid) (if dst.isEmpty then .red else .atom) (t.addr a) n n = .error e) :
    exec i s = .next ((s.numbered.takeTrap k t.pc t.pc e.word).endIssue rest) := by
  have hc' : s.numbered.check (s.numbered.envOf t.bid) (if dst.isEmpty then .red else .atom) (t.addr a) n n = .error e := hc
  rw [he]
  refine inTurn_raises ha (hf.trans ?_)
  unfold State.issueUpdate
  rw [hc']

end

end Sys2Proof.Machine

open Sys2Proof.Machine in
/-- Settles O20: each form is one update with its own operands, which enters the queue where its check lets it. -/
theorem atomicsIssue : Obligations.AtomicsIssue := by
  intro g d a b s k t rest i op n x c dst hm ha acc
  obtain ⟨f, he, hf⟩ : ∃ f : Nat → State → Thread → TRes, exec i s = s.inTurn i f ∧
      f s.nextId s.numbered t = s.numbered.issueUpdate t s.nextId a.toNat op n x c dst := by
    simp only [List.mem_cons, List.not_mem_nil, or_false, Prod.mk.injEq] at hm
    rcases hm with ⟨rfl, rfl, rfl, rfl, rfl, rfl⟩ | ⟨rfl, rfl, rfl, rfl, rfl, rfl⟩ | ⟨rfl, rfl, rfl, rfl, rfl, rfl⟩ |
      ⟨rfl, rfl, rfl, rfl, rfl, rfl⟩ | ⟨rfl, rfl, rfl, rfl, rfl, rfl⟩ | ⟨rfl, rfl, rfl, rfl, rfl, rfl⟩ | ⟨rfl, rfl, rfl, rfl, rfl, rfl⟩ |
      ⟨rfl, rfl, rfl, rfl, rfl, rfl⟩ | ⟨rfl, rfl, rfl, rfl, rfl, rfl⟩ | ⟨rfl, rfl, rfl, rfl, rfl, rfl⟩ | ⟨rfl, rfl, rfl, rfl, rfl, rfl⟩ |
      ⟨rfl, rfl, rfl, rfl, rfl, rfl⟩ | ⟨rfl, rfl, rfl, rfl, rfl, rfl⟩ | ⟨rfl, rfl, rfl, rfl, rfl, rfl⟩ | ⟨rfl, rfl, rfl, rfl, rfl, rfl⟩ |
      ⟨rfl, rfl, rfl, rfl, rfl, rfl⟩ | ⟨rfl, rfl, rfl, rfl, rfl, rfl⟩ | ⟨rfl, rfl, rfl, rfl, rfl, rfl⟩ | ⟨rfl, rfl, rfl, rfl, rfl, rfl⟩ |
      ⟨rfl, rfl, rfl, rfl, rfl, rfl⟩
    on_goal 12 => exact ⟨_, (rfl : execAtomFadd2c g d a b s = _), rfl⟩
    all_goals exact ⟨_, rfl, rfl⟩
  exact ⟨fun tgt hc => update_issues he hf ha hc, fun e hc => update_traps he hf ha hc⟩

namespace Sys2Proof.Machine

/-! The new values (R150). -/

theorem atomNew_minS (m b c : Nat) :
    sgn 32 (atomNew .minS 4 m b c) ≤ sgn 32 m ∧ sgn 32 (atomNew .minS 4 m b c) ≤ sgn 32 b ∧
      (atomNew .minS 4 m b c = m ∨ atomNew .minS 4 m b c = b) := by
  unfold atomNew
  dsimp only
  split
  · rename_i h
    exact ⟨le_refl _, h, .inl rfl⟩
  · rename_i h
    exact ⟨(not_le.1 h).le, le_refl _, .inr rfl⟩

theorem atomNew_maxS (m b c : Nat) :
    sgn 32 m ≤ sgn 32 (atomNew .maxS 4 m b c) ∧ sgn 32 b ≤ sgn 32 (atomNew .maxS 4 m b c) ∧
      (atomNew .maxS 4 m b c = m ∨ atomNew .maxS 4 m b c = b) := by
  unfold atomNew
  dsimp only
  split
  · rename_i h
    exact ⟨le_refl _, h, .inl rfl⟩
  · rename_i h
    exact ⟨(not_le.1 h).le, le_refl _, .inr rfl⟩

theorem atomNew_cas (n m b c : Nat) : atomNew .cas n m b c = if m = c then b else m := rfl

end Sys2Proof.Machine

open Sys2Proof.Machine in
/-- Settles O21, from the order and the bits of each new value. -/
theorem atomicValues : Obligations.AtomicValues := by
  intro m b c _ _
  refine ⟨rfl, rfl, rfl, fun h => ?cas, fun h => ?kept, ⟨min_le_left m b, min_le_right m b, min_choice m b⟩,
    ⟨le_max_left m b, le_max_right m b, max_choice m b⟩, atomNew_minS m b c, atomNew_maxS m b c, fun n => ?and, fun n => ?or, rfl⟩
  case cas => rw [atomNew_cas, if_pos h]
  case kept => rw [atomNew_cas, if_neg h]
  case and => simp only [bit_eq_testBit, atomNew, Nat.testBit_and]
  case or => simp only [bit_eq_testBit, atomNew, Nat.testBit_or]

end

/-! # Fences, and the instructions of barrier registers and hierarchy barriers (R153, R154, R163 to R169) -/

section

namespace Sys2Proof.Machine

/-! A block and a launch after an update. -/

theorem find?_updFirst {p : α → Bool} {f : α → α} (h : ∀ x, p x = true → p (f x) = true) (l : List α) :
    (updFirst p f l).find? p = (l.find? p).map f := by
  induction l with
  | nil => rfl
  | cons x r ih =>
    unfold updFirst
    cases hp : p x with
    | true => simp [h x hp, hp]
    | false => simp [hp, ih]

theorem block?_updBlock {s : State} {bid : Nat} {f : Block → Block} (hf : ∀ b, (f b).bid = b.bid) :
    (s.updBlock bid f).block? bid = (s.block? bid).map f :=
  find?_updFirst (fun x hx => by rw [hf]; exact hx) s.blocks

theorem State.Solo.updBlock {s : State} {bid : Nat} {f : Block → Block} (h : s.Solo bid) (hf : ∀ b, (f b).bid = b.bid)
    (hr : ∀ b, (f b).role = b.role) : (s.updBlock bid f).Solo bid := by
  intro b hb
  rw [block?_updBlock hf] at hb
  obtain ⟨c, hc, rfl⟩ := Option.map_eq_some_iff.1 hb
  rw [hr, h c hc]

theorem barEv_solo {s : State} {bid : Nat} (h : s.Solo bid) (n : Nat) (e : BarEv) : (s.barEv bid n e).Solo bid :=
  h.updBlock (fun _ => rfl) fun _ => rfl

theorem arrive_solo {s : State} {t : Thread} (h : s.Solo t.bid) (n : Nat) : (s.arrive t n).Solo t.bid :=
  h.updBlock (fun _ => rfl) fun _ => rfl

/-! Fences (R154). -/

section

variable {g : BitVec 3} {f : BitVec 2} {sc : BitVec 3} {s : State} {k : ThreadKey} {t : Thread} {rest : List IssueSet}
variable (ha : s.Alone (.fence g f sc) k t rest)
include ha

theorem fence_gates (hf : f = 2) : exec (.fence g f sc) s =
    .next ((s.numbered.updThread k fun t => { t.next 4 with gate := some (s.nextId + 1) }).endIssue rest) := by
  show execFence g f sc s = _
  refine inTurn_done rfl ha ((if_pos hf).trans ?_) rfl
  rw [ha.key]
  rfl

theorem fence_passes (hf : f ≠ 2) (hm : s.fenceMet t (s.nextId + 1) (f = 0) = true) : exec (.fence g f sc) s =
    .next (((if 3 ≤ sc.toNat then s.numbered.dropLeases (s.envOf t.bid).core else s.numbered).updThread k fun t => t.next 4).endIssue rest) := by
  have hm' : s.numbered.fenceMet t s.numbered.nextId (f = 0) = true := hm
  show execFence g f sc s = _
  refine inTurn_done rfl ha ((if_neg hf).trans ((if_pos hm').trans ?_)) ?_
  · simp only [decide_eq_true_eq, ha.key]
    rfl
  · exact (apply_ite State.blocks ..).trans (ite_self _)

theorem fence_waits (hf : f ≠ 2) (hm : s.fenceMet t (s.nextId + 1) (f = 0) = false) : exec (.fence g f sc) s =
    .next ((s.numbered.updThread k fun t => { t.next 4 with wait := .fence (s.nextId + 1) (f = 0) (3 ≤ sc.toNat) }).endIssue rest) := by
  have hm' : s.numbered.fenceMet t s.numbered.nextId (f = 0) = false := hm
  show execFence g f sc s = _
  refine inTurn_done rfl ha ((if_neg hf).trans ((if_neg (by rw [hm']; exact Bool.false_ne_true)).trans ?_)) rfl
  rw [ha.key]
  rfl

end

/-! Barrier registers (R163, R165). -/

section

variable {i : Instr} {s s2 : State} {k : ThreadKey} {t : Thread} {b : Block} {rest : List IssueSet} {n : Nat}
  {f : Nat → State → Thread → Block → TRes}

theorem onBar_ok (hc : i.counter = none) (hb : s.block? t.bid = some b) (hn : n < s.nbar t.bid) (ha : s.Alone i k t rest)
    (hf : f s.nextId s.numbered t b = .ok s2) (hs : s2.Solo t.bid) : s.onBar i n f = .next (s2.endIssue rest) := by
  have hn' : ¬ s.numbered.nbar t.bid ≤ n := Nat.not_le.2 hn
  have hb' : s.numbered.block? t.bid = some b := hb
  refine (inTurn_ok ha ((if_neg hn').trans ?_) hs).trans (by rw [counted_of_none hc])
  rw [hb']
  exact hf

theorem onBar_denied (hn : s.nbar t.bid ≤ n) (ha : s.Alone i k t rest) :
    s.onBar i n f = .next ((s.numbered.takeTrap k t.pc t.pc { cause := 6, addr := 0, aux := 0 }).endIssue rest) :=
  inTurn_raises (x := plainTrap .accessDenied) ha (if_pos hn)

end

section

variable {g p : BitVec 3} {d a : BitVec 7} {n : BitVec 5} {s : State} {k : ThreadKey} {t : Thread} {b : Block} {rest : List IssueSet}
variable (hb : s.block? t.bid = some b) (hn : n.toNat < s.nbar t.bid)
include hb hn

theorem barInit_adds (ha : s.Alone (.barInit g n a) k t rest) : exec (.barInit g n a) s =
    .next (((s.numbered.barEv t.bid n.toNat (.init t.lane (t.reg a.toNat % 4096))).updThread k fun t => t.next 4).endIssue rest) := by
  show execBarInit g n a s = _
  exact onBar_ok rfl hb hn ha (by rw [ha.key]) (barEv_solo (s := s.numbered) ha.solo _ _)

theorem barExpect_adds (ha : s.Alone (.barExpect g n a) k t rest) : exec (.barExpect g n a) s =
    .next (((s.numbered.barEv t.bid n.toNat (.expect (t.reg a.toNat))).updThread k fun t => t.next 4).endIssue rest) := by
  show execBarExpect g n a s = _
  exact onBar_ok rfl hb hn ha (by rw [ha.key]) (barEv_solo (s := s.numbered) ha.solo _ _)

theorem barArrive_arrives (ha : s.Alone (.barArrive g d n) k t rest) : exec (.barArrive g d n) s =
    .next (((s.numbered.arrive t n.toNat).updThread k
      fun t => (t.setReg d.toNat (if (b.bar n.toNat).ph then 1 else 0)).next 4).endIssue rest) := by
  show execBarArrive g d n s = _
  exact onBar_ok rfl hb hn ha (by rw [ha.key]; rfl) (arrive_solo (s := s.numbered) ha.solo _)

theorem barTest_reads (ha : s.Alone (.barTest g p n) k t rest) : exec (.barTest g p n) s =
    .next ((s.numbered.updThread k fun t => (t.setPred p.toNat (b.bar n.toNat).ph).next 4).endIssue rest) := by
  show execBarTest g p n s = _
  exact onBar_ok rfl hb hn ha (by rw [ha.key]) ha.solo

/-- A wait goes on once it is released, or where nothing is left of what the arrivals released (R256). -/
theorem barWait_passes (ha : s.Alone (.barWait g n a) k t rest) (hr : t.isReleased = true ∨ s.numbered.arrivedAt b n.toNat = []) :
    exec (.barWait g n a) s = .next ((s.numbered.updThread k fun t => t.next 4).endIssue rest) := by
  show execBarWait g n a s = _
  refine onBar_ok rfl hb hn ha ((if_pos ?_).trans (by rw [ha.key])) ha.solo
  simpa [List.isEmpty_iff] using hr

theorem barSync_arrives (ha : s.Alone (.barSync g n) k t rest) (hr : t.isReleased = false) (ht : ∀ x, t.syncTok = some x → x.1 ≠ n.toNat) :
    exec (.barSync g n) s = .next (((s.numbered.arrive t n.toNat).updThread k
      fun t => { t with wait := .bar n.toNat, age := 0, syncTok := some (n.toNat, (b.bar n.toNat).ph) }).endIssue rest) := by
  have hno : (t.syncTok.filter fun x => x.1 == n.toNat) = none := by
    rw [Option.filter_eq_none_iff]
    exact fun x hx he => ht x hx (beq_iff_eq.1 he)
  show execBarSync g n s = _
  refine onBar_ok rfl hb hn ha ((if_neg (by rw [hr]; exact Bool.false_ne_true)).trans ?_) (arrive_solo (s := s.numbered) ha.solo _)
  rw [hno, ha.key]

theorem barSync_passes (ha : s.Alone (.barSync g n) k t rest) (hr : t.isReleased = true) : exec (.barSync g n) s =
    .next ((s.numbered.updThread k fun t => { t.next 4 with syncTok := none }).endIssue rest) := by
  show execBarSync g n s = _
  exact onBar_ok rfl hb hn ha ((if_pos hr).trans (by rw [ha.key])) ha.solo

end

/-! Coming to a wait (R167, R169, R256). -/

section

variable {s : State} {t : Thread} {b : Block}

/-- Nothing keeps a thread that comes to an instruction from it. -/
theorem comes_unhindered {i : Instr} (hc : s.Comes i t) : (t.wait != .none || s.trapsFirst t i || !s.awake t || t.busyP.contains i.guard ||
    !t.pred i.guard || t.interlocked i || !t.covers i) = false := by
  obtain ⟨-, hwait, htraps, hawake, hbusy, hpred, hint, hcov⟩ := hc
  rw [hwait, htraps, hawake, hbusy, hpred, hint, hcov]
  rfl

theorem beginWait_barWait {g : BitVec 3} {n : BitVec 5} {a : BitVec 7} (hb : s.block? t.bid = some b) (hn : n.toNat < s.nbar t.bid)
    (hc : s.Comes (.barWait g n a) t) : s.beginWait t = s.updThread t.key fun u => { u with
      wait := if (b.bar n.toNat).ph = bit (t.reg a.toNat) 0 then .bar n.toNat else .released (s.arrivedAt b n.toNat) } := by
  have hfree := comes_unhindered hc
  obtain ⟨hfetch, -⟩ := hc
  unfold State.beginWait
  simp only [hb, hfetch, hfree, hn, State.waitBar, bne_iff_ne, ne_eq, ite_not, if_true, Bool.false_eq_true, if_false]

theorem beginWait_hbarWait {g lv : BitVec 3} {d : BitVec 7} {n : BitVec 4} {l : Launch} {h : HBar} (hb : s.block? t.bid = some b)
    (hl : s.launch? b.lid = some l) (hn : n.toNat < l.granted lv.toNat) (hh : l.hbarOf lv.toNat n.toNat b.blk = some h)
    (hc : s.Comes (.hbarWait g d lv n) t) : s.beginWait t = s.updThread t.key fun u => { u with
      wait := if h.phase = bit (t.reg d.toNat) 0 then .hbar h.level h.inst h.idx else .released (s.still h.before) } := by
  have hfree := comes_unhindered hc
  obtain ⟨hfetch, -⟩ := hc
  unfold State.beginWait
  simp only [hb, hfetch, hfree, hl, hn, hh, State.waitHbar, bne_iff_ne, ne_eq, ite_not, if_true, Bool.false_eq_true, if_false]

end

end Sys2Proof.Machine

open Sys2Proof.Machine in
/-- Settles O23: `fence` by its function and its condition, each barrier instruction by the register that it names. -/
theorem fencesAndBarriers : Obligations.FencesAndBarriers := by
  refine ⟨fun g f sc s k t rest ha => ⟨fence_gates ha, fence_passes ha, fence_waits ha⟩,
    fun g p d a n s k t b rest hb => ⟨fun hn => ?_, fun hn i hi ha => ?_⟩⟩
  · exact ⟨barInit_adds hb hn, barExpect_adds hb hn, barArrive_arrives hb hn, barTest_reads hb hn, beginWait_barWait hb hn,
      barWait_passes hb hn, barSync_arrives hb hn, barSync_passes hb hn⟩
  · simp only [List.mem_cons, List.not_mem_nil, or_false] at hi
    obtain rfl | rfl | rfl | rfl | rfl | rfl := hi
    · exact (onBar_denied hn ha : execBarInit g n a s = _)
    · exact (onBar_denied hn ha : execBarExpect g n a s = _)
    · exact (onBar_denied hn ha : execBarArrive g d n s = _)
    · exact (onBar_denied hn ha : execBarTest g p n s = _)
    · exact (onBar_denied hn ha : execBarWait g n a s = _)
    · exact (onBar_denied hn ha : execBarSync g n s = _)

end

/-! # Barrier phases and hierarchy barriers at work (R165 to R169) -/

section

namespace Sys2Proof.Machine

/-! What a cycle's events make of a register (R166). -/

theorem Bar.completes_iff (x : Bar) : x.completes = true ↔ x.pa ≤ 0 ∧ x.pb = 0 := by
  unfold Bar.completes
  rw [Bool.and_eq_true_iff, decide_eq_true_iff, beq_iff_eq]

/-- The register after a cycle's events, before the completion check. -/
def Block.barAfter (b : Block) (n : Nat) (evs : List BarEv) : Bar := (sortEvs evs).foldl Bar.apply (b.bar n)

section

variable {s : State} {bid n : Nat} {b : Block} {evs : List BarEv} (hb : s.block? bid = some b)
include hb

theorem barCycle_of_incomplete (hx : (b.barAfter n evs).completes = false) :
    s.barCycle bid n evs = s.updBlock bid fun b' => b'.setBar n (b.barAfter n evs) := by
  unfold State.barCycle
  rw [hb]
  exact if_neg (Bool.eq_false_iff.1 hx)

/-- A waiter at a register that completes is released, behind what the arrivals released (R256). -/
def Thread.leaveBar (bid n : Nat) (after : List Arriver) (t : Thread) : Thread :=
  if t.bid == bid && t.wait == Wait.bar n then { t with wait := .released after } else t

/-- A block at whose register a phase completes. -/
def Block.completeBar (n : Nat) (x : Bar) (after : List Arriver) (b : Block) : Block :=
  { b.setBar n x.complete with arrivers := (b.arrivers.filter fun e => e.1 != n) ++ after.map fun a => (n, a) }

theorem barCycle_of_complete (hx : (b.barAfter n evs).completes = true) :
    s.barCycle bid n evs = { s.updBlock bid (Block.completeBar n (b.barAfter n evs) (s.arrivedAt b n)) with
      threads := s.threads.map (Thread.leaveBar bid n (s.arrivedAt b n)) } := by
  unfold State.barCycle
  rw [hb]
  exact if_pos hx

theorem barCycle_block (hx : (b.barAfter n evs).completes = true) : (s.barCycle bid n evs).block? bid =
    some (Block.completeBar n (b.barAfter n evs) (s.arrivedAt b n) b) := by
  rw [barCycle_of_complete hb hx]
  exact (block?_updBlock (f := Block.completeBar n (b.barAfter n evs) (s.arrivedAt b n)) fun _ => rfl).trans (congrArg _ hb)

/-- After a completion no thread waits at the register. -/
theorem barCycle_releases (hx : (b.barAfter n evs).completes = true) {t : Thread} (ht : t ∈ (s.barCycle bid n evs).threads)
    (hbid : t.bid = bid) : t.wait ≠ .bar n := by
  rw [barCycle_of_complete hb hx] at ht
  obtain ⟨u, -, rfl⟩ := List.mem_map.1 ht
  unfold Thread.leaveBar at hbid ⊢
  split
  · exact nofun
  · rename_i hu
    rw [if_neg hu] at hbid
    intro hw
    exact hu (by rw [hbid, hw]; simp)

theorem barCycle_waiter (hx : (b.barAfter n evs).completes = true) {t : Thread} (ht : t ∈ s.threads) (hbid : t.bid = bid)
    (hw : t.wait = .bar n) : ({ t with wait := .released (s.arrivedAt b n) } : Thread) ∈ (s.barCycle bid n evs).threads := by
  rw [barCycle_of_complete hb hx]
  refine List.mem_map.2 ⟨t, ht, ?_⟩
  unfold Thread.leaveBar
  rw [if_pos (by rw [hbid, hw]; simp)]

end

end Sys2Proof.Machine

open Sys2Proof.Machine in
/-- Settles O24: each event by its effect, a cycle by its completion check. -/
theorem barrierPhases : Obligations.BarrierPhases := by
  refine ⟨fun x n l => ⟨rfl, rfl, rfl, rfl, rfl, rfl, rfl⟩, Bar.completes_iff, fun x => rfl, fun s bid n b evs hb => ?_⟩
  exact ⟨barCycle_of_incomplete hb, fun hx => ⟨barCycle_block hb hx, fun t => barCycle_releases hb hx, fun t => barCycle_waiter hb hx⟩⟩

namespace Sys2Proof.Machine

/-! Hierarchy barriers (R168, R169). -/

theorem hbarSettle_blocks (s : State) (lid : Nat) : (s.hbarSettle lid).blocks = s.blocks := by
  unfold State.hbarSettle
  split
  · rfl
  · refine List.foldlRecOn _ _ (motive := fun u : State => u.blocks = s.blocks) rfl fun u hu h _ => ?_
    dsimp only
    split
    · exact hu
    · exact hu

section

variable {i : Instr} {s s2 : State} {k : ThreadKey} {t : Thread} {b : Block} {l : Launch} {rest : List IssueSet} {level idx : Nat}
  {f : State → Thread → Block → Launch → HBar → TRes} (ha : s.Alone i k t rest) (hb : s.block? t.bid = some b) (hl : s.launch? b.lid = some l)
include ha hb hl

theorem onHbar_denied (hn : l.granted level ≤ idx) :
    s.onHbar i level idx f = .next ((s.numbered.takeTrap k t.pc t.pc { cause := 6, addr := 0, aux := 0 }).endIssue rest) := by
  have hb' : s.numbered.block? t.bid = some b := hb
  have hl' : s.numbered.launch? b.lid = some l := hl
  refine inTurn_raises (x := plainTrap .accessDenied) ha ?_
  simp only [hb', hl', hn, if_true]

variable {h : HBar} (hn : idx < l.granted level) (hh : l.hbarOf level idx b.blk = some h)
include hn hh

theorem onHbar_ok (hc : i.counter = none) (hf : f s.numbered t b l h = .ok s2) (hs : s2.blocks = s.blocks) :
    s.onHbar i level idx f = .next (s2.endIssue rest) := by
  have hb' : s.numbered.block? t.bid = some b := hb
  have hl' : s.numbered.launch? b.lid = some l := hl
  refine inTurn_done hc ha ?_ hs
  simp only [hb', hl', not_le.2 hn, if_false, hh, hf]

theorem onHbar_raises {x : TrapInfo} (hf : f s.numbered t b l h = .trap x 0) :
    s.onHbar i level idx f = .next ((s.numbered.takeTrap k t.pc t.pc x.word).endIssue rest) := by
  have hb' : s.numbered.block? t.bid = some b := hb
  have hl' : s.numbered.launch? b.lid = some l := hl
  refine inTurn_raises ha ?_
  simp only [hb', hl', not_le.2 hn, if_false, hh, hf]

end

section

variable {g lv : BitVec 3} {d : BitVec 7} {n : BitVec 4} {s : State} {k : ThreadKey} {t : Thread} {b : Block} {l : Launch}
  {rest : List IssueSet} {h : HBar}
variable (hb : s.block? t.bid = some b) (hl : s.launch? b.lid = some l) (hn : n.toNat < l.granted lv.toNat)
  (hh : l.hbarOf lv.toNat n.toNat b.blk = some h)
include hb hl hn hh

theorem hbarWait_passes (ha : s.Alone (.hbarWait g d lv n) k t rest) (hr : t.isReleased = true ∨ s.numbered.still h.before = []) :
    exec (.hbarWait g d lv n) s = .next (((s.numbered.dropLeases b.core).updThread k fun t => t.next 4).endIssue rest) := by
  show execHbarWait g d lv n s = _
  refine onHbar_ok ha hb hl hn hh rfl ((if_pos ?_).trans (by rw [ha.key])) rfl
  simpa [List.isEmpty_iff] using hr

/-- A pod barrier's arrivals need an own VDN (R298). -/
theorem hbarArrive_vdn (ha : s.Alone (.hbarArrive g d lv n) k t rest) (h6 : lv = 6) (hv : s.ownVdn l.f = none) :
    exec (.hbarArrive g d lv n) s = .next ((s.numbered.takeTrap k t.pc t.pc { cause := 21, addr := 0, aux := 0 }).endIssue rest) := by
  have hv' : s.numbered.ownVdn l.f = none := hv
  show execHbarArrive g d lv n s = _
  refine onHbar_raises (x := plainTrap .vdnInvalid) ha hb hl hn hh (if_pos ?_)
  rw [h6, hv']
  rfl

/-- A block's first arrival in a phase. -/
theorem hbarArrive_counts (ha : s.Alone (.hbarArrive g d lv n) k t rest) (hnew : h.arrived.contains b.blk = false)
    (hv : lv = 6 → s.ownVdn l.f ≠ none) : exec (.hbarArrive g d lv n) s =
      .next ((((s.numbered.updLaunch l.lid fun l => { l with
        hbars := updFirst (fun x => x.is h.level h.inst h.idx) (fun x => { x with
          arrived := x.arrived ++ [b.blk], before := (s.numbered.arriver t).addTo x.before }) l.hbars }).updThread k
          fun t => (t.setReg d.toNat (if h.phase then 1 else 0)).next 4).hbarSettle l.lid).endIssue rest) := by
  have hown : ¬ (decide (lv = 6) && (s.numbered.ownVdn l.f).isNone) = true := by
    rw [Bool.and_eq_true_iff, decide_eq_true_iff, Option.isNone_iff_eq_none]
    exact fun ⟨h6, hno⟩ => hv h6 hno
  show execHbarArrive g d lv n s = _
  refine onHbar_ok ha hb hl hn hh rfl ((if_neg hown).trans ((if_neg (by rw [hnew]; exact Bool.false_ne_true)).trans ?_)) (hbarSettle_blocks _ _)
  rw [ha.key]
  rfl

end

end Sys2Proof.Machine

open Sys2Proof.Machine in
/-- Settles O25: by the launch's grant, then by what each instruction does at the barrier of its block. -/
theorem hierarchyBarriers : Obligations.HierarchyBarriers := by
  intro g d lv n s k t b l rest hb hl
  refine ⟨fun hn i hi ha => ?_, fun hn h hh => ⟨beginWait_hbarWait hb hl hn hh, hbarWait_passes hb hl hn hh, hbarArrive_vdn hb hl hn hh,
    hbarArrive_counts hb hl hn hh⟩⟩
  simp only [List.mem_cons, List.not_mem_nil, or_false] at hi
  obtain rfl | rfl := hi
  · exact (onHbar_denied ha hb hl hn : execHbarArrive g d lv n s = _)
  · exact (onHbar_denied ha hb hl hn : execHbarWait g d lv n s = _)

end

/-! # Line locks at their issue (R157 to R160) -/

section

namespace Sys2Proof.Machine

/-- Participants that name one aligned address raise no trap for it (R157). -/
theorem lockTraps_eq_nil {t0 : Thread} {part : List Thread} {a : Nat} (heq : ∀ t ∈ t0 :: part, t.addr a = t0.addr a)
    (hal : (t0.addr a).toNat % 128 = 0) : lockTraps (t0 :: part) a = [] := by
  unfold lockTraps
  rw [List.filterMap_eq_nil_iff]
  intro t ht
  have hsplit : ((t0 :: part).any fun t => t.addr a != t0.addr a) = false := by
    rw [List.any_eq_false]
    intro u hu
    simp [heq u hu]
  simp only [List.map_cons, List.headD_cons, hsplit, heq t ht, hal]
  rfl

section

variable {s : State} {bid grp : Nat} {gr : Group} {t0 : Thread} {part : List Thread} {a pred cls tok : Nat} {tri : Bool}
variable (hgr : s.group? bid grp = some gr)
include hgr

theorem askLock_diverges (ht : lockTraps (t0 :: part) a ≠ []) :
    s.askLock tok bid grp (t0 :: part) a pred cls tri = .trap (lockTraps (t0 :: part) a) := by
  unfold State.askLock
  simp only [hgr]
  exact if_pos (by simpa using ht)

variable (ht : lockTraps (t0 :: part) a = [])
include ht

theorem askLock_faults {x : TrapInfo} (hr : s.resolve (s.envOf bid) .lock (t0.addr a) 128 = .error x) :
    s.askLock tok bid grp (t0 :: part) a pred cls tri = allTrap (t0 :: part) x := by
  unfold State.askLock
  simp only [hgr, ht, hr]
  rfl

variable {tgt : Target} (hr : s.resolve (s.envOf bid) .lock (t0.addr a) 128 = .ok tgt)
include hr

theorem askLock_limited (h4 : 4 ≤ gr.held.length) : s.askLock tok bid grp (t0 :: part) a pred cls tri =
    allTrap (t0 :: part) { cause := .lockLimit, addr := t0.addr a, aux := 0 } := by
  unfold State.askLock
  simp only [hgr, ht, hr, h4, if_true]
  rfl

theorem askLock_unordered (h4 : gr.held.length < 4) (ho : ∃ h ∈ gr.held, (t0.addr a).toNat ≤ h.va.toNat) :
    s.askLock tok bid grp (t0 :: part) a pred cls tri = allTrap (t0 :: part) { cause := .lockOrder, addr := t0.addr a, aux := 0 } := by
  have hany : (gr.held.any fun h => decide ((t0.addr a).toNat ≤ h.va.toNat)) = true := by simpa using ho
  unfold State.askLock
  simp only [hgr, ht, hr, hany, not_le.2 h4, if_true, if_false]
  rfl

end

/-- The request that leaves for a line's home. -/
def lockReqOf (tok : Nat) (t0 : Thread) (part : List Thread) (a : Nat) (tgt : Target) (tri : Bool) (cls pred : Nat) : LockReq :=
  { id := tok, va := t0.addr a, tgt, tri, cls, pred, queued := false, members := (t0 :: part).map fun t => t.tid }

theorem askLock_asks {s : State} {bid grp : Nat} {gr : Group} {t0 : Thread} {part : List Thread} {a pred cls tok pa : Nat} {tri : Bool}
    (hgr : s.group? bid grp = some gr) (ht : lockTraps (t0 :: part) a = [])
    (hr : s.resolve (s.envOf bid) .lock (t0.addr a) 128 = .ok (.loc pa)) (h4 : gr.held.length < 4)
    (ho : ∀ h ∈ gr.held, h.va.toNat < (t0.addr a).toNat) : s.askLock tok bid grp (t0 :: part) a pred cls tri =
      .ok ((s.standAt bid grp t0.pc .lock fun t => !tri || (t0 :: part).any fun u => u.key == t.key).updGroup bid grp fun g =>
        { g with req := some (lockReqOf tok t0 part a (.loc pa) tri cls pred) }) := by
  have hnone : (gr.held.any fun h => decide ((t0.addr a).toNat ≤ h.va.toNat)) = false := by
    simpa using ho
  unfold State.askLock
  simp only [hgr, ht, hr, hnone, not_le.2 h4, if_false]
  rfl

section

variable {g p : BitVec 3} {a : BitVec 7} {c : BitVec 2} {s : State} {q : IssueSet} {rest : List IssueSet} {bid grp : Nat} {gr : Group}
  {t0 : Thread} {part : List Thread}

theorem State.Gathers.solo {i : Instr} (h : s.Gathers i q rest bid grp) : s.Solo bid := by
  obtain ⟨-, -, -, -, hs, -⟩ := h
  exact hs

/-- `llock` and `ltry` of a local line send the group's request. -/
theorem lock_asks {i : Instr} {tri : Bool} {cls pa : Nat} (hgr : s.group? bid grp = some gr) (hp : s.parts i q bid grp = t0 :: part)
    (he : exec i s = s.together i fun tok s bid grp part => s.askLock tok bid grp part a.toNat p.toNat cls tri)
    (hc : i.counter = none) (hg : s.Gathers i q rest bid grp) (heq : ∀ t ∈ t0 :: part, t.addr a.toNat = t0.addr a.toNat)
    (hal : (t0.addr a.toNat).toNat % 128 = 0) (hr : s.resolve (s.envOf bid) .lock (t0.addr a.toNat) 128 = .ok (.loc pa))
    (h4 : gr.held.length < 4) (ho : ∀ h ∈ gr.held, h.va.toNat < (t0.addr a.toNat).toNat) :
    exec i s = .next ((((s.numbered.standAt bid grp t0.pc .lock fun t => !tri || (t0 :: part).any fun u => u.key == t.key).updGroup bid grp
      fun g => { g with req := some (lockReqOf s.nextId t0 part a.toNat (.loc pa) tri cls p.toNat) }).advanceGroup i q.pc bid
        grp (s.standers bid grp q)).endIssue rest) := by
  have hask := askLock_asks (s := s.numbered) (tok := s.nextId) (pred := p.toNat) (cls := cls) (tri := tri) hgr
    (lockTraps_eq_nil heq hal) hr h4 ho
  rw [he]
  refine (together_ok hg ((congrArg (fun l => s.numbered.askLock s.nextId bid grp l a.toNat p.toNat cls tri) hp).trans hask) ?_).trans ?_
  · exact hg.solo
  · rw [counted_of_none hc]

section

variable (hgr : s.group? bid grp = some gr) (hp : s.parts (.lunlock g a) q bid grp = t0 :: part) (hg : s.Gathers (.lunlock g a) q rest bid grp)
  (heq : ∀ t ∈ t0 :: part, t.addr a.toNat = t0.addr a.toNat) (hal : (t0.addr a.toNat).toNat % 128 = 0)
  {tgt : Target} (hr : s.resolve (s.envOf bid) .lock (t0.addr a.toNat) 128 = .ok tgt)
include hgr hp hg heq hal hr

/-- A line that the group does not hold: LOCK_NOT_HELD in every participant (R160). -/
theorem lunlock_not_held (hh : (gr.held.find? fun h => h.va == t0.addr a.toNat) = none) (hw : t0.wait ≠ .matched) :
    exec (.lunlock g a) s = .next ((s.numbered.raiseAll ((t0 :: part).map fun t =>
      { key := t.key, pc := q.pc, resume := q.pc, info := { cause := 11, addr := t0.addr a.toNat, aux := 0 } })).endIssue rest) := by
  have hgr' : s.numbered.group? bid grp = some gr := hgr
  have hr' : s.numbered.resolve (s.numbered.envOf bid) .lock (t0.addr a.toNat) 128 = .ok tgt := hr
  show execLunlock g a s = _
  refine (together_trap (l := (t0 :: part).map fun t => (t.key, { cause := .lockNotHeld, addr := t0.addr a.toNat, aux := 0 })) hg ?_ ?_).trans ?_
  · rw [hp]
    simp only [hgr', lockTraps_eq_nil heq hal, hr', hh]
    rfl
  · intro t r ht
    rw [hp] at ht
    obtain ⟨rfl, -⟩ := List.cons.inj ht
    exact hw
  · rw [List.map_map]
    rfl

/-- The release of a held line begins: its participants wait for what precedes it (R160). -/
theorem lunlock_begins {h : Held} (hh : (gr.held.find? fun h => h.va == t0.addr a.toNat) = some h) : exec (.lunlock g a) s =
    .next (((((s.numbered.standAt bid grp t0.pc .unlock fun t => (t0 :: part).any fun u => u.key == t.key).updGroup bid grp fun x =>
      { x with unlocking := some { va := t0.addr a.toNat, tgt := h.tgt, before := s.nextId + 1, sent := false } }).advanceGroup
        (.lunlock g a) q.pc bid grp (s.standers bid grp q)).counted (.lunlock g a) bid grp s.nextId).endIssue rest) := by
  have hgr' : s.numbered.group? bid grp = some gr := hgr
  have hr' : s.numbered.resolve (s.numbered.envOf bid) .lock (t0.addr a.toNat) 128 = .ok tgt := hr
  show execLunlock g a s = _
  refine together_ok hg ?_ hg.solo
  rw [hp]
  simp only [hgr', lockTraps_eq_nil heq hal, hr', hh]
  rfl

end

end

end Sys2Proof.Machine

open Sys2Proof.Machine in
/-- Settles O26, in the order of the checks of R157, R158 and R160. -/
theorem lineLocks : Obligations.LineLocks := by
  intro g p a c s q rest bid grp gr t0 part hgr
  refine ⟨fun i tri cls hp hm hg heq hal pa hr h4 ho => ?_, fun hp hg heq hal tgt hr => ⟨?_, ?_⟩, ?_, ?_, fun ht tgt hr => ⟨?_, ?_⟩⟩
  · simp only [List.mem_cons, List.not_mem_nil, or_false, Prod.mk.injEq] at hm
    obtain ⟨rfl, rfl, rfl⟩ | ⟨rfl, rfl, rfl⟩ := hm
    · exact lock_asks hgr hp (rfl : execLlock g p a c s = _) rfl hg heq hal hr h4 ho
    · exact lock_asks hgr hp (rfl : execLtry g p a s = _) rfl hg heq hal hr h4 ho
  · exact lunlock_not_held hgr hp hg heq hal hr
  · exact fun h hh => lunlock_begins hgr hp hg heq hal hr hh
  · exact askLock_diverges hgr
  · exact fun ht x hr => askLock_faults hgr ht hr
  · exact askLock_limited hgr ht hr
  · exact askLock_unordered hgr ht hr

end

/-! # Loads return, and what stores and updates leave in memory (R141, R150, R251, R252) -/

section

namespace Sys2Proof.Machine

/-! Stores (R236, R251). -/

/-- Bytes that are stored between two steps of the homes are what memory gains. -/
theorem Serves.mem_store {s u v : State} {a : Nat} {bs : List Byte} {l : List L1Line} (h : Serves s u)
    (k : Serves { u with mem := u.mem.store a bs, l1 := l } v) (q : s.Quiet) : v.mem = s.mem.store a bs := by
  rw [k.mem (h.quiet q), h.mem q]

theorem homeWrite_mem {s u v : State} {f tag pa : Nat} {writer : Option Nat} {bs : List Byte} (h : Serves s u)
    (k : Serves (u.homeWrite f tag writer pa bs) v) (q : s.Quiet) : v.mem = s.mem.store pa bs :=
  (h.trans (((pace_serves ..).trans (probe_serves ..)).trans (mereTouch_serves ..))).mem_store ((mark_serves ..).trans k) q

theorem storeLocal_mem {s : State} (q : s.Quiet) (e : Env) (ty : BitVec 2) (pa : Nat) (d : List Byte) :
    (s.storeLocal e ty pa d).mem = s.mem.store pa d := by
  have hown : Serves s ((if (s.l1Find e.core (lineOf pa)).any fun l => l.st == .owned then s
      else ((((s.pace e.f pa d.length).probe (some e.core) (lineOf pa)).mereTouch e.f e.tag (lineOf pa) 128 false).carried false e.core
        pa 128).mark (128 * lineOf pa) 128).keepHbm (lineOf pa)) :=
    .trans (.ite (.refl s) (((((pace_serves ..).trans (probe_serves ..)).trans (mereTouch_serves ..)).trans (carried_serves ..)).trans
      (mark_serves ..))) (keepHbm_serves ..)
  unfold State.storeLocal
  dsimp only
  split
  · exact hown.mem_store (l1Store_serves ..) q
  · exact homeWrite_mem (l1Store_serves ..) (carried_serves ..) q
  · exact homeWrite_mem (.refl s) ((carried_serves ..).trans (setL1_serves ..)) q

/-! Loads (R252). -/

theorem Memory.read_lt (m : Memory) (a n : Nat) : m.read a n < 256 ^ n := by
  induction n generalizing a with
  | zero => exact Nat.one_pos
  | succ n ih =>
    have hb : (m.byte a).toNat < 256 := (m.byte a).isLt
    have hr := ih (a + 1)
    calc m.read a (n + 1) = (m.byte a).toNat + 256 * m.read (a + 1) n := rfl
      _ < 256 ^ (n + 1) := by rw [Nat.pow_succ]; omega

theorem overlay_none (n v : Nat) : overlay (List.replicate n none) v = v % 256 ^ n := by
  induction n generalizing v with
  | zero => simp [overlay, Nat.mod_one]
  | succ n ih => rw [List.replicate_succ, overlay, ih, Nat.pow_succ', Nat.mod_mul]

/-- A load whose bytes no queue entry writes is forwarded none. -/
theorem forwarded_of_apart {g : Group} {l : Load}
    (h : ∀ q ∈ g.queue, ∀ i, i < l.n → q.tgt.overlaps q.size (l.tgt.offset i) 1 = false) : g.forwarded l = List.replicate l.n none := by
  refine List.eq_replicate_iff.2 ⟨by simp [Group.forwarded], fun b hb => ?_⟩
  obtain ⟨i, hi, rfl⟩ := List.mem_map.1 hb
  have hno : (g.queue.filter fun e => e.id < l.id && e.tgt.overlaps e.size (l.tgt.offset i) 1) = [] :=
    List.filter_eq_nil_iff.2 fun q hq => by rw [h q hq i (List.mem_range.1 hi), Bool.and_false]; exact Bool.false_ne_true
  unfold Group.newest
  rw [hno]
  rfl

theorem dropLease_serves (s : State) (core line : Nat) : Serves s (s.dropLease core line) := setL1_serves ..

theorem dropConst_serves (s : State) (die line : Nat) : Serves s (s.dropConst die line) := by
  unfold State.dropConst
  exact .ite (setDie_serves ..) (.refl s)

section

variable {s : State} (q : s.Quiet) {core pa : Nat} (hl : ∀ x ∈ s.l1, x.core = core → x.line = lineOf pa → x.st ≠ .leased)
include q hl

/-- Without a leased copy a core's load reads memory. -/
theorem loadLocal_reads (f tag : Nat) (ty : BitVec 2) (n : Nat) :
    (s.loadLocal core f tag ty pa n).1 = s.mem.read pa n ∧ Serves s (s.loadLocal core f tag ty pa n).2 := by
  unfold State.loadLocal
  dsimp only
  split
  · have hs : Serves s ((s.l1Store core 3 pa n).downgrade none (lineOf pa)) := (l1Store_serves ..).trans (downgrade_serves ..)
    exact ⟨by rw [hs.mem q], hs.trans ((mereTouch_serves ..).trans (carried_serves ..))⟩
  · split
    · rename_i x hx
      have hmem := List.mem_of_find?_eq_some hx
      have hat := List.find?_some hx
      simp only [Bool.and_eq_true, beq_iff_eq] at hat
      obtain ⟨⟨hcore, hline⟩, -⟩ := hat
      have hs := coreEvent_serves s core 8 1
      rw [if_neg (by simpa using hl x hmem hcore hline)]
      exact ⟨by rw [hs.mem q], hs⟩
    · have hs := (coreEvent_serves s core 9 1).trans (fill_serves _ core f tag ty pa)
      exact ⟨by rw [hs.mem q], hs⟩

end

/-- A load of local memory that meets no queue entry and no leased copy reads memory, and leaves it. -/
theorem readLoad_reads {s : State} (q : s.Quiet) {e : Env} {g : Group} {l : Load} {pa : Nat} (hk : l.kind = .ld) (ht : l.tgt = .loc pa)
    (hq : ∀ q ∈ g.queue, ∀ i, i < l.n → q.tgt.overlaps q.size ((Target.loc pa).offset i) 1 = false)
    (hl : ∀ x ∈ s.l1, x.core = e.core → x.line = lineOf pa → x.st ≠ .leased) :
    (s.readLoad e g l).1 = s.mem.read pa l.n ∧ (s.readLoad e g l).2.mem = s.mem := by
  have hf := forwarded_of_apart (g := g) (l := l) (by rw [ht]; exact hq)
  have hhome : Serves s (if l.home then s.dropLease e.core (lineOf pa) else s) := .ite (dropLease_serves ..) (.refl s)
  have hkeep : ∀ x ∈ (if l.home then s.dropLease e.core (lineOf pa) else s).l1, x.core = e.core → x.line = lineOf pa → x.st ≠ .leased := by
    intro x hx
    split at hx
    · exact hl x (List.mem_filter.1 hx).1
    · exact hl x hx
  obtain ⟨hval, hs⟩ := loadLocal_reads (hhome.quiet q) hkeep e.f e.tag l.ty l.n
  unfold State.readLoad
  rw [hk, ht]
  dsimp only
  rw [hf]
  split
  · rename_i hall
    have hn : l.n = 0 := by
      by_contra hn
      simp [hn] at hall
    rw [hn]
    exact ⟨rfl, rfl⟩
  · refine ⟨?_, ((hhome.trans hs).trans (dropConst_serves ..)).mem q⟩
    rw [overlay_none, hval, hhome.mem q, Nat.mod_eq_of_lt (Memory.read_lt ..)]

/-! The instants at which accesses are performed. -/

section

variable {s : State} {g : Group}

theorem loadValueReturn_delivers {l : Load} (hf : s.loads.find? (fun x => x.id == l.id) = some l) (hg : s.group? l.bid l.grp = some g)
    (hr : s.loadReady l = true) (hp : l.kind ≠ .lstat → s.poison l.tgt l.n = false) :
    let r := ({ s with loads := s.loads.filter fun x => x.id != l.id } : State).readLoad (s.envOf l.bid) g l
    exec (.loadValueReturn l.id) s =
      .next (((if l.acq && !inScratch l.ea then r.2.dropLeases (s.envOf l.bid).core else r.2).deliver { bid := l.bid, tid := l.tid } l.tok l.dst
        (loadWord l.signed l.n r.1) none).settleCnt l.bid l.grp .ld l.tok) := by
  have hpoison : (l.kind != .lstat && s.poison l.tgt l.n) = false := by
    by_cases hk : l.kind = .lstat
    · simp [hk]
    · rw [hp hk, Bool.and_false]
  show Host.Outcome.next (s.returnLoad l.id) = _
  unfold State.returnLoad
  simp only [hf, hg, hr, hpoison, Bool.not_true, Bool.false_eq_true, if_false]

variable {bid grp : Nat} {q : QEntry} {r : List QEntry}
variable (hg : s.group? bid grp = some g) (hq : g.queue = q :: r) (hr : s.headReady g q = true)
include hg hq hr

theorem storeQueuePerform_stores {d : List Byte} (hk : q.kind = .store d) (hp : s.poison q.tgt d.length = false) :
    exec (.storeQueuePerform bid grp) s = .next ((match q.tgt with
      | .loc pa => s.storeLocal (s.envOf bid) q.ty pa d
      | t => s.writeTgt (s.envOf bid) none t d).popQueue bid grp q .st) := by
  show Host.Outcome.next (s.performStore bid grp) = _
  unfold State.performStore
  simp only [hg, hq, hk, hr, hp, Bool.not_true, Bool.false_eq_true, if_false] <;> rfl

theorem homeAtomicRequest_updates {op : AtomOp} {n x c pa : Nat} {dst : List Nat} (hk : q.kind = .update op n x c dst) (ht : q.tgt = .loc pa)
    (hp : s.poison q.tgt n = false) :
    let m := s.mem.read pa n
    let s2 := s.coreUpdate (s.envOf bid) pa (leBytes (atomNew op n m x c) n)
    exec (.homeAtomicRequest bid grp) s = .next (if dst.isEmpty then s2.popQueue bid grp q .st
      else (s2.deliver { bid, tid := q.tid } q.tok dst m none).popQueue bid grp q .ld) := by
  have hsize : q.size = n := by
    unfold QEntry.size
    rw [hk]
  rw [← hsize, ht] at hp
  show Host.Outcome.next (s.performUpdate bid grp) = _
  unfold State.performUpdate
  simp only [hg, hq, hr, hp, hk, ht, Bool.not_true, Bool.false_eq_true, if_false]
  rfl

end

end Sys2Proof.Machine

open Sys2Proof.Machine in
/-- Settles O22, from what the homes leave in memory and what each instant of the memory system does. -/
theorem loadsReturn : Obligations.LoadsReturn := by
  refine ⟨fun s e htrack hpoison => ⟨fun ty pa d => storeLocal_mem ⟨htrack, hpoison⟩ e ty pa d,
    fun g l pa hk ht hq hl => readLoad_reads ⟨htrack, hpoison⟩ hk ht hq hl⟩, fun s l g hf hg hr hp => loadValueReturn_delivers hf hg hr hp,
    fun s bid grp g q r d hg hq hk hr hp => storeQueuePerform_stores hg hq hr hk hp, ?_⟩
  exact fun s bid grp g q r op n x c pa dst hg hq hk ht hr hp => homeAtomicRequest_updates hg hq hr hk ht hp

end

/-! # Lock requests at the home (R158, R159, R281) -/

section

namespace Sys2Proof.Machine

/-! The lock entry of a line. -/

section

variable {s : State} {line : Nat} {e : LockEntry}

theorem lockEntry?_of_locks {u : State} (h : u.locks = s.locks) : u.lockEntry? line = s.lockEntry? line := by
  unfold State.lockEntry?
  rw [h]

theorem lockEntry?_updLock {f : LockEntry → LockEntry} (h : s.lockEntry? line = some e) (hf : ∀ e, (f e).line = e.line) :
    (s.updLock line f).lockEntry? line = some (f e) :=
  (find?_updFirst (fun x hx => by rw [hf]; exact hx) s.locks).trans (congrArg (Option.map f) h)

/-- A line without an entry has one once it is added. -/
theorem lockEntry?_append (h : s.lockEntry? line = none) (he : e.line = line) :
    ({ s with locks := s.locks ++ [e] } : State).lockEntry? line = some e := by
  have hnone : (s.locks.find? fun e => e.line == line) = none := h
  show (s.locks ++ [e]).find? (fun e => e.line == line) = _
  rw [List.find?_append, hnone, Option.none_or, List.find?_cons_of_pos (by simpa using he)]

end

/-! The result of a request reaches the group, and the locks stay. -/

theorem inject_keeps (s : State) (core : Nat) (vals : List Word) (pred : Bool) :
    (s.inject core vals pred).2.locks = s.locks ∧ (s.inject core vals pred).2.groups = s.groups := by
  unfold State.inject
  dsimp only
  split <;> exact ⟨rfl, rfl⟩

theorem forward_keeps (s : State) (k : ThreadKey) (id : Nat) (vals : List Word) (pred carries : Bool) (trap : Option DefTrap) :
    (s.forward k id vals pred carries trap).locks = s.locks ∧ (s.forward k id vals pred carries trap).groups = s.groups := by
  unfold State.forward
  dsimp only
  split
  · split
    · split
      · exact ⟨rfl, rfl⟩
      · exact inject_keeps ..
    · exact ⟨rfl, rfl⟩
  · exact ⟨rfl, rfl⟩

theorem foldl_forward_keeps (bid id : Nat) (pred carries : Bool) (l : List Nat) (s : State) :
    let u := l.foldl (fun s tid => s.forward { bid, tid } id [] pred carries none) s
    u.locks = s.locks ∧ u.groups = s.groups := by
  induction l generalizing s with
  | nil => exact ⟨rfl, rfl⟩
  | cons x r ih =>
    obtain ⟨hl, hg⟩ := forward_keeps s { bid, tid := x } id [] pred carries none
    obtain ⟨hl', hg'⟩ := ih (s.forward { bid, tid := x } id [] pred carries none)
    exact ⟨hl'.trans hl, hg'.trans hg⟩

/-- What a group keeps of its request's result (R158). -/
def Group.answered (g : Group) (result : Bool) (status : BitVec 4) : Group :=
  match g.req with
  | some r => { g with req := none, lastLine := r.va, lastStat := status, held := if result then g.held ++ [{ va := r.va, tgt := r.tgt }] else g.held }
  | none => g

theorem lockResult_keeps (s : State) (bid grp : Nat) (result : Bool) (status : BitVec 4) :
    (s.lockResult bid grp result status).locks = s.locks ∧
    (s.lockResult bid grp result status).groups = s.groups.map fun g => if g.is bid grp then g.answered result status else g := by
  unfold State.lockResult
  dsimp only
  cases (s.group? bid grp).bind Group.req with
  | none =>
    cases s.block? bid with
    | none => exact ⟨rfl, rfl⟩
    | some b => cases result <;> exact ⟨rfl, rfl⟩
  | some r =>
    cases s.block? bid with
    | none => exact foldl_forward_keeps ..
    | some b => cases result <;> exact foldl_forward_keeps ..

theorem answered_is (g : Group) (result : Bool) (status : BitVec 4) (bid grp : Nat) :
    (g.answered result status).is bid grp = g.is bid grp := by
  unfold Group.answered
  split <;> rfl

theorem group?_lockResult {s : State} {bid grp : Nat} {g : Group} (hg : s.group? bid grp = some g) (result : Bool) (status : BitVec 4) :
    (s.lockResult bid grp result status).group? bid grp = some (g.answered result status) := by
  have his : g.is bid grp = true := List.find?_some (p := fun g : Group => g.is bid grp) hg
  unfold State.group? at hg ⊢
  rw [(lockResult_keeps s bid grp result status).2, List.find?_map]
  have hp : ((fun g : Group => g.is bid grp) ∘ fun (g : Group) => if g.is bid grp then g.answered result status else g) = fun g => g.is bid grp := by
    funext g
    by_cases h : g.is bid grp = true
    · simp [h, answered_is]
    · simp [h]
  rw [hp, hg, Option.map_some, if_pos his]

theorem group?_updGroup {s : State} {bid grp : Nat} {g : Group} {f : Group → Group} (h : s.group? bid grp = some g)
    (hf : ∀ g, (f g).is bid grp = g.is bid grp) : (s.updGroup bid grp f).group? bid grp = some (f g) :=
  (find?_updFirst (fun x hx => by rw [hf]; exact hx) s.groups).trans (congrArg (Option.map f) h)

/-! A grant. -/

theorem lockLine_locks (s : State) (bid line : Nat) : (s.lockLine bid line).locks = s.locks := by
  unfold State.lockLine
  dsimp only
  split
  · exact (((recall_serves s line).trans (l1Put_serves ..)).trans (mark_serves ..)).locks
  · exact (recall_serves s line).locks

/-- A group of this device that is granted a line holds it (R284). -/
theorem grant_here {s : State} {line : Nat} {e : LockEntry} {w : Waiter} (he : s.lockEntry? line = some e) (hw : w.vdn = none) :
    ∃ x, (s.grant line w).lockEntry? line = some x ∧ x.holder = some w.who ∧
      x.waiters = e.waiters.filter (fun x => !(x.who == w.who && x.vdn == w.vdn)) ∧ x.f = e.f ∧ x.hva = w.va ∧ x.hblk = w.blk ∧ x.hcls = w.cls := by
  unfold State.grant
  simp only [he, hw, Option.isNone_none, if_true]
  exact ⟨_, (lockEntry?_of_locks ((lockResult_keeps ..).1.trans (lockLine_locks ..))).trans (lockEntry?_updLock he fun _ => rfl),
    rfl, rfl, rfl, rfl, rfl, rfl⟩

/-! What the home does with a request. -/

section

variable {s : State} {f line : Nat} {w : Waiter} {tri : Bool}

theorem lockAsk_free (hn : s.lockEntry? line = none) (hf : s.entryFree f line = true) : ∃ e, e.line = line ∧ e.f = f ∧ e.waiters = [] ∧
    s.lockAsk f line w tri = ({ s with locks := s.locks ++ [e] }.grant line w, none) := by
  unfold State.lockAsk
  simp only [hn, hf, Bool.not_true, Bool.false_eq_true, if_false]
  exact ⟨_, rfl, rfl, rfl, rfl⟩

theorem lockAsk_full (hn : s.lockEntry? line = none) (hf : s.entryFree f line = false) :
    s.lockAsk f line w tri = (s.lockEvent f 5 w.who.grp (if tri then 0 else w.cls) w.blk w.va, some 4) := by
  unfold State.lockAsk
  simp only [hn, hf, Bool.not_false, if_true]

variable {e : LockEntry} {h : GroupRef} (he : s.lockEntry? line = some e) (hh : e.holder = some h)
include he hh

theorem lockAsk_queues : s.lockAsk f line w false = (s.updLock line fun e => { e with waiters := e.waiters ++ [w] }, none) := by
  unfold State.lockAsk
  simp only [he, hh, Option.isNone_some, Bool.false_eq_true, if_false]

theorem lockAsk_tries : s.lockAsk f line w true = (s, some 1) := by
  unfold State.lockAsk
  simp only [he, hh, Option.isNone_some, Bool.false_eq_true, if_false, if_true]

end

/-! A request. -/

/-- The waiter that a local group's request makes at its home (R288). -/
def State.asker (s : State) (bid grp : Nat) (r : LockReq) : Waiter :=
  s.waiter (s.envOf bid).f (s.own bid grp) none ((s.block? bid).elim 0 fun b => b.blk) r.va r.cls 0
    ((s.block? bid).any fun b => b.status != .running || !b.started)

/-- The state in which a group's request stands at its home. -/
def State.asking (s : State) (bid grp : Nat) (r : LockReq) : State :=
  s.updGroup bid grp fun g => { g with req := some { r with queued := true } }

section

variable {s s2 : State} {bid grp line : Nat} {g : Group} {r : LockReq}
variable (hg : s.group? bid grp = some g) (hreq : g.req = some r) (hline : r.tgt.line = some line) (hq : r.queued = false)
variable (hu : s.unreached (s.envOf bid).core true r.tgt = false)
include hg hreq hline hq hu

theorem lockRequestAtHome_refused {st : BitVec 4} (h : (s.asking bid grp r).lockAsk (s.envOf bid).f line (s.asker bid grp r) r.tri = (s2, some st)) :
    exec (.lockRequestAtHome bid grp) s = .next (s2.lockResult bid grp false st) := by
  show Host.Outcome.next (s.lockArrive bid grp) = _
  unfold State.asking State.asker at h
  unfold State.lockArrive
  simp only [hg, hreq, Option.bind_some, hline, hq, hu, Bool.or_false, Bool.false_eq_true, if_false, h]

theorem lockRequestAtHome_taken (h : (s.asking bid grp r).lockAsk (s.envOf bid).f line (s.asker bid grp r) r.tri = (s2, none)) :
    ∃ t, exec (.lockRequestAtHome bid grp) s = .next t ∧ t.locks = s2.locks := by
  refine ⟨s.lockArrive bid grp, rfl, ?_⟩
  unfold State.asking State.asker at h
  unfold State.lockArrive
  simp only [hg, hreq, Option.bind_some, hline, hq, hu, Bool.or_false, Bool.false_eq_true, if_false, h]
  split
  · exact (coreEvent_serves ..).locks
  · rfl

/-- A group whose request is refused holds what it held. -/
theorem lockRequestAtHome_denied {st : BitVec 4} (h : (s.asking bid grp r).lockAsk (s.envOf bid).f line (s.asker bid grp r) r.tri = (s2, some st))
    (hl : s2.locks = s.locks) (hgs : s2.groups = (s.asking bid grp r).groups) :
    ∃ t h, exec (.lockRequestAtHome bid grp) s = .next t ∧ t.locks = s.locks ∧ t.group? bid grp = some h ∧ h.req = none ∧ h.lastStat = st ∧
      h.held = g.held := by
  have hasks : (s.asking bid grp r).group? bid grp = some { g with req := some { r with queued := true } } :=
    group?_updGroup hg fun _ => rfl
  have hg2 : s2.group? bid grp = some { g with req := some { r with queued := true } } := by
    rw [← hasks]
    unfold State.group?
    rw [hgs]
  exact ⟨_, _, lockRequestAtHome_refused hg hreq hline hq hu h, (lockResult_keeps ..).1.trans hl, group?_lockResult hg2 false st, rfl, rfl, rfl⟩

theorem lockRequestAtHome_granted (hn : s.lockEntry? line = none) (hf : s.entryFree (s.envOf bid).f line = true) :
    ∃ t e, exec (.lockRequestAtHome bid grp) s = .next t ∧ t.lockEntry? line = some e ∧ e.holder = some (s.own bid grp) ∧ e.waiters = [] ∧
      e.f = (s.envOf bid).f ∧ e.hva = r.va ∧ e.hblk = ((s.block? bid).elim 0 fun b => b.blk) ∧ e.hcls = r.cls := by
  have hn' : (s.asking bid grp r).lockEntry? line = none := hn
  obtain ⟨e, hel, hef, hew, hask⟩ := lockAsk_free (s := s.asking bid grp r) (w := s.asker bid grp r) (tri := r.tri) hn' hf
  obtain ⟨t, ht, hl⟩ := lockRequestAtHome_taken hg hreq hline hq hu hask
  obtain ⟨x, hx, hho, hw, hf, hva, hblk, hcls⟩ := grant_here (w := s.asker bid grp r) (lockEntry?_append hn' hel) rfl
  rw [hew] at hw
  exact ⟨t, x, ht, (lockEntry?_of_locks hl).trans hx, hho, hw, hf.trans hef, hva, hblk, hcls⟩

theorem lockRequestAtHome_full (hn : s.lockEntry? line = none) (hf : s.entryFree (s.envOf bid).f line = false) :
    ∃ t h, exec (.lockRequestAtHome bid grp) s = .next t ∧ t.locks = s.locks ∧ t.group? bid grp = some h ∧ h.req = none ∧ h.lastStat = 4 ∧
      h.held = g.held :=
  lockRequestAtHome_denied hg hreq hline hq hu (lockAsk_full (s := s.asking bid grp r) hn hf) rfl rfl

variable {e : LockEntry} {h : GroupRef} (he : s.lockEntry? line = some e) (hh : e.holder = some h)
include he hh

theorem lockRequestAtHome_queues (ht : r.tri = false) : ∃ t, exec (.lockRequestAtHome bid grp) s = .next t ∧
    t.lockEntry? line = some { e with waiters := e.waiters ++ [s.asker bid grp r] } := by
  have he' : (s.asking bid grp r).lockEntry? line = some e := he
  obtain ⟨t, hexec, hl⟩ := lockRequestAtHome_taken hg hreq hline hq hu (by rw [ht]; exact lockAsk_queues he' hh)
  exact ⟨t, hexec, (lockEntry?_of_locks hl).trans (lockEntry?_updLock he' fun _ => rfl)⟩

theorem lockRequestAtHome_tries (ht : r.tri = true) : ∃ t h, exec (.lockRequestAtHome bid grp) s = .next t ∧ t.locks = s.locks ∧
    t.group? bid grp = some h ∧ h.req = none ∧ h.lastStat = 1 ∧ h.held = g.held :=
  lockRequestAtHome_denied hg hreq hline hq hu (s2 := s.asking bid grp r) (by rw [ht]; exact lockAsk_tries he hh) rfl rfl

end

end Sys2Proof.Machine

end

/-! # Hand-offs, timeouts and the hold limit of line locks (R259, R284, R288, R289, R293) -/

section

namespace Sys2Proof.Machine

/-! Words to other devices leave the locks as they are. -/

theorem seal_locks (s : State) (p : Packet) : (s.seal p).1.locks = s.locks := by
  have hbytes (s : State) (f m n : Nat) : (s.fabricBytes f m n).locks = s.locks := by
    unfold State.fabricBytes
    dsimp only
    split <;> rfl
  unfold State.seal
  dsimp only
  split
  · exact hbytes ..
  · exact hbytes s ..

theorem sendTo_locks (s : State) (handle f v : Nat) (body : Body) : (s.sendTo handle f v body).locks = s.locks := by
  unfold State.sendTo State.emit
  split
  · split
    · exact seal_locks ..
    · split <;> rfl
  · rfl

theorem lockAnswer_locks (s : State) (f : Nat) (w : Waiter) (a : Answer) : (s.lockAnswer f w a).locks = s.locks := by
  unfold State.lockAnswer
  split
  · exact sendTo_locks ..
  · rfl

/-- The entry whose queue a waiter has left (R288). -/
def LockEntry.without (w : Waiter) (e : LockEntry) : LockEntry :=
  { e with waiters := e.waiters.filter fun x => !(x.who == w.who && x.vdn == w.vdn) }

/-! Hand-offs (R284). -/

/-- The group whose `lunlock` of a line is due at the home. -/
def State.unlocker (s : State) (line : Nat) : Option Group :=
  s.groups.find? fun g => match g.unlocking with
    | some u => u.tgt.line == some line && s.unlockReady g u.before && !s.unreached (s.envOf g.bid).core false u.tgt
    | none => false

section

variable {s : State} {line : Nat} {e : LockEntry} (he : s.lockEntry? line = some e)

theorem handOff_unlocks {g : Group} {u : Unlocking} (hf : s.unlocker line = some g) (hu : g.unlocking = some u) :
    exec (.handOff line) s = .next (s.unlockAt line g u) := by
  show Host.Outcome.next (match s.unlocker line with
    | some g => (match g.unlocking with
      | some u => s.unlockAt line g u
      | none => s)
    | none => s.passLost line) = _
  simp only [hf, hu]

include he

theorem unlockAt_holder {g : Group} {u : Unlocking} (hh : e.heldHere (s.own g.bid g.idx) = true) (hl : e.losing = none) :
    s.unlockAt line g u = (s.unlocked g.bid g.idx u.va).handOffLine line false := by
  unfold State.unlockAt
  simp only [he, Option.any_some, hh, hl, Option.isNone_none, Bool.and_self, if_true]

theorem unlockAt_other {g : Group} {u : Unlocking} (hh : e.heldHere (s.own g.bid g.idx) = false) :
    s.unlockAt line g u = s.unlocked g.bid g.idx u.va := by
  unfold State.unlockAt
  simp only [he, Option.any_some, hh, Bool.false_and, Bool.false_eq_true, if_false]

theorem handOffLine_empty (hw : e.waiters = []) (lost : Bool) : s.handOffLine line lost = (s.updLock line fun e => { e with
    holder := none, hvdn := none, since := none, losing := none, lost := e.lost || lost, waiters := [] }).dropLock line := by
  unfold State.handOffLine
  simp only [he, hw, List.length_nil, skipAbsent]

theorem handOffLine_present {w : Waiter} {r : List Waiter} (hw : e.waiters = w :: r) (ha : w.absent = false) (lost : Bool) :
    s.handOffLine line lost = (s.updLock line fun e => { e with
      holder := none, hvdn := none, since := none, losing := none, lost := e.lost || lost, waiters := w :: r }).grant line w := by
  unfold State.handOffLine
  simp only [he, hw, List.length_cons, skipAbsent, ha, Bool.false_eq_true, if_false]

/-! Waiters whose time has come (R288). -/

variable {idx d : Nat} {w : Waiter} (hw : e.waiters[idx]? = some w) (hd : w.deadline = some d)
include hw hd

theorem waiterTimeout_early (h : s.clk < d ∨ s.turn ≠ 191) : exec (.waiterTimeout line idx) s = .next s := by
  show execWaiterTimeout line idx s = _
  unfold execWaiterTimeout
  simp only [he, hw, hd, Option.any_some]
  rw [if_pos]
  rcases h with h | h
  · simp [h]
  · simp [h]

theorem waiterTimeout_leaves (hclk : d ≤ s.clk) (ht : s.turn = 191) (hf : s.frozen e.f = false) (hh : e.holder.isSome = true) :
    ∃ t, exec (.waiterTimeout line idx) s = .next t ∧ t.lockEntry? line = some (e.without w) := by
  have hout : (s.updLock line (LockEntry.without w)).lockEntry? line = some (e.without w) := lockEntry?_updLock he fun _ => rfl
  have hkeep : (s.updLock line (LockEntry.without w)).freeEntry line = s.updLock line (LockEntry.without w) := by
    unfold State.freeEntry
    rw [hout]
    exact if_neg (by simp [LockEntry.without, Option.isSome_iff_ne_none.1 hh])
  let s2 := ((s.updLock line (LockEntry.without w)).freeEntry line).lockEvent e.f 1 w.who.grp w.cls w.blk w.va
  have hs2 : s2.locks = (s.updLock line (LockEntry.without w)).locks := by
    unfold s2
    rw [hkeep]
    rfl
  refine ⟨if w.vdn.isNone then s2.lockResult w.who.bid w.who.grp false 2 else s2.lockAnswer e.f w (.denied 2), ?_,
    (lockEntry?_of_locks ?_).trans hout⟩
  · show execWaiterTimeout line idx s = _
    unfold execWaiterTimeout
    simp only [he, hw, hd, Option.any_some]
    rw [if_neg (by simp [ht, hf, hclk])]
    rfl
  · split
    · exact (lockResult_keeps ..).1.trans hs2
    · exact (lockAnswer_locks ..).trans hs2

end

/-! The hold limit (R289, R293). -/

section

variable {s : State} {line c : Nat} {e : LockEntry} {h : GroupRef}
variable (he : s.lockEntry? line = some e) (hh : e.holder = some h) (hc : e.since = some c) (hf : s.frozen e.f = false)
include he hh hc hf

theorem holdLimitExpiry_within (hl : e.losing = none) (hlim : e.held + (s.clk - c) < e.limit) : exec (.holdLimitExpiry line) s = .next s := by
  show execHoldLimitExpiry line s = _
  unfold execHoldLimitExpiry
  simp only [he, hh, hc, hf, hl, Option.isSome_none, Bool.false_eq_true, if_false, if_pos hlim]

theorem holdLimitExpiry_here (hl : e.losing = none) (hlim : e.limit ≤ e.held + (s.clk - c)) (hv : e.hvdn = none) :
    exec (.holdLimitExpiry line) s = .next (((((s.lockEvent e.f 4 h.grp e.hcls e.hblk e.hva).updLock line fun e =>
      { e with since := none, losing := some s.nextId }).expire h.bid h.grp fun x => x.tgt.line == some line).passLost line)) := by
  show execHoldLimitExpiry line s = _
  unfold execHoldLimitExpiry
  simp only [he, hh, hc, hf, hl, hv, Option.isSome_none, Bool.false_eq_true, if_false, if_neg (Nat.not_lt.2 hlim)]
  rfl

theorem holdLimitExpiry_peer {v : Nat} (hl : e.losing = none) (hlim : e.limit ≤ e.held + (s.clk - c)) (hv : e.hvdn = some v) :
    exec (.holdLimitExpiry line) s = .next (((s.lockEvent e.f 4 h.grp e.hcls e.hblk e.hva).updLock line fun e =>
      { e with since := some s.clk, losing := some 0 }).sendTo 0 e.f v (.holdExpiry h e.hva)) := by
  show execHoldLimitExpiry line s = _
  unfold execHoldLimitExpiry
  simp only [he, hh, hc, hf, hl, hv, Option.isSome_none, Bool.false_eq_true, if_false, if_neg (Nat.not_lt.2 hlim)]
  rfl

theorem holdLimitExpiry_tells {v : Nat} (hl : e.losing ≠ none) (hv : e.hvdn = some v) : exec (.holdLimitExpiry line) s =
    .next (if s.clk < c + s.tlost e.f then s else (s.updLock line fun e => { e with since := some s.clk }).sendTo 0 e.f v (.holdExpiry h e.hva)) := by
  show execHoldLimitExpiry line s = _
  unfold execHoldLimitExpiry State.tellAgain
  simp only [he, hh, hc, hf, hv, Option.isSome_iff_ne_none.2 hl, Bool.false_eq_true, if_false, if_true]

end

/-! The word of a hold expiry (R259, R293). -/

section

variable {s : State} {bid grp : Nat} {va : VAddr} {g : Group} {x : Held}
variable (hg : ((s.groups ++ s.saved.flatMap fun x => x.groups).find? fun g => g.is bid grp) = some g)
variable (hx : (g.held.find? fun h => h.va == va && h.tgt.isPeer) = some x)
include hg hx

theorem holdExpiryMessage_unlocking (hu : (g.unlocking.any fun x => x.va == va) = true) :
    exec (.holdExpiryMessage bid grp va) s = .next (s.expire bid grp fun h => h.va == va && h.tgt.isPeer) := by
  show execHoldExpiryMessage bid grp va s = _
  unfold execHoldExpiryMessage
  simp only [hg, hx, hu, if_true]

theorem holdExpiryMessage_loses (hu : (g.unlocking.any fun x => x.va == va) = false) :
    let t := s.expire bid grp fun h => h.va == va && h.tgt.isPeer
    let u : Unlocking := { va, tgt := x.tgt, before := s.nextId, sent := false }
    let add (g : Group) : Group := if g.is bid grp then { g with losing := g.losing ++ [u] } else g
    exec (.holdExpiryMessage bid grp va) s = .next (if (t.group? bid grp).isNone && t.unlockReady g u.before then t.sendLost g u
      else { t with groups := t.groups.map add, saved := t.saved.map fun x => { x with groups := x.groups.map add } }) := by
  show execHoldExpiryMessage bid grp va s = _
  unfold execHoldExpiryMessage
  simp only [hg, hx, hu, Bool.false_eq_true, if_false]

end

end Sys2Proof.Machine

end

/-! # Entries of redundant pairs between instructions (R315 to R319) -/

section

namespace Sys2Proof.Machine

/-! A change of the thread that a key names. -/

theorem updFirst_congr_find {p : α → Bool} {f g : α → α} {l : List α} {x : α} (hx : l.find? p = some x) (h : f x = g x) :
    updFirst p f l = updFirst p g l := by
  induction l with
  | nil => rfl
  | cons y r ih =>
    unfold updFirst
    cases hy : p y with
    | true =>
      rw [List.find?_cons_of_pos hy] at hx
      rw [Option.some.inj hx, h, if_pos rfl, if_pos rfl]
    | false =>
      rw [List.find?_cons_of_neg (by simp [hy])] at hx
      rw [ih hx, if_neg Bool.false_ne_true, if_neg Bool.false_ne_true]

theorem updThread_congr_found {s : State} {k : ThreadKey} {t : Thread} {f g : Thread → Thread} (ht : s.thread? k = some t) (h : f t = g t) :
    s.updThread k f = s.updThread k g := by
  unfold State.updThread
  rw [updFirst_congr_find ht h]

/-! Two entries of one position (R315, R317). -/

/-- Whether a thread stands at an `exit`. -/
def State.atExit (s : State) (t : Thread) : Bool :=
  match s.fetchFor t with
  | .ok (.exit _) => true
  | _ => false

/-- What becomes of the entries of `t` and `u`, twins of which `l` is the leader's and `r` the trailing one's. -/
def State.meet (s : State) (l r t u : Thread) : State :=
  if t.sig != u.sig then s.mismatch l.bid t.grp (s.entryAt l)
  else if (s.atExit l || t.sigImp || t.sig.isEmpty) && s.olderEntry l then s
  else if t.sigImp && !s.level l r.bid then s
  else match s.takeBoth l r with
    | some o => o.getD s
    | none => (s.updThread t.key fun x => { x with wait := .matched }).updThread u.key fun x => { x with wait := .matched }

section

variable {s : State} {l r t u : Thread}

theorem meet_differs (h : t.sig ≠ u.sig) : s.meet l r t u = s.mismatch l.bid t.grp (s.entryAt l) := if_pos (by simpa using h)

/-- The leader's `exit` is an effect of both copies. -/
theorem atExit_of_takeBoth (h : s.takeBoth l r = none) : s.atExit l = false := by
  unfold State.atExit
  split
  · rename_i g hf
    unfold State.takeBoth at h
    rw [hf] at h
    cases h
  · rfl

theorem meet_matches (hs : t.sig = u.sig) (hb : s.takeBoth l r = none) (ho : t.sigImp = true ∨ t.sig = [] → s.olderEntry l = false)
    (hl : t.sigImp = true → s.level l r.bid = true) :
    s.meet l r t u = (s.updThread t.key fun x => { x with wait := .matched }).updThread u.key fun x => { x with wait := .matched } := by
  have hfirst : ¬((s.atExit l || t.sigImp || t.sig.isEmpty) && s.olderEntry l) = true := by
    rw [atExit_of_takeBoth hb, Bool.false_or, Bool.and_eq_true, Bool.or_eq_true, List.isEmpty_iff]
    exact fun ⟨h, hold⟩ => Bool.false_ne_true ((ho h).symm.trans hold)
  have hlevel : ¬(t.sigImp && !s.level l r.bid) = true := by
    rw [Bool.and_eq_true, Bool.not_eq_true']
    exact fun ⟨h, hno⟩ => Bool.false_ne_true (hno.symm.trans (hl h))
  unfold State.meet
  rw [if_neg (by simp [hs]), if_neg hfirst, if_neg hlevel, hb]

theorem meet_exit {g : BitVec 3} (hs : t.sig = u.sig) (hi : t.sigImp = false) (hf : s.fetchFor l = .ok (.exit g)) :
    s.meet l r t u = if s.olderEntry l then s else { s with threads := s.threads.filter fun x => x.key != l.key && x.key != r.key } := by
  have hexit : s.atExit l = true := by
    unfold State.atExit
    rw [hf]
  have hboth : s.takeBoth l r = some (some { s with threads := s.threads.filter fun x => x.key != l.key && x.key != r.key }) := by
    unfold State.takeBoth
    rw [hf]
  unfold State.meet
  rw [if_neg (by simp [hs]), hexit, hi, hboth]
  rfl

end

/-! The arrival of an entry, and the two instants of the compare buffer. -/

section

variable {s : State} {bid tid : Nat} {b : Block} {t u : Thread}
variable (hb : s.block? bid = some b) (ht : s.thread? { bid, tid } = some t)

include ht in
theorem lvqEntryArrival_arrives {x : LvqEntry} (hx : (t.lvq.find? fun e => !e.arrived) = some x) (hf : x.filled = true) :
    exec (.lvqEntryArrival bid tid) s =
      .next (s.updThread { bid, tid } fun t => { t with lvq := updFirst (fun e => !e.arrived) (fun e => { e with arrived := true }) t.lvq }) := by
  refine congrArg Host.Outcome.next (updThread_congr_found ht ?_)
  simp only [hx, hf, if_true]

include hb ht

/-- While an implicit checkpoint is under way, nothing is compared (R319). -/
theorem compare_committed (hc : s.committed b t = true) : exec (.compareEntryMatch bid tid) s = .next s := by
  show Host.Outcome.next (s.compare bid tid) = _
  unfold State.compare
  simp only [hb, ht]
  split
  · rw [if_pos (by simp [hc])]
  · rfl

theorem compareTimeout_committed (hc : s.committed b t = true) : exec (.compareTimeout bid tid) s = .next s := by
  show execCompareTimeout bid tid s = _
  unfold execCompareTimeout
  simp only [hb, ht]
  rw [if_neg (by simp [hc])]

theorem compareTimeout_late (hu : s.twinEntry b t = none) (hr : b.role = .lead) (hw : t.wait = .compare) (hs : t.sig ≠ [])
    (hc : s.committed b t = false) (hl : t.sigAt + 2 ^ 16 ≤ s.clk) :
    exec (.compareTimeout bid tid) s = .next (s.mismatch bid t.grp (s.entryAt t)) := by
  show execCompareTimeout bid tid s = _
  unfold execCompareTimeout
  simp only [hb, ht]
  rw [if_pos (by simp only [hr, hw, hu, hc, List.isEmpty_eq_false_iff.2 hs, hl]; decide)]

theorem compareTimeout_early (hl : s.clk < t.sigAt + 2 ^ 16) : exec (.compareTimeout bid tid) s = .next s := by
  show execCompareTimeout bid tid s = _
  unfold execCompareTimeout
  simp only [hb, ht]
  rw [if_neg (by simp only [Bool.and_eq_true, decide_eq_true_eq]; omega)]

theorem compareEntryMatch_meets (hu : s.twinEntry b t = some u) (hr : b.role ≠ .solo) (hw : t.wait = .compare) (hc : s.committed b t = false) :
    exec (.compareEntryMatch bid tid) s =
      .next (s.meet (if b.role = .lead then t else u) (if b.role = .lead then u else t) t u) := by
  show Host.Outcome.next (s.compare bid tid) = _
  unfold State.compare
  simp only [hb, ht, hu, hw, hc]
  cases hrole : b.role with
  | solo => exact absurd hrole hr
  | lead => rfl
  | trail => rfl

end

end Sys2Proof.Machine

open Sys2Proof.Machine in
/-- Settles O50, from what the home does with requests, hand-offs and deadlines, and what the compare buffer does with two entries. -/
theorem locksAndPairs : Obligations.LocksAndPairs := by
  refine ⟨fun s bid grp line g r hg hreq hline hq hu => ⟨lockRequestAtHome_granted hg hreq hline hq hu, lockRequestAtHome_full hg hreq hline hq hu,
    fun e h he hh => ⟨lockRequestAtHome_queues hg hreq hline hq hu he hh, lockRequestAtHome_tries hg hreq hline hq hu he hh⟩⟩,
    fun s line e he => ⟨fun g u hf hu => ?_, handOffLine_empty he, fun w r lost hw ha => handOffLine_present he hw ha lost,
      fun idx w d hw hd => ⟨waiterTimeout_early he hw hd, fun hclk ht hf hh => ?_⟩, fun h c hh hc hf => ?_⟩,
    fun s bid grp va g x hg hx => ⟨holdExpiryMessage_unlocking hg hx, fun hu => ?_⟩,
    fun s bid tid b t u hb ht => ⟨fun x => lvqEntryArrival_arrives ht, fun hc => ⟨compare_committed hb ht hc, compareTimeout_committed hb ht hc⟩,
      fun hu hr hw hc => ?_, fun hu hr hw hs hc => ⟨compareTimeout_late hb ht hu hr hw hs hc, compareTimeout_early hb ht⟩⟩⟩
  · have hpass := handOff_unlocks (line := line) hf hu
    exact ⟨fun hh hl => hpass.trans (congrArg _ (unlockAt_holder he hh hl)), fun hh => hpass.trans (congrArg _ (unlockAt_other he hh))⟩
  · obtain ⟨t, hexec, hentry⟩ := waiterTimeout_leaves he hw hd hclk ht hf hh
    exact ⟨t, e.without w, hexec, hentry, rfl, rfl⟩
  · refine ⟨holdLimitExpiry_within he hh hc hf, holdLimitExpiry_here he hh hc hf, fun v hv => ⟨fun hl hlim =>
      holdLimitExpiry_peer he hh hc hf hl hlim hv, fun hl hlt => ?_, fun hl hge => ?_⟩⟩
    · rw [holdLimitExpiry_tells he hh hc hf hl hv, if_pos hlt]
    · rw [holdLimitExpiry_tells he hh hc hf hl hv, if_neg (Nat.not_lt.2 hge)]
  · have hword := holdExpiryMessage_loses hg hx hu
    refine ⟨fun h => hword.trans (congrArg _ (if_neg ?_)), fun hnone hready => hword.trans (congrArg _ (if_pos ?_))⟩
    · rcases h with h | h
      · rw [Option.isNone_eq_false_iff.2 h]
        exact Bool.false_ne_true
      · rw [h, Bool.and_false]
        exact Bool.false_ne_true
    · rw [hready, Bool.and_true]
      simpa using hnone
  · have hmeet := compareEntryMatch_meets hb ht hu hr hw hc
    exact ⟨fun hs => hmeet.trans (congrArg _ (meet_differs hs)), fun hs hboth ho hl => hmeet.trans (congrArg _ (meet_matches hs hboth ho hl)),
      fun g hs hi hf => hmeet.trans (congrArg _ (meet_exit hs hi hf))⟩

end

/-! # Claims, gangs and status words (R183, R187, R194) -/

section

namespace Sys2Proof.Machine

/-! How a check of the model reads. -/

theorem failed {b : Bool} (h : b = false) : (!b) = true := by rw [h]; rfl

theorem not_failed {b : Bool} (h : b = true) : ¬ (!b) = true := by rw [h]; exact Bool.false_ne_true

/-! Claims (R183). -/

/-- Whether each named slot and tile is a group's to claim: free, or claimed by it already. -/
def State.claimable (s : State) (t : Thread) (x : Nat) : Prop :=
  ∀ n ∈ claimNames x, (s.core (s.envOf t.bid).core).claim n = .free ∨ (s.core (s.envOf t.bid).core).claim n = .claimed t.bid t.grp

/-- Whether each named slot and tile is claimed by the group. -/
def State.ownsAll (s : State) (t : Thread) (x : Nat) : Prop :=
  ∀ n ∈ claimNames x, (s.core (s.envOf t.bid).core).claim n = .claimed t.bid t.grp

theorem claimable_iff (s : State) (t : Thread) (x : Nat) : ((claimNames x).all fun n => (s.core (s.envOf t.bid).core).claim n == .free ||
    (s.core (s.envOf t.bid).core).claim n == .claimed t.bid t.grp) = true ↔ s.claimable t x := by
  simp [State.claimable]

theorem not_ownsAll_iff (s : State) (t : Thread) (x : Nat) :
    ((claimNames x).any fun n => (s.core (s.envOf t.bid).core).claim n != .claimed t.bid t.grp) = true ↔ ¬ s.ownsAll t x := by
  simp [State.ownsAll]

section

variable {g p : BitVec 3} {a : BitVec 7} {s : State} {k : ThreadKey} {t : Thread} {rest : List IssueSet} {x : Nat}
variable (hx : t.reg a.toNat = x)
include hx

/-- A claim word with other bits is illegal, for either instruction. -/
theorem claim_illegal {i : Instr} (hi : i ∈ [Instr.tclaim g p a, .trel g a]) (ha : s.Alone i k t rest) (hok : claimWordOk x = false) :
    exec i s = .next ((s.numbered.takeTrap k t.pc t.pc { cause := 1, addr := 0, aux := 0 }).endIssue rest) := by
  subst hx
  simp only [List.mem_cons, List.not_mem_nil, or_false] at hi
  obtain rfl | rfl := hi
  · show execTclaim g p a s = _
    exact inTurn_raises (x := plainTrap .illegalOp) ha (if_pos (failed hok))
  · show execTrel g a s = _
    exact inTurn_raises (x := plainTrap .illegalOp) ha (if_pos (failed hok))

variable (hok : claimWordOk x = true)
include hok

theorem claim_beyond {i : Instr} (hi : i ∈ [Instr.tclaim g p a, .trel g a]) (ha : s.Alone i k t rest)
    (hn : 64 < Sys2Proof.bits x 5 0 + Sys2Proof.bits x 13 8 + 1) :
    exec i s = .next ((s.numbered.takeTrap k t.pc t.pc { cause := 14, addr := 0, aux := 0 }).endIssue rest) := by
  subst hx
  simp only [List.mem_cons, List.not_mem_nil, or_false] at hi
  obtain rfl | rfl := hi
  · show execTclaim g p a s = _
    exact inTurn_raises (x := plainTrap .tileRange) ha ((if_neg (not_failed hok)).trans (if_pos hn))
  · show execTrel g a s = _
    exact inTurn_raises (x := plainTrap .tileRange) ha ((if_neg (not_failed hok)).trans (if_pos hn))

variable (hn : Sys2Proof.bits x 5 0 + Sys2Proof.bits x 13 8 + 1 ≤ 64)
include hn

theorem tclaim_claims (ha : s.Alone (.tclaim g p a) k t rest) (hf : s.claimable t x) : exec (.tclaim g p a) s =
    .next (((s.numbered.setCore (s.envOf t.bid).core ((s.core (s.envOf t.bid).core).setClaims (claimNames x) (.claimed t.bid t.grp))).updThread k
      fun t => (t.setPred p.toNat true).next 4).endIssue rest) := by
  obtain rfl := ha.key
  subst hx
  have hall := (claimable_iff s.numbered t (t.reg a.toNat)).2 hf
  show execTclaim g p a s = _
  refine inTurn_done rfl ha ((if_neg (not_failed hok)).trans ((if_neg (Nat.not_lt.2 hn)).trans ?_)) rfl
  dsimp only
  rw [hall]
  rfl

theorem tclaim_refuses (ha : s.Alone (.tclaim g p a) k t rest) (hf : ¬ s.claimable t x) : exec (.tclaim g p a) s =
    .next ((s.numbered.updThread k fun t => (t.setPred p.toNat false).next 4).endIssue rest) := by
  obtain rfl := ha.key
  subst hx
  have hall := Bool.eq_false_iff.2 (mt (claimable_iff s.numbered t (t.reg a.toNat)).1 hf)
  show execTclaim g p a s = _
  refine inTurn_done rfl ha ((if_neg (not_failed hok)).trans ((if_neg (Nat.not_lt.2 hn)).trans ?_)) rfl
  dsimp only
  rw [hall]
  rfl

theorem trel_releases (ha : s.Alone (.trel g a) k t rest) (hh : s.ownsAll t x) : exec (.trel g a) s =
    .next ((((s.numbered.setCore (s.envOf t.bid).core ((s.core (s.envOf t.bid).core).setClaims (claimNames x)
      (.pending t.bid t.grp (s.nextId + 1)))).settleClaims (s.envOf t.bid).core).updThread k fun t => t.next 4).endIssue rest) := by
  obtain rfl := ha.key
  subst hx
  have hmine := mt (not_ownsAll_iff s.numbered t (t.reg a.toNat)).1 (not_not.2 hh)
  show execTrel g a s = _
  exact inTurn_done rfl ha ((if_neg (not_failed hok)).trans ((if_neg (Nat.not_lt.2 hn)).trans (if_neg hmine))) rfl

theorem trel_traps (ha : s.Alone (.trel g a) k t rest) (hh : ¬ s.ownsAll t x) : exec (.trel g a) s =
    .next ((s.numbered.takeTrap k t.pc t.pc { cause := 13, addr := 0, aux := 0 }).endIssue rest) := by
  subst hx
  show execTrel g a s = _
  exact inTurn_raises (x := plainTrap .slotNotClaimed) ha ((if_neg (not_failed hok)).trans ((if_neg (Nat.not_lt.2 hn)).trans
    (if_pos ((not_ownsAll_iff s.numbered t (t.reg a.toNat)).2 hh))))

end

/-! Gangs (R187). -/

/-- A gang register's value for a group: none, or two to six groups with the group among them. -/
def gangFits (x grp : Nat) : Prop :=
  x = 0 ∨ (2 ≤ ((List.range 16).filter fun j => Sys2Proof.bit x j).length ∧ ((List.range 16).filter fun j => Sys2Proof.bit x j).length ≤ 6 ∧
    Sys2Proof.bit x grp = true)

theorem not_gangFits_iff (x grp : Nat) : (decide (x ≠ 0) && (decide (((List.range 16).filter fun j => Sys2Proof.bit x j).length < 2) ||
    decide (6 < ((List.range 16).filter fun j => Sys2Proof.bit x j).length) || !Sys2Proof.bit x grp)) = true ↔ ¬ gangFits x grp := by
  unfold gangFits
  simp only [Bool.and_eq_true, Bool.or_eq_true, Bool.not_eq_true', decide_eq_true_eq, not_or, not_and_or, not_le, Bool.not_eq_true, or_assoc,
    ne_eq]

section

variable {g : BitVec 3} {a : BitVec 7} {s : State} {k : ThreadKey} {t : Thread} {rest : List IssueSet} {x : Nat}
variable (ha : s.Alone (.gang g a) k t rest) (hx : t.reg a.toNat = x)
include ha hx

theorem gang_illegal (h : 2 ^ 16 ≤ x) : exec (.gang g a) s =
    .next ((s.numbered.takeTrap k t.pc t.pc { cause := 1, addr := 0, aux := 0 }).endIssue rest) := by
  subst hx
  show execGang g a s = _
  exact inTurn_raises (x := plainTrap .illegalOp) ha (if_pos (by omega))

variable (h16 : x < 2 ^ 16)
include h16

theorem gang_sets (h : gangFits x t.grp) : exec (.gang g a) s =
    .next (((s.numbered.updGroup t.bid t.grp fun g => { g with gang := BitVec.ofNat 16 x }).updThread k fun t => t.next 4).endIssue rest) := by
  obtain rfl := ha.key
  subst hx
  show execGang g a s = _
  exact inTurn_done rfl ha ((if_neg (by omega)).trans (if_neg (mt (not_gangFits_iff _ t.grp).1 (not_not.2 h)))) rfl

theorem gang_mismatch (h : ¬ gangFits x t.grp) : exec (.gang g a) s =
    .next ((s.numbered.takeTrap k t.pc t.pc { cause := 15, addr := 0, aux := 0 }).endIssue rest) := by
  subst hx
  show execGang g a s = _
  exact inTurn_raises (x := plainTrap .gangMismatch) ha ((if_neg (by omega)).trans (if_pos ((not_gangFits_iff _ t.grp).2 h)))

end

/-! Status words (R194). -/

/-- The status word that `mstat` reads. -/
def Group.statusWord (gr : Group) (w : BitVec 1) : Nat := if w = 0 then gr.mstat.toNat else gr.cstat.toNat + 256 * gr.mcastDrop

/-- What `mstat` clears once it has read. -/
def State.clearStatus (s : State) (bid grp : Nat) (x w : BitVec 1) : State :=
  if x = 0 then s
  else if w = 0 then s.updGroup bid grp fun g => { g with mstat := 0 }
  else s.updGroup bid grp fun g => { g with cstat := 0, mcastDrop := 0 }

theorem clearStatus_blocks (s : State) (bid grp : Nat) (x w : BitVec 1) : (s.clearStatus bid grp x w).blocks = s.blocks := by
  unfold State.clearStatus
  split
  · rfl
  · split <;> rfl

theorem mstat_reads {g : BitVec 3} {d : BitVec 7} {x w : BitVec 1} {s : State} {k : ThreadKey} {t : Thread} {rest : List IssueSet} {gr : Group}
    (ha : s.Alone (.mstat g d x w) k t rest) (hg : s.group? t.bid t.grp = some gr) : exec (.mstat g d x w) s =
      .next (((s.numbered.clearStatus t.bid t.grp x w).updThread k fun t => (t.setReg d.toNat (gr.statusWord w)).next 4).endIssue rest) := by
  obtain rfl := ha.key
  have hg' : s.numbered.group? t.bid t.grp = some gr := hg
  show execMstat g d x w s = _
  refine inTurn_done rfl ha ?_ (clearStatus_blocks s.numbered ..)
  rw [hg']
  rfl

end Sys2Proof.Machine

open Sys2Proof.Machine in
/-- Settles O28: claims by their word and then by what the core's slots and tiles are, `gang` by its value, `mstat` by the word it selects. -/
theorem claimsAndStatus : Obligations.ClaimsAndStatus := by
  refine ⟨fun g p a s k t rest hok hn => ⟨fun ha hf => tclaim_claims rfl hok hn ha hf, fun ha hf => tclaim_refuses rfl hok hn ha hf,
      fun ha hh => trel_releases rfl hok hn ha hh, fun ha hh => trel_traps rfl hok hn ha hh⟩,
    fun g p a s k t rest i hi ha => ⟨fun hok => claim_illegal rfl hi ha hok, fun hok hn => claim_beyond rfl hok hi ha hn⟩,
    fun g a s k t rest ha => ⟨fun h16 h => gang_sets ha rfl h16 h, fun h16 h => gang_mismatch ha rfl h16 h, fun h => gang_illegal ha rfl h⟩,
    fun g d x w s k t rest gr ha hg => mstat_reads ha hg⟩

end

/-! # Fabric windows at the instructions (R196, R198, R199, R201) -/

section

namespace Sys2Proof.Machine

section

variable {g p : BitVec 3} {d : BitVec 7} {s : State} {k : ThreadKey} {t : Thread} {rest : List IssueSet}

/-! Opening and freeing (R196). -/

theorem fwopen_opens (ha : s.Alone (.fwopen g d p) k t rest) (hw : (s.window (s.envOf t.bid).f d.toNat).st = .free) :
    exec (.fwopen g d p) s = .next (((s.numbered.setWindow (s.envOf t.bid).f d.toNat
      { Window.reset with st := .open, inc := (s.window (s.envOf t.bid).f d.toNat).inc + 1 }).updThread k
        fun t => (t.setPred p.toNat true).next 4).endIssue rest) := by
  obtain rfl := ha.key
  show execFwopen g d p s = _
  exact inTurn_done rfl ha (if_pos hw) rfl

theorem fwopen_refuses (ha : s.Alone (.fwopen g d p) k t rest) (hw : (s.window (s.envOf t.bid).f d.toNat).st ≠ .free) :
    exec (.fwopen g d p) s = .next ((s.numbered.updThread k fun t => (t.setPred p.toNat false).next 4).endIssue rest) := by
  obtain rfl := ha.key
  show execFwopen g d p s = _
  exact inTurn_done rfl ha (if_neg hw) rfl

/-- A window that stands free, or whose close is pending, is not freed. -/
def Window.unfreeable (w : Window) : Prop := w.st = .free ∨ w.st = .closing

theorem unfreeable_iff (w : Window) : (decide (w.st = .free) || decide (w.st = .closing)) = true ↔ w.unfreeable := by
  simp [Window.unfreeable]

theorem not_unfreeable {w : Window} (h : w.st = .open ∨ w.st = .failed) : ¬ w.unfreeable := by
  unfold Window.unfreeable
  rcases h with h | h <;> simp [h]

theorem fwopenFree_frees (ha : s.Alone (.fwopenFree g d) k t rest) (hw : ¬ (s.window (s.envOf t.bid).f d.toNat).unfreeable) :
    exec (.fwopenFree g d) s = .next (((s.numbered.setWindow (s.envOf t.bid).f d.toNat { Window.reset with
      inc := (s.window (s.envOf t.bid).f d.toNat).inc, epoch := (s.window (s.envOf t.bid).f d.toNat).epoch }).updThread k
        fun t => t.next 4).endIssue rest) := by
  obtain rfl := ha.key
  show execFwopenFree g d s = _
  exact inTurn_done rfl ha (if_neg (mt (unfreeable_iff _).1 hw)) rfl

theorem fwopenFree_traps (ha : s.Alone (.fwopenFree g d) k t rest) (hw : (s.window (s.envOf t.bid).f d.toNat).unfreeable) :
    exec (.fwopenFree g d) s = .next ((s.numbered.takeTrap k t.pc t.pc { cause := 18, addr := 0, aux := 0 }).endIssue rest) := by
  show execFwopenFree g d s = _
  exact inTurn_raises (x := plainTrap .windowState) ha (if_pos ((unfreeable_iff _).2 hw))

end

/-! Closing (R198). -/

/-- A window whose epoch ends, before the close waits for its targets. -/
def Window.nextEpoch (w : Window) : Window := { w with epoch := w.epoch + 1, counts := [], closing := w.epoch }

/-- The targets from which a close awaits a release. -/
def Window.pends (w : Window) : List Pend := w.targets.map fun v => { vdn := v, count := w.sent v, r := 0, resends := 0, deadline := 0 }

theorem pends_isEmpty (w : Window) : w.pends.isEmpty = w.targets.isEmpty := List.isEmpty_map

section

variable {g : BitVec 3} {sc : BitVec 2} {w : BitVec 5} {a b : BitVec 7} {s : State} {k : ThreadKey} {t : Thread} {rest : List IssueSet}
  {win : Window}
variable (ha : s.Alone (.fwclose g sc w a b) k t rest) (hwin : s.window (s.envOf t.bid).f w.toNat = win)
include ha hwin

theorem fwclose_state (h : win.st ≠ .open) : exec (.fwclose g sc w a b) s =
    .next ((s.numbered.takeTrap k t.pc t.pc { cause := 18, addr := t.addr a.toNat, aux := 0 }).endIssue rest) := by
  subst hwin
  show execFwclose g sc w a b s = _
  exact inTurn_raises (x := addrTrap .windowState (t.addr a.toNat)) ha (if_pos (bne_iff_ne.2 h))

variable (ho : win.st = .open)
include ho

theorem fwclose_misaligned (h : (t.addr a.toNat).toNat % 4 ≠ 0) : exec (.fwclose g sc w a b) s =
    .next ((s.numbered.takeTrap k t.pc t.pc { cause := 3, addr := t.addr a.toNat, aux := 0 }).endIssue rest) := by
  subst hwin
  show execFwclose g sc w a b s = _
  exact inTurn_raises (x := addrTrap .misaligned (t.addr a.toNat)) ha ((if_neg (mt bne_iff_ne.1 (not_not.2 ho))).trans (if_pos h))

variable (h4 : (t.addr a.toNat).toNat % 4 = 0)
include h4

/-- A close that awaits targets needs an own VDN (R298). -/
theorem fwclose_vdn (ht : win.targets ≠ []) (hv : s.ownVdn (s.envOf t.bid).f = none) : exec (.fwclose g sc w a b) s =
    .next ((s.numbered.takeTrap k t.pc t.pc { cause := 21, addr := t.addr a.toNat, aux := 0 }).endIssue rest) := by
  subst hwin
  have hno : (!(s.window (s.envOf t.bid).f w.toNat).targets.isEmpty && (s.ownVdn (s.envOf t.bid).f).isNone) = true := by
    simp [hv, ht]
  show execFwclose g sc w a b s = _
  exact inTurn_raises (x := addrTrap .vdnInvalid (t.addr a.toNat)) ha
    ((if_neg (mt bne_iff_ne.1 (not_not.2 ho))).trans ((if_neg (not_not.2 h4)).trans (if_pos hno)))

/-- Past its checks a close advances the epoch, and waits for the targets if there are any. -/
theorem fwclose_closes (hv : win.targets = [] ∨ s.ownVdn (s.envOf t.bid).f ≠ none) : exec (.fwclose g sc w a b) s =
    .next (((s.numbered.setWindow (s.envOf t.bid).f w.toNat (if win.pends.isEmpty then win.nextEpoch.free win.epoch.toNat else
      { win.nextEpoch with st := .closing, pending := win.pends, closer := some {
          handle := s.handleOf t.bid, key := k, lid := (s.block? t.bid).elim 0 fun b => b.lid, pc := t.pc, flag := t.addr a.toNat,
          value := BitVec.ofNat 32 (t.reg b.toNat), scope := closeScope sc.toNat, before := s.nextId + 1, grp := t.grp, sent := false } })).updThread k
        fun t => t.next 4).endIssue rest) := by
  obtain rfl := ha.key
  subst hwin
  have hno : ¬ (!(s.window (s.envOf t.bid).f w.toNat).targets.isEmpty && (s.ownVdn (s.envOf t.bid).f).isNone) = true := by
    rcases hv with hv | hv <;> simp [hv]
  show execFwclose g sc w a b s = _
  exact inTurn_done rfl ha ((if_neg (mt bne_iff_ne.1 (not_not.2 ho))).trans ((if_neg (not_not.2 h4)).trans (if_neg hno))) rfl

end

/-! The status word and the VDN table (R199, R201). -/

section

variable {g : BitVec 3} {d a : BitVec 7} {w : BitVec 5} {s : State} {k : ThreadKey} {t : Thread} {rest : List IssueSet}

theorem fwstat_reads (ha : s.Alone (.fwstat g d w) k t rest) : exec (.fwstat g d w) s =
    .next ((s.numbered.updThread k fun u => (u.setReg d.toNat (s.window (s.envOf t.bid).f w.toNat).status).next 4).endIssue rest) := by
  obtain rfl := ha.key
  show execFwstat g d w s = _
  exact inTurn_done rfl ha rfl rfl

theorem vdnq_reads (ha : s.Alone (.vdnq g d a) k t rest) {f e : Nat} (hf : (s.envOf t.bid).f = f) (he : s.vdne f (t.reg a.toNat % 64) = e) :
    exec (.vdnq g d a) s = .next ((s.numbered.updThread k fun u =>
      (u.setReg d.toNat (Sys2Proof.ofBool (s.vdnSelf f e) * 2 ^ 16 + Sys2Proof.bits e 15 8 * 2 ^ 8 + e % 4)).next 4).endIssue rest) := by
  obtain rfl := ha.key
  subst hf he
  show execVdnq g d a s = _
  exact inTurn_done rfl ha rfl rfl

end

end Sys2Proof.Machine

open Sys2Proof.Machine in
/-- Settles O32, by the state of the window, and for a close by its checks in their order and by whether it has targets. -/
theorem fabricWindows : Obligations.FabricWindows := by
  refine ⟨fun g p d s k t rest => ⟨fun ha hw => fwopen_opens ha hw, fun ha hw => fwopen_refuses ha hw,
      fun ha hw => fwopenFree_frees ha (not_unfreeable hw), fun ha hw => fwopenFree_traps ha hw⟩,
    fun g sc w a b s k t rest ha => ⟨fun ho h4 ht hv => fwclose_vdn ha rfl ho h4 ht hv, fun ho h4 ht hv bl hb => ?waits,
      fun ho h4 ht => ?ends, fun h => fwclose_state ha rfl h, fun ho h => fwclose_misaligned ha rfl ho h⟩,
    fun g d w s k t rest ha => fwstat_reads ha, fun g d a s k t rest ha => vdnq_reads ha rfl rfl⟩
  case waits =>
    obtain ⟨v, hv⟩ := hv
    rw [fwclose_closes ha rfl ho h4 (.inr (by rw [hv]; exact nofun)), pends_isEmpty, if_neg (by simpa using ht), hb]
    rfl
  case ends =>
    rw [fwclose_closes ha rfl ho h4 (.inl ht), pends_isEmpty, if_pos (List.isEmpty_iff.2 ht)]
    rfl

end

/-! # System registers, meters, counters and the lock log (R206, R208, R295) -/

section

namespace Sys2Proof.Machine

/-- One thread's issue of an instruction without a counter, whose state may hold other blocks than before (R84). -/
theorem inTurn_uncounted {i : Instr} {s s2 : State} {k : ThreadKey} {t : Thread} {rest : List IssueSet} {f : Nat → State → Thread → TRes}
    (hc : i.counter = none) (ha : s.Alone i k t rest) (hf : f s.nextId s.numbered t = .ok s2) (h2 : s2.Solo t.bid) :
    s.inTurn i f = .next (s2.endIssue rest) := by
  rw [inTurn_ok ha hf h2, counted_of_none hc]

/-! System registers (R206). -/

section

variable {g : BitVec 3} {d a : BitVec 7} {s : State} {k : ThreadKey} {t : Thread} {rest : List IssueSet} {die part : Nat}
variable (hp : s.placeOf t.bid = (die, part))

section

include hp

theorem srd_reads (ha : s.Alone (.srd g d a) k t rest) {v : Word} (hv : s.sread (t.reg a.toNat) die part = some v) :
    exec (.srd g d a) s = .next ((s.numbered.updThread k fun t => (t.setReg d.toNat v.toNat).next 4).endIssue rest) := by
  obtain rfl := ha.key
  have hp' : s.numbered.placeOf t.bid = (die, part) := hp
  have hv' : s.numbered.sread (t.reg a.toNat) die part = some v := hv
  show execSrd g d a s = _
  refine inTurn_done rfl ha ?_ rfl
  rw [hp']
  dsimp only
  rw [hv']

theorem srd_denied (ha : s.Alone (.srd g d a) k t rest) (hv : s.sread (t.reg a.toNat) die part = none) :
    exec (.srd g d a) s = .next ((s.numbered.takeTrap k t.pc t.pc { cause := 6, addr := 0, aux := 0 }).endIssue rest) := by
  have hp' : s.numbered.placeOf t.bid = (die, part) := hp
  have hv' : s.numbered.sread (t.reg a.toNat) die part = none := hv
  show execSrd g d a s = _
  refine inTurn_raises (x := plainTrap .accessDenied) ha ?_
  rw [hp']
  dsimp only
  rw [hv']

/-- The write comes after the thread has moved on. -/
theorem swr_writes (ha : s.Alone (.swr g d a) k t rest) (ho : sysOpen (t.reg d.toNat) = true) {s2 : State}
    (hw : (s.numbered.updThread k fun t => t.next 4).swrite (t.reg d.toNat) (BitVec.ofNat 32 (t.reg a.toNat)) die part = s2)
    (h2 : s2.Solo t.bid) : exec (.swr g d a) s = .next (s2.endIssue rest) := by
  obtain rfl := ha.key
  have hp' : s.numbered.placeOf t.bid = (die, part) := hp
  show execSwr g d a s = _
  refine inTurn_uncounted rfl ha ?_ h2
  rw [hp']
  exact (if_neg (not_failed ho)).trans (congrArg _ hw)

end

theorem swr_denied (ha : s.Alone (.swr g d a) k t rest) (ho : sysOpen (t.reg d.toNat) = false) :
    exec (.swr g d a) s = .next ((s.numbered.takeTrap k t.pc t.pc { cause := 6, addr := 0, aux := 0 }).endIssue rest) := by
  show execSwr g d a s = _
  exact inTurn_raises (x := plainTrap .accessDenied) ha (if_pos (failed ho))

end

/-- PLTOL of each function is open, and takes 16 bits (R416). -/
theorem sysOpen_pltol {n : Nat} (hl : 0x0C10 ≤ n) (hh : n ≤ 0x0C18) : sysOpen n = true := by
  simp [sysOpen, hl, hh]

theorem swrite_pltol (s : State) {n : Nat} (hl : 0x0C10 ≤ n) (hh : n ≤ 0x0C18) (v : Word) (die part : Nat) :
    s.swrite n v die part = s.setSys n (BitVec.ofNat 32 (v.toNat % 65536)) := by
  obtain ⟨j, hj, rfl⟩ : ∃ j, j < 9 ∧ n = 0x0C10 + j := ⟨n - 0x0C10, by omega, by omega⟩
  interval_cases j <;> rfl

/-! Meters and counters (R208, R438 to R440). -/

section

variable {g : BitVec 3} {d a : BitVec 7} {s : State} {k : ThreadKey} {t : Thread} {rest : List IssueSet}

theorem bits_low_nibble (x : Nat) : Sys2Proof.bits x 3 0 = x % 16 := congrArg (· % 16) (Nat.div_one x)

theorem bits_high_nibble (x : Nat) : Sys2Proof.bits x 7 4 = x / 16 % 16 := rfl

/-- A meter selector names one of 11 meters of one of nine owners. -/
theorem meterSelector_bad_iff (x : Nat) : (decide (x / 256 ≠ 0) || decide (11 ≤ Sys2Proof.bits x 3 0) || decide (9 ≤ Sys2Proof.bits x 7 4)) = true ↔
    ¬ (x < 256 ∧ x % 16 < 11 ∧ x / 16 < 9) := by
  rw [bits_low_nibble, bits_high_nibble]
  simp only [Bool.or_eq_true, decide_eq_true_eq]
  omega

theorem mtrd_reads (ha : s.Alone (.mtrd g d a) k t rest) {x : Nat} (hx : t.reg a.toNat = x) (h : x < 256 ∧ x % 16 < 11 ∧ x / 16 < 9) :
    exec (.mtrd g d a) s = .next ((s.numbered.updThread k fun u => (u.setPair d.toNat (Tab.get (fun _ => (0 : BitVec 64)) s.meters
      (16 * (if x / 16 = 8 then 8 + (s.placeOf t.bid).2 else x / 16) + x % 16)).toNat).next 4).endIssue rest) := by
  obtain rfl := ha.key
  subst hx
  have ho : t.reg a.toNat / 16 % 16 = t.reg a.toNat / 16 := Nat.mod_eq_of_lt (by omega)
  show execMtrd g d a s = _
  refine inTurn_done rfl ha ((if_neg (mt (meterSelector_bad_iff _).1 (not_not.2 h))).trans ?_) rfl
  rw [bits_low_nibble, bits_high_nibble, ho]
  rfl

theorem mtrd_traps (ha : s.Alone (.mtrd g d a) k t rest)
    (h : ¬ (t.reg a.toNat < 256 ∧ t.reg a.toNat % 16 < 11 ∧ t.reg a.toNat / 16 < 9)) :
    exec (.mtrd g d a) s = .next ((s.numbered.takeTrap k t.pc t.pc { cause := 1, addr := 0, aux := 0 }).endIssue rest) := by
  show execMtrd g d a s = _
  exact inTurn_raises (x := plainTrap .illegalOp) ha (if_pos ((meterSelector_bad_iff _).2 h))

theorem evScope_core {n x : Nat} (hn : n < 16) : evScope n x = decide (x ≤ 15) := by
  unfold evScope
  rw [if_pos hn]
  rcases Nat.eq_zero_or_pos x with rfl | hx
  · rfl
  · simp [hx.ne']

theorem evScope_die {n x : Nat} (hn : 16 ≤ n) : evScope n x = decide (x = 0 ∨ 32 ≤ x ∧ x ≤ 40) := by
  unfold evScope
  rw [if_neg (Nat.not_lt.2 hn)]
  simp [beq_eq_decide]

/-- A counter and a source outside its scope (R439). -/
theorem evcfg_bad_iff (n x : Nat) : (decide (48 ≤ n) || !evScope n x) = true ↔
    48 ≤ n ∨ (n < 16 ∧ 15 < x) ∨ (16 ≤ n ∧ x ≠ 0 ∧ ¬ (32 ≤ x ∧ x ≤ 40)) := by
  rw [Bool.or_eq_true, decide_eq_true_iff, Bool.not_eq_true']
  rcases Nat.lt_or_ge n 16 with hn | hn
  · rw [evScope_core hn, decide_eq_false_iff_not]
    omega
  · rw [evScope_die hn, decide_eq_false_iff_not]
    omega

theorem evcfg_traps (ha : s.Alone (.evcfg g d a) k t rest) (h : 48 ≤ t.reg d.toNat ∨ (t.reg d.toNat < 16 ∧ 15 < t.reg a.toNat) ∨
      (16 ≤ t.reg d.toNat ∧ t.reg a.toNat ≠ 0 ∧ ¬ (32 ≤ t.reg a.toNat ∧ t.reg a.toNat ≤ 40))) :
    exec (.evcfg g d a) s = .next ((s.numbered.takeTrap k t.pc t.pc { cause := 1, addr := 0, aux := 0 }).endIssue rest) := by
  show execEvcfg g d a s = _
  exact inTurn_raises (x := plainTrap .illegalOp) ha (if_pos ((evcfg_bad_iff _ _).2 h))

theorem evcfg_core (ha : s.Alone (.evcfg g d a) k t rest) (hn : t.reg d.toNat < 16) (hx : t.reg a.toNat ≤ 15) {c : Core}
    (hc : s.core (s.envOf t.bid).core = c) : exec (.evcfg g d a) s = .next (((s.numbered.setCore (s.envOf t.bid).core { c with
      evSrc := Tab.set (fun _ => 0) c.evSrc (t.reg d.toNat) (t.reg a.toNat), evCnt := Tab.set (fun _ => 0) c.evCnt (t.reg d.toNat) 0 }).updThread k
        fun t => t.next 4).endIssue rest) := by
  obtain rfl := ha.key
  subst hc
  show execEvcfg g d a s = _
  refine inTurn_done rfl ha ((if_neg (mt (evcfg_bad_iff _ _).1 (by omega))).trans ?_) rfl
  dsimp only
  rw [if_pos hn]
  rfl

theorem evcfg_die (ha : s.Alone (.evcfg g d a) k t rest) (hl : 16 ≤ t.reg d.toNat) (hh : t.reg d.toNat < 48)
    (hx : t.reg a.toNat = 0 ∨ (32 ≤ t.reg a.toNat ∧ t.reg a.toNat ≤ 40)) {c : Die} (hc : s.die (dieOf (s.envOf t.bid).core) = c) :
    exec (.evcfg g d a) s = .next (((s.numbered.setDie (dieOf (s.envOf t.bid).core) { c with
      evSrc := Tab.set (fun _ => 0) c.evSrc (t.reg d.toNat - 16) (t.reg a.toNat),
      evCnt := Tab.set (fun _ => 0) c.evCnt (t.reg d.toNat - 16) 0 }).updThread k fun t => t.next 4).endIssue rest) := by
  obtain rfl := ha.key
  subst hc
  show execEvcfg g d a s = _
  refine inTurn_done rfl ha ((if_neg (mt (evcfg_bad_iff _ _).1 (by omega))).trans ?_) rfl
  dsimp only
  rw [if_neg (Nat.not_lt.2 hl)]
  rfl

theorem evrd_traps (ha : s.Alone (.evrd g d a) k t rest) (h : 48 ≤ t.reg a.toNat) :
    exec (.evrd g d a) s = .next ((s.numbered.takeTrap k t.pc t.pc { cause := 1, addr := 0, aux := 0 }).endIssue rest) := by
  show execEvrd g d a s = _
  exact inTurn_raises (x := plainTrap .illegalOp) ha (if_pos h)

theorem evrd_core (ha : s.Alone (.evrd g d a) k t rest) (h : t.reg a.toNat < 16) : exec (.evrd g d a) s =
    .next ((s.numbered.updThread k fun u => (u.setPair d.toNat
      (Tab.get (fun _ => (0 : BitVec 64)) (s.core (s.envOf t.bid).core).evCnt (t.reg a.toNat)).toNat).next 4).endIssue rest) := by
  obtain rfl := ha.key
  show execEvrd g d a s = _
  refine inTurn_done rfl ha ((if_neg (by omega)).trans ?_) rfl
  dsimp only
  rw [if_pos h]
  rfl

/-- A user reads a die's counter where one function is active in the partition (R438). -/
theorem evrd_die (ha : s.Alone (.evrd g d a) k t rest) (hl : 16 ≤ t.reg a.toNat) (hh : t.reg a.toNat < 48) : exec (.evrd g d a) s =
    .next ((s.numbered.updThread k fun u => (u.setPair d.toNat
      (if s.levelOf t.bid = .user ∧ (s.active (s.placeOf t.bid).2).length ≠ 1 then 0
        else (Tab.get (fun _ => (0 : BitVec 64)) (s.die (s.placeOf t.bid).1).evCnt (t.reg a.toNat - 16)).toNat)).next 4).endIssue rest) := by
  obtain rfl := ha.key
  show execEvrd g d a s = _
  refine inTurn_done rfl ha ((if_neg (Nat.not_le.2 hh)).trans ?_) rfl
  dsimp only
  rw [if_neg (Nat.not_lt.2 hl)]
  simp only [Bool.and_eq_true, beq_iff_eq, bne_iff_ne]
  rfl

/-! The lock log (R295). -/

theorem lklog_traps (ha : s.Alone (.lklog g d a) k t rest) (h : 64 ≤ t.reg a.toNat) :
    exec (.lklog g d a) s = .next ((s.numbered.takeTrap k t.pc t.pc { cause := 1, addr := 0, aux := 0 }).endIssue rest) := by
  show execLklog g d a s = _
  exact inTurn_raises (x := plainTrap .illegalOp) ha (if_pos h)

/-- The record goes to the thread's four registers, wherever its window stands. -/
theorem lklog_reads (ha : s.Alone (.lklog g d a) k t rest) (h : t.reg a.toNat < 64) : exec (.lklog g d a) s =
    .next ((s.numbered.updThread k fun u => (u.setAll (u.absRegs (.quad d.toNat))
      ((Tab.get (fun _ => []) s.lockLog (s.envOf t.bid).f).getD (t.reg a.toNat) 0).toNat).next 4).endIssue rest) := by
  obtain rfl := ha.key
  show execLklog g d a s = _
  exact inTurn_done rfl ha (if_neg (Nat.not_le.2 h)) rfl

end

end Sys2Proof.Machine

open Sys2Proof.Machine in
/-- Settles O33, by whether the number or the selector is good. -/
theorem systemRegisters : Obligations.SystemRegisters := by
  intro g d a s k t rest x core die part
  refine ⟨fun v ha hv => srd_reads rfl ha hv, fun ha hv => srd_denied rfl ha hv, fun ha ho => swr_denied ha ho,
    fun ha ho => swr_writes rfl ha ho rfl, fun ha hl hh => ?pltol, fun ha hm hk ho => mtrd_reads ha rfl ⟨hm, hk, ho⟩,
    fun ha h => mtrd_traps ha h, fun ha hn hx => evcfg_core ha hn hx rfl, fun ha hl hh hx => evcfg_die ha hl hh hx rfl,
    fun ha h => evcfg_traps ha h, fun ha h => evrd_core ha h, fun ha hl hh => ?evrd, fun ha h => evrd_traps ha h,
    fun ha h => ?lklog, fun ha h => lklog_traps ha h⟩
  case pltol =>
    have hw := swrite_pltol (s.numbered.updThread k fun t => t.next 4) hl hh (BitVec.ofNat 32 x) die part
    rw [BitVec.toNat_ofNat, Nat.mod_mod_of_dvd x (by decide)] at hw
    exact swr_writes rfl ha (sysOpen_pltol hl hh) hw (ha.solo.of_blocks rfl)
  case evrd =>
    rw [evrd_die ha hl hh]
    exact congrArg (fun s : State => (Host.Outcome.next (s.endIssue rest) : Res))
      (updThread_congr fun u hu => by rw [bid_of_key (hu.trans ha.key.symm)]; rfl)
  case lklog =>
    rw [lklog_reads ha h]
    exact congrArg (fun s : State => (Host.Outcome.next (s.endIssue rest) : Res))
      (updThread_congr fun u hu => by rw [bid_of_key (hu.trans ha.key.symm)])

end

/-! # Cache control, redundancy status and injection (R202 to R204, R207) -/

section

namespace Sys2Proof.Machine

/-! The homes leave the L1 lines as they are where they take a line's dirty bytes (R237, R244). -/

/-- `u` holds the L1 lines that `s` holds. -/
structure KeepsL1 (s u : State) : Prop where
  l1 : u.l1 = s.l1

namespace KeepsL1

variable {s u v : State}

theorem refl (s : State) : KeepsL1 s s := ⟨rfl⟩

theorem trans (h : KeepsL1 s u) (k : KeepsL1 u v) : KeepsL1 s v := ⟨k.l1.trans h.l1⟩

theorem ite {c : Prop} [Decidable c] (h : KeepsL1 s u) (k : KeepsL1 s v) : KeepsL1 s (if c then u else v) := by
  split
  · exact h
  · exact k

theorem foldl {f : State → α → State} (h : ∀ s x, KeepsL1 s (f s x)) (l : List α) (s : State) : KeepsL1 s (l.foldl f s) :=
  List.foldlRecOn l f (motive := fun u => KeepsL1 s u) (refl s) fun u hu x _ => hu.trans (h u x)

theorem addMeter (s : State) (owner m n : Nat) : KeepsL1 s (s.addMeter owner m n) := ⟨rfl⟩

theorem meter (s : State) (f die m n : Nat) : KeepsL1 s (s.meter f die m n) := by
  unfold State.meter
  exact .trans (.ite (addMeter ..) (refl s)) (addMeter ..)

theorem setDie (s : State) (d : Nat) (x : Die) : KeepsL1 s (s.setDie d x) := ⟨rfl⟩

theorem dieEvent (s : State) (d src n : Nat) : KeepsL1 s (s.dieEvent d src n) := by
  unfold State.dieEvent
  exact .ite (refl s) (setDie ..)

theorem carried (s : State) (toHome : Bool) (core pa n : Nat) : KeepsL1 s (s.carried toHome core pa n) := by
  unfold State.carried
  exact .ite (refl s) (dieEvent ..)

theorem keepHbm (s : State) (line : Nat) : KeepsL1 s (s.keepHbm line) := by
  unfold State.keepHbm
  exact .ite (refl s) ⟨rfl⟩

theorem hbmDone (s : State) (line : Nat) : KeepsL1 s (s.hbmDone line) := ⟨rfl⟩

theorem writeBack (s : State) (die f line : Nat) : KeepsL1 s (((s.dieEvent die 35 128).meter f die 7 128).hbmDone line) :=
  ((dieEvent ..).trans (meter ..)).trans (hbmDone ..)

theorem setMere (s : State) (l : List MereLine) : KeepsL1 s { s with mere := l } := ⟨rfl⟩

theorem mereOut (s : State) (m : MereLine) : KeepsL1 s (s.mereOut m) := by
  unfold State.mereOut
  refine .trans ?_ (setMere _ _)
  exact .ite (refl s) (.ite ⟨rfl⟩ (writeBack ..))

theorem mereFill (s : State) (f tag line : Nat) (write : Bool) : KeepsL1 s (s.mereFill f tag line write) := by
  unfold State.mereFill
  dsimp only
  split
  · exact .trans (.ite (keepHbm ..) (refl s)) (setMere _ _)
  · exact .trans (.ite ((mereOut ..).trans (keepHbm ..)) (mereOut ..)) (setMere _ _)
  · exact .ite (writeBack ..) (refl s)

theorem mereTouch (s : State) (f tag line n : Nat) (write : Bool) : KeepsL1 s (s.mereTouch f tag line n write) := by
  have hask (die : Nat) : KeepsL1 s ((s.askDie die).meter f die 8 n) := (setDie ..).trans (meter ..)
  have hcount (s : State) (die : Nat) (c : Bool) : KeepsL1 s (if c then s.dieEvent die 32 1 else
      ((s.dieEvent die 33 1).meter f die 6 128).dieEvent die 34 128) :=
    .ite (dieEvent ..) (((dieEvent ..).trans (meter ..)).trans (dieEvent ..))
  unfold State.mereTouch
  dsimp only
  refine .trans ((hask _).trans (hcount ..)) (.ite (refl _) ?_)
  cases s.mere.find? fun m => m.line == line with
  | none => exact mereFill ..
  | some m => exact .ite ((mereOut ..).trans (mereFill ..)) (.trans (.ite (keepHbm ..) (refl _)) (setMere _ _))

theorem mark (s : State) (pa n : Nat) : KeepsL1 s (s.mark pa n) := by
  rw [mark_frame]
  exact ⟨rfl⟩

theorem takeDirty (s : State) (l : L1Line) : KeepsL1 s (s.takeDirty l) := by
  unfold State.takeDirty
  exact .ite (refl s) (((mereTouch ..).trans (carried ..)).trans (mark ..))

end KeepsL1

theorem flushL1_serves (s : State) (core : Nat) : Serves s (s.flushL1 core) := by
  unfold State.flushL1
  exact .trans (.foldl takeDirty_serves _ s) (setL1_serves _ _)

/-- A flushed core has no line, and the other cores keep theirs. -/
theorem flushL1_l1 (s : State) (core : Nat) : (s.flushL1 core).l1 = s.l1.filter fun l => l.core != core :=
  congrArg (List.filter fun l : L1Line => l.core != core) (KeepsL1.foldl KeepsL1.takeDirty (s.l1.filter fun l => l.core == core) s).l1

/-! The instructions. -/

section

variable {g p : BitVec 3} {d a : BitVec 7} {s : State} {k : ThreadKey} {t : Thread} {rest : List IssueSet}

theorem cinvL1_flushes (ha : s.Alone (.cinvL1 g) k t rest) : exec (.cinvL1 g) s =
    .next (((s.numbered.flushL1 (s.envOf t.bid).core).updThread k fun t => t.next 4).endIssue rest) := by
  obtain rfl := ha.key
  show execCinvL1 g s = _
  exact inTurn_done rfl ha rfl (flushL1_serves s.numbered _).blocks

theorem cinvC_pauses (ha : s.Alone (.cinvC g) k t rest) : exec (.cinvC g) s =
    .next ((((s.numbered.dropLeases (s.envOf t.bid).core).flushConst (dieOf (s.envOf t.bid).core)).updThread k
      fun t => { t.next 4 with wait := .pause }).endIssue rest) := by
  obtain rfl := ha.key
  show execCinvC g s = _
  exact inTurn_done rfl ha rfl rfl

/-- Where every page of the range is local, its dirty lines are written back. -/
theorem cwbMere_cleans (ha : s.Alone (.cwbMere g d a) k t rest) {e : Env} {ea : VAddr} {n : Nat} {s2 : State} (he : s.envOf t.bid = e)
    (hea : t.addr a.toNat = ea) (hn : t.reg d.toNat = n)
    (hl : ∀ page ∈ pagesOf ea n, ∃ pa, s.resolve e .ld page 1 = .ok (.loc pa))
    (hw : (pagesOf ea n).foldl (fun s page => s.cleanPage e ea n page) (s.numbered.dropLeases e.core) = s2) (h2 : s2.Solo t.bid) :
    exec (.cwbMere g d a) s = .next ((s2.updThread k fun t => t.next 4).endIssue rest) := by
  obtain rfl := ha.key
  subst he hea hn
  show execCwbMere g d a s = _
  refine inTurn_uncounted rfl ha ?_ (s2 := s2.updThread t.key fun t => t.next 4) h2
  dsimp only
  rw [List.findSome?_eq_none_iff.2 fun page hp => ?_]
  · exact congrArg (fun s : State => TRes.ok (s.updThread t.key fun t => t.next 4)) hw
  · obtain ⟨pa, hpa⟩ := hl page hp
    have hpa' : s.numbered.resolve (s.numbered.envOf t.bid) .ld page 1 = .ok (.loc pa) := hpa
    rw [hpa']

/-- A word of `kinj` outside 12 bits, or of a quad above 47. -/
theorem kinj_bad_iff (x : Nat) : (decide (x / 4096 ≠ 0) || decide (48 ≤ Sys2Proof.bits x 5 0)) = true ↔ ¬ (x < 4096 ∧ x % 64 < 48) := by
  have hq : Sys2Proof.bits x 5 0 = x % 64 := congrArg (· % 64) (Nat.div_one x)
  rw [hq]
  simp only [Bool.or_eq_true, decide_eq_true_eq]
  omega

theorem kinj_injects (ha : s.Alone (.kinj g a) k t rest) {x : Nat} (hx : t.reg a.toNat = x) (h : x < 4096 ∧ x % 64 < 48) :
    exec (.kinj g a) s = .next (((s.numbered.setQuad (x % 64) { s.quad (x % 64) with
      inject := if Sys2Proof.bit x 11 then some (Sys2Proof.bits x 10 6) else none }).updThread k fun t => t.next 4).endIssue rest) := by
  obtain rfl := ha.key
  subst hx
  have hq : Sys2Proof.bits (t.reg a.toNat) 5 0 = t.reg a.toNat % 64 := congrArg (· % 64) (Nat.div_one _)
  show execKinj g a s = _
  refine inTurn_done rfl ha ((if_neg (mt (kinj_bad_iff _).1 (not_not.2 h))).trans ?_) rfl
  rw [hq]
  rfl

theorem kinj_traps (ha : s.Alone (.kinj g a) k t rest) (h : ¬ (t.reg a.toNat < 4096 ∧ t.reg a.toNat % 64 < 48)) :
    exec (.kinj g a) s = .next ((s.numbered.takeTrap k t.pc t.pc { cause := 1, addr := 0, aux := 0 }).endIssue rest) := by
  show execKinj g a s = _
  exact inTurn_raises (x := plainTrap .illegalOp) ha (if_pos ((kinj_bad_iff _).2 h))

/-- Outside a pair the status word holds the mismatches, and the failures of the groups (R203). -/
theorem ckWord_solo {b : Block} (hb : s.block? t.bid = some b) (hs : s.Solo t.bid) (hf : ∀ gr ∈ s.groups, gr.bid = t.bid → gr.fails = 0) :
    s.ckWord t.bid = min 255 b.mismatches * 256 := by
  have hfails : ((s.groups.filter fun g => g.bid == t.bid).map fun g => g.fails).foldl max 0 = 0 :=
    List.foldlRecOn _ _ (motive := fun n : Nat => n = 0) rfl fun n hn m hm => by
      obtain ⟨gr, hgr, rfl⟩ := List.mem_map.1 hm
      obtain ⟨hgr, hbid⟩ := List.mem_filter.1 hgr
      rw [hn, hf gr hgr (beq_iff_eq.1 hbid), max_self]
  unfold State.ckWord
  rw [hb]
  dsimp only
  rw [hfails, hs b hb]
  simp [Sys2Proof.ofBool]

theorem ckstat_reads (ha : s.Alone (.ckstat g d) k t rest) : exec (.ckstat g d) s =
    .next ((s.numbered.updThread k fun u => (u.setReg d.toNat (s.ckWord t.bid)).next 4).endIssue rest) := by
  obtain rfl := ha.key
  show execCkstat g d s = _
  exact inTurn_done rfl ha rfl rfl

theorem ckrole_solo (ha : s.Alone (.ckrole g p) k t rest) : exec (.ckrole g p) s =
    .next ((s.numbered.updThread k fun u => (u.setPred p.toNat true).next 4).endIssue rest) := by
  obtain rfl := ha.key
  have hlead : ((s.numbered.block? t.bid).all fun b => b.role != .trail) = true := by
    rw [Option.all_eq_true]
    intro b hb
    rw [ha.solo b hb]
    rfl
  show execCkrole g p s = _
  refine inTurn_done rfl ha ?_ rfl
  rw [hlead]

end

/-- A `ckpt` outside a pair snapshots nothing (R202). -/
theorem ckpt_solo {g : BitVec 3} {s : State} {q : IssueSet} {rest : List IssueSet} {bid grp : Nat} (hg : s.Gathers (.ckpt g) q rest bid grp) :
    exec (.ckpt g) s = .next ((s.numbered.advanceGroup (.ckpt g) q.pc bid grp (s.standers bid grp q)).endIssue rest) := by
  have hsolo := hg.solo
  show execCkpt g s = _
  refine (together_ok (s2 := s.numbered) hg ?_ hsolo).trans (by rw [counted_of_none rfl])
  dsimp only
  split
  · rename_i b t0 r hb hpart
    have hrole : b.role = .solo := hsolo b hb
    rw [hrole]
    rfl
  · rfl

end Sys2Proof.Machine

open Sys2Proof.Machine in
/-- Settles O34: each instruction by its one effect, a flush by what the homes leave of the L1 lines and of memory. -/
theorem cacheControlAndRedundancy : Obligations.CacheControlAndRedundancy := by
  refine ⟨fun g p d a s k t rest b hb => ⟨fun ha => cinvL1_flushes ha, ⟨flushL1_l1 s _, fun hp ht => (flushL1_serves s _).mem ⟨ht, hp⟩⟩,
    fun ha => cinvC_pauses ha, fun ha hl => cwbMere_cleans ha rfl rfl rfl hl rfl, fun ha hx hq => kinj_injects ha rfl ⟨hx, hq⟩,
    fun ha h => kinj_traps ha h, fun ha hf => ?ckstat, fun ha => ckrole_solo ha⟩, fun g s q rest bid grp hg => ckpt_solo hg⟩
  case ckstat => rw [ckstat_reads ha, ckWord_solo hb ha.solo hf]

end

/-! # Reading the trap frame and returning from a trap (R205, R371) -/

section

namespace Sys2Proof.Machine

theorem tret_performs (g : BitVec 3) : Performs (.tret g) fun t => { t.goto t.frame.resume with inHandler := false } :=
  eachTrap_runs (fun _ => rfl) fun _ _ _ => rfl

theorem trd_reads {g : BitVec 3} {d : BitVec 7} {sel : BitVec 3} {s : State} {k : ThreadKey} {t : Thread} {rest : List IssueSet}
    (ha : s.Alone (.trd g d sel) k t rest) : exec (.trd g d sel) s =
      .next ((s.numbered.updThread k fun u => (u.setReg d.toNat (t.frame.word sel.toNat)).next 4).endIssue rest) := by
  obtain rfl := ha.key
  rw [← updThread_congr_found (s := s.numbered) (f := fun u => (u.setReg d.toNat (u.frame.word sel.toNat)).next 4) ?found rfl]
  case found =>
    obtain ⟨⟨-, ht, -⟩, -⟩ := ha
    exact ht
  show execTrd g d sel s = _
  exact inTurn_done rfl ha rfl rfl

end Sys2Proof.Machine

open Sys2Proof.Machine in
/-- Settles O35: `trd` by the frame's word, the returns by whether their address is aligned and has landed. -/
theorem trapReturnAndRead : Obligations.TrapReturnAndRead := by
  refine ⟨fun g d sel n v s k t rest ha hm hn => ?trd, tret_performs, fun g a => ⟨?ret, fun s k t rest hok ha => ?trap⟩⟩
  case trd =>
    subst hn
    have hv : t.frame.word sel.toNat = v := by
      simp only [List.mem_cons, List.not_mem_nil, or_false, Prod.mk.injEq] at hm
      obtain ⟨h, rfl⟩ | ⟨h, rfl⟩ | ⟨h, rfl⟩ | ⟨h, rfl⟩ | ⟨h, rfl⟩ | ⟨h, rfl⟩ := hm
      all_goals rw [h]; rfl
    rw [trd_reads ha, hv]
  case ret => exact indirect_performs (a := fun t => t.addr a.toNat) (f := fun t => t.tret t.pc) fun _ => rfl
  case trap => exact indirect_traps (a := fun t => t.addr a.toNat) (f := fun t => t.tret t.pc) rfl rfl hok ha

end

/-! # Copies at their issue (R171 to R182) -/

section

namespace Sys2Proof.Machine

/-! Per-lane copies (R174). -/

/-- A thread's own command of a per-lane copy. -/
def State.laneCmd (s : State) (t : Thread) (n : Nat) (x y : Target) (src : VAddr) (r q : BitVec 1) : CopyCmd where
  id := s.nextId + 1
  tok := s.nextId
  core := (s.envOf t.bid).core
  bid := t.bid
  grp := t.grp
  tid := t.tid
  pc := t.pc
  kind := .lane n [(src, x, y)]
  h := 0
  more := []
  begun := []
  bind := s.bindOf t
  before := if q == 1 then some (s.nextId + 1) else none
  rel := r == 1
  fabric := none
  lines := []
  base := 0
  owed := []

section

variable {d a : Nat} {r q : BitVec 1} {s : State} {k : ThreadKey} {t : Thread} {rest : List IssueSet} {i : Instr} {n : Nat}
variable (ha : s.Alone i k t rest)
include ha

/-- The first thread of an issue makes the command. -/
theorem cpLane_queues {x y : Target} (hsrc : (t.addr a).toNat % n = 0) (hdst : (t.addr d).toNat % n = 0)
    (hx : s.resolve (s.envOf t.bid) .engR (t.addr a) n = .ok x) (hy : s.resolve (s.envOf t.bid) .engW (t.addr d) n = .ok y)
    (hnew : ∀ c ∈ s.copies, c.tok ≠ s.nextId) : s.inTurn i (cpLane n d a q r) = .next (((({ s with
      nextId := s.nextId + 2, copies := s.copies ++ [s.laneCmd t n x y (t.addr a) r q] } : State).updThread k fun t => t.next 4).counted i t.bid
        t.grp s.nextId).endIssue rest) := by
  obtain rfl := ha.key
  have hx' : s.numbered.resolve (s.numbered.envOf t.bid) .engR (t.addr a) n = .ok x := hx
  have hy' : s.numbered.resolve (s.numbered.envOf t.bid) .engW (t.addr d) n = .ok y := hy
  have hnone : (s.numbered.copies.any fun c => c.bid == t.bid && c.grp == t.grp && c.tok == s.nextId) = false := by
    rw [List.any_eq_false]
    intro c hc
    simp [hnew c hc]
  refine inTurn_counts ha ((if_neg (not_not.2 hsrc)).trans ((if_neg (not_not.2 hdst)).trans ?_)) rfl
  rw [hx', hy']
  dsimp only
  rw [hnone]
  rfl

theorem cpLane_misaligned_src (hsrc : (t.addr a).toNat % n ≠ 0) : s.inTurn i (cpLane n d a q r) =
    .next ((s.numbered.takeTrap k t.pc t.pc { cause := 3, addr := t.addr a, aux := 0 }).endIssue rest) :=
  inTurn_raises (x := addrTrap .misaligned (t.addr a)) ha (if_pos hsrc)

theorem cpLane_misaligned_dst (hsrc : (t.addr a).toNat % n = 0) (hdst : (t.addr d).toNat % n ≠ 0) : s.inTurn i (cpLane n d a q r) =
    .next ((s.numbered.takeTrap k t.pc t.pc { cause := 3, addr := t.addr d, aux := 0 }).endIssue rest) :=
  inTurn_raises (x := addrTrap .misaligned (t.addr d)) ha ((if_neg (not_not.2 hsrc)).trans (if_pos hdst))

end

/-! Binned copies (R179). -/

theorem cpBin_queues {g : BitVec 3} {d a b : BitVec 7} {s : State} {k : ThreadKey} {t : Thread} {rest : List IssueSet} {x y : Target}
    (ha : s.Alone (.cpBin g d a b) k t rest) (hrc : (t.addr a.toNat).toNat % 32 = 0) (hrow : (t.addr b.toNat).toNat % 4 = 0)
    (hx : s.resolve (s.envOf t.bid) .bin (t.addr a.toNat) 32 = .ok x) (hy : s.resolve (s.envOf t.bid) .engR (t.addr b.toNat) 4 = .ok y) :
    exec (.cpBin g d a b) s = .next ((((s.numbered.enqueue t s.nextId false (t.addr a.toNat) x 3
      (.bin (t.addr b.toNat) (t.idx d.toNat) t.pc (s.bindOf t))).updThread k fun u => (u.await [u.idx d.toNat] none).next 4).counted
        (.cpBin g d a b) t.bid t.grp s.nextId).endIssue rest) := by
  obtain rfl := ha.key
  have hx' : s.numbered.resolve (s.numbered.envOf t.bid) .bin (t.addr a.toNat) 32 = .ok x := hx
  have hy' : s.numbered.resolve (s.numbered.envOf t.bid) .engR (t.addr b.toNat) 4 = .ok y := hy
  have hfound : ∀ e, (s.numbered.enqueue t s.nextId false (t.addr a.toNat) x 3 e).thread? t.key = some t := fun e => by
    obtain ⟨⟨-, ht, -⟩, -⟩ := ha
    exact ht
  rw [updThread_congr_found (g := fun u => (u.await [t.idx d.toNat] none).next 4) (hfound _) rfl]
  show execCpBin g d a b s = _
  refine inTurn_counts ha ((if_neg (not_not.2 hrc)).trans ((if_neg (not_not.2 hrow)).trans ?_)) rfl
  rw [hx', hy']
  rfl

/-! Bulk copies and multicasts (R175, R177, R180). -/

section

variable {g : BitVec 3} {a : BitVec 5} {s : State} {k : ThreadKey} {t : Thread} {rest : List IssueSet} {w : List Word}
variable (hw : t.words (4 * a.toNat) 16 = w)

/-- The record by which a window follows a fabric copy (R177). -/
def State.copyRec (s : State) (t : Thread) (w : List Word) (v : Nat) : CopyRec where
  cmd := s.nextId + 1
  epoch := (s.window (s.envOf t.bid).f (Sys2Proof.bits (bulkOf w).flags 16 12)).epoch.toNat
  vdn := v
  env := s.envOf t.bid
  handle := s.handleOf t.bid
  desc := w
  count := (bulkOf w).runs (bulkOf w).count
  sent := 0
  landed := 0
  final := false
  bind := s.bindOf t
  tid := t.tid

/-- A window with a fabric copy's writes reserved. -/
def Window.reserved (win : Window) (v n : Nat) (rc : CopyRec) : Window :=
  { win with counts := Tab.set (fun _ => 0) win.counts v (Tab.get (fun _ => 0) win.counts v + n), copies := win.copies ++ [rc] }

section

variable (ha : s.Alone (.cpBulk g a) k t rest)
include hw ha

theorem cpBulk_illegal (hok : bulkOk w false = false) : exec (.cpBulk g a) s =
    .next ((s.numbered.takeTrap k t.pc t.pc { cause := 1, addr := 0, aux := 0 }).endIssue rest) := by
  subst hw
  show execCpBulk g a s = _
  exact inTurn_raises (x := plainTrap .illegalOp) ha (if_pos (failed hok))

variable (hok : bulkOk w false = true)
include hok

theorem cpBulk_misaligned {x : VAddr} (hm : (bulkOf w).misaligned = some x) : exec (.cpBulk g a) s =
    .next ((s.numbered.takeTrap k t.pc t.pc { cause := 3, addr := x, aux := 0 }).endIssue rest) := by
  subst hw
  show execCpBulk g a s = _
  refine inTurn_raises (x := addrTrap .misaligned x) ha ((if_neg (not_failed hok)).trans ?_)
  rw [hm]
  rfl

variable (hm : (bulkOf w).misaligned = none)
include hm

theorem cpBulk_queues (hf : (bulkOf w).fabric = false) : exec (.cpBulk g a) s =
    .next ((((s.numbered.addCopy t s.nextId (.bulk w) (bulkOf w).acq (bulkOf w).rel none).updThread k fun t => t.next 4).counted (.cpBulk g a) t.bid
      t.grp s.nextId).endIssue rest) := by
  obtain rfl := ha.key
  subst hw
  show execCpBulk g a s = _
  refine inTurn_counts ha ((if_neg (not_failed hok)).trans ?_) rfl
  rw [hm]
  exact if_pos (failed hf)

theorem cpBulk_reserves (hf : (bulkOf w).fabric = true) {v : Nat} (hv : s.fabricCheck t (bulkOf w) = .ok v) {f n : Nat}
    (hfun : (s.envOf t.bid).f = f) (hn : Sys2Proof.bits (bulkOf w).flags 16 12 = n) : exec (.cpBulk g a) s =
    .next (((((s.numbered.addCopy t s.nextId (.bulk w) (bulkOf w).acq (bulkOf w).rel (some (n, v, Sys2Proof.bits (s.vdne f v) 15 8))).setWindow f n
      ((s.window f n).reserved v ((bulkOf w).runs (bulkOf w).count) (s.copyRec t w v))).updThread k fun t => t.next 4).counted (.cpBulk g a) t.bid
        t.grp s.nextId).endIssue rest) := by
  obtain rfl := ha.key
  subst hw hfun hn
  have hv' : s.numbered.fabricCheck t (bulkOf (t.words (4 * a.toNat) 16)) = .ok v := hv
  show execCpBulk g a s = _
  refine inTurn_counts ha ((if_neg (not_failed hok)).trans ?_) rfl
  rw [hm]
  dsimp only
  rw [if_neg (not_failed hf), hv']
  rfl

end

/-- Mask bits above the quad's four cores set MCAST_SKIP (R180). -/
def State.markSkip (s : State) (bid grp mask : Nat) : State :=
  if mask / 16 = 0 then s else s.updGroup bid grp fun g => { g with cstat := g.cstat ||| 1 }

theorem markSkip_blocks (s : State) (bid grp mask : Nat) : (s.markSkip bid grp mask).blocks = s.blocks := by
  unfold State.markSkip
  split <;> rfl

include hw in
theorem cpMcast_queues {d : BitVec 7} (ha : s.Alone (.cpMcast g d a) k t rest) (hok : bulkOk w true = true)
    (hm : (bulkOf w).misaligned = none) (hin : inScratch ((bulkOf w).dstAt 0) = true)
    (hshare : ((bulkOf w).dstAt 0).toNat % 2 ^ 32 < (s.envOf t.bid).share) : exec (.cpMcast g d a) s =
    .next (((((s.numbered.markSkip t.bid t.grp (t.reg d.toNat)).addCopy t s.nextId (.mcast w (BitVec.ofNat 32 (t.reg d.toNat))) (bulkOf w).acq
      (bulkOf w).rel none).updThread k fun t => t.next 4).counted (.cpMcast g d a) t.bid t.grp s.nextId).endIssue rest) := by
  obtain rfl := ha.key
  subst hw
  have hgood : ¬ (!inScratch ((bulkOf (t.words (4 * a.toNat) 16)).dstAt 0) ||
      decide ((s.numbered.envOf t.bid).share ≤ ((bulkOf (t.words (4 * a.toNat) 16)).dstAt 0).toNat % 2 ^ 32)) = true := by
    rw [hin, Bool.not_true, Bool.false_or, decide_eq_true_iff]
    exact Nat.not_le.2 hshare
  show execCpMcast g d a s = _
  refine inTurn_counts ha ((if_neg (not_failed hok)).trans ?_) (markSkip_blocks s.numbered ..)
  rw [hm]
  exact if_neg hgood

end

/-! Bindings (R182). -/

section

variable {g : BitVec 3} {n : BitVec 5} {s : State} {k : ThreadKey} {t : Thread} {rest : List IssueSet}

theorem nbar_eq_elim (s : State) (bid : Nat) :
    s.nbar bid = (s.launchOf bid).elim 0 fun l => Sys2Proof.bits l.record.barriers.toNat 5 0 := by
  unfold State.nbar
  cases s.launchOf bid <;> rfl

theorem cpBind_binds (ha : s.Alone (.cpBind g n) k t rest) (hn : n.toNat < s.nbar t.bid) : exec (.cpBind g n) s =
    .next (((s.numbered.updGroup t.bid t.grp fun g => { g with bind := some n.toNat }).updThread k fun t => t.next 4).endIssue rest) := by
  obtain rfl := ha.key
  rw [nbar_eq_elim] at hn
  show execCpBind g n s = _
  exact inTurn_done rfl ha (if_neg (Nat.not_le.2 hn)) rfl

theorem cpBind_denied (ha : s.Alone (.cpBind g n) k t rest) (hn : s.nbar t.bid ≤ n.toNat) : exec (.cpBind g n) s =
    .next ((s.numbered.takeTrap k t.pc t.pc { cause := 6, addr := 0, aux := 0 }).endIssue rest) := by
  rw [nbar_eq_elim] at hn
  show execCpBind g n s = _
  exact inTurn_raises (x := plainTrap .accessDenied) ha (if_pos hn)

theorem cpBindNone_unbinds (ha : s.Alone (.cpBindNone g) k t rest) : exec (.cpBindNone g) s =
    .next (((s.numbered.updGroup t.bid t.grp fun g => { g with bind := none }).updThread k fun t => t.next 4).endIssue rest) := by
  obtain rfl := ha.key
  show execCpBindNone g s = _
  exact inTurn_done rfl ha rfl rfl

end

end Sys2Proof.Machine

open Sys2Proof.Machine in
/-- Settles O27: each copy in the order of its checks, past which it leaves its command, its queue entry, its reservation or its binding. -/
theorem copiesIssue : Obligations.CopiesIssue := by
  refine ⟨fun g d a sc r q s k t rest i n hm ha => ?lane, fun g d a b s k t rest ha x y hrc hrow hx hy => cpBin_queues ha hrc hrow hx hy,
    fun g a s k t rest ha => ⟨fun hok hm hf => cpBulk_queues rfl ha hok hm hf, fun hok hm hf v hv => cpBulk_reserves rfl ha hok hm hf hv rfl rfl,
      fun hok => cpBulk_illegal rfl ha hok, fun x hok hm => cpBulk_misaligned rfl ha hok hm⟩,
    fun g d a s k t rest ha hok hm hin hshare => cpMcast_queues rfl ha hok hm hin hshare,
    fun g n s k t rest => ⟨fun ha hn => cpBind_binds ha hn, fun ha hn => cpBind_denied ha hn, fun ha => cpBindNone_unbinds ha⟩⟩
  case lane =>
    have he : exec i s = s.inTurn i (cpLane n d.toNat a.toNat q r) := by
      simp only [List.mem_cons, List.not_mem_nil, or_false, Prod.mk.injEq] at hm
      obtain ⟨rfl, rfl⟩ | ⟨rfl, rfl⟩ | ⟨rfl, rfl⟩ := hm
      all_goals rfl
    rw [he]
    exact ⟨fun x y hsrc hdst hx hy hnew => cpLane_queues ha hsrc hdst hx hy hnew, fun hsrc => cpLane_misaligned_src ha hsrc,
      fun hsrc hdst => cpLane_misaligned_dst ha hsrc hdst⟩

end

/-! # Matrix commands at their issue (R183 to R192) -/

section

namespace Sys2Proof.Machine

/-! One thread's command (R184). -/

/-- A command that names slots past t63, for a fill, or tiles past a7. -/
def MatKind.beyond (kind : MatKind) (ns : List Nat) : Bool :=
  match kind with
  | .fill _ _ | .fillDq _ _ => ns.any fun n => decide (64 ≤ n)
  | _ => ns.any fun n => decide (72 ≤ n)

section

variable {s : State} {t : Thread} {kind : MatKind} {ns : List Nat} (hns : kind.names (s.cfgOf t.bid t.grp) = ns)
include hns

theorem issueMat_beyond (tok : Nat) (acq : Bool) (hb : kind.beyond ns = true) : s.issueMat t tok kind acq = .trap (plainTrap .tileRange) 0 := by
  subst hns
  exact if_pos hb

variable (hb : kind.beyond ns = false)
include hb

theorem issueMat_unclaimed (tok : Nat) (acq : Bool) (hn : s.mayName t.bid t.grp ns = false) :
    s.issueMat t tok kind acq = .trap (plainTrap .slotNotClaimed) 0 := by
  subst hns
  exact (if_neg (Bool.eq_false_iff.1 hb)).trans (if_pos (failed hn))

theorem issueMat_ok (tok : Nat) (acq : Bool) (hn : s.mayName t.bid t.grp ns = true) :
    s.issueMat t tok kind acq = .ok ((s.addMat t tok kind acq []).updThread t.key fun t => t.next 4) := by
  subst hns
  exact (if_neg (Bool.eq_false_iff.1 hb)).trans (if_neg (not_failed hn))

end

/-- What an instruction of one command does, past its word checks: its claims decide. -/
theorem matrix_issues {i : Instr} {s : State} {k : ThreadKey} {t : Thread} {rest : List IssueSet} {f : Nat → State → Thread → TRes}
    {kind : MatKind} {acq : Bool} {ns : List Nat} (ha : s.Alone i k t rest)
    (hf : f s.nextId s.numbered t = s.numbered.issueMat t s.nextId kind acq) (hns : kind.names (s.cfgOf t.bid t.grp) = ns) :
    (kind.beyond ns = false → s.mayName t.bid t.grp ns = true → s.inTurn i f =
      .next ((((s.numbered.addMat t s.nextId kind acq []).updThread k fun t => t.next 4).counted i t.bid t.grp s.nextId).endIssue rest)) ∧
    (kind.beyond ns = false → s.mayName t.bid t.grp ns = false → s.inTurn i f =
      .next ((s.numbered.takeTrap k t.pc t.pc { cause := 13, addr := 0, aux := 0 }).endIssue rest)) ∧
    (kind.beyond ns = true → s.inTurn i f =
      .next ((s.numbered.takeTrap k t.pc t.pc { cause := 14, addr := 0, aux := 0 }).endIssue rest)) := by
  obtain rfl := ha.key
  have hns' : kind.names (s.numbered.cfgOf t.bid t.grp) = ns := hns
  refine ⟨fun hb hn => ?_, fun hb hn => ?_, fun hb => ?_⟩
  · exact inTurn_counts ha (hf.trans (issueMat_ok hns' hb _ _ hn)) rfl
  · exact inTurn_raises (x := plainTrap .slotNotClaimed) ha (hf.trans (issueMat_unclaimed hns' hb _ _ hn))
  · exact inTurn_raises (x := plainTrap .tileRange) ha (hf.trans (issueMat_beyond hns' _ _ hb))

/-! The word checks (R189 to R192). -/

section

variable {s : State} {t : Thread} {rest : List IssueSet} {i : Instr} {kind : MatKind} {acq : Bool}

/-- An instruction of one command, where its words pass their checks. -/
def IssuesMat (i : Instr) (s : State) (t : Thread) (kind : MatKind) (acq : Bool) : Prop :=
  ∃ f : Nat → State → Thread → TRes, exec i s = s.inTurn i f ∧ f s.nextId s.numbered t = s.numbered.issueMat t s.nextId kind acq

theorem tfill_issues {g : BitVec 3} {n : BitVec 6} {a : BitVec 5} (hok : fillOk (t.words (4 * a.toNat) 4) = true)
    (hm : dMisaligned (t.words (4 * a.toNat) 4) = none) :
    IssuesMat (.tfill g n a) s t (.fill n.toNat (t.words (4 * a.toNat) 4)) (Sys2Proof.bit (dw (t.words (4 * a.toNat) 4) 3) 13) := by
  refine ⟨_, (rfl : execTfill g n a s = _), (if_neg (not_failed hok)).trans ?_⟩
  rw [hm]

/-- A dequantising fill has more words that are 0 (R190). -/
theorem tfillDq_issues {g : BitVec 3} {n : BitVec 6} {a : BitVec 5} {w : List Word} (hw : t.words (4 * a.toNat) 8 = w)
    (hok : (fillOk w && dw w 5 % 32 == 0 && dw w 6 == 0 && dw w 7 == 0) = true) (hm : dMisaligned w = none) :
    IssuesMat (.tfillDq g n a) s t (.fillDq n.toNat w) (Sys2Proof.bit (dw w 3) 13) := by
  subst hw
  have hbad : ¬ (!fillOk (t.words (4 * a.toNat) 8) || dw (t.words (4 * a.toNat) 8) 5 % 32 != 0 || dw (t.words (4 * a.toNat) 8) 6 != 0 ||
      dw (t.words (4 * a.toNat) 8) 7 != 0) = true := by
    simpa [bne] using hok
  refine ⟨_, (rfl : execTfillDq g n a s = _), (if_neg hbad).trans ?_⟩
  rw [hm]

theorem aload_issues {g ti : BitVec 3} {b : BitVec 7} (hok : (t.addr b.toNat).toNat % 16 = 0) :
    IssuesMat (.aload g ti b) s t (.aload ti.toNat (t.addr b.toNat)) false :=
  ⟨_, (rfl : execAload g ti b s = _), if_neg (not_not.2 hok)⟩

theorem drainOp_passes {add : Bool} {ti a tok : Nat} (hok : drainOk (t.words (4 * a) 4) add = true) (hm : dMisaligned (t.words (4 * a) 4) = none) :
    drainOp add ti a tok s t = s.issueMat t tok (if add then .drainAdd ti (t.words (4 * a) 4) else .drain ti (t.words (4 * a) 4)) false := by
  refine (if_neg (not_failed hok)).trans ?_
  rw [hm]

end

/-! `pcfg` (R188). -/

theorem pcfgWord_bad_iff (w : List Word) : (decide (Sys2Proof.bits (dw w 4) 31 9 ≠ 0) || decide (dw w 7 ≠ 0)) = true ↔
    ¬ (Sys2Proof.bits (dw w 4) 31 9 = 0 ∧ dw w 7 = 0) := by
  simp only [Bool.or_eq_true, decide_eq_true_eq, not_and_or, ne_eq]

section

variable {g : BitVec 3} {a : BitVec 5} {s : State} {k : ThreadKey} {t : Thread} {rest : List IssueSet} {w : List Word}
variable (ha : s.Alone (.pcfg g a) k t rest) (hw : t.words (4 * a.toNat) 8 = w)
include ha hw

/-- The group's configuration is set at issue, beside the command. -/
theorem pcfg_sets (h : Sys2Proof.bits (dw w 4) 31 9 = 0 ∧ dw w 7 = 0) : exec (.pcfg g a) s =
    .next (((((s.numbered.addMat t s.nextId (.pcfg (pcfgOf w)) false []).updGroup t.bid t.grp fun g => { g with pcfg := pcfgOf w }).updThread k
      fun t => t.next 4).counted (.pcfg g a) t.bid t.grp s.nextId).endIssue rest) := by
  obtain rfl := ha.key
  subst hw
  show execPcfg g a s = _
  exact inTurn_counts ha (if_neg (mt (pcfgWord_bad_iff _).1 (not_not.2 h))) rfl

theorem pcfg_illegal (h : ¬ (Sys2Proof.bits (dw w 4) 31 9 = 0 ∧ dw w 7 = 0)) : exec (.pcfg g a) s =
    .next ((s.numbered.takeTrap k t.pc t.pc { cause := 1, addr := 0, aux := 0 }).endIssue rest) := by
  subst hw
  show execPcfg g a s = _
  exact inTurn_raises (x := plainTrap .illegalOp) ha (if_pos ((pcfgWord_bad_iff _).2 h))

end

end Sys2Proof.Machine

open Sys2Proof.Machine in
/-- Settles O29: each instruction leaves one command past its word checks, and the command's claims decide. -/
theorem matrixIssue : Obligations.MatrixIssue := by
  refine ⟨fun g ti n m a b s k t rest i kind ok acq hm ha hok => ?command, fun g a s k t rest ha => ⟨fun h4 h7 => pcfg_sets ha rfl ⟨h4, h7⟩,
    fun h => pcfg_illegal ha rfl h⟩⟩
  have hissues : IssuesMat i s t kind acq := by
    simp only [List.mem_cons, List.not_mem_nil, or_false, Prod.mk.injEq] at hm
    obtain ⟨rfl, rfl, rfl, rfl⟩ | ⟨rfl, rfl, rfl, rfl⟩ | ⟨rfl, rfl, rfl, rfl⟩ | ⟨rfl, rfl, rfl, rfl⟩ | ⟨rfl, rfl, rfl, rfl⟩ |
      ⟨rfl, rfl, rfl, rfl⟩ := hm
    · obtain ⟨h1, h2⟩ := Bool.and_eq_true_iff.1 hok
      exact tfill_issues h1 (Option.isNone_iff_eq_none.1 h2)
    · obtain ⟨h1, h2⟩ := Bool.and_eq_true_iff.1 hok
      exact tfillDq_issues rfl h1 (Option.isNone_iff_eq_none.1 h2)
    · exact ⟨_, (rfl : execAzero g ti m s = _), rfl⟩
    · exact aload_issues (beq_iff_eq.1 hok)
    · obtain ⟨h1, h2⟩ := Bool.and_eq_true_iff.1 hok
      exact ⟨_, (rfl : execTdrain g ti a s = _), drainOp_passes h1 (Option.isNone_iff_eq_none.1 h2)⟩
    · obtain ⟨h1, h2⟩ := Bool.and_eq_true_iff.1 hok
      exact ⟨_, (rfl : execTdrainAdd g ti a s = _), drainOp_passes h1 (Option.isNone_iff_eq_none.1 h2)⟩
  obtain ⟨f, he, hf⟩ := hissues
  rw [he]
  exact matrix_issues ha hf rfl

namespace Sys2Proof.Machine

/-! Multiplications (R185 to R187). -/

/-- A multiplication within its tiles and its slots. -/
theorem mmaOver_eq_false {f n rows c a b : Nat} {gang : List Nat} (hc : c + (n + 127) / 128 ≤ 8) (hb : b + (n + 127) / 128 ≤ 64) :
    mmaOver (.mma f n rows c a b none gang) = false := by
  unfold mmaOver
  simp only [Option.isSome_none, Bool.false_eq_true, if_false, Bool.or_eq_false_iff, decide_eq_false_iff_not]
  omega

section

variable {s : State} {bid grp : Nat} {kind : MatKind} {gr : Group} {t0 : Thread} {part : List Thread}
variable (hgr : s.group? bid grp = some gr) (ho : mmaOver kind = false) (hn : s.mayName bid grp (kind.names gr.pcfg) = true)
include hgr ho hn

/-- Outside a gang it enters the queue, where nothing of its metadata is to be checked first (R186). -/
theorem mmaOp_queues (hgang : gr.gang = 0) (hl : s.listed bid grp = false) (hc : mmaChecks kind gr.pcfg = false) (guard len tok : Nat) :
    mmaOp guard len kind tok s bid grp (t0 :: part) = .ok (s.addMat t0 tok kind false []) := by
  have hwaits : (decide (gr.gang ≠ 0) || s.listed bid grp) = false := by simp [hgang, hl]
  unfold mmaOp
  simp only [hgr, ho, hn, hwaits, hc, Bool.not_true, Bool.false_eq_true, if_false]

/-- A group of a gang, its own or one that lists it, waits at the latch. -/
theorem mmaOp_waits (hgang : gr.gang ≠ 0 ∨ s.listed bid grp = true) (guard len tok : Nat) : mmaOp guard len kind tok s bid grp (t0 :: part) =
    .park ((s.updGroup bid grp fun g => { g with latch := some {
      kind, guard, len, tok, part := (t0 :: part).map fun t => t.tid, pc := t0.pc } }).standAt bid grp t0.pc .gang fun _ => true) := by
  have hwaits : (decide (gr.gang ≠ 0) || s.listed bid grp) = true := by simpa using hgang
  unfold mmaOp
  simp only [hgr, ho, hn, hwaits, Bool.not_true, Bool.false_eq_true, if_false, if_true]

end

end Sys2Proof.Machine

open Sys2Proof.Machine in
/-- Settles O30: past the checks of its tiles, slots and claims a multiplication is queued, or its group waits for its gang. -/
theorem matrixMultiplyIssue : Obligations.MatrixMultiplyIssue := by
  intro g n m c a b s q rest bid grp gr t0 part i f hm hg hp hgr kind hc hb hn
  have ho : mmaOver kind = false := mmaOver_eq_false hc hb
  have he : exec i s = s.together i (mmaOp i.guard 4 kind) := by
    simp only [List.mem_cons, List.not_mem_nil, or_false, Prod.mk.injEq] at hm
    obtain ⟨rfl, rfl⟩ | ⟨rfl, rfl⟩ | ⟨rfl, rfl⟩ | ⟨rfl, rfl⟩ | ⟨rfl, rfl⟩ | ⟨rfl, rfl⟩ | ⟨rfl, rfl⟩ | ⟨rfl, rfl⟩ := hm
    all_goals rfl
  rw [he]
  refine ⟨fun hgang hl => together_ok (s2 := s.numbered.addMat t0 s.nextId kind false []) hg ?_ hg.solo, fun hgang => together_park hg ?_⟩
  · rw [hp]
    exact mmaOp_queues (s := s.numbered) hgr ho hn hgang hl rfl _ _ _
  · rw [hp]
    exact mmaOp_waits (s := s.numbered) hgr ho hn hgang _ _ _

end

/-! # Fabric writes, reads and atomics at their issue (R197, R200) -/

section

namespace Sys2Proof.Machine

/-! Writes (R197). -/

theorem takes_iff (win : Window) : win.takes = true ↔ win.st = .open ∨ win.st = .closing := by
  simp [Window.takes]

theorem not_takes {win : Window} (h : win.st = .free ∨ win.st = .failed) : win.takes = false := by
  unfold Window.takes
  rcases h with h | h <;> rw [h] <;> rfl

theorem windowFull_iff (win : Window) (v n : Nat) : (decide (win.sent v = 2 ^ 24 - 1) || decide (65536 < win.held + n)) = true ↔
    win.sent v = 2 ^ 24 - 1 ∨ 65536 < win.held + n := by
  rw [Bool.or_eq_true, decide_eq_true_iff, decide_eq_true_iff]

/-- The write that a window keeps for replay (R300). -/
def State.keptWrite (s : State) (t : Thread) (win : Window) (v ipa : Nat) (data : List Byte) : BufWrite where
  handle := s.handleOf t.bid
  epoch := win.epoch.toNat
  vdn := v
  addr := ipa
  data

/-- The write's packet, which waits for the local port. -/
def State.writePost (s : State) (t : Thread) (w : Nat) (win : Window) (v ipa : Nat) (data : List Byte) : Posted where
  id := s.nextId + 1
  tok := s.nextId
  bid := t.bid
  grp := t.grp
  pkt := s.packetTo (s.handleOf t.bid) (s.envOf t.bid).f v (.write w win.inc.toNat win.epoch.toNat 0 ipa data)

section

variable {g : BitVec 3} {sz : BitVec 2} {w : BitVec 5} {a b : BitVec 7} {s : State} {k : ThreadKey} {t : Thread} {rest : List IssueSet}
  {v ipa n : Nat} {win : Window}
variable (ha : s.Alone (.fst g sz w a b) k t rest) (hn : 4 * 2 ^ sz.toNat = n) (hwin : s.window (s.envOf t.bid).f w.toNat = win)
  (hc : s.check (s.envOf t.bid) .fst (t.addr a.toNat) n n = .ok (.peer v ipa))
include ha hn hwin hc

theorem fst_state (ht : win.takes = false) : exec (.fst g sz w a b) s =
    .next ((s.numbered.takeTrap k t.pc t.pc { cause := 18, addr := t.addr a.toNat, aux := 0 }).endIssue rest) := by
  subst hn hwin
  have hc' : s.numbered.check (s.numbered.envOf t.bid) .fst (t.addr a.toNat) (4 * 2 ^ sz.toNat) (4 * 2 ^ sz.toNat) = .ok (.peer v ipa) := hc
  show execFst g sz w a b s = _
  refine inTurn_raises (x := addrTrap .windowState (t.addr a.toNat)) ha ?_
  dsimp only
  rw [hc']
  exact if_pos (failed ht)

variable (ht : win.takes = true)
include ht

theorem fst_full (hfull : win.sent v = 2 ^ 24 - 1 ∨ 65536 < win.held + n) : exec (.fst g sz w a b) s =
    .next ((s.numbered.takeTrap k t.pc t.pc { cause := 17, addr := t.addr a.toNat, aux := 0 }).endIssue rest) := by
  subst hn hwin
  have hc' : s.numbered.check (s.numbered.envOf t.bid) .fst (t.addr a.toNat) (4 * 2 ^ sz.toNat) (4 * 2 ^ sz.toNat) = .ok (.peer v ipa) := hc
  show execFst g sz w a b s = _
  refine inTurn_raises (x := addrTrap .windowFull (t.addr a.toNat)) ha ?_
  dsimp only
  rw [hc']
  exact (if_neg (not_failed ht)).trans (if_pos ((windowFull_iff ..).2 hfull))

theorem fst_writes (hsent : win.sent v ≠ 2 ^ 24 - 1) (hheld : win.held + n ≤ 65536) {data : List Byte}
    (hd : leBytes (t.opdVal (dataOpd (2 + sz.toNat) b.toNat)) n = data) : exec (.fst g sz w a b) s =
    .next (((({ s.setWindow (s.envOf t.bid).f w.toNat { win.addSent v 1 with buf := win.buf ++ [s.keptWrite t win v ipa data] } with
      nextId := s.nextId + 2, posts := s.posts ++ [s.writePost t w.toNat win v ipa data] } : State).updThread k fun t => t.next 4).counted
        (.fst g sz w a b) t.bid t.grp s.nextId).endIssue rest) := by
  obtain rfl := ha.key
  subst hn hwin hd
  have hc' : s.numbered.check (s.numbered.envOf t.bid) .fst (t.addr a.toNat) (4 * 2 ^ sz.toNat) (4 * 2 ^ sz.toNat) = .ok (.peer v ipa) := hc
  have hroom := mt (windowFull_iff (s.window (s.envOf t.bid).f w.toNat) v (4 * 2 ^ sz.toNat)).1 (by omega)
  show execFst g sz w a b s = _
  refine inTurn_counts ha ?_ rfl
  dsimp only
  rw [hc']
  exact (if_neg (not_failed ht)).trans (if_neg hroom)

end

/-! Requests (R200). -/

/-- The predicate that a request's answer writes: none for p7. -/
def predOf (p : BitVec 3) : Option Nat := if p = 7 then none else some p.toNat

theorem predOf_eq (p : BitVec 3) : (if p.toNat = 7 then none else some p.toNat) = predOf p := by
  unfold predOf
  simp only [show p.toNat = 7 ↔ p = 7 from BitVec.toNat_inj (y := 7)]

theorem fabricAccess_requests {i : Instr} {s s2 : State} {k : ThreadKey} {t : Thread} {rest : List IssueSet} {f : Nat → State → Thread → TRes}
    {acc : Acc} {a n v ipa : Nat} {op : PeerOp} {dst : List Nat} {p : BitVec 3} (ha : s.Alone i k t rest)
    (hf : f s.nextId s.numbered t = s.numbered.fabricAccess t s.nextId acc a n op dst p.toNat)
    (hc : s.check (s.envOf t.bid) acc (t.addr a) n n = .ok (.peer v ipa))
    (hr : s.numbered.requestFor t s.nextId v ipa (t.addr a) op dst 0 (predOf p) false = some s2) (h2 : s2.Solo t.bid) :
    s.inTurn i f = .next (((s2.updThread k fun t => (t.await dst (predOf p)).next 4).counted i t.bid t.grp s.nextId).endIssue rest) := by
  obtain rfl := ha.key
  have hc' : s.numbered.check (s.numbered.envOf t.bid) acc (t.addr a) n n = .ok (.peer v ipa) := hc
  refine inTurn_ok ha (hf.trans ?_) h2
  unfold State.fabricAccess
  dsimp only
  rw [hc']
  dsimp only
  rw [predOf_eq, hr]

end Sys2Proof.Machine

open Sys2Proof.Machine in
/-- Settles O31: a write by its window's state and room, a request by the form that its instruction gives it. -/
theorem fabricWrites : Obligations.FabricWrites := by
  refine ⟨fun g sz w a b s k t rest v ipa ha hc => ⟨fun ht hsent hheld => fst_writes ha rfl rfl hc ((takes_iff _).2 ht) hsent hheld rfl,
    fun ht => fst_state ha rfl rfl hc (not_takes ht), fun ht hfull => fst_full ha rfl rfl hc ((takes_iff _).2 ht) hfull⟩,
    fun g d a sz x p s k t rest i acc n op dst v ipa s2 hm ha hc hr h2 => ?request⟩
  obtain ⟨f, he, hf⟩ : ∃ f : Nat → State → Thread → TRes, exec i s = s.inTurn i f ∧
      f s.nextId s.numbered t = s.numbered.fabricAccess t s.nextId acc a.toNat n op dst p.toNat := by
    simp only [List.mem_cons, List.not_mem_nil, or_false, Prod.mk.injEq] at hm
    obtain ⟨rfl, rfl, rfl, rfl, rfl⟩ | ⟨rfl, rfl, rfl, rfl, rfl⟩ := hm
    · exact ⟨_, (rfl : execFld g d a sz p s = _), rfl⟩
    · refine ⟨_, (rfl : execFatom g d a x p s = _), ?_⟩
      fin_cases x <;> rfl
  rw [he]
  exact fabricAccess_requests ha hf hc hr h2

end

/-! # The copy and matrix engines at work (R174 to R193, R265 to R278) -/

section

namespace Sys2Proof.Machine

/-! A command in its engine's queue. -/

theorem updCopy_copies_find {s : State} {c d : CopyCmd} (hid : d.id = c.id) (h : (s.copies.find? fun x => x.id == c.id).isSome = true) :
    (s.updCopy d).copies.find? (fun x => x.id == c.id) = some d := by
  unfold State.updCopy
  rw [hid, find?_updFirst fun _ _ => by simp [hid]]
  obtain ⟨x, hx⟩ := Option.isSome_iff_exists.1 h
  rw [hx]
  rfl

/-- A copy's event, outside the matrix engine's queue and with nothing to wait for, is `copyLand`'s by its kind. -/
theorem copyElementLand_copies {s : State} {id k : Nat} (hm : (s.mcmds.find? fun m => m.id == id) = none) :
    exec (.copyElementLand id k) s = .next (s.copyLand id k) := by
  show execCopyElementLand id k s = _
  unfold execCopyElementLand
  rw [hm]

section

variable {s : State} {c : CopyCmd} {k : Nat}
variable (hc : (s.copies.find? fun x => x.id == c.id) = some c) (ha : s.acqHeld c.bid c.grp c.tid c.before = false)

section

variable {w : List Word} (hk : c.kind = .bulk w) (hf : c.fabric = none)
include hc ha hk hf

theorem copyLand_element (hlt : k < (bulkOf w).count) : s.copyLand c.id k = s.landElem c (bulkOf w) k := by
  unfold State.copyLand
  simp only [hc, ha, hk, hf, if_pos hlt, Bool.false_eq_true, if_false]

theorem copyLand_access : s.copyLand c.id ((bulkOf w).count + k) = (s.startElem c (bulkOf w) k).elemStep c.id k := by
  unfold State.copyLand
  simp only [hc, ha, hk, hf, Bool.false_eq_true, if_false, if_neg (Nat.not_lt.2 (Nat.le_add_right (bulkOf w).count k)), Nat.add_sub_cancel_left]

end

/-! Elements that start (R266). -/

theorem startElem_started {b : Bulk} (h : (c.begun.any fun o => o.k == k) = true) : s.startElem c b k = s := by
  unfold State.startElem
  rw [if_pos]
  simp only [h, Bool.or_true, Bool.true_or]

/-- A copy's command with its next element alone started. -/
def CopyCmd.started (c : CopyCmd) (k id : Nat) (x y : Target) : CopyCmd :=
  { c with begun := [{ k, src := x, dst := y, id, got := [], put := 0 }] }

section

variable {b : Bulk} {x y : Target} (hh : c.h = k) (hmore : c.more = []) (hbegun : c.begun = [])
variable (hrun : (s.block? c.bid).any (fun b => b.status == .running) = true) (he : s.elemAt (s.envOf c.bid) b k = .ok (x, y))
include hh hmore hbegun hrun he

theorem begin_next : s.begin (s.envOf c.bid) b c k = some (c.started k s.nextId x y) := by
  have hnew : (((List.range (k + 1 - c.h)).map fun i => c.h + i).filter fun i => !c.more.contains i && !c.begun.any fun x => x.k == i) = [k] := by
    rw [hh, hmore, hbegun, Nat.add_sub_cancel_left]
    simp
  have hmay : s.mayStart c = true := hrun
  unfold State.begin
  rw [hnew, if_neg (by rw [hmay, hh]; simp)]
  simp only [List.foldl_cons, List.foldl_nil, Option.bind_some, he, hbegun]
  rfl

theorem startElem_next (hlt : k < b.count) (hmiss : s.missing (s.envOf c.bid) (b.addrs k 1) = []) :
    s.startElem c b k = s.updCopy (c.started k s.nextId x y) := by
  have hone : min 1024 (k + 1 - c.h) = 1 := by omega
  unfold State.startElem
  rw [hone, hh, hmiss, hmore, hbegun, if_neg (by simpa using hlt), begin_next hh hmore hbegun hrun he]
  rfl

include hc ha in
/-- The engine starts the next element of a bulk copy before it works on it. -/
theorem copyElementLand_starts {w : List Word} (hb : b = bulkOf w) (hk : c.kind = .bulk w) (hf : c.fabric = none)
    (hm : (s.mcmds.find? fun m => m.id == c.id) = none)
    (hlt : k < b.count) (hmiss : s.missing (s.envOf c.bid) (b.addrs k 1) = []) :
    exec (.copyElementLand c.id k) s = exec (.copyElementLand c.id k) (s.updCopy (c.started k s.nextId x y)) := by
  subst hb
  have hfound := updCopy_copies_find (s := s) (c := c) (d := c.started k s.nextId x y) rfl (by rw [hc]; rfl)
  have hland : (s.updCopy (c.started k s.nextId x y)).copyLand c.id k = _ := copyLand_element (c := c.started k s.nextId x y) hfound ha hk hf hlt
  rw [copyElementLand_copies hm, copyElementLand_copies (s := s.updCopy _) hm, copyLand_element hc ha hk hf hlt, hland]
  unfold State.landElem
  rw [startElem_next hh hmore hbegun hrun he hlt hmiss, startElem_started (by simp [CopyCmd.started])]
  rfl

end

/-! Accesses of a started element (R176, R258). -/

section

variable {w : List Word} {o : Begun} (hk : c.kind = .bulk w) (hf : c.fabric = none) (ho : (c.begun.find? fun o => o.k == k) = some o)
include hc ha hk hf ho

theorem copyLand_started : s.copyLand c.id ((bulkOf w).count + k) = s.elemStep c.id k := by
  have hany : (c.begun.any fun o => o.k == k) = true :=
    List.any_eq_true.2 ⟨o, List.mem_of_find?_eq_some ho, List.find?_some (p := fun o : Begun => o.k == k) ho⟩
  rw [copyLand_access hc ha hk hf, startElem_started hany]

omit ha hf in
theorem elemStep_reads (hgot : o.got.length < (bulkOf w).z) (hbl : s.blocked (s.envOf c.bid).core false o.src = false)
    (hmay : s.mayRead (s.envOf c.bid) (bulkOf w) c o = true) (hp : s.poison o.src (bulkOf w).z = false) :
    s.elemStep c.id k = (s.readMore (s.envOf c.bid) o (bulkOf w).z).1.updCopy (c.updBegun (s.readMore (s.envOf c.bid) o (bulkOf w).z).2) := by
  unfold State.elemStep
  simp only [hc, hk, ho, if_pos hgot, hbl, hmay, hp, Bool.not_true, Bool.or_false, Bool.false_eq_true, if_false]

omit ha hf in
theorem elemStep_writes (hgot : (bulkOf w).z ≤ o.got.length) (hbl : s.blocked (s.envOf c.bid).core true o.dst = false)
    (hmay : mayWrite (bulkOf w) c o = true) (hp : s.poison o.dst (bulkOf w).z = false) :
    s.elemStep c.id k = if (s.writeMore (s.envOf c.bid) o (bulkOf w).z).2.put < (bulkOf w).z
      then (s.writeMore (s.envOf c.bid) o (bulkOf w).z).1.updCopy (c.updBegun (s.writeMore (s.envOf c.bid) o (bulkOf w).z).2)
      else (s.writeMore (s.envOf c.bid) o (bulkOf w).z).1.elemLanded c (bulkOf w) k := by
  unfold State.elemStep
  simp only [hc, hk, ho, if_neg (Nat.not_lt.2 hgot), hbl, hmay, hp, Bool.not_true, Bool.or_false, Bool.false_eq_true, if_false]

end

theorem owe_bid (c : CopyCmd) (bid n : Nat) : (c.owe bid n).bid = c.bid := by
  unfold CopyCmd.owe
  split <;> rfl

theorem owe_core (c : CopyCmd) (bid n : Nat) : (c.owe bid n).core = c.core := by
  unfold CopyCmd.owe
  split <;> rfl

/-- A copy's command once element `k` has landed. -/
def CopyCmd.landed (c : CopyCmd) (b : Bulk) (k : Nat) : CopyCmd :=
  let h := prefixOf (k :: c.more) c.h (c.more.length + 1)
  ({ c with h, more := (k :: c.more).filter (fun m => h ≤ m), begun := c.begun.filter fun o => o.k != k } : CopyCmd).owe c.bid b.z

theorem elemLanded_landed (s : State) (c : CopyCmd) (b : Bulk) (k : Nat) :
    let d := c.landed b k
    let u := (s.updCopy d).landBytes d b.z
    s.elemLanded c b k =
      if prefixOf (k :: c.more) c.h (c.more.length + 1) = b.count ∨ ((u.block? c.bid).any Block.dying && d.over) = true then u.dropCopy d
      else u := by
  have hbid : (c.landed b k).bid = c.bid := owe_bid ..
  dsimp only
  rw [← hbid]
  unfold State.elemLanded
  simp only [Bool.or_eq_true, decide_eq_true_eq]
  rfl

/-! Copies that stop (R178). -/

include hc ha in
theorem engineFaultStop_stops {w : List Word} {x : TrapInfo} (hk : c.kind = .bulk w) (hf : c.fabric = none) (hlt : c.h < (bulkOf w).count)
    (hno : ∀ o ∈ c.begun, o.k ≠ c.h) (hmay : s.mayStart c = true) (hmiss : s.copyMisses c = [])
    (he : s.elemAt (s.envOf c.bid) (bulkOf w) c.h = .error x) :
    exec (.engineFaultStop c.id) s = .next ((s.dropCopy c).deferTrap ((s.block? c.bid).elim 0 fun b => b.lid) { bid := c.bid, tid := c.tid } c.pc
      { cause := x.cause.code, addr := x.addr, aux := BitVec.ofNat 32 (c.h * (bulkOf w).z) }) := by
  have hnone : (c.begun.any fun o => o.k == c.h) = false := by simpa using hno
  have hcomes : s.comesTo c = true := by
    unfold State.comesTo
    rw [hk]
    exact hmay
  have hfault : s.copyFault c = some (x, c.h * (bulkOf w).z) := by
    unfold State.copyFault
    simp only [hk, hf, hlt, hnone, he, decide_true, Bool.not_false, Bool.and_self, if_true]
  have hback (f : Nat) : s.takeBack f c = s := by
    unfold State.takeBack
    simp only [hf, Option.isSome_none, Bool.false_eq_true, if_false]
  show execEngineFaultStop c.id s = _
  unfold execEngineFaultStop State.copyStop
  simp only [hc, ha, hcomes, hmiss, hfault, hback, List.isEmpty_nil, Bool.not_true, Bool.or_false, Bool.false_eq_true, if_false]

/-! Parts of a per-lane issue (R174, R265). -/

@[simp] theorem lanesOf_bid (parts : List (VAddr × Target × Target)) : (lanesOf c parts).bid = c.bid := by
  unfold lanesOf
  split <;> rfl

section

variable {n : Nat} {parts : List (VAddr × Target × Target)} {o : Begun} (hk : c.kind = .lane n parts)
variable (ho : ((lanesOf c parts).begun.find? fun o => o.k == k) = some o)
include hc hk

include ha in
theorem copyLand_lane : s.copyLand c.id (parts.length + k) = s.laneStep c.id k := by
  unfold State.copyLand
  simp only [hc, ha, hk, Bool.false_eq_true, if_false, if_neg (Nat.not_lt.2 (Nat.le_add_right parts.length k)), Nat.add_sub_cancel_left]

include ho

theorem laneStep_reads (hgot : o.got.length < n) (hbl : s.blocked (s.envOf c.bid).core false o.src = false) (hp : s.poison o.src n = false) :
    s.laneStep c.id k = s.laneRead (lanesOf c parts) n o := by
  unfold State.laneStep
  simp only [hc, hk, ho, lanesOf_bid, if_pos hgot, hbl, hp, Bool.false_eq_true, if_false]

theorem laneStep_writes (hgot : ∀ x ∈ (lanesOf c parts).begun, n ≤ x.got.length) (hbl : s.blocked (s.envOf c.bid).core true o.dst = false)
    (hp : s.poison o.dst n = false) : s.laneStep c.id k = s.laneWrite (lanesOf c parts) n o := by
  have hmine : ¬ o.got.length < n := Nat.not_lt.2 (hgot o (List.mem_of_find?_eq_some ho))
  have hall : ((lanesOf c parts).begun.any fun x => x.got.length < n) = false := by simpa using hgot
  unfold State.laneStep
  simp only [hc, hk, ho, lanesOf_bid, if_neg hmine, hall, hbl, hp, Bool.or_false, Bool.false_eq_true, if_false]

end

/-! Lines of a multicast (R180, R181, R269). -/

theorem owe_foldl_frame (l : List Block) (n : Nat) (c : CopyCmd) :
    (l.foldl (fun (c : CopyCmd) b => c.owe b.bid n) c).bid = c.bid ∧ (l.foldl (fun (c : CopyCmd) b => c.owe b.bid n) c).core = c.core := by
  induction l generalizing c with
  | nil => exact ⟨rfl, rfl⟩
  | cons b r ih =>
    obtain ⟨hbid, hcore⟩ := ih (c.owe b.bid n)
    rw [List.foldl_cons, hbid, hcore]
    exact ⟨owe_bid .., owe_core ..⟩

/-- A multicast's command once a line has been delivered to a unit: the line's other units are left. -/
def CopyCmd.delivered (c : CopyCmd) (s : State) (w : List Word) (k q : Nat) (data : List Byte) : CopyCmd :=
  let left := c.lines.filter fun l => l.2.1 != q
  (s.writtenAt c (c.core / 4 * 4 + q)).foldl (fun c b => c.owe b.bid data.length) ({ c with
    lines := left, h := if left = [] then k + data.length / (bulkOf w).z else c.h } : CopyCmd)

@[simp] theorem delivered_bid (w : List Word) (q : Nat) (data : List Byte) : (c.delivered s w k q data).bid = c.bid := (owe_foldl_frame _ _ _).1

@[simp] theorem delivered_core (w : List Word) (q : Nat) (data : List Byte) : (c.delivered s w k q data).core = c.core := (owe_foldl_frame _ _ _).2

section

variable {w : List Word} {m : Word} {q off n : Nat} {data : List Byte} (hk : c.kind = .mcast w m)
variable (hl : (c.lines.find? fun l => l.1 == k && l.2.1 == n % 4) = some (k, q, off, data))
include hc hk hl

theorem mcastLineDeliver_waits (hd : s.deliverLine c (c.core / 4 * 4 + q) off data = none) : exec (.mcastLineDeliver c.id k n) s = .next s := by
  show execMcastLineDeliver c.id k n s = _
  unfold execMcastLineDeliver State.castLine
  simp only [hc, hk, hl, hd]

variable {t : State} (hd : s.deliverLine c (c.core / 4 * 4 + q) off data = some t)
include hd

theorem castLine_delivers :
    let d := c.delivered s w k q data
    let last := (c.lines.filter fun l => l.2.1 != q).isEmpty
    let u := if last then (t.updCopy d).coreEvent d.core 13 data.length else t.updCopy d
    s.castLine c.id k n = if last && (d.h == (bulkOf w).count || (u.block? d.bid).any Block.dying) then u.dropCopy d else u := by
  unfold State.castLine CopyCmd.delivered
  rw [hc]
  dsimp only
  split
  · rename_i w' m' k' q' off' data' hk' hl'
    obtain ⟨rfl, rfl⟩ := CopyKind.mcast.inj (hk.symm.trans hk')
    obtain ⟨rfl, rfl, rfl, rfl⟩ := hl.symm.trans hl'
    rw [hd]
    simp only [List.isEmpty_iff]
    rfl
  · rename_i hno
    exact absurd hl (hno _ _ _ _ _ _ hk)

theorem mcastLineDeliver_more (hleft : (c.lines.filter fun l => l.2.1 != q) ≠ []) :
    exec (.mcastLineDeliver c.id k n) s = .next (t.updCopy (c.delivered s w k q data)) := by
  have hlast : (c.lines.filter fun l => l.2.1 != q).isEmpty = false := by simpa using hleft
  show Host.Outcome.next (s.castLine c.id k n) = _
  rw [castLine_delivers hc hk hl hd, hlast]
  rfl

theorem mcastLineDeliver_last (hleft : (c.lines.filter fun l => l.2.1 != q) = []) :
    let d := c.delivered s w k q data
    let u := (t.updCopy d).coreEvent c.core 13 data.length
    exec (.mcastLineDeliver c.id k n) s = .next (if d.h = (bulkOf w).count ∨ (u.block? c.bid).any Block.dying = true then u.dropCopy d else u) := by
  have hlast : (c.lines.filter fun l => l.2.1 != q).isEmpty = true := by simpa using hleft
  show Host.Outcome.next (s.castLine c.id k n) = _
  rw [castLine_delivers hc hk hl hd, hlast]
  simp only [delivered_bid, delivered_core, if_true, Bool.true_and, Bool.or_eq_true, beq_iff_eq]

end

end

/-! What the engine reads and writes in local memory (R251, R265). -/

theorem touchRead_serves (s : State) (f tag : Nat) (t : Target) (n : Nat) : Serves s (s.touchRead f tag t n) := by
  unfold State.touchRead
  split
  · exact .foldl (fun s k => (downgrade_serves ..).trans (mereTouch_serves ..)) _ s
  · exact .refl s

theorem serveRead_serves (s : State) (e : Env) (t : Target) (n : Nat) : Serves s (s.serveRead e t n) := by
  unfold State.serveRead
  split
  · exact (touchRead_serves ..).trans (carried_serves ..)
  · exact .refl s

theorem writeTgt_loc_mem {s : State} (q : s.Quiet) (e : Env) (writer : Option Nat) (pa : Nat) (bs : List Byte) :
    (s.writeTgt e writer (.loc pa) bs).mem = s.mem.store pa bs :=
  homeWrite_mem (.refl s) (carried_serves ..) q

theorem writeMask_mem {s : State} (q : s.Quiet) (e : Env) (line : Nat) (bs : List (Nat × Byte)) :
    (s.writeMask e line bs).mem = bs.foldl (fun (m : Memory) b => m.setByte b.1 b.2) s.mem := by
  have h : Serves s (((s.pace e.f (128 * line) 1).probe none line).mereTouch e.f e.tag line bs.length true) :=
    ((pace_serves ..).trans (probe_serves ..)).trans (mereTouch_serves ..)
  have hquiet := h.quiet q
  rw [← h.mem q]
  exact ((mark_serves ..).trans (carried_serves ..)).mem hquiet

/-- After a list of bytes by address, a byte of memory is the last one listed for it. -/
theorem Memory.byte_foldl_setByte {m : Memory} (l : List (Nat × Byte)) (a : Nat) (h : m.wf = true) :
    (l.foldl (fun (m : Memory) b => m.setByte b.1 b.2) m).byte a = ((l.reverse.find? fun z => z.1 == a).map fun z => z.2).getD (m.byte a) := by
  induction l using List.reverseRecOn with
  | nil => rfl
  | append_singleton l x ih =>
    rw [List.foldl_append, List.foldl_cons, List.foldl_nil, Memory.byte_setByte _ _ _ (Memory.foldl_setByte_wf l h), ih, List.reverse_append,
      List.reverse_singleton, List.singleton_append, List.find?_cons]
    cases hx : x.1 == a with
    | true => rw [if_pos (beq_iff_eq.1 hx).symm]; rfl
    | false => rw [if_neg (Ne.symm (beq_eq_false_iff_ne.1 hx))]

/-- Of the bytes listed for an address the last one is kept. -/
theorem find?_lastBytes (l : List (Nat × Byte)) (a : Nat) :
    ((lastBytes l).reverse.find? fun z => z.1 == a) = l.reverse.find? fun z => z.1 == a := by
  induction l using List.reverseRecOn with
  | nil => rfl
  | append_singleton l x ih =>
    have hstep : lastBytes (l ++ [x]) = (lastBytes l).filter (fun y => y.1 != x.1) ++ [x] := by
      unfold lastBytes
      rw [List.foldl_append]
      rfl
    rw [hstep, List.reverse_append, List.reverse_append, List.reverse_singleton, List.singleton_append, List.singleton_append, List.find?_cons,
      List.find?_cons, ← List.filter_reverse, List.find?_filter]
    cases hx : x.1 == a with
    | true => rfl
    | false =>
      rw [← ih]
      refine congrArg (fun p => (lastBytes l).reverse.find? p) (funext fun y => ?_)
      by_cases hy : y.1 = a
      · simpa [hy] using Ne.symm (beq_eq_false_iff_ne.1 hx)
      · simp [hy]

/-! A copy's landing leaves memory as its write left it. -/

theorem landBar_mem (s : State) (bid : Nat) (bind : Option Nat) (n : Nat) : (s.landBar bid bind n).mem = s.mem := by
  unfold State.landBar
  split
  · rfl
  · dsimp only
    split
    · split <;> rfl
    · rfl

theorem landLate_mem (s : State) (bid : Nat) (bind : Option Nat) (n : Nat) : (s.landLate bid bind n).mem = s.mem := by
  unfold State.landLate
  dsimp only
  split
  · rfl
  · exact landBar_mem ..

theorem coreEvent_mem (s : State) (c src n : Nat) : (s.coreEvent c src n).mem = s.mem := by
  unfold State.coreEvent
  dsimp only
  split <;> rfl

theorem landBytes_mem (s : State) (c : CopyCmd) (n : Nat) : (s.landBytes c n).mem = s.mem := by
  unfold State.landBytes
  rw [coreEvent_mem]
  split
  · rfl
  · exact landBar_mem ..

theorem settleCnt_mem (s : State) (bid grp : Nat) (c : Counter) (tok : Nat) : (s.settleCnt bid grp c tok).mem = s.mem := by
  unfold State.settleCnt
  split <;> rfl

theorem dropCopy_mem (s : State) (c : CopyCmd) : (s.dropCopy c).mem = s.mem := by
  have hfold (l : List (Nat × Nat)) (s : State) : (l.foldl (fun s o => s.landLate o.1 c.bind o.2) s).mem = s.mem := by
    induction l generalizing s with
    | nil => rfl
    | cons o r ih => rw [List.foldl_cons, ih, landLate_mem]
  unfold State.dropCopy
  rw [settleCnt_mem]
  exact hfold ..

/-! A line of a per-lane issue (R265). -/

/-- The bytes that a per-lane issue writes to the line of local memory in which a part's destination lies, by address. -/
def CopyCmd.lineBytes (c : CopyCmd) (o : Begun) : List (Nat × Byte) :=
  (c.begun.filter fun y => sameLine y.dst o.dst).flatMap fun y => match y.dst with
    | .loc p => y.got.zipIdx.map fun z => (p + z.2, z.1)
    | _ => []

section

variable {s : State} {c : CopyCmd} {n x : Nat} {o : Begun} (q : s.Quiet)

include q in
theorem laneRead_mem (hs : o.src = .loc x) : (s.laneRead c n o).mem = s.mem := by
  unfold State.laneRead
  rw [hs]
  exact (serveRead_serves ..).mem q

/-- Every part of the issue that lies in the line has its bytes. -/
theorem laneRead_copies (hs : o.src = .loc x) (hc : (s.copies.find? fun y => y.id == c.id).isSome = true) :
    ((s.laneRead c n o).copies.find? fun y => y.id == c.id) = some { c with begun := c.begun.map fun y =>
      if (c.begun.any fun z => z.got.isEmpty && sameLine z.src o.src && z.k == y.k) = true
      then { y with got := s.bytesAt (s.envOf c.bid).bid y.src n } else y } := by
  unfold State.laneRead
  simp only [hs, List.any_filter]
  refine updCopy_copies_find rfl ?_
  rw [(serveRead_serves ..).frame]
  exact hc

include q in
theorem laneWrite_mem (hd : o.dst = .loc x) : (s.laneWrite c n o).mem =
    (lastBytes (c.lineBytes o)).foldl (fun (m : Memory) b => m.setByte b.1 b.2) s.mem := by
  rw [← writeMask_mem q (s.envOf c.bid) (lineOf x)]
  unfold State.laneWrite CopyCmd.lineBytes
  rw [hd]
  dsimp only
  split
  · exact landBytes_mem ..
  · exact (dropCopy_mem ..).trans (landBytes_mem ..)

include q in
theorem laneWrite_byte (hwf : s.mem.wf = true) (hd : o.dst = .loc x) (a : Nat) : (s.laneWrite c n o).mem.byte a =
    (((c.lineBytes o).reverse.find? fun z => z.1 == a).map fun z => z.2).getD (s.mem.byte a) := by
  rw [laneWrite_mem q hd, Memory.byte_foldl_setByte _ _ hwf, find?_lastBytes]

end

/-! A multicast's line at a unit with one running block (R181). -/

theorem deliverLine_put {s : State} {c : CopyCmd} {b : Block} {core off : Nat} {data : List Byte}
    (hone : (s.blocks.filter fun x => x.core == core && x.lid == (s.block? c.bid).elim 0 (fun b => b.lid) && x.role != .trail && !x.dying) = [b])
    (hst : b.started = true) (hsaved : s.saved = []) : s.deliverLine c core off data = some (s.putLine c b.bid off data) := by
  have hrun : s.writtenAt c core = [b] := by
    calc s.writtenAt c core = [b].filter fun x => x.started := by
          rw [← hone, List.filter_filter]
          exact List.filter_congr fun x _ => Bool.and_comm ..
      _ = [b] := by simp [hst]
  have hwait : s.stagedFor ((s.block? c.bid).elim 0 fun b => b.lid) core = [] := by
    calc s.stagedFor ((s.block? c.bid).elim 0 fun b => b.lid) core = ([b].filter fun x => !x.started).map fun x => x.blk := by
          unfold State.stagedFor
          rw [← hone, List.filter_filter, hsaved, List.filter_nil, List.map_nil, List.append_nil]
          exact congrArg _ (List.filter_congr fun x _ => Bool.and_comm ..)
      _ = [] := by simp [hst]
  unfold State.deliverLine
  simp only [hrun, hwait]
  rfl

end Sys2Proof.Machine

end

/-! # Matrix commands, scrubs and gang latches at work (R183 to R193, R271 to R278) -/

section

namespace Sys2Proof.Machine

section

variable {s : State} {bid grp : Nat} {m : MatCmd}

/-! Commands that reach no memory (R186, R188, R193). -/

section

variable (hm : s.matHead bid grp = some m) (ht : s.matTurn m = true)
include hm ht

theorem matrixCommandComplete_pcfg {p : Pcfg} (hk : m.kind = .pcfg p) : exec (.matrixCommandComplete bid grp) s = .next (s.dropMat m) := by
  show execMatrixCommandComplete bid grp s = _
  unfold execMatrixCommandComplete State.matComplete
  simp only [hm, ht, hk, Bool.not_true, Bool.false_eq_true, if_false]

theorem matrixCommandComplete_azero {t n : Nat} (hk : m.kind = .azero t n) :
    exec (.matrixCommandComplete bid grp) s = .next ((s.setCore m.core { s.core m.core with
      tiles := (s.core m.core).tiles.filter fun e => e.1 < 8192 * t || 8192 * (t + n) ≤ e.1 }).dropMat m) := by
  show execMatrixCommandComplete bid grp s = _
  unfold execMatrixCommandComplete State.matComplete
  simp only [hm, ht, hk, Bool.not_true, Bool.false_eq_true, if_false]

/-- Without participants that wait for its metadata an `mma` always sets its cells, and its groups' status words. -/
theorem matrixCommandComplete_mma {f n rows acc sa sb : Nat} {md : Option Nat} {gang : List Nat} (hk : m.kind = .mma f n rows acc sa sb md gang)
    (hp : m.part = []) : exec (.matrixCommandComplete bid grp) s =
      .next (((m.groups.foldl (fun u g => u.updGroup m.bid g fun g =>
          { g with mstat := g.mstat ||| ((s.core m.core).mma f n rows acc sa sb md m.cfg).2 })
        (((s.setCore m.core ((s.core m.core).mma f n rows acc sa sb md m.cfg).1).coreEvent m.core 14 1).meter (s.envOf m.bid).f (dieOf m.core)
          (macMeter f) (rows * n * mmaK f))).passSparse m).dropMat m) := by
  show execMatrixCommandComplete bid grp s = _
  unfold execMatrixCommandComplete State.matComplete
  simp only [hm, ht, hk, Bool.not_true, Bool.false_eq_true, if_false]
  unfold State.runMma
  simp only [hp, List.isEmpty_nil, Bool.not_true, Bool.false_and, Bool.false_eq_true, if_false]

end

/-! Commands that reach memory, outside a pair (R189 to R192). -/

section

variable {b : Block} (hb : s.block? m.bid = some b) (hsolo : b.role = .solo)
include hb hsolo

theorem twinCmd_solo : s.twinCmd m = none := by
  unfold State.twinCmd
  rw [hb]
  dsimp only
  rw [hsolo]
  rfl

theorem pairTurn_solo (hmiss : s.matMisses m = []) : s.pairTurn m = true := by
  unfold State.pairTurn
  simp only [hb, hsolo, hmiss, List.isEmpty_nil]

theorem rowsAlike_solo (tile : Nat) (w : List Word) : s.rowsAlike m tile w = drainRows w := by
  unfold State.rowsAlike
  rw [twinCmd_solo hb hsolo]

theorem pairPieces_solo : s.pairPieces m = none := by
  unfold State.pairPieces
  split
  · exact if_pos (rowsAlike_solo hb hsolo ..)
  · exact if_pos (rowsAlike_solo hb hsolo ..)
  · rfl

theorem runMemory_runs {l : List (VAddr × Target × Nat)} (hl : s.matPieces m = (l, none)) (hw : s.piecesWait m l = false)
    (hp : ∀ p ∈ l, s.poison p.2.1 p.2.2 = false) : s.runMemory m = (s.runPieces m l).dropBoth m := by
  have hfind : (l.find? fun p => s.poison p.2.1 p.2.2) = none := List.find?_eq_none.2 fun p hp' => by simp [hp p hp']
  unfold State.runMemory
  simp only [hl, hw, hfind, pairPieces_solo hb hsolo, Bool.false_eq_true, if_false]

theorem matrixCommandComplete_memory {l : List (VAddr × Target × Nat)} (hm : s.matHead bid grp = some m) (ht : s.matTurn m = true)
    (hk : m.kind.onMemory = true) (hl : s.matPieces m = (l, none)) (hmiss : s.matMisses m = []) (hw : s.piecesWait m l = false)
    (hp : ∀ p ∈ l, s.poison p.2.1 p.2.2 = false) : exec (.matrixCommandComplete bid grp) s = .next ((s.runPieces m l).dropBoth m) := by
  show execMatrixCommandComplete bid grp s = _
  unfold execMatrixCommandComplete State.matComplete
  rw [hm]
  dsimp only
  rw [if_neg (not_failed ht), ← runMemory_runs hb hsolo hl hw hp]
  split
  · next h => rw [h] at hk; cases hk
  · next h => rw [h] at hk; cases hk
  · next h => rw [h] at hk; cases hk
  · rw [if_pos (pairTurn_solo hb hsolo hmiss)]

/-- A slot fill that faults kills its block: the launch's record and the block's relaunches say whether it is placed again. -/
theorem slotFillFault_kills {l : Launch} {x : TrapInfo} (hm : s.matHead bid grp = some m) (ht : s.matTurn m = true) (hbid : m.bid = bid)
    (hlive : b.dying = false) (hlaunch : s.launch? b.lid = some l) (hx : (s.matPieces m).2 = some x) (hmiss : s.matMisses m = [])
    (hk : ∃ n w, m.kind = .fill n w ∨ m.kind = .fillDq n w) :
    exec (.slotFillFault bid grp) s = .next ((s.updBlock bid fun y => { y with
      record := if l.record.restartable && b.relaunch < 3 then none else some { ErrRec.empty with
        kind := 2, cause := x.cause.code, blk := b.blk, pc := m.pc, addr := x.addr, tid := m.tid } }).killBlock bid
          (l.record.restartable && b.relaunch < 3) m.id) := by
  subst hbid
  have hfill : (match m.kind with | .fill _ _ | .fillDq _ _ => true | _ => false) = true := by
    obtain ⟨n, w, h | h⟩ := hk <;> rw [h]
  show execSlotFillFault m.bid grp s = _
  unfold execSlotFillFault State.fillFault
  simp only [hm, hb, ht, pairTurn_solo hb hsolo hmiss, hx, hlaunch, hlive, twinCmd_solo hb hsolo, Bool.not_true, Bool.or_false, Bool.false_eq_true,
    if_false]
  exact congrArg _ (if_neg (not_failed hfill))

/-- A fill or `aload` reads a piece of its memory ahead of the rest. -/
theorem copyElementLand_reads {k n : Nat} {va : VAddr} {t : Target} (hm : (s.mcmds.find? fun x => x.id == m.id) = some m) (ht : s.matTurn m = true)
    (hmiss : s.matMisses m = []) (hl : (s.matPieces m).1[k]? = some (va, t, n)) (hw : s.piecesWait m [(va, t, n)] = false)
    (hp : s.poison t n = false) (hk : ∃ sl w ti ea, m.kind = .fill sl w ∨ m.kind = .fillDq sl w ∨ m.kind = .aload ti ea)
    (hc : t.piece (n - (m.bytesOf k).length) ≠ 0) :
    exec (.copyElementLand m.id k) s = .next ((s.serveRead (s.envOf m.bid) (t.offset (m.bytesOf k).length)
      (t.piece (n - (m.bytesOf k).length))).updMat { m with
      moved := (m.moved.filter fun y => y.1 != k) ++ [(k, m.bytesOf k ++ s.bytesAt m.bid (t.offset (m.bytesOf k).length)
        (t.piece (n - (m.bytesOf k).length)))] }) := by
  have hmem : m.kind.onMemory = true := by
    obtain ⟨_, _, _, _, h | h | h⟩ := hk <;> rw [h] <;> rfl
  show execCopyElementLand m.id k s = _
  unfold execCopyElementLand State.matAhead
  simp only [hm, hmem, ht, pairTurn_solo hb hsolo hmiss, hl, hw, hc, hp, decide_false, Bool.not_true, Bool.or_false, Bool.false_eq_true, if_false]
  obtain ⟨_, _, _, _, h | h | h⟩ := hk <;> rw [h]

end

end

/-! Scrubs (R271). -/

section

variable {s : State} {core n : Nat}

theorem slotScrubDone_other (h : (s.core core).claim n ≠ .scrub) : exec (.slotScrubDone core n) s = .next s := by
  show execSlotScrubDone core n s = _
  exact congrArg _ (if_pos (bne_iff_ne.2 h))

section

variable (h : (s.core core).claim n = .scrub)
include h

theorem slotScrubDone_slot (hn : n < 64) : exec (.slotScrubDone core n) s =
    .next (s.setCore core { (s.core core).setClaims [n] .free with slots := (s.core core).slots.zero (8192 * n) 8192 }) := by
  show execSlotScrubDone core n s = _
  exact congrArg _ ((if_neg (by rw [h]; decide)).trans (congrArg (s.setCore core) (if_pos hn)))

theorem slotScrubDone_tile (hn : 64 ≤ n) : exec (.slotScrubDone core n) s =
    .next (s.setCore core { (s.core core).setClaims [n] .free with tiles := (s.core core).tiles.filter fun e => e.1 / 8192 != n - 64 }) := by
  show execSlotScrubDone core n s = _
  exact congrArg _ ((if_neg (by rw [h]; decide)).trans (congrArg (s.setCore core) (if_neg (Nat.not_lt.2 hn))))

end

end

/-! The latch of a gang (R187, R273). -/

/-- The groups that a group's latch waits for. -/
def State.gangOf (s : State) (bid : Nat) (g : Group) : List Group := if g.gang = 0 then [g] else s.members bid g.gang

theorem gangLatchFire_fires {s : State} {bid grp : Nat} {g : Group} {l : Latch} (hg : s.group? bid grp = some g) (hl : g.latch = some l)
    (hlist : g.gang = 0 → s.listed bid grp = false) (hall : ∀ x ∈ s.gangOf bid g, x.latch.isSome = true ∧ x.tl ≠ 63)
    (hq : s.matQueue (s.envOf bid).core bid 16 0 < 8) (hrun : (s.block? bid).any (fun b => b.status == .running) = true) :
    exec (.gangLatchFire bid grp) s = .next (if (s.gangOf bid g).all fun x => agree g x then s.gangQueue bid (s.gangOf bid g) g l
      else s.gangTrap bid (s.gangOf bid g)) := by
  have hlatch : ((s.gangOf bid g).any fun x => x.latch.isNone) = false := by
    simpa [Option.isSome_iff_ne_none] using fun x hx => (hall x hx).1
  have htl : ((s.gangOf bid g).any fun x => x.tl == 63) = false := by simpa using fun x hx => (hall x hx).2
  have hfree : (g.gang == 0 && s.listed bid grp) = false := by
    cases hz : g.gang == 0 with
    | true => rw [hlist (beq_iff_eq.1 hz), Bool.and_false]
    | false => rfl
  show execGangLatchFire bid grp s = _
  unfold execGangLatchFire State.fireLatch
  unfold State.gangOf at *
  simp only [hg, hl, hlatch, htl, decide_eq_false (Nat.not_le.2 hq), hrun, hfree, Bool.not_true, Bool.or_false, Bool.false_eq_true, if_false]

end Sys2Proof.Machine

open Sys2Proof.Machine in
/-- Settles O52: each event by the engine's one function for it, and memory by what the homes leave of it. -/
theorem engineSteps : Obligations.EngineSteps := by
  refine ⟨fun s c k hc hm ha => ⟨?start, ?access, ?stop, ?lane, ?line⟩, fun x n => rfl, ?piece, fun s e x y n bs ht hp => ⟨?reads, ?writes⟩,
    fun s c n x o hwf ht hp => ⟨?laneReads, ?laneWrites⟩, ?delivers, fun s bid grp m hm ht => ⟨?pcfg, ?azero, ?mma, ?memory, ?fault⟩, ?ahead,
    fun s core n => ⟨slotScrubDone_other, slotScrubDone_slot, slotScrubDone_tile⟩, ?latch⟩
  case start =>
    intro w x y hk hf hh hmore hbegun hlt hrun hmiss he
    exact copyElementLand_starts hc ha hh hmore hbegun hrun he rfl hk hf hm hlt hmiss
  case access =>
    intro w o hk hf ho
    have hland := (copyElementLand_copies hm).trans (congrArg _ (copyLand_started hc ha hk hf ho))
    refine ⟨fun hgot hbl hmay hp => hland.trans (congrArg _ (elemStep_reads hc hk ho hgot hbl hmay hp)), fun hgot hbl hmay hp => ?_⟩
    have hstep := hland.trans (congrArg _ (elemStep_writes hc hk ho hgot hbl hmay hp))
    exact ⟨fun hlt => hstep.trans (congrArg _ (if_pos hlt)),
      fun hle => hstep.trans (congrArg _ ((if_neg (Nat.not_lt.2 hle)).trans (elemLanded_landed ..)))⟩
  case stop =>
    intro w x hk hf hlt hno hmay hmiss he
    exact engineFaultStop_stops hc ha hk hf hlt hno hmay hmiss he
  case lane =>
    intro n parts o hk ho hsrc hdst
    have hland := (copyElementLand_copies hm).trans (congrArg _ (copyLand_lane (k := k) hc ha hk))
    exact ⟨fun hgot hbl => hland.trans (congrArg _ (laneStep_reads hc hk ho hgot hbl hsrc)),
      fun hgot hbl => hland.trans (congrArg _ (laneStep_writes hc hk ho hgot hbl hdst))⟩
  case line =>
    intro w m q off data n hk hl
    exact ⟨mcastLineDeliver_waits hc hk hl, fun t hd => ⟨mcastLineDeliver_more hc hk hl hd, mcastLineDeliver_last hc hk hl hd⟩⟩
  case piece =>
    intro t n ht
    cases t with
    | host x => exact absurd rfl (ht x)
    | _ => rfl
  case reads => exact (serveRead_serves ..).mem ⟨ht, hp⟩
  case writes => exact writeTgt_loc_mem ⟨ht, hp⟩ ..
  case laneReads => exact fun hs => ⟨laneRead_mem ⟨ht, hp⟩ hs, laneRead_copies hs⟩
  case laneWrites => exact fun hd => laneWrite_byte ⟨ht, hp⟩ hwf hd
  case delivers => exact fun s c b core off data => deliverLine_put
  case pcfg => exact fun p => matrixCommandComplete_pcfg hm ht
  case azero => exact fun t n => matrixCommandComplete_azero hm ht
  case mma => exact fun f n rows acc sa sb md gang => matrixCommandComplete_mma hm ht
  case memory =>
    intro b l hb hsolo hk hl hmiss hw hp
    exact matrixCommandComplete_memory hb hsolo hm ht hk hl hmiss hw hp
  case fault =>
    intro b l x hb hbid hsolo hlive hlaunch hx hmiss hk
    have hkill := slotFillFault_kills (hbid ▸ hb) hsolo hm ht hbid hlive hlaunch hx hmiss hk
    refine ⟨fun hre hlt => ?_, fun hno => ?_⟩
    · simpa [hre, hlt] using hkill
    · have hagain : (l.record.restartable && decide (b.relaunch < 3)) = false := by simpa [← Bool.not_eq_true, imp_iff_not_or] using hno
      rw [hagain] at hkill
      rw [hkill]
      unfold State.updBlock
      rw [updFirst_congr_find hb]
      rfl
  case ahead =>
    intro s m k n va t b hm ht hb hsolo hmiss hl hw hp
    exact copyElementLand_reads hb hsolo hm ht hmiss hl hw hp
  case latch =>
    intro s bid grp g l hg hl gs hlist hall hq hrun
    have hfire := gangLatchFire_fires hg hl hlist hall hq hrun
    exact ⟨fun h => hfire.trans (congrArg _ (if_pos (List.all_eq_true.2 h))),
      fun h => hfire.trans (congrArg _ (if_neg fun hag => h (List.all_eq_true.1 hag)))⟩

end

/-! # Canonical forms and the rollback of a redundant pair (R231, R317) -/

section

namespace Sys2Proof.Machine

/-- A group of a redundant pair runs on core 0, and all that core 1 holds is a register request of one of its threads. The canonical forms, which
are all that O59 asks of a state, allow it. -/
def strayRequest : State :=
  let c : Core := { Core.reset with regq := [(0, { bid := 1, tid := 0 }, 8)] }
  let b : Block := {
    bid := 1, lid := 1, blk := 0, core := 0, share := 0, scratch := [], bars := [], barEvs := [], arrivers := [], relaunch := 0, spawnStall := 0,
    role := .lead, mate := 2, ref := (0, 1), mismatches := 0, started := true, status := .running, record := none, lastIssue := 0, counted := 0,
    sliceStart := 0, mateCore := 1, saveAt := none }
  { State.reset with cores := [(1, c)], blocks := [b], groups := [newGroup 1 0 1], threads := [newThread 1 0 0 0 0 0 4] }

theorem strayRequest_inv : strayRequest.Inv := by unfold State.Inv; decide

/-- Inputs are no part of the canonical forms. -/
theorem inputs_inv {s : State} {l : List Instr} (h : s.Inv) : State.Inv { s with inputs := l } := h

/-- An error in the core state of the group (R433) rolls it back. -/
theorem step_strayRequest :
    step { strayRequest with inputs := [.uncorrectableError (.coreState 1 3 [0])] } = .next (strayRequest.uncorrectable (.coreState 1 3 [0])) := rfl

/-- The rollback takes the request out of core 1: what is left there is a core at rest, and still listed. -/
theorem cores_uncorrectable_strayRequest : (strayRequest.uncorrectable (.coreState 1 3 [0])).cores = [(1, Core.reset)] := by decide

end Sys2Proof.Machine

open Sys2Proof.Machine in
/-- Refutes O59: a rollback filters the register queue of every listed core, and keeps the entry of one that is then as after reset. -/
theorem not_formsKept : ¬ Obligations.FormsKept := by
  unfold Obligations.FormsKept
  intro h
  obtain ⟨-, -, -, -, hcores, -⟩ := h _ _ (inputs_inv strayRequest_inv) step_strayRequest
  rw [cores_uncorrectable_strayRequest] at hcores
  exact absurd hcores (by decide)

end

/-! # The state after reset (R241, R286, R287, R308, R337, R387, R391, R400, R411, R419, R422, R431) -/

section

namespace Sys2Proof.Machine

/-! What a register reads as after reset, by its function or its unit. -/

theorem sysReset_lockRegs : ∀ f, f < 9 → sysReset (fReg 0x0400 f 0) = 0x0064000A ∧ sysReset (fReg 0x0400 f 1) = 1000 ∧
    sysReset (fReg 0x0400 f 2) = 0x10000400 ∧ sysReset (fReg 0x0400 f 3) = 0x00040014 ∧ sysReset (fReg 0x0400 f 4) = 0 := by decide

theorem sysReset_linkRegs : ∀ f, f < 9 → sysReset (fReg 0x0D00 f 0) = 1025 ∧ sysReset (fReg 0x0D00 f 1) = 0 ∧ sysReset (0x0C10 + f) = 0 := by decide

theorem sysReset_xlateRegs : ∀ f, f < 9 → ∀ n, n < 3 → sysReset (fReg 0x0600 f n) = 0 ∧ sysReset (fReg 0x0700 f n) = 0 := by decide

/-- Numbers from 0x1000 on, the VDN table among them, read 0. -/
theorem sysReset_high {k : Nat} (hlo : 0x1000 ≤ k) (hhi : k < 0x100000) : sysReset k = 0 := by
  unfold sysReset
  rw [Nat.mod_eq_of_lt hhi]
  simp only [show k ≠ 0x0210 by omega, show k ≠ 0x0500 by omega, show k ≠ 0x0501 by omega, show k ≠ 0x0805 by omega, if_false,
    show ¬ k < 0x0490 by omega, show ¬ k ≤ 0x0804 by omega, show ¬ k < 0x0A80 by omega, show ¬ k < 0x0D90 by omega, decide_false, Bool.and_false,
    Bool.false_eq_true]

theorem vdne_reset {f v : Nat} (hf : f < 9) : State.reset.vdne f v = 0 :=
  congrArg BitVec.toNat (sysReset_high (k := 0x1000 + 0x40 * f + v % 64) (by omega) (by omega))

theorem sysReset_migRegs : ∀ f, f < 8 → sysReset (fReg 0x0A00 f 0) = 0 ∧ sysReset (fReg 0x0A00 f 1) = 0 ∧ sysReset (fReg 0x0A00 f 2) = 256 ∧
    sysReset (fReg 0x0A00 f 3) = 0xC00003E8 ∧ ∀ n, n < 8 → 4 ≤ n → sysReset (fReg 0x0A00 f n) = 0 := by decide

theorem vfState_reset : ∀ f, f < 8 → State.reset.vfState f = 0 ∧ State.reset.migState f = 0 := by decide

theorem sysReset_dieRegs : ∀ d, d < 4 → sysReset (unitKey 0x0210 d) = 0x01000040 ∧ sysReset (unitKey 0x0500 d) = 100 ∧
    sysReset (unitKey 0x0501 d) = 1000 ∧ bits (State.reset.milv d) 7 4 = 15 ∧ sysReset (0x0C00 + d) = 0 ∧ sysReset (0x0DA0 + d) = 0 := by decide

/-- Every queue's LOG2N is 4 (R337). -/
theorem barReset_queue {f q : Nat} (hq : q < 64) : barReset (0x10000 * f + (0x1008 + 32 * q)) = 0x04000000 := by
  unfold barReset
  rw [show (0x10000 * f + (0x1008 + 32 * q)) % 0x10000 = 0x1008 + 32 * q by omega]
  refine if_pos ?_
  simp only [Bool.and_eq_true, decide_eq_true_eq]
  omega

end Sys2Proof.Machine

open Sys2Proof.Machine in
/-- Settles O58: the tables are empty after reset, so every register reads as its map gives it. -/
theorem resetState : Obligations.ResetState := by
  refine ⟨reset_inv, fun f hf v _ => ?functions, fun f hf => ?virtual, sysReset_dieRegs, rfl, rfl, rfl, rfl, rfl, rfl, rfl, rfl, rfl, rfl,
    fun f q _ hq w _ => ⟨barReset_queue hq, rfl⟩, fun _ => rfl, fun _ => rfl, rfl, rfl, rfl, rfl, rfl⟩
  case functions =>
    obtain ⟨h0, h1, h2, h3, h4⟩ := sysReset_lockRegs f hf
    obtain ⟨l0, l1, c⟩ := sysReset_linkRegs f hf
    exact ⟨congrArg _ h0, congrArg _ h1, congrArg _ h2, congrArg _ h3, congrArg _ h4, congrArg _ l0, congrArg _ l1, congrArg _ c, vdne_reset hf,
      fun n hn => (sysReset_xlateRegs f hf n hn).imp (congrArg _) (congrArg _)⟩
  case virtual =>
    obtain ⟨hvf, hmig⟩ := vfState_reset f hf
    obtain ⟨m0, m1, m2, m3, hm⟩ := sysReset_migRegs f hf
    exact ⟨hvf, hmig, congrArg _ m0, congrArg _ m1, congrArg _ m2, congrArg _ m3, congrArg _ (hm 4 (by decide) (by decide)),
      congrArg _ (hm 5 (by decide) (by decide)), congrArg _ (hm 6 (by decide) (by decide)), congrArg _ (hm 7 (by decide) (by decide))⟩

end

/-! # Leases, the constant counter and the power states (R239, R242, R243, R437, R438) -/

section

namespace Sys2Proof.Machine

/-! What is read of a core or a die after a write to it. -/

/-- A written value that is not the default reads back, in whatever form the table is. -/
theorem get_set_of_ne {α : Type} [DecidableEq α] (d : Nat → α) (t : Tab α) {k : Nat} {v : α} (hv : v ≠ d k) :
    Tab.get d (Tab.set d t k v) k = v := by
  induction t with
  | nil => simp [Tab.set, Tab.get, hv]
  | cons e r ih =>
    obtain ⟨j, w⟩ := e
    unfold Tab.set
    by_cases hj : j = k
    · simp [hj, hv, Tab.get]
    · by_cases hk : k < j
      · simp [hj, hk, hv, Tab.get]
      · simp [hj, hk, Tab.get, ih]

theorem die_setDie_of_ne {s : State} {n : Nat} {d : Die} (hd : d ≠ Die.reset) : (s.setDie n d).die n = d := get_set_of_ne _ _ hd

theorem die_setDie_self {s : State} (h : (s.dies.wf fun _ => Die.reset) = true) (n : Nat) (d : Die) : (s.setDie n d).die n = d :=
  (get_set _ n n d h).trans (if_pos rfl)

theorem core_setCore_of_ne {s : State} {n : Nat} {c : Core} (hc : c ≠ Core.reset) : (s.setCore n c).core n = c := get_set_of_ne _ _ hc

theorem core_setCore_self {s : State} (h : (s.cores.wf fun _ => Core.reset) = true) (n : Nat) (c : Core) : (s.setCore n c).core n = c :=
  (get_set _ n n c h).trans (if_pos rfl)

/-- A die in a pause counts an event on its counters alone. -/
theorem die_dieEvent_of_pause {s : State} {n : Nat} (h : (s.die n).pause = true) (src k : Nat) :
    ∃ c, (s.dieEvent n src k).die n = { s.die n with evCnt := c } := by
  unfold State.dieEvent
  dsimp only
  split
  · exact ⟨_, rfl⟩
  · refine ⟨_, die_setDie_of_ne fun hreset => ?_⟩
    have : (s.die n).pause = false := congrArg Die.pause hreset
    rw [h] at this
    cases this

/-- An event of a die changes the dies' records alone. -/
theorem dieEvent_frame (s : State) (n src k : Nat) : s.dieEvent n src k = { s with dies := (s.dieEvent n src k).dies } := by
  unfold State.dieEvent
  dsimp only
  split <;> rfl

theorem dieEvent_mem (s : State) (n src k : Nat) : (s.dieEvent n src k).mem = s.mem := by rw [dieEvent_frame]

/-! Leases. -/

theorem expired_iff (s : State) (l : L1Line) :
    s.expired l = true ↔ l.st = .leased ∧ leaseValid l.expiry (s.leaseNow (dieOf l.core)) = false := by
  simp [State.expired]

/-- A visit drops the expired lines of a core, and counts them at the core. -/
theorem visit_frame (s : State) (core : Nat) :
    s.visit core = { s with l1 := s.l1.filter fun l => !(l.core == core && s.expired l), cores := (s.visit core).cores } := by
  unfold State.visit State.coreEvent
  dsimp only
  split
  · rfl
  · split <;> rfl

theorem visit_l1 (s : State) (core : Nat) : (s.visit core).l1 = s.l1.filter fun l => !(l.core == core && s.expired l) := by rw [visit_frame]

theorem visit_serves (s : State) (core : Nat) : Serves s (s.visit core) :=
  ⟨by rw [visit_frame], fun _ => by rw [visit_frame]⟩

theorem coreEvent_coresWf {s : State} (h : (s.cores.wf fun _ => Core.reset) = true) (core src n : Nat) :
    ((s.coreEvent core src n).cores.wf fun _ => Core.reset) = true := by
  unfold State.coreEvent
  dsimp only
  split
  · exact h
  · exact wf_set _ _ _ h

theorem visit_coresWf {s : State} (h : (s.cores.wf fun _ => Core.reset) = true) (core : Nat) :
    ((s.visit core).cores.wf fun _ => Core.reset) = true := by
  unfold State.visit
  dsimp only
  split
  · exact h
  · apply coreEvent_coresWf
    exact h

/-! The constant counter. -/

theorem constantWrap_pauses {s : State} {n : Nat} (hn : n < 4) (hw : (s.die n).wrap = false) (hnext : (s.die n).constNext ≤ s.clk)
    (hcnt : (s.die n).constCnt = 4095) :
    exec (.constantWrap n) s = .next ((s.setDie n { s.die n with pause := true, wrap := true, constLines := [] }).dieEvent n 38 1) := by
  show execConstantWrap n s = _
  unfold execConstantWrap
  simp [hn, hw, hnext, hcnt]

/-- A die's record as the end of its pause leaves it: after a wrap the counter starts again (R242). -/
def Die.unpaused (d : Die) (clk : Nat) : Die :=
  if d.wrap then { d with pause := false, wrap := false, constCnt := 0, constNext := clk + 1024 } else { d with pause := false, constNext := d.nextTick clk }

theorem Die.unpaused_pause (d : Die) (clk : Nat) : (d.unpaused clk).pause = false := by
  unfold Die.unpaused
  split <;> rfl

theorem Die.unpaused_wrap (d : Die) (clk : Nat) : (d.unpaused clk).wrap = false := by
  unfold Die.unpaused
  split
  · rfl
  · exact Bool.eq_false_iff.2 ‹_›

theorem Die.unpaused_constCnt (d : Die) (clk : Nat) : (d.unpaused clk).constCnt = if d.wrap then 0 else d.constCnt := by
  unfold Die.unpaused
  split <;> rfl

theorem Die.unpaused_constNext (d : Die) (clk : Nat) : (d.unpaused clk).constNext = if d.wrap then clk + 1024 else d.nextTick clk := by
  unfold Die.unpaused
  split <;> rfl

theorem constantPauseEnd_unpauses {s : State} {n : Nat} (hp : (s.die n).pause = true) :
    exec (.constantPauseEnd n) s = .next { s.setDie n ((s.die n).unpaused s.clk) with
      threads := s.threads.map fun t =>
        if t.wait == .pause && (s.block? t.bid).any (fun b => dieOf b.core == n) then { t with wait := .none } else t } := by
  show execConstantPauseEnd n s = _
  unfold execConstantPauseEnd
  simp only [hp]
  rfl

/-! Cores. -/

theorem ownerWriteBack_serves (s : State) (core line : Nat) : Serves s (s.writeBack core line) := by
  unfold State.writeBack
  split
  · exact .refl s
  · exact .ite (.refl s) (((probe_serves ..).trans (takeDirty_serves ..)).trans (setL1_serves _ _))

/-- A core that enters retention: its dirty lines go home, its tracked lines leave, and its expired leases go (R243). -/
def State.retains (s : State) (core : Nat) : State :=
  let s1 := ((s.l1.filter fun l => l.core == core && l.st == .owned).map fun l => l.line).foldl (fun s n => s.writeBack core n) s
  State.visit { s1 with l1 := s1.l1.filter fun l => l.core != core || l.st == .leased } core

theorem retains_serves (s : State) (core : Nat) : Serves s (s.retains core) :=
  ((Serves.foldl (fun s n => ownerWriteBack_serves s core n) _ s).trans (setL1_serves _ _)).trans (visit_serves ..)

theorem retains_leased {s : State} {core : Nat} {l : L1Line} (hl : l ∈ (s.retains core).l1) (hc : l.core = core) : l.st = .leased := by
  unfold State.retains at hl
  dsimp only at hl
  rw [visit_l1] at hl
  have hkept := List.of_mem_filter (List.mem_of_mem_filter hl)
  simpa [hc] using hkept

theorem coreRetentionEntry_retains {s : State} {n : Nat} (hn : n < 192) (hp : (s.core n).power = .run ∨ (s.core n).power = .clockGate)
    (hi : s.coreIdle n = true) (hm : s.mayGate (dieOf n) 2 = true) :
    exec (.coreRetentionEntry n) s = .next ((s.retains n).setCore n { (s.retains n).core n with
      power := .retention, gatedAt := (s.retains n).clk, wrapEpoch := ((s.retains n).die (dieOf n)).lease.toNat / 2 ^ 19 }) := by
  show execCoreRetentionEntry n s = _
  unfold execCoreRetentionEntry
  dsimp only
  refine if_pos ?_
  simp [hn, hp, hi, hm]

/-! A request to a die's Mere wakes it (R239, R437). -/

theorem askDie_of_sleep {s : State} {n : Nat} (hp : (s.die n).power = .sleep) :
    s.askDie n = s.setDie n { s.die n with power := .run, lease := BitVec.ofNat 64 (s.clk / 64), mereAt := s.clk } := by
  simp only [State.askDie, hp]

theorem askDie_of_mereRetention {s : State} {n : Nat} (hp : (s.die n).power = .mereRetention) :
    s.askDie n = s.setDie n { s.die n with power := .run, mereAt := s.clk } := by
  simp only [State.askDie, hp]

/-- A retained core's die, awake. -/
def State.diesAwake (s : State) (core : Nat) : State :=
  if (s.die (dieOf core)).power == .sleep || (s.die (dieOf core)).power == .mereRetention then s.askDie (dieOf core) else s

theorem diesAwake_cores (s : State) (core : Nat) : (s.diesAwake core).cores = s.cores := by
  unfold State.diesAwake
  split <;> rfl

theorem diesAwake_core (s : State) (core n : Nat) : (s.diesAwake core).core n = s.core n :=
  congrArg (fun t => Tab.get (fun _ => Core.reset) t n) (diesAwake_cores s core)

/-- The die of a core that wakes is awake, and one that slept has its lease clock set forward. -/
theorem diesAwake_die {s : State} (h : (s.dies.wf fun _ => Die.reset) = true) (core : Nat) :
    ((s.diesAwake core).die (dieOf core)).power ≠ .sleep ∧
    ((s.die (dieOf core)).power = .sleep → ((s.diesAwake core).die (dieOf core)).lease = BitVec.ofNat 64 (s.clk / 64)) := by
  unfold State.diesAwake
  by_cases hs : (s.die (dieOf core)).power = .sleep
  · rw [if_pos (by simp [hs]), askDie_of_sleep hs, die_setDie_self h]
    exact ⟨Power.noConfusion, fun _ => rfl⟩
  · by_cases hm : (s.die (dieOf core)).power = .mereRetention
    · rw [if_pos (by simp [hm]), askDie_of_mereRetention hm, die_setDie_self h]
      exact ⟨Power.noConfusion, fun h => absurd h hs⟩
    · rw [if_neg (by simp [hs, hm])]
      exact ⟨hs, fun h => absurd h hs⟩

/-- The leases of a core that wakes: those that have expired go, and all of them where the die's clock has wrapped meanwhile (R243). -/
def State.wakeLeases (s : State) (core : Nat) : State :=
  if (s.core core).wrapEpoch = (s.die (dieOf core)).lease.toNat / 2 ^ 19 then s.visit core else s.dropLeases core

theorem wakeLeases_dies (s : State) (core : Nat) : (s.wakeLeases core).dies = s.dies := by
  unfold State.wakeLeases
  split
  · rw [visit_frame]
  · rfl

theorem wakeLeases_coresWf {s : State} (h : (s.cores.wf fun _ => Core.reset) = true) (core : Nat) :
    ((s.wakeLeases core).cores.wf fun _ => Core.reset) = true := by
  unfold State.wakeLeases
  split
  · exact visit_coresWf h core
  · exact h

theorem wakeLeases_drops {s : State} {core : Nat} (h : (s.core core).wrapEpoch ≠ (s.die (dieOf core)).lease.toNat / 2 ^ 19) {l : L1Line}
    (hl : l ∈ (s.wakeLeases core).l1) (hc : l.core = core) : l.st ≠ .leased := by
  unfold State.wakeLeases at hl
  rw [if_neg h] at hl
  have hkept := List.of_mem_filter hl
  simpa [hc] using hkept

theorem wakeRetained_eq (s : State) (core : Nat) : s.wakeRetained core =
    ((s.diesAwake core).wakeLeases core).setCore core { ((s.diesAwake core).wakeLeases core).core core with power := .run } := rfl

theorem wakeRetained_power {s : State} (h : (s.cores.wf fun _ => Core.reset) = true) (core : Nat) :
    ((s.wakeRetained core).core core).power = .run := by
  have hawake : ((s.diesAwake core).cores.wf fun _ => Core.reset) = true := by rwa [diesAwake_cores]
  exact congrArg Core.power (core_setCore_self (wakeLeases_coresWf hawake core) core _)

theorem wakeRetained_die (s : State) (core n : Nat) : (s.wakeRetained core).die n = (s.diesAwake core).die n :=
  congrArg (fun t => Tab.get (fun _ => Die.reset) t n) (wakeLeases_dies (s.diesAwake core) core)

theorem wakeRetained_drops {s : State} {core : Nat} (h : (s.core core).wrapEpoch ≠ ((s.wakeRetained core).die (dieOf core)).lease.toNat / 2 ^ 19)
    {l : L1Line} (hl : l ∈ (s.wakeRetained core).l1) (hc : l.core = core) : l.st ≠ .leased := by
  rw [wakeRetained_die, ← diesAwake_core s core core] at h
  exact wakeLeases_drops h hl hc

/-! Dies. -/

/-- A line whose check bits do not fail leaves Mere without a change of memory (R246, R433). -/
theorem mereOut_mem {s : State} (hp : s.poisoned = []) (m : MereLine) : (s.mereOut m).mem = s.mem := by
  unfold State.mereOut State.hbmDone State.meter State.addMeter State.dieEvent
  dsimp only
  rw [hp]
  split
  · rfl
  · split
    · cases ‹_›
    · split <;> split <;> rfl

theorem mereOut_foldl_mem {s : State} (hp : s.poisoned = []) (l : List MereLine) : (l.foldl State.mereOut s).mem = s.mem := by
  induction l generalizing s with
  | nil => rfl
  | cons m r ih =>
    have hout : (s.mereOut m).poisoned = [] := by
      rw [(mereOut_serves s m).frame]
      exact hp
    exact (ih hout).trans (mereOut_mem hp m)

/-- A die's Mere lines go to HBM and the L1s of its cores are emptied, as it falls asleep (R243, R437). -/
def State.dieEmptied (s : State) (die : Nat) : State :=
  let s1 := (s.mere.filter fun m => s.homeDie (128 * m.line) == die).foldl State.mereOut s
  { s1 with l1 := s1.l1.filter fun l => dieOf l.core != die }

theorem dieEmptied_l1 {s : State} {die : Nat} {l : L1Line} (hl : l ∈ (s.dieEmptied die).l1) : dieOf l.core ≠ die := by
  unfold State.dieEmptied at hl
  exact bne_iff_ne.1 (List.mem_filter.1 hl).2

theorem dieSleepEntry_sleeps {s : State} {n : Nat} (hn : n < 4) (hp : (s.die n).power = .run ∨ (s.die n).power = .mereRetention)
    (hq : s.dieQuiet n = true) (hm : s.maySleep n = true) :
    exec (.dieSleepEntry n) s = .next ((s.dieEmptied n).setDie n { (s.dieEmptied n).die n with power := .sleep, constLines := [] }) := by
  show execDieSleepEntry n s = _
  unfold execDieSleepEntry
  dsimp only
  refine if_pos ?_
  simp [hn, hp, hq, hm]

end Sys2Proof.Machine

open Sys2Proof.Machine in
/-- Settles O48: each event by the one update it makes, the wake of a core by its die's and its leases'. -/
theorem leasesConstantsAndPower : Obligations.LeasesConstantsAndPower := by
  unfold Obligations.LeasesConstantsAndPower
  intro s n d c
  refine ⟨?tick, ?visit, expired_iff s, ?constantTick, ?wrap, ?pauseEnd, ?clockGate, ?retention, ?wake, ?ungate, ?mereRetention, ?dieSleep,
    ?wakeSleep, ?wakeMere⟩
  case tick =>
    intro hn hp hl
    show execLeaseClockTick n s = _
    unfold execLeaseClockTick
    simp [hn, hp, hl, d]
  case visit => exact ⟨_, rfl, visit_l1 s n, by rw [visit_frame], by rw [visit_frame]⟩
  case constantTick =>
    intro hn hp hnext hc
    show execConstantTick n s = _
    unfold execConstantTick
    simp [hn, hp, hnext, hc, d]
  case wrap =>
    intro hn hw hnext hc
    have hset : ({ d with pause := true, wrap := true, constLines := [] } : Die) ≠ Die.reset := fun h => Bool.noConfusion (congrArg Die.pause h)
    have hdie := die_setDie_of_ne (s := s) (n := n) hset
    obtain ⟨cnt, hev⟩ := die_dieEvent_of_pause (src := 38) (k := 1) (congrArg Die.pause hdie)
    rw [hdie] at hev
    refine ⟨_, constantWrap_pauses hn hw hnext hc, congrArg Die.pause hev, congrArg Die.wrap hev, congrArg Die.constLines hev,
      (congrArg Die.constCnt hev).trans hc, ?_, dieEvent_mem ..⟩
    rw [dieEvent_frame]
    rfl
  case pauseEnd =>
    intro hp hwf
    have hdie := die_setDie_self hwf n (d.unpaused s.clk)
    refine ⟨_, constantPauseEnd_unpauses hp, (congrArg Die.pause hdie).trans (d.unpaused_pause _), (congrArg Die.wrap hdie).trans (d.unpaused_wrap _),
      (congrArg Die.constCnt hdie).trans (d.unpaused_constCnt _), (congrArg Die.constNext hdie).trans (d.unpaused_constNext _), ?_⟩
    simp
  case clockGate =>
    intro hn hp hi hr
    show execClockGateEntry n s = _
    unfold execClockGateEntry
    simp [hn, hp, hi, hr, c]
  case retention =>
    intro hn hp hi hm _ _
    have hcore := core_setCore_of_ne (s := s.retains n) (n := n) (c := { (s.retains n).core n with
      power := .retention, gatedAt := (s.retains n).clk, wrapEpoch := ((s.retains n).die (dieOf n)).lease.toNat / 2 ^ 19 })
      fun h => Power.noConfusion (congrArg Core.power h)
    refine ⟨_, coreRetentionEntry_retains hn hp hi hm, congrArg Core.power hcore, (congrArg Core.gatedAt hcore).trans ?_,
      congrArg Core.wrapEpoch hcore, fun l hl => retains_leased hl⟩
    rw [(retains_serves s n).frame]
  case wake =>
    intro hp hwf
    refine ⟨s.wakeRetained n, ?_, ?_, wakeRetained_power hwf n, fun hd => ?_, fun hwrap l => wakeRetained_drops hwrap⟩
    · show execCoreRetentionWake n s = _
      unfold execCoreRetentionWake
      simp [hp, c]
    · show execWakeRequest false n s = _
      unfold execWakeRequest
      simp [hp, c]
    · rw [wakeRetained_die]
      exact diesAwake_die hd n
  case ungate =>
    intro hp
    show execWakeRequest false n s = _
    unfold execWakeRequest
    simp [hp, c]
  case mereRetention =>
    intro hn hp hg hq hm hs
    show execMereRetentionEntry n s = _
    unfold execMereRetentionEntry
    simp [hn, hp, hg, hq, hm, hs, d, State.dieQuiet]
  case dieSleep =>
    intro hn hp hg hq hw hm _
    have hdie := die_setDie_of_ne (s := s.dieEmptied n) (n := n) (d := { (s.dieEmptied n).die n with power := .sleep, constLines := [] })
      fun h => Power.noConfusion (congrArg Die.power h)
    refine ⟨_, dieSleepEntry_sleeps hn hp (by simp [State.dieQuiet, hg, hq, d]) (by simp [State.maySleep, hw, hm]), congrArg Die.power hdie,
      congrArg Die.constLines hdie, fun l => dieEmptied_l1, fun hpo => mereOut_foldl_mem hpo _⟩
  case wakeSleep =>
    intro hn hp
    show execWakeRequest true n s = _
    unfold execWakeRequest
    rw [← askDie_of_sleep hp]
    simp [hn]
  case wakeMere =>
    intro hn hp
    show execWakeRequest true n s = _
    unfold execWakeRequest
    rw [← askDie_of_mereRetention hp]
    simp [hn]

end

/-! # Homes, walks, the host port, errors and their registers (R206, R237, R238, R241, R359, R365, R407, R431 to R433) -/

section

namespace Sys2Proof.Machine

/-! The L1 copies that a home's requests leave (R237, R238). -/

section

variable {s : State} {x : L1Line}

theorem probe_l1 (s : State) (writer : Option Nat) (line : Nat) :
    (s.probe writer line).l1 = s.l1.filter fun l => !(l.line == line && l.st != .leased && some l.core != writer) :=
  congrArg (List.filter _) (KeepsL1.foldl KeepsL1.takeDirty _ s).l1

/-- After a probe its writer alone holds the line by the directory. -/
theorem mem_probe {writer : Option Nat} {line : Nat} (hx : x ∈ (s.probe writer line).l1) :
    x ∈ s.l1 ∧ (x.line = line → x.st ≠ .leased → some x.core = writer) := by
  rw [probe_l1] at hx
  obtain ⟨hmem, hkept⟩ := List.mem_filter.1 hx
  exact ⟨hmem, fun hl hst => by simpa [hl, hst] using hkept⟩

theorem downgrade_l1 (s : State) (reader : Option Nat) (line : Nat) : (s.downgrade reader line).l1 = s.l1.map fun l =>
    if l.line == line && l.st == .owned && some l.core != reader then { l with st := .shared, dirty := [] } else l :=
  congrArg (List.map _) (KeepsL1.foldl KeepsL1.takeDirty _ s).l1

/-- After a downgrade no core but the reader owns the line. -/
theorem mem_downgrade {reader : Option Nat} {line : Nat} (hx : x ∈ (s.downgrade reader line).l1) (hl : x.line = line) (hr : some x.core ≠ reader) :
    x.st ≠ .owned := by
  rw [downgrade_l1] at hx
  obtain ⟨y, -, rfl⟩ := List.mem_map.1 hx
  by_cases hit : (y.line == line && y.st == .owned && some y.core != reader) = true
  · rw [if_pos hit]
    exact nofun
  · rw [if_neg hit] at hl hr ⊢
    intro ho
    simp [hl, ho, hr] at hit

theorem mem_recallAll {region : Nat} {ks : List Nat} (hx : x ∈ (ks.foldl (fun s k => s.recall (4 * region + k)) s).l1) :
    x ∈ s.l1 ∧ ∀ k ∈ ks, x.line = 4 * region + k → x.st = .leased := by
  induction ks generalizing s with
  | nil => exact ⟨hx, fun k hk => absurd hk List.not_mem_nil⟩
  | cons k r ih =>
    obtain ⟨hrec, hr⟩ := ih hx
    obtain ⟨hmem, hk⟩ := mem_probe hrec
    refine ⟨hmem, List.forall_mem_cons.2 ⟨fun hl => ?_, hr⟩⟩
    by_contra hst
    cases hk hl hst

theorem evictRegion_l1 (s : State) (die region : Nat) :
    (s.evictRegion die region).l1 = ([0, 1, 2, 3].foldl (fun s k => s.recall (4 * region + k)) s).l1 := by
  unfold State.evictRegion
  exact (KeepsL1.dieEvent ..).l1

/-- A directory eviction recalls the tracked copies of its 512 bytes (R238). -/
theorem mem_evictRegion {die region : Nat} (hx : x ∈ (s.evictRegion die region).l1) : x ∈ s.l1 ∧ (x.line / 4 = region → x.st = .leased) := by
  rw [evictRegion_l1] at hx
  obtain ⟨hmem, hrec⟩ := mem_recallAll hx
  refine ⟨hmem, fun hr => hrec (x.line % 4) ?_ (by omega)⟩
  simp only [List.mem_cons, List.not_mem_nil, or_false]
  omega

theorem mem_track {core line : Nat} (hx : x ∈ (s.track core line).l1) : x ∈ s.l1 := by
  unfold State.track at hx
  dsimp only [State.setDie] at hx
  split at hx
  · split at hx
    · exact (mem_evictRegion hx).1
    · exact hx
  · exact hx

/-- An installed copy stands first, before copies that were there. -/
theorem l1Put_l1 (s : State) (y : L1Line) : ∃ r, (s.l1Put y).l1 = y :: r ∧ ∀ x ∈ r, x ∈ s.l1 := by
  have htrack (s : State) (c : Bool) : ∀ x ∈ (if c then s else s.track y.core y.line).l1, x ∈ s.l1 := by
    split
    · exact fun _ => id
    · exact fun _ => mem_track
  have hroom (s : State) (o : Option L1Line) (n : Nat) : ∀ x ∈ State.l1 (match o with
      | some l => if 8 * (s.core y.core).l1k ≤ n then (s.takeDirty l).l1Drop l.core l.line else s
      | none => s), x ∈ s.l1 := by
    split
    · split
      · exact fun _ hx => (KeepsL1.takeDirty s _).l1 ▸ List.mem_of_mem_filter hx
      · exact fun _ => id
    · exact fun _ => id
  exact ⟨_, rfl, fun x hx => List.mem_of_mem_filter (htrack _ _ x (hroom _ _ _ x hx))⟩

/-- The home's part of a fill: an owner is downgraded first, and the line's bytes come from its Mere (R236, R237). -/
def State.readForFill (s : State) (core f tag pa : Nat) : State :=
  ((s.downgrade (some core) (lineOf pa)).mereTouch f tag (lineOf pa) 128 false).carried false core pa 128

theorem readForFill_serves (s : State) (core f tag pa : Nat) : Serves s (s.readForFill core f tag pa) :=
  ((downgrade_serves ..).trans (mereTouch_serves ..)).trans (carried_serves ..)

theorem readForFill_l1 (s : State) (core f tag pa : Nat) : (s.readForFill core f tag pa).l1 = (s.downgrade (some core) (lineOf pa)).l1 :=
  ((KeepsL1.mereTouch ..).trans (KeepsL1.carried ..)).l1

/-- A fill leaves no other owner of its line (R237). -/
theorem mem_fill {core f tag pa : Nat} {ty : BitVec 2} (hx : x ∈ (s.fill core f tag ty pa).l1) (hl : x.line = lineOf pa) (hc : x.core ≠ core) :
    x.st ≠ .owned := by
  have hput (y : L1Line) (hy : y.core = core) (hx : x ∈ ((s.readForFill core f tag pa).l1Put y).l1) : x ∈ (s.readForFill core f tag pa).l1 := by
    obtain ⟨r, hr, hsub⟩ := l1Put_l1 (s.readForFill core f tag pa) y
    rcases List.mem_cons.1 (hr ▸ hx) with rfl | hxr
    · exact absurd hy hc
    · exact hsub x hxr
  have hread : x ∈ (s.readForFill core f tag pa).l1 := by
    unfold State.fill at hx
    dsimp only at hx
    split at hx
    · split at hx
      · exact hput _ rfl hx
      · exact hput _ rfl ((KeepsL1.mark ..).l1 ▸ hx)
    · exact hput _ rfl hx
    · exact hput _ rfl hx
    · exact hx
  exact mem_downgrade (readForFill_l1 .. ▸ hread) hl (by simpa using hc)

end

/-! What a leased copy holds (R236). -/

theorem Memory.length_bytes (m : Memory) (a n : Nat) : (m.bytes a n).length = n := by
  induction n generalizing a with
  | zero => rfl
  | succ n ih => rw [Memory.bytes, List.length_cons, ih]

theorem Memory.getD_bytes (m : Memory) (a : Nat) {n i : Nat} (hi : i < n) : (m.bytes a n).getD i 0 = m.byte (a + i) := by
  induction n generalizing a i with
  | zero => omega
  | succ n ih =>
    cases i with
    | zero => rfl
    | succ i => rw [Memory.bytes, List.getD_cons_succ, ih (a + 1) (by omega), Nat.add_right_comm, Nat.add_assoc]

/-- Bytes that are kept in a copy of their own. -/
theorem Memory.byte_copy (m : Memory) (a : Nat) {n i : Nat} (hi : i < n) : (Memory.store [] 0 (m.bytes a n)).byte i = m.byte (a + i) := by
  rw [Memory.byte_store _ _ _ rfl, m.length_bytes, if_pos ⟨Nat.zero_le i, by omega⟩]
  exact m.getD_bytes a hi

/-- The leased copy of a line that a home grants to a core (R236, R239). -/
def State.leasedCopy (s : State) (core line : Nat) : L1Line where
  core
  line
  st := .leased
  expiry := BitVec.ofNat 20 (s.leaseNow (dieOf core) + (s.sys (unitKey 0x0210 (dieOf core))).toNat % 65536)
  dirty := []
  data := Memory.store [] 0 (s.mem.bytes (128 * line) 128)

theorem leasedCopy_byte (s : State) (core line : Nat) {i : Nat} (hi : i < 128) :
    (s.leasedCopy core line).data.byte i = s.mem.byte (128 * line + i) := by
  dsimp only [State.leasedCopy]
  exact s.mem.byte_copy (128 * line) hi

theorem fill_leases (s : State) (core f tag pa : Nat) :
    s.fill core f tag 2 pa = (s.readForFill core f tag pa).l1Put ((s.readForFill core f tag pa).leasedCopy core (lineOf pa)) := rfl

/-- A leased fill holds the line's bytes. -/
theorem fill_leased_data {s : State} (q : s.Quiet) (core f tag pa : Nat) : ∃ x ∈ (s.fill core f tag 2 pa).l1,
    x.core = core ∧ x.line = lineOf pa ∧ x.st = .leased ∧ ∀ i, i < 128 → x.data.byte i = s.mem.byte (128 * lineOf pa + i) := by
  obtain ⟨r, hr, -⟩ := l1Put_l1 (s.readForFill core f tag pa) ((s.readForFill core f tag pa).leasedCopy core (lineOf pa))
  rw [fill_leases, hr, ← (readForFill_serves s core f tag pa).mem q]
  exact ⟨_, List.mem_cons_self, rfl, rfl, rfl, fun i hi => leasedCopy_byte _ core _ hi⟩

/-! Requests at a home (R237, R238). -/

theorem correctedLine_mem (s : State) (pa : Nat) : (s.correctedLine pa).mem = s.mem := dieEvent_mem ..

/-- A read that a home takes, once a correction that it needs is logged (R237, R431). -/
theorem homeRead_takes {s0 s : State} {core pa : Nat} {ty : BitVec 2} {fixed : Bool} {l : Launch}
    (hs : (if fixed && s0.isLocal pa then s0.correctedLine pa else s0) = s) (hl : ((s.core core).lid.bind fun x => s.launch? x) = some l)
    (hpart : s.inPart (s.partOf l.f) pa = true) (hown : s.owner pa = 0 ∨ s.owner pa = l.tag) (hb : s.blocked core false (.loc pa) = false) :
    s0.homeRead core pa ty fixed = if ty.toNat = 3 then s.downgrade none (lineOf pa)
      else if (s.l1Find core (lineOf pa)).isSome then s else s.fill core l.f l.tag ty pa := by
  have hgo : (!s.inPart (s.partOf l.f) pa || (s.owner pa != 0 && s.owner pa != l.tag) || s.blocked core false (.loc pa)) = false := by
    rcases hown with h | h <;> simp [hpart, hb, h]
  unfold State.homeRead
  dsimp only
  rw [hs, hl]
  exact if_neg (by rw [hgo]; exact Bool.false_ne_true)

/-- A core that writes an owned line's dirty bytes back is its only tracked holder, and clean (R237). -/
theorem mem_writeBack {s : State} {core line : Nat} {l x : L1Line}
    (hl : (s.l1.find? fun l => l.core == core && l.line == line && l.st == .owned) = some l) (hd : l.dirty ≠ []) (hx : x ∈ (s.writeBack core line).l1) :
    (x.line = line → x.st ≠ .leased → x.core = core) ∧ (x.core = core → x.line = line → x.dirty = []) := by
  have hl1 : (s.writeBack core line).l1 =
      (s.probe (some core) line).l1.map fun x => if x.core == core && x.line == line then { x with dirty := [] } else x := by
    unfold State.writeBack
    rw [hl]
    dsimp only
    rw [if_neg (by simpa using hd), (KeepsL1.takeDirty ..).l1]
  rw [hl1] at hx
  obtain ⟨y, hy, rfl⟩ := List.mem_map.1 hx
  have hprobe := (mem_probe hy).2
  by_cases hown : (y.core == core && y.line == line) = true
  · rw [if_pos hown]
    exact ⟨fun hn hst => Option.some_inj.1 (hprobe hn hst), fun _ _ => rfl⟩
  · rw [if_neg hown]
    exact ⟨fun hn hst => Option.some_inj.1 (hprobe hn hst), fun hc hn => absurd (by simp [hc, hn]) hown⟩

/-! Walks (R354, R359, R386). -/

theorem cache_head (s : State) (n : Nat) (x : TlbEntry) : x ∈ (s.cache n x).tlb := List.mem_cons_self

/-- An entry of one unit does not push out an entry of another. -/
theorem mem_cache_of_other_unit {s : State} {n : Nat} {x y : TlbEntry} (hy : y ∈ s.tlb) (hu : y.unit ≠ x.unit) : y ∈ (s.cache n x).tlb := by
  have hne : y ≠ x := fun h => hu (congrArg TlbEntry.unit h)
  unfold State.cache
  simp [hy, hu, hne]

/-- A walk reads the tables and the registers, and no other walk or die. -/
theorem walk_congr (s : State) (l : List WalkReq) (d : Tab Die) : State.walk { s with walks := l, dies := d } = s.walk := rfl

/-- A walk that has ended, before what it found is cached: those that share it end with it. -/
def State.walkEnded (s : State) (w : WalkReq) : State :=
  { s with walks := s.walks.filter fun x => !s.sameWalk w x }.dieEvent (dieOf w.core) 37 1

theorem walkEnded_frame (s : State) (w : WalkReq) :
    s.walkEnded w = { s with walks := s.walks.filter fun x => !s.sameWalk w x, dies := (s.walkEnded w).dies } := dieEvent_frame ..

section

variable {s : State} {w : WalkReq} (hw : s.walks.contains w = true) (hcut : s.walkCut w = false)
include hw hcut

/-- A walk that finds a translation caches it for every core that shares it, and for the core's quad. -/
theorem walkDone_of_ok {t : Trans} (ht : s.walk w.f w.root w.va = .ok t) :
    s.walkDone w = (s.walks.filter fun x => s.sameWalk w x).foldl (fun s x =>
      (s.cache 4096 (s.tlbEntry (256 + x.core / 4) w t)).cache 64 (s.tlbEntry x.core w t)) (s.walkEnded w) := by
  have hend : (s.walkEnded w).walk w.f w.root w.va = .ok t := by
    rw [walkEnded_frame, walk_congr, ht]
  unfold State.walkEnded at *
  unfold State.walkDone
  rw [if_neg (by simp only [hw, hcut]; decide)]
  simp only [hend]

theorem walkDone_of_error {x : Cause} (hx : s.walk w.f w.root w.va = .error x) : s.walkDone w = s.walkEnded w := by
  have hend : (s.walkEnded w).walk w.f w.root w.va = .error x := by
    rw [walkEnded_frame, walk_congr, hx]
  unfold State.walkEnded at *
  unfold State.walkDone
  rw [if_neg (by simp only [hw, hcut]; decide)]
  simp only [hend]

/-- The end of a walk drops the walks that share it, and changes no memory. -/
theorem walkDone_frame : (s.walkDone w).walks = (s.walks.filter fun x => !s.sameWalk w x) ∧ (s.walkDone w).mem = s.mem := by
  have hended : (s.walkEnded w).walks = (s.walks.filter fun x => !s.sameWalk w x) ∧ (s.walkEnded w).mem = s.mem := by
    rw [walkEnded_frame]
    exact ⟨rfl, rfl⟩
  cases hx : s.walk w.f w.root w.va with
  | ok t =>
    rw [walkDone_of_ok hw hcut hx]
    exact List.foldlRecOn _ _ (motive := fun u : State => u.walks = (s.walks.filter fun x => !s.sameWalk w x) ∧ u.mem = s.mem) hended
      fun u hu x _ => hu
  | error x => rwa [walkDone_of_error hw hcut hx]

/-- A translation that a walk of one core has found is cached for the core and for its quad. -/
theorem walkDone_caches {x : Trans} (hx : s.walk w.f w.root w.va = .ok x) (hone : (s.walks.filter fun x => s.sameWalk w x) = [w]) :
    s.tlbEntry w.core w x ∈ (s.walkDone w).tlb ∧ s.tlbEntry (256 + w.core / 4) w x ∈ (s.walkDone w).tlb := by
  have hentry (unit : Nat) : (s.walkEnded w).tlbEntry unit w x = s.tlbEntry unit w x := by
    rw [walkEnded_frame]
    rfl
  rw [walkDone_of_ok hw hcut hx, hone]
  simp only [List.foldl_cons, List.foldl_nil, hentry]
  refine ⟨cache_head .., ?_⟩
  by_cases hu : 256 + w.core / 4 = w.core
  · rw [hu]
    exact cache_head ..
  · exact mem_cache_of_other_unit (cache_head ..) hu

theorem walkDone_faults {x : Cause} (hx : s.walk w.f w.root w.va = .error x) : (s.walkDone w).tlb = s.tlb := by
  rw [walkDone_of_error hw hcut hx, walkEnded_frame]

end

/-! The host port (R365, R407, R443). -/

theorem hostLink_whole {s : State} (h : s.ideBroken = false) (f : State → State) : s.hostLink .whole f = f s := by
  unfold State.hostLink
  rw [h]
  rfl

theorem hostLink_broken {s : State} (h : s.ideBroken = true) (c : HostCheck) (f : State → State) : s.hostLink c f = s := by
  unfold State.hostLink
  rw [h]
  rfl

theorem hostLink_badTag {s : State} (h : s.ideBroken = false) (f : State → State) :
    s.hostLink .badTag f = { s with ideSecure := false, ideBroken := true } := by
  unfold State.hostLink
  rw [h]
  rfl

theorem hostLink_retried {s : State} (h : s.ideBroken = false) (f : State → State) :
    s.hostLink .retried f = (s.rasCount 0 0).hostLink .whole f := by
  have hretry : (s.rasCount 0 0).ideBroken = false := h
  rw [hostLink_whole hretry]
  unfold State.hostLink
  rw [h]
  rfl

/-- What the host reads is what the homes serve. -/
theorem hostAnswer_answers {s : State} (q : s.Quiet) (pa n : Nat) :
    (s.hostAnswer pa n).mem = s.mem ∧ (s.hostAnswer pa n).outbox = s.outbox ++ [.hostRead pa (s.hostBytes pa n)] := by
  have hserve : Serves s (if s.isLocal pa && s.owner pa = 0 then s.touchRead 8 0 (.loc pa) n else s) := .ite (touchRead_serves ..) (.refl s)
  unfold State.hostAnswer
  refine ⟨hserve.mem q, ?_⟩
  dsimp only [State.send]
  rw [hserve.frame, hserve.mem q]
  rfl

section

variable {s : State} {pa : Nat} {data : List Byte}

theorem hostWrite_drops (hok : ((List.range data.length).all fun i => s.isLocal (pa + i) && s.owner (pa + i) == 0) = false) :
    s.hostWrite pa data = s.send (.hostDropped pa) := by
  unfold State.hostWrite
  rw [hok]
  rfl

variable (hok : ((List.range data.length).all fun i => s.isLocal (pa + i) && s.owner (pa + i) == 0) = true)
include hok

theorem hostWrite_moves (hmove : s.moving true pa = true) {m : PageMove} (hm : s.pageMove = some m) :
    s.hostWrite pa data = { s with pageMove := some { m with held := m.held ++ [(pa, data, none)] } } := by
  unfold State.hostWrite
  rw [hok, hmove, hm]
  rfl

theorem hostWrite_writes (hmove : s.moving true pa = false) (hf : s.freezes pa data.length = none) :
    s.hostWrite pa data = s.homeWrite 8 0 none pa data := by
  unfold State.hostWrite
  rw [hok, hmove, hf]
  rfl

theorem hostWrite_frozen (hmove : s.moving true pa = false) {f : Nat} (hf : s.freezes pa data.length = some f) :
    s.hostWrite pa data = if s.migState f = 5 then s.send (.hostDropped pa) else s.updSession f fun x => { x with held := x.held ++ [(pa, data)] } := by
  unfold State.hostWrite
  rw [hok, hmove, hf]
  rfl

end

/-! Counted errors (R431 to R433). -/

theorem sys_setSys_same {s : State} (h : s.sysregs.wf sysReset = true) (k : Nat) (v : Word) : (s.setSys k v).sys k = v :=
  (get_set _ k k v h).trans (if_pos rfl)

theorem sys_setSys_other {s : State} (h : s.sysregs.wf sysReset = true) {j k : Nat} (v : Word) (hj : j ≠ k) : (s.setSys k v).sys j = s.sys j :=
  (get_set _ k j v h).trans (if_neg hj)

theorem dieEvent_sys (s : State) (n src k j : Nat) : (s.dieEvent n src k).sys j = s.sys j := by
  rw [dieEvent_frame]
  rfl

/-- A field of 8 bits that is counted up reads one more, and 255 stays (R431). -/
theorem bits_setBits_field {x lo m : Nat} (hx : x < 2 ^ 32) (hm : m < 256) (hlo : lo = 0 ∨ lo = 8 ∨ lo = 16 ∨ lo = 24) :
    Sys2Proof.bits (setBits x (lo + 7) lo m % 2 ^ 32) (lo + 7) lo = m := by
  unfold setBits Sys2Proof.bits
  rcases hlo with rfl | rfl | rfl | rfl <;> norm_num <;> omega

theorem rasCount_field {s : State} (h : s.sysregs.wf sysReset = true) (n : Nat) {lo : Nat} (hlo : lo = 0 ∨ lo = 8 ∨ lo = 16 ∨ lo = 24) :
    Sys2Proof.bits ((s.rasCount n lo).sys (0x0C00 + n)).toNat (lo + 7) lo =
      min 255 (Sys2Proof.bits (s.sys (0x0C00 + n)).toNat (lo + 7) lo + 1) := by
  unfold State.rasCount State.bump1
  dsimp only
  rw [sys_setSys_same h, BitVec.toNat_ofNat, show lo + 7 + 1 - lo = 8 by omega]
  exact bits_setBits_field (BitVec.isLt _) (by omega) hlo

theorem rasLow_cases (k : ErrField) : rasLow k = 0 ∨ rasLow k = 8 ∨ rasLow k = 16 ∨ rasLow k = 24 := by
  cases k <;> decide

/-- RASUE1's COUNT after an error (R432). -/
theorem countError_count {s : State} (h : s.sysregs.wf sysReset = true) :
    Sys2Proof.bits (s.countError.sys 0x0C09).toNat 23 0 = min (2 ^ 24 - 1) (Sys2Proof.bits (s.sys 0x0C09).toNat 23 0 + 1) := by
  have hx : (s.sys 0x0C09).toNat < 2 ^ 32 := BitVec.isLt _
  unfold State.countError
  dsimp only
  rw [sys_setSys_same h, BitVec.toNat_ofNat]
  generalize (s.sys 0x0C09).toNat = x at hx
  unfold setBits Sys2Proof.bits
  norm_num
  omega

theorem logError_mark {s : State} (h : s.sysregs.wf sysReset = true) (cls f pa : Nat) :
    ((s.logError cls f pa).sys 0x0C08).toNat = pa / 4096 % 2 ^ 32 ∧
    ((s.logError cls f pa).sys 0x0C09).toNat = 2 ^ 31 + cls % 8 * 2 ^ 28 + f % 16 * 2 ^ 24 + (s.countError.sys 0x0C09).toNat % 2 ^ 24 := by
  have hcount : s.countError.sysregs.wf sysReset = true := wf_set _ _ _ h
  have hline : (s.countError.setSys 0x0C08 (BitVec.ofNat 32 (pa / 4096))).sysregs.wf sysReset = true := wf_set _ _ _ hcount
  unfold State.logError
  dsimp only
  rw [sys_setSys_same hline, sys_setSys_other hline _ (by decide), sys_setSys_same hcount, BitVec.toNat_ofNat, BitVec.toNat_ofNat]
  exact ⟨rfl, by omega⟩

/-- RASUE0 and RASUE1 after an error: its line, its class, and the count (R432). -/
theorem logError_reads {s : State} (h : s.sysregs.wf sysReset = true) (cls f pa : Nat) :
    ((s.logError cls f pa).sys 0x0C08).toNat = pa / 4096 % 2 ^ 32 ∧ Sys2Proof.bit ((s.logError cls f pa).sys 0x0C09).toNat 31 = true ∧
    Sys2Proof.bits ((s.logError cls f pa).sys 0x0C09).toNat 30 28 = cls % 8 ∧
    Sys2Proof.bits ((s.logError cls f pa).sys 0x0C09).toNat 23 0 = min (2 ^ 24 - 1) (Sys2Proof.bits (s.sys 0x0C09).toNat 23 0 + 1) := by
  obtain ⟨hline, hword⟩ := logError_mark h cls f pa
  rw [hword, ← countError_count h]
  refine ⟨hline, ?_, ?_, ?_⟩ <;> simp only [Sys2Proof.bit, Sys2Proof.bits, beq_iff_eq] <;> omega

theorem logError_poisoned (s : State) (cls f pa : Nat) : (s.logError cls f pa).poisoned = s.poisoned := rfl

theorem addPoison_poisoned (s : State) (pa : Nat) : (s.addPoison pa).poisoned.contains (lineOf pa) = true := by
  unfold State.addPoison
  split
  · assumption
  · simp

theorem addPoison_sysregs (s : State) (pa : Nat) : (s.addPoison pa).sysregs = s.sysregs := by
  unfold State.addPoison
  split <;> rfl

/-- An uncorrectable error in clean copies of a line invalidates them (R433). -/
theorem mem_uncorrectable_cleanLine {s : State} {core line : Nat} {l : L1Line} (hl : l ∈ (s.uncorrectable (.cleanLine core line)).l1)
    (hc : l.core = core) (hn : l.line = line) : l.st = .owned ∧ l.dirty ≠ [] := by
  obtain ⟨-, hkept⟩ := List.mem_filter.1 
    (show l ∈ s.l1.filter fun l => !(l.core == core && l.line == line && (l.st != .owned || l.dirty.isEmpty)) from hl)
  simpa [hc, hn] using hkept

/-! Register writes (R206, R241, R432, R438, R441). -/

theorem sysregWrite_system {s : State} {num die part : Nat} {v : Word} (h : num < 0x100000) :
    exec (.sysregWrite num v die part) s = .next (s.swrite num v (die % 4) (part % 4)) :=
  congrArg Host.Outcome.next (if_pos h)

theorem sysregWrite_launch (s : State) (num die part : Nat) (v : Word) :
    exec (.sysregWrite (0x200000 + num) v die part) s = .next (s.markFirmware num (v.getLsbD 0)) := by
  show execSysregWrite (0x200000 + num) v die part s = _
  unfold execSysregWrite
  dsimp only
  rw [if_neg (by omega), if_pos (by omega), Nat.add_sub_cancel_left]

/-- A register of BAR 0 of function `f`, which recovery presents of the physical function alone (R441). -/
theorem sysregWrite_bar {s : State} {f o die part : Nat} {v : Word} (hf : f ≤ 8) (ho : o < 0x1000) :
    exec (.sysregWrite (0x101000 + 0x10000 * f + o) v die part) s =
      .next (if s.recovery && decide (f < 8) then s else s.barWrite f (0x1000 + o) v (die % 4) (part % 4)) := by
  have hfun : (0x101000 + 0x10000 * f + o - 0x100000) / 0x10000 = f := by omega
  have hoff : (0x101000 + 0x10000 * f + o) % 0x10000 = 0x1000 + o := by omega
  show execSysregWrite _ v die part s = _
  unfold execSysregWrite
  dsimp only
  rw [hfun, hoff, if_neg (by omega), if_neg (by omega)]

theorem swrite_closed {s : State} {num : Nat} (h : sysOpen num = false) (v : Word) (die part : Nat) : s.swrite num v die part = s := by
  unfold State.swrite
  dsimp only
  exact if_pos (by rw [h]; rfl)

/-- The tolerated latency of a function keeps 16 bits (R438). -/
theorem swrite_tolerance (s : State) {num : Nat} (hlo : 0x0C10 ≤ num) (hhi : num ≤ 0x0C18) (v : Word) (die part : Nat) :
    s.swrite num v die part = s.setSys num (BitVec.ofNat 32 (v.toNat % 65536)) := by
  interval_cases num <;> rfl

/-- The low word of a queue's ring base is a page's (R337). -/
theorem barWrite_qbase (s : State) {f q : Nat} (hf : f ≤ 8) (hq : q < 64) (v : Word) (die part : Nat) :
    s.barWrite f (0x1000 + 32 * q) v die part = s.setBar f (0x1000 + 32 * q) (BitVec.ofNat 32 (v.toNat / 4096 * 4096)) := by
  have hlow : (0x1000 + 32 * q) % 32 = 0 := by omega
  unfold State.barWrite
  dsimp only
  rw [if_neg (by simp; omega), if_pos (by simp; omega), hlow]
  rfl

theorem bits_lt (x hi lo : Nat) : Sys2Proof.bits x hi lo < 2 ^ (hi + 1 - lo) := Nat.mod_lt _ (Nat.two_pow_pos _)

/-- A field of LEASECFG after a write: one of value 0 is ignored (R241). -/
def leaseField (old v hi lo : Nat) : Nat := if Sys2Proof.bits v hi lo = 0 then Sys2Proof.bits old hi lo else Sys2Proof.bits v hi lo

theorem leaseField_lt (old v hi lo : Nat) : leaseField old v hi lo < 2 ^ (hi + 1 - lo) := by
  unfold leaseField
  split <;> exact bits_lt ..

/-- What a lowered lease or constant period invalidates before it takes effect (R241). -/
def State.leaseLowered (s : State) (die ls lc : Nat) : State :=
  let old := (s.sys (unitKey 0x0210 die)).toNat
  let s := if ls < Sys2Proof.bits old 15 0 then { s with l1 := s.l1.filter fun l => !(l.st == .leased && dieOf l.core == die) } else s
  if lc < Sys2Proof.bits old 27 16 then s.flushConst die else s

section

variable {s : State} {die ls lc : Nat}

theorem leaseLowered_sysregs (s : State) (die ls lc : Nat) : (s.leaseLowered die ls lc).sysregs = s.sysregs := by
  unfold State.leaseLowered
  dsimp only
  split <;> split <;> rfl

theorem leaseLowered_l1 (h : ls < Sys2Proof.bits (s.sys (unitKey 0x0210 die)).toNat 15 0) {l : L1Line} (hl : l ∈ (s.leaseLowered die ls lc).l1)
    (hst : l.st = .leased) : dieOf l.core ≠ die := by
  have hkept : l ∈ s.l1.filter fun l => !(l.st == .leased && dieOf l.core == die) := by
    unfold State.leaseLowered at hl
    dsimp only at hl
    rw [if_pos h] at hl
    split at hl <;> exact hl
  simpa [hst] using (List.mem_filter.1 hkept).2

theorem leaseLowered_die (h : lc < Sys2Proof.bits (s.sys (unitKey 0x0210 die)).toNat 27 16) :
    ((s.leaseLowered die ls lc).die die).pause = true ∧ ((s.leaseLowered die ls lc).die die).constLines = [] := by
  have hflush (u : State) : (u.flushConst die).die die = { u.die die with pause := true, constLines := [] } :=
    die_setDie_of_ne fun h => Bool.noConfusion (congrArg Die.pause h)
  unfold State.leaseLowered
  dsimp only
  rw [if_pos h, hflush]
  exact ⟨rfl, rfl⟩

end

theorem setLease_eq (s : State) (die v : Nat) :
    let old := (s.sys (unitKey 0x0210 die)).toNat
    s.setLease die v = (s.leaseLowered die (leaseField old v 15 0) (leaseField old v 27 16)).setSys (unitKey 0x0210 die)
      (BitVec.ofNat 32 (leaseField old v 27 16 * 65536 + leaseField old v 15 0)) := rfl

theorem setLease_sys {s : State} (h : s.sysregs.wf sysReset = true) (die v : Nat) :
    let old := (s.sys (unitKey 0x0210 die)).toNat
    ((s.setLease die v).sys (unitKey 0x0210 die)).toNat = leaseField old v 27 16 * 65536 + leaseField old v 15 0 := by
  intro old
  have hls : leaseField old v 15 0 < 2 ^ 16 := leaseField_lt ..
  have hlc : leaseField old v 27 16 < 2 ^ 12 := leaseField_lt ..
  rw [setLease_eq, sys_setSys_same (by rwa [leaseLowered_sysregs]), BitVec.toNat_ofNat]
  exact Nat.mod_eq_of_lt (show leaseField old v 27 16 * 65536 + leaseField old v 15 0 < 2 ^ 32 by omega)

end Sys2Proof.Machine

open Sys2Proof.Machine in
/-- Settles O49: requests by the copies that the homes leave, walks and the host port by their one function, errors and registers by the word that
is written. -/
theorem homesWalksAndErrors : Obligations.HomesWalksAndErrors := by
  unfold Obligations.HomesWalksAndErrors
  refine ⟨?homes, ?walks, ?port, ?errors, ?registers⟩
  case homes =>
    intro s0 core pa line region ty fixed s still
    have quiet : still → s.Quiet := And.symm
    refine ⟨?corrected, fun l hl hpart hown hb => ?read, fun l hl hd => ?writeBack, ?evict⟩
    case corrected =>
      show State.mem (if fixed && s0.isLocal pa then s0.correctedLine pa else s0) = s0.mem
      split
      · exact correctedLine_mem ..
      · rfl
    case read =>
      have hexec : exec (.homeReadRequest core pa { ty, fixed }) s0 = .next _ :=
        congrArg Host.Outcome.next (homeRead_takes (ty := ty) rfl hl hpart hown hb)
      refine ⟨?_, ?_, fun x => mem_fill, ?_⟩
      · rintro rfl
        exact hexec
      · exact fun hty hnone => hexec.trans (congrArg _ ((if_neg fun h => hty (BitVec.eq_of_toNat_eq h)).trans (if_neg (by rw [hnone]; exact nofun))))
      · rintro rfl hstill
        exact fill_leased_data (quiet hstill) ..
    case writeBack =>
      exact ⟨s.writeBack core line, rfl, fun hstill => (ownerWriteBack_serves ..).mem (quiet hstill), fun x hx => (mem_writeBack hl hd hx).1,
        fun x hx => (mem_writeBack hl hd hx).2⟩
    case evict =>
      exact ⟨_, rfl, fun hstill => (evictRegion_serves ..).mem (quiet hstill), fun x hx => (mem_evictRegion hx).2⟩
  case walks =>
    intro s w
    refine ⟨fun hcore hnew hroom => ?_, fun hcut => ?_, fun hw hcut => ?_⟩
    · show execTlbMissWalk w s = _
      unfold execTlbMissWalk
      have hwalker : s.walkRoom w = true := by simpa [State.walkRoom] using hroom
      rw [hnew, hwalker, decide_eq_false (Nat.not_le.2 hcore)]
      rfl
    · show Host.Outcome.next (s.walkDone w) = _
      unfold State.walkDone
      simp [hcut]
    · obtain ⟨hwalks, hmem⟩ := walkDone_frame hw hcut
      exact ⟨_, rfl, hwalks, hmem, fun x => walkDone_caches hw hcut, fun x => walkDone_faults hw hcut⟩
  case port =>
    intro s pa n data
    refine ⟨fun hide hp htrack hmove => ?read, fun m hide hmove hm => ?readHeld, ?link, fun hide => ?write⟩
    case read =>
      obtain ⟨hmem, hout⟩ := hostAnswer_answers ⟨htrack, hp⟩ pa n
      refine ⟨s.hostAnswer pa n, ?_, hmem, hout⟩
      show Host.Outcome.next (s.hostLink .whole _) = _
      rw [hostLink_whole hide, hmove]
      rfl
    case readHeld =>
      show Host.Outcome.next (s.hostLink .whole _) = _
      rw [hostLink_whole hide, hmove, hm]
      rfl
    case link =>
      intro i hi
      rcases List.mem_pair.1 hi with rfl | rfl
      all_goals
        refine ⟨fun hb c => ?_, fun hide => ⟨?_, ?_⟩⟩
        · show Host.Outcome.next (s.hostLink c _) = _
          rw [hostLink_broken hb]
        · show Host.Outcome.next (s.hostLink .badTag _) = _
          rw [hostLink_badTag hide]
        · show Host.Outcome.next (s.hostLink .retried _) = .next ((s.rasCount 0 0).hostLink .whole _)
          rw [hostLink_retried hide]
    case write =>
      intro ok
      have hexec : exec (.hostPortWrite { pa, chk := .whole } data) s = .next (s.hostWrite pa data) :=
        congrArg Host.Outcome.next (hostLink_whole hide _)
      rw [hexec]
      refine ⟨fun hok => ?_, fun m hok hmove hm => ?_, fun hok hmove hf => ?_, fun f hok hmove hf => ⟨fun h5 => ?_, fun h5 => ?_⟩, fun htrack hp => ?_⟩
      · rw [hostWrite_drops hok]
      · rw [hostWrite_moves hok hmove hm]
      · rw [hostWrite_writes hok hmove hf]
      · rw [hostWrite_frozen hok hmove hf, if_pos h5]
      · rw [hostWrite_frozen hok hmove hf, if_neg h5]
      · exact homeWrite_mem (.refl s) (.refl _) ⟨htrack, hp⟩
  case errors =>
    intro s u cls pa core line bid va hwf
    refine ⟨fun hc => ?clean, fun hc => ?scrub, ?patrol, ?cleanLine, rfl⟩
    case clean =>
      show execPatrolScrub u s = _
      unfold execPatrolScrub
      rw [hc]
      rfl
    case scrub =>
      refine ⟨s.corrected (u.die % 4) u.field, ?_, dieEvent_mem .., ?_⟩
      · show execPatrolScrub u s = _
        unfold execPatrolScrub
        rw [hc]
        rfl
      · unfold State.corrected
        rw [dieEvent_sys]
        exact rasCount_field hwf _ (rasLow_cases _)
    case patrol =>
      have hsys : (s.addPoison pa).sys 0x0C09 = s.sys 0x0C09 := by
        unfold State.sys
        rw [addPoison_sysregs]
      have hreads := logError_reads (s := s.addPoison pa) (by rwa [addPoison_sysregs]) cls (s.lineFunc (lineOf pa)) pa
      rw [hsys] at hreads
      refine ⟨rfl, ?_, hreads⟩
      rw [logError_poisoned]
      exact addPoison_poisoned s pa
    case cleanLine =>
      exact ⟨s.uncorrectable (.cleanLine core line), rfl, rfl, rfl, fun l hl => mem_uncorrectable_cleanLine hl, countError_count hwf⟩
  case registers =>
    intro s num die part v
    refine ⟨fun hnum hclosed => ?closed, fun hlo hhi => ?tolerance, ?firmware, fun hnum hrec => ?recovery, fun hnum hrec => ?qbase, rfl, rfl,
      fun hwf hdie => ?lease⟩
    case closed => rw [sysregWrite_system hnum, swrite_closed hclosed]
    case tolerance => rw [sysregWrite_system (by omega), swrite_tolerance s hlo hhi]
    case firmware => exact sysregWrite_launch ..
    case recovery => rw [sysregWrite_bar (by omega) (by omega), if_pos (by simp [hrec]; omega)]
    case qbase =>
      rw [sysregWrite_bar (by omega) (by omega), if_neg (by rcases hrec with h | h <;> simp [h]), barWrite_qbase s (by omega) (by omega)]
    case lease =>
      refine ⟨s.setLease die v.toNat, ?_, setLease_sys hwf die v.toNat, fun hls l hl hst => leaseLowered_l1 hls hl hst, leaseLowered_die⟩
      show Host.Outcome.next (s.setLease (die % 4) v.toNat) = _
      rw [Nat.mod_eq_of_lt hdie]

end

/-! # Fabric packets, their messages and the link (R298 to R310, R417 to R427) -/

section

namespace Sys2Proof.Machine

/-! The counter window (R426). -/

/-- An accepted counter is marked, and below the counter from which on every number is new. -/
theorem accept_marked {w x : IvWindow} {n : Nat} (h : w.accept n = some x) : n ∈ x.marks ∧ n < x.cmax := by
  unfold IvWindow.accept at h
  split at h
  case isTrue =>
    cases h
    exact ⟨List.mem_cons_self, n.lt_succ_self⟩
  case isFalse hnew =>
    split at h
    · cases h
      exact ⟨List.mem_cons_self, Nat.lt_of_not_le hnew⟩
    · cases h

theorem accept_once {w x : IvWindow} {n : Nat} (h : w.accept n = some x) : x.accept n = none := by
  obtain ⟨hmark, hlt⟩ := accept_marked h
  unfold IvWindow.accept
  rw [if_neg (Nat.not_le_of_lt hlt), if_neg (by simp [hmark])]

theorem accept_ne_empty {w x : IvWindow} {n : Nat} (h : w.accept n = some x) : x ≠ { cmax := 0, marks := [] } := by
  rintro rfl
  exact List.not_mem_nil (accept_marked h).1

/-! The receive port (R298, R418, R421, R426). -/

theorem sawPhase_frame (s : State) (k : LinkKey) (phase : Bool) : s.sawPhase k phase = { s with links := (s.sawPhase k phase).links } := by
  unfold State.sawPhase
  dsimp only
  split <;> rfl

/-- The counter window that a packet meets at its receiver. -/
def State.rxWindow (s : State) (p : Packet) : IvWindow :=
  Tab.get (fun _ => { cmax := 0, marks := [] }) s.ivs (ivKey (rxKey p) p.svdn p.phase)

/-- The state after an accepted counter: its window, and the phase that its packet came under. -/
def State.ctrPassed (s : State) (p : Packet) (w : IvWindow) : State :=
  { s with ivs := Tab.set (fun _ => { cmax := 0, marks := [] }) s.ivs (ivKey (rxKey p) p.svdn p.phase) w }.sawPhase (rxKey p) p.phase

theorem ctrPassed_frame (s : State) (p : Packet) (w : IvWindow) :
    s.ctrPassed p w = { s with ivs := (s.ctrPassed p w).ivs, links := (s.ctrPassed p w).links } := by
  unfold State.ctrPassed
  rw [sawPhase_frame]

theorem ctrPassed_accepted (s : State) (p : Packet) (w : IvWindow) : (s.ctrPassed p w).accepted = s.accepted := by rw [ctrPassed_frame]

theorem ctrPassed_rxWindow (s : State) (p : Packet) {w : IvWindow} (hw : w ≠ { cmax := 0, marks := [] }) : (s.ctrPassed p w).rxWindow p = w := by
  unfold State.rxWindow State.ctrPassed
  rw [sawPhase_frame]
  exact get_set_of_ne _ _ hw

section

variable {s : State} {p : Packet} (hdev : p.dstDev = s.phys) (hf : p.dstFun < 9)

include hdev hf

theorem receive_noSlot (h : s.slotFor p = none) : s.receive p = s.noSlot p.dstFun := by
  simp [State.receive, hdev, Nat.not_le.2 hf, h]

variable {slot : RxSlot} (hslot : s.slotFor p = some slot)

include hslot

theorem receive_broken (h : intact p = false) : s.receive p = (s.badTag p.dstFun).rasCount (s.portOf p) 0 := by
  simp [State.receive, hdev, Nat.not_le.2 hf, hslot, h]

theorem receive_unsealed (h : intact p = true) (hb : isSealed p.body = false) :
    s.receive p = { s with accepted := s.accepted ++ [(p, slot)] } := by
  simp [State.receive, hdev, Nat.not_le.2 hf, hslot, h, hb]

variable (hwhole : intact p = true) (hsealed : isSealed p.body = true)

include hwhole hsealed

theorem receive_badTag (h : s.tagGood p = false) : s.receive p = (s.badTag p.dstFun).dropOf (rxKey p) := by
  simp [State.receive, hdev, Nat.not_le.2 hf, hslot, hwhole, hsealed, h]

variable (htag : s.tagGood p = true)

include htag

theorem receive_repeated (h : (s.rxWindow p).accept p.ctr = none) : s.receive p = (s.ivReject p.dstFun).dropOf (rxKey p) := by
  unfold State.rxWindow at h
  simp [State.receive, hdev, Nat.not_le.2 hf, hslot, hwhole, hsealed, htag, h]

theorem receive_counts {x : IvWindow} (h : (s.rxWindow p).accept p.ctr = some x) :
    s.receive p = if s.staleVdn p && !s.holds p.dstFun then (s.ctrPassed p x).stalePkt p.dstFun
      else { s.ctrPassed p x with accepted := s.accepted ++ [(p, slot)] } := by
  have hstale : (s.ctrPassed p x).staleVdn p = s.staleVdn p := by rw [ctrPassed_frame]; rfl
  have hholds : (s.ctrPassed p x).holds p.dstFun = s.holds p.dstFun := by rw [ctrPassed_frame]; rfl
  rw [← hstale, ← hholds, ← ctrPassed_accepted s p x]
  unfold State.rxWindow at h
  simp [State.receive, hdev, Nat.not_le.2 hf, hslot, hwhole, hsealed, htag, h, State.ctrPassed]

end

theorem packetReceive_accepts {s : State} {p : Packet} (hdev : p.dstDev = s.phys) (hf : p.dstFun < 9) {slot : RxSlot} (hslot : s.slotFor p = some slot)
    (hwhole : intact p = true) (hsealed : isSealed p.body = true) (htag : s.tagGood p = true) {x : IvWindow}
    (h : (s.rxWindow p).accept p.ctr = some x) :
    ∃ t, exec (.packetReceive p) s = .next t ∧ t.mem = s.mem ∧ t.rxWindow p = x ∧
      t.accepted = if s.staleVdn p = true ∧ s.holds p.dstFun = false then s.accepted else s.accepted ++ [(p, slot)] := by
  have hmem : (s.ctrPassed p x).mem = s.mem := by rw [ctrPassed_frame]
  have hwindow := ctrPassed_rxWindow s p (accept_ne_empty h)
  refine ⟨s.receive p, rfl, ?_⟩
  rw [receive_counts hdev hf hslot hwhole hsealed htag h]
  by_cases hdrop : s.staleVdn p = true ∧ s.holds p.dstFun = false
  · rw [if_pos hdrop, if_pos (by simp [hdrop])]
    exact ⟨hmem, hwindow, ctrPassed_accepted ..⟩
  · rw [if_neg hdrop, if_neg (by simpa using hdrop)]
    exact ⟨hmem, hwindow, rfl⟩

/-! Judgement by epoch (R301). -/

theorem byEpoch_eq (ec epoch : BitVec 8) (rel : Bool) : let d := (epoch - ec).toNat
    byEpoch ec epoch rel = if d = 0 then (if rel then .token else .drop) else if d ≤ 64 then .accept
      else if d ≤ 192 ∧ rel = true then .reject else .drop := by
  unfold byEpoch
  cases rel <;> simp

/-! Window packets (R304 to R306). -/

section

variable {s t u : State} {p : Packet} {win inc epoch r : Nat}

theorem windowWrite_counts {addr : Nat} {data : List Byte} {tgt : Target} (hb : p.body = .write win inc epoch r addr data)
    (hj : s.judge p.dstFun p.svdn win (BitVec.ofNat 8 inc) (BitVec.ofNat 8 epoch) false = (t, .accept))
    (he : t.entryFor { f := p.dstFun, svdn := p.svdn, win, inc, epoch } (t.portOf p) = some u)
    (hr : (u.arrival { f := p.dstFun, svdn := p.svdn, win, inc, epoch }).any (fun a => a.r != r) = false)
    (htgt : u.peerTgt p.dstFun addr p.handle true = some tgt) :
    let k : EpochKey := { f := p.dstFun, svdn := p.svdn, win, inc, epoch }
    s.windowWrite p = (((u.unpaced fun s => s.writeTgt (s.portEnv p.dstFun p.handle) none tgt data).fabricBytes p.dstFun 10 data.length).updArrival k
      fun a => { a with arrivals := a.arrivals + 1 }).settleArrival k := by
  unfold State.windowWrite
  simp only [hb, hj, he, hr, htgt]
  rfl

theorem windowWrite_drops {addr : Nat} {data : List Byte} (hb : p.body = .write win inc epoch r addr data)
    (hj : s.judge p.dstFun p.svdn win (BitVec.ofNat 8 inc) (BitVec.ofNat 8 epoch) false = (t, .drop)) :
    s.windowWrite p = t.stalePkt p.dstFun := by
  unfold State.windowWrite
  simp only [hb, hj]

variable {count scope : Nat} {flag : VAddr} {v : Word} (hb : p.body = .release win inc epoch r count flag v scope)

include hb

theorem releaseArrive_expects
    (hj : s.judge p.dstFun p.svdn win (BitVec.ofNat 8 inc) (BitVec.ofNat 8 epoch) true = (t, .accept))
    (he : t.entryFor { f := p.dstFun, svdn := p.svdn, win, inc, epoch } (t.portOf p) = some u) :
    let k : EpochKey := { f := p.dstFun, svdn := p.svdn, win, inc, epoch }
    s.releaseArrive p = (u.updArrival k fun a => if a.expect.isSome then a else { a with
      expect := some { tag := u.tagFor p.handle, count, flag, value := v, scope }, deadline := u.clk + u.tlost p.dstFun }).settleArrival k := by
  unfold State.releaseArrive
  simp only [hb, hj, he]

theorem releaseArrive_token
    (hj : s.judge p.dstFun p.svdn win (BitVec.ofNat 8 inc) (BitVec.ofNat 8 epoch) true = (t, .token)) :
    s.releaseArrive p = t.sendTo 0 p.dstFun p.svdn (.token win inc epoch r) := by
  unfold State.releaseArrive
  simp only [hb, hj]

theorem releaseArrive_rejects
    (hj : s.judge p.dstFun p.svdn win (BitVec.ofNat 8 inc) (BitVec.ofNat 8 epoch) true = (t, .reject)) :
    s.releaseArrive p = (t.stalePkt p.dstFun).sendTo 0 p.dstFun p.svdn (.reject win inc epoch r) := by
  unfold State.releaseArrive
  simp only [hb, hj]

end

/-- A token reaches the window that its close names, unless the function's packets are forwarded, held or dropped. -/
theorem packetStep_token {s : State} {p : Packet} {win inc epoch r : Nat} (hb : p.body = .token win inc epoch r)
    (h : 8 ≤ p.dstFun ∨ ((s.session p.dstFun).forwarding = false ∧ (s.session p.dstFun).frozen = none ∧ s.holds p.dstFun = false ∧
      ¬ (s.migState p.dstFun = 6 ∧ s.vfState p.dstFun = 2))) :
    s.packetStep p = if (s.window p.dstFun win).inc.toNat = inc ∧ (s.window p.dstFun win).closing.toNat = epoch then
      exec (.tokenArrival p.dstFun win p.svdn) s else .next s := by
  have hstep : s.packetStep p = if s.closingIs p.dstFun win inc epoch then execTokenArrival p.dstFun win p.svdn s else .next s := by
    unfold State.packetStep
    rcases h with h | ⟨hfwd, hfrozen, hheld, hfailed⟩
    · have hholds : s.holds p.dstFun = false := by simp [State.holds, Nat.not_lt.2 h]
      simp [hb, hholds, Nat.not_lt.2 h]
    · have hstays : ¬ (p.dstFun < 8 ∧ s.migState p.dstFun = 6 ∧ s.vfState p.dstFun = 2) := fun hdrop => hfailed hdrop.2
      simp only [hb, hfwd, hfrozen, hheld, Option.isSome_none, Bool.or_false, Bool.and_false]
      rw [if_neg Bool.false_ne_true, if_neg Bool.false_ne_true, if_neg (by simpa [packetClass] using hstays)]
  rw [hstep]
  simp only [State.closingIs, Bool.and_eq_true, beq_iff_eq]
  rfl

/-! T_lost at the receiver (R306). -/

section

variable {s : State} {k : EpochKey} {a : Arrival} {x : Expect} (hk : k.win ≠ 32) (ha : s.arrival k = some a) (hx : a.expect = some x)

include hk ha hx

theorem tLost_waits (h : s.clk < a.deadline) : s.tLost k = s := by
  unfold State.tLost
  simp only [if_neg hk, ha, hx]
  rw [if_pos (by simp [h])]

variable (hlate : a.deadline ≤ s.clk) (hlive : s.frozen k.f = false)

include hlate hlive

theorem tLost_replays (h : a.r ≠ 3) : s.tLost k = (s.updArrival k fun a => { a with
    r := a.r + 1, arrivals := 0, denied := false, deadline := s.clk + s.tlost k.f }).sendTo 0 k.f k.svdn (.replayReq k.win k.inc k.epoch (a.r + 1)) := by
  unfold State.tLost
  simp only [if_neg hk, ha, hx]
  rw [if_neg (by simp [hlive, hlate]), if_neg h]

theorem tLost_lost (h : a.r = 3) : s.tLost k = ((s.closeEntry k).sendTo 0 k.f k.svdn (.loss k.win k.inc k.epoch a.r)).errorRecord k.f 0
    { ErrRec.empty with kind := 5, cause := 19, addr := x.flag, extra := k.svdn + k.win * 2 ^ 8 + k.epoch * 2 ^ 16 } := by
  unfold State.tLost
  simp only [if_neg hk, ha, hx]
  rw [if_neg (by simp [hlive, hlate]), if_pos h]
  rfl

end

/-! The messages of a close at its sender (R198, R307). -/

section

variable {s : State} {f win v : Nat} {q : Pend} {c : Closer} (hq : (s.window f win).pend v = some q)

include hq

theorem tokenArrive_completes (h : (s.window f win).pending.filter (fun p => p.vdn != v) = []) : s.tokenArrive f win v =
    s.setWindow f win { (s.window f win).free (s.window f win).closing.toNat with st := .open, pending := [], closer := none } := by
  unfold State.tokenArrive
  simp only [hq, h]
  rfl

theorem tokenArrive_waits (h : (s.window f win).pending.filter (fun p => p.vdn != v) ≠ []) : s.tokenArrive f win v =
    s.setWindow f win { s.window f win with pending := (s.window f win).pending.filter fun p => p.vdn != v } := by
  unfold State.tokenArrive
  simp only [hq]
  rw [if_neg (by simpa using h)]

theorem replay_resends (h : (s.window f win).copies = []) (r : Nat) : let w := s.window f win
    s.replay f win v w.closing.toNat r = (w.buf.filter fun b => b.epoch == w.closing.toNat &&
      b.vdn == v).foldl (fun s b => s.sendTo b.handle f v (.write win w.inc.toNat w.closing.toNat r b.addr b.data))
        (s.setWindow f win { w with pending := w.pending.map fun p => if p.vdn = v then { p with r, deadline := s.clk + 2 * s.tlost f } else p }) := by
  unfold State.replay
  simp only [hq, h]
  rw [if_neg (not_not_intro rfl)]
  rfl

variable (hc : (s.window f win).closer = some c)

include hc

theorem closeFails_fails (cause : Cause) (fault : Nat) : let w := s.window f win
    s.closeFails f win v cause fault = (s.setWindow f win { w.free w.closing.toNat with
      st := .failed, fault, pending := w.pending.filter (fun p => p.vdn != v), closer := none }).deferTrap c.lid c.key
        c.pc { cause := cause.code, addr := c.flag, aux := BitVec.ofNat 32 v } := by
  unfold State.closeFails
  simp only [hq, hc]

variable (hw : win ≠ 32)

include hw

theorem resend_waits (h : s.clk < q.deadline) : s.resend f win v = s := by
  unfold State.resend
  simp only [if_neg hw, hq, hc]
  rw [if_pos (by simp [h])]

variable (hs : c.sent = true) (hlive : s.frozen f = false) (hlate : q.deadline ≤ s.clk)

include hs hlive hlate

theorem resend_again (h : q.resends ≠ 3) : let w := s.window f win
    s.resend f win v = (s.setWindow f win { w with
      pending := w.pending.map fun p => if p.vdn = v then { p with resends := p.resends + 1, deadline := s.clk + 2 * s.tlost f } else p }).sendTo
        c.handle f v (.release win w.inc.toNat w.closing.toNat q.r q.count c.flag c.value c.scope) := by
  unfold State.resend
  simp only [if_neg hw, hq, hc]
  rw [if_neg (by simp [hs, hlive, hlate]), if_neg h]

theorem resend_fails (h : q.resends = 3) : s.resend f win v = s.closeFails f win v .fabricTimeout 4 := by
  unfold State.resend
  simp only [if_neg hw, hq, hc]
  rw [if_neg (by simp [hs, hlive, hlate]), if_pos h]

end

/-! Non-posted requests at their home (R310). -/

theorem seqDist_succ (n : Nat) : seqDist ((n + 1) % 2 ^ 32) n = 1 ∧ seqDist n ((n + 1) % 2 ^ 32) = 2 ^ 32 - 1 := by
  unfold seqDist
  omega

theorem judge_of_marked {d : DupFilter} {n : Nat} {l : List (Nat × Option Answer)} (hm : d.marks = (n, none) :: l)
    (hfar : ¬ seqDist n d.high < 2 ^ 31) (hnear : ¬ 4096 < seqDist d.high n) : d.judge n = .repeated none := by
  unfold DupFilter.judge
  rw [hm, if_neg (by simpa using hfar), if_neg hnear]
  simp

/-- A number that was performed is known from then on, without its answer. -/
theorem judge_mark {d : DupFilter} {n : Nat} (h : d.judge n = .perform) : (d.mark n).judge n = .repeated none := by
  obtain ⟨hback, hfwd⟩ := seqDist_succ n
  by_cases hnew : (d.marks.isEmpty || decide (seqDist n d.high < 2 ^ 31)) = true
  case pos =>
    have hhigh : (d.mark n).high = (n + 1) % 2 ^ 32 := if_pos hnew
    exact judge_of_marked rfl (by rw [hhigh]; omega) (by rw [hhigh]; omega)
  case neg =>
    have hhigh : (d.mark n).high = d.high := if_neg hnew
    have hnear : ¬ 4096 < seqDist d.high n := fun hold => by
      rw [DupFilter.judge, if_neg hnew, if_pos hold] at h
      cases h
    refine judge_of_marked rfl ?_ (by rwa [hhigh])
    rw [hhigh]
    exact fun hlt => hnew (Bool.or_eq_true_iff.2 (.inr (decide_eq_true hlt)))

section

variable {s : State} {p : Packet} {n ipa : Nat} {op : PeerOp} (hb : p.body = .request n ipa op)

include hb

theorem requestArrive_old (h : (s.dup p.dstFun p.svdn).judge n = .old) : s.requestArrive p = s := by
  unfold State.requestArrive
  simp only [hb, h]

theorem requestArrive_repeated {a : Answer} (h : (s.dup p.dstFun p.svdn).judge n = .repeated (some a)) :
    s.requestArrive p = s.sendTo 0 p.dstFun p.svdn (.response n (s.withLine p ipa a)) := by
  unfold State.requestArrive
  simp only [hb, h]

variable (hj : (s.dup p.dstFun p.svdn).judge n = .perform) {t : State}

include hj

theorem requestArrive_answers {a : Answer}
    (h : (s.setDup p.dstFun p.svdn ((s.dup p.dstFun p.svdn).mark n)).performPeer p n ipa op = (t, some a)) :
    s.requestArrive p = t.answer p.dstFun p.svdn n a := by
  unfold State.requestArrive
  simp only [hb, hj, h]

theorem requestArrive_defers
    (h : (s.setDup p.dstFun p.svdn ((s.dup p.dstFun p.svdn).mark n)).performPeer p n ipa op = (t, none)) : s.requestArrive p = t := by
  unfold State.requestArrive
  simp only [hb, hj, h]

end

/-! Responses and timers of non-posted requests (R200, R310). -/

section

variable {s : State} {x : NonPosted} (hx : (s.nps.find? fun y => y.id == x.id) = some x)

include hx

theorem retransmit_waits (h : s.clk < x.deadline ∨ x.pent = true) : s.retransmit x.id = s := by
  unfold State.retransmit
  simp only [hx]
  rw [if_pos (by rcases h with h | h <;> simp [h])]

variable (hlate : x.deadline ≤ s.clk) (hp : x.pent = false) (hlive : s.frozen x.f = false)

include hlate hp hlive

theorem retransmit_again (h : x.tries < 3) :
    let again (p : NonPosted) : NonPosted := { p with tries := p.tries + 1, deadline := s.clk + s.tlost p.f }
    s.retransmit x.id = { s with nps := updFirst (fun p => p.id == x.id) again s.nps }.sendTo x.handle x.f x.vdn (.request x.seq x.ipa x.op) := by
  unfold State.retransmit
  simp only [hx]
  rw [if_neg (by simp [hp, hlive, hlate]), if_pos h]

theorem retransmit_fails (h : 3 ≤ x.tries) {n : Nat} (hop : x.op = .ld n) : s.retransmit x.id = s.npFails x .fabricTimeout := by
  unfold State.retransmit
  simp only [hx]
  rw [if_neg (by simp [hp, hlive, hlate]), if_neg (Nat.not_lt.2 h), hop]

end

section

variable {s : State} {p : Packet} {n : Nat} {a : Answer} {x : NonPosted} (hb : p.body = .response n a)
  (hx : (s.nps.find? fun x => x.f == p.dstFun && x.vdn == p.svdn && x.seq == n) = some x)

include hb hx

theorem responseArrive_refused (h : a = .refused) : s.responseArrive p = (s.fabricBytes x.f 10 (payload p.body)).npFails x .accessDenied := by
  unfold State.responseArrive
  simp only [hb, hx, h]

theorem responseArrive_denied {st : BitVec 4} (h : a = .denied st) :
    s.responseArrive p = ((s.fabricBytes x.f 10 (payload p.body)).endNp x).lockResult x.bid x.grp false st := by
  unfold State.responseArrive
  simp only [hb, hx, h]

theorem responseArrive_queued (h : a = .queued) : s.responseArrive p = (s.fabricBytes x.f 10 (payload p.body)).npQueued x := by
  unfold State.responseArrive
  simp only [hb, hx, h]

theorem responseArrive_grant {st : BitVec 4} {line : List Byte} (h : a = .grant st line) :
    s.responseArrive p = ((s.fabricBytes x.f 10 (payload p.body)).endNp x).lockResult x.bid x.grp true st := by
  unfold State.responseArrive
  simp only [hb, hx, h]

theorem responseArrive_poisoned (h : a = .poisoned) : s.responseArrive p = (s.fabricBytes x.f 10 (payload p.body)).npPoisoned x := by
  unfold State.responseArrive
  simp only [hb, hx, h]

theorem responseArrive_loads {k v m : Nat} (h : a = .done k v) (hop : x.op = .ld m) (hbid : x.bid ≠ 0) (hdone : x.done = none) :
    s.responseArrive p =
      let u := ((s.fabricBytes x.f 10 (payload p.body)).endNp x).deliver { bid := x.bid, tid := x.tid } x.tok x.dst
        ((if x.signed = 0 then v else low 32 (sgn x.signed v)) % 2 ^ (8 * max k 4)) (x.pred.map fun p => (p, true))
      if x.acq then u.dropLeases (u.envOf x.bid).core else u := by
  unfold State.responseArrive
  simp only [hb, hx, h, hdone, if_neg hbid]
  unfold State.npDone
  simp only [hop]

end

/-! What leaves: posted writes (R84), and the order of a transmit group (R420). -/

theorem localPortAccept_leaves {s : State} {x : Posted} (h : (s.posts.find? fun y => y.id == x.id) = some x) : exec (.localPortAccept x.id) s =
    .next (({ s with posts := s.posts.filter fun y => y.id != x.id }.emit x.pkt).settleCnt x.bid x.grp .st x.tok) := by
  show execLocalPortAccept x.id s = _
  unfold execLocalPortAccept
  rw [h]

theorem transmit_first {s : State} {g : Nat} {p : Packet}
    (h : s.txFirst (s.txq.filter fun p => Config.receivePort s.phys p.dstDev == g) = some p) :
    s.transmit g = { s with txq := s.txq.erase p }.launchPacket p := by
  unfold State.transmit
  simp only [h]

theorem txFirst_control {s : State} {l : List Packet} {p : Packet} (h : (l.find? fun p => packetClass p.body == .control) = some p) :
    s.txFirst l = some p := by
  unfold State.txFirst
  rw [h]

theorem txFirst_stop {s : State} {l : List Packet} {p : Packet} (hno : ∀ q ∈ l, packetClass q.body ≠ .control)
    (h : (l.find? fun p => packetClass p.body == .migration && s.migState p.srcFun == 3) = some p) : s.txFirst l = some p := by
  have hnone : (l.find? fun p => packetClass p.body == .control) = none := List.find?_eq_none.2 (by simpa using hno)
  unfold State.txFirst
  rw [hnone]
  exact h

/-! Fibres (R419). -/

theorem fibreOut_leaves {s : State} (hwf : s.sysregs.wf sysReset = true) {g fibre : Nat}
    (hlive : bit (s.sys (0x0DA0 + g % 4)).toNat (fibre % 32) = true) : let r := 0x0DA0 + g % 4
    (s.fibreOut g fibre).sys r = s.sys r &&& ~~~(BitVec.ofNat 32 (2 ^ (fibre % 32))) ∧
    (∀ n, n ≠ r → (s.fibreOut g fibre).sys n = s.sys n) ∧
    (s.fibreOut g fibre).outbox = s.outbox ++ [.flitsLost (g % 4) (fibre % 32)] ∧ (s.fibreOut g fibre).mem = s.mem := by
  unfold State.fibreOut
  dsimp only
  rw [if_neg (by simp [hlive])]
  exact ⟨sys_setSys_same hwf _ _, fun n hn => sys_setSys_other hwf _ hn, rfl, rfl⟩

/-- The errors of a fibre within the last 1 ms, the one of this cycle first. -/
def State.recentErrs (s : State) (g fibre : Nat) : List Nat :=
  s.clk :: (Tab.get (fun _ => []) s.fibreErrs (fibreKey g fibre)).filter fun c => s.clk < c + us 1000

theorem fibreLeaveStripe_leaves {s : State} {g fibre : Nat} {lock : Bool} (h : lock = true ∨ 16 ≤ (s.recentErrs g fibre).length) :
    exec (.fibreLeaveStripe g { fibre, lock }) s = .next (s.fibreOut g fibre) :=
  congrArg _ (if_pos (by simpa [State.recentErrs] using h))

theorem fibreLeaveStripe_counts {s : State} {g fibre : Nat} {lock : Bool} (hlock : lock = false) (hfew : (s.recentErrs g fibre).length < 16) :
    exec (.fibreLeaveStripe g { fibre, lock }) s =
      .next { s with fibreErrs := Tab.set (fun _ => []) s.fibreErrs (fibreKey g fibre) (s.recentErrs g fibre) } :=
  congrArg _ (if_neg (by simp only [hlock, Bool.false_or, decide_eq_true_eq]; exact Nat.not_le.2 hfew))

theorem fibreTest_inService {s : State} {g fibre : Nat} (h : bit (s.sys (0x0DA0 + g % 4)).toNat (fibre % 32) = true) (good : Bool) :
    exec (.fibreTest g fibre good) s = .next s := by
  show execFibreTest g fibre good s = _
  unfold execFibreTest
  dsimp only
  rw [if_pos h]

section

variable {s : State} {g fibre : Nat} (hout : bit (s.sys (0x0DA0 + g % 4)).toNat (fibre % 32) = false)

include hout

theorem fibreTest_fails :
    exec (.fibreTest g fibre false) s = .next { s with fibreRuns := Tab.set (fun _ => 0) s.fibreRuns (fibreKey g fibre) 0 } := by
  show execFibreTest g fibre false s = _
  simp [execFibreTest, hout]

theorem fibreTest_early (h0 : Tab.get (fun _ => 0) s.fibreRuns (fibreKey g fibre) = 0)
    (h : s.clk < Tab.get (fun _ => 0) s.fibreNext (fibreKey g fibre)) : exec (.fibreTest g fibre true) s = .next s := by
  show execFibreTest g fibre true s = _
  simp [execFibreTest, hout, h0, h]

theorem fibreTest_begins (h0 : Tab.get (fun _ => 0) s.fibreRuns (fibreKey g fibre) = 0)
    (h : Tab.get (fun _ => 0) s.fibreNext (fibreKey g fibre) ≤ s.clk) : exec (.fibreTest g fibre true) s = .next { s with
      fibreRuns := Tab.set (fun _ => 0) s.fibreRuns (fibreKey g fibre) (s.clk + 1),
      fibreNext := Tab.set (fun _ => 0) s.fibreNext (fibreKey g fibre) (s.clk + us 100000) } := by
  show execFibreTest g fibre true s = _
  simp [execFibreTest, hout, h0, Nat.not_lt.2 h]

variable (h0 : Tab.get (fun _ => 0) s.fibreRuns (fibreKey g fibre) ≠ 0)

include h0

theorem fibreTest_runs (h : s.clk + 1 < Tab.get (fun _ => 0) s.fibreRuns (fibreKey g fibre) + us 1000) :
    exec (.fibreTest g fibre true) s = .next s := by
  show execFibreTest g fibre true s = _
  simp [execFibreTest, hout, h0, h]

theorem fibreTest_rejoins (h : Tab.get (fun _ => 0) s.fibreRuns (fibreKey g fibre) + us 1000 ≤ s.clk + 1) : let r := 0x0DA0 + g % 4
    exec (.fibreTest g fibre true) s =
      .next (({ s with fibreRuns := Tab.set (fun _ => 0) s.fibreRuns (fibreKey g fibre) 0 }.setSys r
        (s.sys r ||| BitVec.ofNat 32 (2 ^ (fibre % 32)))).flushCtrl (s.groupDevs (g % 4))) := by
  show execFibreTest g fibre true s = _
  simp [execFibreTest, hout, h0, Nat.not_lt.2 h]

end

/-! Link keys and their phases (R425, R427). -/

theorem link_setLink_same (s : State) (k : LinkKey) (x : LinkState) : (s.setLink k x).link k = x := by
  simp [State.link, State.setLink]

theorem link_setLink_other (s : State) {j k : LinkKey} (x : LinkState) (h : j ≠ k) : (s.setLink k x).link j = s.link j := by
  have hkept (e : LinkKey × LinkState) : decide ((e.1 != k) = true ∧ (e.1 == j) = true) = (e.1 == j) := by
    by_cases he : e.1 = j <;> simp [he, h]
  have hhead : (k == j) = false := by simpa using h.symm
  simp only [State.link, State.setLink, List.find?_cons, hhead, List.find?_filter, hkept]

/-- What a packet sent leaves as it was: memory, and of each link key all but its counter (R425). -/
def State.SealsOnly (s t : State) : Prop := t.mem = s.mem ∧ ∀ k, ∃ n, t.link k = { s.link k with ctr := n }

theorem State.SealsOnly.of_links {s t : State} (hm : t.mem = s.mem) (hl : t.links = s.links) : s.SealsOnly t :=
  ⟨hm, fun k => ⟨(s.link k).ctr, by simp [State.link, hl]⟩⟩

theorem fabricBytes_links (s : State) (f m n : Nat) : (s.fabricBytes f m n).mem = s.mem ∧ (s.fabricBytes f m n).links = s.links := by
  unfold State.fabricBytes
  dsimp only
  split <;> exact ⟨rfl, rfl⟩

theorem seal_sealsOnly (s : State) (p : Packet) : s.SealsOnly (s.seal p).1 := by
  obtain ⟨hm, hl⟩ := fabricBytes_links s p.srcFun 9 (payload p.body)
  have hlink (k : LinkKey) : (s.fabricBytes p.srcFun 9 (payload p.body)).link k = s.link k := by simp [State.link, hl]
  unfold State.seal
  dsimp only
  split
  case isTrue => exact .of_links hm hl
  case isFalse =>
    refine ⟨hm, fun k => ?_⟩
    generalize txKey _ = j
    by_cases hk : k = j
    · subst hk
      exact ⟨_, (link_setLink_same ..).trans (by rw [hlink])⟩
    · exact ⟨(s.link k).ctr, (link_setLink_other _ _ hk).trans (hlink k)⟩

theorem emit_sealsOnly (s : State) (p : Packet) : s.SealsOnly (s.emit p) := by
  unfold State.emit
  split
  · exact seal_sealsOnly s p
  · split <;> exact .of_links rfl rfl

theorem sendCtrl_sealsOnly (s : State) (p : Packet) : s.SealsOnly (s.sendCtrl p) := by
  unfold State.sendCtrl
  dsimp only
  split
  · exact emit_sealsOnly _ p
  · exact .of_links rfl rfl

theorem freshPhase_link (s : State) (k : LinkKey) (phase : Bool) : (s.freshPhase k phase).link k = { s.link k with
    rxPhase := !phase, both := true, overlap := none, asked := true, refreshAt := some s.clk, wanted := false } :=
  link_setLink_same ..

theorem keyPhaseChange_waits {s : State} {k : LinkKey} (h : s.mayRefresh k = false) : exec (.keyPhaseChange k) s = .next s := by
  show Host.Outcome.next (s.askRefresh k) = _
  simp [State.askRefresh, h]

theorem keyPhaseChange_asks {s : State} {k : LinkKey} (h : s.mayRefresh k = true) : ∃ t n, exec (.keyPhaseChange k) s = .next t ∧
    t.link k = { s.link k with ctr := n, rxPhase := (s.link k).phase, both := true, overlap := none, asked := true, refreshAt := some s.clk, wanted := false } ∧
    t.mem = s.mem := by
  obtain ⟨hmem, hlink⟩ := sendCtrl_sealsOnly (s.freshPhase k (!(s.link k).phase))
    ((s.freshPhase k (!(s.link k).phase)).packetAt k.f k.dev k.fun' (.refresh k.handle (!(s.link k).phase) false))
  obtain ⟨n, hn⟩ := hlink k
  refine ⟨s.askRefresh k, n, rfl, ?_, ?_⟩
  all_goals
    unfold State.askRefresh
    rw [if_neg (by simp [h])]
  · exact hn.trans (by rw [freshPhase_link, Bool.not_not])
  · exact hmem

/-- The answer to a request for a change of phase: from then on this end seals under the new phase. -/
theorem packetStep_refresh {s : State} {k : LinkKey} {p : Packet} (hb : p.body = .refresh k.handle (!(s.link k).phase) true) (hf : p.dstFun = k.f)
    (hdev : p.srcDev = k.dev) (hfun : p.srcFun = k.fun') (hasked : (s.link k).asked = true) :
    s.packetStep p = .next (s.setLink k { s.link k with phase := !(s.link k).phase, ctr := 0, asked := false }) := by
  have hframe : s.refreshFrame k (!(s.link k).phase) true = s.turnPhase k !(s.link k).phase := by
    unfold State.refreshFrame
    simp [hasked]
  have hstep : s.packetStep p = .next (s.refreshFrame k (!(s.link k).phase) true) := by
    unfold State.packetStep
    simp [hb, hf, hdev, hfun, packetClass]
  rw [hstep, hframe]
  rfl

theorem keyPhaseOverlapEnd_ends {s : State} {k : LinkKey} {d : Nat} (h : (s.link k).overlap = some d) : exec (.keyPhaseOverlapEnd k) s =
    .next (if d ≤ s.clk then s.setLink k { s.link k with rxPhase := !(s.link k).rxPhase, both := false, overlap := none } else s) := by
  show execKeyPhaseOverlapEnd k s = _
  simp [execKeyPhaseOverlapEnd, h]

/-- Settles O54: each verdict of the receive port, each message of a close, each timer and each change of the link is an equation of its own; a key-phase
request reaches the sender's links by its counter alone. -/
theorem fabricPackets : Obligations.FabricPackets := by
  unfold Obligations.FabricPackets
  refine ⟨?receive, fun w x n => accept_once, fun ec epoch rel => byEpoch_eq ec epoch rel, ?windowPackets, ?tLost, ?messages, ?requests, ?responses,
    ?retransmit, ?posted, ?transmit, ?fibres, ?phases⟩
  case receive =>
    intro s p hdev hf
    exact ⟨fun h => congrArg _ (receive_noSlot hdev hf h), fun slot hslot =>
      ⟨fun h => congrArg _ (receive_broken hdev hf hslot h), fun h hb => congrArg _ (receive_unsealed hdev hf hslot h hb),
        fun h hb ht => congrArg _ (receive_badTag hdev hf hslot h hb ht), fun h hb ht =>
        ⟨fun hw => congrArg _ (receive_repeated hdev hf hslot h hb ht hw), fun x hx => packetReceive_accepts hdev hf hslot h hb ht hx⟩⟩⟩
  case windowPackets =>
    intro s t u p win inc epoch r addr count scope data flag v
    exact ⟨fun hb => ⟨fun tgt hj he hr htgt => congrArg _ (windowWrite_counts hb hj he hr htgt), fun hj => congrArg _ (windowWrite_drops hb hj)⟩,
      fun hb h => packetStep_token hb h, fun hb => ⟨fun hj he => congrArg _ (releaseArrive_expects hb hj he),
        fun hj => congrArg _ (releaseArrive_token hb hj), fun hj => congrArg _ (releaseArrive_rejects hb hj)⟩⟩
  case tLost =>
    intro s k a x hk ha hx
    exact ⟨fun h => congrArg _ (tLost_waits hk ha hx h), fun hd hf hr => congrArg _ (tLost_replays hk ha hx hd hf hr),
      fun hd hf hr => congrArg _ (tLost_lost hk ha hx hd hf hr)⟩
  case messages =>
    intro s f win v q c w hq hc rest
    refine ⟨fun h => congrArg _ (tokenArrive_completes hq h), fun h => congrArg _ (tokenArrive_waits hq h), ?fails,
      fun r h => congrArg _ (replay_resends hq h r), fun hw h => congrArg _ (resend_waits hq hc hw h),
      fun hw hs hf hd hr => congrArg _ (resend_again hq hc hw hs hf hd hr), fun hw hs hf hd hr => congrArg _ (resend_fails hq hc hw hs hf hd hr)⟩
    intro i code fault hi
    simp only [List.mem_cons, Prod.mk.injEq, List.not_mem_nil, or_false] at hi
    rcases hi with ⟨rfl, rfl, rfl⟩ | ⟨rfl, rfl, rfl⟩ | ⟨rfl, rfl, rfl⟩
    · exact congrArg _ (closeFails_fails hq hc .windowState 2)
    · exact congrArg _ (closeFails_fails hq hc .fabricLoss 1)
    · exact congrArg _ (closeFails_fails hq hc .accessDenied 3)
  case requests =>
    intro s p n ipa op hb
    exact ⟨fun h => congrArg _ (requestArrive_old hb h), fun a h => congrArg _ (requestArrive_repeated hb h),
      fun h => ⟨fun t a ht => congrArg _ (requestArrive_answers hb h ht), fun t ht => congrArg _ (requestArrive_defers hb h ht)⟩, judge_mark⟩
  case responses =>
    intro s p n a x hb hx
    exact ⟨fun h => congrArg _ (responseArrive_refused hb hx h), fun st h => congrArg _ (responseArrive_denied hb hx h),
      fun h => congrArg _ (responseArrive_queued hb hx h), fun st line h => congrArg _ (responseArrive_grant hb hx h),
      fun h => congrArg _ (responseArrive_poisoned hb hx h), fun k v m h hop hbid hdone => congrArg _ (responseArrive_loads hb hx h hop hbid hdone)⟩
  case retransmit =>
    intro s x hx
    exact ⟨fun h => congrArg _ (retransmit_waits hx h), fun hd hp hf h => congrArg _ (retransmit_again hx hd hp hf h),
      fun hd hp hf h ⟨_, hop⟩ => congrArg _ (retransmit_fails hx hd hp hf h hop)⟩
  case posted => exact fun s x hx => localPortAccept_leaves hx
  case transmit =>
    intro s g p
    exact ⟨fun h => transmit_first (txFirst_control h), fun hno h => transmit_first (txFirst_stop hno h)⟩
  case fibres =>
    intro s g fibre hwf
    refine ⟨fun lock => ⟨fun h hlive => ?_, fun hlock hfew => ?_⟩, fun h => ⟨fibreTest_inService h true, fibreTest_inService h false⟩, fun h =>
      ⟨fibreTest_fails h, fibreTest_early h, fibreTest_begins h, fibreTest_runs h, fibreTest_rejoins h⟩⟩
    · exact ⟨s.fibreOut g fibre, fibreLeaveStripe_leaves h, fibreOut_leaves hwf hlive⟩
    · exact fibreLeaveStripe_counts hlock hfew
  case phases =>
    intro s k
    refine ⟨keyPhaseChange_waits, fun h => ?_, fun p hb hf hdev hfun hasked => packetStep_refresh hb hf hdev hfun hasked,
      fun d => keyPhaseOverlapEnd_ends⟩
    obtain ⟨t, n, ht, hlink, hmem⟩ := keyPhaseChange_asks h
    refine ⟨t, ht, ?_⟩
    rw [hlink]
    exact ⟨rfl, rfl, rfl, rfl, rfl, rfl, rfl, hmem⟩

end Sys2Proof.Machine

end

/-! # Queues, records, blocks and deferred traps (R301, R351) -/

section

namespace Sys2Proof.Machine

/-- The system registers that a function-level reset puts to 0, in its order: the VDN table, then roots, tags and counts (R3, R301, R351). -/
def flrRegs (f : Nat) : List Nat :=
  (List.range 64).map (0x1000 + 0x40 * f + ·) ++ [fReg 0x0600 f 0, fReg 0x0600 f 1, fReg 0x0600 f 2, fReg 0x0400 f 4, fReg 0x0D00 f 1]

/-- The abort and the reset of a queue touch no system register where nothing is launched and nothing is parked (R351). -/
theorem queueReset_idle {s : State} (hl : s.launches = []) (hp : s.parked = []) (f q : Nat) :
    let t := (s.abortQueue f q).queueReset f q
    t.sysregs = s.sysregs ∧ t.launches = [] ∧ t.parked = [] := by
  simp [State.abortQueue, State.queueReset, State.setBar, hl, hp]

theorem flr_queues_sysregs {s : State} (hl : s.launches = []) (hp : s.parked = []) (f : Nat) (qs : List Nat) :
    (qs.foldl (fun s q => (s.abortQueue f q).queueReset f q) s).sysregs = s.sysregs := by
  induction qs generalizing s with
  | nil => rfl
  | cons q qs ih =>
    obtain ⟨hregs, hl', hp'⟩ := queueReset_idle hl hp f q
    rw [List.foldl_cons, ih hl' hp', hregs]

theorem sysregs_foldl_setSys (g : Nat → Nat) (ns : List Nat) (s : State) :
    (ns.foldl (fun s n => s.setSys (g n) 0) s).sysregs = ns.foldl (fun t n => Tab.set sysReset t (g n) 0) s.sysregs :=
  (List.foldl_hom State.sysregs fun _ _ => rfl).symm

/-- With nothing launched and nothing parked, a function-level reset does nothing else to the table of system registers. -/
theorem flr_sysregs {s : State} (hl : s.launches = []) (hp : s.parked = []) (f : Nat) :
    (s.flr f).sysregs = (flrRegs f).foldl (fun t n => Tab.set sysReset t n 0) s.sysregs := by
  simp only [State.flr, State.setSys_sysregs, sysregs_foldl_setSys, flr_queues_sysregs hl hp, flrRegs, List.foldl_append, List.foldl_map,
    List.foldl_cons, List.foldl_nil]

/-- VDN entry 0 of function 0 stands twice in the table of system registers, which has then no canonical form. -/
def vdnTwice : State := { State.reset with sysregs := [(0x1000, 1), (0x1000, 1)] }

/-- A write of the reset value takes out the first of the two entries, and the register reads as the second. -/
theorem sys_flr_vdnTwice : (vdnTwice.flr 0).sys 0x1000 = 1 := by
  have hregs : (vdnTwice.flr 0).sysregs = [(0x1000, 1)] := (flr_sysregs rfl rfl 0).trans (by decide)
  rw [State.sys, hregs]
  rfl

end Sys2Proof.Machine

open Sys2Proof.Machine in
/-- Refutes O53: its clause on the function-level reset (R351) asks nothing of the state, and the reset leaves a VDN entry where the table of system
registers lists that entry twice. -/
theorem not_queuesAndBlocks : ¬ Obligations.QueuesAndBlocks := by
  unfold Obligations.QueuesAndBlocks
  intro h
  obtain ⟨hqueues, -⟩ := h
  obtain ⟨-, -, -, -, -, -, -, t, ht, -, -, -, -, -, hvdn⟩ := hqueues vdnTwice 0 0 0 0 (by decide)
  have hflr : vdnTwice.flr 0 = t := Host.Outcome.next.inj ht
  have hzero : t.sys 0x1000 = 0 := hvdn (by decide) 0 (by decide)
  rw [← hflr, sys_flr_vdnTwice] at hzero
  exact absurd hzero (by decide)

end

/-! # Power-on, attestation and keys (R366, R367, R424, R441 to R443) -/

section

namespace Sys2Proof.Machine

/-! Measurement registers. -/

theorem measurement_extend {s : State} (hwf : (s.measure.wf fun _ => 0) = true) (i k : Nat) (h : BitVec 384) : (s.extend i h).measurement k =
    if k = i then Config.sha384 (digestBytes (s.measurement i) ++ digestBytes h) else s.measurement k :=
  get_set _ i k _ hwf

theorem extend_measure_wf {s : State} (hwf : (s.measure.wf fun _ => 0) = true) (i : Nat) (h : BitVec 384) :
    ((s.extend i h).measure.wf fun _ => 0) = true :=
  wf_set _ i _ hwf

theorem measurementExtend_extends {s : State} {r : Nat} (hlo : 4 ≤ r) (hhi : r < 16) (h : BitVec 384) :
    exec (.measurementExtend r h) s = .next (s.extend r h) :=
  congrArg Host.Outcome.next (if_pos (by simp [hlo, hhi]))

theorem measurementExtend_ignored {s : State} {r : Nat} (hr : r < 4 ∨ 16 ≤ r) (h : BitVec 384) : exec (.measurementExtend r h) s = .next s :=
  congrArg Host.Outcome.next (if_neg (by simp; omega))

/-! Measured boot (R441). -/

/-- The checks of the stage that register `i` measures: its signature, and a version not below the anti-rollback count. -/
def BootStage.Passes (i : Nat) (x : BootStage) : Prop :=
  Config.ecdsaOk (Config.sha384 x.image) x.sig = true ∧ Config.rollbackCount i ≤ x.version

theorem bootStages_cons_of_passes {i : Nat} {x : BootStage} (h : BootStage.Passes i x) (s : State) (r : List BootStage) :
    s.bootStages i (x :: r) = (s.extend i (Config.sha384 x.image)).bootStages (i + 1) r :=
  if_pos (by simpa [BootStage.Passes] using h)

theorem bootStages_cons_of_not_passes {i : Nat} {x : BootStage} (h : ¬ BootStage.Passes i x) (s : State) (r : List BootStage) :
    s.bootStages i (x :: r) = { s with recovery := true } :=
  if_neg (by simpa [BootStage.Passes] using h)

/-- The stages change the measurement registers and the recovery mark alone. -/
theorem bootStages_frame (s : State) (i : Nat) (l : List BootStage) : ∃ m b, s.bootStages i l = { s with measure := m, recovery := b } := by
  induction l generalizing s i with
  | nil => exact ⟨s.measure, s.recovery, rfl⟩
  | cons x r ih =>
    by_cases h : BootStage.Passes i x
    · obtain ⟨m, b, hr⟩ := ih (s.extend i (Config.sha384 x.image)) (i + 1)
      exact ⟨m, b, (bootStages_cons_of_passes h s r).trans hr⟩
    · exact ⟨s.measure, true, bootStages_cons_of_not_passes h s r⟩

/-- Stages from register `i` on leave the registers below it. -/
theorem measurement_bootStages_below {s : State} (hwf : (s.measure.wf fun _ => 0) = true) {i k : Nat} (hk : k < i) (l : List BootStage) :
    (s.bootStages i l).measurement k = s.measurement k := by
  induction l generalizing s i with
  | nil => rfl
  | cons x r ih =>
    by_cases h : BootStage.Passes i x
    · rw [bootStages_cons_of_passes h, ih (extend_measure_wf hwf ..) (by omega), measurement_extend hwf, if_neg (by omega)]
    · rw [bootStages_cons_of_not_passes h]
      rfl

/-- Where every stage passes, the mark stays and each stage extends its own register. -/
theorem bootStages_of_passes {s : State} (hwf : (s.measure.wf fun _ => 0) = true) {i : Nat} {l : List BootStage}
    (h : ∀ j x, l[j]? = some x → BootStage.Passes (j + i) x) : (s.bootStages i l).recovery = s.recovery ∧ ∀ j x, l[j]? = some x →
      (s.bootStages i l).measurement (j + i) = Config.sha384 (digestBytes (s.measurement (j + i)) ++ digestBytes (Config.sha384 x.image)) := by
  induction l generalizing s i with
  | nil => exact ⟨rfl, fun j x hx => absurd hx (by simp)⟩
  | cons y r ih =>
    have hy : BootStage.Passes i y := by simpa using h 0 y rfl
    have hr (j : Nat) (x : BootStage) (hx : r[j]? = some x) : BootStage.Passes (j + (i + 1)) x := by
      simpa [Nat.add_assoc, Nat.add_comm 1 i] using h (j + 1) x hx
    obtain ⟨hrec, hmeas⟩ := ih (extend_measure_wf hwf i (Config.sha384 y.image)) hr
    rw [bootStages_cons_of_passes hy]
    refine ⟨hrec, fun j x hx => ?_⟩
    cases j with
    | zero =>
      obtain rfl : y = x := by simpa using hx
      rw [Nat.zero_add, measurement_bootStages_below (extend_measure_wf hwf ..) (by omega), measurement_extend hwf, if_pos rfl]
    | succ j =>
      have hj := hmeas j x (by simpa using hx)
      rwa [measurement_extend hwf, if_neg (by omega), show j + (i + 1) = j + 1 + i by omega] at hj

/-- A stage that fails its checks leaves the machine in recovery. -/
theorem recovery_bootStages {s : State} {i j : Nat} {x : BootStage} {l : List BootStage} (hx : l[j]? = some x) (hbad : ¬ BootStage.Passes (j + i) x) :
    (s.bootStages i l).recovery = true := by
  induction l generalizing s i j with
  | nil => exact absurd hx (by simp)
  | cons y r ih =>
    by_cases hy : BootStage.Passes i y
    · rw [bootStages_cons_of_passes hy]
      cases j with
      | zero =>
        obtain rfl : y = x := by simpa using hx
        exact absurd hy (by simpa using hbad)
      | succ j =>
        have hr : r[j]? = some x := by simpa using hx
        exact ih hr (by rwa [show j + (i + 1) = j + 1 + i by omega])
    · rw [bootStages_cons_of_not_passes hy]

/-- Power-on before its first stage: the machine after reset, with what power does not clear, and the ROM measured. -/
def State.romMeasured (s : State) (img : BootImages) : State :=
  State.extend { State.reset with
    inputs := s.inputs, outbox := s.outbox, host := s.host, spdm := { State.reset.spdm with powerOns := s.spdm.powerOns + 1 } } 0 (Config.sha384 img.rom)

/-- Power-on after its stages. -/
def State.verified (s : State) (img : BootImages) : State := (s.romMeasured img).bootStages 1 (img.stages.take 3)

theorem romMeasured_measure_wf (s : State) (img : BootImages) : ((s.romMeasured img).measure.wf fun _ => 0) = true := wf_set _ 0 _ rfl

theorem measurement_romMeasured (s : State) (img : BootImages) (k : Nat) :
    (s.romMeasured img).measurement k = if k = 0 then Config.sha384 (digestBytes 0 ++ digestBytes (Config.sha384 img.rom)) else 0 :=
  measurement_extend rfl 0 k _

theorem boot_of_recovery {s : State} {img : BootImages} (h : (s.verified img).recovery = true) : s.boot img = s.verified img := if_pos h

theorem boot_of_verified {s : State} {img : BootImages} (h : (s.verified img).recovery = false) :
    s.boot img = (s.verified img).setSys 0x0DA4 (BitVec.ofNat 32 (2 ^ 31 + img.position % 64)) :=
  if_neg (ne_true_of_eq_false h)

/-- Behind the stages, power-on writes PHYS or nothing. -/
theorem boot_frame (s : State) (img : BootImages) : ∃ r, s.boot img = { s.verified img with sysregs := r } := by
  cases h : (s.verified img).recovery with
  | true => exact ⟨_, boot_of_recovery h⟩
  | false => exact ⟨_, boot_of_verified h⟩

theorem measurement_boot (s : State) (img : BootImages) (k : Nat) : (s.boot img).measurement k = (s.verified img).measurement k := by
  obtain ⟨r, hr⟩ := boot_frame s img
  rw [hr]
  rfl

theorem measurement_boot_rom (s : State) (img : BootImages) :
    (s.boot img).measurement 0 = Config.sha384 (digestBytes 0 ++ digestBytes (Config.sha384 img.rom)) := by
  rw [measurement_boot, State.verified, measurement_bootStages_below (romMeasured_measure_wf s img) Nat.one_pos, measurement_romMeasured, if_pos rfl]

/-- What power-on clears and what it keeps (R3, R8, R441). -/
theorem boot_keeps (s : State) (img : BootImages) : let t := s.boot img
    t.mem = [] ∧ t.threads = [] ∧ t.host = s.host ∧ t.outbox = s.outbox ∧ t.inputs = s.inputs ∧ t.spdm.powerOns = s.spdm.powerOns + 1 ∧
      t.spdm.secured = false := by
  obtain ⟨r, hr⟩ := boot_frame s img
  obtain ⟨m, b, hv⟩ := bootStages_frame (s.romMeasured img) 1 (img.stages.take 3)
  rw [hr, State.verified, hv]
  exact ⟨rfl, rfl, rfl, rfl, rfl, rfl, rfl⟩

theorem verified_sysregs (s : State) (img : BootImages) : (s.verified img).sysregs = State.reset.sysregs := by
  obtain ⟨m, b, hv⟩ := bootStages_frame (s.romMeasured img) 1 (img.stages.take 3)
  rw [State.verified, hv]
  rfl

/-- Where every stage passes, the machine is up and has its position (R416, R441). -/
theorem boot_of_passes {s : State} {img : BootImages} (h : ∀ j x, (img.stages.take 3)[j]? = some x → BootStage.Passes (j + 1) x) :
    (s.boot img).recovery = false ∧ (s.boot img).phys = img.position % 64 ∧ ∀ j x, (img.stages.take 3)[j]? = some x →
      (s.boot img).measurement (j + 1) = Config.sha384 (digestBytes 0 ++ digestBytes (Config.sha384 x.image)) := by
  obtain ⟨hrec, hmeas⟩ := bootStages_of_passes (romMeasured_measure_wf s img) h
  have hboot := boot_of_verified (s := s) (img := img) hrec
  refine ⟨by rw [hboot]; exact hrec, ?position, fun j x hx => ?_⟩
  case position =>
    have hsys : (s.boot img).sys 0x0DA4 = BitVec.ofNat 32 (2 ^ 31 + img.position % 64) := by
      rw [hboot, State.sys, State.setSys_sysregs, verified_sysregs]
      exact (get_set sysReset _ _ _ rfl).trans (if_pos rfl)
    rw [State.phys, hsys, BitVec.toNat_ofNat]
    omega
  · rw [measurement_boot, State.verified, hmeas j x hx, measurement_romMeasured, if_neg (by omega)]

theorem boot_of_not_passes {s : State} {img : BootImages} {j : Nat} {x : BootStage} (hx : (img.stages.take 3)[j]? = some x)
    (hbad : ¬ BootStage.Passes (j + 1) x) : (s.boot img).recovery = true ∧ (s.boot img).sysregs = State.reset.sysregs := by
  have hrec : (s.verified img).recovery = true := recovery_bootStages hx hbad
  rw [boot_of_recovery hrec]
  exact ⟨hrec, verified_sysregs s img⟩

/-! SPDM (R442). -/

theorem spdmAfter_of_true {s : State} {ok : Bool} (h : ok = true) (f : State → State) : s.spdmAfter ok f = f s := if_pos h

theorem spdmAfter_of_false {s : State} {ok : Bool} (h : ok = false) (f : State → State) : s.spdmAfter ok f = s.spdmSay 0 := if_neg (by simp [h])

/-- Index m + 1 is measurement register m. -/
theorem getMeasurements_register {s : State} (hn : s.spdm.negotiated = true) {m : Nat} (hm : m < 16) (nonce : BitVec 256) :
    exec (.getMeasurements (m + 1) nonce) s = .next (s.spdmSigned 7 nonce [(s.measurement m).toNat]) :=
  congrArg Host.Outcome.next ((spdmAfter_of_true hn _).trans (if_pos (by simp; omega)))

/-- Index 0x40 + o is a meter snapshot of owner o, which counts itself. -/
theorem getMeasurements_meters {s : State} (hn : s.spdm.negotiated = true) {o : Nat} (ho : o ≤ 8) (nonce : BitVec 256) :
    let t := { s with spdm := { s.spdm with snapshots := s.spdm.snapshots + 1 } }
    exec (.getMeasurements (0x40 + o) nonce) s = .next (t.spdmSigned 7 nonce (t.meterSnapshot o)) := by
  refine congrArg Host.Outcome.next ((spdmAfter_of_true hn _).trans ((if_neg ?_).trans ((if_pos ?_).trans ?_)))
  · simp; omega
  · simp; omega
  · dsimp only
    rw [Nat.add_sub_cancel_left]

theorem getMeasurements_unknown {s : State} (hn : s.spdm.negotiated = true) {idx : Nat} (h : idx = 0 ∨ (16 < idx ∧ idx < 0x40) ∨ 0x48 < idx)
    (nonce : BitVec 256) : exec (.getMeasurements idx nonce) s = .next (s.spdmSay 0) := by
  refine congrArg Host.Outcome.next ((spdmAfter_of_true hn _).trans ((if_neg ?_).trans (if_neg ?_)))
  · simp; omega
  · simp; omega

/-! Key handles (R366, R367, R442). -/

/-- A tag that is free is one of the 4,095, and no handle has it. -/
theorem freeTag_spec {s : State} {t : Nat} (h : s.freeTag = some t) : 0 < t ∧ t < 4096 ∧ ∀ e ∈ s.handles, e.2.tag ≠ t := by
  obtain ⟨i, hi, rfl⟩ := List.mem_map.mp (List.mem_of_find?_eq_some h)
  have hfree := List.find?_some h
  refine ⟨by omega, by have := List.mem_range.mp hi; omega, fun e he htag => ?_⟩
  simp only [Bool.not_eq_true', List.any_eq_false, beq_iff_eq] at hfree
  exact hfree e he htag

theorem keyInstall_new {s : State} (hs : s.spdm.secured = true) {h tag : Nat} (hlo : 0 < h) (hhi : h < 2 ^ 24) (hnone : s.handle? h = none)
    (htag : s.freeTag = some tag) (gen : Nat) : exec (.keyInstall h gen) s = .next { s with
      handles := s.handles ++ [(h, { gen := BitVec.ofNat 8 gen, tag, wrapped := Config.keyMaterial h (BitVec.ofNat 8 gen) })] } := by
  refine congrArg Host.Outcome.next ((if_neg ?_).trans ?_)
  · simp [hs, hnone]
    omega
  · rw [htag]

theorem keyInstall_installed {s : State} {h : Nat} {k : KeyHandle} (hk : s.handle? h = some k) (gen : Nat) :
    exec (.keyInstall h gen) s = .next s :=
  congrArg Host.Outcome.next (if_pos (by simp [hk]))

/-- Whether an owner command in progress gives a page a tag (R366). -/
def State.givesTag (s : State) (tag : Nat) : Prop := ∃ x ∈ s.shoots, x.1 = 10 ∧ x.2.2.1.guest = false ∧ x.2.2.1.asid = tag

/-- A handle stays outside a secured session, while a page is owned by its tag, and while an owner command gives its tag. -/
theorem keyRemove_refused {s : State} {h : Nat} {k : KeyHandle} (hk : s.handle? h = some k)
    (hstay : s.spdm.secured = false ∨ (∃ e ∈ s.owners, e.2 = k.tag) ∨ s.givesTag k.tag) : exec (.keyRemove h) s = .next s := by
  show execKeyRemove h s = _
  rw [execKeyRemove, hk]
  refine congrArg Host.Outcome.next (if_pos ?_)
  simpa [State.givesTag, or_assoc, and_assoc] using hstay

theorem keyRemove_absent {s : State} {h : Nat} (hk : s.handle? h = none) : exec (.keyRemove h) s = .next s := by
  show execKeyRemove h s = _
  rw [execKeyRemove, hk]

/-- A state without a handle, and without the key slots that stand for it and are not pinned. -/
def State.dropHandle (s : State) (h : Nat) : State := { s with
  handles := s.handles.filter (fun e => e.1 != h), keySlots := s.keySlots.filter fun (e : Nat × KeySlot) => e.2.handle != h || e.2.pins != 0 }

theorem keyRemove_removes {s : State} (hs : s.spdm.secured = true) {h : Nat} {k : KeyHandle} (hk : s.handle? h = some k)
    (howned : ∀ e ∈ s.owners, e.2 ≠ k.tag) (hgiven : ¬ s.givesTag k.tag) : exec (.keyRemove h) s = .next (s.dropHandle h) := by
  show execKeyRemove h s = _
  rw [execKeyRemove, hk]
  refine congrArg Host.Outcome.next (if_neg fun hstay => ?_)
  obtain hopen | ⟨e, he, htag⟩ | hgives : s.spdm.secured = false ∨ (∃ e ∈ s.owners, e.2 = k.tag) ∨ s.givesTag k.tag := by
    simpa [State.givesTag, or_assoc, and_assoc] using hstay
  · exact absurd hs (ne_true_of_eq_false hopen)
  · exact howned e he htag
  · exact hgiven hgives

theorem handle?_dropHandle_same (s : State) (h : Nat) : (s.dropHandle h).handle? h = none := by
  simp [State.handle?, State.dropHandle, List.find?_filter]

theorem handle?_dropHandle_other (s : State) {h j : Nat} (hj : j ≠ h) : (s.dropHandle h).handle? j = s.handle? j := by
  have hkey : (fun e : Nat × KeyHandle => decide ((e.1 != h) = true ∧ (e.1 == j) = true)) = fun e => e.1 == j := by
    funext e
    by_cases he : e.1 = j <;> simp [he, hj]
  rw [State.handle?, State.dropHandle, List.find?_filter, hkey, State.handle?]

/-- Handles that are changed in place are found where they were. -/
theorem handle?_of_map {s t : State} {g : Nat × KeyHandle → Nat × KeyHandle} (ht : t.handles = s.handles.map g) (hg : ∀ e, (g e).1 = e.1) (j : Nat) :
    t.handle? j = (s.handle? j).map fun k => (g (j, k)).2 := by
  have hkey : (fun e : Nat × KeyHandle => e.1 == j) ∘ g = fun e => e.1 == j := funext fun e => congrArg (· == j) (hg e)
  rw [State.handle?, State.handle?, ht, List.find?_map, hkey]
  cases hfind : s.handles.find? fun e => e.1 == j with
  | none => rfl
  | some e =>
    have hj : e.1 = j := by simpa using List.find?_some hfind
    simp [← hj]

/-- The next generation of a handle (R367). -/
def KeyHandle.rotated (k : KeyHandle) (h : Nat) : KeyHandle := { k with gen := k.gen + 1, wrapped := Config.keyMaterial h (k.gen + 1) }

theorem keyRotate_rotates {s : State} (hs : s.spdm.secured = true) (h : Nat) : ∃ t, exec (.keyRotate h) s = .next t ∧
    (∀ j, t.handle? j = (s.handle? j).map fun k => if j = h then k.rotated h else k) ∧ t.mem = s.mem := by
  refine ⟨_, congrArg Host.Outcome.next (if_neg (by simp [hs])), fun j => ?_, rfl⟩
  refine (handle?_of_map rfl (fun e => ?_) j).trans (congrArg (Option.map · (s.handle? j)) (funext fun k => ?_))
  · dsimp only
    split
    · exact Eq.symm ‹_›
    · rfl
  · by_cases hj : j = h <;> simp [hj, KeyHandle.rotated]

/-! Link secrets and IDE keys (R424, R443). -/

theorem linkSecretInstall_installs {s : State} (hs : s.spdm.secured = true) {f : Nat} (hf : f < 9) (secret : BitVec 256) :
    exec (.linkSecretInstall f secret) s = .next { s with linkSecrets := Tab.set (fun _ => 0) s.linkSecrets f secret.toNat } := by
  refine congrArg Host.Outcome.next ((if_pos hs).trans ?_)
  rw [Nat.mod_eq_of_lt hf]

/-- Outside a secured session no handle is installed, removed or rotated, no link secret installed and no IDE key programmed (R442). -/
theorem unsecured_ignored {s : State} (hs : s.spdm.secured = false) (h gen f : Nat) (secret : BitVec 256) :
    ∀ i ∈ [Instr.keyInstall h gen, .keyRemove h, .keyRotate h, .linkSecretInstall f secret, .ideKeyProgram true], exec i s = .next s := by
  simp only [List.forall_mem_cons, List.not_mem_nil, false_implies, implies_true, and_true]
  refine ⟨congrArg _ (if_pos (by simp [hs])), ?remove, congrArg _ (if_pos (by simp [hs])), congrArg _ (if_neg (by simp [hs])),
    congrArg _ ((if_neg (by simp)).trans (if_neg (by simp [hs])))⟩
  case remove =>
    cases hk : s.handle? h with
    | none => exact keyRemove_absent hk
    | some k => exact keyRemove_refused hk (.inl hs)

end Sys2Proof.Machine

open Sys2Proof.Machine in
/-- Settles O57: the stages of a boot by induction on their list, with a register of its own for each; an SPDM request by its place in the protocol; a
handle by its first entry. -/
theorem bootAndTrust : Obligations.BootAndTrust := by
  unfold Obligations.BootAndTrust
  refine ⟨fun s img => ?boot, fun s r h hwf => ⟨fun hlo hhi => ?extend, fun hr => measurementExtend_ignored hr h⟩, fun s nonce idx => ?spdm,
    fun s h gen f secret hwf => ⟨fun hs => unsecured_ignored hs h gen f secret, fun hs => ?secured, rfl⟩, fun s t => freeTag_spec⟩
  case boot =>
    obtain ⟨hmem, hthreads, hhost, hout, hin, hon, hsec⟩ := boot_keeps s img
    exact ⟨s.boot img, rfl, hmem, hthreads, hhost, hout, hin, hon, hsec, measurement_boot_rom s img, boot_of_passes,
      fun ⟨_, _, hx, hbad⟩ => boot_of_not_passes hx hbad⟩
  case extend =>
    exact ⟨s.extend r h, measurementExtend_extends hlo hhi h, (measurement_extend hwf r r h).trans (if_pos rfl),
      fun k hk => (measurement_extend hwf r k h).trans (if_neg hk), rfl⟩
  case spdm =>
    refine ⟨rfl, rfl, rfl, fun hn => ?negotiated, fun he => congrArg _ (spdmAfter_of_true he _), fun hs => congrArg _ (spdmAfter_of_true hs _),
      fun hn => ?early, fun he => congrArg _ (spdmAfter_of_false he _), fun hs => congrArg _ (spdmAfter_of_false hs _)⟩
    case negotiated =>
      exact ⟨congrArg _ (spdmAfter_of_true hn _), congrArg _ (spdmAfter_of_true hn _), congrArg _ (spdmAfter_of_true hn _),
        fun m hm => getMeasurements_register hn hm nonce, fun o ho => getMeasurements_meters hn ho nonce,
        fun hidx => getMeasurements_unknown hn hidx nonce, congrArg _ (spdmAfter_of_true hn _)⟩
    case early =>
      simp only [List.forall_mem_cons, List.not_mem_nil, false_implies, implies_true, and_true]
      exact ⟨congrArg _ (spdmAfter_of_false hn _), congrArg _ (spdmAfter_of_false hn _), congrArg _ (spdmAfter_of_false hn _),
        congrArg _ (spdmAfter_of_false hn _), congrArg _ (spdmAfter_of_false hn _)⟩
  case secured =>
    refine ⟨fun tag hlo hhi hnone htag => keyInstall_new hs hlo hhi hnone htag gen, fun k hk => keyInstall_installed hk gen,
      fun k hk howned => keyRemove_refused hk (.inr (.inl howned)), fun k hk hgiven => keyRemove_refused hk (.inr (.inr hgiven)),
      fun k hk howned hgiven => ?remove, fun k hk => ?rotate, fun hf => ?linkSecret, congrArg _ ((if_neg (by simp)).trans (if_pos hs))⟩
    case remove =>
      have hnot : ¬ s.givesTag k.tag := fun ⟨x, hx, hgives⟩ => hgiven x hx hgives
      exact ⟨_, keyRemove_removes hs hk howned hnot, handle?_dropHandle_same s h, fun j => handle?_dropHandle_other s, rfl⟩
    case rotate =>
      obtain ⟨t, ht, hhandle, hmem⟩ := keyRotate_rotates hs h
      exact ⟨t, ht, by rw [hhandle, hk]; simp [KeyHandle.rotated], fun j hj => by rw [hhandle]; simp [hj], hmem⟩
    case linkSecret =>
      exact ⟨_, linkSecretInstall_installs hs hf secret, (get_set _ f f _ hwf).trans (if_pos rfl),
        fun j hj => (get_set _ f j _ hwf).trans (if_neg hj), rfl⟩

end

/-! # Partitions: RESUME of a function whose session is listed twice (R392, R407, R410) -/

section

namespace Sys2Proof.Machine

/-- A packet that waits for function 0, from the peer that its VDN entry 0 names. -/
def waitingPacket : Packet := {
  srcDev := 1, dstDev := 0, srcFun := 0, dstFun := 0, svdn := 0, dvdn := 0, handle := 0, phase := false, ctr := 0, flits := [], good := true,
  body := .token 0 0 0 0 }

/-- Function 0 is QUIESCING with one valid VDN entry, and the table of sessions, which has then no canonical form, lists it twice: a session that is frozen
and otherwise at rest stands before one that holds a packet. -/
def sessionTwice : State := { State.reset with
  sysregs := [(0x0901, 0x40000000), (0x1000, 1)],
  sessions := [(0, { Session.reset with frozen := some 0 }), (0, { Session.reset with inbuf := [waitingPacket] })] }

/-- The session that is read first holds no packet. -/
theorem inbuf_sessionTwice : (sessionTwice.session 0).inbuf = [] := rfl

/-- The thaw puts the first session to rest, which takes its entry out of the table. -/
theorem session_thaw_sessionTwice : (sessionTwice.thaw 0).session 0 = { Session.reset with inbuf := [waitingPacket] } := by decide

/-- RESUME then takes in the packet of the session behind it. -/
theorem accepted_vfResume_sessionTwice : (sessionTwice.vfResume 0).accepted = [(waitingPacket, RxSlot.none)] := by decide

end Sys2Proof.Machine

open Sys2Proof.Machine in
/-- Refutes O55: its clause on RESUME asks nothing of the table of sessions, and the thaw uncovers the second of two entries of one function, whose packet
RESUME accepts though the function's session held none. -/
theorem not_partitions : ¬ Obligations.Partitions := by
  unfold Obligations.Partitions
  intro h
  obtain ⟨-, -, hcommands, -⟩ := h
  obtain ⟨-, -, -, -, -, -, -, -, -, hresume, -⟩ := hcommands sessionTwice 0 (by decide)
  obtain ⟨t, ht, -, -, -, haccepted, -⟩ := hresume (.inl (by decide)) (by decide) (by decide)
  have hvf : sessionTwice.vfResume 0 = t := Host.Outcome.next.inj ht
  rw [← hvf, accepted_vfResume_sessionTwice, inbuf_sessionTwice] at haccepted
  exact absurd haccepted (by decide)

end

/-! # Taking a trap: a block that names itself as its twin (R315, R370, R371) -/

section

namespace Sys2Proof.Machine

/-- Block 1 leads a pair whose trailing block it names itself. Its group has asked for a lock, for which its one thread waits, and in that thread's own
load-value queue the lock's result is still to come. -/
def ownTwin : State :=
  let s := State.reset.withFetchWord 32 0
  { s with
    launches := s.launches.map fun l => { l with record := { l.record with handler := 64 } },
    blocks := s.blocks.map fun b => { b with role := .lead },
    groups := s.groups.map fun g => { g with
      req := some { id := 1, va := 0, tgt := .loc 0, tri := false, cls := 0, pred := 0, queued := true, members := [0] } },
    threads := s.threads.map fun t => { t with
      wait := .lock, lvq := [{ id := 1, kind := (0, 0), filled := false, vals := [], pred := false, trap := none, arrived := false }] } }

/-- The one thread of `ownTwin`. -/
def ownTwinKey : ThreadKey := { bid := 1, tid := 0 }

/-- As the thread leaves the lock's queue its block's trailing twin waits for no result, so the entry goes out of the thread's own queue. -/
theorem lvq_takeTrap_ownTwin : ((ownTwin.takeTrap ownTwinKey 0 0 { cause := 1, addr := 0, aux := 0 }).thread? ownTwinKey).map Thread.lvq = some [] := by
  decide

theorem lvq_ownTwin : (ownTwin.thread? ownTwinKey).map (fun t => t.lvq.length) = some 1 := by decide

end Sys2Proof.Machine

open Sys2Proof.Machine in
/-- Refutes O47: it asks nothing of the block, and where a leading block names itself as its twin, the trap takes an entry out of the trapping thread's
load-value queue. -/
theorem not_trapEntry : ¬ Obligations.TrapEntry := by
  unfold Obligations.TrapEntry
  intro h
  obtain ⟨t, ht⟩ : ∃ t, ownTwin.thread? ownTwinKey = some t := Option.isSome_iff_exists.1 (by decide)
  obtain ⟨l, hl⟩ : ∃ l, ownTwin.launchOf 1 = some l := Option.isSome_iff_exists.1 (by decide)
  have hin : t.inHandler = false := Option.some.inj ((congrArg (Option.map Thread.inHandler) ht).symm.trans (by decide))
  have hhandler : l.record.handler = 64 := Option.some.inj ((congrArg (Option.map fun l : Launch => l.record.handler) hl).symm.trans (by decide))
  obtain ⟨-, u, hu, rfl, -, -⟩ := h ownTwin ownTwinKey t l 0 0 { cause := 1, addr := 0, aux := 0 } ht hl hin (by rw [hhandler]; decide)
  have hbefore : t.lvq.length = 1 := Option.some.inj ((congrArg (Option.map fun t : Thread => t.lvq.length) ht).symm.trans lvq_ownTwin)
  have hafter : t.lvq = [] := Option.some.inj ((congrArg (Option.map Thread.lvq) hu).symm.trans lvq_takeTrap_ownTwin)
  rw [hafter] at hbefore
  exact absurd hbefore (by decide)

end

/-! # What sending a packet leaves as it was (R405, R418, R421) -/

section

namespace Sys2Proof.Machine

/-- `t` is `s` but for packets on their way, what waits for a credit, the link counters and the meters. -/
def State.Sent (s t : State) : Prop := t = { s with
  arriving := t.arriving, txq := t.txq, outbox := t.outbox, links := t.links, meters := t.meters, credits := t.credits, ctrlWait := t.ctrlWait }

namespace State.Sent

variable {s t u : State}

theorem refl (s : State) : s.Sent s := rfl

theorem trans (h : s.Sent t) (k : t.Sent u) : s.Sent u := by
  unfold State.Sent at *
  rw [k, h]

theorem foldl {f : State → α → State} (h : ∀ (s : State) x, s.Sent (f s x)) (l : List α) (s : State) : s.Sent (l.foldl f s) := by
  induction l generalizing s with
  | nil => exact refl s
  | cons x r ih => exact (h s x).trans (ih (f s x))

theorem mem (h : s.Sent t) : t.mem = s.mem := by rw [h]
theorem sysregs (h : s.Sent t) : t.sysregs = s.sysregs := by rw [h]
theorem sessions (h : s.Sent t) : t.sessions = s.sessions := by rw [h]
theorem images (h : s.Sent t) : t.images = s.images := by rw [h]
theorem clk (h : s.Sent t) : t.clk = s.clk := by rw [h]

end State.Sent

theorem fabricBytes_sent (s : State) (f m n : Nat) : s.Sent (s.fabricBytes f m n) := by
  unfold State.fabricBytes
  dsimp only
  split <;> rfl

theorem seal_sent (s : State) (p : Packet) : s.Sent (s.seal p).1 := by
  unfold State.seal
  dsimp only
  split
  · exact fabricBytes_sent ..
  · exact (fabricBytes_sent ..).trans rfl

theorem emit_sent (s : State) (p : Packet) : s.Sent (s.emit p) := by
  unfold State.emit
  split
  · exact (seal_sent s p).trans rfl
  · split <;> rfl

theorem toPeer_sent (s : State) (f : Nat) (b : Body) : s.Sent (s.toPeer f b) := emit_sent ..

theorem send_sent (s : State) (o : Out) : s.Sent (s.send o) := rfl

theorem ctrlTo_sent (s : State) (f dev fun_ : Nat) (b : Body) : s.Sent (s.ctrlTo f dev fun_ b) := by
  unfold State.ctrlTo State.sendCtrl
  dsimp only
  split
  · exact State.Sent.trans (t := { s with credits := _ }) rfl (emit_sent ..)
  · rfl

end Sys2Proof.Machine

end

/-! # The registers and the record of a migration session (R391, R400) -/

section

namespace Sys2Proof.Machine

/-! What reads the system registers alone is the same where they are. -/

section

variable {s t : State}

theorem migState_congr (h : t.sysregs = s.sysregs) (f : Nat) : t.migState f = s.migState f := by
  unfold State.migState State.mreg State.sys
  rw [h]

theorem vfState_congr (h : t.sysregs = s.sysregs) (f : Nat) : t.vfState f = s.vfState f := by
  unfold State.vfState State.sys
  rw [h]

theorem session_congr (h : t.sessions = s.sessions) (f : Nat) : t.session f = s.session f := by
  unfold State.session
  rw [h]

end

theorem session_setSession_same {s : State} (h : (s.sessions.wf fun _ => Session.reset) = true) (f : Nat) (x : Session) :
    (s.setSession f x).session f = x :=
  (get_set _ f f x h).trans (if_pos rfl)

theorem session_updSession {s : State} (h : (s.sessions.wf fun _ => Session.reset) = true) (f : Nat) (g : Session → Session) :
    (s.updSession f g).session f = g (s.session f) :=
  session_setSession_same h f _

theorem sessionsWf_setSession {s : State} (h : (s.sessions.wf fun _ => Session.reset) = true) (f : Nat) (x : Session) :
    ((s.setSession f x).sessions.wf fun _ => Session.reset) = true :=
  wf_set _ f x h

theorem migState_lt (s : State) (f : Nat) : s.migState f < 16 := bits_lt _ 27 24

theorem vfState_lt (s : State) (f : Nat) : s.vfState f < 16 := bits_lt _ 31 28

theorem ofBool_lt (b : Bool) : ofBool b < 2 := by cases b <;> decide

section

variable {s : State} {f st code moving : Nat} {sw : Bool}

theorem mreg_setMig_same (h : s.sysregs.wf sysReset = true) (hst : st < 16) (hcode : code < 16) :
    (s.setMig f st code sw).mreg f 4 = st * 2 ^ 24 + code * 2 ^ 20 + ofBool sw * 2 ^ 19 := by
  have hsw := ofBool_lt sw
  have hword : (s.setMig f st code sw).sys (fReg 0x0A00 f 4) = BitVec.ofNat 32 (st * 2 ^ 24 + code * 2 ^ 20 + ofBool sw * 2 ^ 19) :=
    sys_setSys_same h ..
  rw [State.mreg, hword, BitVec.toNat_ofNat, Nat.mod_eq_of_lt (by omega)]

theorem migState_setMig (h : s.sysregs.wf sysReset = true) (hst : st < 16) (hcode : code < 16) : (s.setMig f st code sw).migState f = st := by
  have hsw := ofBool_lt sw
  rw [State.migState, mreg_setMig_same h hst hcode]
  unfold Sys2Proof.bits
  omega

theorem migCode_setMig (h : s.sysregs.wf sysReset = true) (hst : st < 16) (hcode : code < 16) :
    bits ((s.setMig f st code sw).mreg f 4) 23 20 = code := by
  have hsw := ofBool_lt sw
  rw [mreg_setMig_same h hst hcode]
  unfold Sys2Proof.bits
  omega

theorem swDone_setMig (h : s.sysregs.wf sysReset = true) (hst : st < 16) (hcode : code < 16) : (s.setMig f st code sw).swDone f = sw := by
  rw [State.swDone, mreg_setMig_same h hst hcode]
  unfold bit
  cases sw
  · rw [beq_eq_false_iff_ne, ofBool]; simp only [Bool.false_eq_true, if_false]; omega
  · rw [beq_iff_eq, ofBool]; simp only [if_true]; omega

theorem sys_setMig_other (h : s.sysregs.wf sysReset = true) {k : Nat} (hk : k ≠ fReg 0x0A00 f 4) : (s.setMig f st code sw).sys k = s.sys k :=
  sys_setSys_other h _ hk

theorem mreg_setMig_other (h : s.sysregs.wf sysReset = true) {n : Nat} (hn : n ≠ 4) : (s.setMig f st code sw).mreg f n = s.mreg f n :=
  congrArg BitVec.toNat (sys_setMig_other h (by unfold fReg; omega))

theorem ckEn_setMig (h : s.sysregs.wf sysReset = true) : (s.setMig f st code sw).ckEn f = s.ckEn f :=
  congrArg (bit · 0) (mreg_setMig_other h (by decide))

theorem vfState_setMig (h : s.sysregs.wf sysReset = true) : (s.setMig f st code sw).vfState f = s.vfState f :=
  congrArg (fun w : Word => bits w.toNat 31 28) (sys_setMig_other (k := fReg 0x0900 f 1) h (by unfold fReg; omega))

theorem sys_setVf_other (h : s.sysregs.wf sysReset = true) {k : Nat} (hk : k ≠ fReg 0x0900 f 1) : (s.setVf f st moving code).sys k = s.sys k :=
  sys_setSys_other h _ hk

theorem mreg_setVf (h : s.sysregs.wf sysReset = true) (n : Nat) (hn : n < 16) : (s.setVf f st moving code).mreg f n = s.mreg f n :=
  congrArg BitVec.toNat (sys_setVf_other h (by unfold fReg; omega))

theorem vfState_setVf (h : s.sysregs.wf sysReset = true) (hst : st < 16) (hm : moving < 2) (hcode : code < 8) :
    (s.setVf f st moving code).vfState f = st := by
  have hword : (s.setVf f st moving code).sys (fReg 0x0900 f 1) = BitVec.ofNat 32 (st * 2 ^ 28 + moving * 2 ^ 27 + code * 2 ^ 24) :=
    sys_setSys_same h ..
  rw [State.vfState, hword, BitVec.toNat_ofNat, Nat.mod_eq_of_lt (by omega)]
  unfold Sys2Proof.bits
  omega

end

end Sys2Proof.Machine

end

/-! # The commands of a migration session (R401, R402, R407, R409, R413, R435) -/

section

namespace Sys2Proof.Machine

/-- A command or an event of one of the eight virtual functions is its function's operation. -/
theorem next_of_lt {s t : State} {f : Nat} (g : State → Nat → State) (hf : f < 8) (h : g s f = t) :
    (Host.Outcome.next (g s (f % 8)) : Res) = .next t := by
  rw [Nat.mod_eq_of_lt hf, h]

/-! A session that fails (R404, R413). -/

section

variable {s : State} {f code : Nat}

theorem ckEn_migFail (h : s.sysregs.wf sysReset = true) : (s.migFail f code).ckEn f = s.ckEn f :=
  ckEn_setMig (s := s.updSession f Session.rest) h

theorem migState_migFail (h : s.sysregs.wf sysReset = true) (hcode : code < 16) : (s.migFail f code).migState f = 6 :=
  migState_setMig (s := s.updSession f Session.rest) h (by decide) hcode

theorem migFailBoth_of_ckEn (h : s.sysregs.wf sysReset = true) (hck : s.ckEn f = true) : s.migFailBoth f code = s.migFail f code :=
  if_pos ((ckEn_migFail h).trans hck)

theorem migFailBoth_sent (s : State) (f code : Nat) : (s.migFail f code).Sent (s.migFailBoth f code) := by
  unfold State.migFailBoth
  dsimp only
  split
  · exact .refl _
  · exact toPeer_sent ..

theorem migState_migFailBoth (h : s.sysregs.wf sysReset = true) (hcode : code < 16) : (s.migFailBoth f code).migState f = 6 :=
  (migState_congr (migFailBoth_sent ..).sysregs f).trans (migState_migFail h hcode)

theorem migFailBoth_mem (s : State) (f code : Nat) : (s.migFailBoth f code).mem = s.mem := (migFailBoth_sent ..).mem

theorem migFailBoth_sessionsWf (h : (s.sessions.wf fun _ => Session.reset) = true) :
    ((s.migFailBoth f code).sessions.wf fun _ => Session.reset) = true := by
  rw [(migFailBoth_sent ..).sessions]
  exact sessionsWf_setSession h f _

end

section

variable {s : State} {f : Nat}

/-! TRACK, COPY, ACCEPT and RESTORE. -/

theorem migTrack_misplaced (h : s.migState f ≠ 0 ∨ s.vfState f ≠ 3 ∨ s.badPeer f = true) : s.migTrack f = s.migStatus f 1 :=
  if_pos (by simpa [or_assoc] using h.elim .inl fun h => .inr (h.elim .inl fun h => .inr (.inl h)))

theorem foldl_store {α : Type} (a : α → Nat) (bs : α → List Byte) (l : List α) (s : State) :
    l.foldl (fun s d => { s with mem := s.mem.store (a d) (bs d) }) s = { s with mem := l.foldl (fun m d => m.store (a d) (bs d)) s.mem } := by
  induction l generalizing s with
  | nil => rfl
  | cons d r ih => exact ih _

theorem migTrack_tracks (hm : s.migState f = 0) (hv : s.vfState f = 3) (hp : s.badPeer f = false) (hok : s.trackOk f = true) :
    s.migTrack f = (State.setSession { s with
        mem := (s.trackDescs f).foldl (fun m d => m.store d.bitmap (List.replicate (512 * d.units) 0xFF)) s.mem }
      f { Session.reset with tracking := true }).setMig f 1 0 false := by
  refine (if_neg (by simp [hm, hv, hp, hok])).trans ?_
  dsimp only
  rw [foldl_store TrackDesc.bitmap fun d => List.replicate (512 * d.units) 0xFF]

theorem migCopy_misplaced (h : s.migState f ≠ 1 ∨ s.badPeer f = true) : s.migCopy f = s.migStatus f 1 := if_pos (by simpa using h)

theorem migCopy_copies (hm : s.migState f = 1) (hp : s.badPeer f = false) : s.migCopy f =
    (s.updSession f fun x => { x with desc := 0, word := 0, pass := [], r := 0, resends := 0 }).setMig f 2 0 false :=
  if_neg (by simp [hm, hp])

theorem migAccept_misplaced (h : s.migState f ≠ 0 ∨ s.vfState f ≠ 2 ∨ s.badPeer f = true) : s.migAccept f = s.migStatus f 1 :=
  if_pos (by simpa [or_assoc] using h)

theorem migAccept_accepts (hm : s.migState f = 0) (hv : s.vfState f = 2) (hp : s.badPeer f = false) :
    s.migAccept f = (s.setSession f { Session.reset with epoch := 255 }).setMig f 8 0 false :=
  if_neg (by simp [hm, hv, hp])

theorem migRestore_misplaced (h : s.migState f ≠ 0 ∨ s.vfState f ≠ 2 ∨ s.ckEn f = false) : s.migRestore f = s.migStatus f 1 :=
  if_pos (by simpa [or_assoc] using h)

theorem migRestore_restores (hm : s.migState f = 0) (hv : s.vfState f = 2) (hck : s.ckEn f = true) : s.migRestore f =
    { s.setMig f 9 0 false with mem := s.mem.store (s.saveArea f).1 (s.host.bytes (s.hostBase f + 2 ^ 46) (s.saveArea f).2) } :=
  if_neg (by simp [hm, hv, hck])

/-! ABORT, here and from the other end. -/

theorem migAbort_asks (h : s.migState f = 4 ∨ (s.migState f = 3 ∧ (s.session f).image = none ∧ s.ckEn f = false)) :
    s.migAbort f = s.toPeer f (.abort (s.mtag f) 7) :=
  if_pos (by simpa [and_assoc] using h)

theorem migAbort_fails (h : s.migState f = 1 ∨ s.migState f = 2 ∨ (s.migState f = 3 ∧ ((s.session f).image ≠ none ∨ s.ckEn f = true))) :
    s.migAbort f = s.migFailBoth f 7 := by
  refine (if_neg ?_).trans (if_pos ?_)
  · rcases h with hm | hm | ⟨hm, hi | hck⟩ <;> simp [*]
  · rcases h with hm | hm | ⟨hm, -⟩ <;> simp [hm]

theorem migAbort_discards (h : s.migState f = 8 ∨ (s.migState f = 9 ∧ (s.session f).switched = false)) :
    s.migAbort f = (s.migFailBoth f 7).updSession f fun x => { x with inbuf := [] } := by
  refine (if_neg ?_).trans ((if_neg ?_).trans (if_pos ?_)) <;> rcases h with hm | ⟨hm, hs⟩ <;> simp [*]

theorem migAbort_misplaced (h : s.migState f ∈ [0, 5, 6, 7, 10] ∨ (s.migState f = 9 ∧ (s.session f).switched = true)) :
    s.migAbort f = s.migStatus f 1 := by
  have h9 : s.migState f = 9 → (s.session f).switched = true := fun hm => h.elim (fun h => by simp [hm] at h) And.right
  simp only [List.mem_cons, List.not_mem_nil, or_false] at h
  have hm : s.migState f ≠ 1 ∧ s.migState f ≠ 2 ∧ s.migState f ≠ 3 ∧ s.migState f ≠ 4 ∧ s.migState f ≠ 8 := by omega
  obtain ⟨h1, h2, h3, h4, h8⟩ := hm
  exact (if_neg (by simp [h3, h4])).trans ((if_neg (by simp [h1, h2, h3])).trans (if_neg (by simpa [h8] using h9)))

theorem abortArrive_ignored {d code : Nat} (h : d ≠ s.pdev f ∨ s.migState f = 0 ∨ s.ckEn f = true) : s.abortArrive f d code = s :=
  if_pos (by simpa [or_assoc] using h)

section

variable {code : Nat} (hck : s.ckEn f = false) (hcode : code ≠ 1)
include hck hcode

theorem abortArrive_late (h : s.migState f = 10 ∨ (s.migState f = 9 ∧ (s.session f).switched = true)) :
    s.abortArrive f (s.pdev f) code = s.toPeer f (.abort (s.mtag f) 1) := by
  refine (if_neg ?_).trans ((if_neg hcode).trans (if_pos ?_)) <;> rcases h with hm | ⟨hm, hs⟩ <;> simp [*]

theorem abortArrive_discards (h : s.migState f = 8 ∨ (s.migState f = 9 ∧ (s.session f).switched = false)) :
    s.abortArrive f (s.pdev f) code =
      ((s.migFail f code).updSession f fun x => { x with inbuf := [] }).toPeer f (.abort (s.mtag f) code) := by
  refine (if_neg ?_).trans ((if_neg hcode).trans ((if_neg ?_).trans (if_pos ?_))) <;> rcases h with hm | ⟨hm, hs⟩ <;> simp [*]

theorem abortArrive_fails (h : s.migState f ∈ [1, 2, 3, 4]) : s.abortArrive f (s.pdev f) code = s.migFail f code := by
  simp only [List.mem_cons, List.not_mem_nil, or_false] at h
  have hm : s.migState f ≠ 0 ∧ s.migState f ≠ 8 ∧ s.migState f ≠ 9 ∧ s.migState f ≠ 10 := by omega
  obtain ⟨h0, h8, h9, h10⟩ := hm
  exact (if_neg (by simp [h0, hck])).trans ((if_neg hcode).trans ((if_neg (by simp [h9, h10])).trans
    ((if_neg (by simp [h8, h9])).trans (if_pos (by simp; omega)))))

end

/-! END. -/

theorem migEnd_misplaced (h : s.migState f ∈ [1, 2, 3, 4, 8, 9] ∨ (s.migState f = 10 ∧ s.swDone f = false) ∨
    (s.migState f = 0 ∧ s.badPeer f = true)) : s.migEnd f = s.migStatus f 1 := by
  simp only [List.mem_cons, List.not_mem_nil, or_false] at h
  have h5 : s.migState f ≠ 5 := by omega
  have h6 : s.migState f ≠ 6 := by omega
  have h0 : s.migState f = 0 → s.badPeer f = true := fun hm => by simpa [hm] using h
  have h10 : s.migState f = 10 → s.swDone f = false := fun hm => by simpa [hm] using h
  exact if_neg (by simpa [h5, h6] using And.intro h0 h10)

theorem migEnd_ends (h : (s.migState f = 0 ∧ s.badPeer f = false) ∨ s.migState f = 5 ∨ (s.migState f = 10 ∧ s.swDone f = true)) :
    s.migEnd f = (s.updSession f fun x => { x.rest with tracking := false }).setMig f 0 0 false := by
  refine (if_pos ?_).trans ?_
  · rcases h with ⟨hm, hp⟩ | hm | ⟨hm, hd⟩ <;> simp [*]
  · have h6 : s.migState f ≠ 6 := by omega
    simp only [h6, if_false, beq_eq_false_iff_ne.2 h6, Bool.not_false, Bool.and_true]
    rfl

theorem migEnd_quiesces (hm : s.migState f = 6) (hv : s.vfState f = 6) : s.migEnd f =
    (((s.setVf f 5 0 0).thaw f).updSession f fun x => { x.rest with tracking := false, forwarding := false }).setMig f 0 0 false := by
  refine (if_pos (by simp [hm])).trans ?_
  simp [hm, hv]

/-- With no write held, the thaw leaves memory and the registers, and the session is no longer frozen (R407). -/
theorem thaw_of_none_held (hses : (s.sessions.wf fun _ => Session.reset) = true) (h : (s.session f).held = []) :
    (s.thaw f).mem = s.mem ∧ (s.thaw f).sysregs = s.sysregs ∧ ((s.thaw f).sessions.wf fun _ => Session.reset) = true ∧
      ((s.thaw f).session f).frozen = none := by
  unfold State.thaw
  dsimp only
  split
  · exact ⟨rfl, rfl, hses, ‹_›⟩
  · rw [h]
    exact ⟨rfl, rfl, sessionsWf_setSession hses f _, congrArg Session.frozen (session_setSession_same hses f _)⟩

end

end Sys2Proof.Machine

end

/-! # The VDN switch, SAVE, LOAD and Seep (R404, R405, R407, R410, R411, R435) -/

section

namespace Sys2Proof.Machine

section

variable {s : State} {f : Nat}

theorem migStatus_eq {st : Nat} (hm : s.migState f = st) (code : Nat) : s.migStatus f code = s.setMig f st code (s.swDone f) := by
  rw [State.migStatus, hm]

theorem migState_migStatus {code : Nat} (h : s.sysregs.wf sysReset = true) (hcode : code < 16) : (s.migStatus f code).migState f = s.migState f :=
  migState_setMig h (migState_lt s f) hcode

theorem vfState_vfStatus {code : Nat} (h : s.sysregs.wf sysReset = true) (hcode : code < 8) : (s.vfStatus f code).vfState f = s.vfState f :=
  vfState_setVf h (vfState_lt s f) (ofBool_lt _) hcode

theorem mreg_vfStatus {code n : Nat} (h : s.sysregs.wf sysReset = true) (hn : n < 16) : (s.vfStatus f code).mreg f n = s.mreg f n :=
  mreg_setVf h n hn

/-! SWITCH and its acknowledgements. -/

theorem migSwitch_misplaced (h9 : s.migState f ≠ 9) (h10 : s.migState f ≠ 10) : s.migSwitch f = s.migStatus f 1 := if_pos (by simp [h9, h10])

theorem migSwitch_asks (h : s.migState f = 9 ∨ s.migState f = 10) : ∃ u, s.Sent u ∧
    s.migSwitch f = (u.updSession f fun x => { x with switched := true, acks := [] }).migStatus f 0 :=
  ⟨_, .foldl (fun s d => ctrlTo_sent s f d f _) (List.range 64) s, if_neg (by simpa [or_iff_not_imp_left] using h)⟩

theorem switchAck_ignored {d : Nat} (h : (s.session f).switched = false ∨ (s.session f).acks.contains d = true) : s.switchAck f d = s :=
  if_pos (by simpa using h)

section

variable {d : Nat} (hs : (s.session f).switched = true) (hd : (s.session f).acks.contains d = false)
include hs hd

theorem switchAck_last (h : (s.session f).acks.length = 63) : s.switchAck f d =
    (s.setSession f { s.session f with acks := d :: (s.session f).acks }).setMig f (s.migState f) (bits (s.mreg f 4) 23 20) true :=
  (if_neg (by simpa [hs] using hd)).trans (if_pos (by rw [h]))

theorem switchAck_more (h : (s.session f).acks.length ≠ 63) : s.switchAck f d =
    s.setSession f { s.session f with acks := d :: (s.session f).acks } :=
  (if_neg (by simpa [hs] using hd)).trans (if_neg (by omega))

end

/-! SAVE and the last pass. -/

/-- A state with a function's image laid out in its save area (R407). -/
def State.imageSaved (s : State) (f : Nat) : State :=
  { s with mem := s.mem.store (s.saveArea f).1 (layoutBytes (s.capture f)), images := s.capture f :: s.images }.mark (s.saveArea f).1
    (layoutBytes (s.capture f)).length

theorem imageSaved_frame (s : State) (f : Nat) : s.imageSaved f = { s with mem := (s.imageSaved f).mem, images := s.capture f :: s.images } :=
  mark_frame ..

theorem vfSave_misplaced (h : s.vfState f ≠ 5) : s.vfSave f = s.vfStatus f 1 := if_pos h

section

variable (hv : s.vfState f = 5)
include hv

theorem vfSave_noRoom (h : (s.saveArea f).2 < (layoutBytes (s.capture f)).length) : s.vfSave f = (s.migFail f 2).vfStatus f 0 :=
  (if_neg (not_not.2 hv)).trans (if_pos h)

variable (h : (layoutBytes (s.capture f)).length ≤ (s.saveArea f).2)
include h

theorem vfSave_saves (hm : s.migState f ≠ 2) : s.vfSave f = (s.imageSaved f).setVf f 6 0 0 := by
  have hsaved : (s.imageSaved f).migState f = s.migState f := migState_congr (by rw [imageSaved_frame]) f
  exact (if_neg (not_not.2 hv)).trans ((if_neg (Nat.not_lt.2 h)).trans (if_pos (hsaved.trans_ne hm)))

theorem vfSave_final (hm : s.migState f = 2) : s.vfSave f = (((s.imageSaved f).updSession f fun x => { x with
      frozen := some (s.imageSaved f).clk, forwarding := !(s.imageSaved f).ckEn f, image := some (s.capture f) }).setMig f 3 0 false).vfStatus f 0 := by
  have hsaved : (s.imageSaved f).migState f = s.migState f := migState_congr (by rw [imageSaved_frame]) f
  exact (if_neg (not_not.2 hv)).trans ((if_neg (Nat.not_lt.2 h)).trans (if_neg (not_not.2 (hsaved.trans hm))))

end

theorem finalPass_waits (h : s.migState f ≠ 3 ∨ (s.session f).image ≠ none ∨ s.backlog f ≠ 0) : s.finalPass f = s := by
  refine if_neg ?_
  rcases h with h | h | h <;> simp [h]

theorem finalPass_ends (hm : s.migState f = 3) (hi : (s.session f).image = none) (hb : s.backlog f = 0) (hd : (s.session f).desc = 0)
    (hw : (s.session f).word = 0) (he : (s.session f).expect = none) : s.finalPass f =
      if s.ckEn f then (s.setVf f 5 0 0).setMig f 1 0 false else (s.setVf f 6 0 0).setMig f 4 0 false :=
  if_pos (by simp [hm, hi, hb, hd, hw, he])

/-! LOAD. -/

/-- What an image that is applied leaves as it was, and that it keeps the canonical form of the system registers. -/
structure State.Applies (s t : State) : Prop where
  mem : t.mem = s.mem
  sessions : t.sessions = s.sessions
  accepted : t.accepted = s.accepted
  wf : s.sysregs.wf sysReset = true → t.sysregs.wf sysReset = true

namespace State.Applies

variable {t u : State}

theorem refl (s : State) : s.Applies s := ⟨rfl, rfl, rfl, id⟩

theorem trans (h : s.Applies t) (k : t.Applies u) : s.Applies u :=
  ⟨k.mem.trans h.mem, k.sessions.trans h.sessions, k.accepted.trans h.accepted, k.wf ∘ h.wf⟩

theorem foldl {f : State → α → State} (h : ∀ (s : State) x, s.Applies (f s x)) (l : List α) (s : State) : s.Applies (l.foldl f s) := by
  induction l generalizing s with
  | nil => exact refl s
  | cons x r ih => exact (h s x).trans (ih (f s x))

theorem setSys (s : State) (k : Nat) (v : Word) : s.Applies (s.setSys k v) := ⟨rfl, rfl, rfl, wf_set _ k v⟩

end State.Applies

theorem enter_applies (s : State) (a : Arrival) : s.Applies ((s.enter a).getD s) := by
  unfold State.enter
  dsimp only
  split <;> exact ⟨rfl, rfl, rfl, id⟩

/-- Registers of an image go to their numbers, those with an index below `n` (R410). -/
def State.putRegs (s : State) (n : Nat) (num : Nat → Nat) (t : Tab Word) : State :=
  t.foldl (fun s e => if e.1 < n then s.setSys (num e.1) e.2 else s) s

theorem putRegs_applies (s : State) (n : Nat) (num : Nat → Nat) (t : Tab Word) : s.Applies (s.putRegs n num t) := by
  refine .foldl (fun s e => ?_) t s
  split
  · exact .setSys ..
  · exact .refl s

/-- The first part of an image: the registers of the queues, the fabric's, the VDN table, and in it the function's own entry, which names this device and
has the next epoch (R410). -/
def State.imageRegs (s : State) (f : Nat) (img : Image) : State :=
  let s := section1.foldl (fun s o => s.setBar f o (Tab.get barReset img.bar0 o)) s
  let s := (s.putRegs 16 (fun r => fReg 0x0400 f r) img.regs).putRegs 64 (fun v => 0x1000 + 0x40 * f + v) img.vdn
  let own := s.vdne f img.ownVdn
  s.setSys (0x1000 + 0x40 * f + img.ownVdn % 64)
    (BitVec.ofNat 32 (setBits (setBits (setBits (setBits own 21 16 s.phys) 5 2 f) 15 8 (bits own 15 8 + 1)) 1 0 1))

theorem imageRegs_applies (s : State) (f : Nat) (img : Image) : s.Applies (s.imageRegs f img) := by
  unfold State.imageRegs
  dsimp only
  refine .trans ?_ (.setSys ..)
  refine .trans ?_ (.trans (putRegs_applies ..) (putRegs_applies ..))
  refine .foldl (fun s o => ?_) _ s
  exact ⟨rfl, rfl, rfl, id⟩

/-- An image that is applied ends with the function in QUIESCED (R410). -/
theorem applyImage_eq (s : State) (f : Nat) (img : Image) : ∃ u, s.Applies u ∧ s.applyImage f img = u.setVf f 5 0 0 := by
  refine ⟨_, ?_, rfl⟩
  refine .trans ?_ (.foldl (fun s _ => enter_applies s _) _ _)
  generalize hregs : State.setSys _ _ _ = u
  have hu : s.Applies u := by
    rw [← hregs]
    exact imageRegs_applies s f img
  exact hu.trans ⟨rfl, rfl, rfl, id⟩

theorem migLoad_misplaced (h : s.migState f ≠ 9) : s.migLoad f = s.migStatus f 1 := if_pos h

section

variable (hm : s.migState f = 9)
include hm

theorem migLoad_noImage (h : s.imageIn f = none) : s.migLoad f = s.migStatus f 4 := by
  unfold State.migLoad
  rw [if_neg (not_not.2 hm), h]

variable {img : Image} (hi : s.imageIn f = some img)
include hi

theorem migLoad_badVersion (h : img.major ≠ 1) : s.migLoad f = s.migStatus f 3 := by
  unfold State.migLoad
  rw [if_neg (not_not.2 hm), hi]
  exact if_pos h

variable (hv : img.major = 1)
include hv

theorem migLoad_badKey (h : ∃ l ∈ img.launches, s.keyStands l.record = false) : s.migLoad f = s.migStatus f 5 := by
  unfold State.migLoad
  rw [if_neg (not_not.2 hm), hi]
  exact (if_neg (not_not.2 hv)).trans (if_pos (by simpa using h))

variable (hk : ∀ l ∈ img.launches, s.keyStands l.record = true)
include hk

theorem migLoad_tooLarge (h : ∃ l ∈ img.launches, l.record.isCopy = false ∧ s.tooLarge f l.record = true) : s.migLoad f = s.migStatus f 2 := by
  unfold State.migLoad
  rw [if_neg (not_not.2 hm), hi]
  exact (if_neg (not_not.2 hv)).trans ((if_neg (by simpa using hk)).trans (if_pos (by simpa using h)))

theorem migLoad_loads (h : ∀ l ∈ img.launches, l.record.isCopy = true ∨ s.tooLarge f l.record = false) :
    s.migLoad f = ((s.applyImage f img).setMig f 10 0 (s.swDone f)).unhold f := by
  unfold State.migLoad
  rw [if_neg (not_not.2 hm), hi]
  refine (if_neg (not_not.2 hv)).trans ((if_neg (by simpa using hk)).trans (if_neg ?_))
  simpa [or_iff_not_imp_left] using h

end

/-! What the inbound buffer held for a function comes next (R410). -/

theorem sys_stalePkt_other (h : s.sysregs.wf sysReset = true) {k : Nat} (hk : k ≠ fReg 0x0400 f 4) : (s.stalePkt f).sys k = s.sys k :=
  sys_setSys_other h _ hk

/-- Discarded packets are counted in one register and leave the rest. -/
theorem foldl_stalePkt (l : List Packet) (f : Nat) {s : State} (h : s.sysregs.wf sysReset = true) :
    let t := l.foldl (fun s _ => s.stalePkt f) s
    t.mem = s.mem ∧ t.sessions = s.sessions ∧ t.accepted = s.accepted ∧ ∀ k, k ≠ fReg 0x0400 f 4 → t.sys k = s.sys k := by
  induction l generalizing s with
  | nil => exact ⟨rfl, rfl, rfl, fun _ _ => rfl⟩
  | cons p r ih =>
    obtain ⟨hmem, hses, hacc, hsys⟩ := ih (s := s.stalePkt f) (wf_set _ _ _ h)
    exact ⟨hmem, hses, hacc, fun k hk => (hsys k hk).trans (sys_stalePkt_other h hk)⟩

theorem unhold_spec (h : s.sysregs.wf sysReset = true) (hses : (s.sessions.wf fun _ => Session.reset) = true) :
    let t := s.unhold f
    (∀ k, k ≠ fReg 0x0400 f 4 → t.sys k = s.sys k) ∧ (t.session f).inbuf = [] ∧ t.mem = s.mem ∧
      t.accepted = s.accepted ++ ((s.session f).inbuf.filter fun p => vdnOk (s.vdne f p.svdn)).map fun p => (p, RxSlot.none) := by
  obtain ⟨hmem, hkept, hacc, hsys⟩ := foldl_stalePkt ((s.session f).inbuf.partition fun p => vdnOk (s.vdne f p.svdn)).2 f
    (s := s.setSession f { s.session f with inbuf := [] }) h
  refine ⟨hsys, congrArg Session.inbuf ((session_congr hkept f).trans (session_setSession_same hses f _)), hmem, ?_⟩
  have hgood := congrArg Prod.fst (List.partition_eq_filter_filter (p := fun p : Packet => vdnOk (s.vdne f p.svdn))
    (l := (s.session f).inbuf))
  dsimp only at hgood
  rw [← hgood]
  exact congrArg (· ++ _) hacc

end

end Sys2Proof.Machine

end

/-! # Seep at its two ends (R301, R404, R405, R409, R412) -/

section

namespace Sys2Proof.Machine

/-! The source: one word of a bitmap, or the image (R404, R405, R407). -/

section

variable {s : State} {f : Nat}

theorem seeps_iff : s.seeps f = true ↔ s.migState f = 2 ∨ s.migState f = 3 ∨ (s.migState f = 5 ∧ (s.session f).finishing = true) := by
  simp [State.seeps, or_assoc]

theorem seepPass_idle (h2 : s.migState f ≠ 2) (h3 : s.migState f ≠ 3) (h5 : s.migState f ≠ 5 ∨ (s.session f).finishing = false) : s.seepPass f = s := by
  have hidle : s.seeps f = false := by simp [State.seeps, h2, h3]; simpa [or_iff_not_imp_left] using h5
  exact if_pos (by rw [hidle]; rfl)

section

variable {img : Image} (hs : s.seeps f = true) (hi : (s.session f).image = some img) (hd : (s.session f).desc = 0) (hw : (s.session f).word = 0)
include hs hi hd hw

theorem seepPass_image_peer (hck : s.ckEn f = false) (he : (s.session f).expect = none) : s.seepPass f =
    ((s.updSession f fun x => { x with image := none }).imagePost f img).seepRelease f (((layoutBytes img).length + 127) / 128) (some img) := by
  unfold State.seepPass
  simp only [hs, hck, he, hd, hw, hi, Bool.not_true, Option.isSome_none, Bool.and_false, Bool.or_false, Bool.false_eq_true, if_false, Bool.false_and,
    decide_true, Bool.and_true, if_true]
  exact if_neg (ne_true_of_eq_false hck)

theorem seepPass_image_host (hck : s.ckEn f = true) (hide : s.ideSecure = true) : s.seepPass f =
    { s.updSession f fun x => { x with image := none } with host := s.host.store (s.hostBase f + 2 ^ 46) (layoutBytes img) } := by
  unfold State.seepPass
  simp only [hs, hck, hide, hd, hw, hi, Bool.not_true, Bool.and_false, Bool.or_false, Bool.false_eq_true, if_false, Bool.false_and,
    decide_true, Bool.and_true, if_true]
  exact if_pos hck

end

/-- A function's state once a bitmap word is exchanged with 0 (R404). -/
def State.wordTaken (s : State) (f a : Nat) : State := { s with seepTurn := f + 1, mem := s.mem.store a (leBytes 0 8) }

/-- The granules that a bitmap word marks: intermediate and physical address (R404). -/
def State.marked (s : State) (d : TrackDesc) (word : Nat) : List (Nat × Nat) :=
  ((List.range 64).filter fun i => bit (s.mem.read (d.bitmap + 8 * word) 8) i).map fun i =>
    (d.ipa + 512 * (64 * word + i), d.pa + 512 * (64 * word + i))

/-- The lines of granules whose check bits fail (R433). -/
def State.badLines (s : State) (gs : List (Nat × Nat)) : List Nat :=
  gs.flatMap fun g => ([0, 1, 2, 3].map fun k => g.2 / 128 + k).filter fun l => s.poisoned.contains l

/-- The image is sent between two passes alone. -/
theorem noImage_of (hi : (s.session f).image = none ∨ (s.session f).desc ≠ 0 ∨ (s.session f).word ≠ 0) :
    (if (s.session f).desc = 0 && (s.session f).word = 0 then (s.session f).image else none) = none := by
  split
  case isTrue h =>
    simp only [Bool.and_eq_true, decide_eq_true_eq] at h
    exact hi.resolve_right (by omega)
  case isFalse => rfl

section

variable {d : TrackDesc} (hs : s.seeps f = true) (hck : s.ckEn f = false) (he : (s.session f).expect = none)
  (hd : (s.trackDescs f)[(s.session f).desc]? = some d)
  (hi : (s.session f).image = none ∨ (s.session f).desc ≠ 0 ∨ (s.session f).word ≠ 0)
include hs hck he hd hi

theorem seepPass_fails (hbad : s.badLines (s.marked d (s.session f).word) ≠ []) : s.seepPass f =
    ((s.badLines (s.marked d (s.session f).word)).foldl (fun s l =>
      s.logError (if s.mere.any fun m => m.line == l then 1 else 0) f (128 * l)) (s.wordTaken f (d.bitmap + 8 * (s.session f).word))).migFailBoth f 7 := by
  unfold State.seepPass
  dsimp only
  refine (if_neg (by simp [hs, he])).trans ((if_neg (by simp [hck])).trans ?_)
  rw [noImage_of hi, hd]
  exact if_pos (show (!(s.badLines (s.marked d (s.session f).word)).isEmpty) = true by simpa using hbad)

theorem seepPass_posts (hlast : (s.session f).word + 1 ≠ 64 * d.units) (hgood : s.badLines (s.marked d (s.session f).word) = []) :
    s.seepPass f = ((s.marked d (s.session f).word).foldl (fun s g => s.seepPost f g.1 g.2)
      (s.wordTaken f (d.bitmap + 8 * (s.session f).word))).updSession f fun y =>
        { y with pass := y.pass ++ s.marked d (s.session f).word, word := y.word + 1 } := by
  unfold State.seepPass
  dsimp only
  refine (if_neg (by simp [hs, he])).trans ((if_neg (by simp [hck])).trans ?_)
  rw [noImage_of hi, hd]
  have hnone : ¬ (!(s.badLines (s.marked d (s.session f).word)).isEmpty) = true := by simp [hgood]
  refine (if_neg hnone).trans ((if_neg (by simp [hlast])).trans ?_)
  simp only [hlast, if_false]
  rfl

end

theorem badLines_eq_nil_iff {gs : List (Nat × Nat)} : s.badLines gs = [] ↔ ∀ g ∈ gs, ∀ k, k < 4 → (g.2 / 128 + k) ∉ s.poisoned := by
  have hfour : [0, 1, 2, 3] = List.range 4 := rfl
  simp only [State.badLines, hfour, List.flatMap_eq_nil_iff, List.filter_eq_nil_iff, List.forall_mem_map, List.mem_range, List.contains_iff_mem]

end

/-! The destination. -/

/-- The epochs of two passes in a row differ: they have 8 bits (R301). -/
theorem epoch_succ_ne (e : BitVec 8) : (e + 1).toNat ≠ e.toNat := by
  bv_omega

section

variable {s : State} {p : Packet} {mtag epoch r : Nat} (hf : p.dstFun < 8)
include hf

/-- Whether a write of a pass is accepted: of the session's other end with its tag, in the pass under way (R404, R409). -/
theorem seepAccepts_iff : s.seepAccepts p mtag epoch r = true ↔ s.seepOpen p.dstFun = true ∧ s.fromPeer p mtag = true ∧
    epoch = ((s.session p.dstFun).epoch + 1).toNat ∧ r = (s.session p.dstFun).r := by
  simp [State.seepAccepts, Nat.mod_eq_of_lt hf, and_assoc]

section

variable {ipa owner : Nat} {data : List Byte} (hb : p.body = .seep mtag epoch r ipa owner data)
include hb

theorem seepWrite_stale (h : s.seepAccepts p mtag epoch r = false) : s.seepWrite p = s.stalePkt p.dstFun := by
  unfold State.seepWrite
  dsimp only
  rw [hb, Nat.mod_eq_of_lt hf]
  exact if_pos (by simp [h])

variable (h : s.seepAccepts p mtag epoch r = true)
include h

theorem seepWrite_unmapped (hx : s.stage2 p.dstFun ipa = none) : s.seepWrite p = s.migFailBoth p.dstFun 8 := by
  unfold State.seepWrite
  dsimp only
  rw [hb, Nat.mod_eq_of_lt hf]
  refine (if_neg (by simp [h])).trans ?_
  rw [hx]

variable {l : Trans} {pa : Nat} (hx : s.stage2 p.dstFun ipa = some l) (hpa : l.tgt = .loc pa) (hw : l.w = true)
include hx hpa hw

/-- A write that stage 2 lets through: under a handle that is not installed it ends the session, else the page's first write gives it its owner. -/
theorem seepWrite_mapped : let tag := (s.handle? owner).map fun k => k.tag
    s.seepWrite p = if owner ≠ 0 && tag.isNone then s.migFailBoth p.dstFun 5
      else ((if s.owner pa = 0 then s.setOwner pa (if owner = 0 then 0 else tag.getD 0) else s).homeWrite p.dstFun 0 none pa data).seepLanded
        p.dstFun data.length := by
  obtain ⟨tgt, _, _, w, _, _, _⟩ := l
  obtain rfl : tgt = .loc pa := hpa
  obtain rfl : w = true := hw
  unfold State.seepWrite
  dsimp only
  rw [hb, Nat.mod_eq_of_lt hf]
  refine (if_neg (by simp [h])).trans ?_
  rw [hx]

theorem seepWrite_noKey (ho : owner ≠ 0) (hk : s.handle? owner = none) : s.seepWrite p = s.migFailBoth p.dstFun 5 :=
  (seepWrite_mapped hf hb h hx hpa hw).trans (if_pos (by simp [ho, hk]))

variable (hown : s.owner pa = 0)
include hown

theorem seepWrite_open (ho : owner = 0) :
    s.seepWrite p = ((s.setOwner pa 0).homeWrite p.dstFun 0 none pa data).seepLanded p.dstFun data.length := by
  refine (seepWrite_mapped hf hb h hx hpa hw).trans ((if_neg (by simp [ho])).trans ?_)
  rw [if_pos hown, if_pos ho]

theorem seepWrite_owned {k : KeyHandle} (ho : owner ≠ 0) (hk : s.handle? owner = some k) :
    s.seepWrite p = ((s.setOwner pa k.tag).homeWrite p.dstFun 0 none pa data).seepLanded p.dstFun data.length := by
  refine (seepWrite_mapped hf hb h hx hpa hw).trans ((if_neg (by simp [hk])).trans ?_)
  rw [if_pos hown, if_neg ho, hk]
  rfl

end

section

variable {off : Nat} {data : List Byte} (hb : p.body = .seepImage mtag epoch r off data) (h : s.seepAccepts p mtag epoch r = true)
include hb h

theorem seepWrite_image (hroom : off + data.length ≤ (s.saveArea p.dstFun).2) : s.seepWrite p =
    (s.homeWrite p.dstFun 0 none ((s.saveArea p.dstFun).1 + off) data).seepLanded p.dstFun data.length := by
  unfold State.seepWrite
  dsimp only
  rw [hb, Nat.mod_eq_of_lt hf]
  exact (if_neg (by simp [h])).trans (if_neg (Nat.not_lt.2 hroom))

theorem seepWrite_imageTooLong (hroom : (s.saveArea p.dstFun).2 < off + data.length) : s.seepWrite p = s.migFailBoth p.dstFun 2 := by
  unfold State.seepWrite
  dsimp only
  rw [hb, Nat.mod_eq_of_lt hf]
  exact (if_neg (by simp [h])).trans (if_pos hroom)

end

section

variable {n : Nat} {image : Option Image} (hb : p.body = .seepRelease mtag epoch r n image)
include hb

theorem seepReleaseArrive_foreign (h : s.seepOpen p.dstFun = false ∨ s.fromPeer p mtag = false) : s.seepReleaseArrive p = s := by
  unfold State.seepReleaseArrive
  dsimp only
  rw [hb, Nat.mod_eq_of_lt hf]
  exact if_pos (by simpa using h)

variable (ho : s.seepOpen p.dstFun = true) (hp : s.fromPeer p mtag = true)
include ho hp

/-- A release of the session's other end, by the epoch that it names. -/
theorem seepReleaseArrive_own : s.seepReleaseArrive p =
    let x := s.session p.dstFun
    if epoch = x.epoch.toNat then s.toPeer p.dstFun (.seepToken mtag epoch r)
    else if epoch ≠ (x.epoch + 1).toNat then s.stalePkt p.dstFun
    else if x.expect.isSome then s
    else (s.updSession p.dstFun fun x => { x with expect := some (n, image), deadline := some (s.clk + us 20) }).seepClose p.dstFun := by
  unfold State.seepReleaseArrive
  dsimp only
  rw [hb, Nat.mod_eq_of_lt hf]
  exact if_neg (by simp [ho, hp])

theorem seepReleaseArrive_again (h : epoch = (s.session p.dstFun).epoch.toNat) :
    s.seepReleaseArrive p = s.toPeer p.dstFun (.seepToken mtag epoch r) :=
  (seepReleaseArrive_own hf hb ho hp).trans (if_pos h)

theorem seepReleaseArrive_stale (h : epoch ≠ (s.session p.dstFun).epoch.toNat) (h' : epoch ≠ ((s.session p.dstFun).epoch + 1).toNat) :
    s.seepReleaseArrive p = s.stalePkt p.dstFun :=
  (seepReleaseArrive_own hf hb ho hp).trans ((if_neg h).trans (if_pos h'))

variable (h : epoch = ((s.session p.dstFun).epoch + 1).toNat)
include h

theorem seepReleaseArrive_waits (he : (s.session p.dstFun).expect ≠ none) : s.seepReleaseArrive p = s :=
  (seepReleaseArrive_own hf hb ho hp).trans ((if_neg (h.trans_ne (epoch_succ_ne _))).trans
    ((if_neg (not_not.2 h)).trans (if_pos (Option.isSome_iff_ne_none.2 he))))

theorem seepReleaseArrive_expects (he : (s.session p.dstFun).expect = none) : s.seepReleaseArrive p =
    (s.updSession p.dstFun fun x => { x with expect := some (n, image), deadline := some (s.clk + us 20) }).seepClose p.dstFun :=
  (seepReleaseArrive_own hf hb ho hp).trans ((if_neg (h.trans_ne (epoch_succ_ne _))).trans ((if_neg (not_not.2 h)).trans (if_neg (by simp [he]))))

end

end

/-- A session whose pass is closed (R304, R405). -/
def Session.passClosed (x : Session) : Session := { x with expect := none, epoch := x.epoch + 1, arrived := 0, r := 0, deadline := none }

/-- The whole image has arrived: the session is LOADABLE, and the image's pass is closed (R409). -/
theorem seepClose_image {s : State} {f : Nat} {img : Image} (h : (s.session f).expect = some ((s.session f).arrived, some img)) :
    let u := s.updSession f Session.passClosed
    State.Sent { (if u.migState f = 8 then u.setMig f 9 0 false else u) with images := img :: u.images } (s.seepClose f) := by
  intro u
  unfold State.seepClose
  dsimp only
  rw [h]
  dsimp only
  rw [if_neg (not_not.2 rfl)]
  exact toPeer_sent ..

theorem seepClose_loadable {s : State} {f : Nat} {img : Image} (hwf : s.sysregs.wf sysReset = true)
    (hses : (s.sessions.wf fun _ => Session.reset) = true) (h : (s.session f).expect = some ((s.session f).arrived, some img)) :
    (s.seepClose f).migState f = (if s.migState f = 8 then 9 else s.migState f) ∧ (s.seepClose f).images = img :: s.images ∧
      ((s.seepClose f).session f).epoch = (s.session f).epoch + 1 ∧ (s.seepClose f).mem = s.mem := by
  have hsent := seepClose_image h
  have hx := session_updSession hses f Session.passClosed
  have hmig : (s.updSession f Session.passClosed).migState f = s.migState f := rfl
  rw [migState_congr hsent.sysregs, hsent.images, session_congr hsent.sessions, hsent.mem, hmig]
  split
  · exact ⟨migState_setMig (s := s.updSession f _) hwf (by decide) (by decide), rfl, congrArg Session.epoch hx, rfl⟩
  · exact ⟨rfl, rfl, congrArg Session.epoch hx, rfl⟩

/-! Oxbow (R412, R435). -/

section

variable {s : State} {p : Packet} (hf : p.dstFun < 8)
include hf

theorem oxbow_forwards (h : (s.session p.dstFun).forwarding = true) :
    s.oxbow p = s.emit { p with dstDev := s.pdev p.dstFun, dstFun := s.pfunc p.dstFun, srcFun := p.dstFun } := by
  unfold State.oxbow
  rw [Nat.mod_eq_of_lt hf]
  exact if_pos h

theorem oxbow_holds (h : (s.session p.dstFun).forwarding = false) (hz : (s.session p.dstFun).frozen.isSome = true) (hck : s.ckEn p.dstFun = true)
    (hroom : s.inbufRoom = true) :
    s.oxbow p = s.setSession p.dstFun { s.session p.dstFun with inbuf := (s.session p.dstFun).inbuf ++ [p] } := by
  unfold State.oxbow
  rw [Nat.mod_eq_of_lt hf]
  exact (if_neg (by simp [h])).trans ((if_pos (by simp [hz, hck])).trans (if_pos hroom))

theorem oxbow_drops (h : (s.session p.dstFun).forwarding = false) (hz : (s.session p.dstFun).frozen = none ∨ s.ckEn p.dstFun = false) :
    s.oxbow p = s := by
  unfold State.oxbow
  rw [Nat.mod_eq_of_lt hf]
  exact (if_neg (by simp [h])).trans (if_neg (by rcases hz with hz | hz <;> simp [hz]))

end

theorem oxbowWindowExpiry_early {s : State} {f c : Nat} (hc : (s.session f).oxEnd = some c) (h : s.clk < c) : execOxbowWindowExpiry f s = .next s := by
  unfold execOxbowWindowExpiry
  dsimp only
  rw [hc]
  exact congrArg _ (if_neg (Nat.not_le.2 h))

theorem oxbowWindowExpiry_ends {s : State} {f c : Nat} (hc : (s.session f).oxEnd = some c) (h : c ≤ s.clk) :
    execOxbowWindowExpiry f s = .next (s.setSession f { s.session f with forwarding := false, oxEnd := none }) := by
  unfold execOxbowWindowExpiry
  dsimp only
  rw [hc]
  exact congrArg _ (if_pos h)

end Sys2Proof.Machine

end

/-! # Switch frames, VDN entries and control credits (R411, R421) -/

section

namespace Sys2Proof.Machine

/-! A field of a register that is set: the bits above it, the bits below it, and the field. -/

section

variable (x v : Nat) {hi lo : Nat} (h : lo ≤ hi)
include h

theorem setBits_split : setBits x hi lo v = (x / 2 ^ (hi + 1) * 2 ^ (hi + 1 - lo) + v % 2 ^ (hi + 1 - lo)) * 2 ^ lo + x % 2 ^ lo := by
  have hpow : 2 ^ (hi + 1) = 2 ^ lo * 2 ^ (hi + 1 - lo) := by rw [← pow_add, Nat.add_sub_of_le (by omega)]
  have hlow := Nat.div_add_mod x (2 ^ lo)
  have hfield := Nat.div_add_mod (x / 2 ^ lo) (2 ^ (hi + 1 - lo))
  rw [Nat.div_div_eq_div_mul, ← hpow] at hfield
  have hhigh : 2 ^ lo * (x / 2 ^ lo) = x / 2 ^ (hi + 1) * 2 ^ (hi + 1 - lo) * 2 ^ lo + Sys2Proof.bits x hi lo * 2 ^ lo := by
    calc 2 ^ lo * (x / 2 ^ lo) = 2 ^ lo * (2 ^ (hi + 1 - lo) * (x / 2 ^ (hi + 1)) + Sys2Proof.bits x hi lo) := congrArg (2 ^ lo * ·) hfield.symm
      _ = _ := by ring
  rw [Nat.add_mul]
  unfold setBits
  omega

theorem setBits_mod : setBits x hi lo v % 2 ^ lo = x % 2 ^ lo := by
  rw [setBits_split x v h, Nat.mul_add_mod_self_right, Nat.mod_mod]

theorem setBits_div_low : setBits x hi lo v / 2 ^ lo = x / 2 ^ (hi + 1) * 2 ^ (hi + 1 - lo) + v % 2 ^ (hi + 1 - lo) := by
  rw [setBits_split x v h, Nat.add_comm, Nat.add_mul_div_right _ _ (Nat.two_pow_pos _), Nat.div_eq_of_lt (Nat.mod_lt _ (Nat.two_pow_pos _)),
    Nat.zero_add]

theorem bits_setBits : Sys2Proof.bits (setBits x hi lo v) hi lo = v % 2 ^ (hi + 1 - lo) := by
  rw [Sys2Proof.bits, setBits_div_low x v h, Nat.mul_add_mod_self_right, Nat.mod_mod]

theorem setBits_div : setBits x hi lo v / 2 ^ (hi + 1) = x / 2 ^ (hi + 1) := by
  have hpow : 2 ^ (hi + 1) = 2 ^ lo * 2 ^ (hi + 1 - lo) := by rw [← pow_add, Nat.add_sub_of_le (by omega)]
  conv_lhs => rw [hpow, ← Nat.div_div_eq_div_mul, setBits_div_low x v h, Nat.add_comm, Nat.add_mul_div_right _ _ (Nat.two_pow_pos _),
    Nat.div_eq_of_lt (Nat.mod_lt _ (Nat.two_pow_pos _)), Nat.zero_add]

end

/-! VDN entries under a switch frame. -/

/-- Whether a switch frame of a session retargets an entry (R411). -/
def switches (dev fn mtag e : Nat) : Bool := e % 4 = 2 && vdnPhys e = dev && vdnFunc e = fn && bits e 31 24 = mtag

/-- The entry retargeted: it names the destination, is valid, and has the next epoch (R411). -/
def retargeted (dst dfun e : Nat) : Word :=
  BitVec.ofNat 32 (setBits (setBits (setBits (setBits e 21 16 dst) 5 2 dfun) 15 8 (bits e 15 8 + 1)) 1 0 1)

theorem retargeted_names {e dst dfun : Nat} (hdst : dst < 64) (hfun : dfun < 16) :
    vdnPhys (retargeted dst dfun e).toNat = dst ∧ vdnFunc (retargeted dst dfun e).toNat = dfun ∧ (retargeted dst dfun e).toNat % 4 = 1 := by
  rw [retargeted, BitVec.toNat_ofNat, vdnPhys, vdnFunc]
  generalize ha : setBits e 21 16 dst = a
  generalize hb : setBits a 5 2 dfun = b
  generalize hc : setBits b 15 8 (bits e 15 8 + 1) = c
  have hphys : a / 2 ^ 16 % 64 = dst := ha ▸ (bits_setBits e dst (by decide)).trans (Nat.mod_eq_of_lt hdst)
  have hfn : b / 4 % 16 = dfun := hb ▸ (bits_setBits a dfun (by decide)).trans (Nat.mod_eq_of_lt hfun)
  have hab : b / 64 = a / 64 := hb ▸ setBits_div a dfun (by decide)
  have hbc : c / 2 ^ 16 = b / 2 ^ 16 := hc ▸ setBits_div b _ (by decide)
  have hlow : c % 2 ^ 8 = b % 2 ^ 8 := hc ▸ setBits_mod b _ (by decide)
  have hcd : setBits c 1 0 1 / 4 = c / 4 := setBits_div c 1 (by decide)
  have hvalid : setBits c 1 0 1 / 1 % 4 = 1 := bits_setBits c 1 (by decide)
  unfold Sys2Proof.bits
  omega

/-- An entry after a switch frame. -/
def afterSwitch (dev fn dst dfun mtag e : Nat) : Nat := if switches dev fn mtag e then (retargeted dst dfun e).toNat else e

theorem switches_retargeted (dev fn mtag dst dfun e : Nat) : switches dev fn mtag (retargeted dst dfun e).toNat = false := by
  have hvalid : setBits (setBits (setBits (setBits e 21 16 dst) 5 2 dfun) 15 8 (bits e 15 8 + 1)) 1 0 1 / 1 % 4 = 1 := bits_setBits _ 1 (by decide)
  have h4 : (retargeted dst dfun e).toNat % 4 ≠ 2 := by
    rw [retargeted, BitVec.toNat_ofNat]
    omega
  simp [switches, h4]

theorem afterSwitch_idem (dev fn dst dfun mtag e : Nat) :
    afterSwitch dev fn dst dfun mtag (afterSwitch dev fn dst dfun mtag e) = afterSwitch dev fn dst dfun mtag e := by
  by_cases h : switches dev fn mtag e = true
  · simp [afterSwitch, h, switches_retargeted]
  · simp [afterSwitch, h]

/-- A switch frame at one VDN entry of one function. -/
def State.switchEntry (s : State) (dev fn dst dfun mtag : Nat) (k : Nat × Nat) : State :=
  if switches dev fn mtag (s.vdne k.1 k.2) then s.setSys (0x1000 + 0x40 * k.1 + k.2) (retargeted dst dfun (s.vdne k.1 k.2)) else s

/-- The entries of a device: a function and a VDN each. -/
def vdnEntries : List (Nat × Nat) := (List.range 9) ×ˢ (List.range 64)

def State.switchEntries (s : State) (dev fn dst dfun mtag : Nat) : State :=
  vdnEntries.foldl (fun s k => s.switchEntry dev fn dst dfun mtag k) s

theorem mem_vdnEntries {k : Nat × Nat} : k ∈ vdnEntries ↔ k.1 < 9 ∧ k.2 < 64 := by
  rw [vdnEntries, List.mem_product, List.mem_range, List.mem_range]

/-- What a switch frame at the VDN tables leaves as it was: the registers below them, and what is no register. -/
structure State.Retargets (s t : State) : Prop where
  mem : t.mem = s.mem
  clk : t.clk = s.clk
  sessions : t.sessions = s.sessions
  wf : t.sysregs.wf sysReset = true
  below : ∀ k, k < 0x1000 → t.sys k = s.sys k

theorem State.Retargets.trans {s t u : State} (h : s.Retargets t) (k : t.Retargets u) : s.Retargets u :=
  ⟨k.mem.trans h.mem, k.clk.trans h.clk, k.sessions.trans h.sessions, k.wf, fun n hn => (k.below n hn).trans (h.below n hn)⟩

section

variable {s : State} {dev fn dst dfun mtag : Nat}

theorem switchEntry_retargets (h : s.sysregs.wf sysReset = true) (k : Nat × Nat) : s.Retargets (s.switchEntry dev fn dst dfun mtag k) := by
  unfold State.switchEntry
  split
  · exact ⟨rfl, rfl, rfl, wf_set _ _ _ h, fun j hj => sys_setSys_other h _ (by omega)⟩
  · exact ⟨rfl, rfl, rfl, h, fun _ _ => rfl⟩

theorem switchEntry_vdne (h : s.sysregs.wf sysReset = true) {k j : Nat × Nat} (hk : k.2 < 64) (hj : j.2 < 64) :
    (s.switchEntry dev fn dst dfun mtag k).vdne j.1 j.2 =
      if j = k then afterSwitch dev fn dst dfun mtag (s.vdne j.1 j.2) else s.vdne j.1 j.2 := by
  unfold State.switchEntry
  by_cases hs : switches dev fn mtag (s.vdne k.1 k.2) = true
  · rw [if_pos hs]
    by_cases hjk : j = k
    · subst hjk
      rw [if_pos rfl, afterSwitch, if_pos hs, State.vdne, Nat.mod_eq_of_lt hj, sys_setSys_same h]
    · rw [if_neg hjk]
      refine congrArg BitVec.toNat (sys_setSys_other h _ fun he => hjk (Prod.ext ?_ ?_)) <;> omega
  · rw [if_neg hs]
    by_cases hjk : j = k
    · subst hjk
      rw [if_pos rfl, afterSwitch, if_neg hs]
    · rw [if_neg hjk]

theorem switchEntries_of_list (l : List (Nat × Nat)) (hl : ∀ k ∈ l, k.2 < 64) (h : s.sysregs.wf sysReset = true) :
    let t := l.foldl (fun s k => s.switchEntry dev fn dst dfun mtag k) s
    s.Retargets t ∧ ∀ j : Nat × Nat, j.2 < 64 →
      t.vdne j.1 j.2 = if j ∈ l then afterSwitch dev fn dst dfun mtag (s.vdne j.1 j.2) else s.vdne j.1 j.2 := by
  induction l generalizing s with
  | nil => exact ⟨⟨rfl, rfl, rfl, h, fun _ _ => rfl⟩, fun j _ => by simp⟩
  | cons k r ih =>
    have hk := switchEntry_retargets (dev := dev) (fn := fn) (dst := dst) (dfun := dfun) (mtag := mtag) h k
    obtain ⟨hr, hvdne⟩ := ih (s := s.switchEntry dev fn dst dfun mtag k) (fun j hj => hl j (List.mem_cons_of_mem _ hj)) hk.wf
    refine ⟨hk.trans hr, fun j hj => (hvdne j hj).trans ?_⟩
    rw [switchEntry_vdne h (hl k List.mem_cons_self) hj]
    by_cases hjk : j = k
    · by_cases hjr : j ∈ r <;> simp [hjk, hjk ▸ hjr, afterSwitch_idem]
    · simp [hjk]

theorem switchEntries_retargets (h : s.sysregs.wf sysReset = true) : s.Retargets (s.switchEntries dev fn dst dfun mtag) :=
  (switchEntries_of_list vdnEntries (fun _ hk => (mem_vdnEntries.1 hk).2) h).1

theorem switchEntries_vdne (h : s.sysregs.wf sysReset = true) {g v : Nat} (hg : g < 9) (hv : v < 64) :
    (s.switchEntries dev fn dst dfun mtag).vdne g v = afterSwitch dev fn dst dfun mtag (s.vdne g v) :=
  ((switchEntries_of_list vdnEntries (fun _ hk => (mem_vdnEntries.1 hk).2) h).2 (g, v) hv).trans (if_pos (mem_vdnEntries.2 ⟨hg, hv⟩))

end

/-! The source's own frame commits it (R411, R412). -/

/-- Whether a frame of this device's session commits it. -/
def State.Commits (s : State) (f dst dfun mtag : Nat) : Prop :=
  (s.migState f = 4 ∨ (s.migState f = 3 ∧ (s.session f).image = none)) ∧ s.ckEn f = false ∧ mtag = s.mtag f ∧ dst = s.pdev f ∧ dfun = s.pfunc f

/-- A source that commits in FINAL is saved (R411). -/
def State.savedIfFinal (s : State) (f : Nat) : State := if s.migState f = 3 then s.setVf f 6 0 0 else s

section

variable {s : State} {f dst dfun mtag : Nat}

theorem commits_of_retargets {u : State} (hf : f < 8) (h : s.Retargets u) : u.Commits f dst dfun mtag ↔ s.Commits f dst dfun mtag := by
  have hreg (n : Nat) (hn : n < 16) : u.mreg f n = s.mreg f n := congrArg BitVec.toNat (h.below _ (by unfold fReg; omega))
  simp [State.Commits, State.migState, State.ckEn, State.mtag, State.pdev, State.pfunc, hreg, session_congr h.sessions]

theorem savedIfFinal_sys (hwf : s.sysregs.wf sysReset = true) {k : Nat} (hk : k ≠ fReg 0x0900 f 1) : (s.savedIfFinal f).sys k = s.sys k := by
  unfold State.savedIfFinal
  split
  · exact sys_setVf_other hwf hk
  · rfl

/-- Becoming saved writes one register. -/
theorem savedIfFinal_keeps (s : State) (f : Nat) : (s.savedIfFinal f).mem = s.mem ∧ (s.savedIfFinal f).clk = s.clk ∧
    (s.savedIfFinal f).sessions = s.sessions ∧ (s.sysregs.wf sysReset = true → (s.savedIfFinal f).sysregs.wf sysReset = true) := by
  unfold State.savedIfFinal
  split
  · exact ⟨rfl, rfl, rfl, wf_set _ _ _⟩
  · exact ⟨rfl, rfl, rfl, id⟩

theorem commit_foreign (h : ¬ s.Commits f dst dfun mtag) : s.commit f dst dfun mtag = s :=
  if_pos (by
    by_contra hc
    exact h (by simpa [State.Commits, and_assoc, or_iff_not_imp_left] using hc))

theorem commit_own (h : s.Commits f dst dfun mtag) : ∃ u, s.Sent u ∧ s.commit f dst dfun mtag =
    ((u.savedIfFinal f).setMig f 5 0 false).updSession f fun x => { x with
      oxEnd := some ((u.savedIfFinal f).clk + us (bits ((u.savedIfFinal f).mreg f 2) 9 0)), held := [], finishing := s.migState f == 3 } := by
  have hsent : s.Sent ((s.session f).held.foldl (fun s w => s.send (.hostDropped w.1)) s) := .foldl (fun s w => send_sent s _) _ s
  refine ⟨_, hsent, (if_neg ?_).trans ?_⟩
  · unfold State.Commits at h
    simp
    tauto
  · unfold State.savedIfFinal
    rw [migState_congr hsent.sysregs]

/-- A commit writes the session's and the function's registers alone. -/
theorem commit_keeps (hwf : s.sysregs.wf sysReset = true) (f dst dfun mtag : Nat) : let t := s.commit f dst dfun mtag
    t.mem = s.mem ∧ ∀ k, k ≠ fReg 0x0900 f 1 → k ≠ fReg 0x0A00 f 4 → t.sys k = s.sys k := by
  by_cases h : s.Commits f dst dfun mtag
  · obtain ⟨u, hsent, heq⟩ := commit_own h
    have huwf : u.sysregs.wf sysReset = true := by rw [hsent.sysregs]; exact hwf
    obtain ⟨hmem, -, -, hvwf⟩ := savedIfFinal_keeps u f
    have hsys (k : Nat) : u.sys k = s.sys k := by rw [State.sys, hsent.sysregs]; rfl
    rw [heq]
    exact ⟨hmem.trans hsent.mem, fun k hvf hmig =>
      (sys_setMig_other (hvwf huwf) hmig).trans ((savedIfFinal_sys huwf hvf).trans (hsys k))⟩
  · rw [commit_foreign h]
    exact ⟨rfl, fun _ _ _ => rfl⟩

/-- The session has committed: its window runs, no write is held, and a last pass that was under way goes on (R404, R412). -/
theorem commit_commits (hwf : s.sysregs.wf sysReset = true) (hses : (s.sessions.wf fun _ => Session.reset) = true)
    (h : s.Commits f dst dfun mtag) : let t := s.commit f dst dfun mtag
    t.migState f = 5 ∧ (t.session f).oxEnd = some (s.clk + us (bits (s.mreg f 2) 9 0)) ∧ (t.session f).held = [] ∧
      (s.migState f = 3 → t.vfState f = 6 ∧ (t.session f).finishing = true) := by
  obtain ⟨u, hsent, heq⟩ := commit_own h
  have huwf : u.sysregs.wf sysReset = true := by rw [hsent.sysregs]; exact hwf
  obtain ⟨-, hclk, hkept, hvwf⟩ := savedIfFinal_keeps u f
  have hvses : ((u.savedIfFinal f).sessions.wf fun _ => Session.reset) = true := by rw [hkept, hsent.sessions]; exact hses
  have hreg : (u.savedIfFinal f).mreg f 2 = s.mreg f 2 := by
    rw [State.mreg, savedIfFinal_sys huwf (by unfold fReg; omega), State.sys, hsent.sysregs]
    rfl
  intro t
  have hsession := session_updSession (s := (u.savedIfFinal f).setMig f 5 0 false) hvses f fun x => { x with
      oxEnd := some ((u.savedIfFinal f).clk + us (bits ((u.savedIfFinal f).mreg f 2) 9 0)), held := [], finishing := s.migState f == 3 }
  rw [← heq] at hsession
  refine ⟨?_, ?_, ?_, fun h3 => ⟨?_, ?_⟩⟩
  · show (s.commit f dst dfun mtag).migState f = 5
    rw [heq]
    exact migState_setMig (hvwf huwf) (by decide) (by decide)
  · rw [hsession, hclk, hreg, hsent.clk]
  · rw [hsession]
  · show (s.commit f dst dfun mtag).vfState f = 6
    rw [heq]
    refine (vfState_setMig (hvwf huwf)).trans ?_
    rw [State.savedIfFinal, if_pos ((migState_congr hsent.sysregs f).trans h3)]
    exact vfState_setVf huwf (by decide) (by decide) (by decide)
  · rw [hsession]
    exact beq_iff_eq.2 h3

end

/-- A frame of this device's own session. -/
theorem switchFrame_own {s : State} (hwf : s.sysregs.wf sysReset = true) (f dst dfun mtag : Nat) : s.switchFrame s.phys f dst dfun mtag =
    ((s.switchEntries s.phys f dst dfun mtag).commit f dst dfun mtag).ctrlTo f dst dfun (.switchAck dfun) := by
  have hfold : (List.range 9).foldl (fun s' g => (List.range 64).foldl (fun s' v => s'.switchEntry s.phys f dst dfun mtag (g, v)) s') s =
      s.switchEntries s.phys f dst dfun mtag := by
    simp [State.switchEntries, vdnEntries, SProd.sprod, List.product, List.foldl_flatMap, List.foldl_map]
  have hphys : (s.switchEntries s.phys f dst dfun mtag).phys = s.phys :=
    congrArg (fun w : Word => w.toNat % 64) ((switchEntries_retargets hwf).below 0x0DA4 (by decide))
  have hframe : s.switchFrame s.phys f dst dfun mtag = State.ctrlTo (if s.phys = (s.switchEntries s.phys f dst dfun mtag).phys then
      (s.switchEntries s.phys f dst dfun mtag).commit f dst dfun mtag else s.switchEntries s.phys f dst dfun mtag) f dst dfun (.switchAck dfun) := by
    rw [← hfold]
    rfl
  rw [hframe, if_pos hphys.symm]

/-! A write to VDNE (R411). -/

theorem exec_vdneWrite {s : State} {f v : Nat} (hf : f < 9) (hv : v < 64) (x : Word) : exec (.vdneWrite f v x) s = .next (s.vdneSet f v x.toNat) := by
  show Host.Outcome.next (s.vdneSet (f % 9) (v % 64) x.toNat) = _
  rw [Nat.mod_eq_of_lt hf, Nat.mod_eq_of_lt hv]

theorem vdneSet_refused {s : State} {f v x : Nat} (h : 8 < bits x 5 2) : s.vdneSet f v x = s := if_pos h

/-- Clearing the two low bits of a word that has both set. -/
theorem ofNat_setBits_low {x : Word} : BitVec.ofNat 32 (setBits x.toNat 1 0 0) = x &&& 0xFFFFFFFC := by
  have hx : x.toNat < 2 ^ 32 := x.isLt
  have hdiv : (x &&& 0xFFFFFFFC).toNat / 2 ^ 2 = x.toNat / 2 ^ 2 := by
    rw [BitVec.toNat_and, Nat.and_div_two_pow]
    exact (Nat.and_two_pow_sub_one_eq_mod (n := 30) _).trans (Nat.mod_eq_of_lt (by omega))
  have hmod : (x &&& 0xFFFFFFFC).toNat % 2 ^ 2 = 0 := by
    rw [BitVec.toNat_and, Nat.and_mod_two_pow]
    exact Nat.and_zero _
  have hset := setBits_split x.toNat 0 (hi := 1) (lo := 0) (by decide)
  refine BitVec.eq_of_toNat_eq ?_
  rw [BitVec.toNat_ofNat]
  omega

theorem vdneSet_writes {s : State} {f v : Nat} {x : Word} (h : bits x.toNat 5 2 ≤ 8) : s.vdneSet f v x.toNat =
    s.setSys (0x1000 + 0x40 * f + v) ((if x.toNat % 4 = 3 then x &&& 0xFFFFFFFC else x) &&& 0xFF3FFF3F) := by
  refine (if_neg (Nat.not_lt.2 h)).trans (congrArg (fun w : Word => s.setSys (0x1000 + 0x40 * f + v) (w &&& 0xFF3FFF3F)) ?_)
  split
  · exact ofNat_setBits_low
  · exact (BitVec.ofNat_toNat ..).trans (BitVec.setWidth_eq _)

/-! Control credits (R421). -/

theorem creditBack_none_waiting {s : State} (h : s.ctrlWait = []) (d : Nat) : s.creditBack d =
    { s with credits := Tab.set (fun _ => 0) s.credits d (Tab.get (fun _ => 0) s.credits d - 1) } := by
  unfold State.creditBack State.flushCtrl
  simp [h]

end Sys2Proof.Machine

end

/-! # What the commands and events of a migration leave (R400 to R413, R421, R435) -/

section

namespace Sys2Proof.Machine

theorem migState_withMem (s : State) (m : Memory) (f : Nat) : State.migState { s with mem := m } f = s.migState f := rfl

section

variable {s : State} {f : Nat} (hf : f < 8)
include hf

/-! A command outside its states only reports (R401). -/

theorem exec_migTrack_misplaced (h : s.migState f ≠ 0 ∨ s.vfState f ≠ 3 ∨ s.badPeer f = true) : exec (.migTrack f) s = .next (s.migStatus f 1) :=
  next_of_lt State.migTrack hf (migTrack_misplaced h)

theorem exec_migCopy_misplaced (h : s.migState f ≠ 1 ∨ s.badPeer f = true) : exec (.migCopy f) s = .next (s.migStatus f 1) :=
  next_of_lt State.migCopy hf (migCopy_misplaced h)

theorem exec_migAccept_misplaced (h : s.migState f ≠ 0 ∨ s.vfState f ≠ 2 ∨ s.badPeer f = true) : exec (.migAccept f) s = .next (s.migStatus f 1) :=
  next_of_lt State.migAccept hf (migAccept_misplaced h)

theorem exec_migEnd_misplaced (h : s.migState f ∈ [1, 2, 3, 4, 8, 9] ∨ (s.migState f = 10 ∧ s.swDone f = false) ∨
    (s.migState f = 0 ∧ s.badPeer f = true)) : exec (.migEnd f) s = .next (s.migStatus f 1) :=
  next_of_lt State.migEnd hf (migEnd_misplaced h)

/-- Under a PFUNC of 8 to 15 no command that begins something is taken (R400). -/
theorem exec_of_badPeer (h : s.badPeer f = true) : exec (.migTrack f) s = .next (s.migStatus f 1) ∧ exec (.migCopy f) s = .next (s.migStatus f 1) ∧
    exec (.migAccept f) s = .next (s.migStatus f 1) ∧ (s.migState f = 0 → exec (.migEnd f) s = .next (s.migStatus f 1)) :=
  ⟨exec_migTrack_misplaced hf (.inr (.inr h)), exec_migCopy_misplaced hf (.inr h), exec_migAccept_misplaced hf (.inr (.inr h)),
    fun hm => exec_migEnd_misplaced hf (.inr (.inr ⟨hm, h⟩))⟩

variable (hwf : s.sysregs.wf sysReset = true) (hses : (s.sessions.wf fun _ => Session.reset) = true)
include hwf hses

/-! Commands that are taken (R401, R402, R409, R413, R435). -/

theorem exec_migTrack (hm : s.migState f = 0) (hv : s.vfState f = 3) (hp : s.badPeer f = false) (hok : s.trackOk f = true) :
    ∃ t, exec (.migTrack f) s = .next t ∧ t.migState f = 1 ∧ (t.session f).tracking = true ∧
      t.mem = (s.trackDescs f).foldl (fun m d => m.store d.bitmap (List.replicate (512 * d.units) 0xFF)) s.mem :=
  ⟨_, next_of_lt State.migTrack hf (migTrack_tracks hm hv hp hok), migState_setMig hwf (by decide) (by decide),
    congrArg Session.tracking (session_setSession_same hses f _), rfl⟩

theorem exec_migCopy (hm : s.migState f = 1) (hp : s.badPeer f = false) :
    ∃ t, exec (.migCopy f) s = .next t ∧ t.migState f = 2 ∧ (t.session f).desc = 0 ∧ (t.session f).word = 0 ∧ t.mem = s.mem := by
  have hx := session_updSession hses f fun x => { x with desc := 0, word := 0, pass := [], r := 0, resends := 0 }
  exact ⟨_, next_of_lt State.migCopy hf (migCopy_copies hm hp), migState_setMig hwf (by decide) (by decide), congrArg Session.desc hx,
    congrArg Session.word hx, rfl⟩

theorem exec_migAccept (hm : s.migState f = 0) (hv : s.vfState f = 2) (hp : s.badPeer f = false) :
    ∃ t, exec (.migAccept f) s = .next t ∧ t.migState f = 8 ∧ t.session f = { Session.reset with epoch := 255 } ∧ t.mem = s.mem :=
  ⟨_, next_of_lt State.migAccept hf (migAccept_accepts hm hv hp), migState_setMig hwf (by decide) (by decide),
    session_setSession_same hses f _, rfl⟩

theorem exec_migAbort_discards (h : s.migState f = 8 ∨ (s.migState f = 9 ∧ (s.session f).switched = false)) :
    ∃ t, exec (.migAbort f) s = .next t ∧ t.migState f = 6 ∧ (t.session f).inbuf = [] ∧ t.mem = s.mem :=
  ⟨_, next_of_lt State.migAbort hf (migAbort_discards h), migState_migFailBoth hwf (by decide),
    congrArg Session.inbuf (session_updSession (migFailBoth_sessionsWf hses) f _), migFailBoth_mem ..⟩

theorem exec_migEnd (h : (s.migState f = 0 ∧ s.badPeer f = false) ∨ s.migState f = 5 ∨ (s.migState f = 10 ∧ s.swDone f = true)) :
    ∃ t, exec (.migEnd f) s = .next t ∧ t.migState f = 0 ∧ t.vfState f = s.vfState f ∧ (t.session f).tracking = false ∧ t.mem = s.mem := by
  have hx := session_updSession hses f fun x => { x.rest with tracking := false }
  exact ⟨_, next_of_lt State.migEnd hf (migEnd_ends h), migState_setMig hwf (by decide) (by decide), vfState_setMig hwf,
    congrArg Session.tracking hx, rfl⟩

/-- END after a failed migration of a saved function quiesces and thaws it (R407, R413). -/
theorem exec_migEnd_failed (hm : s.migState f = 6) (hv : s.vfState f = 6) (hh : (s.session f).held = []) :
    ∃ t, exec (.migEnd f) s = .next t ∧ t.migState f = 0 ∧ t.vfState f = 5 ∧ (t.session f).tracking = false ∧ (t.session f).frozen = none ∧
      (t.session f).forwarding = false ∧ t.mem = s.mem := by
  obtain ⟨hmem, hregs, hthaw, hfrozen⟩ := thaw_of_none_held (s := s.setVf f 5 0 0) hses hh
  have hwf' : ((s.setVf f 5 0 0).thaw f).sysregs.wf sysReset = true := by
    rw [hregs]
    exact wf_set _ _ _ hwf
  have hx := session_updSession hthaw f fun x => { x.rest with tracking := false, forwarding := false }
  exact ⟨_, next_of_lt State.migEnd hf (migEnd_quiesces hm hv), migState_setMig hwf' (by decide) (by decide),
    (vfState_setMig hwf').trans ((vfState_congr hregs f).trans (vfState_setVf hwf (by decide) (by decide) (by decide))),
    congrArg Session.tracking hx, (congrArg Session.frozen hx).trans hfrozen, congrArg Session.forwarding hx, hmem⟩

omit hses in
theorem exec_migRestore (hm : s.migState f = 0) (hv : s.vfState f = 2) (hck : s.ckEn f = true) :
    ∃ t, exec (.migRestore f) s = .next t ∧ t.migState f = 9 ∧
      t.mem = s.mem.store (s.saveArea f).1 (s.host.bytes (s.hostBase f + 2 ^ 46) (s.saveArea f).2) := by
  exact ⟨_, next_of_lt State.migRestore hf (migRestore_restores hm hv hck),
    (migState_withMem _ _ f).trans (migState_setMig hwf (by decide) (by decide)), rfl⟩

omit hses in
theorem exec_migAbort_checkpoint (h : s.migState f ∈ [1, 2, 3]) (hck : s.ckEn f = true) : exec (.migAbort f) s = .next (s.migFail f 7) := by
  simp only [List.mem_cons, List.not_mem_nil, or_false] at h
  have hfails := migAbort_fails (h.imp_right fun h => h.imp_right fun h3 => ⟨h3, .inr hck⟩)
  exact next_of_lt State.migAbort hf (hfails.trans (migFailBoth_of_ckEn hwf hck))

omit hses in
theorem exec_migAbort_fails (h : s.migState f ∈ [1, 2] ∨ (s.migState f = 3 ∧ (s.session f).image ≠ none)) :
    ∃ t, exec (.migAbort f) s = .next t ∧ t.migState f = 6 ∧ t.mem = s.mem := by
  simp only [List.mem_cons, List.not_mem_nil, or_false, or_assoc] at h
  have hfails := migAbort_fails (h.imp_right fun h => h.imp_right fun h3 => ⟨h3.1, .inl h3.2⟩)
  exact ⟨_, next_of_lt State.migAbort hf hfails, migState_migFailBoth hwf (by decide), migFailBoth_mem ..⟩

omit hwf hses in
theorem exec_migAbort_asks (h : s.migState f = 4 ∨ (s.migState f = 3 ∧ (s.session f).image = none ∧ s.ckEn f = false)) :
    ∃ t, exec (.migAbort f) s = .next t ∧ t.sysregs = s.sysregs ∧ t.mem = s.mem :=
  ⟨_, next_of_lt State.migAbort hf (migAbort_asks h), (toPeer_sent ..).sysregs, (toPeer_sent ..).mem⟩

/-! An abort of the other end (R413). -/

omit hwf hses in
theorem exec_migAbortArrival (d : Nat) : exec (.migAbortArrival f d) s = .next (s.abortArrive f d 7) :=
  next_of_lt (fun s f => s.abortArrive f d 7) hf rfl

omit hwf hses in
theorem exec_migAbortArrival_late (hck : s.ckEn f = false) (h : s.migState f = 10 ∨ (s.migState f = 9 ∧ (s.session f).switched = true)) :
    ∃ t, exec (.migAbortArrival f (s.pdev f)) s = .next t ∧ t.sysregs = s.sysregs ∧ t.mem = s.mem := by
  have hlate := abortArrive_late hck (show 7 ≠ 1 by decide) h
  exact ⟨_, (exec_migAbortArrival hf _).trans (congrArg _ hlate), (toPeer_sent ..).sysregs, (toPeer_sent ..).mem⟩

theorem exec_migAbortArrival_discards (hck : s.ckEn f = false) (h : s.migState f = 8 ∨ (s.migState f = 9 ∧ (s.session f).switched = false)) :
    ∃ t, exec (.migAbortArrival f (s.pdev f)) s = .next t ∧ t.migState f = 6 ∧ (t.session f).inbuf = [] ∧ t.mem = s.mem := by
  have hdiscards := abortArrive_discards hck (show 7 ≠ 1 by decide) h
  have hsent := toPeer_sent ((s.migFail f 7).updSession f fun x => { x with inbuf := [] }) f (.abort (s.mtag f) 7)
  have hx := session_updSession (s := s.migFail f 7) (sessionsWf_setSession hses f _) f fun x => { x with inbuf := [] }
  exact ⟨_, (exec_migAbortArrival hf _).trans (congrArg _ hdiscards), (migState_congr hsent.sysregs f).trans (migState_migFail hwf (by decide)),
    congrArg Session.inbuf ((session_congr hsent.sessions f).trans hx), hsent.mem⟩

/-! SWITCH and its acknowledgements (R411). -/

theorem exec_migSwitch (h : s.migState f = 9 ∨ s.migState f = 10) : ∃ t, exec (.migSwitch f) s = .next t ∧ (t.session f).switched = true ∧
    (t.session f).acks = [] ∧ t.migState f = s.migState f ∧ t.mem = s.mem := by
  obtain ⟨u, hsent, heq⟩ := migSwitch_asks h
  have hx := session_updSession (s := u) (by rw [hsent.sessions]; exact hses) f fun x => { x with switched := true, acks := [] }
  have huwf : u.sysregs.wf sysReset = true := by rw [hsent.sysregs]; exact hwf
  have hm := migState_migStatus (s := u.updSession f fun x => { x with switched := true, acks := [] }) (f := f) (code := 0) huwf (by decide)
  exact ⟨_, next_of_lt State.migSwitch hf heq, congrArg Session.switched hx, congrArg Session.acks hx,
    hm.trans (migState_congr hsent.sysregs f), hsent.mem⟩

omit hwf hses in
theorem exec_vdnSwitchAck (d : Nat) : exec (.vdnSwitchAck f d) s = .next (s.switchAck f d) :=
  next_of_lt (fun s f => s.switchAck f d) hf rfl

theorem exec_vdnSwitchAck_counts {d : Nat} (hs : (s.session f).switched = true) (hd : (s.session f).acks.contains d = false) :
    ∃ t, exec (.vdnSwitchAck f d) s = .next t ∧ (t.session f).acks = d :: (s.session f).acks ∧ t.migState f = s.migState f ∧
      ((s.session f).acks.length = 63 → t.swDone f = true) ∧ ((s.session f).acks.length ≠ 63 → t.swDone f = s.swDone f) := by
  have hx := congrArg Session.acks (session_setSession_same hses f { s.session f with acks := d :: (s.session f).acks })
  have hcode : bits (s.mreg f 4) 23 20 < 16 := bits_lt ..
  by_cases hlast : (s.session f).acks.length = 63
  · exact ⟨_, (exec_vdnSwitchAck hf d).trans (congrArg _ (switchAck_last hs hd hlast)), hx, migState_setMig hwf (migState_lt s f) hcode,
      fun _ => swDone_setMig hwf (migState_lt s f) hcode, fun hmore => absurd hlast hmore⟩
  · exact ⟨_, (exec_vdnSwitchAck hf d).trans (congrArg _ (switchAck_more hs hd hlast)), hx, rfl, fun h => absurd h hlast, fun _ => rfl⟩

/-! SAVE and LOAD (R407, R410). -/

theorem exec_vfSave_final (hv : s.vfState f = 5) (hm : s.migState f = 2) (h : (layoutBytes (s.capture f)).length ≤ (s.saveArea f).2) :
    ∃ t, exec (.vfSave f) s = .next t ∧ t.migState f = 3 ∧ t.vfState f = 5 ∧ (t.session f).frozen = some s.clk ∧
      (t.session f).forwarding = !s.ckEn f ∧ (t.session f).image = some (s.capture f) ∧ t.mem = (s.imageSaved f).mem := by
  have hframe := imageSaved_frame s f
  have heq := vfSave_final hv h hm
  generalize s.imageSaved f = u at *
  have hregs : u.sysregs = s.sysregs := by rw [hframe]
  have hwf0 : u.sysregs.wf sysReset = true := by rw [hregs]; exact hwf
  have hwf1 : ((u.updSession f fun x => { x with frozen := some u.clk, forwarding := !u.ckEn f, image := some (s.capture f) }).setMig f 3 0
    false).sysregs.wf sysReset = true := wf_set _ _ _ hwf0
  have hses0 : (u.sessions.wf fun _ => Session.reset) = true := by rw [hframe]; exact hses
  have hx := session_updSession hses0 f fun x => { x with frozen := some u.clk, forwarding := !u.ckEn f, image := some (s.capture f) }
  have hclk : u.clk = s.clk := by rw [hframe]
  have hck : u.ckEn f = s.ckEn f := by rw [State.ckEn, State.mreg, State.sys, hregs]; rfl
  refine ⟨_, next_of_lt State.vfSave hf heq, ?_, ?_, ?_, ?_, congrArg Session.image hx, rfl⟩
  · exact (congrArg (Sys2Proof.bits · 27 24) (mreg_vfStatus hwf1 (by decide))).trans
      (migState_setMig (s := State.updSession _ f _) hwf0 (by decide) (by decide))
  · exact (vfState_vfStatus hwf1 (by decide)).trans ((vfState_setMig (s := State.updSession _ f _) hwf0).trans ((vfState_congr hregs f).trans hv))
  · exact (congrArg Session.frozen hx).trans (congrArg some hclk)
  · exact (congrArg Session.forwarding hx).trans (congrArg not hck)

omit hses in
theorem exec_vfSave_noRoom (hv : s.vfState f = 5) (h : (s.saveArea f).2 < (layoutBytes (s.capture f)).length) :
    ∃ t, exec (.vfSave f) s = .next t ∧ t.migState f = 6 ∧ bits (t.mreg f 4) 23 20 = 2 ∧ t.mem = s.mem := by
  have hreg : ((s.migFail f 2).vfStatus f 0).mreg f 4 = (s.migFail f 2).mreg f 4 := mreg_vfStatus (wf_set _ _ _ hwf) (by decide)
  exact ⟨_, next_of_lt State.vfSave hf (vfSave_noRoom hv h), (congrArg (Sys2Proof.bits · 27 24) hreg).trans (migState_migFail hwf (by decide)),
    (congrArg (Sys2Proof.bits · 23 20) hreg).trans (migCode_setMig (s := s.updSession f Session.rest) hwf (by decide) (by decide)), rfl⟩

theorem exec_migLoad (hm : s.migState f = 9) {img : Image} (hi : s.imageIn f = some img) (hv : img.major = 1)
    (h : ∀ l ∈ img.launches, s.keyStands l.record = true ∧ (l.record.isCopy = true ∨ s.tooLarge f l.record = false)) :
    ∃ t, exec (.migLoad f) s = .next t ∧ t.migState f = 10 ∧ t.vfState f = 5 ∧ (t.session f).inbuf = [] ∧ t.mem = s.mem ∧
      t.accepted = s.accepted ++ ((s.session f).inbuf.filter fun p => vdnOk (t.vdne f p.svdn)).map (fun p => (p, RxSlot.none)) := by
  obtain ⟨u, happ, heq⟩ := applyImage_eq s f img
  have hloads := migLoad_loads hm hi hv (fun l hl => (h l hl).1) (fun l hl => (h l hl).2)
  rw [heq] at hloads
  have hwf0 : (u.setVf f 5 0 0).sysregs.wf sysReset = true := wf_set _ _ _ (happ.wf hwf)
  have hwf1 : ((u.setVf f 5 0 0).setMig f 10 0 (s.swDone f)).sysregs.wf sysReset = true := wf_set _ _ _ hwf0
  have hses0 : (u.sessions.wf fun _ => Session.reset) = true := by rw [happ.sessions]; exact hses
  obtain ⟨hsys, hinbuf, hmem, hacc⟩ := unhold_spec (s := (u.setVf f 5 0 0).setMig f 10 0 (s.swDone f)) (f := f) hwf1 hses0
  refine ⟨_, next_of_lt State.migLoad hf hloads, ?_, ?_, hinbuf, hmem.trans happ.mem, ?_⟩
  · exact (congrArg (fun w : Word => Sys2Proof.bits w.toNat 27 24) (hsys (fReg 0x0A00 f 4) (by unfold fReg; omega))).trans
      (migState_setMig hwf0 (by decide) (by decide))
  · exact (congrArg (fun w : Word => Sys2Proof.bits w.toNat 31 28) (hsys (fReg 0x0900 f 1) (by unfold fReg; omega))).trans
      ((vfState_setMig hwf0).trans (vfState_setVf (happ.wf hwf) (by decide) (by decide) (by decide)))
  · have hvdne (v : Nat) : (((u.setVf f 5 0 0).setMig f 10 0 (s.swDone f)).unhold f).vdne f v =
        ((u.setVf f 5 0 0).setMig f 10 0 (s.swDone f)).vdne f v :=
      congrArg BitVec.toNat (hsys _ (by unfold fReg; omega))
    have hsession : ((u.setVf f 5 0 0).setMig f 10 0 (s.swDone f)).session f = s.session f := session_congr happ.sessions f
    simp only [hvdne]
    rw [hacc, hsession]
    exact congrArg (· ++ _) happ.accepted

end

/-- A switch frame of a session here: matching entries are retargeted, and the session that it names commits (R411). -/
theorem exec_vdnSwitchFrame {s : State} {f g dst dfun mtag v : Nat} (hwf : s.sysregs.wf sysReset = true)
    (hses : (s.sessions.wf fun _ => Session.reset) = true) (hf : f < 8) (hg : g < 9) (hv : v < 64) :
    ∃ t, exec (.vdnSwitchFrame s.phys f dst dfun mtag) s = .next t ∧ t.vdne g v = afterSwitch s.phys f dst dfun mtag (s.vdne g v) ∧
      (s.Commits f dst dfun mtag → t.migState f = 5 ∧ (t.session f).oxEnd = some (s.clk + us (bits (s.mreg f 2) 9 0)) ∧ (t.session f).held = [] ∧
        (s.migState f = 3 → t.vfState f = 6 ∧ (t.session f).finishing = true)) ∧
      (¬ s.Commits f dst dfun mtag → t.migState f = s.migState f) ∧ t.mem = s.mem := by
  have hu : s.Retargets (s.switchEntries s.phys f dst dfun mtag) := switchEntries_retargets hwf
  have hcommits := commits_of_retargets (dst := dst) (dfun := dfun) (mtag := mtag) hf hu
  have hreg (n : Nat) (hn : n < 16) : (s.switchEntries s.phys f dst dfun mtag).mreg f n = s.mreg f n :=
    congrArg BitVec.toNat (hu.below _ (by unfold fReg; omega))
  have hmig : (s.switchEntries s.phys f dst dfun mtag).migState f = s.migState f := congrArg (Sys2Proof.bits · 27 24) (hreg 4 (by decide))
  have hentry := switchEntries_vdne (dev := s.phys) (fn := f) (dst := dst) (dfun := dfun) (mtag := mtag) hwf hg hv
  have heq := switchFrame_own hwf f dst dfun mtag
  generalize s.switchEntries s.phys f dst dfun mtag = u at *
  have huses : (u.sessions.wf fun _ => Session.reset) = true := by rw [hu.sessions]; exact hses
  have hsent := ctrlTo_sent (u.commit f dst dfun mtag) f dst dfun (.switchAck dfun)
  obtain ⟨hmem, hsys⟩ := commit_keeps hu.wf f dst dfun mtag
  refine ⟨_, next_of_lt (fun s' f => s'.switchFrame s.phys f dst dfun mtag) hf heq, ?_, fun hc => ?_, fun hc => ?_,
    hsent.mem.trans (hmem.trans hu.mem)⟩
  · have hkept : (u.commit f dst dfun mtag).vdne g v = u.vdne g v :=
      congrArg BitVec.toNat (hsys _ (by unfold fReg; omega) (by unfold fReg; omega))
    exact (congrArg BitVec.toNat (by rw [State.sys, hsent.sysregs]; rfl)).trans (hkept.trans hentry)
  · obtain ⟨h5, hox, hheld, hfinal⟩ := commit_commits hu.wf huses (hcommits.2 hc)
    rw [hu.clk, hreg 2 (by decide)] at hox
    rw [hmig] at hfinal
    rw [migState_congr hsent.sysregs, session_congr hsent.sessions, vfState_congr hsent.sysregs]
    exact ⟨h5, hox, hheld, hfinal⟩
  · rw [migState_congr hsent.sysregs, commit_foreign (mt hcommits.1 hc), hmig]

end Sys2Proof.Machine

open Sys2Proof.Machine in
/-- Settles O56: each command and event of a session by what its one operation does in each state; packets by whether they are of the session's other end,
the VDN switch entry by entry. -/
theorem migration : Obligations.Migration := by
  unfold Obligations.Migration
  refine ⟨fun s f st code sw hwf hf hst hcode => ⟨migState_setMig hwf hst hcode, migCode_setMig hwf hst hcode, swDone_setMig hwf hst hcode, rfl,
      fun k hk => sys_setMig_other hwf (by unfold fReg; omega)⟩,
    fun s f hf hwf hses => ⟨fun h => exec_migTrack_misplaced hf (h.imp_right .inl), fun h => exec_migCopy_misplaced hf (.inl h),
      fun h => exec_migAccept_misplaced hf (h.imp_right .inl), fun h => next_of_lt State.migRestore hf (migRestore_misplaced h),
      fun h => next_of_lt State.migLoad hf (migLoad_misplaced h), fun h9 h10 => next_of_lt State.migSwitch hf (migSwitch_misplaced h9 h10),
      fun h => next_of_lt State.migAbort hf (migAbort_misplaced h), fun h => exec_migEnd_misplaced hf (h.imp_right .inl), exec_of_badPeer hf,
      exec_migTrack hf hwf hses, exec_migCopy hf hwf hses, exec_migAccept hf hwf hses, exec_migRestore hf hwf, exec_migAbort_checkpoint hf hwf,
      fun h _ => exec_migAbort_fails hf hwf h, exec_migAbort_discards hf hwf hses, exec_migAbort_asks hf, exec_migEnd hf hwf hses,
      exec_migEnd_failed hf hwf hses, fun d h => ?arriveIgnored, fun h hck => ?arriveFails,
      fun h hck => exec_migAbortArrival_discards hf hwf hses hck h, fun h hck => exec_migAbortArrival_late hf hck h, exec_migSwitch hf hwf hses,
      fun d => ⟨fun h => ?ackIgnored, exec_vdnSwitchAck_counts hf hwf hses⟩, fun h => next_of_lt State.vfSave hf (vfSave_misplaced h),
      fun hv hm h => next_of_lt State.vfSave hf (vfSave_saves hv h hm), exec_vfSave_final hf hwf hses, exec_vfSave_noRoom hf hwf,
      fun img hm hi hd hw => ?image, fun h => next_of_lt State.finalPass hf (finalPass_waits h),
      fun hm hi hb hd hw he => ?final, fun hm hi => ?loadNone,
      fun img hm hi => ⟨fun h => ?loadVersion, fun hv h => ?loadKey, fun hv hk h => ?loadRoom, fun hv h => exec_migLoad hf hwf hses hm hi hv h⟩,
      fun h2 h3 h5 => next_of_lt State.seepPass hf (seepPass_idle h2 h3 h5), fun d h hck he hd hlast hi => ?word,
      fun p hp => ?oxbow, fun c hc => ?window⟩,
    fun s p mtag epoch r ipa owner pa data l hf hb => ?seepWrite,
    fun s p mtag epoch r off data hf hb h => ⟨fun hroom => ?imageWrite, fun hroom => ?imageTooLong⟩,
    fun s p mtag epoch r n image hf hb => ?release,
    fun s f img hf hwf hses h => seepClose_loadable hwf hses h,
    fun s f g dst dfun mtag v hwf hses hf hg hv hdst hfun hmtag => ?switchFrame,
    fun s f v x hwf hf hv => ?vdne,
    fun s d hwf hwait => ?credit⟩
  case arriveIgnored => exact (exec_migAbortArrival hf d).trans (congrArg _ (abortArrive_ignored h))
  case arriveFails => exact (exec_migAbortArrival hf _).trans (congrArg _ (abortArrive_fails hck (by decide) h))
  case ackIgnored => exact (exec_vdnSwitchAck hf d).trans (congrArg _ (switchAck_ignored h))
  case image =>
    have hs : s.seeps f = true := seeps_iff.2 (.inr (.inl hm))
    exact ⟨fun hck he => next_of_lt State.seepPass hf (seepPass_image_peer hs hi hd hw hck he),
      fun hck hide => next_of_lt State.seepPass hf (seepPass_image_host hs hi hd hw hck hide)⟩
  case final =>
    have hends := finalPass_ends hm hi hb hd hw he
    exact ⟨fun hck => next_of_lt State.finalPass hf (hends.trans (if_neg (ne_true_of_eq_false hck))),
      fun hck => next_of_lt State.finalPass hf (hends.trans (if_pos hck))⟩
  case loadNone => exact next_of_lt State.migLoad hf ((migLoad_noImage hm hi).trans (migStatus_eq hm 4))
  case loadVersion => exact next_of_lt State.migLoad hf ((migLoad_badVersion hm hi h).trans (migStatus_eq hm 3))
  case loadKey => exact next_of_lt State.migLoad hf ((migLoad_badKey hm hi hv h).trans (migStatus_eq hm 5))
  case loadRoom => exact next_of_lt State.migLoad hf ((migLoad_tooLarge hm hi hv hk h).trans (migStatus_eq hm 2))
  case word =>
    have hs : s.seeps f = true := seeps_iff.2 h
    exact ⟨fun hgood => next_of_lt State.seepPass hf (seepPass_posts hs hck he hd hi hlast (badLines_eq_nil_iff.2 hgood)),
      fun hbad => next_of_lt State.seepPass hf (seepPass_fails hs hck he hd hi hbad)⟩
  case oxbow =>
    subst hp
    exact ⟨fun h => congrArg _ (oxbow_forwards hf h), fun h hz hck hroom => congrArg _ (oxbow_holds hf h hz hck hroom),
      fun h hz => congrArg _ (oxbow_drops hf h hz)⟩
  case window =>
    refine ⟨oxbowWindowExpiry_early hc, fun h => ⟨_, oxbowWindowExpiry_ends hc h, ?_, ?_, rfl⟩⟩
    · exact congrArg Session.forwarding (session_setSession_same hses f _)
    · exact congrArg Session.oxEnd (session_setSession_same hses f _)
  case seepWrite =>
    have haccepts := seepAccepts_iff (s := s) (p := p) (mtag := mtag) (epoch := epoch) (r := r) hf
    refine ⟨fun h => congrArg _ (seepWrite_stale hf hb (Bool.eq_false_iff.2 (mt haccepts.1 h))),
      fun h hx => congrArg _ (seepWrite_unmapped hf hb (haccepts.2 h) hx),
      fun h hx hpa hw => ⟨fun ho hown => ?_, fun k ho hk hown => ?_, fun ho hk => ?_⟩⟩
    · exact congrArg _ (seepWrite_open hf hb (haccepts.2 h) hx hpa hw hown ho)
    · exact congrArg _ (seepWrite_owned hf hb (haccepts.2 h) hx hpa hw hown ho hk)
    · exact congrArg _ (seepWrite_noKey hf hb (haccepts.2 h) hx hpa hw ho hk)
  case imageWrite => exact congrArg _ (seepWrite_image hf hb h hroom)
  case imageTooLong => exact congrArg _ (seepWrite_imageTooLong hf hb h hroom)
  case release =>
    exact ⟨fun h => congrArg _ (seepReleaseArrive_foreign hf hb h), fun ho hp =>
      ⟨fun h => congrArg _ (seepReleaseArrive_again hf hb ho hp h), fun h h' => congrArg _ (seepReleaseArrive_stale hf hb ho hp h h'),
        fun h he => congrArg _ (seepReleaseArrive_waits hf hb ho hp h he), fun h he => congrArg _ (seepReleaseArrive_expects hf hb ho hp h he)⟩⟩
  case switchFrame =>
    obtain ⟨t, ht, hentry, hown, hforeign, hmem⟩ := exec_vdnSwitchFrame (dst := dst) (dfun := dfun) (mtag := mtag) hwf hses hf hg hv
    refine ⟨t, ht, fun h2 hphys hfun' htag => ?_, fun h2 => ?_, ⟨hown, hforeign⟩, hmem⟩
    · have hmatch : switches s.phys f mtag (s.vdne g v) = true := by simp [switches, h2, hphys, hfun', htag]
      rw [hentry, afterSwitch, if_pos hmatch]
      exact retargeted_names hdst (by omega)
    · rw [hentry, afterSwitch, if_neg (by simp [switches, h2])]
  case vdne =>
    refine ⟨fun h => (exec_vdneWrite hf hv x).trans (congrArg _ (vdneSet_refused h)), fun h =>
      ⟨_, (exec_vdneWrite hf hv x).trans (congrArg _ (vdneSet_writes h)), ?_, rfl, fun k hk => sys_setSys_other hwf _ hk⟩⟩
    rw [State.vdne, Nat.mod_eq_of_lt hv, sys_setSys_same hwf]
  case credit => exact ⟨_, congrArg Host.Outcome.next (creditBack_none_waiting hwait d), (get_set _ d d _ hwf).trans (if_pos rfl), rfl, rfl⟩

end
